-- ==== Sys2Proof/Word.lean ====
section
/-!
DEFINITION. The word types of the W7: 64-bit registers, bytes, register and predicate numbers, code targets.
-/
namespace Sys2Proof

/-- A 64-bit register value, address or code offset (00 R2, 12 R235). -/
abbrev Word := BitVec 64
/-- A byte of memory, of a record or of a packet. -/
abbrev Byte := BitVec 8
/-- The number of a general register g0 to g31 (00 R7). -/
abbrev Reg := Fin 32
/-- The number of a predicate q0 to q15 (12 R242). -/
abbrev Pred := Fin 16
/-- A logical tile number (00 R8). Shadow tiles of a paired launch (04 R79) carry `2 ^ 18` more. -/
abbrev TileId := Nat

/-- An element type code, 0 to 7 (10 R202). -/
abbrev ETy := Fin 8

/-- A TB or LOOP target: signed line offset `l` and head index `h` (12 R236, R239). -/
structure Target where
  l : BitVec 11
  h : BitVec 5
  deriving DecidableEq, Repr

end Sys2Proof
end

