-- ==== Sys2Proof/Machine/Context.lean ====
section
/-!
DEFINITION. What travels: a thread's register context, the memory accesses, messages, migrants and other packets that
events carry. Plain data only.
-/
namespace Sys2Proof.Machine

/-- One loop-stack entry (13 R263, 06 R130). -/
structure LoopEntry where
  start : BitVec 32
  stop : BitVec 32
  count : BitVec 32
  deriving DecidableEq, Repr

/-- A trap bank, x or y (09 R184). `loops` is the saved loop stack, innermost first. -/
structure Bank where
  pc : BitVec 32
  cause : BitVec 17
  val : Word
  pix : BitVec 20
  pw : BitVec 16
  loops : List LoopEntry
  sel : BitVec 2
  deriving DecidableEq, Repr

/-- Reset values of a bank (09 R184). -/
def Bank.reset : Bank :=
  { pc := 0, cause := 0, val := 0, pix := 0, pw := 0, loops := [], sel := 0 }

/-- Why a thread is parked (06 R121). The first group re-executes its instruction when it wakes (it is parked before
any effect); the second group is finished by the event that wakes it. -/
inductive ParkWhy where
  /-- empty source registers, bit n for gn; woken by an RFILL -/
  | empty (regs : BitVec 32)
  /-- instruction-cache miss on a line of the code image (12 R237) -/
  | icache (line : Nat)
  /-- outbound queue full (07 R155) -/
  | outQueue
  /-- capture buffer full (05 R94) -/
  | capture
  /-- too few range-lock entries for BOPEN, BSEND, COLLD, COLRUN (07 R164) -/
  | lockSpace
  /-- a copy in its engine queue that waits for range-lock entries (07 R164), by operation number -/
  | listed (id : Nat)
  /-- sixteen copies already issued (15 R315) -/
  | copySlots
  /-- mailboxes of the mask are all empty (14 R287) -/
  | recv (mask : BitVec 16)
  /-- DRAIN, release access or release fence waiting for earlier operations (07 R166, 08 R171) -/
  | drain (path : Nat)
  /-- migration, release or SEND waiting for the thread's posted stores to perform (06 R130, 08 R170) -/
  | stores
  /-- a release fence of scope PARTITION waiting for the thread's posted cellar stores (08 R171) -/
  | cellarStores
  /-- a read of the cellar that the instruction itself makes; its bytes arrive in `rbuf` -/
  | read
  /-- merge owner waiting for an arrived group (17 R354) or for commits and contributors (R359) -/
  | bwait (rd : Reg)
  | bclose (rd : Reg)
  /-- COLWAIT (17 R369) -/
  | colwait (rd : Reg)
  /-- a reply that writes register `rd` (loads, AMOs, FEST, replies of other tiles) -/
  | reply (rd : Reg)
  /-- a synchronising access that waits at a port for its FE state (07 R159) -/
  | fe (rd : Reg)
  /-- a long operation of an engine, by operation number, with the register its result goes to -/
  | op (id : Nat) (rd : Reg)
  /-- SEND waiting for its acceptance (04 R86) -/
  | send
  /-- group request (14 R290): 0 join, 1 leave, 2 size, 3 barrier, on a group -/
  | group (rd : Reg) (kind g : Nat)
  /-- RED contribution waiting for its slot (17 R370) -/
  | red (rd : Reg) (group : Nat)
  /-- REDG waiting for the result of its reduction (17 R371) -/
  | redg (rd : Reg) (qd : Pred) (group num : Nat)
  /-- TASK waiting for a packet (06 R135) -/
  | task
  /-- CKPT waiting for the commit of its boundary (14 R294) -/
  | ckpt (rd : Reg)
  /-- QPOST waiting for the control die (14 R296) -/
  | qpost (rd : Reg)
  /-- BSEND waiting for its bind and its marker (17 R352) -/
  | bsend
  /-- a thread that has arrived with a work packet, waiting for the packet's doublewords 6 and 7 (06 R130) -/
  | packet
  /-- CSRR of time waiting until a commit frees log records (05 R102) -/
  | logRec
  deriving DecidableEq, Repr

/-- A parked thread: the reason, the token its wake names, the NH of the line it was fetched from (for the end step)
and the cycle it parked in. -/
structure Park where
  why : ParkWhy
  tok : Nat
  nh : Nat
  since : Nat
  deriving DecidableEq, Repr

/-- A SEND that is pending (09 R194): target, mailbox, tag, payload taken at issue, bounces so far. -/
structure PendSend where
  ltn : BitVec 18
  mbox : Fin 16
  tag : BitVec 16
  payload : List Byte
  bounces : Nat
  deriving DecidableEq, Repr

/-- A group the thread belongs to, with the number of RED contributions it has made on it and the numbers of those whose result it has not taken (06 R125, 04 R84, 17 R371). -/
structure Membership where
  group : Nat
  reds : Nat
  due : List Nat
  deriving DecidableEq, Repr

/-- A trap waiting to be taken at a thread: code, detail, value. -/
structure TrapInfo where
  code : Nat
  detail : Nat
  val : Word
  deriving DecidableEq, Repr

/-- A thread's register context: everything a slot holds (INVENTORY, Per thread). `waits` is one more than the tile cycle
since which it waits in a masked slot, 0 if it does not (01 R20); `fault` a fault held for the next turn (09 R201); `sigLen` the
bytes its chain has folded, `copies` the tiles, operations and chain lengths of its copies of a paired launch (03 R64); `carried` the live
mask of the migrant image it came in (06 R130). -/
structure Thread where
  pc : Word
  via : Word
  regs : Vector Word 32
  full : BitVec 32
  pw : BitVec 16
  loops : List LoopEntry
  home : BitVec 18
  hslot : BitVec 4
  lix : BitVec 4
  launch : BitVec 32
  pix : BitVec 20
  vlen : BitVec 20
  frm : BitVec 3
  fflags : BitVec 5
  tfmt : Word
  tscl : Word
  held : Bool
  pkslot : BitVec 16
  blim : BitVec 32
  sig : Word
  splim : Word
  spov : Word
  spovlim : Word
  fetimeo : BitVec 33
  feretry : BitVec 8
  sndretry : BitVec 16
  bankX : Bank
  bankY : Bank
  xvec : BitVec 32
  xlvl : BitVec 2
  wrote : Bool
  groups : List Membership
  park : Option Park
  pend : Option PendSend
  skip : Bool
  rbuf : List (Nat × Word)
  arrived : Option (Word × BitVec 32)
  waits : Nat
  fault : Option TrapInfo
  sigLen : Nat
  copies : List (Nat × Nat × Nat)
  carried : BitVec 32
  deriving DecidableEq, Repr

/-- Every field at its reset value; the values the spec leaves open are zero (log 1). -/
def Thread.reset : Thread :=
  { pc := 0, via := 0, regs := Vector.replicate 32 0, full := BitVec.allOnes 32, pw := 0, loops := []
    home := 0, hslot := 0, lix := 0, launch := 0, pix := 0, vlen := 0, frm := 0, fflags := 0
    tfmt := 0, tscl := 0, held := false, pkslot := 0, blim := 0x7F800000, sig := 0
    splim := 0, spov := 0, spovlim := 0, fetimeo := 0x1000000, feretry := 64, sndretry := 256
    bankX := Bank.reset, bankY := Bank.reset, xvec := 0, xlvl := 0, wrote := false, groups := []
    park := none, pend := none, skip := false, rbuf := [], arrived := none, waits := 0
    fault := none, sigLen := 0, copies := [], carried := 0 }

/-- The kinds of memory access a port performs (07 R148, R158, R161). -/
inductive AccKind where
  | load | store | ldc | ldf | stp | stf | femt | fest
  | amo (op : Fin 10)
  deriving DecidableEq, Repr

/-- One access: kind, size in bytes, whether a load sign-extends, result register, the address the program gave (for
xval), the data or operand, the CAS comparand, whether it is a release, and the time and retry limits of the issuing thread. -/
structure Access where
  kind : AccKind
  size : Nat
  signed : Bool
  rd : Reg
  addr : Word
  data : Word
  cmp : Word
  rl : Bool
  timeo : Nat
  retry : Nat
  deriving DecidableEq, Repr

/-- What a reply carries back to the parked thread: a value for its register, an acknowledgement, or a trap. -/
inductive Reply where
  | value (v : Word)
  | ack
  | trap (t : TrapInfo)
  /-- a predicate result -/
  | pred (q : Pred) (b : Bool)
  /-- a fault of a long operation at progress point `pix` -/
  | fault (t : TrapInfo) (pix : Nat)
  deriving DecidableEq, Repr

/-- A parked thread as wakes name it: the tile it is on and its park token. -/
structure Ref where
  tile : TileId
  tok : Nat
  deriving DecidableEq, Repr

/-- A message in a mailbox or in flight (04 R86, 14 R285, R287). -/
structure Msg where
  src : BitVec 18
  mbox : Fin 16
  tag : BitVec 16
  payload : List Byte
  deriving DecidableEq, Repr

/-- A read through the gateway: context, host window or cellar, virtual address, bytes, sign extension, whether its
value goes to the register the thread parked for (otherwise into the thread's read buffer), whether it uses the read
cache, and the fault its translation met. -/
structure GateRead where
  ctx : Nat
  host : Bool
  va : Nat
  addr : Word
  size : Nat
  signed : Bool
  toReg : Bool
  cached : Bool
  fault : Nat
  deriving DecidableEq, Repr

end Sys2Proof.Machine
end

