-- ==== Sys2Proof/Machine/Memory.lean ====
section
/-!
DEFINITION. Byte memories and keyed tables as sorted lists, with the operations on them. A memory lists no byte that an
unlisted address reads as (0, log 2); an access wider than a byte is built here, little-endian (00 R2).
-/
namespace Sys2Proof.Machine

/-! ### Sorting -/

/-- An element in its place in a sorted list, before the first it is not above. -/
def insertBy {α : Type} (le : α → α → Bool) (x : α) (l : List α) : List α :=
  match l with
  | [] => [x]
  | y :: ys => if le x y then x :: y :: ys else y :: insertBy le x ys

/-- A list in order; equal elements keep theirs. -/
def sortBy {α : Type} (le : α → α → Bool) (l : List α) : List α := l.foldr (insertBy le) []

/-- A memory: (address, byte) pairs, addresses strictly rising, no byte 0 listed. -/
abbrev Memory := List Host.Cell

/-- What an unlisted address reads as (log 2). -/
def Memory.unlisted : Byte := 0

/-- The canonical form: addresses strictly rising and no entry equal to an unlisted byte. -/
abbrev Memory.wf (m : Memory) : Prop :=
  m.Pairwise (fun x y => x.1 < y.1) ∧ ∀ c ∈ m, c.2 ≠ Memory.unlisted

/-- The byte at address `a`. -/
def Memory.get (m : Memory) (a : Nat) : Byte :=
  match m with
  | [] => Memory.unlisted
  | c :: m => if c.1 = a then c.2 else Memory.get m a

/-- Insertion of a byte that is to be listed. -/
def Memory.insert (m : Memory) (a : Nat) (b : Byte) : Memory :=
  match m with
  | [] => [(a, b)]
  | c :: m => if a < c.1 then (a, b) :: c :: m else if c.1 = a then (a, b) :: m else c :: Memory.insert m a b

/-- The memory with byte `b` at address `a`. -/
def Memory.set (m : Memory) (a : Nat) (b : Byte) : Memory :=
  if b = Memory.unlisted then m.filter (fun c => c.1 != a) else Memory.insert m a b

/-- The `n` bytes from address `a` on. -/
def Memory.bytes (m : Memory) (a n : Nat) : List Byte :=
  match n with
  | 0 => []
  | n + 1 => m.get a :: Memory.bytes m (a + 1) n

/-- The memory with the bytes `bs` from address `a` on. -/
def Memory.setBytes (m : Memory) (a : Nat) (bs : List Byte) : Memory :=
  match bs with
  | [] => m
  | b :: bs => Memory.setBytes (m.set a b) (a + 1) bs

/-- The little-endian number that bytes spell (00 R2). -/
def leNat (bs : List Byte) : Nat :=
  match bs with
  | [] => 0
  | b :: bs => b.toNat + 256 * leNat bs

/-- The `n` little-endian bytes of a number. -/
def leBytes (n v : Nat) : List Byte :=
  match n with
  | 0 => []
  | n + 1 => BitVec.ofNat 8 v :: leBytes n (v / 256)

/-- Mem(a, n) as a number (00 R7). -/
def Memory.read (m : Memory) (a n : Nat) : Nat := leNat (m.bytes a n)

/-- Mem(a, n) ← v (00 R7). -/
def Memory.write (m : Memory) (a n v : Nat) : Memory := m.setBytes a (leBytes n v)

/-- A table: values by number, numbers rising. -/
abbrev Table (α : Type) := List (Nat × α)

/-- The entry of number `k`, if listed. -/
def Table.get? {α : Type} (t : Table α) (k : Nat) : Option α :=
  match t with
  | [] => none
  | c :: t => if c.1 = k then some c.2 else Table.get? t k

/-- The table with entry `v` at number `k`. -/
def Table.set {α : Type} (t : Table α) (k : Nat) (v : α) : Table α :=
  match t with
  | [] => [(k, v)]
  | c :: t => if k < c.1 then (k, v) :: c :: t else if c.1 = k then (k, v) :: t else c :: Table.set t k v

/-- The table without entry `k`. -/
def Table.erase {α : Type} (t : Table α) (k : Nat) : Table α := t.filter (fun c => c.1 != k)

/-- The table with `f` applied to every value. -/
def Table.mapVals {α : Type} (t : Table α) (f : α → α) : Table α := t.map (fun c => (c.1, f c.2))

/-- The numbers listed. -/
def Table.keys {α : Type} (t : Table α) : List Nat := t.map Prod.fst

/-- A number set as a list without repeats: with `k` in it. -/
def setAdd (l : List Nat) (k : Nat) : List Nat := if l.contains k then l else l ++ [k]

/-- The set without `k`. -/
def setDel (l : List Nat) (k : Nat) : List Nat := l.filter (fun x => x != k)

/-! ### CRC-32C -/

/-- One byte into a CRC-32C (reflected polynomial 0x82F63B78). -/
def crc32cByte (c : BitVec 32) (b : Byte) : BitVec 32 :=
  (List.range 8).foldl (fun c _ => if c.getLsbD 0 then (c >>> 1) ^^^ 0x82F63B78 else c >>> 1) (c ^^^ b.setWidth 32)

/-- The CRC-32C of bytes that follow others, from the CRC of those (log 22). -/
def crc32cMore (c : BitVec 32) (bs : List Byte) : BitVec 32 := ~~~(bs.foldl crc32cByte (~~~c))

/-- CRC-32C of bytes (log 22). -/
def crc32c (bs : List Byte) : BitVec 32 := crc32cMore 0 bs

end Sys2Proof.Machine
end

