-- ==== Sys2Proof/Machine/EngineState.lean ====
section
/-!
DEFINITION. The state of a tile's engines: ownership of accumulator tiles, queued operations, the merge round, the
collective graph; and the operands that events carry.
-/
namespace Sys2Proof.Machine

/-- A byte range [lo, hi) of the pool that an operation holds in the range-lock table (07 R164). -/
structure Range where
  lo : Nat
  hi : Nat
  write : Bool
  deriving DecidableEq, Repr

/-- States of an accumulator handle (16 R323). -/
inductive OwnState where
  | free | owned | pinned | spilled | staged
  deriving DecidableEq, Repr

/-- An ownership entry (16 R323). -/
structure OwnEntry where
  state : OwnState
  att : Bool
  owner : BitVec 4
  inv : Bool
  pin : Nat
  ovf : Nat
  deriving DecidableEq, Repr

/-- An entry as PARTITION CREATE leaves it: 0, with pin index 15 (16 R323). -/
def OwnEntry.reset : OwnEntry := { state := .free, att := false, owner := 0, inv := false, pin := 15, ovf := 0 }

/-- A pin record (16 R324), with the poolcfg it was made under (16 R327). -/
structure PinRec where
  key : BitVec 32
  tokens : BitVec 32
  spill : Nat
  first : Nat
  cnt : Nat
  bound : Bool
  bad : Bool
  cfg : Word
  deriving DecidableEq, Repr

/-- One dimension of a layout record (15 R308): extent, window, signed origin and stride. -/
structure Dim where
  ext : Nat
  win : Nat
  org : Int
  str : Int
  deriving DecidableEq, Repr

/-- A layout record as the copy engine keeps it (15 R308, R313). -/
structure Layout where
  base : Word
  ty : ETy
  rank : Nat
  ilv : Nat
  gran : Nat
  round : Nat
  sat : Bool
  fill : Bool
  fillbits : Nat
  dims : List Dim
  deriving DecidableEq, Repr

/-- The fields of a delta descriptor (16 R340). -/
structure DeltaDesc where
  q : Nat
  k : Nat
  v : Nat
  g : Nat
  o : Nat
  dk : Nat
  dv : Nat
  c : Nat
  inTy : ETy
  outTy : ETy
  qp : Nat
  kp : Nat
  vp : Nat
  op : Nat
  deriving DecidableEq, Repr

/-- A long operation, with the operand values it was issued with. -/
inductive Job where
  /-- VEC member `f`: bases a, b, c, e, scalar c, n elements -/
  | vec (f : Nat) (ts td : ETy) (rm : Nat) (sc sat : Bool) (a b c e : Nat) (cv : Word) (n : Nat)
  /-- VRED member `f` -/
  | red (f : Nat) (ty : ETy) (a b n : Nat) (rd : Reg)
  /-- VGAT member `f`: table base, contiguous base, index vector -/
  | gat (f : Nat) (ty : ETy) (x32 : Bool) (rm : Nat) (t0 lin x n : Nat)
  /-- TLD of elements of `sz` bytes -/
  | tld (sz a b pitch : Nat)
  | accLd (h n : Nat) (ty : ETy) (a p : Nat)
  | accSt (h n : Nat) (ty : ETy) (a p : Nat)
  | accAtt (h n pin : Nat) (qd : Pred)
  | accSpl (h n pin : Nat)
  /-- MMA or MMAG: combination, handle, bases, index vector for MMAG, pitches, K, the packet's tfmt and tscl -/
  | mma (comb : Nat) (acc col : Bool) (h a b : Nat) (c : Option Nat) (pa pb k : Nat) (tfmt tscl : Word)
  | delta (h : Nat) (d : DeltaDesc)
  | dread (h : Nat) (d : DeltaDesc)
  | dscl (h n : Nat) (alpha : Nat)
  | swapt (a len partner : Nat)
  /-- CPY 0, CPYS 1, CPYX 2 -/
  | copy (f ticket path : Nat) (src dst : Layout) (z : Bool)
  | bnorm (g n : Nat) (rd : Reg)
  /-- the commit of larder group `k` into the `n` tiles of the total -/
  | commit (k n : Nat)
  /-- COLLD from graph address `ga` to work area `wa` -/
  | colld (rd : Reg) (ga : Word) (wa : Nat)
  /-- ranges that no engine runs: the round record, the work area, a round's bases, a BSEND's source -/
  | hold
  deriving DecidableEq, Repr

/-- A range a copy needs in another tile's table, and whether it holds it (07 R164). -/
structure FarRange where
  tile : Nat
  range : Range
  granted : Bool
  deriving DecidableEq, Repr

/-- An element that a copy writes: its position in traversal order, its exact address, its bytes (15 R309). -/
structure Put where
  elem : Nat
  addr : Int
  bytes : List Byte
  deriving DecidableEq, Repr

/-- A fault of a copy (15 R315): element, TRANSLATION detail, which record's side it arose on (1 the source, 2 the destination), the
device time. -/
structure CopyFault where
  elem : Nat
  detail : Nat
  side : Nat
  time : Nat
  deriving DecidableEq, Repr

/-- An operation in an engine queue, oldest first. `slot` is the slot of the thread parked on it, `cmd` the queue and position of the command it carries out, `pix` the progress
point it starts at, `run` its running value, `buf` the bytes SWAPT sends, `asked` whether its
start is on the agenda, `started` the cycle it started in; `listed` whether its ranges are in the range-lock
table (07 R164); `sigAt` the length of its thread's chain when a paired launch's copy was issued (03 R64), `wrote` what such a copy
has written; `fault` the fault a copy has met. -/
structure EngOp where
  id : Nat
  slot : Option (Fin 16)
  launch : BitVec 32
  tid : Nat
  cmd : Option (Nat × Nat)
  job : Job
  ranges : List Range
  far : List FarRange
  pix : Nat
  run : Int
  buf : List Byte
  asked : Bool
  started : Option Nat
  issued : Nat
  listed : Bool
  sigAt : Option Nat
  wrote : List Put
  fault : Option CopyFault
  deriving DecidableEq, Repr

/-- A part of a copy under way (15 R312, R320): the issuing tile, operation, launch and context; member, records, elements [lo, hi),
the element the operation started from, whether a fault has occurred before them, whether the launch is paired; the stage: 0 at the
source, 1 at the destination, 2 at the source of a CPYX, 3 back at the issuing tile; what is to be written, and for CPYX what goes
back; what was written outside pools; its events; a fault; pages the walker has looked up, whether the source is read-only, the ticket and whether it is compressed. -/
structure Xfer where
  tile : TileId
  id : Nat
  launch : BitVec 32
  ctx : Nat
  f : Nat
  src : Layout
  dst : Layout
  lo : Nat
  hi : Nat
  start : Nat
  bad : Bool
  sig : Bool
  stage : Nat
  puts : List Put
  back : List Put
  wrote : List Put
  ovf : Nat
  inv : Bool
  fault : Option CopyFault
  walked : List (Bool × Nat)
  ro : Bool
  ticket : Nat
  z : Bool
  deriving DecidableEq, Repr

/-- A larder group of a merge round (17 R348): states 0 free, 1 bound, 2 arrived, 3 waited, 4 normed, 5 sealed; `parts` counts its
data packets, four to a tile. -/
structure Group where
  first : Nat
  state : Nat
  parts : Nat
  mark : Bool
  id : Nat
  norm : Nat
  scale : Nat
  src : Option (Nat × Nat)
  deriving DecidableEq, Repr

/-- The open merge round of a tile (17 R347, R348): the round record's fields, the record's address, the order of
arrivals, and the operation that holds the record's range. -/
structure Round where
  area : Nat
  op : Nat
  round : Nat
  nids : Nat
  total : Nat
  n : Nat
  bnext : Nat
  committed : Nat
  absent : Nat
  rejected : Nat
  refused : Nat
  owner : BitVec 4
  ctiles : Nat
  groups : List Group
  seen : List Nat
  done : List Nat
  order : List Nat
  busy : Bool
  deriving DecidableEq, Repr

/-- An operation of a collective graph and its state (17 R362, R363): st 0 waiting, 1 fired or ready, 2 done. `acked`
lists the chunks acknowledged (SEND) or taken (receive). -/
structure CollOp where
  lo : Word
  hi : Word
  deps : Nat
  st : Nat
  bytes : Nat
  acked : List Nat
  deriving DecidableEq, Repr

/-- The loaded graph of a tile (17 R363): work area, header, operations, the round. States as the work area's.
`held` is a round that waits for the thread's stores (17 R366); `seq` numbers rounds for their time-outs. -/
structure Coll where
  area : Nat
  op : Nat
  launch : BitVec 32
  h0 : Word
  h1 : Word
  hash : Nat
  ops : List CollOp
  state : Nat
  round : Nat
  ndone : Nat
  left : Nat
  ends : Nat
  mop : Nat
  mhash : Nat
  bases : List Word
  held : Option (Nat × Nat × BitVec 32)
  rangeOp : Option Nat
  ran : Bool
  deriving DecidableEq, Repr

/-- A chunk of a collective (17 R367): sender, round, sending operation, hash, buffer offset, data. -/
structure Chunk where
  src : Nat
  span : Bool
  round : Nat
  op : Nat
  hash : Nat
  off : Nat
  idx : Nat
  data : List Byte
  deriving DecidableEq, Repr

/-- A reduction contribution or partial (04 R84, R85): group, reduction number, operation and type, value, how many
contributions, their tiles' bitmap, mismatch. -/
structure Partial where
  ctx : Nat
  group : Nat
  num : Nat
  op : Nat
  ty : Nat
  value : Word
  count : Nat
  map : Word
  mismatch : Bool
  deriving DecidableEq, Repr

/-- A launch-table entry (06 R126), whether its launch is paired (03 R64), and the reloadable extents that the launch has recorded (05 R97):
offset, length, cellar source. -/
structure LaunchEntry where
  code : Word
  limit : BitVec 32
  entry : BitVec 32
  live : Word
  nlive : BitVec 32
  pkq : Word
  lid : BitVec 32
  paired : Bool
  extents : List (Nat × Nat × Nat)
  deriving DecidableEq, Repr

def LaunchEntry.reset : LaunchEntry :=
  { code := 0, limit := 0, entry := 0, live := 0, nlive := 0, pkq := 0, lid := 0, paired := false, extents := [] }

/-- A posted store in the outbound queue (07 R155): the thread that issued it, the address it named, where the
gateway's translation sent it (or the detail of its TRANSLATION fault), size, data, issue cycle. -/
structure Posted where
  id : Nat
  launch : BitVec 32
  tid : Nat
  addr : Word
  host : Bool
  pa : Nat
  fault : Nat
  size : Nat
  data : Word
  issued : Nat
  deriving DecidableEq, Repr

/-- A crash record (09 R188). -/
structure CrashRec where
  ltn : Nat
  slot : Nat
  lix : Nat
  nlev : Nat
  lid : BitVec 32
  ivn : BitVec 48
  time : Word
  cause0 : BitVec 17
  cause1 : BitVec 17
  cause2 : BitVec 17
  pc0 : BitVec 32
  pc1 : BitVec 32
  pc2 : BitVec 32
  val : Word
  tid : Nat
  crc : BitVec 32
  deriving DecidableEq, Repr

/-- A captured line as it goes to the buddy (05 R94): line number, bytes, the FE bits of its doublewords. A line of the ctx region has no
bytes here: the context that it carries is kept whole (log 25). -/
structure MirrorLine where
  line : Nat
  bytes : List Byte
  empty : List Nat
  deriving DecidableEq, Repr

/-- The operands of an event: the packet it delivers, the key of its timer, or the input it carries. -/
inductive Payload where
  /-- no operand -/
  | none
  /-- a number: a chiplet, context, queue slot, span port or device number -/
  | num (n : Nat)
  /-- numbers -/
  | nums (n m : Nat)
  | nums3 (n m p : Nat)
  /-- a logical tile -/
  | tile (t : TileId)
  /-- a logical tile and a number -/
  | tileNum (t : TileId) (n : Nat)
  /-- a line of a launch's code image on a tile: tile, launch index, line offset -/
  | line (t : TileId) (lix line : Nat)
  /-- a parked thread -/
  | ref (r : Ref)
  /-- a parked thread and what comes back to it -/
  | reply (r : Ref) (v : Reply)
  /-- a gateway read of a parked thread -/
  | gate (r : Ref) (g : GateRead)
  /-- a request at a tile port: target tile, pool offset, access, requesting thread, failed wake-ups, cycle of issue -/
  | port (t : TileId) (off : Nat) (a : Access) (src : Ref) (fails issued : Nat)
  /-- a doubleword whose waiters are looked at, and whether another tile changed its FE bit -/
  | dword (t : TileId) (dw : Nat) (other : Bool)
  /-- a posted store of a tile on its way to memory -/
  | stored (t : TileId) (p : Posted)
  /-- a posted store of a tile that memory has performed, or refused with a TRANSLATION detail, and when -/
  | posted (t : TileId) (id fault time : Nat)
  /-- an engine operation of a tile -/
  | op (t : TileId) (id : Nat)
  /-- a migrant: target tile, tile it left, its thread with what the header carries, address for xval -/
  | migrant (t src : TileId) (th : Thread) (va : Word)
  /-- a location notice: home tile, home context, tile -/
  | notice (t : TileId) (hslot : Nat) (loc : TileId)
  /-- an RFILL: tile it goes to, target tid, register, value, launch, and the tile that returned it (06 R133) -/
  | fill (t : TileId) (tid : Nat) (r : Reg) (v : Word) (launch : BitVec 32) (back : Option TileId)
  /-- a message: target tile, the message, the sender -/
  | msg (t : TileId) (m : Msg) (src : Ref)
  /-- a group request: cluster, context, group, kind 0 join, 1 leave, 2 size, 3 an arrival at a barrier, from 4 on an answer that is
  known, member cluster, the thread's REDs on the group, its tid, the parked thread -/
  | group (cl ctx g kind member reds tid : Nat) (src : Ref)
  /-- a packet of a group to a cluster -/
  | cluster (cl ctx g member : Nat)
  /-- a contribution or partial to a cluster, with its thread -/
  | part (cl : Nat) (p : Partial) (member : Nat) (src : Option Ref)
  /-- a part of a copy at tile `t`, or at memory -/
  | xfer (t : Option TileId) (x : Xfer)
  /-- bytes that reach a pool -/
  | bytes (t : TileId) (off : Nat) (bs : List Byte)
  /-- of a SWAPT, to tile `t`: with `n` = 0 the word that the partner has started, and its progress point; else line `idx` of `n`, or
  no bytes if none was left to send (14 R293) -/
  | swap (t src : TileId) (n idx : Nat) (bs : List Byte)
  /-- a spill record on its way to the cellar: tile, operation of the ACCSPL, pin record, address, bytes (16 R333, R334) -/
  | spillOut (t : TileId) (id : Option Nat) (pin va : Nat) (bs : List Byte)
  /-- it is written, or refused with a TRANSLATION detail -/
  | spillAck (t : TileId) (id : Option Nat) (pin fault : Nat)
  /-- a part of a spill record for an ACCATT: tile, operation, address, bytes, TRANSLATION detail (16 R332) -/
  | spillIn (t : TileId) (id : Nat) (a : Word) (bs : List Byte) (fault : Nat)
  /-- a range request of a copy: other tile, issuing tile, operation, launch, ranges (07 R164) -/
  | range (t src : TileId) (id : Nat) (launch : BitVec 32) (rs : List Range)
  /-- its answer: issuing tile, other tile, operation, whether the ranges are registered -/
  | grant (t src : TileId) (id : Nat) (ok : Bool)
  /-- a waiter to withdraw: tile, its thread -/
  | withdraw (t : TileId) (r : Ref)
  /-- a merge packet: owner tile, contributor tile, slot, round, id, n, tile index, data -/
  | merge (t src : TileId) (id round cid n idx : Nat) (data : List Byte)
  /-- a chunk to a tile -/
  | chunk (t : TileId) (c : Chunk)
  /-- an acknowledgement or resend of a chunk: tile, round, operation, index, bytes -/
  | chunkAck (t : TileId) (round op idx len : Nat)
  /-- a command: queue slot, ring position -/
  | cmd (q pos : Nat)
  /-- a frame to a peer: tile, peer index, type, seq, round, what follows the header (02 R36) -/
  | frame (t : TileId) (peer type seq round : Nat) (rest : List Byte)
  /-- bytes at an address: link, address, bytes -/
  | data (link addr : Nat) (bs : List Byte)
  /-- bytes of address `a` that a parked thread asked for -/
  | buffer (r : Ref) (a : Nat) (bs : List Byte)
  /-- words -/
  | words (n : Nat) (ws : List Word)
  /-- a populated context (05 R384): tile, context number, launch index, launch-table entry, thread, poolcfg, zero fill -/
  | populate (t : TileId) (slot lix : Nat) (e : LaunchEntry) (th : Thread) (cfg : Word) (zero : Bool)
  /-- the end of a thread at the control die: tile, thread -/
  | ended (t : TileId) (th : Thread)
  /-- a launch leaves a tile: its tile, launch index, launch -/
  | dropped (t : TileId) (lix : Nat) (launch : BitVec 32)
  /-- a third-level trap: its router, record, context -/
  | crash (cl : Nat) (r : CrashRec) (ctx : Nat)
  /-- a line of a boundary: the buddy it goes to, ivn, line -/
  | mirror (t : TileId) (ivn : Nat) (l : MirrorLine)
  /-- a QPOST: the thread, its context, the queue slot, the command -/
  | post (r : Ref) (ctx q : Nat) (bs : List Byte)
  /-- a signed reading of a chiplet -/
  | reading (c : Nat) (v : Int)
  deriving DecidableEq, Repr

end Sys2Proof.Machine
end

