-- ==== Sys2Proof/Syntax.lean ====
section
/-!
DEFINITION. The whole syntax: one constructor of `Instr` per row of the opcode table. The first 228 rows are the
instructions of a code image, the others the events of the machine's other agents (95). The operands of an instruction
are its fields, typed by their ranges. An event has no encoding and no operand fields: the packet, timer key or input it
carries is the `Payload` beside it on the agenda, which the step puts into the state before the event takes place
(log 5).
-/
namespace Sys2Proof

/-- The S field of an AMO: `d` selects .D, `aq` and `rl` the acquire and release bits (14 R280). -/
structure AmoFlags where
  d : Bool
  aq : Bool
  rl : Bool
  deriving DecidableEq, Repr

/-- The fields of OP 0x30 VEC (15 R304). -/
structure VecOps where
  ts : ETy
  td : ETy
  rm : Fin 4
  a : Reg
  b : Reg
  c : Reg
  e : Reg
  sc : Bool
  sat : Bool
  deriving DecidableEq, Repr

/-- The fields of OP 0x32 VGAT (15 R307); `x32` selects 32-bit indices. -/
structure GatOps where
  ty : ETy
  x32 : Bool
  a : Reg
  b : Reg
  c : Reg
  deriving DecidableEq, Repr

/-- The fields of OP 0x39 MMA (16 R335, R336). -/
structure MmaOps where
  comb : Fin 5
  acc : Bool
  col : Bool
  a : Reg
  b : Reg
  k : Reg
  h : BitVec 7
  pa : BitVec 16
  pb : BitVec 15
  deriving DecidableEq, Repr


/-- Every instruction and event of the opcode table, one constructor per row. -/
inductive Instr where
  /-- NOP (R272): Changes nothing except PC. -/
  | nop
  /-- EXIT (R272): Ends the thread at any trap level. -/
  | exit
  /-- YIELD (R272): Gives up the thread's next turn. -/
  | yield
  /-- BRK (R272): Raises BREAK. -/
  | brk
  /-- TRAP (R272): Raises SOFT with detail n. -/
  | trap (n : Fin 32)
  /-- RETT (R185): Returns from a trap level through bank x or y. -/
  | rett
  /-- ADD (R248): rd ← a + b. -/
  | add (w : Bool) (rd ra rb : Reg)
  /-- SUB (R248): rd ← a − b. -/
  | sub (w : Bool) (rd ra rb : Reg)
  /-- MUL (R248): rd ← the low 64 bits of a·b. -/
  | mul (w : Bool) (rd ra rb : Reg)
  /-- MULH (R248): rd ← the high bits of the signed product. -/
  | mulh (w : Bool) (rd ra rb : Reg)
  /-- MULHU (R248): rd ← the high bits of the unsigned product. -/
  | mulhu (w : Bool) (rd ra rb : Reg)
  /-- DIV (R248): rd ← the signed quotient. -/
  | div (w : Bool) (rd ra rb : Reg)
  /-- DIVU (R248): rd ← the unsigned quotient. -/
  | divu (w : Bool) (rd ra rb : Reg)
  /-- REM (R248): rd ← the signed remainder. -/
  | rem (w : Bool) (rd ra rb : Reg)
  /-- REMU (R248): rd ← the unsigned remainder. -/
  | remu (w : Bool) (rd ra rb : Reg)
  /-- AND (R248): rd ← a & b. -/
  | and (w : Bool) (rd ra rb : Reg)
  /-- OR (R248): rd ← a | b. -/
  | or (w : Bool) (rd ra rb : Reg)
  /-- XOR (R248): rd ← a ^ b. -/
  | xor (w : Bool) (rd ra rb : Reg)
  /-- ANDN (R248): rd ← a & ~b. -/
  | andn (w : Bool) (rd ra rb : Reg)
  /-- SHL (R248): Shifts left. -/
  | shl (w : Bool) (rd ra rb : Reg)
  /-- SHR (R248): Shifts right, logical. -/
  | shr (w : Bool) (rd ra rb : Reg)
  /-- SAR (R248): Shifts right, arithmetic. -/
  | sar (w : Bool) (rd ra rb : Reg)
  /-- ROT (R248): Rotates right. -/
  | rot (w : Bool) (rd ra rb : Reg)
  /-- MIN (R248): rd ← the signed lesser. -/
  | min (w : Bool) (rd ra rb : Reg)
  /-- MAX (R248): rd ← the signed greater. -/
  | max (w : Bool) (rd ra rb : Reg)
  /-- MINU (R248): rd ← the unsigned lesser. -/
  | minu (w : Bool) (rd ra rb : Reg)
  /-- MAXU (R248): rd ← the unsigned greater. -/
  | maxu (w : Bool) (rd ra rb : Reg)
  /-- ADDI (R249): rd ← a + imm. -/
  | addi (rd ra : Reg) (imm : BitVec 11)
  /-- ANDI (R249): rd ← a & imm. -/
  | andi (rd ra : Reg) (imm : BitVec 11)
  /-- ORI (R249): rd ← a | imm. -/
  | ori (rd ra : Reg) (imm : BitVec 11)
  /-- XORI (R249): rd ← a ^ imm. -/
  | xori (rd ra : Reg) (imm : BitVec 11)
  /-- SHLI (R249): Shifts left by an immediate. -/
  | shli (rd ra : Reg) (n : BitVec 6)
  /-- SHRI (R249): Shifts right, logical, by an immediate. -/
  | shri (rd ra : Reg) (n : BitVec 6)
  /-- SARI (R249): Shifts right, arithmetic, by an immediate. -/
  | sari (rd ra : Reg) (n : BitVec 6)
  /-- MULI (R249): rd ← the low 64 bits of a·imm. -/
  | muli (rd ra : Reg) (imm : BitVec 11)
  /-- LI_16 (R250): Loads a 16-bit immediate, sign- or zero-extended. -/
  | li16 (zx : Bool) (rd : Reg) (imm : BitVec 16)
  /-- LI_32 (R250): Loads a 32-bit immediate, sign- or zero-extended. -/
  | li32 (zx : Bool) (rd : Reg) (imm : BitVec 32)
  /-- LI_64 (R250): Loads a 64-bit immediate. -/
  | li64 (rd : Reg) (imm : BitVec 64)
  /-- MOV (R251): rd ← a. -/
  | mov (rd ra : Reg)
  /-- NEG (R251): rd ← −a. -/
  | neg (rd ra : Reg)
  /-- NOT (R251): rd ← ~a. -/
  | not (rd ra : Reg)
  /-- CLZ (R251): Counts leading zero bits. -/
  | clz (rd ra : Reg)
  /-- CTZ (R251): Counts trailing zero bits. -/
  | ctz (rd ra : Reg)
  /-- POPC (R251): Counts set bits. -/
  | popc (rd ra : Reg)
  /-- SEXT (R251): Sign-extends from the byte, halfword or word size. -/
  | sext (sz : Fin 3) (rd ra : Reg)
  /-- ZEXT (R251): Zero-extends from the byte, halfword or word size. -/
  | zext (sz : Fin 3) (rd ra : Reg)
  /-- EXT (R252): Extracts a bit field, sign-extended. -/
  | ext (rd ra : Reg) (pos len : BitVec 6)
  /-- EXTU (R252): Extracts a bit field, zero-extended. -/
  | extu (rd ra : Reg) (pos len : BitVec 6)
  /-- INS (R252): Inserts a bit field into rd. -/
  | ins (rd ra : Reg) (pos len : BitVec 6)
  /-- CMP_EQ (R253): qd ← a = b. -/
  | cmpEq (qd : Pred) (ra rb : Reg)
  /-- CMP_NE (R253): qd ← a ≠ b. -/
  | cmpNe (qd : Pred) (ra rb : Reg)
  /-- CMP_LT (R253): qd ← a < b, signed. -/
  | cmpLt (qd : Pred) (ra rb : Reg)
  /-- CMP_GE (R253): qd ← a ≥ b, signed. -/
  | cmpGe (qd : Pred) (ra rb : Reg)
  /-- CMP_LTU (R253): qd ← a < b, unsigned. -/
  | cmpLtu (qd : Pred) (ra rb : Reg)
  /-- CMP_GEU (R253): qd ← a ≥ b, unsigned. -/
  | cmpGeu (qd : Pred) (ra rb : Reg)
  /-- CMP_TST (R253): qd ← (a & b) ≠ 0. -/
  | cmpTst (qd : Pred) (ra rb : Reg)
  /-- CMP_NTST (R253): qd ← (a & b) = 0. -/
  | cmpNtst (qd : Pred) (ra rb : Reg)
  /-- CMPI_EQ (R253): qd ← a = imm. -/
  | cmpiEq (qd : Pred) (ra : Reg) (imm : BitVec 11)
  /-- CMPI_NE (R253): qd ← a ≠ imm. -/
  | cmpiNe (qd : Pred) (ra : Reg) (imm : BitVec 11)
  /-- CMPI_LT (R253): qd ← a < imm, signed. -/
  | cmpiLt (qd : Pred) (ra : Reg) (imm : BitVec 11)
  /-- CMPI_GE (R253): qd ← a ≥ imm, signed. -/
  | cmpiGe (qd : Pred) (ra : Reg) (imm : BitVec 11)
  /-- CMPI_LTU (R253): qd ← a < imm, unsigned. -/
  | cmpiLtu (qd : Pred) (ra : Reg) (imm : BitVec 11)
  /-- CMPI_GEU (R253): qd ← a ≥ imm, unsigned. -/
  | cmpiGeu (qd : Pred) (ra : Reg) (imm : BitVec 11)
  /-- CMPI_TST (R253): qd ← (a & imm) ≠ 0. -/
  | cmpiTst (qd : Pred) (ra : Reg) (imm : BitVec 11)
  /-- CMPI_NTST (R253): qd ← (a & imm) = 0. -/
  | cmpiNtst (qd : Pred) (ra : Reg) (imm : BitVec 11)
  /-- SEL (R254): rd ← G[A] if qn is set, else G[B]. -/
  | sel (rd : Reg) (qn : Pred) (ra rb : Reg)
  /-- PAND (R255): qd ← qa ∧ qb. -/
  | pand (qd qa qb : Pred)
  /-- POR (R255): qd ← qa ∨ qb. -/
  | por (qd qa qb : Pred)
  /-- PXOR (R255): qd ← qa ⊕ qb. -/
  | pxor (qd qa qb : Pred)
  /-- PANDN (R255): qd ← qa ∧ ¬qb. -/
  | pandn (qd qa qb : Pred)
  /-- PNOT (R255): qd ← ¬qa. -/
  | pnot (qd qa : Pred)
  /-- PMOV (R255): qd ← qa. -/
  | pmov (qd qa : Pred)
  /-- PSET (R255): qd ← 1. -/
  | pset (qd : Pred)
  /-- PCLR (R255): qd ← 0. -/
  | pclr (qd : Pred)
  /-- PPACK (R256): rd ← eight predicates from base. -/
  | ppack (rd : Reg) (hi : Bool)
  /-- PUNPACK (R256): Sets eight predicates from base out of G[A]. -/
  | punpack (ra : Reg) (hi : Bool)
  /-- PRD (R256): rd ← the predicate word. -/
  | prd (rd : Reg)
  /-- PWR (R256): Predicate word ← G[A][15:0]. -/
  | pwr (ra : Reg)
  /-- FADD (R258): Binary32 add. -/
  | fadd (rm : Fin 5) (rd ra rb : Reg)
  /-- FSUB (R258): Binary32 subtract. -/
  | fsub (rm : Fin 5) (rd ra rb : Reg)
  /-- FMUL (R258): Binary32 multiply. -/
  | fmul (rm : Fin 5) (rd ra rb : Reg)
  /-- FDIV (R258): Binary32 divide. -/
  | fdiv (rm : Fin 5) (rd ra rb : Reg)
  /-- FMIN (R258): Binary32 minimum. -/
  | fmin (rm : Fin 5) (rd ra rb : Reg)
  /-- FMAX (R258): Binary32 maximum. -/
  | fmax (rm : Fin 5) (rd ra rb : Reg)
  /-- FSQRT (R258): Binary32 square root. -/
  | fsqrt (rm : Fin 5) (rd ra : Reg)
  /-- FABS (R258): Binary32 absolute value. -/
  | fabs (rm : Fin 5) (rd ra : Reg)
  /-- FNEG (R258): Binary32 negation. -/
  | fneg (rm : Fin 5) (rd ra : Reg)
  /-- FMA (R259): rd ← round(a·b + c). -/
  | fma (rm : Fin 5) (rd ra rb rc : Reg)
  /-- FNMA (R259): rd ← round(c − a·b). -/
  | fnma (rm : Fin 5) (rd ra rb rc : Reg)
  /-- FEQ (R260): qd ← a = b, binary32. -/
  | feq (qd : Pred) (ra rb : Reg)
  /-- FLT (R260): qd ← a < b, binary32. -/
  | flt (qd : Pred) (ra rb : Reg)
  /-- FLE (R260): qd ← a ≤ b, binary32. -/
  | fle (qd : Pred) (ra rb : Reg)
  /-- FUN (R260): qd ← either operand is NaN. -/
  | funo (qd : Pred) (ra rb : Reg)
  /-- CVTFI (R261): Converts F32 to I64. -/
  | cvtfi (rm : Fin 5) (rd ra : Reg)
  /-- CVTIF (R261): Converts I64 to F32. -/
  | cvtif (rm : Fin 5) (rd ra : Reg)
  /-- CVTFB (R261): Converts F32 to BF16. -/
  | cvtfb (rm : Fin 5) (rd ra : Reg)
  /-- CVTBF (R261): Converts BF16 to F32. -/
  | cvtbf (rm : Fin 5) (rd ra : Reg)
  /-- CVTFH (R261): Converts F32 to F16. -/
  | cvtfh (rm : Fin 5) (rd ra : Reg)
  /-- CVTHF (R261): Converts F16 to F32. -/
  | cvthf (rm : Fin 5) (rd ra : Reg)
  /-- FCLASS (R261): Writes the class mask of an F32 value. -/
  | fclass (rm : Fin 5) (rd ra : Reg)
  /-- BR (R262): Branches unconditionally, with unwind. -/
  | br (t : Target)
  /-- BT (R262): Branches if the selected predicate or condition input is 1. -/
  | bt (sel : Fin 32) (t : Target)
  /-- BF (R262): Branches if the selected predicate or condition input is 0. -/
  | bf (sel : Fin 32) (t : Target)
  /-- CALL (R262): Calls a target and links to g30. -/
  | call (t : Target)
  /-- JR (R262): Jumps to a register target, with unwind. -/
  | jr (r : Reg)
  /-- CALLR (R262): Calls a register target and links to g30. -/
  | callr (r : Reg)
  /-- RET (R262): Returns to g30, or ends the thread if g30 is 0. -/
  | ret
  /-- LOOP (R264): Opens a loop entry with a register count. -/
  | loop (ra : Reg) (t : Target)
  /-- LOOPI (R264): Opens a loop entry with an immediate count. -/
  | loopi (n : BitVec 8) (t : Target)
  /-- LEXIT (R266): Pops the innermost loop entry and continues at next(end). -/
  | lexit
  /-- LIDX (R266): rd ← the remaining count of the innermost loop entry. -/
  | lidx (rd : Reg)
  /-- LDEP (R266): rd ← the loop stack depth. -/
  | ldep (rd : Reg)
  /-- ENTER (R267): Makes an n-byte frame under the stack limits. -/
  | enter (n : BitVec 16)
  /-- LEAVE (R268): Restores the caller's sp from the frame. -/
  | leave
  /-- CSRR (R270): Reads a CSR; a read of time is logged TIME. -/
  | csrr (rd : Reg) (csr : BitVec 11)
  /-- CSRW (R270): Writes a CSR and returns its old value. -/
  | csrw (rd ra : Reg) (csr : BitVec 11)
  /-- CSRS (R270): Sets CSR bits and returns the old value. -/
  | csrs (rd ra : Reg) (csr : BitVec 11)
  /-- CSRC (R270): Clears CSR bits and returns the old value. -/
  | csrc (rd ra : Reg) (csr : BitVec 11)
  /-- LD_B_TI (R277): Loads a byte, sign-extended, offset form. -/
  | ldBTi (rd ra : Reg) (imm : BitVec 11)
  /-- LD_BU_TI (R277): Loads a byte, zero-extended, offset form. -/
  | ldBuTi (rd ra : Reg) (imm : BitVec 11)
  /-- LD_H_TI (R277): Loads a halfword, sign-extended, offset form. -/
  | ldHTi (rd ra : Reg) (imm : BitVec 11)
  /-- LD_HU_TI (R277): Loads a halfword, zero-extended, offset form. -/
  | ldHuTi (rd ra : Reg) (imm : BitVec 11)
  /-- LD_W_TI (R277): Loads a word, sign-extended, offset form. -/
  | ldWTi (rd ra : Reg) (imm : BitVec 11)
  /-- LD_WU_TI (R277): Loads a word, zero-extended, offset form. -/
  | ldWuTi (rd ra : Reg) (imm : BitVec 11)
  /-- LD_D_TI (R277): Loads a doubleword, offset form. -/
  | ldDTi (rd ra : Reg) (imm : BitVec 11)
  /-- LD_B_TD (R277): Loads a byte, sign-extended, indexed form. -/
  | ldBTd (rd ra rb : Reg) (imm : BitVec 16)
  /-- LD_BU_TD (R277): Loads a byte, zero-extended, indexed form. -/
  | ldBuTd (rd ra rb : Reg) (imm : BitVec 16)
  /-- LD_H_TD (R277): Loads a halfword, sign-extended, indexed form. -/
  | ldHTd (rd ra rb : Reg) (imm : BitVec 16)
  /-- LD_HU_TD (R277): Loads a halfword, zero-extended, indexed form. -/
  | ldHuTd (rd ra rb : Reg) (imm : BitVec 16)
  /-- LD_W_TD (R277): Loads a word, sign-extended, indexed form. -/
  | ldWTd (rd ra rb : Reg) (imm : BitVec 16)
  /-- LD_WU_TD (R277): Loads a word, zero-extended, indexed form. -/
  | ldWuTd (rd ra rb : Reg) (imm : BitVec 16)
  /-- LD_D_TD (R277): Loads a doubleword, indexed form. -/
  | ldDTd (rd ra rb : Reg) (imm : BitVec 16)
  /-- ST_B_TI (R278): Stores a byte, offset form. -/
  | stBTi (rs ra : Reg) (imm : BitVec 11)
  /-- ST_H_TI (R278): Stores a halfword, offset form. -/
  | stHTi (rs ra : Reg) (imm : BitVec 11)
  /-- ST_W_TI (R278): Stores a word, offset form. -/
  | stWTi (rs ra : Reg) (imm : BitVec 11)
  /-- ST_D_TI (R278): Stores a doubleword, offset form. -/
  | stDTi (rs ra : Reg) (imm : BitVec 11)
  /-- ST_B_TD (R278): Stores a byte, indexed form. -/
  | stBTd (rs ra rb : Reg) (imm : BitVec 16)
  /-- ST_H_TD (R278): Stores a halfword, indexed form. -/
  | stHTd (rs ra rb : Reg) (imm : BitVec 16)
  /-- ST_W_TD (R278): Stores a word, indexed form. -/
  | stWTd (rs ra rb : Reg) (imm : BitVec 16)
  /-- ST_D_TD (R278): Stores a doubleword, indexed form. -/
  | stDTd (rs ra rb : Reg) (imm : BitVec 16)
  /-- LDC (R279): Waits for full, reads and sets empty. -/
  | ldc (rd ra : Reg) (imm : BitVec 11)
  /-- LDF (R279): Waits for full and reads. -/
  | ldf (rd ra : Reg) (imm : BitVec 11)
  /-- STP (R279): Waits for empty, writes and sets full. -/
  | stp (rd ra : Reg) (imm : BitVec 11)
  /-- STF (R279): Writes and sets full. -/
  | stf (rd ra : Reg) (imm : BitVec 11)
  /-- FEMT (R279): Sets a doubleword empty. -/
  | femt (ra : Reg) (imm : BitVec 11)
  /-- FEST (R279): Reads the FE bits of a line. -/
  | fest (rd ra : Reg) (imm : BitVec 11)
  /-- AMOADD (R280): Atomic add. -/
  | amoadd (fl : AmoFlags) (rd ra rb : Reg)
  /-- AMOAND (R280): Atomic AND. -/
  | amoand (fl : AmoFlags) (rd ra rb : Reg)
  /-- AMOOR (R280): Atomic OR. -/
  | amoor (fl : AmoFlags) (rd ra rb : Reg)
  /-- AMOXOR (R280): Atomic XOR. -/
  | amoxor (fl : AmoFlags) (rd ra rb : Reg)
  /-- AMOMIN (R280): Atomic signed minimum. -/
  | amomin (fl : AmoFlags) (rd ra rb : Reg)
  /-- AMOMAX (R280): Atomic signed maximum. -/
  | amomax (fl : AmoFlags) (rd ra rb : Reg)
  /-- AMOMINU (R280): Atomic unsigned minimum. -/
  | amominu (fl : AmoFlags) (rd ra rb : Reg)
  /-- AMOMAXU (R280): Atomic unsigned maximum. -/
  | amomaxu (fl : AmoFlags) (rd ra rb : Reg)
  /-- AMOSWAP (R280): Atomic swap. -/
  | amoswap (fl : AmoFlags) (rd ra rb : Reg)
  /-- AMOCAS (R280): Atomic compare-and-swap. -/
  | amocas (fl : AmoFlags) (rd ra rb : Reg)
  /-- FENCE_ACQ (R281): Acquire fence of a scope. -/
  | fenceAcq (scope : Fin 4)
  /-- FENCE_REL (R281): Release fence of a scope. -/
  | fenceRel (scope : Fin 4)
  /-- FENCE_FULL (R281): Full fence of a scope. -/
  | fenceFull (scope : Fin 4)
  /-- DRAIN (R282): Waits for the copies on a path and surfaces the caller's deferred faults. -/
  | drain (path : Fin 6)
  /-- RFILL (R283): Fills a register of another thread, as a release. -/
  | rfill (ra rb rt : Reg)
  /-- REMPTY (R284): Sets a register empty. -/
  | rempty (rd : Reg)
  /-- RSTAT (R284): rd ← the FE bits of g0–g31. -/
  | rstat (rd : Reg)
  /-- SEND (R285): Sends a 48-byte message to a mailbox and parks until it is accepted. -/
  | send (ra rb : Reg) (mbox : Fin 16) (tag : BitVec 16)
  /-- RECV (R287): Takes a message from the masked mailboxes, parking if all are empty. -/
  | recv (rd ra rb : Reg)
  /-- TRYRECV (R287): Takes a message if one is present, else returns 0. -/
  | tryrecv (rd ra rb : Reg)
  /-- SPAWN (R289): Starts a thread of the caller's launch on the current tile. -/
  | spawn (rd ra rb : Reg)
  /-- GJOIN (R290): Joins a group. -/
  | gjoin (rd ra : Reg)
  /-- GLEAVE (R290): Leaves a group. -/
  | gleave (rd ra : Reg)
  /-- GBAR (R290): Barrier on a group. -/
  | gbar (rd ra : Reg)
  /-- GSIZE (R290): Reads a group's member count. -/
  | gsize (rd ra : Reg)
  /-- TASK (R291): Draws a work packet, parking until it is granted. -/
  | task
  /-- TDONE (R291): Retires the held work packet. -/
  | tdone
  /-- MIG (R292): Moves the thread to a named tile. -/
  | mig (ra : Reg)
  /-- SWAPT (R293): Exchanges a range with the transposed partner tile. -/
  | swapt (ra rb : Reg)
  /-- CKPT (R294): Requests a boundary and parks until it commits. -/
  | ckpt (rd : Reg)
  /-- SIGA (R295): Folds a register into the sig chain. -/
  | siga (ra : Reg)
  /-- QPOST (R296): Posts a command to a dpost queue of the thread's context. -/
  | qpost (rd ra rb : Reg)
  /-- VADD (R304): Elementwise add. -/
  | vadd (o : VecOps)
  /-- VSUB (R304): Elementwise subtract. -/
  | vsub (o : VecOps)
  /-- VMUL (R304): Elementwise multiply. -/
  | vmul (o : VecOps)
  /-- VMAX (R304): Elementwise maximum. -/
  | vmax (o : VecOps)
  /-- VMIN (R304): Elementwise minimum. -/
  | vmin (o : VecOps)
  /-- VABS (R304): Elementwise absolute value. -/
  | vabs (o : VecOps)
  /-- VNEG (R304): Elementwise negation. -/
  | vneg (o : VecOps)
  /-- VFMA (R304): Elementwise fused multiply-add. -/
  | vfma (o : VecOps)
  /-- VEXP (R304): Elementwise exponential. -/
  | vexp (o : VecOps)
  /-- VRCP (R304): Elementwise reciprocal. -/
  | vrcp (o : VecOps)
  /-- VRSQ (R304): Elementwise reciprocal square root. -/
  | vrsq (o : VecOps)
  /-- VSIGM (R304): Elementwise sigmoid. -/
  | vsigm (o : VecOps)
  /-- VSILU (R304): Elementwise SiLU. -/
  | vsilu (o : VecOps)
  /-- VCVT (R304): Elementwise type conversion. -/
  | vcvt (o : VecOps)
  /-- VSET (R304): Sets every element to a scalar. -/
  | vset (o : VecOps)
  /-- VCPY (R304): Copies elements bit for bit. -/
  | vcpy (o : VecOps)
  /-- VIOTA (R304): Writes c + i. -/
  | viota (o : VecOps)
  /-- VSEL (R304): Selects elementwise by a byte mask. -/
  | vsel (o : VecOps)
  /-- VCMP (R304): Elementwise compare to I8. -/
  | vcmp (o : VecOps)
  /-- VSCL (R304): Scales elements by a power of two. -/
  | vscl (o : VecOps)
  /-- VSUM (R306): Sum reduction. -/
  | vsum (ty : ETy) (rd ra : Reg)
  /-- VSSQ (R306): Sum-of-squares reduction. -/
  | vssq (ty : ETy) (rd ra : Reg)
  /-- VAMAX (R306): Maximum absolute value reduction. -/
  | vamax (ty : ETy) (rd ra : Reg)
  /-- VMAXR (R306): Maximum reduction. -/
  | vmaxr (ty : ETy) (rd ra : Reg)
  /-- VMINR (R306): Minimum reduction. -/
  | vminr (ty : ETy) (rd ra : Reg)
  /-- VDOT (R306): Dot product reduction. -/
  | vdot (ty : ETy) (rd ra rb : Reg)
  /-- VGATH (R307): Gathers by an index vector. -/
  | vgath (o : GatOps)
  /-- VSCAT (R307): Scatters by an index vector. -/
  | vscat (o : GatOps)
  /-- VSCADD (R307): Scatter-adds by an index vector. -/
  | vscadd (rm : Fin 4) (o : GatOps)
  /-- CPY (R315): Starts an asynchronous layout copy. -/
  | cpy (t : Fin 32) (ra rb : Reg) (z : Bool)
  /-- CPYS (R316): Layout copy that parks until it completes and faults precisely. -/
  | cpys (t : Fin 32) (ra rb : Reg) (z : Bool)
  /-- CPYX (R317): Exchanges two windows. -/
  | cpyx (t : Fin 32) (ra rb : Reg) (z : Bool)
  /-- ACCZ (R329): Claims or zeroes accumulator handles. -/
  | accz (h : BitVec 7) (n1 : Fin 16)
  /-- ACCLD (R330): Loads accumulator tiles from the scratchpad. -/
  | accld (h : BitVec 7) (n1 : Fin 16) (ty : ETy) (ra rb : Reg)
  /-- ACCST (R330): Stores accumulator tiles with a footer. -/
  | accst (h : BitVec 7) (n1 : Fin 16) (ty : ETy) (ra rb : Reg)
  /-- ACCPIN (R331): Pins handles under a key. -/
  | accpin (qd : Pred) (h : BitVec 7) (n1 : Fin 16) (ra rb : Reg)
  /-- ACCATT (R332): Attaches a pinned range by key, filling it from a spill record if needed. -/
  | accatt (qd : Pred) (h : BitVec 7) (n1 : Fin 16) (ra : Reg)
  /-- ACCREL (R329): Releases handles and frees their pin record. -/
  | accrel (h : BitVec 7) (n1 : Fin 16)
  /-- ACCSPL (R333): Writes a pinned range as a spill record. -/
  | accspl (h : BitVec 7) (n1 : Fin 16)
  /-- ACCSTA (R329): Reads, and optionally clears, a handle's status. -/
  | accsta (rd : Reg) (h : BitVec 7) (clr : Bool)
  /-- MMA (R336): Matrix multiply-accumulate into a handle. -/
  | mma (o : MmaOps)
  /-- MMAG (R336): Matrix multiply-accumulate with gathered A rows. -/
  | mmag (o : MmaOps) (rc : Reg)
  /-- TLD (R339): Transposes a 16 × 16 block. -/
  | tld (w : Bool) (ra rb : Reg) (pitch : BitVec 16)
  /-- DELTA (R342): Runs the gated delta rule over tokens. -/
  | delta (h : BitVec 7) (ra : Reg)
  /-- DREAD (R343): Reads outputs from the delta state without updating it. -/
  | dread (h : BitVec 7) (ra : Reg)
  /-- DSCL (R343): Scales the delta state by α. -/
  | dscl (h : BitVec 7) (ra rb : Reg)
  /-- BOPEN (R351): Opens a merge round with a total and a larder. -/
  | bopen (rd : Reg) (h : BitVec 7) (n1 : Fin 16) (want : BitVec 5) (ra rb : Reg)
  /-- BSEND (R352): Sends a contribution to a merge owner. -/
  | bsend (rs ra rb : Reg) (n1 : Fin 16)
  /-- BWAIT (R354): Returns one arrived group. -/
  | bwait (rd : Reg)
  /-- BNORM (R355): Computes a group's squared norm. -/
  | bnorm (rd : Reg) (h : BitVec 7)
  /-- BSEAL (R356): Fixes a group's scale against blim. -/
  | bseal (rd : Reg) (h : BitVec 7)
  /-- BABSENT (R358): Declares a contributor id absent. -/
  | babsent (ra : Reg)
  /-- BCLOSE (R359): Ends the merge round. -/
  | bclose (rd : Reg)
  /-- BSTAT (R360): Reads a doubleword of the round record. -/
  | bstat (rd : Reg) (dw : Fin 4)
  /-- COLLD (R365): Loads a collective graph into a work area. -/
  | colld (rd ra rb : Reg)
  /-- COLRUN (R366): Starts a round of the loaded graph. -/
  | colrun (rd ra rb : Reg)
  /-- COLWAIT (R369): Waits for the round to end and returns its status. -/
  | colwait (rd : Reg)
  /-- COLABT (R369): Aborts the running round. -/
  | colabt
  /-- RED (R370): Contributes to a router reduction. -/
  | red (rd ra rb : Reg) (op : BitVec 3) (ty : BitVec 4)
  /-- REDG (R371): Takes a reduction result. -/
  | redg (rd ra : Reg) (qd : Pred)
  /-- COLST (R369): Reads doubleword 0 of the work area. -/
  | colst (rd : Reg)
  /-- BOOT (R23): Power-up of the always-on domain runs the boot order: fuses, firmware verification, HBM, undercroft and tile self-test, chiplet power-up and span training. -/
  | boot
  /-- BOOT_READY (R23): After the host has written the DMA window and span peer tables, firmware reports capacity and ready and begins to accept queue mappings. -/
  | bootReady
  /-- CONTROL_INTERVAL (R17): At each 10 µs boundary the power controller sets each chiplet's operating point to the lowest requested point and its mask to the largest requested count. -/
  | controlInterval
  /-- OPERATING_POINT_SETTLED (R12): The frequency change completes within 1 µs and the chiplet resumes issuing. -/
  | operatingPointSettled
  /-- THERMAL_THROTTLE (R16): The die temperature reaches 105 °C, which asserts the throttle and voids boost. -/
  | thermalThrottle
  /-- THROTTLE_RELEASE (R16): The die temperature falls below 100 °C, which releases the thermal throttle. -/
  | throttleRelease
  /-- EMERGENCY_SAVE (R110): At 115 °C every tile of the chiplet requests a boundary. -/
  | emergencySave
  /-- HARD_TRIP (R18): At 125 °C hardware removes the chiplet's power unconditionally, discards any unfinished save and flags every tile of the chiplet. -/
  | hardTrip
  /-- CURRENT_LIMIT_TRIP (R17): The chiplet current passes 420 A; slot masking is applied within 2 µs and a lower point is requested at the next boundary. -/
  | currentLimitTrip
  /-- MASK_CHANGE (R19): A slot-mask count change reaches a tile, is logged as MASK and then masks slots 15 down to 16 − m. -/
  | maskChange
  /-- RESIDENCY_STEP (R20): Every 2^16 cycles while m > 0, the tile exchanges waiting and issuing thread contexts into the lowest unmasked slots. -/
  | residencyStep
  /-- TELEMETRY_SAMPLE (R21): Every 100 µs the telemetry engine writes a 32-byte sample for each chiplet of the partition into the context's ring. -/
  | telemetrySample
  /-- HOST_INBOUND_READ (R27): A host read arrives through an inbound window and is mapped to cellar memory; outside every valid window it returns all ones. -/
  | hostInboundRead
  /-- HOST_INBOUND_WRITE (R27): A host write arrives through an inbound window; outside every valid window it is discarded. -/
  | hostInboundWrite
  /-- DMA_WINDOW_WRITE (R30): The host writes a DMA window table entry, which governs every device access to host memory that arrives after the write completes. -/
  | dmaWindowWrite
  /-- PEER_TABLE_WRITE (R26): The host writes a span peer entry through the window for the selected context, allocating a table if needed or setting the discard status bit. -/
  | peerTableWrite
  /-- FIRMWARE_TABLE_WRITE (R25): A firmware write to the DMA window table or a peer table is discarded and the write-refusal counter increments. -/
  | firmwareTableWrite
  /-- CONFIG_WRITE (R26): The host writes a configuration-space register that has no row of its own, such as the inbound windows, the peer table select, the spare reserve, the context-0 root or a W1C of the refusal counter. -/
  | configWrite
  /-- QUEUE_MAP (R48): The host writes the record address and the map bit; firmware reads and checks the queue record and maps the slot or reports failure. -/
  | queueMap
  /-- QUEUE_UNMAP (R53): The host clears a slot's map bit, which unmaps the queue and ends a stopped state. -/
  | queueUnmap
  /-- WATCHED_LINE_INVALIDATE (R31): The host invalidates a watched line and the controller starts re-reading it. -/
  | watchedLineInvalidate
  /-- WATCHED_LINE_REREAD (R31): The re-read returns; if the content changed, the slot's pending bit is set and a worker is woken. -/
  | watchedLineReread
  /-- SPAN_PROBE (R39): A span port that has sent nothing for 10 µs sends a probe frame. -/
  | spanProbe
  /-- SPAN_PORT_DOWN (R39): A port that has received no frame for 1 ms is marked down in the device status with the time it went down. -/
  | spanPortDown
  /-- SPAN_LANE_FAIL (R33): A lane of a span port fails, and the port retrains at 4 lanes with half the rate. -/
  | spanLaneFail
  /-- SPAN_COPY_DATA_RECEIVE (R319): A copy data frame arrives, is checked and logged, its block is written to the receiving partition's cellar and an acknowledgement with status is returned. -/
  | spanCopyDataReceive
  /-- SPAN_COPY_ACK_RECEIVE (R318): A block acknowledgement arrives at the sender; a non-zero status faults the copy, and the last acknowledgement completes it. -/
  | spanCopyAckReceive
  /-- SPAN_CHUNK_RECEIVE (R367): A chunk frame arrives, is logged SPAN and is matched to a ready receive operation of the current round, or refused. -/
  | spanChunkReceive
  /-- SPAN_ROUND_ABORT_RECEIVE (R380): A round-abort frame arrives; it ends the current round aborted and is forwarded once, or it is discarded. -/
  | spanRoundAbortReceive
  /-- SPAN_PROBE_RECEIVE (R39): A probe frame arrives and resets the port's silence timer. -/
  | spanProbeReceive
  /-- SPAN_COPY_TIMEOUT (R39): A span copy whose acknowledgements have not all returned within coltimeo completes with a TRANSLATION 0x04 fault. -/
  | spanCopyTimeout
  /-- QUEUE_WAKE (R50): The dispatcher gives a pending slot to an idle worker, which clears the pending bit and reads tail to find the pending commands. -/
  | queueWake
  /-- COMMAND_ACCEPT (R50): The ring entry read returns; the command is parsed and head advances, or the queue stops with detail 0xFFFD on a refused read. -/
  | commandAccept
  /-- LOCKSTEP_MISMATCH (R42): The lock-step cores disagree, trap, restart from the firmware checkpoint and reissue the step in progress. -/
  | lockstepMismatch
  /-- WORKER_ERROR (R43): A worker parity or residue error discards the unaccepted command, and the dispatcher hands it to another worker. -/
  | workerError
  /-- COMMAND_COMPLETE (R52): A command's work ends; the device writes the completion record with a release, or stops the queue if the record write is refused. -/
  | commandComplete
  /-- LAUNCH (R56): The LAUNCH command reads and validates its descriptor and the mirror sizes, then queues the launch for population. -/
  | launch
  /-- COPY (R51): The COPY command places a layout copy on the copy engine of a tile of the partition chosen by firmware. -/
  | copy
  /-- TASKS (R61): The TASKS command starts appending packets in source order to a work-packet queue. -/
  | tasks
  /-- TASKS_APPEND (R61): When a queue entry frees, TASKS writes the next packet and advances the producer count with a release. -/
  | tasksAppend
  /-- SIGNAL (R63): Once every earlier command of its queue has completed, the SIGNAL command writes its value with a release. -/
  | signal
  /-- WAIT (R63): The WAIT command reads its address and completes with an acquire when the unsigned value reaches the threshold. -/
  | wait
  /-- WAIT_POLL (R63): Every 2 µs, or at once after a SIGNAL to the same address, WAIT re-reads the address. -/
  | waitPoll
  /-- WAIT_LIMIT (R63): The WAIT limit expires and the command completes TIME_LIMIT with the value last read. -/
  | waitLimit
  /-- PARTITION_CREATE (R47): The command validates a context record and creates the context, placing its partition, or completes PARKED if it does not fit. -/
  | partitionCreate
  /-- PARTITION_TEARDOWN (R54): The command ends every thread of the context, frees its keys and table, unmaps its queues and completes its pending commands CONTEXT_GONE. -/
  | partitionTeardown
  /-- PARTITION_SUSPEND (R54): The command gang-pre-empts the partition and parks its whole state in the parked-image area. -/
  | partitionSuspend
  /-- PARTITION_RESUME (R54): The command restores a parked image into a partition of the same shape, or places a PARKED-created partition. -/
  | partitionResume
  /-- STATUS (R152): The command drains device host accesses, invalidates the context's gateway translation entries and writes the status block. -/
  | status
  /-- STATUS_ATTEST (R46): A STATUS with the attest flag makes the security engine add a doubly signed attestation report over the nonce. -/
  | statusAttest
  /-- POPULATION (R57): Once every tile has quota free slots, the front end reserves the slots and writes each context as a logged POPULATE event. -/
  | population
  /-- LAUNCH_END (R59): When all threads have ended and their operations completed, the launch's completion record is written. -/
  | launchEnd
  /-- LAUNCH_TIME_LIMIT (R59): The launch time limit expires; the threads end at once, pending operations are discarded and the launch completes TIME_LIMIT. -/
  | launchTimeLimit
  /-- PACKET_GRANT (R135): The packet server grants the next packet in consumer order to a parked TASK and advances the consumer count. -/
  | packetGrant
  /-- PACKET_RETIRE (R135): A retire notice arrives at the packet server and frees the packet's entry for TASKS. -/
  | packetRetire
  /-- QPOST_REQUEST (R62): The control die serialises a QPOST, writes the command at the tail, advances tail and wakes a worker. -/
  | qpostRequest
  /-- LINK_RESEND (R69): An uncorrectable flit error makes the receiver request a resend from the sender's resend buffer. -/
  | linkResend
  /-- REBIND_TABLE_WRITE (R78): A C0 command writes a chiplet map, slot map or exception entry, which takes effect from the next cycle. -/
  | rebindTableWrite
  /-- GROUP_REQUEST (R82): A join, leave or size query reaches the group's home router and is applied, leaves first, then arrivals, then joins. -/
  | groupRequest
  /-- BARRIER_CLUSTER_ARRIVAL (R83): A cluster arrival reaches the home router; when all member clusters have arrived, it sends departures. -/
  | barrierClusterArrival
  /-- BARRIER_DEPARTURE (R83): A departure reaches a member cluster's router, which wakes its parked members, logged DEPART. -/
  | barrierDeparture
  /-- REDUCTION_CONTRIBUTION (R84): A RED contribution reaches its cluster's reduction slot and is combined, or bounces if no slot is free. -/
  | reductionContribution
  /-- REDLIMIT_EXPIRE (R85): redlimit cycles after a slot's first contribution, the slot forwards an early partial to the root. -/
  | redlimitExpire
  /-- REDUCTION_PARTIAL (R85): A partial or straggler reaches the root; when the counts reach the expected count, the result goes to every member cluster. -/
  | reductionPartial
  /-- REDUCTION_RESULT (R85): A reduction result or mismatch reaches a member cluster and wakes parked REDG callers, logged REDRES. -/
  | reductionResult
  /-- MESSAGE_DELIVERY (R86): The destination router delivers a message into a mailbox with a free entry and returns an acceptance, or returns a bounce. -/
  | messageDelivery
  /-- MESSAGE_ACCEPTANCE (R86): An acceptance reaches the sender, is logged ACCEPT and wakes the parked SEND. -/
  | messageAcceptance
  /-- MESSAGE_BOUNCE (R86): A bounce reaches the sender and is logged; SEND raises SEND_REFUSED after sndretry bounces. -/
  | messageBounce
  /-- MESSAGE_REINJECT (R86): 64 cycles after a bounce arrives, the sender's tile port re-injects the message. -/
  | messageReinject
  /-- ERROR_DETECT (R88): A parity, residue, checksum or uncorrectable SECDED detector flags a tile, which fences it and starts recovery. -/
  | errorDetect
  /-- CORRECTED_ERROR (R88): A correctable error is corrected and counted in the device status, with no architectural effect. -/
  | correctedError
  /-- CELLAR_POISON (R89): An uncorrectable cellar error makes firmware mark the 64 KiB page poisoned. -/
  | cellarPoison
  /-- POWER_LOSS (R88): A chiplet loses supply, and every tile of the chiplet is flagged. -/
  | powerLoss
  /-- WATCHDOG_FIRE (R91): A tile's watchdog expires after wdlimit cycles without progress, boundary acknowledgement or save completion, and flags the tile. -/
  | watchdogFire
  /-- IVLEN_EXPIRE (R93): ivlen cycles after the last boundary, the tile requests a boundary. -/
  | ivlenExpire
  /-- DEFERRED_BOUNDARY (R93): A boundary request deferred by an uncommitted boundary is taken in the cycle after that commit. -/
  | deferredBoundary
  /-- CAPTURE_ENTRY_FREE (R94): A capture buffer entry frees, which wakes a thread parked with reason capture, logged WAKE. -/
  | captureEntryFree
  /-- MIRROR_LINE_RECEIVE (R98): A shipped line arrives at the buddy and is written into staging. -/
  | mirrorLineReceive
  /-- COMMIT_MARKER_RECEIVE (R98): The commit marker arrives; if the count matches, the buddy acknowledges and merges staging into the mirror. -/
  | commitMarkerReceive
  /-- BOUNDARY_COMMIT (R98): The buddy's acknowledgement arrives, which commits the boundary and frees the previous interval's log. -/
  | boundaryCommit
  /-- LOG_AREA_FULL (R102): The log area reaches 2,048 less the reserved records, and the router stops delivering events to the tile until a commit. -/
  | logAreaFull
  /-- RECOVERY (R103): The recovery engine takes a fenced tile, chooses a spare by R104 and restores it from the buddy mirror and reloadable extents. -/
  | recovery
  /-- REBIND_WAVE (R105): The control die sends a C0 rebind wave that writes the slot map or exception entries. -/
  | rebindWave
  /-- REBIND_WAVE_COMPLETE (R105): Every router has acknowledged the rebind wave. -/
  | rebindWaveComplete
  /-- REPLAY (R106): The replacement replays from checkpoint n to f, delivering logged records and discarding the first N injections, and then logs RESTART. -/
  | replay
  /-- RECOVERY_RELEASE (R105): The handover is acknowledged, the old router forwards held packets and live execution resumes. -/
  | recoveryRelease
  /-- HELD_PACKET_DELIVERY (R105): The replacement's router delivers one held packet per cycle in arrival order and logs it. -/
  | heldPacketDelivery
  /-- STATE_LOSS (R113): Unrecoverable state ends the launch FAULTED with detail 0x00FE and stops the partition. -/
  | stateLoss
  /-- PLANNED_MIGRATION (R112): A tile is moved without a fault: it takes a boundary and is fenced at its commit, and steps 2 to 7 run with no replay. -/
  | plannedMigration
  /-- INCIDENT_CAPTURE (R115): Firmware preserves a flagged interval's checkpoint, log and injection CRC into the incident store. -/
  | incidentCapture
  /-- INCIDENT_REPLAY (R115): A capture is replayed in replay mode with injection discarded, and the diverging record or a match is reported. -/
  | incidentReplay
  /-- GANG_PREEMPT (R136): A PREEMPT request takes effect at a tile, which stops issue, stops long instructions at progress points and saves its state. -/
  | gangPreempt
  /-- PREEMPT_SAVE_DONE (R136): A tile finishes writing its save to the parked-image area. -/
  | preemptSaveDone
  /-- RESTORE (R137): The tiles restore the parked image, and each resumes issue after the last tile's restore completes. -/
  | restore
  /-- TIME_SLICE_EXPIRE (R139): The partition's time slice expires, and the scheduler may pre-empt it. -/
  | timeSliceExpire
  /-- COLDEFER_EXPIRE (R140): The coldefer deferral expires, and the pre-emption proceeds with round-abort frames. -/
  | coldeferExpire
  /-- MIGRANT_ARRIVAL (R128): A migrant is delivered and takes a free unmasked slot or a guest entry, or is bounced. -/
  | migrantArrival
  /-- MIGBACK (R132): A bounced migrant returns to its home reservation, logged MIGBACK; at migretry it raises MIGRATE_REFUSED. -/
  | migback
  /-- MIGBACK_RESEND (R132): After migback cycles, the home tile sends the migrant again to the same target. -/
  | migbackResend
  /-- LOCATION_NOTICE (R133): A location notice reaches the home tile, which forwards any RFILL waiting for the thread. -/
  | locationNotice
  /-- RFILL_DELIVERY (R283): An RFILL reaches the tile holding its target, which fills the register full and wakes a parked read, or discards it. -/
  | rfillDelivery
  /-- EXIT_NOTICE (R134): The notice of an away EXIT reaches home and frees the reservation. -/
  | exitNotice
  /-- REMOTE_ACCESS (R149): A cluster-switch load, store, synchronising access or AMO arrives at the target port and is performed or bounced. -/
  | remoteAccess
  /-- PORT_BOUNCE_REPRESENT (R276): 64 cycles after a port bounce arrives, the sender re-presents the request. -/
  | portBounceRepresent
  /-- ACCESS_REPLY (R149): A reply arrives at the issuer, is logged LREPLY and wakes the parked thread with its value, acknowledgement or trap. -/
  | accessReply
  /-- LOAD_REPLY (R277): A cellar or host load reply arrives, is logged LREPLY and returns the value or a precise fault. -/
  | loadReply
  /-- POSTED_STORE_PERFORM (R155): A posted store is performed at its destination, freeing an outbound queue entry and letting parked releases proceed. -/
  | postedStorePerform
  /-- TRANSLATION_WALK (R151): The chiplet's walker serves a gateway translation miss through the table levels and fills the translation cache. -/
  | translationWalk
  /-- FE_WAKE (R159): After an FE state change, the oldest waiter whose condition holds is performed in the next cycle. -/
  | feWake
  /-- FE_REFUSAL_REPRESENT (R159): 64 cycles after a refusal at a full waiter list, the issuing tile re-presents the access. -/
  | feRefusalRepresent
  /-- FE_TIMEOUT (R160): A waiting access reaches feretry failed wake-ups or fetimeo cycles and raises FE_TIMEOUT with no effect. -/
  | feTimeout
  /-- RANGE_LOCK_REQUEST (R164): A copy's range request arrives at another tile and is registered, or refused in C1. -/
  | rangeLockRequest
  /-- RANGE_LOCK_REPRESENT (R164): 64 cycles after a refusal arrives, the range request is re-presented. -/
  | rangeLockRepresent
  /-- ENGINE_OP_START (R165): A queued engine operation starts when its engine is free and no earlier overlapping operation is pending. -/
  | engineOpStart
  /-- ENGINE_OP_COMPLETE (R121): A long operation completes, releases its ranges and wakes its thread, logged ECOMP. -/
  | engineOpComplete
  /-- COPY_COMPLETE (R315): A copy finishes or faults, releases its ranges and records any fault against its ticket. -/
  | copyComplete
  /-- ICACHE_FILL (R237): An instruction-cache fill reply arrives, is logged LREPLY and wakes the threads that missed. -/
  | icacheFill
  /-- BIND_REQUEST (R353): A merge bind request reaches the owner tile and binds a free larder group, is refused or bounces. -/
  | bindRequest
  /-- MERGE_DATA (R353): A merge data packet writes its tile into the bound group's handles. -/
  | mergeData
  /-- MERGE_MARKER (R353): A merge marker arrives; once all tiles are in, the group becomes arrived and the marker is acknowledged. -/
  | mergeMarker
  /-- MERGE_COMMIT (R357): A sealed group whose id equals bnext is added into the total scaled by s, and bnext advances. -/
  | mergeCommit
  /-- BWAIT_TIMEOUT (R354): BWAIT parked for coltimeo cycles returns 1 << 62. -/
  | bwaitTimeout
  /-- BCLOSE_TIMEOUT (R359): BCLOSE parked for coltimeo cycles returns 1 << 62. -/
  | bcloseTimeout
  /-- CHUNK_ARRIVAL (R367): An undercroft chunk arrives, is logged CHUNK and is taken by the matching ready operation, refused or flagged as a mismatch. -/
  | chunkArrival
  /-- CHUNK_ACK (R367): A chunk acknowledgement arrives, and the SEND is done when every byte is acknowledged, which fires its successors. -/
  | chunkAck
  /-- CHUNK_RESEND (R367): An unacknowledged chunk is sent again after 64 cycles in the undercroft or 2 µs on a span port. -/
  | chunkResend
  /-- ROUND_TIMEOUT (R368): A round's left reaches 0; the round ends timed out and aborts are sent to every peer. -/
  | roundTimeout
  /-- ROUND_ABORT (R368): An undercroft abort for the current round arrives, ends it aborted and is forwarded once. -/
  | roundAbort
  /-- COLRUN_HOLD_END (R366): The po-earlier stores are performed, so the round is set running and operations with deps 0 fire. -/
  | colrunHoldEnd
  /-- FIRMWARE_REGISTER_WRITE (R16): Firmware writes a chiplet control register or router register (thermal and current thresholds, wdlimit, ivlen, coldefer), and the value is clamped to its fused limit or range. -/
  | firmwareRegisterWrite
  /-- SPARE_CHIPLET_POWERED (R104): A dark spare chiplet chosen for a replacement finishes powering up after t_dark, and the restore into its tile can proceed. -/
  | spareChipletPowered
  /-- COPY_DATA_ARRIVAL (R320): Copy data (a CPY, SWAPT or ACCATT fill packet) arrives at the receiving tile's router, is logged CWRITE or CWREF and is written into the pool. -/
  | copyDataArrival
  /-- BIND_REQUEST_RETRY (R352): 64 cycles after a merge bind request bounced, the contributor's BSEND sends the bind request again. -/
  | bindRequestRetry
  deriving DecidableEq, Repr

end Sys2Proof
end

