-- ==== Sys2Proof/Machine/TileState.lean ====
section
/-!
DEFINITION. The state of one tile: what a boundary captures (`TileCtx`), and what the router keeps for the position
(`Router`).
-/
namespace Sys2Proof.Machine

/-- An event of the agenda: the cycle it is due in, the row, its operands, for a packet the physical
cluster it was routed to (04 R77), and whether its delivery has been put off (05 R102): a later one of its channel does not overtake it. -/
structure Timed where
  due : Nat
  ev : Instr
  arg : Payload
  dest : Option Nat := none
  late : Bool := false
  deriving DecidableEq, Repr

/-- A packet in the buffer of a tile's port (04 R73, 05 R90): the ends of its channel, its class, its cycles of flight, whether a
latency that the spec leaves open adds to them (log 7), the event at its end and that event's operands. -/
structure Packet where
  src : Nat
  dst : Nat
  cls : Nat
  lat : Nat
  slow : Bool
  ev : Instr
  arg : Payload
  deriving DecidableEq, Repr

/-- A shared-register operation between issue and effect (06 R124): an ordinary store, or a synchronising access whose
outcome, once performed, waits for the end of its cycle. -/
inductive HOp where
  | store (n : Fin 8) (v : Word) (issue : Nat)
  | sync (a : Access) (tok issue : Nat)
  | effect (n : Fin 8) (v : Word) (full : Bool) (issue : Nat)
  deriving DecidableEq, Repr

/-- A synchronising access that waits for its FE state (07 R159). `dw` numbers the pool doubleword, or 32768 + n for
shared register n; `since` is the tile cycle in which it joined. -/
structure Waiter where
  dw : Nat
  acc : Access
  src : Ref
  fails : Nat
  issued : Nat
  since : Nat
  deriving DecidableEq, Repr

/-- An instruction-cache line: launch index, line offset and its 32 halfwords (12 R237). -/
structure ICLine where
  lix : Nat
  line : Nat
  halves : List (BitVec 16)
  deriving DecidableEq, Repr

/-- A home reservation in use (06 R127, R132): where its thread is or goes, whether it is in
transit, the stack registers (07 R162) that stay behind, the bounces of its migrant, its launch, the RFILLs that wait for the next
location notice, and the thread itself when it waits here. -/
structure Resv where
  away : TileId
  splim : Word
  spov : Word
  spovlim : Word
  bounces : Nat
  launch : BitVec 32
  transit : Bool
  fills : List (Reg × Word)
  waiting : Option Thread
  deriving DecidableEq, Repr

/-- One entry of the box-room queue: a guest entry 16 to 31, or a home reservation 0 to 15 (06 R128); the address of a
MIGRATE_REFUSED it raises when it enters a slot (06 R132). -/
structure Guest where
  entry : Nat
  thread : Thread
  refused : Option Word
  deriving DecidableEq, Repr

/-- A range-lock table entry: the tile, operation and launch that registered it, its range (07 R164), and the tile cycle it was registered
in, whose accesses are checked before it (R167). -/
structure Lock where
  tile : TileId
  op : Nat
  launch : BitVec 32
  range : Range
  since : Nat
  deriving DecidableEq, Repr

/-- A deferred fault of a copy or posted store (09 R191): the thread it belongs to, its DRAIN path, the tile cycle of
its issue, the device time at which it was recorded, the fault. -/
structure Deferred where
  launch : BitVec 32
  tid : Nat
  path : Nat
  issued : Nat
  since : Nat
  code : Nat
  detail : Nat
  val : Word
  deriving DecidableEq, Repr

/-- What a boundary captures of a tile, and replay therefore starts from (05 R94). `tok` numbers the tile's parks and stores, `draws`
the free values it has used, `frozen` the timers it stopped, with the cycles they have left; `swaps` are the partners that have started a
SWAPT which this tile has not, with their progress points (14 R293). -/
structure TileCtx where
  slots : Vector (Option Thread) 16
  resv : Table Resv
  guests : List Guest
  pool : Memory
  emptyDw : List Nat
  h : Vector Word 8
  hEmpty : BitVec 8
  hOps : List HOp
  waiters : List Waiter
  mail : Vector (List Msg) 16
  poolcfg : Word
  ovf : BitVec 16
  inv : Bool
  migretry : BitVec 8
  migback : BitVec 17
  coltimeo : BitVec 33
  redlimit : BitVec 24
  ivlen : BitVec 32
  gridw : BitVec 18
  ivn : BitVec 48
  launches : Table LaunchEntry
  locks : List Lock
  outq : List Posted
  deferred : List Deferred
  icache : List ICLine
  fills : List (Nat × Nat)
  dirty : List Nat
  zeroDue : Bool
  own : Table OwnEntry
  pins : Table PinRec
  ops : List EngOp
  nextOp : Nat
  round : Option Round
  coll : Option Coll
  preempt : Bool
  late : Bool
  stored : List Nat
  frozen : List Timed
  tok : Nat
  draws : Nat
  swaps : List (TileId × Nat)
  deriving DecidableEq, Repr

/-- The context of a tile after boot; what the spec leaves open is zero (log 1). -/
def TileCtx.reset : TileCtx :=
  { slots := Vector.replicate 16 none, resv := [], guests := [], pool := [], emptyDw := []
    h := Vector.replicate 8 0, hEmpty := 0, hOps := [], waiters := [], mail := Vector.replicate 16 []
    poolcfg := 0, ovf := 0, inv := false, migretry := 16, migback := 256, coltimeo := 0x2000000, redlimit := 4096
    ivlen := 0x200000, gridw := 0, ivn := 0, launches := [], locks := [], outq := [], deferred := []
    icache := [], fills := [], dirty := [], zeroDue := false
    own := [], pins := [], ops := [], nextOp := 0, round := none, coll := none, preempt := false, late := false
    stored := [], frozen := [], tok := 0, draws := 0, swaps := [] }

/-- A log record (05 R100): the tile cycle in which its event took effect (`cyc` of the record is counted from the boundary), the
kind code of R101, the slot, whether its payload is a reference, the payload length in bytes, and the event it stands for, with
all that the event brings. Kind 0 is a note beside the log that takes no record (log 25). -/
structure LogRec where
  cyc : Nat
  kind : Nat
  slot : Nat
  ref : Bool
  len : Nat
  ev : Instr
  arg : Payload
  val : Word
  deriving DecidableEq, Repr

/-- What the tile position is doing (05 R103, 06 R136). -/
inductive TileMode where
  | live | fenced | stopping | saved
  deriving DecidableEq, Repr

/-- The tile has stopped for a pre-emption. -/
def TileMode.stops (m : TileMode) : Bool := m == .stopping || m == .saved

/-- A boundary that is not yet committed (05 R98): its ivn, the tile cycle that follows it, the lines still to ship in ascending
order, those the capture buffer has latched, the number captured, and the context captured, which the ctx region's lines carry
(log 25), with the slot mask. `base` is the tile cycle from which its interval counts, `cyc` unless a restore has come between (06 R137). -/
structure Ship where
  ivn : BitVec 48
  cyc : Nat
  base : Nat
  lines : List MirrorLine
  latched : List MirrorLine
  count : Nat
  ctx : TileCtx
  mask : Nat
  deriving DecidableEq, Repr

/-- A checkpoint in the mir region of the buddy (05 R95, R98): the context, its pool built of the lines the mirror holds, the
tile cycle that follows its boundary, that from which its interval counts, and the slot mask. -/
structure Mirror where
  ctx : TileCtx
  cyc : Nat
  base : Nat
  mask : Nat
  deriving DecidableEq, Repr

/-- Staging for a boundary of the buddy (05 R98): its ivn and the lines received. -/
structure Staging where
  ivn : BitVec 48
  lines : List MirrorLine
  deriving DecidableEq, Repr

/-- Injections and records of an interval (05 R99, R106), kept until the next boundary commits. -/
structure Interval where
  base : Nat
  log : List LogRec
  sent : List Packet
  deriving DecidableEq, Repr

/-- What the router keeps for a tile position: the tile cycle, the one after the last boundary, and the first that its log covers; mode and
slot mask; the log of the interval and the packets injected in it (and those of the interval before, until its commit); the tile port's buffer; the context
served; arrivals at the port in a cycle and the cycle of the last migrant (one more, 0 for none); the boundary in flight, delivery
stopped by a full log area, a boundary wanted in this cycle or deferred, the mirror and the staging kept for the buddy; packets
held during a recovery, the fence cycle, the detector, replays that failed; a planned migration, and whether it is for thermal
relief (06 R142); whether the tile is in replay, the records still to deliver, the injections still to discard and whether a
record is being delivered (R106); the records a recovery replays and the injections it does not repeat, its number, its replacement: a
local slot (0), another physical tile (1), a chiplet (2) or a context (3) waited for, the tile's own place (4); for a tile that replays an
incident, its number (R115); a core that issues nothing (R91), and one more than the cycle since which a turn is missed
and that of a request not acknowledged; one more than the cycle a pre-emption took effect in; the first cycle after that of
an emergency save that is not yet committed (01 R21), 0 for none. -/
structure Router where
  cyc : Nat
  base : Nat
  logFrom : Nat
  mode : TileMode
  mask : Nat
  log : List LogRec
  sent : List Packet
  out : List Packet
  ctx : Nat
  arrivals : Nat × Nat
  migrantAt : Nat
  prev : Option Interval
  ship : Option Ship
  blocked : Bool
  want : Bool
  deferred : Bool
  keeps : Option Mirror
  staging : Option Staging
  held : List (Instr × Payload)
  fence : Nat
  cause : Nat
  tries : Nat
  moving : Bool
  relief : Bool
  replay : Bool
  script : List LogRec
  skip : Nat
  quiet : Bool
  source : List LogRec
  total : Nat
  chain : Nat
  target : Option (Nat × Nat)
  trial : Option Nat
  hung : Bool
  missed : Nat
  asked : Nat
  stopped : Nat
  saving : Nat
  deriving DecidableEq, Repr

def Router.reset : Router :=
  { cyc := 0, base := 0, logFrom := 0, mode := .live, mask := 0, log := [], sent := [], out := [], ctx := 0, arrivals := (0, 0), migrantAt := 0
    prev := none, ship := none, blocked := false, want := false, deferred := false, keeps := none, staging := none, held := []
    fence := 0, cause := 0, tries := 0, moving := false, relief := false, replay := false, script := [], skip := 0, quiet := false
    source := [], total := 0, chain := 0, target := none, trial := none, hung := false, missed := 0, asked := 0, stopped := 0, saving := 0 }

/-- One logical tile. -/
structure Tile where
  c : TileCtx
  r : Router
  deriving DecidableEq, Repr

def Tile.reset : Tile := { c := TileCtx.reset, r := Router.reset }

end Sys2Proof.Machine
end

