-- ==== Sys2Proof/Config.lean ====
section
/-!
DEFINITION. The values the spec leaves open (log 6): constants without a body, applied to the counter `State.free`, which
every use advances. Nothing can evaluate them, so a statement that holds holds whatever they are.
-/
namespace Sys2Proof

/-- Latency of the cellar, the host, the control die and span links, beyond one cycle (log 7). -/
opaque Config.memLatency : Nat → Nat
/-- Which range-lock entry RANGE_LOCKED reports (log 10). -/
opaque Config.lockIndex : Nat → Nat
/-- Bytes whose layout the spec does not give: status block, attestation report, device status (log 13). -/
opaque Config.byte : Nat → Byte
/-- The partition tag a context's frames carry (log 23). -/
opaque Config.partTag : Nat → Nat
/-- Whether a signature verifies: key digest, algorithm, image (log 14). -/
opaque Config.verifies : Nat → Nat → List Byte → Bool

/-- Which tile of a partition carries out a COPY command, and the mask count of a current limit (log 30). -/
opaque Config.choice : Nat → Nat
/-- The CRC-32C of the flits of packets, whose bits the spec does not give for every packet (log 6). -/
opaque Config.flitCrc : List Machine.Packet → BitVec 32

end Sys2Proof
end

