-- ==== Sys2Proof/Machine/DeviceState.lean ====
section
/-!
DEFINITION. The state of the routers, the chiplets, the links and the firmware complex.
-/
namespace Sys2Proof.Machine

/-- A line of the gateway read cache: the line number (physical address / 64) and its bytes, most recently used first
(07 R154, R385). -/
structure CacheLine where
  line : Nat
  bytes : List Byte
  deriving DecidableEq, Repr

/-- A translation-cache entry: context, space 0x8 or 0x4, page base and log2 of its size, page address, permissions
(07 R151, R152). -/
structure TransEntry where
  ctx : Nat
  host : Bool
  base : Nat
  log : Nat
  pa : Nat
  rd : Bool
  wr : Bool
  deriving DecidableEq, Repr

/-- A slot-map entry, or a chiplet-map entry, whose `lost` is the dark bit (04 R77). -/
structure SlotMap where
  pslot : Nat
  v : Bool
  lost : Bool
  deriving DecidableEq, Repr

/-- An exception-table entry (04 R77), and the cycle in which its wave left the control die (05 R105). -/
structure Exception where
  ltn : Nat
  ptl : Nat
  v : Bool
  fwd : Bool
  shd : Bool
  since : Nat
  deriving DecidableEq, Repr

/-- A group as one member cluster's router keeps it (04 R82, R83): members that count in the open episode, the threads that
joined during it, those that have arrived and are parked, those that have arrived for the next episode, whether the cluster's arrival
has gone. Threads go by their tid. -/
structure GroupLocal where
  members : Nat
  late : List Nat
  waiting : List (Nat × Ref)
  early : List (Nat × Ref)
  sent : Bool
  deriving DecidableEq, Repr

def GroupLocal.reset : GroupLocal := { members := 0, late := [], waiting := [], early := [], sent := false }

/-- A group at its home router (04 R82): members by cluster, and the clusters that have arrived. -/
structure GroupHome where
  counts : Table Nat
  arrived : List Nat
  deriving DecidableEq, Repr

def GroupHome.reset : GroupHome := { counts := [], arrived := [] }

/-- A reduction slot of a router (04 R84, R85): context, group and number of the reduction, root or member slot,
operation and type, value so far, contributions, contributor bitmap, mismatch, expected count (root), whether the
early partial has gone, the cycle it opened in, contributors that have left the group (member slot). -/
structure RedSlot where
  ctx : Nat
  group : Nat
  num : Nat
  root : Bool
  op : Nat
  ty : Nat
  value : Word
  count : Nat
  map : Word
  mismatch : Bool
  expect : Nat
  early : Bool
  opened : Nat
  gone : Nat
  deriving DecidableEq, Repr

/-- A reduction result kept at a member cluster until its members take it (17 R371): how many may still take it. -/
structure RedResult where
  ctx : Nat
  group : Nat
  num : Nat
  ty : Nat
  value : Word
  mismatch : Bool
  takers : Nat
  deriving DecidableEq, Repr

/-- A mesh or express link of a router (04 R69): the errors it corrected, the flits it sent again, and the failures of the flit in
progress in a row. -/
structure LinkState where
  corrected : Nat
  resends : Nat
  failing : Nat
  deriving DecidableEq, Repr

def LinkState.reset : LinkState := { corrected := 0, resends := 0, failing := 0 }

/-- One cluster: its router's tables and links, and its gateway. An entry of the chiplet map that is not listed is the one boot
wrote (`Device.chipMap`); `exceptions` are the entries written into this router alone, by their index. -/
structure Cluster where
  rcache : List CacheLine
  tcache : List TransEntry
  chipMap : Table SlotMap
  slotMap : Table SlotMap
  exceptions : Table Exception
  links : Table LinkState
  groups : Table GroupLocal
  homes : Table GroupHome
  reds : List RedSlot
  results : List RedResult
  crash : List CrashRec
  wdlimit : Nat
  failed : List Nat
  deriving DecidableEq, Repr

def Cluster.reset : Cluster :=
  { rcache := [], tcache := [], chipMap := [], slotMap := [], exceptions := [], links := [], groups := [], homes := [], reds := [], results := []
    crash := [], wdlimit := 0x10000, failed := [] }

/-- A request for an operating point (0 to 10 steps below nominal, none) and a mask count (01 R17). -/
structure PointReq where
  point : Nat
  mask : Nat
  deriving DecidableEq, Repr

/-- One compute chiplet (01 R10 to R22). `point` counts steps of 125 MHz below nominal; `boost` is the point above. -/
structure Chiplet where
  powered : Bool
  spare : Bool
  lost : Bool
  point : Nat
  boost : Bool
  changing : Bool
  thermal : PointReq
  current : PointReq
  firmware : PointReq
  boostReq : Bool
  boostOn : Bool
  throttle : Bool
  throttled : Bool
  ilim : Bool
  runs : Nat
  mask : Nat
  thThrottle : Int
  thSave : Int
  thTrip : Int
  thCurrent : Nat
  seq : Nat
  sampleThr : Bool
  sampleIlim : Bool
  deriving DecidableEq, Repr

/-- A chiplet before boot; thresholds at their fused values (01 R16), temperatures in sixteenths of a degree and
currents in tenths of an ampere. -/
def Chiplet.reset : Chiplet :=
  { powered := false, spare := false, lost := false, point := 0, boost := false, changing := false
    thermal := { point := 0, mask := 0 }, current := { point := 0, mask := 0 }, firmware := { point := 0, mask := 0 }
    boostReq := false, boostOn := false, throttle := false, throttled := false, ilim := false
    runs := 0, mask := 0, thThrottle := 1680, thSave := 1840, thTrip := 2000, thCurrent := 4200, seq := 0
    sampleThr := false, sampleIlim := false }

/-- An inbound window of a link (02 R27). -/
structure InWindow where
  v : Bool
  base : Nat
  log : Nat
  target : Nat
  deriving DecidableEq, Repr

/-- A DMA window entry (02 R28). -/
structure DmaEntry where
  v : Bool
  rd : Bool
  wr : Bool
  ctx : Nat
  devBase : Nat
  hostBase : Nat
  pages : Nat
  deriving DecidableEq, Repr

/-- A span peer entry (02 R35). -/
structure PeerEntry where
  v : Bool
  cp : Bool
  ch : Bool
  port : Nat
  ptag : Nat
  dev : Nat
  rate : Nat
  deriving DecidableEq, Repr

/-- A span port (02 R33, R39). -/
structure SpanPort where
  lanes : Nat
  up : Bool
  downAt : Nat
  lastRx : Nat
  lastTx : Nat
  rejects : Nat
  discards : Nat
  sent : List (List Byte)
  deriving DecidableEq, Repr

def SpanPort.reset : SpanPort :=
  { lanes := 8, up := false, downAt := 0, lastRx := 0, lastTx := 0, rejects := 0, discards := 0, sent := [] }

/-- An accepted command of a queue (03 R50 to R53): its number, the context its addresses are translated in, its eight
doublewords, whether it has started, whether its queue has been unmapped since, and the value it has so far: last read by
a WAIT, appended by a TASKS. -/
structure Command where
  id : Nat
  ctx : Nat
  words : List Word
  started : Bool
  orphan : Bool
  value : Word
  deriving DecidableEq, Repr

/-- A queue slot (03 R48 to R53). `reason` is the map status: 0 none, else the detail it reports. `served` orders turns, `tail` is
the tail a worker read last, `accepting` a worker at work on the entry at head. -/
structure Queue where
  mapped : Bool
  record : Word
  ring : Word
  rlog : Nat
  prio : Nat
  ctx : Nat
  dpost : Bool
  wline : Nat
  held : List Byte
  pending : Bool
  rereading : Bool
  head : Nat
  tail : Nat
  state : Nat
  reason : Nat
  served : Nat
  accepting : Bool
  commands : List Command
  deriving DecidableEq, Repr

def Queue.reset : Queue :=
  { mapped := false, record := 0, ring := 0, rlog := 0, prio := 0, ctx := 0, dpost := false, wline := 0, held := []
    pending := false, rereading := false, head := 0, tail := 0, state := 0, reason := 0, served := 0, accepting := false
    commands := [] }

/-- A rectangle of the cluster grid with its stitch (03 R47). -/
structure Region where
  col0 : Nat
  row0 : Nat
  width : Nat
  height : Nat
  stitch : Nat
  deriving DecidableEq, Repr

/-- A launch of a context (03 R55 to R65): its descriptor's values, the command it completes, whether it is populated,
and what its end will report. `slot` and `pos` name its queue and command, `since` the cycle its residency
began. `abort` holds a completion status and detail once something ends it early, `abortAt` when, where and in which slot; `sig`,
`shadowSig` and `thirdSig` are the signatures of the copies so far, `rerun` a third copy that waits for its slots; `owed` are the copies of
ended threads that are not complete (tile, operation, bytes that the chain folded after it), `paid` those complete before the end of their
thread, with their CRCs. -/
structure Launch where
  lix : Nat
  lid : BitVec 32
  slot : Nat
  pos : Nat
  code : Word
  limit : BitVec 32
  entry : BitVec 32
  seeds : List Word
  quota : Nat
  paired : Bool
  prio : Nat
  poolcfg : BitVec 32
  live : Word
  nlive : BitVec 32
  pkq : Word
  tlim : Nat
  slice : Nat
  populated : Bool
  elapsed : Nat
  since : Nat
  abort : Option (Nat × Nat)
  abortAt : Nat × Nat × Nat
  owed : List (Nat × Nat × Nat)
  paid : List (Nat × Nat × List Nat)
  sig : Word
  shadowSig : Word
  thirdSig : Option Word
  rerun : Bool
  extents : List (Nat × Nat × Nat)
  deriving DecidableEq, Repr

/-- What a context's partition is doing (03 R54, 05 R111, 06 R136). -/
inductive Residency where
  | resident | unplaced | stopping | parked | restoring
  deriving DecidableEq, Repr

/-- A thread waiting in TASK at the packet server (06 R135), with its queue. -/
structure TaskWait where
  src : Ref
  pkq : Word
  deriving DecidableEq, Repr

/-- A host-created context (03 R47). What a parked image does not hold stays in `image` (log 27), with the bytes of each tile's save in
`sizes`; `imageAt` is the address that a RESUME has given for another image, `since` the cycle in which its slice timer started, `reqAt`
that of the last request to pre-empt it, `switchFrom` that of the request whose switch brings it in (06 R138, R139); `dropped` are the
chiplets whose last sample its telemetry ring had no room for (01 R22). -/
structure Ctx where
  xlroot : Nat
  region : Region
  shadow : Option Region
  tbase : Nat
  tlog : Nat
  record : Word
  park : Nat
  parksz : Nat
  res : Residency
  lids : Nat
  launches : Table Launch
  waiting : List Launch
  tasks : List TaskWait
  heldPos : List (Word × Nat)
  deferred : Bool
  suspendCmd : Option (Nat × Nat)
  resumeCmd : Option (Nat × Nat)
  image : Table TileCtx
  sizes : Table Nat
  imageAt : Option Word
  queued : Bool
  since : Nat
  reqAt : Nat
  switchFrom : Option Nat
  dropped : List Nat
  deriving DecidableEq, Repr

/-- The boot status Tolpen shows (01 R23). -/
inductive Boot where
  | off | halted | recovery | waitHost | ready
  deriving DecidableEq, Repr

/-- Fused facts the boot ROM reads (01 R23): whether the fuses read well, the spare chiplets, the device identity, the
digests of the two firmware keys. -/
structure Fuses where
  ok : Bool
  spares : List Nat
  ident : Nat
  keyDigests : Nat × Nat
  deriving DecidableEq, Repr

/-- An incident capture kept in the cellar (05 R115): the tile, its context, the tiles of its partition, the cellar address of the header;
what the header says of the detector, the fence cycle and the CRC of the flits; and the checkpoint, records and injections that are kept
there. -/
structure Incident where
  tile : TileId
  ctx : Nat
  peers : List TileId
  at_ : Nat
  cause : Nat
  fence : Nat
  icrc : BitVec 32
  mirror : Mirror
  source : List LogRec
  sent : List Packet
  deriving DecidableEq, Repr

/-- The always-on part: links, queues, contexts, ports, firmware registers and status. -/
structure Device where
  boot : Boot
  fuses : Fuses
  image : List Byte
  staged : Nat × Nat
  lostStacks : List Nat
  windows : Table InWindow
  missed : List Nat
  dma : Table DmaEntry
  peers : Table (Table PeerEntry)
  peerSelect : Nat
  peerDiscard : Bool
  refusals : BitVec 32
  reserve : Nat
  root0 : Nat
  queues : Table Queue
  contexts : Table Ctx
  ports : Table SpanPort
  chipMap : Table SlotMap
  exceptions : List Exception
  waveEnd : Nat
  badTiles : List Nat
  correctedErrors : Nat
  crashLost : Nat
  lastSwitch : Nat
  shadowDiscards : Nat
  parkedReports : List Nat
  coldefer : Nat
  poison : List Nat
  cleaned : List Nat
  incidents : List Incident
  replays : List (Nat × Option Nat)
  hostReads : List (List Byte)
  restarts : Nat
  workers : Nat
  dmaWritten : Bool
  peersWritten : Bool
  deriving DecidableEq, Repr

/-- The device before boot. The spare chiplets 128 to 135 and identity 0 are the model's (log 1). -/
def Device.reset : Device :=
  { boot := .off, fuses := { ok := true, spares := [128, 129, 130, 131, 132, 133, 134, 135], ident := 0
                             keyDigests := (0, 0) }
    image := [], staged := (0, 0), lostStacks := [], windows := [], missed := [], dma := [], peers := [], peerSelect := 0
    peerDiscard := false, refusals := 0, reserve := 256, root0 := 0, queues := [], contexts := [], ports := []
    chipMap := [], exceptions := [], waveEnd := 0, badTiles := [], correctedErrors := 0, crashLost := 0, lastSwitch := 0, shadowDiscards := 0, parkedReports := []
    coldefer := 10000000, poison := [], cleaned := [], incidents := [], replays := [], hostReads := [], restarts := 0, workers := 8
    dmaWritten := false, peersWritten := false }

end Sys2Proof.Machine
end

