-- ==== Sys2Proof/Machine/State.lean ====
section
/-!
DEFINITION. The whole machine as plain data, its state after reset, and the reasons a step can stop.
-/
namespace Sys2Proof.Machine

/-- The thread that acts: tile, slot, and the NH of the line its instruction came from. -/
structure Cursor where
  tile : TileId
  slot : Fin 16
  nh : Nat
  deriving DecidableEq, Repr

/-- The machine. -/
structure State where
  now : Nat
  free : Nat
  tok : Nat
  agenda : List Timed
  input : Payload
  cur : Cursor
  turns : List TileId
  cellar : Memory
  host : Memory
  tiles : Table Tile
  clusters : Table Cluster
  chiplets : Table Chiplet
  dev : Device
  chans : List (Nat × Nat × Nat × Nat)
  deriving DecidableEq, Repr

/-- Why the machine stops. -/
inductive Fault where
  /-- Raised by `step` after a boot failure: the always-on domain halts the module (01 R23). Safe: the module does
  nothing more. -/
  | bootHalted
  deriving DecidableEq, Repr

/-- Why a step has no meaning. -/
inductive Refusal where
  /-- Raised by an arm of `exec` whose instruction has no meaning yet. Safe: nothing is claimed of it. -/
  | notModelled (mnemonic : String)
  deriving DecidableEq, Repr

/-- The answer of a meaning. -/
abbrev Out := Host.Outcome State Fault Refusal

/-- The machine right after reset (01 R23): power has just come up and the boot order is about to run. -/
def State.reset : State :=
  { now := 0, free := 0, tok := 0, agenda := [{ due := 0, ev := .boot, arg := .none }], input := .none
    cur := { tile := 0, slot := 0, nh := 31 }, turns := [], cellar := [], host := [], tiles := []
    clusters := [], chiplets := [], dev := Device.reset, chans := [] }

end Sys2Proof.Machine
end

