-- ==== Sys2Proof/Machine/Ops.lean ====
section
/-!
DEFINITION. The named operations every meaning is built from: registers, the end step, parking, the pool, traps and
the return from them.
-/
namespace Sys2Proof.Machine

/-! ### Tiles and threads -/

def State.tile (s : State) (k : TileId) : Tile := (s.tiles.get? k).getD Tile.reset

def State.setTile (s : State) (k : TileId) (t : Tile) : State := { s with tiles := s.tiles.set k t }

def State.setCtx (s : State) (k : TileId) (c : TileCtx) : State := s.setTile k { s.tile k with c := c }

def State.setRouter (s : State) (k : TileId) (r : Router) : State := s.setTile k { s.tile k with r := r }

def Tile.slot (t : Tile) (j : Fin 16) : Option Thread := t.c.slots[j]

def Tile.setSlot (t : Tile) (j : Fin 16) (th : Option Thread) : Tile :=
  { t with c := { t.c with slots := t.c.slots.set j.val th j.isLt } }

/-- The launch-table entry of a thread (06 R126). -/
def Tile.launchOf (t : Tile) (lix : BitVec 4) : LaunchEntry := (t.c.launches.get? lix.toNat).getD LaunchEntry.reset

/-- The work-packet queue of a thread's launch. -/
def Tile.launchPkq (t : Tile) (lix : BitVec 4) : Nat := (t.launchOf lix).pkq.toNat

/-- The thread in slot `j` of tile `k`. -/
def State.thr (s : State) (k : TileId) (j : Fin 16) : Thread := ((s.tile k).slot j).getD Thread.reset

def State.setThr (s : State) (k : TileId) (j : Fin 16) (th : Thread) : State :=
  s.setTile k ((s.tile k).setSlot j (some th))

/-- The thread that acts. -/
def State.me (s : State) : Thread := s.thr s.cur.tile s.cur.slot

def State.setMe (s : State) (th : Thread) : State := s.setThr s.cur.tile s.cur.slot th

/-- The tile of the thread that acts. -/
def State.here (s : State) : Tile := s.tile s.cur.tile

/-! ### General registers, full/empty bits, predicates -/

/-- G[r] (00 R7): g0 reads 0. -/
def Thread.reg (th : Thread) (r : Reg) : Word := if r = 0 then 0 else th.regs[r]

/-- FE_G[r]: g0 is always full (14 R284). -/
def Thread.isFull (th : Thread) (r : Reg) : Bool := r == 0 || th.full.getLsbD r.val

/-- The mask with bit `r` set. -/
def regBit (r : Reg) : BitVec 32 := 1#32 <<< r.val

/-- G[r] ← v (00 R7, 13 R246): g0 discards it; any other register becomes full. -/
def Thread.setReg (th : Thread) (r : Reg) (v : Word) : Thread :=
  if r = 0 then th
  else { th with regs := th.regs.set r.val v r.isLt, full := th.full ||| regBit r }

/-- Q[q]. -/
def Thread.pred (th : Thread) (q : Pred) : Bool := th.pw.getLsbD q.val

/-- Q[q] ← b. -/
def Thread.setPred (th : Thread) (q : Pred) (b : Bool) : Thread :=
  { th with pw := if b then th.pw ||| (1#16 <<< q.val) else th.pw &&& ~~~(1#16 <<< q.val) }

/-! ### Code offsets and the end step -/

/-- line(p) (12 R235). -/
def lineOf (p : Word) : Word := p &&& ~~~63#64

/-- head(p) (12 R235). -/
def headOf (p : Word) : Nat := p.toNat / 2 % 32

/-- next(p) for a line of `nh` heads (12 R235). -/
def nextOf (nh : Nat) (p : Word) : Word := if headOf p < nh then p + 2 else lineOf p + 66

/-- target(L, H) at the head `p` (12 R236). -/
def targetAt (p : Word) (t : Target) : Word := lineOf p + (t.l.signExtend 64) * 64 + t.h.setWidth 64 * 2

/-- The loop of the end step (13 R263): the stack it leaves, and the start it returns to if a pass remains. -/
def endLoops (p : Word) (loops : List LoopEntry) : List LoopEntry × Option (BitVec 32) :=
  match loops with
  | [] => ([], none)
  | e :: es =>
    if e.stop.setWidth 64 = p then
      if e.count - 1 = 0 then endLoops p es
      else ({ e with count := e.count - 1 } :: es, some e.start)
    else (e :: es, none)

/-- The offset and loop stack after the head at PC has retired: the end step of 13 R263. -/
def Thread.stepEnd (th : Thread) (nh : Nat) : Thread :=
  { th with
    loops := (endLoops th.pc th.loops).1
    pc := match (endLoops th.pc th.loops).2 with
          | some start => start.setWidth 64
          | none => nextOf nh th.pc
    via := th.pc }

/-- The head retires: the end step, no park, and no reads of its own left. -/
def Thread.retire (th : Thread) (nh : Nat) : Thread := { th.stepEnd nh with park := none, rbuf := [] }

/-- PC ← t by a transfer of control, to which no end step applies (13 R263). -/
def Thread.jump (th : Thread) (t : Word) : Thread := { th with pc := t, via := th.pc, park := none }

/-- unwind(t) (13 R265). -/
def unwindLoops (t : Word) (loops : List LoopEntry) : List LoopEntry :=
  match loops with
  | [] => []
  | e :: es =>
    if (e.start.setWidth 64).ule t && t.ule (e.stop.setWidth 64) then e :: es else unwindLoops t es

/-! ### Completing and parking -/

/-- The instruction completes: the thread as given, after the end step. -/
def State.done (s : State) (th : Thread) : Out := .next (s.setMe (th.retire s.cur.nh))

/-- The acting thread parks with its effects so far kept; the token names it to its wake (06 R121). -/
def State.park (s : State) (th : Thread) (why : ParkWhy) : State :=
  let t := s.here.setSlot s.cur.slot (some { th with park := some { why := why, tok := s.here.c.tok, nh := s.cur.nh, since := s.here.r.cyc } })
  s.setTile s.cur.tile { t with c := { t.c with tok := t.c.tok + 1 } }

/-- The acting thread as the next park names it to its wake. -/
def State.nextRef (s : State) : Ref := { tile := s.cur.tile, tok := s.here.c.tok }

/-- The mask of the registers of `rs` that are empty. -/
def Thread.emptyMask (th : Thread) (rs : List Reg) : BitVec 32 :=
  match rs with
  | [] => 0
  | r :: rs => (if th.isFull r then 0 else regBit r) ||| th.emptyMask rs

/-- Reading registers (13 R246, 09 R182): an empty one parks the thread before anything else happens. -/
def State.withRegs (s : State) (rs : List Reg) (k : Thread → Out) : Out :=
  if rs.all s.me.isFull then k s.me else .next (s.park s.me (.empty (s.me.emptyMask rs)))

/-! ### The agenda -/

/-- An event due `n` cycles from now. -/
def State.after (s : State) (n : Nat) (ev : Instr) (arg : Payload) : State :=
  { s with agenda := s.agenda ++ [{ due := s.now + n, ev := ev, arg := arg }] }

/-- The next value of the counter of free values (log 6). -/
def State.draw (s : State) : State := { s with free := s.free + 1 }

/-- The number of the next free value that tile `k` uses; replay finds the same (log 6, log 25). -/
def State.drawAt (s : State) (k : TileId) : Nat := (s.tile k).c.draws * 2 ^ 21 + k

/-- The free value of that number has been used. -/
def State.drawn (s : State) (k : TileId) : State := s.setCtx k { (s.tile k).c with draws := (s.tile k).c.draws + 1 }

/-! ### The log of a tile position (05 R99 to R102) -/

/-- Records that a record of `len` payload bytes takes (05 R100); a reference has no continuation, and a note takes none. -/
def LogRec.size (x : LogRec) : Nat := if x.kind = 0 then 0 else if x.ref then 1 else 1 + (x.len - 8 + 15) / 16

/-- The records of intervals: of this one, and of the one before until its commit. -/
def Router.logged (r : Router) : List LogRec := ((r.prev.map Interval.log).getD []) ++ r.log

/-- Records of the area. -/
def Router.records (r : Router) : Nat := (r.logged.map LogRec.size).sum

/-- Records of the area that events other than PREEMPT, MASK and RESTART may take (05 R99). -/
def logRoom : Nat := 2048 - 64

/-- Records of `n` may still be written: in the 64 reserved ones if `reserve` says so (05 R99, R102). -/
def Router.hasRoom (r : Router) (n : Nat) (reserve : Bool) : Bool := decide (r.records + n ≤ if reserve then 2048 else logRoom)

/-- The area has no record left but the reserved ones (05 R102). -/
def Router.logFull (r : Router) : Bool := !r.hasRoom 1 false

/-- A record of an event of tile `k`, written before the event takes effect. A record that replay delivers stands in the log
already (05 R106); what its delivery marks or notes beside it is found anew. -/
def State.logRec (s : State) (k : TileId) (kind slot len : Nat) (ref : Bool) (ev : Instr) (arg : Payload) (val : Word) : State :=
  let r := (s.tile k).r
  if r.quiet && arg != .none && !(kind == 0 && ref) then s
  else s.setRouter k { r with
    log := r.log ++ [{ cyc := r.cyc, kind := kind, slot := slot, ref := ref, len := len, ev := ev, arg := arg, val := val }] }

def State.log (s : State) (k : TileId) (kind slot len : Nat) (ev : Instr) (arg : Payload) (val : Word) : State :=
  s.logRec k kind slot len false ev arg val

/-- A note beside the log of tile `k`: an event from outside for which R101 has no kind (log 25). -/
def State.note (s : State) (k : TileId) (ev : Instr) (arg : Payload) : State := s.logRec k 0 0 0 false ev arg 0

/-- A record that replay delivers; the others are made again by what replay executes. -/
def LogRec.delivered (x : LogRec) : Bool := x.arg != .none && !(x.kind == 0 && x.ref)

/-- What the script of a tile in replay says that its core found outside the tile in this cycle. -/
def Router.kept (r : Router) (ev : Instr) (j : Nat) : Option LogRec :=
  r.script.find? (fun x => x.kind == 0 && x.ref && x.cyc == r.cyc && x.ev == ev && x.slot == j)

/-- What the core of tile `k` finds outside it in the course of an event, kept beside the log under `ev` and `j`; replay finds what the
first run found, and looks where that did not (log 25, 18 R373). -/
def State.outside (s : State) (k : TileId) (ev : Instr) (j : Nat) (look : State → State × Payload) : State × Payload :=
  let r := (s.tile k).r
  match r.replay, r.kept ev j with
  | true, some x => ((s.setRouter k { r with script := r.script.erase x }).logRec k 0 j 0 true ev x.arg 0, x.arg)
  | _, _ =>
    let x := look s
    (x.1.logRec k 0 j 0 true ev x.2 0, x.2)

/-! ### Clusters and packets (04 R66 to R87) -/

def State.cluster (s : State) (k : Nat) : Cluster := (s.clusters.get? k).getD Cluster.reset
def State.setCluster (s : State) (k : Nat) (c : Cluster) : State := { s with clusters := s.clusters.set k c }

/-- The cluster of a tile; shadow tiles have clusters of their own (04 R79). -/
def clusterOf (t : TileId) : Nat := t / 32

/-- Tiles of the shadow of a paired launch carry 2 ^ 18 (04 R79). -/
def isShadow (t : TileId) : Bool := decide (2 ^ 18 ≤ t)
def shadowBase (t : TileId) : Nat := t / 2 ^ 18 * 2 ^ 18
/-- The logical tile number of a tile (00 R8). -/
def ltnOf (t : TileId) : Nat := t % 2 ^ 18

def Device.ctx? (d : Device) (n : Nat) : Option Ctx := d.contexts.get? n

/-- Site column and row of a physical chiplet (04 R67). -/
def siteOf (c : Nat) : Nat × Nat :=
  if c < 8 then (2 + c, 0) else if c < 128 then ((c - 8) % 12, 1 + (c - 8) / 12) else (2 + (c - 128), 11)

/-- The physical chiplet at a grid coordinate, if its site is populated (01 R9, 04 R67). -/
def chipAt (x y : Nat) : Option Nat :=
  let sc := x / 8
  let sr := y / 8
  if sr = 0 ∧ 2 ≤ sc ∧ sc ≤ 9 then some (sc - 2)
  else if 1 ≤ sr ∧ sr ≤ 10 ∧ sc ≤ 11 then some (8 + 12 * (sr - 1) + sc)
  else if sr = 11 ∧ 2 ≤ sc ∧ sc ≤ 9 then some (126 + sc)
  else none

/-- Grid coordinate of a cluster of a physical chiplet (04 R67). -/
def coordOf (chip c : Nat) : Nat × Nat := (8 * (siteOf chip).1 + c % 8, 8 * (siteOf chip).2 + c / 8)

/-! ### Links of a route (01 R9, 04 R74, R75, R80, R81) -/

def Region.holds (r : Region) (p : Nat × Nat) : Bool :=
  decide (r.col0 ≤ p.1) && decide (p.1 < r.col0 + r.width) && decide (r.row0 ≤ p.2) && decide (p.2 < r.row0 + r.height)

/-- Rectangles of the grid whose express links a stitch has reassigned (04 R81). -/
def Device.stitched (d : Device) : List Region :=
  (d.contexts.flatMap (fun c => c.2.region :: c.2.shadow.toList)).filter (fun r => r.stitch != 0)

/-- The express link between two routers 8 positions apart: both ends populated, and not both inside one stitched rectangle (04
R80, R81). -/
def Device.express (d : Device) (p q : Nat × Nat) : Bool :=
  (chipAt p.1 p.2).isSome && (chipAt q.1 q.2).isSome && !d.stitched.any (fun r => r.holds p && r.holds q)

/-- Links from coordinate `a` to `b` of one dimension, `at` giving the router at a coordinate: an express link where 8 or more
remain and there is one, else a mesh link (04 R80). -/
def Device.lineHops (d : Device) (at_ : Nat → Nat × Nat) (a b fuel : Nat) : Nat :=
  match fuel with
  | 0 => 0
  | fuel + 1 =>
    if a = b then 0
    else if a < b then
      if a + 8 ≤ b ∧ d.express (at_ a) (at_ (a + 8)) then 1 + d.lineHops at_ (a + 8) b fuel else 1 + d.lineHops at_ (a + 1) b fuel
    else
      if b + 8 ≤ a ∧ d.express (at_ a) (at_ (a - 8)) then 1 + d.lineHops at_ (a - 8) b fuel else 1 + d.lineHops at_ (a - 1) b fuel

def Device.rowHops (d : Device) (y a b : Nat) : Nat := d.lineHops (fun x => (x, y)) a b 96
def Device.colHops (d : Device) (x a b : Nat) : Nat := d.lineHops (fun y => (x, y)) a b 96

/-- Hops round a ring of `n` routers, the shorter way (04 R81). -/
def ringHops (n a b : Nat) : Nat := min (max a b - min a b) (n - (max a b - min a b))

/-- The nearest row in 8 to 87 (01 R9, 04 R75). -/
def bandRow (y : Nat) : Nat := min 87 (max 8 y)

/-- Links of a route between two routers, the sender in rectangle `r`: inside it along x and then y, round the rings of its stitch
(04 R74, R80, R81); out of it by the band route (04 R75). -/
def Device.routeHops (d : Device) (r : Option Region) (p q : Nat × Nat) : Nat :=
  match r with
  | some r =>
    if r.holds q then
      if r.stitch = 1 then ringHops r.width p.1 q.1 + ringHops r.height p.2 q.2
      else if r.stitch = 2 then ringHops r.width p.1 q.1 + (max p.2 q.2 - min p.2 q.2)
      else d.rowHops p.2 p.1 q.1 + d.colHops q.1 p.2 q.2
    else d.colHops p.1 p.2 (bandRow p.2) + d.rowHops (bandRow p.2) p.1 q.1 + d.colHops q.1 (bandRow p.2) q.2
  | none => d.colHops p.1 p.2 (bandRow p.2) + d.rowHops (bandRow p.2) p.1 q.1 + d.colHops q.1 (bandRow p.2) q.2

/-- Links from the control die to a router, its own link counted: it enters the mesh at the left column, in the row nearest the
router's within 8 to 87 (01 R9). No router lies more than 19 links away (log 71). -/
def Device.dieHops (d : Device) (q : Nat × Nat) : Nat :=
  min 19 (1 + d.rowHops (bandRow q.2) 0 q.1 + d.colHops q.1 (bandRow q.2) q.2)

/-! ### Where the routers find a tile (04 R77 to R79) -/

/-- The physical chiplet of a logical one by the map that boot wrote into every router; before it does, the same number. -/
def Device.physChip (d : Device) (c : Nat) : Nat :=
  match d.chipMap.get? c with
  | some e => if e.v then e.pslot else c
  | none => c

/-- The physical chiplet of a logical one by the chiplet map of the router of cluster `cl` (04 R66, R77). -/
def State.chipOn (s : State) (cl c : Nat) : Nat :=
  match (s.cluster cl).chipMap.get? c with
  | some e => if e.v then e.pslot else c
  | none => s.dev.physChip c

/-- The chiplet-map entry of a spare chiplet says whether it is dark (04 R77). -/
def State.setDark (s : State) (chip : Nat) (dark : Bool) : State :=
  { s with dev := { s.dev with chipMap := s.dev.chipMap.map (fun e =>
      if 128 ≤ e.1 ∧ e.2.pslot = chip then (e.1, { e.2 with lost := dark }) else e) } }

/-- An exception entry matches a tile: the logical number and the shadow bit (04 R77, R79). -/
def Exception.isFor (e : Exception) (t : TileId) : Bool := e.v && e.ltn == ltnOf t && e.shd == isShadow t

/-- The grid coordinate of a tile's cluster without exceptions, by the chiplet map of cluster `cl`. -/
def State.gridOf (s : State) (cl : Nat) (t : TileId) : Nat × Nat :=
  let p := coordOf (s.chipOn cl (ltnOf t / 2048)) (ltnOf t / 32 % 64)
  if isShadow t then
    match s.dev.ctx? (s.tile t).r.ctx with
    | some c =>
      match c.shadow with
      | some r => (p.1 - c.region.col0 + r.col0, p.2 - c.region.row0 + r.row0)
      | none => p
    | none => p
  else p

/-- Links from the control die to the router of cluster `cl`. -/
def State.dieLinks (s : State) (cl : Nat) : Nat := s.dev.dieHops (s.gridOf cl (cl * 32))

/-- The exception entry that the router of cluster `cl` finds for a tile: one that firmware wrote there alone, or one of a rebind
wave that has reached it, the latest first (04 R77, R78, 05 R105). -/
def State.exceptionAt (s : State) (cl : Nat) (t : TileId) : Option Exception :=
  (((s.cluster cl).exceptions.map (fun e => e.2)).find? (fun e => e.isFor t && !e.fwd)).orElse (fun _ =>
    s.dev.exceptions.find? (fun e => e.isFor t && decide (e.since + 3 * s.dieLinks cl < s.now)))

/-- Where the router of cluster `cl` finds a tile (04 R77, R79). -/
def State.locate (s : State) (cl : Nat) (t : TileId) : Nat × Nat :=
  match s.exceptionAt cl t with
  | some e => coordOf (e.ptl / 2 ^ 12) (e.ptl / 64 % 64)
  | none => s.gridOf cl t

/-- The rectangle that a tile's packets start in. -/
def State.regionAt (s : State) (t : TileId) : Option Region :=
  (s.dev.ctx? (s.tile t).r.ctx).bind (fun c => if isShadow t then c.shadow else some c.region)

/-- Links a packet traverses between two tiles. -/
def State.hops (s : State) (a b : TileId) : Nat :=
  let p := s.locate (clusterOf a) a
  let q := s.locate (clusterOf a) b
  if p = q then 0 else s.dev.routeHops (s.regionAt a) p q

/-- The number that stands for the control die, the cellar and the host as an end of a channel. -/
def memoryPort : Nat := 2 ^ 20

/-- The physical cluster at a grid coordinate. -/
def placeAt (p : Nat × Nat) : Nat := (chipAt p.1 p.2).getD 0 * 64 + (p.2 % 8 * 8 + p.1 % 8)

/-- A packet or request in flight: due `n` cycles from now, but not before an earlier one of its channel (04 R76). Its router looks up
where its tile is (R77). -/
def State.sendOn (s : State) (src dst cls n : Nat) (ev : Instr) (arg : Payload) : State :=
  let last := (s.chans.find? (fun c => c.1 == src && c.2.1 == dst && c.2.2.1 == cls)).map (fun c => c.2.2.2)
  let due := max (s.now + n) (last.getD 0)
  { s with
    chans := (src, dst, cls, due) :: s.chans.filter (fun c => !(c.1 == src && c.2.1 == dst && c.2.2.1 == cls))
    agenda := s.agenda ++ [{ due := due, ev := ev, arg := arg
                             dest := if dst < memoryPort then
                               some (placeAt (s.locate (clusterOf (if src < memoryPort then src else dst)) dst)) else none }] }

/-- A packet with the shadow bit whose destination lies outside the shadow of its partition (04 R79). -/
def State.leavesShadow (s : State) (a b : TileId) : Bool := isShadow b && (s.tile b).r.ctx != (s.tile a).r.ctx

/-- A packet enters the buffer of tile `k`'s port, which injects it whole at the end of the cycle (04 R73, 05 R90). -/
def State.inject (s : State) (k : TileId) (p : Packet) : State :=
  s.setRouter k { (s.tile k).r with out := (s.tile k).r.out ++ [p] }

/-- A packet of `fl` flits from tile `a` to tile `b` in class `cls`: 18 + 3h + f cycles (04 R87). One that would leave the
shadow rectangle is discarded and counted (04 R79). -/
def State.packet (s : State) (a b cls fl : Nat) (ev : Instr) (arg : Payload) : State :=
  if s.leavesShadow a b then { s with dev := { s.dev with shadowDiscards := s.dev.shadowDiscards + 1 } }
  else s.inject a { src := a, dst := b, cls := cls, lat := 18 + 3 * s.hops a b + fl, slow := false, ev := ev, arg := arg }

/-- A request of tile `a` that goes to memory or the control die and comes back after an open time (log 7). -/
def State.askMemory (s : State) (a cls : Nat) (ev : Instr) (arg : Payload) : State :=
  s.inject a { src := a, dst := memoryPort, cls := cls, lat := 1, slow := true, ev := ev, arg := arg }

/-! ### The walker (07 R152) -/

/-- The physical chiplet of a cluster. -/
def State.chipOfCluster (s : State) (cl : Nat) : Nat :=
  let p := s.gridOf cl (cl * 32)
  (chipAt p.1 p.2).getD 0

/-- The end of the channel that stands for the walker of a cluster's chiplet. -/
def State.walkerOf (s : State) (cl : Nat) : Nat := memoryPort + 1 + s.chipOfCluster cl

/-- The cached translation of an address, if the cluster's gateway holds one (07 R152). -/
def Cluster.cachedTrans (c : Cluster) (ctx : Nat) (host : Bool) (va : Nat) : Option TransEntry :=
  c.tcache.find? (fun e => e.ctx == ctx && e.host == host && va / 2 ^ e.log == e.base)

/-- A miss goes to the walker of the chiplet, which serves one at a time in the order of arrival; a walk takes an open time
(log 7). -/
def State.walkNext (s : State) (cl : Nat) (arg : Payload) : State :=
  let w := s.walkerOf cl
  let last := ((s.chans.find? (fun c => c.1 == w && c.2.1 == w && c.2.2.1 == 6)).map (fun c => c.2.2.2)).getD 0
  (s.sendOn w w 6 (max s.now last - s.now + 1 + Config.memLatency s.free) .translationWalk arg).draw

/-- A read leaves for the gateway. -/
def State.ask (s : State) (r : Ref) (g : GateRead) : State := s.askMemory r.tile 1 .loadReply (.gate r g)

/-- A packet that the router of tile `a` sends by itself; no core injects it, and it is not made again in replay (05 R106). -/
def State.relay (s : State) (a b cls fl : Nat) (ev : Instr) (arg : Payload) : State :=
  if (s.tile a).r.quiet then s else s.sendOn a b cls (18 + 3 * s.hops a b + fl) ev arg

/-! ### Slots and the box room (06 R127, R128) -/

/-- Device time of a cycle in ns (log 8). -/
def State.ns (s : State) : Nat := s.now * 2 / 5

/-- Slot `j` is not masked (01 R19). -/
def Tile.unmasked (t : Tile) (j : Fin 16) : Bool := decide (j.val < 16 - t.r.mask)

/-- The lowest-numbered free unmasked slot. -/
def Tile.freeSlot (t : Tile) : Option (Fin 16) :=
  (List.finRange 16).find? (fun j => t.unmasked j && (t.slot j).isNone)

/-- tid[21:0] of a thread (06 R119). -/
def Thread.tid (th : Thread) : Nat := th.home.toNat + 2 ^ 18 * th.hslot.toNat

/-- The thread executes on its home tile. -/
def Thread.atHome (th : Thread) (k : TileId) : Bool := th.home.toNat == ltnOf k

/-! ### The end of a thread (06 R120, 09 R191, 03 R59) -/

/-- CRC-64 of ECMA-182, unreflected: one byte (03 R64). -/
def crc64Byte (c : Word) (b : Byte) : Word :=
  (List.range 8).foldl (fun c _ => if c.getLsbD 63 then (c <<< 1) ^^^ 0x42F0E1EBA9EA3693 else c <<< 1)
    (c ^^^ ((b.setWidth 64) <<< 56))

/-- Bytes folded into a signature chain (03 R64). -/
def fold64 (c : Word) (bs : List Byte) : Word := bs.foldl crc64Byte c

/-- A change to a launch of a context. -/
def State.withLaunch (s : State) (ctx lix : Nat) (f : Launch → Launch) : State :=
  match s.dev.ctx? ctx with
  | none => s
  | some c =>
    match c.launches.get? lix with
    | none => s
    | some l => { s with dev := { s.dev with contexts := s.dev.contexts.set ctx { c with launches := c.launches.set lix (f l) } } }

/-- The launch of a context at a launch index. -/
def State.launch? (s : State) (ctx lix : Nat) : Option Launch := (s.dev.ctx? ctx).bind (fun c => c.launches.get? lix)

/-- Firmware looks whether a launch has ended (03 R59), or a waiting one fits (03 R57). -/
def State.lookAt (s : State) (ctx lix : Nat) : State :=
  (s.after 1 .launchEnd (.nums ctx lix)).after 1 .population (.num ctx)

/-- An accumulator entry when its thread ends (16 R327). -/
def OwnEntry.leave (e : OwnEntry) (hslot : BitVec 4) : OwnEntry :=
  if e.owner ≠ hslot then e
  else
    match e.state with
    | .owned => OwnEntry.reset
    | .pinned => { e with att := false }
    | .spilled => { e with att := false }
    | _ => e

/-- The tile state when a home thread ends: its accumulator tiles (16 R327) and its merge round (17 R361). -/
def TileCtx.leave (c : TileCtx) (hslot : BitVec 4) : TileCtx :=
  let c := { c with own := c.own.mapVals (fun e => e.leave hslot) }
  match c.round with
  | none => c
  | some r =>
    if r.owner ≠ hslot then c
    else
      { c with
        round := none
        own := c.own.mapVals (fun e => if e.state == .staged then OwnEntry.reset else e)
        ops := c.ops.filter (fun o => o.id != r.op && !(match o.job with | .commit _ _ => true | _ => false))
        locks := c.locks.filter (fun l => l.op != r.op &&
          !(c.ops.any (fun o => o.id == l.op && (match o.job with | .commit _ _ => true | _ => false)))) }

/-- Doublewords 6 and 7 of the packet that a thread holds: where they stand, from its launch's queue (03 R60, 06 R130). -/
def Tile.heldAt (t : Tile) (th : Thread) : Word :=
  (t.launchOf th.lix).pkq + BitVec.ofNat 64 (64 + 64 * th.pkslot.toNat + 48)

/-- A migrant takes slot `j`. A thread whose migration was refused holds the fault for its next turn (06 R132); one that holds a
work packet waits until its tile has read tfmt and tscl (R130). -/
def State.enterSlot (s : State) (k : TileId) (j : Fin 16) (th : Thread) (refused : Option Word) : State :=
  let th := { th with park := none, fault := refused.map (fun va => { code := 0x0F, detail := 0, val := va }) }
  if !th.held then s.setTile k ((s.tile k).setSlot j (some th))
  else
    let t := s.tile k
    let r : Ref := { tile := k, tok := t.c.tok }
    let a := t.heldAt th
    let th := { th with park := some { why := .packet, tok := t.c.tok, nh := 0, since := t.r.cyc } }
    let t := t.setSlot j (some th)
    (s.setTile k { t with c := { t.c with tok := t.c.tok + 1 } }).ask r
      { ctx := t.r.ctx, host := false, va := a.toNat % 2 ^ 48, addr := a, size := 16, signed := false, toReg := false
        cached := true, fault := 0 }

/-- Threads waiting in the box room enter slots that have freed, in arrival order (06 R128). -/
def State.refill (s : State) (k : TileId) (fuel : Nat) : State :=
  match fuel with
  | 0 => s
  | fuel + 1 =>
    match (s.tile k).freeSlot, (s.tile k).c.guests with
    | some j, g :: gs =>
      let s := s.setCtx k { (s.tile k).c with
        guests := gs, resv := if g.entry < 16 then (s.tile k).c.resv.erase g.entry else (s.tile k).c.resv }
      (s.enterSlot k j g.thread g.refused).refill k fuel
    | _, _ => s

/-- The home router's cluster of a group: clusters of the partition in row-major order, group mod n (04 R82). -/
def State.partClusters (s : State) (k : TileId) : List Nat :=
  sortBy (fun a b =>
      let p := coordOf (s.dev.physChip (a % 8192 / 64)) (a % 64)
      let q := coordOf (s.dev.physChip (b % 8192 / 64)) (b % 64)
      decide (p.2 < q.2 ∨ (p.2 = q.2 ∧ p.1 ≤ q.1)))
    ((s.tiles.filter (fun x => x.2.r.ctx == (s.tile k).r.ctx && shadowBase x.1 == shadowBase k)).map (fun x => clusterOf x.1)).dedup

def State.groupHome (s : State) (k : TileId) (g : Nat) : Nat :=
  (s.partClusters k).getD (g % (s.partClusters k).length) (clusterOf k)

/-- A group request of thread `th`, on tile `k`, to the home router (04 R82): kind 0 join, 1 leave, 2 size. Membership counts at the
cluster of its home tile (06 R125). -/
def State.askGroup (s : State) (k : TileId) (th : Thread) (g kind reds : Nat) (src : Ref) : State :=
  s.packet k (s.groupHome k g * 32) 3 1 .groupRequest
    (.group (s.groupHome k g) (s.tile k).r.ctx g kind (clusterOf (shadowBase k + th.home.toNat)) reds th.tid src)

/-- No thread: the reference of a request nobody waits for. -/
def noRef : Ref := { tile := 2 ^ 20, tok := 0 }

/-- What the end of thread `th`, on tile `k`, does beyond freeing its slot (06 R120, R134): its groups, packet, accumulator tiles and
home, and the word to the control die that it has ended (03 R59). -/
def State.endEffects (s : State) (k : TileId) (th : Thread) : State :=
  let home := shadowBase k + th.home.toNat
  let s := th.groups.foldl (fun s m => s.askGroup k th m.group 1 m.reds noRef) s
  let s := if th.held then
      s.askMemory k 3 .packetRetire (.nums3 (s.tile k).r.ctx ((s.tile k).launchPkq th.lix) th.pkslot.toNat) else s
  let s := if th.atHome k then s.setCtx k ((s.tile k).c.leave th.hslot)
           else s.packet k home 3 1 .exitNotice (.tileNum home th.hslot.toNat)
  s.inject k { src := k, dst := memoryPort, cls := 3, lat := 1, slow := false, ev := .launchEnd, arg := .ended k th }

/-- The thread in slot `j` of tile `k` ends (06 R120). -/
def State.endThread (s : State) (k : TileId) (j : Fin 16) : State :=
  let th := s.thr k j
  let s := (s.setTile k ((s.tile k).setSlot j none)).refill k 16
  s.endEffects k th

/-- The reloadable extents of a tile's launches (05 R97): offset, length, cellar source. -/
def TileCtx.extents (c : TileCtx) : List (Nat × Nat × Nat) := c.launches.flatMap (fun l => l.2.extents)

/-- Lines that extents touch. -/
def extentLines (xs : List (Nat × Nat × Nat)) : List Nat :=
  (xs.flatMap (fun x => if x.2.1 = 0 then [] else
    (List.range ((x.1 + x.2.1 + 63) / 64 - x.1 / 64)).map (fun i => x.1 / 64 + i))).dedup

/-- The tile without a launch's table entry (06 R126). Lines of the extents that it alone has declared are mirrored from now on, and what it
has stored into them counts no more (05 R97). -/
def TileCtx.unload (c : TileCtx) (lix : Nat) (launch : BitVec 32) : TileCtx :=
  match c.launches.get? lix with
  | none => c
  | some e =>
    if e.lid ≠ launch then c
    else
      let c' := { c with launches := c.launches.erase lix }
      let ls := (extentLines e.extents).filter (fun l => !(extentLines c'.extents).contains l)
      { c' with dirty := ls.foldl setAdd c.dirty, stored := c.stored.filter (fun l => !ls.contains l) }

/-- The tile without a launch's threads, operations, posted stores and table entry (03 R59). -/
def TileCtx.dropLaunch (c : TileCtx) (lix : BitVec 4) (launch : BitVec 32) : TileCtx :=
  let mine (t : Thread) : Bool := t.lix == lix && t.launch == launch
  let hs := ((c.slots.toList.filterMap id).filter mine).map (fun t => t.hslot)
  let toks := ((c.slots.toList.filterMap id).filter mine).filterMap (fun t => t.park.map Park.tok)
  let c := (hs.foldl TileCtx.leave c).unload lix.toNat launch
  { c with
    slots := c.slots.map (fun o => match o with | some t => if mine t then none else some t | none => none)
    guests := c.guests.filter (fun g => !mine g.thread)
    resv := c.resv.filter (fun x => x.2.launch != launch)
    ops := c.ops.filter (fun o => o.launch != launch)
    locks := c.locks.filter (fun l => l.launch != launch)
    outq := c.outq.filter (fun p => p.launch != launch)
    hOps := c.hOps.filter (fun o => match o with | .sync _ tok _ => !toks.contains tok | _ => true)
    deferred := c.deferred.filter (fun d => d.launch != launch)
    fills := c.fills.filter (fun f => f.1 != lix.toNat)
    coll := match c.coll with | some g => if g.launch = launch then none else some g | none => none }

/-- The threads of a launch on a tile, in slots and in the box room. -/
def TileCtx.threadsOf (c : TileCtx) (lix : BitVec 4) (launch : BitVec 32) : List Thread :=
  ((c.slots.toList.filterMap id) ++ c.guests.map Guest.thread ++ c.resv.filterMap (fun x => x.2.waiting)).filter
    (fun t => t.lix == lix && t.launch == launch)

/-- The slot in which the thread of a reference is parked. -/
def State.slotOf (s : State) (r : Ref) : Option (Fin 16) :=
  (List.finRange 16).find? (fun j =>
    match (s.tile r.tile).slot j with
    | some th => (match th.park with | some p => p.tok == r.tok | none => false)
    | none => false)

/-- A launch leaves tile `k`: its threads end, what they had pending there is discarded, and what waited for it is looked at. -/
def State.dropOn (s : State) (k : TileId) (lix : Nat) (launch : BitVec 32) : State :=
  let ended := (s.tile k).c.threadsOf (BitVec.ofNat 4 lix) launch
  let s := s.note k .launchEnd (.dropped k lix launch)
  let s := s.setCtx k ((s.tile k).c.dropLaunch (BitVec.ofNat 4 lix) launch)
  (ended.foldl (fun s th => s.endEffects k th) s).after 1 .engineOpStart (.tile k)

/-- What a parked thread waits for, as an event in flight names it. -/
def Payload.waiter? (p : Payload) : Option Ref :=
  match p with
  | .port _ _ _ src _ _ => some src
  | .gate r _ => some r
  | .msg _ _ src => some src
  | .part _ _ _ src => src
  | .post r _ _ _ => some r
  | .group _ _ _ kind _ _ _ src => if kind = 1 then Option.none else some src
  | _ => Option.none

/-- An event in flight is a pending operation of the launch: a migrant, a store, or a request of a thread that waits no more. -/
def State.pending (s : State) (ctx : Nat) (launch : BitVec 32) (p : Payload) : Bool :=
  match p with
  | .migrant k _ th _ => (s.tile k).r.ctx == ctx && th.launch == launch
  | .stored k x => (s.tile k).r.ctx == ctx && x.launch == launch
  | .xfer _ x => x.ctx == ctx && x.launch == launch
  | .range _ k _ l _ => (s.tile k).r.ctx == ctx && l == launch
  | p => match p.waiter? with
    | some r => (s.tile r.tile).r.ctx == ctx && (s.tile r.tile).r.mode == .live && (s.slotOf r).isNone
    | none => false

/-- Pending operations of the launch in flight, buffered, held or waiting at ports are discarded. -/
def State.discard (s : State) (ctx : Nat) (launch : BitVec 32) : State :=
  { s with
    agenda := s.agenda.filter (fun x => !s.pending ctx launch x.arg)
    tiles := s.tiles.mapVals (fun t =>
      if t.r.ctx != ctx then t
      else
        { c := { t.c with waiters := t.c.waiters.filter (fun w => (s.tile w.src.tile).r.mode != .live || (s.slotOf w.src).isSome) }
          r := { t.r with out := t.r.out.filter (fun p => !s.pending ctx launch p.arg)
                          held := t.r.held.filter (fun h => !s.pending ctx launch h.2) } }) }

/-- A launch leaves every tile of its partition; a tile that is being recovered lets it go after its release. -/
def State.dropAll (s : State) (ctx lix : Nat) (launch : BitVec 32) : State :=
  let ks := (s.tiles.filter (fun x => x.2.r.ctx == ctx)).map Prod.fst
  ks.foldl (fun s k =>
    let r := (s.tile k).r
    if r.mode == .fenced || r.replay then s.setRouter k { r with held := r.held ++ [(.launchEnd, .dropped k lix launch)] }
    else s.dropOn k lix launch) s

/-- Every thread of a launch ends at once; its pending operations are discarded (03 R59, 09 R187). -/
def State.stopLaunch (s : State) (ctx lix : Nat) (launch : BitVec 32) (why : Nat × Nat) : State :=
  let s := s.dropAll ctx lix launch
  let s := (s.discard ctx launch).withLaunch ctx lix (fun l => { l with abort := match l.abort with | none => some why | w => w })
  s.lookAt ctx lix

/-! ### Traps (09 R180 to R187) -/

/-- The cause word of a trap. -/
def causeOf (code detail : Nat) (deferred : Bool) : BitVec 17 :=
  BitVec.ofNat 17 (code % 256 + detail % 256 * 256 + (if deferred then 65536 else 0))

/-- Whether a trap of the thread is a third-level trap (09 R183). -/
def Thread.atThird (th : Thread) : Bool := th.xlvl == 2 || (th.xlvl == 0 && th.xvec == 0)

/-- Trap entry at level 0 or 1 (09 R183). -/
def Thread.enterTrap (th : Thread) (xpc : Word) (cause : BitVec 17) (val : Word) : Thread :=
  let sel := if th.xlvl = 0 then th.bankX.sel else th.bankY.sel
  let b : Bank := { pc := xpc.setWidth 32 &&& ~~~1#32, cause := cause, val := val, pix := th.pix, pw := th.pw
                    loops := th.loops, sel := sel }
  { th with
    bankX := if th.xlvl = 0 then b else th.bankX
    bankY := if th.xlvl = 0 then th.bankY else b
    pix := 0
    loops := []
    xlvl := th.xlvl + 1
    pc := if th.xlvl = 0 then th.xvec.setWidth 64 else th.xvec.setWidth 64 + 64
    via := xpc
    park := none
    rbuf := [] }

/-- The return from a trap at level 1 or 2 (09 R185). -/
def Thread.leaveTrap (th : Thread) : Thread :=
  let b := if th.xlvl = 1 then th.bankX else th.bankY
  { th with
    pc := b.pc.setWidth 64
    via := th.pc
    pix := b.pix
    pw := b.pw
    loops := b.loops
    xlvl := th.xlvl - 1
    park := none }

/-- Completion status FAULTED (03 R52). -/
def statusFaulted : Nat := 1

/-- The bytes of a crash record before its crc (09 R188). -/
def CrashRec.body (r : CrashRec) : List Byte :=
  leBytes 4 (r.ltn + 2 ^ 18 * r.slot + 2 ^ 22 * r.lix + 2 ^ 26 * r.nlev) ++ leBytes 4 r.lid.toNat
    ++ leBytes 8 r.ivn.toNat ++ leBytes 8 r.time.toNat
    ++ leBytes 4 r.cause0.toNat ++ leBytes 4 r.cause1.toNat ++ leBytes 4 r.cause2.toNat
    ++ leBytes 4 r.pc0.toNat ++ leBytes 4 r.pc1.toNat ++ leBytes 4 r.pc2.toNat
    ++ leBytes 8 r.val.toNat ++ leBytes 4 r.tid

/-- The record with its CRC-32C of bytes 0 to 59. -/
def CrashRec.sealed (r : CrashRec) : CrashRec := { r with crc := crc32c r.body }

/-- The crash record of a third-level trap (09 R188). `entry` says that the head of a level-2 handler could not be fetched: then the
two banks give the causes (log 72). -/
def State.crashOf (s : State) (k : TileId) (j : Fin 16) (xpc : Word) (cause : BitVec 17) (val : Word) (entry : Bool) : CrashRec :=
  let th := s.thr k j
  let two := th.xlvl == 2
  let third := two && !entry
  { ltn := ltnOf k, slot := j.val, lix := th.lix.toNat, nlev := if third then 3 else if two then 2 else 1, lid := th.launch
    ivn := (s.tile k).c.ivn, time := BitVec.ofNat 64 s.ns
    cause0 := if two then th.bankX.cause else cause
    cause1 := if two then th.bankY.cause else 0
    cause2 := if third then cause else 0
    pc0 := if two then th.bankX.pc else xpc.setWidth 32
    pc1 := if two then th.bankY.pc else 0
    pc2 := if third then xpc.setWidth 32 else 0
    val := if two && entry then th.bankY.val else val, tid := th.tid, crc := 0 : CrashRec }.sealed

/-- The crash area holds 64 records; a 65th takes the oldest's place and is counted (09 R188). -/
def State.addCrash (s : State) (cl : Nat) (r : CrashRec) : State :=
  let c := s.cluster cl
  if c.crash.length < 64 then s.setCluster cl { c with crash := c.crash ++ [r] }
  else
    let s := s.setCluster cl { c with crash := c.crash.drop 1 ++ [r] }
    { s with dev := { s.dev with crashLost := s.dev.crashLost + 1 } }

/-- A third-level trap of the thread in slot `j` of tile `k` (09 R187): the crash record goes to the router, and with it word of the
abort to firmware; the thread ends. -/
def State.thirdLevel (s : State) (k : TileId) (j : Fin 16) (xpc : Word) (cause : BitVec 17) (val : Word) (entry : Bool) : State :=
  let r := s.crashOf k j xpc cause val entry
  let s := s.inject k
    { src := k, dst := memoryPort, cls := 3, lat := 0, slow := false, ev := .launchEnd, arg := .crash (clusterOf k) r (s.tile k).r.ctx }
  s.endThread k j

/-- A trap of the thread in slot `j` of tile `k`, with the offset xpc of 09 R180; `entry` as for the crash record. -/
def State.trapFrom (s : State) (k : TileId) (j : Fin 16) (xpc : Word) (cause : BitVec 17) (val : Word) (entry : Bool) : State :=
  if (s.thr k j).atThird then s.thirdLevel k j xpc cause val entry
  else s.setThr k j ((s.thr k j).enterTrap xpc cause val)

def State.trapAt (s : State) (k : TileId) (j : Fin 16) (xpc : Word) (cause : BitVec 17) (val : Word) : State :=
  s.trapFrom k j xpc cause val false

/-- trap(code, detail, val) of the acting thread: a fault of its instruction, xpc its own offset. -/
def State.trap (s : State) (code detail : Nat) (val : Word) : Out :=
  .next (s.trapAt s.cur.tile s.cur.slot s.me.pc (causeOf code detail false) val)

/-- The fault a thread holds is taken (06 R132, 09 R201). -/
def State.takeFault (s : State) (k : TileId) (j : Fin 16) : State :=
  match (s.thr k j).fault with
  | none => s
  | some t =>
    let th := { s.thr k j with fault := none }
    (s.setThr k j th).trapAt k j th.pc (causeOf t.code t.detail false) t.val

/-- Fault codes (09 R189). -/
def cIllegal : Nat := 0x01
def cIllegalLine : Nat := 0x02
def cIllegalTarget : Nat := 0x03
def cCodeBound : Nat := 0x04
def cReservedField : Nat := 0x05
def cPriv : Nat := 0x06
def cAddressSpace : Nat := 0x08
def cAlign : Nat := 0x09
def cProtect : Nat := 0x0A
def cTranslation : Nat := 0x0B
def cRangeLocked : Nat := 0x0C
def cFeTimeout : Nat := 0x0D
def cSendRefused : Nat := 0x0E
def cMigrateRefused : Nat := 0x0F
def cMigrateOverweight : Nat := 0x10
def cStackLimit : Nat := 0x11
def cLoopDepth : Nat := 0x12
def cAccOwner : Nat := 0x14
def cAccState : Nat := 0x15
def cLayout : Nat := 0x16
def cMergeState : Nat := 0x17
def cCollective : Nat := 0x18
def cTaskState : Nat := 0x19
def cSoft : Nat := 0x20
def cBreak : Nat := 0x21

end Sys2Proof.Machine
end

