-- ==== Sys2Proof/Machine/Operands.lean ====
section
/-!
DEFINITION. Integer operand forms and results: immediates, .W widths, the ALU and bit-field functions of 13 R248 to R252.
-/
namespace Sys2Proof.Machine

/-- sext(x, n) for an `n`-bit immediate (00 R7). -/
def imm11 (i : BitVec 11) : Word := i.signExtend 64
def imm16 (i : BitVec 16) : Word := i.signExtend 64

/-- Bits [lo + n − 1 : lo] of a word as a number. -/
def bitsOf (w : Word) (lo n : Nat) : Nat := w.toNat / 2 ^ lo % 2 ^ n

/-- sext(x, n) and zext(x, n) of the low `n` bits of a word, `n` from 1 to 64 (00 R7). -/
def sextLow (x : Word) (n : Nat) : Word := (x <<< (64 - n)).sshiftRight (64 - n)
def zextLow (x : Word) (n : Nat) : Word := (x <<< (64 - n)) >>> (64 - n)

/-- The .W form: the operation on the low 32 bits, its result sign-extended (13 R248). -/
def onWidth (w : Bool) (f : (n : Nat) → BitVec n → BitVec n → BitVec n) (a b : Word) : Word :=
  if w then (f 32 (a.setWidth 32) (b.setWidth 32)).signExtend 64 else f 64 a b

def intAdd (n : Nat) (a b : BitVec n) : BitVec n := a + b
def intSub (n : Nat) (a b : BitVec n) : BitVec n := a - b
def intMul (n : Nat) (a b : BitVec n) : BitVec n := a * b
/-- High half of the signed product. -/
def intMulh (n : Nat) (a b : BitVec n) : BitVec n := BitVec.ofInt n (a.toInt * b.toInt / 2 ^ n)
/-- High half of the unsigned product. -/
def intMulhu (n : Nat) (a b : BitVec n) : BitVec n := BitVec.ofNat n (a.toNat * b.toNat / 2 ^ n)
/-- Signed quotient toward zero; all ones by zero; the most negative by −1 wraps to itself. -/
def intDiv (n : Nat) (a b : BitVec n) : BitVec n := if b = 0 then BitVec.allOnes n else a.sdiv b
def intDivu (n : Nat) (a b : BitVec n) : BitVec n := if b = 0 then BitVec.allOnes n else a / b
/-- Signed remainder with the sign of `a`; `a` by zero. -/
def intRem (n : Nat) (a b : BitVec n) : BitVec n := if b = 0 then a else a.srem b
def intRemu (n : Nat) (a b : BitVec n) : BitVec n := if b = 0 then a else a % b
def intAnd (n : Nat) (a b : BitVec n) : BitVec n := a &&& b
def intOr (n : Nat) (a b : BitVec n) : BitVec n := a ||| b
def intXor (n : Nat) (a b : BitVec n) : BitVec n := a ^^^ b
def intAndn (n : Nat) (a b : BitVec n) : BitVec n := a &&& ~~~b
/-- Shift and rotate counts are the low 6 bits, or 5 under .W: the count modulo the width. -/
def intShl (n : Nat) (a b : BitVec n) : BitVec n := a <<< (b.toNat % n)
def intShr (n : Nat) (a b : BitVec n) : BitVec n := a >>> (b.toNat % n)
def intSar (n : Nat) (a b : BitVec n) : BitVec n := a.sshiftRight (b.toNat % n)
def intRot (n : Nat) (a b : BitVec n) : BitVec n := a.rotateRight (b.toNat % n)
def intMin (n : Nat) (a b : BitVec n) : BitVec n := if a.slt b then a else b
def intMax (n : Nat) (a b : BitVec n) : BitVec n := if a.slt b then b else a
def intMinu (n : Nat) (a b : BitVec n) : BitVec n := if a.ult b then a else b
def intMaxu (n : Nat) (a b : BitVec n) : BitVec n := if a.ult b then b else a

/-- Set bits among the lowest `n` bits. -/
def popUpTo (a : Word) (n : Nat) : Nat :=
  match n with
  | 0 => 0
  | n + 1 => popUpTo a n + (if a.getLsbD n then 1 else 0)

/-- Zero bits below the lowest set bit at or above bit `i`, looking at `n` bits. -/
def trailZeros (a : Word) (i n : Nat) : Nat :=
  match n with
  | 0 => 0
  | n + 1 => if a.getLsbD i then 0 else 1 + trailZeros a (i + 1) n

/-- Zero bits above the highest set bit below bit `n`. -/
def leadZeros (a : Word) (n : Nat) : Nat :=
  match n with
  | 0 => 0
  | n + 1 => if a.getLsbD n then 0 else 1 + leadZeros a n

/-- The width SEXT and ZEXT take by S (13 R251). -/
def extWidth (sz : Fin 3) : Nat := if sz = 0 then 8 else if sz = 1 then 16 else 32

/-- The length of a bit field: 0 means 64 (13 R252). -/
def fieldLen (len : BitVec 6) : Nat := if len = 0 then 64 else len.toNat

/-- The mask of `n` low bits. -/
def lowMask (n : Nat) : Word := BitVec.ofNat 64 (2 ^ n - 1)

/-- INS: `old` with bits [p+n−1:p] replaced by the low bits of `a` (13 R252). -/
def insertField (old a : Word) (p n : Nat) : Word :=
  (old &&& ~~~(lowMask n <<< p)) ||| ((a &&& lowMask n) <<< p)

/-- An instruction that reads registers and writes one. -/
def State.regOp (s : State) (rs : List Reg) (rd : Reg) (f : Thread → Word) : Out :=
  s.withRegs rs fun th => s.done (th.setReg rd (f th))

/-- An instruction that reads registers and writes a predicate. -/
def State.predOp (s : State) (rs : List Reg) (qd : Pred) (f : Thread → Bool) : Out :=
  s.withRegs rs fun th => s.done (th.setPred qd (f th))

/-- An ALU member (13 R248). -/
def State.alu (s : State) (f : (n : Nat) → BitVec n → BitVec n → BitVec n) (w : Bool) (rd ra rb : Reg) : Out :=
  s.regOp [ra, rb] rd fun th => onWidth w f (th.reg ra) (th.reg rb)

/-- An ALUI member (13 R249). -/
def State.alui (s : State) (f : Word → Word → Word) (rd ra : Reg) (imm : Word) : Out :=
  s.regOp [ra] rd fun th => f (th.reg ra) imm

/-- A UNARY or BITF member that reads `ra` (13 R251, R252). -/
def State.unary (s : State) (f : Word → Word) (rd ra : Reg) : Out := s.regOp [ra] rd fun th => f (th.reg ra)

/-- CMP and CMPI (13 R253). -/
def State.cmp (s : State) (f : Word → Word → Bool) (qd : Pred) (ra rb : Reg) : Out :=
  s.predOp [ra, rb] qd fun th => f (th.reg ra) (th.reg rb)
def State.cmpi (s : State) (f : Word → Word → Bool) (qd : Pred) (ra : Reg) (imm : BitVec 11) : Out :=
  s.predOp [ra] qd fun th => f (th.reg ra) (imm11 imm)

/-- Compare conditions (13 R253). -/
def ccEq (a b : Word) : Bool := a == b
def ccNe (a b : Word) : Bool := a != b
def ccLt (a b : Word) : Bool := a.slt b
def ccGe (a b : Word) : Bool := !a.slt b
def ccLtu (a b : Word) : Bool := a.ult b
def ccGeu (a b : Word) : Bool := !a.ult b
def ccTst (a b : Word) : Bool := (a &&& b) != 0
def ccNtst (a b : Word) : Bool := (a &&& b) == 0

end Sys2Proof.Machine
end

