-- ==== Sys2Proof/WellFormed.lean ====
section
/-!
DEFINITION. Which instructions the encoding admits: the field checks of 12 R240 to R242 that the operand types do not
already say. An event is always well formed (its operands carry no encoding).
-/
namespace Sys2Proof

/-- Element type codes of the float types F16, BF16, F32 (10 R202). -/
def ETy.isFloat (t : ETy) : Bool := t == 4 || t == 5 || t == 6

/-- Element type codes of the integer types I8 to I64 (10 R202). -/
def ETy.isInt (t : ETy) : Bool := t.val < 4

/-- Whether VEC member `f` uses register fields B, C, E (15 R304). -/
def vecUsesB (f : Nat) : Bool := !(f == 14 || f == 16)
def vecUsesC (f : Nat) : Bool := [0, 1, 2, 3, 4, 7, 14, 16, 17, 18, 19].contains f
def vecUsesE (f : Nat) : Bool := [7, 17].contains f

/-- Source and destination types of VEC member `f` (15 R304, Types). -/
def vecTypesOk (f : Nat) (ts td : ETy) : Bool :=
  if f ≤ 7 then (ts.isFloat && td.isFloat) || (ts.isInt && td.isInt)
  else if f ≤ 12 then ts.isFloat && td.isFloat
  else if f == 13 then true
  else if f == 14 then ts == 0
  else if f == 15 then ts == td
  else if f == 16 then ts == 0 && td.isInt
  else if f == 17 then ts == td && ts != 7
  else if f == 18 then ts != 7 && td == 0
  else ts.isFloat && td.isFloat

/-- The S field of VEC member `f` (15 R304, S). -/
def vecModeOk (f : Nat) (ts : ETy) (rm : Fin 4) : Bool :=
  if f ≤ 7 then ts.isFloat || rm == 0
  else if f ≤ 13 || f == 18 || f == 19 then true
  else rm == 0

/-- I[5] and I[4] of VEC member `f` (15 R305). -/
def vecFlagsOk (f : Nat) (o : VecOps) : Bool :=
  (if [14, 16, 19].contains f then o.sc
   else if [0, 1, 2, 3, 4, 7, 17, 18].contains f then true else !o.sc)
  && (!o.sat || o.td.isInt)

/-- Every field check of VEC member `f` (15 R304, R305). -/
def vecOk (f : Nat) (o : VecOps) : Bool :=
  vecTypesOk f o.ts o.td && vecModeOk f o.ts o.rm && vecFlagsOk f o
  && (vecUsesB f || o.b == 0) && (vecUsesC f || o.c == 0) && (vecUsesE f || o.e == 0)

/-- BITF: `p + n ≤ 64`, with length 0 meaning 64 (13 R252). -/
def bitfOk (pos len : BitVec 6) : Bool :=
  pos.toNat + (if len == 0 then 64 else len.toNat) ≤ 64

/-- The operation and type pairs of RED (17 R370). -/
def redOk (op : BitVec 3) (ty : BitVec 4) : Bool :=
  (op.toNat ≤ 5 && (ty == 2 || ty == 3)) || ((op == 1 || op == 2) && (ty == 5 || ty == 6))

/-- The field checks of each instruction that its operand types leave open. -/
def Instr.wf : Instr → Bool
  | .ext _ _ p n | .extu _ _ p n | .ins _ _ p n => bitfOk p n
  | .vadd o => vecOk 0 o | .vsub o => vecOk 1 o | .vmul o => vecOk 2 o | .vmax o => vecOk 3 o
  | .vmin o => vecOk 4 o | .vabs o => vecOk 5 o | .vneg o => vecOk 6 o | .vfma o => vecOk 7 o
  | .vexp o => vecOk 8 o | .vrcp o => vecOk 9 o | .vrsq o => vecOk 10 o | .vsigm o => vecOk 11 o
  | .vsilu o => vecOk 12 o | .vcvt o => vecOk 13 o | .vset o => vecOk 14 o | .vcpy o => vecOk 15 o
  | .viota o => vecOk 16 o | .vsel o => vecOk 17 o | .vcmp o => vecOk 18 o | .vscl o => vecOk 19 o
  | .vsum ty _ _ | .vssq ty _ _ | .vamax ty _ _ | .vmaxr ty _ _ | .vminr ty _ _ | .vdot ty _ _ _ => ty != 7
  | .vscadd _ o => o.ty != 7
  | .accld _ _ ty _ _ => ty.val < 7 && ty != 3
  | .mmag _ rc => rc != 0
  | .bopen _ _ _ want _ _ => want.toNat ≤ 16
  | .red _ _ _ op ty => redOk op ty
  | _ => true

end Sys2Proof
end

