-- ==== Sys2Proof/Machine/Formats.lean ====
section
/-!
DEFINITION. Number formats (10 R202 to R216): exact values, one rounding, engine conversions and DS8. A finite value is
an integer times a power of two; nothing here is approximated.
-/
namespace Sys2Proof.Machine

/-- A binary floating-point format: exponent and fraction bits (10 R204). -/
structure Fmt where
  eb : Nat
  fb : Nat
  deriving DecidableEq, Repr

def f32 : Fmt := { eb := 8, fb := 23 }
def f16 : Fmt := { eb := 5, fb := 10 }
def bf16 : Fmt := { eb := 8, fb := 7 }

def Fmt.bias (f : Fmt) : Nat := 2 ^ (f.eb - 1) - 1
/-- Exponent of the least normal. -/
def Fmt.emin (f : Fmt) : Int := 1 - f.bias
/-- Exponent of the last place of a subnormal. -/
def Fmt.elsb (f : Fmt) : Int := f.emin - f.fb
/-- Pattern of +Inf. -/
def Fmt.infBits (f : Fmt) : Nat := (2 ^ f.eb - 1) * 2 ^ f.fb
def Fmt.maxBits (f : Fmt) : Nat := f.infBits - 1
/-- The canonical NaN (10 R204). -/
def Fmt.nanBits (f : Fmt) : Nat := f.infBits + 2 ^ (f.fb - 1)
def Fmt.signBit (f : Fmt) : Nat := 2 ^ (f.eb + f.fb)

/-- An exact value: NaN (signalling or not), an infinity, a signed zero, or `n * 2 ^ e` with n not 0. -/
inductive FVal where
  | nan (sig : Bool)
  | inf (neg : Bool)
  | zero (neg : Bool)
  | num (n : Int) (e : Int)
  deriving DecidableEq, Repr

/-- The value of `n * 2 ^ e`; an exact 0 is +0. -/
def FVal.ofInt (n e : Int) : FVal := if n = 0 then .zero false else .num n e

/-- The value of a pattern, subnormals included. -/
def Fmt.decode (f : Fmt) (x : Nat) : FVal :=
  let neg := x / f.signBit % 2 == 1
  let ex := x / 2 ^ f.fb % 2 ^ f.eb
  let fr := x % 2 ^ f.fb
  if ex = 2 ^ f.eb - 1 then
    if fr = 0 then .inf neg else .nan (fr / 2 ^ (f.fb - 1) == 0)
  else if ex = 0 then
    if fr = 0 then .zero neg else .num (if neg then -(fr : Int) else fr) f.elsb
  else
    let m : Int := (2 ^ f.fb + fr : Nat)
    .num (if neg then -m else m) ((ex : Int) - 1 + f.elsb)

/-- The four modes (10 R206). -/
inductive Mode where
  | rne | rtz | rup | rdn
  deriving DecidableEq, Repr

def Mode.of (n : Nat) : Mode :=
  match n % 4 with
  | 0 => .rne | 1 => .rtz | 2 => .rup | _ => .rdn

/-- Whether an inexact magnitude with integer part `n` rounds away from zero. `rest` compares the part cut off with a
half: less, equal or greater. -/
def Mode.away (m : Mode) (neg : Bool) (odd : Bool) (rest : Ordering) : Bool :=
  match m with
  | .rne => rest == .gt || (rest == .eq && odd)
  | .rtz => false
  | .rup => !neg
  | .rdn => neg

/-- `m * 2 ^ e`, with a part below it lost if `sticky`, cut to a multiple of `2 ^ q`: the integer part, whether
anything was cut off, and how that compares with a half. -/
def cutAt (m : Nat) (e q : Int) (sticky : Bool) : Nat × Bool × Ordering :=
  let k := (q - e).toNat
  if q ≤ e then (m * 2 ^ (e - q).toNat, sticky, .lt)
  else
    let r := m % 2 ^ k
    let half := 2 ^ (k - 1)
    (m / 2 ^ k, r != 0 || sticky,
      if r < half then .lt else if r = half && !sticky then .eq else .gt)

/-- `m * 2 ^ e` (m not 0) rounded to a multiple of `2 ^ q`: the multiple and whether it is inexact. -/
def roundAt (md : Mode) (neg : Bool) (m : Nat) (e q : Int) (sticky : Bool) : Nat × Bool :=
  let c := cutAt m e q sticky
  (c.1 + (if c.2.1 && md.away neg (c.1 % 2 == 1) c.2.2 then 1 else 0), c.2.1)

/-- The outcome of one rounding: the magnitude pattern (which may reach or pass the pattern of Inf), inexact, and tiny
after rounding (10 R205). -/
structure Rounded where
  mag : Nat
  inexact : Bool
  tiny : Bool
  deriving DecidableEq, Repr

/-- round(x, fmt, mode) of the magnitude `m * 2 ^ e`, m not 0 (00 R7, 10 R205, R206). -/
def Fmt.round (f : Fmt) (md : Mode) (neg : Bool) (m : Nat) (e : Int) (sticky : Bool) : Rounded :=
  let top : Int := (m.log2 : Int) + e
  let q := max (top - f.fb) f.elsb
  let r := roundAt md neg m e q sticky
  let free := roundAt md neg m e (top - f.fb) sticky
  { mag := (q - f.elsb).toNat * 2 ^ f.fb + r.1
    inexact := r.2
    tiny := decide (top < f.emin) && !(decide (top = f.emin - 1) && free.1 == 2 ^ (f.fb + 1)) }

/-- A pattern with its sign. -/
def Fmt.signed (f : Fmt) (neg : Bool) (mag : Nat) : Nat := (if neg then f.signBit else 0) + mag

/-! ### Exact arithmetic -/

/-- Sign and magnitude of the parts of a finite value. -/
def FVal.neg (x : FVal) : FVal :=
  match x with
  | .nan s => .nan s
  | .inf s => .inf (!s)
  | .zero s => .zero (!s)
  | .num n e => .num (-n) e

def FVal.isNan (x : FVal) : Bool := match x with | .nan _ => true | _ => false
def FVal.isSig (x : FVal) : Bool := match x with | .nan s => s | _ => false
def FVal.isNeg (x : FVal) : Bool :=
  match x with
  | .nan _ => false | .inf s => s | .zero s => s | .num n _ => n < 0

/-- |x|. -/
def FVal.abs (x : FVal) : FVal := if x.isNeg then x.neg else x

/-- The exact product; Inf · 0 is NaN. -/
def FVal.mul (x y : FVal) : FVal :=
  match x, y with
  | .nan _, _ => .nan false
  | _, .nan _ => .nan false
  | .inf _, .zero _ => .nan false
  | .zero _, .inf _ => .nan false
  | .inf a, y => .inf (a != y.isNeg)
  | x, .inf b => .inf (x.isNeg != b)
  | .zero a, y => .zero (a != y.isNeg)
  | x, .zero b => .zero (x.isNeg != b)
  | .num n e, .num m k => .num (n * m) (e + k)

/-- The exact sum of two finite non-zero values. -/
def addNum (n e m k : Int) : Int × Int :=
  if e ≤ k then (n + m * 2 ^ (k - e).toNat, e) else (n * 2 ^ (e - k).toNat + m, k)

/-- The exact sum of two values; Inf − Inf is NaN. An exactly zero sum is −0 when both are −0, +0 when both are +0, and
otherwise +0, or −0 in mode RDN (10 R207, 13 R257). -/
def FVal.add (md : Mode) (x y : FVal) : FVal :=
  match x, y with
  | .nan _, _ => .nan false
  | _, .nan _ => .nan false
  | .inf a, .inf b => if a = b then .inf a else .nan false
  | .inf a, _ => .inf a
  | _, .inf b => .inf b
  | .zero a, .zero b => .zero (if a = b then a else md == .rdn)
  | .zero _, y => y
  | x, .zero _ => x
  | .num n e, .num m k =>
    let r := addNum n e m k
    if r.1 = 0 then .zero (md == .rdn) else .num r.1 r.2

/-- The exact sum of a list of terms (fused, 00 R7), with the zero rule of 10 R207. -/
def fusedSum (md : Mode) (xs : List FVal) : FVal :=
  match xs with
  | [] => .zero false
  | [x] => if x.isNan then .nan false else x
  | x :: y :: xs =>
    match FVal.add md x (fusedSum md (y :: xs)) with
    | .zero _ => if (x :: y :: xs).all (fun t => t == .zero true) then .zero true
                 else if (x :: y :: xs).all (fun t => t == .zero false) then .zero false
                 else .zero (md == .rdn)
    | v => v

/-- Order of two values that are not NaN. -/
def numLt (n e m k : Int) : Bool := (addNum n e (-m) k).1 < 0

def FVal.lt (x y : FVal) : Bool :=
  match x, y with
  | .nan _, _ => false
  | _, .nan _ => false
  | .inf a, .inf b => a && !b
  | .inf a, _ => a
  | _, .inf b => !b
  | .zero _, .zero _ => false
  | .zero _, .num m _ => 0 < m
  | .num n _, .zero _ => n < 0
  | .num n e, .num m k => numLt n e m k

def FVal.eq (x y : FVal) : Bool := !x.isNan && !y.isNan && !x.lt y && !y.lt x

/-- The greater of two numbers, −0 below +0. -/
def FVal.max (x y : FVal) : FVal :=
  match x, y with
  | .zero a, .zero b => .zero (a && b)
  | x, y => if x.lt y then y else x

/-- The lesser of two numbers, −0 below +0. -/
def FVal.min (x y : FVal) : FVal :=
  match x, y with
  | .zero a, .zero b => .zero (a || b)
  | x, y => if y.lt x then y else x

/-- The largest integer whose square is at most `n`, among those below `2 ^ k`. -/
def isqrt (n k r : Nat) : Nat :=
  match k with
  | 0 => r
  | k + 1 => isqrt n k (if (r + 2 ^ k) * (r + 2 ^ k) ≤ n then r + 2 ^ k else r)

/-- An exact value divided by another, both finite and not 0: a quotient of at least 64 bits and what is lost. -/
def quotient (n m : Nat) : Nat × Nat × Bool :=
  let k := 64 + m.log2
  (n * 2 ^ k / m, k, n * 2 ^ k % m != 0)

/-- A square root of at least 64 bits of `n * 2 ^ e`: root, exponent, and whether something is lost. -/
def rootOf (n : Nat) (e : Int) : Nat × Int × Bool :=
  let k : Nat := if e % 2 = 0 then 128 else 129
  let m := n * 2 ^ k
  let r := isqrt m (m.log2 / 2 + 1) 0
  (r, (e - (k : Int)) / 2, r * r != m)

/-- `n * 2 ^ e` rounded to an integer by mode, and whether it is inexact. -/
def roundInt (md : Mode) (n e : Int) : Int × Bool :=
  let r := roundAt md (decide (n < 0)) n.natAbs e 0 false
  (if n < 0 then -(r.1 : Int) else r.1, r.2)

/-! ### Engine values (10 R207, R209, R210) -/

/-- Bits of an element type (10 R202). -/
def ETy.bits (t : ETy) : Nat :=
  match t.val with
  | 0 => 8 | 1 => 16 | 2 => 32 | 3 => 64 | 4 => 16 | 5 => 16 | 6 => 32 | _ => 8

/-- Size of an element in bytes. -/
def ETy.size (t : ETy) : Nat := ETy.bits t / 8

/-- The float format of types F16, BF16, F32. -/
def ETy.fmt (t : ETy) : Fmt := if t = 4 then f16 else if t = 5 then bf16 else f32

/-- What an engine step produced: the pattern, saturations counted, invalid. -/
structure EngVal where
  bits : Nat
  ovf : Nat
  inv : Bool
  deriving DecidableEq, Repr

/-- An engine rounding to a float format: overflow becomes the greatest finite value and is counted in every mode
(10 R207). -/
def Fmt.engine (f : Fmt) (md : Mode) (x : FVal) : EngVal :=
  match x with
  | .nan _ => { bits := f.nanBits, ovf := 0, inv := true }
  | .inf s => { bits := f.signed s f.infBits, ovf := 0, inv := false }
  | .zero s => { bits := f.signed s 0, ovf := 0, inv := false }
  | .num n e =>
    let neg := decide (n < 0)
    let r := f.round md neg n.natAbs e false
    if f.infBits ≤ r.mag then { bits := f.signed neg f.maxBits, ovf := 1, inv := false }
    else { bits := f.signed neg r.mag, ovf := 0, inv := false }

/-- The exact value of a DS8 byte (10 R211), in sixty-fourths. -/
def ds8Term (neg : Bool) (e : Nat) : Int := if e = 7 then 0 else if neg then -(2 ^ (6 - e) : Int) else 2 ^ (6 - e)
def ds8Value (b : Nat) : Int := ds8Term (b / 128 % 2 == 1) (b / 16 % 8) + ds8Term (b / 8 % 2 == 1) (b % 8)

/-- Number of non-zero terms of a DS8 byte. -/
def ds8Terms (b : Nat) : Nat := (if b / 16 % 8 = 7 then 0 else 1) + (if b % 8 = 7 then 0 else 1)

/-- The canonical encodings (10 R212). -/
def ds8Canonical (b : Nat) : Bool :=
  let sa := b / 128 % 2
  let ea := b / 16 % 8
  let sb := b / 8 % 2
  let eb := b % 8
  b == 0x77 || (ea < 7 && sb == 0 && eb == 7)
  || (ea < eb && eb ≤ 6 && (sa == sb || ea + 3 ≤ eb)) || b == 0x00 || b == 0x88

/-- The better of two canonical bytes for the input `n * 2 ^ e`: nearer, then fewer terms, then smaller magnitude
(10 R213). -/
def ds8Better (n e : Int) (a b : Nat) : Bool :=
  let da := addNum n e (-(ds8Value a)) (-6)
  let db := addNum n e (-(ds8Value b)) (-6)
  if da.1.natAbs < db.1.natAbs then true
  else if db.1.natAbs < da.1.natAbs then false
  else if ds8Terms a < ds8Terms b then true
  else if ds8Terms b < ds8Terms a then false
  else decide ((ds8Value a).natAbs < (ds8Value b).natAbs)

/-- The best canonical byte among those below `k`. -/
def ds8Nearest (n e : Int) (k best : Nat) : Nat :=
  match k with
  | 0 => best
  | k + 1 => ds8Nearest n e k (if ds8Canonical k && ds8Better n e k best then k else best)

/-- The quantiser (10 R213). -/
def ds8Quantise (x : FVal) : EngVal :=
  match x with
  | .nan _ => { bits := 0x77, ovf := 0, inv := true }
  | .inf s => { bits := if s then 0x88 else 0x00, ovf := 1, inv := false }
  | .zero _ => { bits := 0x77, ovf := 0, inv := false }
  | .num n e =>
    let two := addNum n.natAbs e (-2) 0
    if 0 < two.1 then { bits := if n < 0 then 0x88 else 0x00, ovf := 1, inv := false }
    else { bits := ds8Nearest n e 256 0x77, ovf := 0, inv := false }

/-- The value of an element as an engine takes it: BF16 and F16 subnormals are zeros of their sign (10 R207). -/
def ETy.value (t : ETy) (x : Nat) : FVal :=
  if t.isInt then FVal.ofInt ((BitVec.ofNat (ETy.bits t) x).toInt) 0
  else if t = 7 then FVal.ofInt (ds8Value x) (-6)
  else
    let f := ETy.fmt t
    if t ≠ 6 ∧ x / 2 ^ f.fb % 2 ^ f.eb = 0 then .zero (x / f.signBit % 2 == 1) else f.decode x

/-- Maximum and minimum; a NaN gives NaN. -/
def nanOr (f : FVal → FVal → FVal) (x y : FVal) : FVal := if x.isNan || y.isNan then .nan false else f x y

/-- Least and greatest integer of a type of `n` bits. -/
def minInt (n : Nat) : Int := -(2 ^ (n - 1) : Int)
def maxInt (n : Nat) : Int := 2 ^ (n - 1) - 1

/-- The two's-complement pattern of an integer in `n` bits. -/
def intBits (n : Nat) (v : Int) : Nat := (v % 2 ^ n).toNat

/-- Clamping to the range of `n` bits, counted (10 R203). -/
def clampInt (n : Nat) (v : Int) : EngVal :=
  if v < minInt n then { bits := intBits n (minInt n), ovf := 1, inv := false }
  else if maxInt n < v then { bits := intBits n (maxInt n), ovf := 1, inv := false }
  else { bits := intBits n v, ovf := 0, inv := false }

/-- An exact integer result to an integer type: wrapped, or saturated and counted (10 R203). -/
def intTo (t : ETy) (sat : Bool) (v : Int) : EngVal :=
  if sat then clampInt (ETy.bits t) v else { bits := intBits (ETy.bits t) v, ovf := 0, inv := false }

/-- A real value to an integer type: rounded by mode, then clamped and counted whatever the saturation field
(10 R210). -/
def realToInt (t : ETy) (md : Mode) (x : FVal) : EngVal :=
  match x with
  | .nan _ => { bits := 0, ovf := 0, inv := true }
  | .inf s => clampInt (ETy.bits t) (if s then minInt (ETy.bits t) - 1 else maxInt (ETy.bits t) + 1)
  | .zero _ => { bits := 0, ovf := 0, inv := false }
  | .num n e => clampInt (ETy.bits t) (roundInt md n e).1

/-- conv to a float type. -/
def toFloat (t : ETy) (md : Mode) (x : FVal) : EngVal := (ETy.fmt t).engine md x

/-- The integer an element of an integer type holds. -/
def ETy.int (t : ETy) (x : Nat) : Int := (BitVec.ofNat (ETy.bits t) x).toInt

/-- Engine and copy conversion from type `ts` to `td` (10 R210). -/
def convert (ts td : ETy) (md : Mode) (sat : Bool) (x : Nat) : EngVal :=
  if td = 7 then
    (if ts = 7 then { bits := ds8Nearest (ds8Value x) (-6) 256 0x77, ovf := 0, inv := false }
     else ds8Quantise (ETy.value ts x))
  else if td.isInt then
    (if ts.isInt then intTo td sat (ETy.int ts x) else realToInt td md (ETy.value ts x))
  else toFloat td md (ETy.value ts x)

/-- rne(x, F32). -/
def rneF32 (x : FVal) : EngVal := f32.engine .rne x

end Sys2Proof.Machine
end

