-- ==== Sys2Proof/Decode.lean ====
section
/-!
DEFINITION. Decoding a head and its tail (12 R238 to R242), total on any bits, and the encoder of the same tables.
Heads and tails are natural numbers here; a field is taken by division and remainder.
-/
namespace Sys2Proof

/-- Why a head does not decode: ILLEGAL with its detail, or RESERVED_FIELD 0xFF (12 R240). -/
inductive DecodeError where
  | illegal (detail : Nat)
  | reserved
  deriving DecidableEq, Repr

/-- What decoding answers. -/
inductive Decoded where
  | instr (i : Instr)
  | bad (e : DecodeError)
  deriving DecidableEq, Repr

/-- The order of the checks of R240 for an assigned opcode: S assigned, TL of the member, F assigned, fields. -/
def pick (sOk tlOk fOk fieldsOk : Bool) (i : Instr) : Decoded :=
  if !sOk then .bad (.illegal 2)
  else if !tlOk then .bad (.illegal 3)
  else if !fOk then .bad (.illegal 1)
  else if !fieldsOk then .bad .reserved
  else .instr i

def regOf (n : Nat) : Reg := Fin.ofNat 32 n
def predOf (n : Nat) : Pred := Fin.ofNat 16 n

/-- Fields of the tails TR, TI, TD, TQ (12 R239). -/
def trA (t : Nat) : Nat := t / 2048 % 32
def trB (t : Nat) : Nat := t / 64 % 32
def trF (t : Nat) : Nat := t % 64
def tiI (t : Nat) : Nat := t % 2048
def tdA (t : Nat) : Nat := t / 134217728 % 32
def tdB (t : Nat) : Nat := t / 4194304 % 32
def tdF (t : Nat) : Nat := t / 65536 % 64
def tdI (t : Nat) : Nat := t % 65536
def tqA (t : Nat) : Nat := t / 576460752303423488 % 32
def tqB (t : Nat) : Nat := t / 18014398509481984 % 32
def tqC (t : Nat) : Nat := t / 562949953421312 % 32
def tqE (t : Nat) : Nat := t / 17592186044416 % 32
def tqF (t : Nat) : Nat := t / 274877906944 % 64
def tqI (t : Nat) : Nat := t % 274877906944
/-- TB and the I field of LOOP: L above, H below. -/
def targetOf (x : Nat) : Target := { l := BitVec.ofNat 11 (x / 32), h := BitVec.ofNat 5 x }

def decMisc (tl d s : Nat) : Decoded :=
  pick (s < 6) (tl == 0) true (s == 4 || d == 0)
    (match s with
     | 0 => .nop | 1 => .exit | 2 => .yield | 3 => .brk | 4 => .trap (Fin.ofNat 32 d) | _ => .rett)

def decAlu (tl d s t : Nat) : Decoded :=
  let w := s == 1
  let d := regOf d
  let a := regOf (trA t)
  let b := regOf (trB t)
  pick true (tl == 1) (trF t < 21) (s < 2)
    (match trF t with
     | 0 => .add w d a b | 1 => .sub w d a b | 2 => .mul w d a b | 3 => .mulh w d a b
     | 4 => .mulhu w d a b | 5 => .div w d a b | 6 => .divu w d a b | 7 => .rem w d a b
     | 8 => .remu w d a b | 9 => .and w d a b | 10 => .or w d a b | 11 => .xor w d a b
     | 12 => .andn w d a b | 13 => .shl w d a b | 14 => .shr w d a b | 15 => .sar w d a b
     | 16 => .rot w d a b | 17 => .min w d a b | 18 => .max w d a b | 19 => .minu w d a b
     | _ => .maxu w d a b)

def decAlui (tl d s t : Nat) : Decoded :=
  let d := regOf d
  let a := regOf (trA t)
  let i := BitVec.ofNat 11 (tiI t)
  let n := BitVec.ofNat 6 (tiI t)
  pick true (tl == 1) true (!(s == 4 || s == 5 || s == 6) || tiI t < 64)
    (match s with
     | 0 => .addi d a i | 1 => .andi d a i | 2 => .ori d a i | 3 => .xori d a i
     | 4 => .shli d a n | 5 => .shri d a n | 6 => .sari d a n | _ => .muli d a i)

def decLi (tl d s t : Nat) : Decoded :=
  let z := s == 1
  let d := regOf d
  pick true (tl != 0) true (s < 2 && !(tl == 3 && s == 1))
    (match tl with
     | 1 => .li16 z d (BitVec.ofNat 16 t)
     | 2 => .li32 z d (BitVec.ofNat 32 t)
     | _ => .li64 d (BitVec.ofNat 64 t))

def decUnary (tl d s t : Nat) : Decoded :=
  let f := trF t
  let d := regOf d
  let a := regOf (trA t)
  let sz := Fin.ofNat 3 s
  pick true (tl == 1) (f < 8) (trB t == 0 && (if f < 6 then s == 0 else s < 3))
    (match f with
     | 0 => .mov d a | 1 => .neg d a | 2 => .not d a | 3 => .clz d a | 4 => .ctz d a | 5 => .popc d a
     | 6 => .sext sz d a | _ => .zext sz d a)

def decBitf (tl d s t : Nat) : Decoded :=
  let f := tdF t
  let d := regOf d
  let a := regOf (tdA t)
  let p := BitVec.ofNat 6 (tdI t)
  let n := BitVec.ofNat 6 (tdI t / 64)
  pick true (tl == 2) (f < 3) (s == 0 && tdB t == 0 && tdI t < 4096 && bitfOk p n)
    (match f with
     | 0 => .ext d a p n | 1 => .extu d a p n | _ => .ins d a p n)

def decCmp (tl d s t : Nat) : Decoded :=
  let q := predOf d
  let a := regOf (trA t)
  let b := regOf (trB t)
  pick true (tl == 1) true (d < 16 && trF t == 0)
    (match s with
     | 0 => .cmpEq q a b | 1 => .cmpNe q a b | 2 => .cmpLt q a b | 3 => .cmpGe q a b
     | 4 => .cmpLtu q a b | 5 => .cmpGeu q a b | 6 => .cmpTst q a b | _ => .cmpNtst q a b)

def decCmpi (tl d s t : Nat) : Decoded :=
  let q := predOf d
  let a := regOf (trA t)
  let i := BitVec.ofNat 11 (tiI t)
  pick true (tl == 1) true (d < 16)
    (match s with
     | 0 => .cmpiEq q a i | 1 => .cmpiNe q a i | 2 => .cmpiLt q a i | 3 => .cmpiGe q a i
     | 4 => .cmpiLtu q a i | 5 => .cmpiGeu q a i | 6 => .cmpiTst q a i | _ => .cmpiNtst q a i)

def decSel (tl d s t : Nat) : Decoded :=
  pick true (tl == 1) true (s == 0 && trF t < 16)
    (.sel (regOf d) (predOf (trF t)) (regOf (trA t)) (regOf (trB t)))

def decPlog (tl d s t : Nat) : Decoded :=
  let q := predOf d
  let a := predOf (trA t)
  let b := predOf (trB t)
  pick true (tl == 1) true
    (d < 16 && trA t < 16 && trB t < 16 && trF t == 0 && (s < 4 || trB t == 0) && (s < 6 || trA t == 0))
    (match s with
     | 0 => .pand q a b | 1 => .por q a b | 2 => .pxor q a b | 3 => .pandn q a b
     | 4 => .pnot q a | 5 => .pmov q a | 6 => .pset q | _ => .pclr q)

/-- PPACK and PUNPACK: any base but 0 or 8 is an unassigned F; the bits above are must-be-zero (R242, R256; log 20). -/
def decPword (tl d s t : Nat) : Decoded :=
  let f := trF t
  let hi := f % 16 == 8
  pick (s < 4) (tl == 1) (2 ≤ s || f % 16 == 0 || f % 16 == 8)
    (trB t == 0 && (if s < 2 then f < 16 else f == 0)
      && (if s == 0 || s == 2 then trA t == 0 else d == 0))
    (match s with
     | 0 => .ppack (regOf d) hi | 1 => .punpack (regOf (trA t)) hi
     | 2 => .prd (regOf d) | _ => .pwr (regOf (trA t)))

def decFalu (tl d s t : Nat) : Decoded :=
  let f := trF t
  let d := regOf d
  let a := regOf (trA t)
  let b := regOf (trB t)
  let r := Fin.ofNat 5 s
  pick true (tl == 1) (f < 9) (s < 5 && (f < 6 || trB t == 0))
    (match f with
     | 0 => .fadd r d a b | 1 => .fsub r d a b | 2 => .fmul r d a b | 3 => .fdiv r d a b
     | 4 => .fmin r d a b | 5 => .fmax r d a b | 6 => .fsqrt r d a | 7 => .fabs r d a | _ => .fneg r d a)

def decFfma (tl d s t : Nat) : Decoded :=
  let d := regOf d
  let a := regOf (tdA t)
  let b := regOf (tdB t)
  let c := regOf (tdF t)
  let r := Fin.ofNat 5 s
  pick true (tl == 2) true (s < 5 && tdI t == 0)
    (if tdF t < 32 then .fma r d a b c else .fnma r d a b c)

def decFcmp (tl d s t : Nat) : Decoded :=
  let q := predOf d
  let a := regOf (trA t)
  let b := regOf (trB t)
  pick (s < 4) (tl == 1) true (d < 16 && trF t == 0)
    (match s with
     | 0 => .feq q a b | 1 => .flt q a b | 2 => .fle q a b | _ => .funo q a b)

def decFcvt (tl d s t : Nat) : Decoded :=
  let f := trF t
  let d := regOf d
  let a := regOf (trA t)
  let r := Fin.ofNat 5 s
  pick true (tl == 1) (f < 7) (s < 5 && trB t == 0)
    (match f with
     | 0 => .cvtfi r d a | 1 => .cvtif r d a | 2 => .cvtfb r d a | 3 => .cvtbf r d a
     | 4 => .cvtfh r d a | 5 => .cvthf r d a | _ => .fclass r d a)

def decBr (tl d s t : Nat) : Decoded := pick true (tl == 1) true (d == 0 && s == 0) (.br (targetOf t))

def decBc (tl d s t : Nat) : Decoded :=
  pick (s < 2) (tl == 1) true true
    (match s with
     | 0 => .bt (Fin.ofNat 32 d) (targetOf t) | _ => .bf (Fin.ofNat 32 d) (targetOf t))

def decCall (tl d s t : Nat) : Decoded := pick true (tl == 1) true (d == 0 && s == 0) (.call (targetOf t))

def decJump (tl d s : Nat) : Decoded :=
  pick (s < 3) (tl == 0) true (s != 2 || d == 30)
    (match s with
     | 0 => .jr (regOf d) | 1 => .callr (regOf d) | _ => .ret)

def decLoop (tl d s t : Nat) : Decoded :=
  pick true (tl == 2) true (d == 0 && s == 0 && tdB t == 0 && tdF t == 0)
    (.loop (regOf (tdA t)) (targetOf (tdI t)))

def decLoopi (tl d s t : Nat) : Decoded :=
  pick true (tl == 1) true true (.loopi (BitVec.ofNat 8 (d * 8 + s)) (targetOf t))

def decLctl (tl d s : Nat) : Decoded :=
  pick (s < 3) (tl == 0) true (s != 0 || d == 0)
    (match s with
     | 0 => .lexit | 1 => .lidx (regOf d) | _ => .ldep (regOf d))

def decFrame (tl d s t : Nat) : Decoded :=
  pick (s < 2) (if s == 0 then tl == 1 else tl == 0) true (d == 0)
    (match s with
     | 0 => .enter (BitVec.ofNat 16 t) | _ => .leave)

def decCsr (tl d s t : Nat) : Decoded :=
  let d := regOf d
  let a := regOf (trA t)
  let n := BitVec.ofNat 11 (tiI t)
  pick (s < 4) (tl == 1) true (s != 0 || trA t == 0)
    (match s with
     | 0 => .csrr d n | 1 => .csrw d a n | 2 => .csrs d a n | _ => .csrc d a n)

def decLd (tl d s t : Nat) : Decoded :=
  let d := regOf d
  pick (s < 7) (tl == 1 || tl == 2) true (tl == 1 || tdF t == 0)
    (if tl == 1 then
      let a := regOf (trA t)
      let i := BitVec.ofNat 11 (tiI t)
      match s with
      | 0 => .ldBTi d a i | 1 => .ldBuTi d a i | 2 => .ldHTi d a i | 3 => .ldHuTi d a i
      | 4 => .ldWTi d a i | 5 => .ldWuTi d a i | _ => .ldDTi d a i
     else
      let a := regOf (tdA t)
      let b := regOf (tdB t)
      let i := BitVec.ofNat 16 (tdI t)
      match s with
      | 0 => .ldBTd d a b i | 1 => .ldBuTd d a b i | 2 => .ldHTd d a b i | 3 => .ldHuTd d a b i
      | 4 => .ldWTd d a b i | 5 => .ldWuTd d a b i | _ => .ldDTd d a b i)

def decSt (tl d s t : Nat) : Decoded :=
  let d := regOf d
  pick (s % 2 == 0) (tl == 1 || tl == 2) true (tl == 1 || tdF t == 0)
    (if tl == 1 then
      let a := regOf (trA t)
      let i := BitVec.ofNat 11 (tiI t)
      match s with
      | 0 => .stBTi d a i | 2 => .stHTi d a i | 4 => .stWTi d a i | _ => .stDTi d a i
     else
      let a := regOf (tdA t)
      let b := regOf (tdB t)
      let i := BitVec.ofNat 16 (tdI t)
      match s with
      | 0 => .stBTd d a b i | 2 => .stHTd d a b i | 4 => .stWTd d a b i | _ => .stDTd d a b i)

def decFemem (tl d s t : Nat) : Decoded :=
  let r := regOf d
  let a := regOf (trA t)
  let i := BitVec.ofNat 11 (tiI t)
  pick (s < 6) (tl == 1) true (s != 4 || d == 0)
    (match s with
     | 0 => .ldc r a i | 1 => .ldf r a i | 2 => .stp r a i | 3 => .stf r a i | 4 => .femt a i | _ => .fest r a i)

def decAmo (tl d s t : Nat) : Decoded :=
  let fl : AmoFlags := { d := s % 2 == 1, aq := s / 2 % 2 == 1, rl := s / 4 % 2 == 1 }
  let d := regOf d
  let a := regOf (trA t)
  let b := regOf (trB t)
  pick true (tl == 1) (trF t < 10) true
    (match trF t with
     | 0 => .amoadd fl d a b | 1 => .amoand fl d a b | 2 => .amoor fl d a b | 3 => .amoxor fl d a b
     | 4 => .amomin fl d a b | 5 => .amomax fl d a b | 6 => .amominu fl d a b | 7 => .amomaxu fl d a b
     | 8 => .amoswap fl d a b | _ => .amocas fl d a b)

def decFence (tl d s : Nat) : Decoded :=
  let sc := Fin.ofNat 4 d
  pick (s < 3) (tl == 0) true (d < 4)
    (match s with
     | 0 => .fenceAcq sc | 1 => .fenceRel sc | _ => .fenceFull sc)

def decDrain (tl d s : Nat) : Decoded := pick true (tl == 0) true (d < 6 && s == 0) (.drain (Fin.ofNat 6 d))

def decRegfe (tl d s t : Nat) : Decoded :=
  pick (s < 3) (if s == 0 then tl == 2 else tl == 0) true
    (s != 0 || (d == 0 && tdF t < 32 && tdI t == 0))
    (match s with
     | 0 => .rfill (regOf (tdA t)) (regOf (tdB t)) (regOf (tdF t)) | 1 => .rempty (regOf d) | _ => .rstat (regOf d))

def decSend (tl d s t : Nat) : Decoded :=
  pick true (tl == 2) true (d == 0 && s == 0 && tdF t < 16)
    (.send (regOf (tdA t)) (regOf (tdB t)) (Fin.ofNat 16 (tdF t)) (BitVec.ofNat 16 (tdI t)))

def decRecv (tl d s t : Nat) : Decoded :=
  let d := regOf d
  let a := regOf (trA t)
  let b := regOf (trB t)
  pick (s < 2) (tl == 1) true (trF t == 0)
    (match s with
     | 0 => .recv d a b | _ => .tryrecv d a b)

def decThread (tl d s t : Nat) : Decoded :=
  let r := regOf d
  let a := regOf (trA t)
  let b := regOf (trB t)
  pick true (tl == 1) true
    (trF t == 0 && (s == 0 || trB t == 0) && (s < 5 || d == 0) && (s < 5 || s == 7 || trA t == 0))
    (match s with
     | 0 => .spawn r a b | 1 => .gjoin r a | 2 => .gleave r a | 3 => .gbar r a | 4 => .gsize r a
     | 5 => .task | 6 => .tdone | _ => .mig a)

def decSwapt (tl d s t : Nat) : Decoded :=
  pick true (tl == 1) true (d == 0 && s == 0 && trF t == 0) (.swapt (regOf (trA t)) (regOf (trB t)))

def decVec (tl d s t : Nat) : Decoded :=
  let f := tqF t
  let i := tqI t
  let o : VecOps := { ts := Fin.ofNat 8 d, td := Fin.ofNat 8 i, rm := Fin.ofNat 4 s
                      a := regOf (tqA t), b := regOf (tqB t), c := regOf (tqC t), e := regOf (tqE t)
                      sc := i / 32 % 2 == 1, sat := i / 16 % 2 == 1 }
  pick true (tl == 3) (f < 20) (d < 8 && i < 64 && i % 16 < 8 && s < 4 && vecOk f o)
    (match f with
     | 0 => .vadd o | 1 => .vsub o | 2 => .vmul o | 3 => .vmax o | 4 => .vmin o | 5 => .vabs o | 6 => .vneg o
     | 7 => .vfma o | 8 => .vexp o | 9 => .vrcp o | 10 => .vrsq o | 11 => .vsigm o | 12 => .vsilu o
     | 13 => .vcvt o | 14 => .vset o | 15 => .vcpy o | 16 => .viota o | 17 => .vsel o | 18 => .vcmp o
     | _ => .vscl o)

def decVred (tl d s t : Nat) : Decoded :=
  let f := tqF t
  let d := regOf d
  let a := regOf (tqA t)
  let b := regOf (tqB t)
  let ty := Fin.ofNat 8 (tqI t)
  pick true (tl == 3) (f < 6)
    (s == 0 && tqC t == 0 && tqE t == 0 && tqI t < 7 && (f == 5 || tqB t == 0))
    (match f with
     | 0 => .vsum ty d a | 1 => .vssq ty d a | 2 => .vamax ty d a | 3 => .vmaxr ty d a | 4 => .vminr ty d a
     | _ => .vdot ty d a b)

def decVgat (tl d s t : Nat) : Decoded :=
  let f := tqF t
  let i := tqI t
  let o : GatOps := { ty := Fin.ofNat 8 i, x32 := i / 16 % 4 == 1
                      a := regOf (tqA t), b := regOf (tqB t), c := regOf (tqC t) }
  pick true (tl == 3) (f < 3)
    (d == 0 && tqE t == 0 && i < 64 && i % 16 < 8 && i / 16 < 2 && (if f == 2 then s < 4 && i % 16 != 7 else s == 0))
    (match f with
     | 0 => .vgath o | 1 => .vscat o | _ => .vscadd (Fin.ofNat 4 s) o)

def decAcc (tl d s t : Nat) : Decoded :=
  let f := tdF t
  let i := tdI t
  let h := BitVec.ofNat 7 i
  let n1 := Fin.ofNat 16 (i / 128)
  let tc := i / 2048 % 16
  let ty := Fin.ofNat 8 tc
  let clr := i / 32768 % 2 == 1
  let a := regOf (tdA t)
  let b := regOf (tdB t)
  pick true (tl == 2) (f < 8)
    (s == 0
      && (f == 7 || (if f == 3 || f == 4 then d < 16 else d == 0))
      && ([1, 2, 3, 4].contains f || tdA t == 0)
      && ([1, 2, 3].contains f || tdB t == 0)
      && (if f == 1 then tc < 7 && tc != 3 else if f == 2 then tc < 8 else tc == 0)
      && (f == 7 || !clr)
      && (f != 7 || i / 128 % 16 == 0))
    (match f with
     | 0 => .accz h n1 | 1 => .accld h n1 ty a b | 2 => .accst h n1 ty a b
     | 3 => .accpin (predOf d) h n1 a b | 4 => .accatt (predOf d) h n1 a | 5 => .accrel h n1
     | 6 => .accspl h n1 | _ => .accsta (regOf d) h clr)

def decMma (tl d s t : Nat) : Decoded :=
  let i := tqI t
  let o : MmaOps := { comb := Fin.ofNat 5 d, acc := s % 2 == 1, col := s / 2 % 2 == 1
                      a := regOf (tqA t), b := regOf (tqB t), k := regOf (tqE t)
                      h := BitVec.ofNat 7 i, pa := BitVec.ofNat 16 (i / 128), pb := BitVec.ofNat 15 (i / 8388608) }
  pick true (tl == 3) (tqF t < 2) (d < 5 && s < 4 && (tqF t == 1) == (tqC t != 0))
    (match tqF t with
     | 0 => .mma o | _ => .mmag o (regOf (tqC t)))

def decTld (tl d s t : Nat) : Decoded :=
  pick true (tl == 2) true (d < 2 && s == 0 && tdF t == 0)
    (.tld (d == 1) (regOf (tdA t)) (regOf (tdB t)) (BitVec.ofNat 16 (tdI t)))

def decDelta (tl d s t : Nat) : Decoded :=
  let f := tdF t
  let h := BitVec.ofNat 7 (tdI t)
  let a := regOf (tdA t)
  pick true (tl == 2) (f < 3) (d == 0 && s == 0 && tdI t < 128 && (f == 2 || tdB t == 0))
    (match f with
     | 0 => .delta h a | 1 => .dread h a | _ => .dscl h a (regOf (tdB t)))

def decMerge (tl d s t : Nat) : Decoded :=
  let f := tdF t
  let i := tdI t
  let d' := regOf d
  let a := regOf (tdA t)
  let b := regOf (tdB t)
  let h := BitVec.ofNat 7 i
  pick true (tl == 2) (f < 8)
    (s == 0 && (f != 5 || d == 0)
      && ([0, 1, 5].contains f || tdA t == 0)
      && ([0, 1].contains f || tdB t == 0)
      && (match f with
          | 0 => i / 2048 ≤ 16 | 1 => i < 16 | 3 => i < 128 | 4 => i < 128 | 7 => i < 4 | _ => i == 0))
    (match f with
     | 0 => .bopen d' h (Fin.ofNat 16 (i / 128)) (BitVec.ofNat 5 (i / 2048)) a b
     | 1 => .bsend d' a b (Fin.ofNat 16 i) | 2 => .bwait d' | 3 => .bnorm d' h | 4 => .bseal d' h
     | 5 => .babsent a | 6 => .bclose d' | _ => .bstat d' (Fin.ofNat 4 i))

def decCopy (tl d s t : Nat) : Decoded :=
  let k := Fin.ofNat 32 d
  let a := regOf (tdA t)
  let b := regOf (tdB t)
  let z := tdI t % 2 == 1
  pick true (tl == 2) (tdF t < 3) (s == 0 && tdI t < 2)
    (match tdF t with
     | 0 => .cpy k a b z | 1 => .cpys k a b z | _ => .cpyx k a b z)

def decColl (tl d s t : Nat) : Decoded :=
  let f := tdF t
  let i := tdI t
  let d' := regOf d
  let a := regOf (tdA t)
  let b := regOf (tdB t)
  pick true (tl == 2) (f < 7)
    (s == 0 && (f != 3 || d == 0)
      && ([0, 1, 4, 5].contains f || tdA t == 0)
      && ([0, 1, 4].contains f || tdB t == 0)
      && (match f with
          | 4 => i < 256 && i / 8 % 2 == 0 && redOk (BitVec.ofNat 3 i) (BitVec.ofNat 4 (i / 16))
          | 5 => i < 16 | _ => i == 0))
    (match f with
     | 0 => .colld d' a b | 1 => .colrun d' a b | 2 => .colwait d' | 3 => .colabt
     | 4 => .red d' a b (BitVec.ofNat 3 i) (BitVec.ofNat 4 (i / 16))
     | 5 => .redg d' a (predOf i) | _ => .colst d')

def decSys (tl d s t : Nat) : Decoded :=
  let f := tdF t
  let r := regOf d
  let a := regOf (tdA t)
  pick true (tl == 2) (f < 3)
    (s == 0 && tdI t == 0 && (f != 1 || d == 0) && (f != 0 || tdA t == 0) && (f == 2 || tdB t == 0))
    (match f with
     | 0 => .ckpt r | 1 => .siga a | _ => .qpost r a (regOf (tdB t)))

/-- Number of tail halfwords a head's TL field gives (12 R233). -/
def tailLen (head : Nat) : Nat :=
  match head / 16384 % 4 with
  | 0 => 0 | 1 => 1 | 2 => 2 | _ => 4

/-- Decoding by the fields of a head: TL, OP, D and S, with the tail (12 R238 to R242). -/
def decFields (tl op d s t : Nat) : Decoded :=
  match op with
  | 0 => .bad (.illegal 4)
  | 0x01 => decMisc tl d s
  | 0x02 => decAlu tl d s t
  | 0x03 => decAlui tl d s t
  | 0x04 => decLi tl d s t
  | 0x05 => decUnary tl d s t
  | 0x06 => decBitf tl d s t
  | 0x07 => decCmp tl d s t
  | 0x08 => decCmpi tl d s t
  | 0x09 => decSel tl d s t
  | 0x0A => decPlog tl d s t
  | 0x0B => decPword tl d s t
  | 0x0C => decFalu tl d s t
  | 0x0D => decFfma tl d s t
  | 0x0E => decFcmp tl d s t
  | 0x0F => decFcvt tl d s t
  | 0x10 => decBr tl d s t
  | 0x11 => decBc tl d s t
  | 0x12 => decCall tl d s t
  | 0x13 => decJump tl d s
  | 0x14 => decLoop tl d s t
  | 0x15 => decLoopi tl d s t
  | 0x16 => decLctl tl d s
  | 0x17 => decFrame tl d s t
  | 0x18 => decCsr tl d s t
  | 0x20 => decLd tl d s t
  | 0x21 => decSt tl d s t
  | 0x22 => decFemem tl d s t
  | 0x23 => decAmo tl d s t
  | 0x24 => decFence tl d s
  | 0x25 => decDrain tl d s
  | 0x26 => decRegfe tl d s t
  | 0x28 => decSend tl d s t
  | 0x29 => decRecv tl d s t
  | 0x2A => decThread tl d s t
  | 0x2B => decSwapt tl d s t
  | 0x30 => decVec tl d s t
  | 0x31 => decVred tl d s t
  | 0x32 => decVgat tl d s t
  | 0x38 => decAcc tl d s t
  | 0x39 => decMma tl d s t
  | 0x3A => decTld tl d s t
  | 0x3B => decDelta tl d s t
  | 0x3C => decMerge tl d s t
  | 0x3D => decCopy tl d s t
  | 0x3E => decColl tl d s t
  | 0x3F => decSys tl d s t
  | _ => .bad (.illegal 0)

/-- The bits of a tail of the length TL gives. -/
def tailPart (tl t : Nat) : Nat :=
  t % (match tl with | 0 => 1 | 1 => 65536 | 2 => 4294967296 | _ => 18446744073709551616)

/-- Decoding of a head and the bits of its tail, in the order of R240; total on every pair of numbers. -/
def decode (head tail : Nat) : Decoded :=
  decFields (head / 16384 % 4) (head / 256 % 64) (head / 8 % 32) (head % 8) (tailPart (head / 16384 % 4) tail)

/-- A head and its tail, by field. -/
structure Code where
  tl : Nat
  op : Nat
  d : Nat
  s : Nat
  tail : Nat
  deriving DecidableEq, Repr

def Code.head (c : Code) : Nat := c.tl * 16384 + c.op * 256 + c.d * 8 + c.s

def tr (a b : Reg) (f : Nat) : Nat := a.val * 2048 + b.val * 64 + f
def ti (a : Reg) (i : Nat) : Nat := a.val * 2048 + i
def tdw (a b : Reg) (f i : Nat) : Nat := a.val * 134217728 + b.val * 4194304 + f * 65536 + i
def tq (a b c e : Reg) (f i : Nat) : Nat :=
  a.val * 576460752303423488 + b.val * 18014398509481984 + c.val * 562949953421312 + e.val * 17592186044416
    + f * 274877906944 + i
def Target.bits (t : Target) : Nat := t.l.toNat * 32 + t.h.toNat

def encAlu (f : Nat) (w : Bool) (d a b : Reg) : Code := ⟨1, 0x02, d, w.toNat, tr a b f⟩
def encAlui (s : Nat) (d a : Reg) (i : Nat) : Code := ⟨1, 0x03, d, s, ti a i⟩
def encUnary (f s : Nat) (d a : Reg) : Code := ⟨1, 0x05, d, s, tr a 0 f⟩
def encBitf (f : Nat) (d a : Reg) (p n : BitVec 6) : Code := ⟨2, 0x06, d, 0, tdw a 0 f (n.toNat * 64 + p.toNat)⟩
def encCmp (s : Nat) (q : Pred) (a b : Reg) : Code := ⟨1, 0x07, q, s, tr a b 0⟩
def encCmpi (s : Nat) (q : Pred) (a : Reg) (i : BitVec 11) : Code := ⟨1, 0x08, q, s, ti a i.toNat⟩
def encPlog (s : Nat) (q : Pred) (a b : Nat) : Code := ⟨1, 0x0A, q, s, a * 2048 + b * 64⟩
def encFalu (f : Nat) (r : Fin 5) (d a b : Reg) : Code := ⟨1, 0x0C, d, r, tr a b f⟩
def encFcmp (s : Nat) (q : Pred) (a b : Reg) : Code := ⟨1, 0x0E, q, s, tr a b 0⟩
def encFcvt (f : Nat) (r : Fin 5) (d a : Reg) : Code := ⟨1, 0x0F, d, r, tr a 0 f⟩
def encCsr (s : Nat) (d a : Reg) (n : BitVec 11) : Code := ⟨1, 0x18, d, s, ti a n.toNat⟩
def encMemTi (op s : Nat) (d a : Reg) (i : BitVec 11) : Code := ⟨1, op, d, s, ti a i.toNat⟩
def encMemTd (op s : Nat) (d a b : Reg) (i : BitVec 16) : Code := ⟨2, op, d, s, tdw a b 0 i.toNat⟩
def encAmo (f : Nat) (fl : AmoFlags) (d a b : Reg) : Code :=
  ⟨1, 0x23, d, fl.d.toNat + 2 * fl.aq.toNat + 4 * fl.rl.toNat, tr a b f⟩
def encThread (s : Nat) (d a b : Reg) : Code := ⟨1, 0x2A, d, s, tr a b 0⟩
def encVec (f : Nat) (o : VecOps) : Code :=
  ⟨3, 0x30, o.ts, o.rm, tq o.a o.b o.c o.e f (o.td.val + 16 * o.sat.toNat + 32 * o.sc.toNat)⟩
def encVred (f : Nat) (ty : ETy) (d a b : Reg) : Code := ⟨3, 0x31, d, 0, tq a b 0 0 f ty⟩
def encVgat (f s : Nat) (o : GatOps) : Code := ⟨3, 0x32, 0, s, tq o.a o.b o.c 0 f (o.ty.val + 16 * o.x32.toNat)⟩
def encAcc (f d : Nat) (h : BitVec 7) (n1 : Fin 16) (ty : Nat) (clr : Bool) (a b : Reg) : Code :=
  ⟨2, 0x38, d, 0, tdw a b f (h.toNat + n1.val * 128 + ty * 2048 + clr.toNat * 32768)⟩
def encMma (f : Nat) (o : MmaOps) (c : Reg) : Code :=
  ⟨3, 0x39, o.comb, o.acc.toNat + 2 * o.col.toNat,
    tq o.a o.b c o.k f (o.h.toNat + o.pa.toNat * 128 + o.pb.toNat * 8388608)⟩
def encDelta (f : Nat) (h : BitVec 7) (a b : Reg) : Code := ⟨2, 0x3B, 0, 0, tdw a b f h.toNat⟩
def encMerge (f : Nat) (d a b : Reg) (i : Nat) : Code := ⟨2, 0x3C, d, 0, tdw a b f i⟩
def encCopy (f : Nat) (k : Fin 32) (a b : Reg) (z : Bool) : Code := ⟨2, 0x3D, k, 0, tdw a b f z.toNat⟩
def encColl (f : Nat) (d a b : Reg) (i : Nat) : Code := ⟨2, 0x3E, d, 0, tdw a b f i⟩
def encSys (f : Nat) (d a b : Reg) : Code := ⟨2, 0x3F, d, 0, tdw a b f 0⟩

/-- The head and tail of an instruction (12 R242 and the encoding tables of 13 to 17); none for an event. -/
def encode : Instr → Option Code
  | .nop => some ⟨0, 0x01, 0, 0, 0⟩
  | .exit => some ⟨0, 0x01, 0, 1, 0⟩
  | .yield => some ⟨0, 0x01, 0, 2, 0⟩
  | .brk => some ⟨0, 0x01, 0, 3, 0⟩
  | .trap n => some ⟨0, 0x01, n, 4, 0⟩
  | .rett => some ⟨0, 0x01, 0, 5, 0⟩
  | .add w d a b => some (encAlu 0 w d a b)
  | .sub w d a b => some (encAlu 1 w d a b)
  | .mul w d a b => some (encAlu 2 w d a b)
  | .mulh w d a b => some (encAlu 3 w d a b)
  | .mulhu w d a b => some (encAlu 4 w d a b)
  | .div w d a b => some (encAlu 5 w d a b)
  | .divu w d a b => some (encAlu 6 w d a b)
  | .rem w d a b => some (encAlu 7 w d a b)
  | .remu w d a b => some (encAlu 8 w d a b)
  | .and w d a b => some (encAlu 9 w d a b)
  | .or w d a b => some (encAlu 10 w d a b)
  | .xor w d a b => some (encAlu 11 w d a b)
  | .andn w d a b => some (encAlu 12 w d a b)
  | .shl w d a b => some (encAlu 13 w d a b)
  | .shr w d a b => some (encAlu 14 w d a b)
  | .sar w d a b => some (encAlu 15 w d a b)
  | .rot w d a b => some (encAlu 16 w d a b)
  | .min w d a b => some (encAlu 17 w d a b)
  | .max w d a b => some (encAlu 18 w d a b)
  | .minu w d a b => some (encAlu 19 w d a b)
  | .maxu w d a b => some (encAlu 20 w d a b)
  | .addi d a i => some (encAlui 0 d a i.toNat)
  | .andi d a i => some (encAlui 1 d a i.toNat)
  | .ori d a i => some (encAlui 2 d a i.toNat)
  | .xori d a i => some (encAlui 3 d a i.toNat)
  | .shli d a n => some (encAlui 4 d a n.toNat)
  | .shri d a n => some (encAlui 5 d a n.toNat)
  | .sari d a n => some (encAlui 6 d a n.toNat)
  | .muli d a i => some (encAlui 7 d a i.toNat)
  | .li16 z d i => some ⟨1, 0x04, d, z.toNat, i.toNat⟩
  | .li32 z d i => some ⟨2, 0x04, d, z.toNat, i.toNat⟩
  | .li64 d i => some ⟨3, 0x04, d, 0, i.toNat⟩
  | .mov d a => some (encUnary 0 0 d a)
  | .neg d a => some (encUnary 1 0 d a)
  | .not d a => some (encUnary 2 0 d a)
  | .clz d a => some (encUnary 3 0 d a)
  | .ctz d a => some (encUnary 4 0 d a)
  | .popc d a => some (encUnary 5 0 d a)
  | .sext sz d a => some (encUnary 6 sz d a)
  | .zext sz d a => some (encUnary 7 sz d a)
  | .ext d a p n => some (encBitf 0 d a p n)
  | .extu d a p n => some (encBitf 1 d a p n)
  | .ins d a p n => some (encBitf 2 d a p n)
  | .cmpEq q a b => some (encCmp 0 q a b)
  | .cmpNe q a b => some (encCmp 1 q a b)
  | .cmpLt q a b => some (encCmp 2 q a b)
  | .cmpGe q a b => some (encCmp 3 q a b)
  | .cmpLtu q a b => some (encCmp 4 q a b)
  | .cmpGeu q a b => some (encCmp 5 q a b)
  | .cmpTst q a b => some (encCmp 6 q a b)
  | .cmpNtst q a b => some (encCmp 7 q a b)
  | .cmpiEq q a i => some (encCmpi 0 q a i)
  | .cmpiNe q a i => some (encCmpi 1 q a i)
  | .cmpiLt q a i => some (encCmpi 2 q a i)
  | .cmpiGe q a i => some (encCmpi 3 q a i)
  | .cmpiLtu q a i => some (encCmpi 4 q a i)
  | .cmpiGeu q a i => some (encCmpi 5 q a i)
  | .cmpiTst q a i => some (encCmpi 6 q a i)
  | .cmpiNtst q a i => some (encCmpi 7 q a i)
  | .sel d q a b => some ⟨1, 0x09, d, 0, tr a b q⟩
  | .pand q a b => some (encPlog 0 q a b)
  | .por q a b => some (encPlog 1 q a b)
  | .pxor q a b => some (encPlog 2 q a b)
  | .pandn q a b => some (encPlog 3 q a b)
  | .pnot q a => some (encPlog 4 q a 0)
  | .pmov q a => some (encPlog 5 q a 0)
  | .pset q => some (encPlog 6 q 0 0)
  | .pclr q => some (encPlog 7 q 0 0)
  | .ppack d hi => some ⟨1, 0x0B, d, 0, 8 * hi.toNat⟩
  | .punpack a hi => some ⟨1, 0x0B, 0, 1, tr a 0 (8 * hi.toNat)⟩
  | .prd d => some ⟨1, 0x0B, d, 2, 0⟩
  | .pwr a => some ⟨1, 0x0B, 0, 3, tr a 0 0⟩
  | .fadd r d a b => some (encFalu 0 r d a b)
  | .fsub r d a b => some (encFalu 1 r d a b)
  | .fmul r d a b => some (encFalu 2 r d a b)
  | .fdiv r d a b => some (encFalu 3 r d a b)
  | .fmin r d a b => some (encFalu 4 r d a b)
  | .fmax r d a b => some (encFalu 5 r d a b)
  | .fsqrt r d a => some (encFalu 6 r d a 0)
  | .fabs r d a => some (encFalu 7 r d a 0)
  | .fneg r d a => some (encFalu 8 r d a 0)
  | .fma r d a b c => some ⟨2, 0x0D, d, r, tdw a b c 0⟩
  | .fnma r d a b c => some ⟨2, 0x0D, d, r, tdw a b (32 + c.val) 0⟩
  | .feq q a b => some (encFcmp 0 q a b)
  | .flt q a b => some (encFcmp 1 q a b)
  | .fle q a b => some (encFcmp 2 q a b)
  | .funo q a b => some (encFcmp 3 q a b)
  | .cvtfi r d a => some (encFcvt 0 r d a)
  | .cvtif r d a => some (encFcvt 1 r d a)
  | .cvtfb r d a => some (encFcvt 2 r d a)
  | .cvtbf r d a => some (encFcvt 3 r d a)
  | .cvtfh r d a => some (encFcvt 4 r d a)
  | .cvthf r d a => some (encFcvt 5 r d a)
  | .fclass r d a => some (encFcvt 6 r d a)
  | .br t => some ⟨1, 0x10, 0, 0, t.bits⟩
  | .bt q t => some ⟨1, 0x11, q, 0, t.bits⟩
  | .bf q t => some ⟨1, 0x11, q, 1, t.bits⟩
  | .call t => some ⟨1, 0x12, 0, 0, t.bits⟩
  | .jr r => some ⟨0, 0x13, r, 0, 0⟩
  | .callr r => some ⟨0, 0x13, r, 1, 0⟩
  | .ret => some ⟨0, 0x13, 30, 2, 0⟩
  | .loop a t => some ⟨2, 0x14, 0, 0, tdw a 0 0 t.bits⟩
  | .loopi n t => some ⟨1, 0x15, n.toNat / 8, n.toNat % 8, t.bits⟩
  | .lexit => some ⟨0, 0x16, 0, 0, 0⟩
  | .lidx d => some ⟨0, 0x16, d, 1, 0⟩
  | .ldep d => some ⟨0, 0x16, d, 2, 0⟩
  | .enter n => some ⟨1, 0x17, 0, 0, n.toNat⟩
  | .leave => some ⟨0, 0x17, 0, 1, 0⟩
  | .csrr d n => some (encCsr 0 d 0 n)
  | .csrw d a n => some (encCsr 1 d a n)
  | .csrs d a n => some (encCsr 2 d a n)
  | .csrc d a n => some (encCsr 3 d a n)
  | .ldBTi d a i => some (encMemTi 0x20 0 d a i)
  | .ldBTd d a b i => some (encMemTd 0x20 0 d a b i)
  | .ldBuTi d a i => some (encMemTi 0x20 1 d a i)
  | .ldBuTd d a b i => some (encMemTd 0x20 1 d a b i)
  | .ldHTi d a i => some (encMemTi 0x20 2 d a i)
  | .ldHTd d a b i => some (encMemTd 0x20 2 d a b i)
  | .ldHuTi d a i => some (encMemTi 0x20 3 d a i)
  | .ldHuTd d a b i => some (encMemTd 0x20 3 d a b i)
  | .ldWTi d a i => some (encMemTi 0x20 4 d a i)
  | .ldWTd d a b i => some (encMemTd 0x20 4 d a b i)
  | .ldWuTi d a i => some (encMemTi 0x20 5 d a i)
  | .ldWuTd d a b i => some (encMemTd 0x20 5 d a b i)
  | .ldDTi d a i => some (encMemTi 0x20 6 d a i)
  | .ldDTd d a b i => some (encMemTd 0x20 6 d a b i)
  | .stBTi d a i => some (encMemTi 0x21 0 d a i)
  | .stBTd d a b i => some (encMemTd 0x21 0 d a b i)
  | .stHTi d a i => some (encMemTi 0x21 2 d a i)
  | .stHTd d a b i => some (encMemTd 0x21 2 d a b i)
  | .stWTi d a i => some (encMemTi 0x21 4 d a i)
  | .stWTd d a b i => some (encMemTd 0x21 4 d a b i)
  | .stDTi d a i => some (encMemTi 0x21 6 d a i)
  | .stDTd d a b i => some (encMemTd 0x21 6 d a b i)
  | .ldc d a i => some (encMemTi 0x22 0 d a i)
  | .ldf d a i => some (encMemTi 0x22 1 d a i)
  | .stp d a i => some (encMemTi 0x22 2 d a i)
  | .stf d a i => some (encMemTi 0x22 3 d a i)
  | .femt a i => some (encMemTi 0x22 4 0 a i)
  | .fest d a i => some (encMemTi 0x22 5 d a i)
  | .amoadd fl d a b => some (encAmo 0 fl d a b)
  | .amoand fl d a b => some (encAmo 1 fl d a b)
  | .amoor fl d a b => some (encAmo 2 fl d a b)
  | .amoxor fl d a b => some (encAmo 3 fl d a b)
  | .amomin fl d a b => some (encAmo 4 fl d a b)
  | .amomax fl d a b => some (encAmo 5 fl d a b)
  | .amominu fl d a b => some (encAmo 6 fl d a b)
  | .amomaxu fl d a b => some (encAmo 7 fl d a b)
  | .amoswap fl d a b => some (encAmo 8 fl d a b)
  | .amocas fl d a b => some (encAmo 9 fl d a b)
  | .fenceAcq sc => some ⟨0, 0x24, sc, 0, 0⟩
  | .fenceRel sc => some ⟨0, 0x24, sc, 1, 0⟩
  | .fenceFull sc => some ⟨0, 0x24, sc, 2, 0⟩
  | .drain p => some ⟨0, 0x25, p, 0, 0⟩
  | .rfill a b t => some ⟨2, 0x26, 0, 0, tdw a b t 0⟩
  | .rempty d => some ⟨0, 0x26, d, 1, 0⟩
  | .rstat d => some ⟨0, 0x26, d, 2, 0⟩
  | .send a b m tag => some ⟨2, 0x28, 0, 0, tdw a b m tag.toNat⟩
  | .recv d a b => some ⟨1, 0x29, d, 0, tr a b 0⟩
  | .tryrecv d a b => some ⟨1, 0x29, d, 1, tr a b 0⟩
  | .spawn d a b => some (encThread 0 d a b)
  | .gjoin d a => some (encThread 1 d a 0)
  | .gleave d a => some (encThread 2 d a 0)
  | .gbar d a => some (encThread 3 d a 0)
  | .gsize d a => some (encThread 4 d a 0)
  | .task => some (encThread 5 0 0 0)
  | .tdone => some (encThread 6 0 0 0)
  | .mig a => some (encThread 7 0 a 0)
  | .swapt a b => some ⟨1, 0x2B, 0, 0, tr a b 0⟩
  | .ckpt d => some (encSys 0 d 0 0)
  | .siga a => some (encSys 1 0 a 0)
  | .qpost d a b => some (encSys 2 d a b)
  | .vadd o => some (encVec 0 o)
  | .vsub o => some (encVec 1 o)
  | .vmul o => some (encVec 2 o)
  | .vmax o => some (encVec 3 o)
  | .vmin o => some (encVec 4 o)
  | .vabs o => some (encVec 5 o)
  | .vneg o => some (encVec 6 o)
  | .vfma o => some (encVec 7 o)
  | .vexp o => some (encVec 8 o)
  | .vrcp o => some (encVec 9 o)
  | .vrsq o => some (encVec 10 o)
  | .vsigm o => some (encVec 11 o)
  | .vsilu o => some (encVec 12 o)
  | .vcvt o => some (encVec 13 o)
  | .vset o => some (encVec 14 o)
  | .vcpy o => some (encVec 15 o)
  | .viota o => some (encVec 16 o)
  | .vsel o => some (encVec 17 o)
  | .vcmp o => some (encVec 18 o)
  | .vscl o => some (encVec 19 o)
  | .vsum ty d a => some (encVred 0 ty d a 0)
  | .vssq ty d a => some (encVred 1 ty d a 0)
  | .vamax ty d a => some (encVred 2 ty d a 0)
  | .vmaxr ty d a => some (encVred 3 ty d a 0)
  | .vminr ty d a => some (encVred 4 ty d a 0)
  | .vdot ty d a b => some (encVred 5 ty d a b)
  | .vgath o => some (encVgat 0 0 o)
  | .vscat o => some (encVgat 1 0 o)
  | .vscadd rm o => some (encVgat 2 rm o)
  | .cpy k a b z => some (encCopy 0 k a b z)
  | .cpys k a b z => some (encCopy 1 k a b z)
  | .cpyx k a b z => some (encCopy 2 k a b z)
  | .accz h n => some (encAcc 0 0 h n 0 false 0 0)
  | .accld h n ty a b => some (encAcc 1 0 h n ty false a b)
  | .accst h n ty a b => some (encAcc 2 0 h n ty false a b)
  | .accpin q h n a b => some (encAcc 3 q h n 0 false a b)
  | .accatt q h n a => some (encAcc 4 q h n 0 false a 0)
  | .accrel h n => some (encAcc 5 0 h n 0 false 0 0)
  | .accspl h n => some (encAcc 6 0 h n 0 false 0 0)
  | .accsta d h c => some (encAcc 7 d h 0 0 c 0 0)
  | .mma o => some (encMma 0 o 0)
  | .mmag o c => some (encMma 1 o c)
  | .tld w a b p => some ⟨2, 0x3A, w.toNat, 0, tdw a b 0 p.toNat⟩
  | .delta h a => some (encDelta 0 h a 0)
  | .dread h a => some (encDelta 1 h a 0)
  | .dscl h a b => some (encDelta 2 h a b)
  | .bopen d h n w a b => some (encMerge 0 d a b (h.toNat + n.val * 128 + w.toNat * 2048))
  | .bsend d a b n => some (encMerge 1 d a b n)
  | .bwait d => some (encMerge 2 d 0 0 0)
  | .bnorm d h => some (encMerge 3 d 0 0 h.toNat)
  | .bseal d h => some (encMerge 4 d 0 0 h.toNat)
  | .babsent a => some (encMerge 5 0 a 0 0)
  | .bclose d => some (encMerge 6 d 0 0 0)
  | .bstat d k => some (encMerge 7 d 0 0 k)
  | .colld d a b => some (encColl 0 d a b 0)
  | .colrun d a b => some (encColl 1 d a b 0)
  | .colwait d => some (encColl 2 d 0 0 0)
  | .colabt => some (encColl 3 0 0 0 0)
  | .red d a b op ty => some (encColl 4 d a b (op.toNat + ty.toNat * 16))
  | .redg d a q => some (encColl 5 d a 0 q)
  | .colst d => some (encColl 6 d 0 0 0)
  | _ => none

/-- The instruction the decoder reads from the bits of a table row (log 4): a 16-bit row is a head alone; of a longer
row the head is the top halfword and the tail the bits below, as the table's fixed bits place them. -/
def decodeTableWord (nbits w : Nat) : Option Instr :=
  match decode (w / 2 ^ (nbits - 16)) (w % 2 ^ (nbits - 16)) with
  | .instr i => some i
  | .bad _ => none

end Sys2Proof
end

