-- ==== Sys2Proof/Machine/Gateway.lean ====
section
/-!
DEFINITION. The gateway of a cluster: translation, the DMA window check, the read cache, and the undercroft's packet
channels (07 R151 to R154, R385, 02 R28, 04 R76, R87).
-/
namespace Sys2Proof.Machine

/-! ### Translation (07 R151) -/

/-- What a table walk finds: a TRANSLATION detail, or a leaf. -/
inductive Walk where
  | fault (detail : Nat)
  | leaf (log pa : Nat) (rd wr : Bool)
  deriving DecidableEq, Repr

/-- Index of a walk level. -/
def walkIndex (level va : Nat) (host : Bool) : Nat :=
  match level with
  | 1 => va / 2 ^ 39 % 512 + (if host then 512 else 0)
  | 2 => va / 2 ^ 30 % 512
  | 3 => va / 2 ^ 25 % 32
  | _ => va / 2 ^ 16 % 512

/-- The levels from `level` on, `fuel` of them. -/
def walkFrom (m : Memory) (va : Nat) (host : Bool) (level base fuel : Nat) : Walk :=
  match fuel with
  | 0 => .fault 7
  | fuel + 1 =>
    let e := m.read (base + 8 * walkIndex level va host) 8
    let addr := e / 2 ^ 12 % 2 ^ 36 * 2 ^ 12
    let isLeaf := e / 2 % 2 == 1
    let log := if level = 3 then 25 else 16
    if e % 2 = 0 then .fault 1
    else if e / 16 % 256 ≠ 0 ∨ e / 2 ^ 48 ≠ 0 then .fault 7
    else if isLeaf then
      if level ≤ 2 ∨ addr % 2 ^ log ≠ 0 then .fault 7
      else .leaf log addr (e / 4 % 2 == 1) (e / 8 % 2 == 1)
    else if level = 4 ∨ e / 4 % 4 ≠ 0 then .fault 7
    else walkFrom m va host (level + 1) addr fuel

/-- The translation root of a context: none for the identity of context 0 (03 R47). -/
def State.rootOf (s : State) (ctx : Nat) : Option Nat :=
  if ctx = 0 then (if s.dev.root0 = 0 then none else some s.dev.root0)
  else some ((s.dev.contexts.get? ctx).map Ctx.xlroot |>.getD 0)

/-- The walk of a virtual address in a context. -/
def State.walk (s : State) (ctx : Nat) (host : Bool) (va : Nat) : Walk :=
  match s.rootOf ctx with
  | none => .leaf 48 0 true true
  | some root => walkFrom s.cellar va host 1 root 4

/-- A new entry takes the place of the oldest of 512. -/
def Cluster.addTrans (c : Cluster) (e : TransEntry) : Cluster := { c with tcache := (e :: c.tcache).take 512 }

/-- What translation gives an access: a physical address, or a TRANSLATION detail. -/
def grant (log pa : Nat) (rd wr write : Bool) (va : Nat) : Nat × Nat :=
  if (if write then wr else rd) then (pa + va % 2 ^ log, 0) else (0, 6)

/-- Translation of an access by the cluster's gateway: physical address and detail (0 granted), with the cache filled.
-/
def State.translate (s : State) (cl ctx : Nat) (host write : Bool) (va : Nat) : State × Nat × Nat :=
  match (s.cluster cl).cachedTrans ctx host va with
  | some e => (s, grant e.log e.pa e.rd e.wr write va)
  | none =>
    match s.walk ctx host va with
    | .fault d => (s, 0, d)
    | .leaf log pa rd wr =>
      (s.setCluster cl ((s.cluster cl).addTrans
        { ctx := ctx, host := host, base := va / 2 ^ log, log := log, pa := pa, rd := rd, wr := wr }),
        grant log pa rd wr write va)

/-! ### The DMA window table (02 R28) -/

def DmaEntry.matches (e : DmaEntry) (ctx addr : Nat) : Bool :=
  e.v && e.ctx == ctx && decide (e.devBase ≤ addr) && decide (addr < e.devBase + e.pages * 4096)

/-- The host physical address of a host-window address, if the lowest-numbered matching entry permits the access. -/
def Device.dmaCheck (d : Device) (ctx addr : Nat) (write : Bool) : Option Nat :=
  match d.dma.find? (fun x => x.2.matches ctx addr) with
  | none => none
  | some x => if (if write then x.2.wr else x.2.rd) then some (x.2.hostBase + (addr - x.2.devBase)) else none

/-! ### Cellar lines and poison (05 R89) -/

def Device.poisoned (d : Device) (pa : Nat) : Bool := d.poison.contains (pa / 65536) && !d.cleaned.contains (pa / 64)

/-- Some line of [pa, pa + n) is poisoned, `n` at least 1. -/
def Device.poisonedRange (d : Device) (pa n : Nat) : Bool :=
  (List.range ((pa + n - 1) / 64 - pa / 64 + 1)).any (fun i => d.poisoned ((pa / 64 + i) * 64))

/-! ### The read cache (07 R154, R385) -/

def Posted.of (p : Posted) (th : Thread) : Bool := p.launch == th.launch && p.tid == th.tid

/-- Memory with posted stores performed. -/
def overlay (m : Memory) (ps : List Posted) : Memory :=
  match ps with
  | [] => m
  | p :: ps => overlay (m.write p.pa p.size p.data.toNat) ps

/-- A posted store on its way: with its translation if it has passed the gateway, else as the walker will find it. -/
def State.inFlight (s : State) (k : TileId) (x : Timed) : Option (Posted × Bool) :=
  match x.ev, x.arg with
  | .postedStorePerform, .stored t p => if t = k then some (p, true) else none
  | .translationWalk, .stored t p =>
    if t ≠ k then none
    else match s.walk (s.tile k).r.ctx p.host (bitsOf p.addr 0 48) with
      | .fault _ => none
      | .leaf log pa rd wr =>
        let g := grant log pa rd wr true (bitsOf p.addr 0 48)
        if g.2 = 0 then some ({ p with pa := g.1 }, false) else none
  | _, _ => none

/-- The posted stores of a thread of tile `k` that are not performed (07 R155): those that have passed the gateway, and those that
wait for its walker. -/
def State.ownPosted (s : State) (k : TileId) (th : Option Thread) (host : Bool) : List (Posted × Bool) :=
  match th with
  | none => []
  | some th => (s.agenda.filterMap (s.inFlight k)).filter (fun p => p.1.of th && p.1.host == host && p.1.fault == 0)

/-- The cellar as a load of a thread of tile `k` finds it in the stacks: its own stores come first (07 R154). -/
def State.cellarSeen (s : State) (k : TileId) (th : Option Thread) : Memory :=
  overlay s.cellar ((s.ownPosted k th false).map Prod.fst)

/-- Host memory as a load of a thread finds it, its stores where the DMA windows put them (02 R28). -/
def State.hostSeen (s : State) (k : TileId) (th : Option Thread) : Memory :=
  overlay s.host ((s.ownPosted k th true).filterMap (fun p =>
    (s.dev.dmaCheck (s.tile k).r.ctx p.1.pa true).map (fun h => { p.1 with pa := h })))

def Cluster.cachedLine (c : Cluster) (line : Nat) : Option CacheLine := c.rcache.find? (fun l => l.line == line)

/-- A line becomes the most recently used; a set of 16 ways loses its least recently used (07 R385). -/
def Cluster.useLine (c : Cluster) (l : CacheLine) : Cluster :=
  let others := c.rcache.filter (fun x => x.line != l.line)
  let ways := others.filter (fun x => x.line % 64 == l.line % 64)
  { c with rcache := l :: others.filter (fun x => x.line % 64 != l.line % 64 || (ways.take 15).contains x) }

/-- A write-through update of a line the cache holds; it changes no order (07 R385). -/
def Cluster.updateLine (c : Cluster) (pa : Nat) (bs : List Byte) : Cluster :=
  { c with rcache := c.rcache.map (fun l =>
      if l.line = pa / 64 then
        { l with bytes := (List.range 64).map (fun i =>
            if pa ≤ l.line * 64 + i ∧ l.line * 64 + i < pa + bs.length then bs.getD (l.line * 64 + i - pa) 0
            else l.bytes.getD i 0) }
      else l) }

/-- A read of `n` bytes of one line through the read cache of a tile's cluster, which it fills from the stack (07 R154). The
thread's stores that wait for the walker have not updated the line yet; the read sees them. -/
def State.cacheRead (s : State) (k : TileId) (th : Option Thread) (pa n : Nat) : State × List Byte :=
  let cl := clusterOf k
  let c := s.cluster cl
  let l : CacheLine := match c.cachedLine (pa / 64) with
    | some l => l
    | none => { line := pa / 64, bytes := (s.cellarSeen k th).bytes (pa / 64 * 64) 64 }
  let late := ((s.ownPosted k th false).filter (fun p => !p.2)).map Prod.fst
  (s.setCluster cl (c.useLine l), (overlay (Memory.setBytes [] (pa / 64 * 64) l.bytes) late).bytes pa n)

/-- The cache is invalidated entirely (07 R154). -/
def State.flushCache (s : State) (cl : Nat) : State := s.setCluster cl { s.cluster cl with rcache := [] }

/-! ### Writes to the cellar and the host -/

/-- Lines written whole lose their poison (05 R89). -/
def State.clean (s : State) (lines : List Nat) : State :=
  { s with dev := { s.dev with
      cleaned := lines.foldl (fun acc l => if s.dev.poison.contains (l / 1024) then setAdd acc l else acc) s.dev.cleaned } }

/-- Lines that [pa, pa + n) covers whole. -/
def wholeLines (pa n : Nat) : List Nat :=
  (List.range (n / 64 + 1)).filterMap (fun i =>
    if ((pa + 63) / 64 + i) * 64 + 64 ≤ pa + n then some ((pa + 63) / 64 + i) else none)

/-- A write of the cellar; whole lines written lose their poison (05 R89). -/
def State.cellarWrite (s : State) (pa : Nat) (bs : List Byte) : State :=
  { s with cellar := s.cellar.setBytes pa bs }.clean (wholeLines pa bs.length)

def State.hostWrite (s : State) (a : Nat) (bs : List Byte) : State := { s with host := s.host.setBytes a bs }

/-- Where firmware, a controller or a copy finds the first of `n` bytes at a virtual address, `n` within 4 KiB (07 R153, 02 R28):
in host memory or in the cellar; or the TRANSLATION detail. -/
def State.fwPlace (s : State) (ctx : Nat) (host write : Bool) (va : Nat) : Nat × Nat :=
  match s.walk ctx host va with
  | .fault d => (d, 0)
  | .leaf log pa rd wr =>
    let g := grant log pa rd wr write va
    if g.2 ≠ 0 then (g.2, 0)
    else if host then
      match s.dev.dmaCheck ctx g.1 write with
      | none => (2, 0)
      | some h => (0, h)
    else (0, g.1)

/-- Bytes from `va` on that lie in its 4 KiB page, at most `n`. -/
def pagePart (va n : Nat) : Nat := min n (4096 - va % 4096)

/-- The pages of a read, one after another. -/
def State.fwReadFrom (s : State) (ctx : Nat) (host : Bool) (va n fuel : Nat) : Nat × List Byte :=
  match fuel with
  | 0 => (0, [])
  | fuel + 1 =>
    if n = 0 then (0, [])
    else
      let m := pagePart va n
      let p := s.fwPlace ctx host false va
      if p.1 ≠ 0 then (p.1, [])
      else if !host && s.dev.poisonedRange p.2 m then (5, [])
      else
        let r := s.fwReadFrom ctx host ((va + m) % 2 ^ 48) (n - m) fuel
        (r.1, (if host then s.host.bytes p.2 m else s.cellar.bytes p.2 m) ++ r.2)

/-- A read of `n` bytes at a space-0x4 or 0x8 address for firmware and the controllers, translated in context `ctx`:
the bytes, or the TRANSLATION detail (07 R153, 05 R89). Address bits 59 to 48 are not looked at: DESIGN CHOICE (log 73), the spec does not say. -/
def State.fwRead (s : State) (ctx : Nat) (a : Word) (n : Nat) : Nat × List Byte :=
  let r := s.fwReadFrom ctx (a.toNat / 2 ^ 60 == 8) (a.toNat % 2 ^ 48) n (n / 4096 + 2)
  if r.1 ≠ 0 then (r.1, []) else r

/-- The pages of a write; all are looked at before any is written (log 73). -/
def State.fwPlaces (s : State) (ctx : Nat) (host : Bool) (va n fuel : Nat) : Nat × List (Nat × Nat) :=
  match fuel with
  | 0 => (0, [])
  | fuel + 1 =>
    if n = 0 then (0, [])
    else
      let m := pagePart va n
      let p := s.fwPlace ctx host true va
      if p.1 ≠ 0 then (p.1, [])
      else
        let r := s.fwPlaces ctx host ((va + m) % 2 ^ 48) (n - m) fuel
        (r.1, (p.2, m) :: r.2)

/-- Bytes written to consecutive places. -/
def State.writePlaces (s : State) (host : Bool) (ps : List (Nat × Nat)) (bs : List Byte) : State :=
  match ps with
  | [] => s
  | p :: ps =>
    let s := if host then s.hostWrite p.1 (bs.take p.2) else s.cellarWrite p.1 (bs.take p.2)
    s.writePlaces host ps (bs.drop p.2)

/-- A write for firmware and the controllers; the detail is 0 when it was performed. -/
def State.fwWrite (s : State) (ctx : Nat) (a : Word) (bs : List Byte) : State × Nat :=
  let host := a.toNat / 2 ^ 60 == 8
  let r := s.fwPlaces ctx host (a.toNat % 2 ^ 48) bs.length (bs.length / 4096 + 2)
  if r.1 ≠ 0 then (s, r.1) else (s.writePlaces host r.2 bs, 0)

end Sys2Proof.Machine
end

