-- ==== Sys2Proof/Machine/Fetch.lean ====
section
/-!
DEFINITION. Code lines, the instruction cache and the checks of a fetch (12 R232 to R237, 09 R197 to R199).
-/
namespace Sys2Proof.Machine

/-- Halfword `i` of a line. -/
def halfAt (halves : List (BitVec 16)) (i : Nat) : Nat := (halves.getD i 0).toNat

/-- NH of a line's header (12 R232). -/
def lineNH (halves : List (BitVec 16)) : Nat := halfAt halves 0 / 2048

/-- Tail halfwords of heads 1 to `n` (12 R233). -/
def tailSum (halves : List (BitVec 16)) (n : Nat) : Nat :=
  match n with
  | 0 => 0
  | n + 1 => tailSum halves n + tailLen (halfAt halves (n + 1))

/-- The header check (12 R234, 09 R197): the detail of ILLEGAL_LINE, if it fails. -/
def lineCheck (halves : List (BitVec 16)) : Option Nat :=
  if lineNH halves = 0 then some 1
  else if halfAt halves 0 % 2048 ≠ 0 then some 2
  else if 32 < 1 + lineNH halves + tailSum halves (lineNH halves) then some 3
  else none

/-- The number that `n` halfwords from index `i` on spell, lowest first (12 R233). -/
def tailBits (halves : List (BitVec 16)) (i n : Nat) : Nat :=
  match n with
  | 0 => 0
  | n + 1 => halfAt halves i + 65536 * tailBits halves (i + 1) n

/-- The tail of head `i` (12 R233). -/
def tailOf (halves : List (BitVec 16)) (i : Nat) : Nat :=
  tailBits halves (32 - tailSum halves i) (tailLen (halfAt halves i))

/-- The cached line of a launch at an offset (12 R237). -/
def Tile.cached (t : Tile) (lix line : Nat) : Option ICLine :=
  t.c.icache.find? (fun l => l.lix == lix && l.line == line)

/-- A hit makes its line the most recently used (12 R237). -/
def touchLine (l : ICLine) (ls : List ICLine) : List ICLine :=
  l :: ls.filter (fun x => !(x.lix == l.lix && x.line == l.line))

/-- What entering the line that holds offset `p` gives: a fetch fault, a miss, or the line. -/
inductive LineEntry where
  | fault (code detail : Nat)
  | miss
  | line (l : ICLine)
  deriving DecidableEq, Repr

/-- Entering the line of offset `p` (09 R197): CODE_BOUND, then the cache, then the header check. -/
def Tile.enterLine (t : Tile) (lix : BitVec 4) (p : Word) : LineEntry :=
  if (t.launchOf lix).limit.toNat ≤ (lineOf p).toNat then .fault cCodeBound 0
  else
    match t.cached lix.toNat (lineOf p).toNat with
    | none => .miss
    | some l =>
      match lineCheck l.halves with
      | some d => .fault cIllegalLine d
      | none => .line l

/-- The head-index check of a target (09 R198): the detail of ILLEGAL_TARGET, if it fails. -/
def headCheck (nh : Nat) (p : Word) : Option Nat :=
  if headOf p = 0 then some 1
  else if nh < headOf p then some 2
  else if p.getLsbD 0 then some 3
  else none

/-- What fetching the head at offset `p` gives. -/
inductive Fetched where
  | fault (code detail : Nat)
  | miss
  | head (l : ICLine) (nh head tail : Nat)
  deriving DecidableEq, Repr

/-- The fetch of the head at offset `p`, checks in the order of 09 R182. -/
def Tile.fetch (t : Tile) (lix : BitVec 4) (p : Word) : Fetched :=
  match t.enterLine lix p with
  | .fault c d => .fault c d
  | .miss => .miss
  | .line l =>
    match headCheck (lineNH l.halves) p with
    | some d => .fault cIllegalTarget d
    | none => .head l (lineNH l.halves) (halfAt l.halves (headOf p)) (tailOf l.halves (headOf p))

/-- A fetch that hits: its line becomes the most recently used. -/
def State.touch (s : State) (k : TileId) (l : ICLine) : State :=
  s.setCtx k { (s.tile k).c with icache := touchLine l (s.tile k).c.icache }

/-- A line of a code image is asked for: its read passes the gateway (12 R237, 07 R154). -/
def State.askLine (s : State) (k : TileId) (lix line : Nat) : State := s.askMemory k 1 .icacheFill (.line k lix line)

/-- A miss parks the thread; the first miss on a line asks for the fill (12 R237, R245). -/
def State.missLine (s : State) (line : Nat) : State :=
  let k := s.cur.tile
  let lix := s.me.lix.toNat
  let s' := s.park s.me (.icache line)
  if (s.tile k).c.fills.contains (lix, line) then s'
  else (s'.setCtx k { (s'.tile k).c with fills := (s'.tile k).c.fills ++ [(lix, line)] }).askLine k lix line

/-- next(end) of a skipped or left loop needs the NH of the line of `stop`: that line is entered first (13 R386).
`k` receives next(end). A fetch fault is taken as the instruction retires, with xpc = end and xval the offset of the
instruction; `th` is the thread as it then stands. -/
def State.continueAfter (s : State) (stop : Word) (th : Thread) : Out :=
  match s.here.enterLine th.lix stop with
  | .miss => .next (s.missLine (lineOf stop).toNat)
  | .fault c d => .next ((s.setMe th).trapAt s.cur.tile s.cur.slot stop (causeOf c d false) th.pc)
  | .line l =>
    match headCheck (lineNH l.halves) stop with
    | some d => .next ((s.setMe th).trapAt s.cur.tile s.cur.slot stop (causeOf cIllegalTarget d false) th.pc)
    | none => .next ((s.touch s.cur.tile l).setMe (th.jump (nextOf (lineNH l.halves) stop)))

end Sys2Proof.Machine
end

