-- ==== Sys2Proof/Machine/Access.lean ====
section
/-!
DEFINITION. Memory accesses of threads: addresses and checks (07 R143 to R150, 14 R275), full/empty bits and ports (R156
to R161), posted stores and loads through the gateway (R155), and migration (06 R129 to R132).
-/
namespace Sys2Proof.Machine

/-! ### Pool layout (07 R144, R145) -/

def accUnits (cfg : Word) : Nat := bitsOf cfg 8 6
def scrUnits (cfg : Word) : Nat := 64 - bitsOf cfg 0 6 - bitsOf cfg 8 6 - bitsOf cfg 16 6
/-- Bytes of the scratchpad, and so the offset of the acc region. -/
def scrBytes (cfg : Word) : Nat := scrUnits cfg * 4096

/-- The region of an offset: 0 scratchpad, else the PROTECT detail. -/
def regionOf (cfg : Word) (off : Nat) : Nat :=
  if off < scrBytes cfg then 0
  else if off < (scrUnits cfg + accUnits cfg) * 4096 then 1
  else if off < (64 - bitsOf cfg 0 6) * 4096 then 2
  else 3

/-- The PROTECT detail of a range that leaves the scratchpad, or 0. An empty range lies inside. -/
def rangeRegion (cfg : Word) (lo hi : Nat) : Nat :=
  if hi ≤ lo ∨ hi ≤ scrBytes cfg then 0 else regionOf cfg (max lo (scrBytes cfg))

/-! ### Addresses and the checks at issue (07 R147, R148) -/

def spaceOf (a : Word) : Nat := a.toNat / 2 ^ 60

/-- Where the checks at issue send an access. -/
inductive Place where
  | trap (t : TrapInfo)
  | here (off : Nat)
  | port (t : TileId) (off : Nat)
  | beyond (t : TileId)
  | gateway (host : Bool) (va : Nat)
  deriving DecidableEq, Repr

/-- Plain accesses, synchronising ones, AMOs. -/
inductive Class where
  | plain | sync | amo
  deriving DecidableEq, Repr

def AccKind.cls (k : AccKind) : Class :=
  match k with
  | .load => .plain
  | .store => .plain
  | .amo _ => .amo
  | _ => .sync

/-- An address in space 0x0 that selects the shared registers (07 R147). -/
def isShared (a : Word) : Bool := spaceOf a == 0 && a.getLsbD 18

/-- Bits of a space's layout that name something (07 R147). -/
def namedBits (sp : Nat) (shared : Bool) : Nat :=
  match sp with
  | 0 => if shared then 2 ^ 18 + 63 else 2 ^ 18 - 1
  | 1 => 2 ^ 23 - 1
  | 2 => 2 ^ 36 - 1
  | _ => 2 ^ 48 - 1

/-- Bits that the layout does not name are zero. -/
def bitsNamed (a : Word) : Bool :=
  spaceOf a == 0xF || (a.toNat % 2 ^ 60) &&& namedBits (spaceOf a) (isShared a) == a.toNat % 2 ^ 60

def spaceKnown (sp : Nat) : Bool := [0, 1, 2, 4, 8, 9, 0xF].contains sp

/-- A tile lies in the partition of tile `k` (06 R148 step 6). -/
def State.inPartition (s : State) (k t : TileId) : Bool :=
  (s.tile k).r.ctx != 0 && (s.tile t).r.ctx == (s.tile k).r.ctx

/-- The tile a slot of space 0x1 or an LTN of space 0x2 names, seen from tile `k`. -/
def namedTile (k : TileId) (a : Word) : TileId :=
  if spaceOf a = 1 then clusterOf k * 32 + bitsOf a 18 5 else shadowBase k + bitsOf a 18 18

/-- Checks 1 to 5 of 07 R148: the trap, if one fails. -/
def earlyCheck (c : Class) (size : Nat) (fest : Bool) (a : Word) : Option TrapInfo :=
  let sp := spaceOf a
  if !spaceKnown sp then some { code := cAddressSpace, detail := 0, val := a }
  else if !bitsNamed a then some { code := cAddressSpace, detail := 1, val := a }
  else if a.toNat % size ≠ 0 ∨ (isShared a ∧ size ≠ 8 ∧ !fest ∧ c ≠ .amo) then
    some { code := cAlign, detail := size, val := a }
  else if sp = 9 ∨ (c ≠ .plain ∧ 3 < sp) then some { code := cAddressSpace, detail := 3, val := a }
  else if c = .amo ∧ isShared a then some { code := cAddressSpace, detail := 4, val := a }
  else if sp = 0xF then some { code := cPriv, detail := 0, val := a }
  else none

/-- Checks 1 to 7 of 07 R148 for an access of `size` bytes by a thread on tile `k`. -/
def State.place (s : State) (k : TileId) (c : Class) (size : Nat) (fest : Bool) (a : Word) : Place :=
  let sp := spaceOf a
  match earlyCheck c size fest a with
  | some t => .trap t
  | none =>
    if sp = 4 ∨ sp = 8 then .gateway (sp == 8) (bitsOf a 0 48)
    else if sp = 0 ∧ a.getLsbD 18 then .here (bitsOf a 0 19)
    else
      let t := if sp = 0 then k else namedTile k a
      let off := bitsOf a 0 18
      if sp ≠ 0 ∧ !s.inPartition k t then .trap { code := cAddressSpace, detail := 2, val := a }
      else if regionOf (s.tile k).c.poolcfg off ≠ 0 then
        .trap { code := cProtect, detail := regionOf (s.tile k).c.poolcfg off, val := a }
      else if t = k then .here off
      else if clusterOf t = clusterOf k then .port t off
      else .beyond t

/-! ### The pool: full/empty bits, dirty lines, locks -/

/-- The number of a shared register's doubleword. -/
def sharedDw (n : Nat) : Nat := 32768 + n

/-- FE(a) of a doubleword, shared registers included (07 R156). -/
def TileCtx.isFull (c : TileCtx) (dw : Nat) : Bool :=
  if dw < 32768 then !c.emptyDw.contains dw else !c.hEmpty.getLsbD (dw - 32768)

def TileCtx.setFull (c : TileCtx) (dw : Nat) (full : Bool) : TileCtx :=
  if dw < 32768 then
    { c with emptyDw := if full then setDel c.emptyDw dw else setAdd c.emptyDw dw, dirty := setAdd c.dirty (dw / 8)
             stored := setAdd c.stored (dw / 8) }
  else
    { c with hEmpty := if full then c.hEmpty &&& ~~~(1#8 <<< (dw - 32768)) else c.hEmpty ||| (1#8 <<< (dw - 32768)) }

/-- FE bits of the line of a doubleword, bit i for its doubleword i (07 R158). -/
def TileCtx.lineFull (c : TileCtx) (dw : Nat) : Word :=
  BitVec.ofNat 64 (((List.range 8).map (fun i => if c.isFull (dw / 8 * 8 + i) then 2 ^ i else 0)).sum)

/-- Lines from the one of `lo` to the one of the last of `n` bytes. -/
def linesOf (lo n : Nat) : List Nat :=
  if n = 0 then [] else (List.range ((lo + n - 1) / 64 - lo / 64 + 1)).map (fun i => lo / 64 + i)

/-- The capture buffer takes the old content of a line that is still to be shipped (05 R94). -/
def Ship.latch (sh : Ship) (line : Nat) : Ship :=
  match sh.lines.find? (fun l => l.line == line) with
  | none => sh
  | some l => { sh with lines := sh.lines.filter (fun x => x.line != line), latched := sh.latched ++ [l] }

/-- A store to `line` would need a ninth entry of the capture buffer (05 R94). -/
def Router.captureFull (r : Router) (line : Nat) : Bool :=
  match r.ship with
  | none => false
  | some sh => 8 ≤ sh.latched.length && sh.lines.any (fun l => l.line == line)

/-- A note that tile `k` is to find again in replay at this cycle for slot `j` (log 25). -/
def Router.noted (r : Router) (ev : Instr) (j : Nat) : Bool :=
  r.script.any (fun x => x.kind == 0 && x.cyc == r.cyc && x.ev == ev && x.slot == j)

/-- A store of the acting thread finds the capture buffer full; replay, which ships anew, finds it as the first run did. -/
def State.captureBusy (s : State) (line : Nat) : Bool :=
  let r := s.here.r
  if r.replay then r.noted .captureEntryFree s.cur.slot.val else r.captureFull line

/-- Lines that are to be written are latched as far as the capture buffer takes them: all of them, or not yet (05 R94). -/
def State.latchLines (s : State) (k : TileId) (ls : List Nat) : State × Bool :=
  let r := (s.tile k).r
  match r.ship with
  | none => (s, true)
  | some sh =>
    let due := ls.filter (fun l => sh.lines.any (fun x => x.line == l))
    if r.quiet then (s, true)
    else (s.setRouter k { r with ship := some ((due.take (8 - sh.latched.length)).foldl Ship.latch sh) },
      decide (sh.latched.length + due.length ≤ 8))

/-- The acting thread's lines are latched; replay finds what the first run did (log 25). -/
def State.latchMine (s : State) (ls : List Nat) : State × Bool :=
  if s.here.r.replay then (s, !s.here.r.noted .captureEntryFree s.cur.slot.val) else s.latchLines s.cur.tile ls

/-- Bytes written into a tile's pool: their lines become dirty, and lines still to be shipped are latched first. -/
def State.poolWrite (s : State) (k : TileId) (off : Nat) (bs : List Byte) : State :=
  let t := s.tile k
  let ls := linesOf off bs.length
  s.setTile k
    { c := { t.c with pool := t.c.pool.setBytes off bs, dirty := ls.foldl setAdd t.c.dirty }
      r := { t.r with ship := t.r.ship.map (fun sh => ls.foldl Ship.latch sh) } }

/-- Bytes of a pool brought up to date: lines that do not change are not written. -/
def State.poolUpdate (s : State) (k : TileId) (off : Nat) (bs : List Byte) (n : Nat) : State :=
  match n with
  | 0 => s
  | n + 1 =>
    let s := if (s.tile k).c.pool.bytes off (bs.take 64).length = bs.take 64 then s else s.poolWrite k off (bs.take 64)
    s.poolUpdate k (off + 64) (bs.drop 64) n

/-- A store of a thread: its lines are mirrored from the next boundary on, in a reloadable extent too (05 R97). -/
def State.threadWrite (s : State) (k : TileId) (off : Nat) (bs : List Byte) : State :=
  let s := s.poolWrite k off bs
  s.setCtx k { (s.tile k).c with stored := (linesOf off bs.length).foldl setAdd (s.tile k).c.stored }

/-- A change of an FE bit; the doubleword's waiters are looked at in the next cycle (07 R159). `other` says that an access of
another tile changed it. -/
def State.setFe (s : State) (k : TileId) (dw : Nat) (full other : Bool) : State :=
  let c := (s.tile k).c
  if c.isFull dw = full then s
  else (s.setCtx k (c.setFull dw full)).after 1 .feWake (.dword k dw other)

/-- A thread access to [lo, hi) in tile cycle `cyc` meets an entry of the range-lock table (07 R164, R167). -/
def TileCtx.lockHit (c : TileCtx) (cyc lo hi : Nat) : Bool :=
  c.locks.any (fun l => decide (l.since < cyc) && decide (l.range.lo < hi) && decide (lo < l.range.hi))

/-- lock_check's trap on tile `k`; which of the entries it names is open (log 10). -/
def State.lockTrap (s : State) (k : TileId) (a : Word) : TrapInfo :=
  { code := cRangeLocked, detail := Config.lockIndex (s.drawAt k) % 32, val := a }

/-! ### Performing an access at a port (07 R158, R159, R161) -/

/-- f(old, b) of an AMO of `n` bits (14 R280); `none` for no write. -/
def amoNew (op : Fin 10) (n : Nat) (old b c : BitVec n) : Option (BitVec n) :=
  match op with
  | 0 => some (intAdd n old b)
  | 1 => some (intAnd n old b)
  | 2 => some (intOr n old b)
  | 3 => some (intXor n old b)
  | 4 => some (intMin n old b)
  | 5 => some (intMax n old b)
  | 6 => some (intMinu n old b)
  | 7 => some (intMaxu n old b)
  | 8 => some b
  | 9 => if old = c then some b else none

/-- A loaded value, extended to 64 bits. -/
def extended (signed : Bool) (size v : Nat) : Word :=
  if signed then sextLow (BitVec.ofNat 64 v) (8 * size) else BitVec.ofNat 64 v

/-- What a port answers at once, or that the access waits, or that the capture buffer is full. -/
inductive Ported where
  | reply (r : Reply)
  | wait
  | busy
  deriving DecidableEq, Repr

/-- The wait condition of a synchronising access (07 R158). -/
def AccKind.ready (k : AccKind) (full : Bool) : Bool :=
  match k with
  | .ldc => full
  | .ldf => full
  | .stp => !full
  | _ => true

def AccKind.writes (k : AccKind) : Bool :=
  match k with
  | .store => true
  | .stp => true
  | .stf => true
  | .amo _ => true
  | _ => false

/-- The AMO at a pool offset: old value extended, and the state after. -/
def State.amoAt (s : State) (k : TileId) (off : Nat) (op : Fin 10) (a : Access) : State × Word :=
  let old := (s.tile k).c.pool.read off a.size
  let new : Option Nat := if a.size = 4
    then (amoNew op 32 (BitVec.ofNat 32 old) (a.data.setWidth 32) (a.cmp.setWidth 32)).map BitVec.toNat
    else (amoNew op 64 (BitVec.ofNat 64 old) a.data a.cmp).map BitVec.toNat
  (match new with | some v => s.threadWrite k off (leBytes a.size v) | none => s, extended true a.size old)

/-- The access performed at pool offset `off` of tile `k`, check 9 first (07 R148, R149, R159, R161). `busy` says that the capture
buffer cannot take the line, `other` that the access comes from another tile. -/
def State.portPerform (s : State) (k : TileId) (off : Nat) (a : Access) (busy other : Bool) : State × Ported :=
  let c := (s.tile k).c
  let dw := off / 8
  if c.lockHit (s.tile k).r.cyc off (off + a.size) then (s.drawn k, .reply (.trap (s.lockTrap k a.addr)))
  else if !a.kind.ready (c.isFull dw) then (s, .wait)
  else if a.kind.writes && busy then (s, .busy)
  else
    match a.kind with
    | .load => (s, .reply (.value (extended a.signed a.size (c.pool.read off a.size))))
    | .store => (s.threadWrite k off (leBytes a.size a.data.toNat), .reply .ack)
    | .ldc => (s.setFe k dw false other, .reply (.value (BitVec.ofNat 64 (c.pool.read off 8))))
    | .ldf => (s, .reply (.value (BitVec.ofNat 64 (c.pool.read off 8))))
    | .stp => ((s.threadWrite k off (leBytes 8 a.data.toNat)).setFe k dw true other, .reply .ack)
    | .stf => ((s.threadWrite k off (leBytes 8 a.data.toNat)).setFe k dw true other, .reply .ack)
    | .femt => (s.setFe k dw false other, .reply .ack)
    | .fest => (s, .reply (.value (c.lineFull dw)))
    | .amo op => ((s.amoAt k off op a).1, .reply (.value (s.amoAt k off op a).2))

/-! ### Waking a parked thread -/

/-- A thread that was parked before any effect issues its instruction again (06 R122). -/
def State.unpark (s : State) (k : TileId) (j : Fin 16) : State := s.setThr k j { s.thr k j with park := none }

/-- What comes back to the parked thread `th`. -/
def Thread.receive (th : Thread) (p : Park) (v : Word) : Thread :=
  match p.why with
  | .reply rd => (th.setReg rd v).retire p.nh
  | .fe rd => (th.setReg rd v).retire p.nh
  | .group rd kind g =>
    { (th.setReg rd v).retire p.nh with
      groups := if v ≠ 0 then th.groups
                else if kind = 0 ∧ !th.groups.any (fun m => m.group == g) then th.groups ++ [{ group := g, reds := 0, due := [] }]
                else if kind = 1 then th.groups.filter (fun m => m.group != g) else th.groups }
  | .qpost rd => (th.setReg rd v).retire p.nh
  | .op _ rd => { (th.setReg rd v).retire p.nh with pix := 0 }
  | .red rd g =>
    { (th.setReg rd v).retire p.nh with
      groups := th.groups.map (fun m => if m.group = g then { m with reds := m.reds + 1, due := m.due ++ [m.reds] } else m) }
  | .colwait rd => (th.setReg rd v).retire p.nh
  | .bwait rd => (th.setReg rd v).retire p.nh
  | .bclose rd => (th.setReg rd v).retire p.nh
  | .ckpt rd => (th.setReg rd v).retire p.nh
  | _ => th.retire p.nh

/-- The instruction a thread parked for completes without a value. -/
def Thread.finish (th : Thread) (p : Park) : Thread :=
  match p.why with
  | .op _ _ => { th.retire p.nh with pix := 0 }
  | .bsend => { th.retire p.nh with pix := 0 }
  | _ => th.retire p.nh

/-- A reply reaches the thread that parked for it; a wake of a thread that is not parked for it is discarded (06 R122). A trap is entered
at once; the fault of a long instruction is held for the thread's next turn (09 R201, 16 R325). -/
def State.deliver (s : State) (r : Ref) (v : Reply) : State :=
  match s.slotOf r with
  | none => s
  | some j =>
    let th := s.thr r.tile j
    match th.park with
    | none => s
    | some p =>
      match v with
      | .value w => s.setThr r.tile j (th.receive p w)
      | .ack => s.setThr r.tile j (th.finish p)
      | .pred q b => s.setThr r.tile j ((th.setPred q b).finish p)
      | .fault t n => s.setThr r.tile j { th with pix := BitVec.ofNat 20 n, park := none, fault := some t }
      | .trap t => s.trapAt r.tile j th.pc (causeOf t.code t.detail false) t.val

/-- Log record kinds (05 R101). -/
def kMsg : Nat := 0x01
def kAccept : Nat := 0x02
def kBounce : Nat := 0x03
def kMigrant : Nat := 0x04
def kMigback : Nat := 0x05
def kRstore : Nat := 0x06
def kAmo : Nat := 0x07
def kRfill : Nat := 0x08
def kLreply : Nat := 0x09
def kCwrite : Nat := 0x0A
def kCwref : Nat := 0x0B
def kChunk : Nat := 0x0C
def kSpan : Nat := 0x0D
def kEcomp : Nat := 0x0E
def kWake : Nat := 0x0F
def kDepart : Nat := 0x10
def kRedres : Nat := 0x11
def kMerge : Nat := 0x12
def kMask : Nat := 0x13
def kPreempt : Nat := 0x14
def kTime : Nat := 0x15
def kRestart : Nat := 0x16
def kPopulate : Nat := 0x17

/-- A record of what follows from the checkpoint and other records, and happens in replay by itself (05 R101, log 25). -/
def State.mark (s : State) (k : TileId) (kind slot len : Nat) (val : Word) : State := s.log k kind slot len .nop .none val

/-- The log area of tile `k` has no record for what arises there (05 R102); replay finds it as the first run did. -/
def State.recordless (s : State) (k : TileId) (j : Nat) : Bool :=
  let r := (s.tile k).r
  if r.replay then r.noted .logAreaFull j else r.logFull

/-- What arises at slot `j` of tile `k` waits for a record (05 R102). -/
def State.noteFull (s : State) (k : TileId) (j : Nat) : State := s.logRec k 0 j 0 false .logAreaFull .none 0

/-- Slots of tile `k` whose thread is parked for a reason that `f` accepts wake and issue again, marked under `kind` (05 R101); 0 for
no record. A wake for which there is no record is tried again in the next cycle (R102). -/
def State.wakeAll (s : State) (k : TileId) (kind : Nat) (f : Thread → ParkWhy → Bool) : State :=
  (List.finRange 16).foldl (fun s j =>
    match (s.tile k).slot j with
    | some th =>
      match th.park with
      | some p =>
        if !f th p.why then s
        else if kind = 0 then s.unpark k j
        else if s.recordless k j.val then (s.noteFull k j.val).after 1 .engineOpStart (.tile k)
        else (s.unpark k j).mark k kind j.val 0 0
      | none => s
    | none => s) s

/-- The same for wakes that come from outside the tile: each is a record that replay delivers. -/
def State.wakeOuter (s : State) (k : TileId) (f : Thread → ParkWhy → Bool) : State :=
  (List.finRange 16).foldl (fun s j =>
    match (s.tile k).slot j with
    | some th =>
      match th.park with
      | some p =>
        if !f th p.why || (s.tile k).r.replay then s
        else if (s.tile k).r.logFull then s.after 1 .captureEntryFree (.tile k)
        else (s.log k kWake j.val 0 .captureEntryFree (.ref { tile := k, tok := p.tok }) 0).unpark k j
      | none => s
    | none => s) s

/-! ### Posted stores and releases (07 R155, 08 R170) -/

/-- The thread has posted stores on tile `k` that are not performed. -/
def State.storesPending (s : State) (k : TileId) (th : Thread) : Bool := (s.tile k).c.outq.any (fun p => p.of th)

/-- An implicit release: the thread parks until its posted stores are performed (08 R170). -/
def State.release (s : State) (th : Thread) (go : Out) : Out :=
  if s.storesPending s.cur.tile th then .next (s.park th .stores) else go

/-- Bytes a store folds into the signature of a paired launch (03 R64). -/
def storeBytes (a : Word) (size : Nat) (v : Word) : List Byte :=
  leBytes 8 a.toNat ++ leBytes 8 (v.toNat % 2 ^ (8 * size)) ++ leBytes 1 size

/-- Bytes folded into a thread's chain (03 R64). -/
def Thread.fold (th : Thread) (bs : List Byte) : Thread :=
  { th with sig := fold64 th.sig bs, sigLen := th.sigLen + bs.length }

/-- The thread folds a store into its chain when its launch is paired. -/
def Tile.foldStore (t : Tile) (th : Thread) (a : Word) (size : Nat) (v : Word) : Thread :=
  if (t.launchOf th.lix).paired then th.fold (storeBytes a size v) else th

/-- A store passes the gateway: translated, and written through to the read cache (07 R152, R154). -/
def State.passGateway (s : State) (k : TileId) (p : Posted) : State × Posted :=
  let cl := clusterOf k
  let tr := s.translate cl (s.tile k).r.ctx p.host true (bitsOf p.addr 0 48)
  let p := { p with pa := tr.2.1, fault := tr.2.2 }
  (if p.host || p.fault != 0 then tr.1 else tr.1.setCluster cl ((tr.1.cluster cl).updateLine p.pa (leBytes p.size p.data.toNat)), p)

/-- A store of tile `k` waits for the walker; later ones of the tile go behind it (07 R155, 04 R76). -/
def State.storeWalks (s : State) (k : TileId) : Bool :=
  s.agenda.any (fun x => x.ev == .translationWalk && (match x.arg with | .stored t _ => t == k | _ => false))

/-- A packet leaves for its end. What goes to memory passes the gateway: a translation that is not cached is a matter for the walker, and
behind a store that waits for it the later ones of the tile wait too (07 R152, R155). -/
def State.launchPacket (s : State) (p : Packet) : State :=
  let cl := clusterOf p.src
  let far (s : State) (dst : Nat) (arg : Payload) : State := (s.sendOn p.src dst p.cls (p.lat + Config.memLatency s.free) p.ev arg).draw
  let cached (ctx : Nat) (host : Bool) (a : Nat) : Bool := ((s.cluster cl).cachedTrans ctx host a).isSome
  match p.ev, p.arg with
  | .postedStorePerform, .stored k q =>
    if s.storeWalks k || !cached (s.tile k).r.ctx q.host (bitsOf q.addr 0 48) then s.walkNext cl p.arg
    else
      let g := s.passGateway k q
      far g.1 (memoryPort + 2 ^ 10 + g.2.pa / 64) (.stored k g.2)
  | .loadReply, .gate _ g => if cached g.ctx g.host g.va then far s p.dst p.arg else s.walkNext cl p.arg
  | .icacheFill, .line k lix line =>
    let a := ((s.tile k).launchOf (BitVec.ofNat 4 lix)).code + BitVec.ofNat 64 line
    if cached (s.tile k).r.ctx false (bitsOf a 0 48) then far s p.dst p.arg else s.walkNext cl p.arg
  | _, _ => if p.slow then far s p.dst p.arg else s.sendOn p.src p.dst p.cls p.lat p.ev p.arg

/-- The port of tile `k` injects what it has buffered, and its router counts it. In replay the first injections are those already
made, and are discarded; mirror shipping is done anew (05 R106). -/
def State.flush (s : State) (k : TileId) : State :=
  let ps := (s.tile k).r.out
  if ps.isEmpty then s
  else
    let s := s.setRouter k { (s.tile k).r with out := [] }
    ps.foldl (fun s p =>
      let r := (s.tile k).r
      if p.cls = 5 then (if r.trial.isSome then s else s.launchPacket p)
      else
        let s := s.setRouter k { r with sent := r.sent ++ [p], skip := r.skip - 1 }
        if r.replay && (decide (0 < r.skip) || r.trial.isSome) then s else s.launchPacket p) s

/-- A store of tile `k` enters the outbound queue and leaves for its gateway, which performs it later, in program order for its
line; a miss goes by the walker (07 R152, R155). -/
def State.post (s : State) (k : TileId) (th : Thread) (host : Bool) (a : Word) (size : Nat) (v : Word) : State :=
  if isShadow k then s
  else
    let c := (s.tile k).c
    let p : Posted := { id := c.tok, launch := th.launch, tid := th.tid, addr := a, host := host, pa := 0, fault := 0, size := size
                        data := BitVec.ofNat 64 (v.toNat % 2 ^ (8 * size)), issued := (s.tile k).r.cyc }
    let s := s.setCtx k { c with outq := c.outq ++ [p], tok := c.tok + 1 }
    s.inject k { src := k, dst := memoryPort, cls := 3, lat := 1, slow := true, ev := .postedStorePerform, arg := .stored k p }

/-- A posted store of the acting thread: the queue holds 16 entries (07 R155, 14 R278). -/
def State.postStore (s : State) (th : Thread) (host : Bool) (a : Word) (size : Nat) (v : Word) : Out :=
  if 16 ≤ s.here.c.outq.length then .next (s.park th .outQueue)
  else
    let th' := s.here.foldStore th a size v
    let th' := if host || isShadow s.cur.tile then th' else { th' with wrote := true }
    (s.post s.cur.tile th host a size v).done th'

/-! ### Reads through the gateway (07 R151 to R155) -/

/-- The acting thread parks for a load through the gateway. -/
def State.gateLoad (s : State) (th : Thread) (host : Bool) (a : Access) : Out :=
  let r := s.nextRef
  .next ((s.park th (.reply a.rd)).ask r
    { ctx := s.here.r.ctx, host := host, va := bitsOf a.addr 0 48, addr := a.addr, size := a.size, signed := a.signed
      toReg := true, cached := !host, fault := 0 })

/-- The acting thread parks for bytes its instruction needs; their doublewords go into the read buffer (09 R192, 15
R313). -/
def State.readFor (s : State) (th : Thread) (a : Word) (size : Nat) (cached : Bool) : Out :=
  let r := s.nextRef
  .next ((s.park th .read).ask r
    { ctx := s.here.r.ctx, host := false, va := bitsOf a 0 48, addr := a, size := size, signed := false
      toReg := false, cached := cached, fault := 0 })

/-- A doubleword already read by the instruction. -/
def Thread.readBuf (th : Thread) (a : Word) : Option Word :=
  (th.rbuf.find? (fun x => x.1 == a.toNat)).map Prod.snd

/-! ### Migration (06 R129, R130, 09 R192) -/

/-- The state of a liveness search: an entry it must read, or the covering entry's mask, if any. -/
inductive Search where
  | need (a : Word)
  | found (mask : Option (BitVec 32))
  deriving DecidableEq, Repr

/-- The binary search of 09 R192 for halfword offset `h` of the launch's liveness table. -/
def Thread.search (th : Thread) (base : Word) (h lo hi : Nat) (e : Option (BitVec 32)) (fuel : Nat) : Search :=
  match fuel with
  | 0 => .found e
  | fuel + 1 =>
    if hi ≤ lo then .found e
    else
      let mid := (lo + hi) / 2
      let a := base + BitVec.ofNat 64 (8 * mid)
      match th.readBuf a with
      | none => .need a
      | some w =>
        if bitsOf w 0 32 ≤ h then th.search base h (mid + 1) hi (some (BitVec.ofNat 32 (bitsOf w 32 32))) fuel
        else th.search base h lo mid e fuel

/-- Set bits of a register mask, g0 ignored. -/
def maskCount (m : BitVec 32) : Nat := ((List.finRange 31).filter (fun i => m.getLsbD (i.val + 1))).length

def regsMask (rs : List Reg) : BitVec 32 := rs.foldl (fun m r => m ||| regBit r) 0

/-- The thread as it arrives elsewhere (06 R130, 07 R160, 14 R286, 17 R361): registers that are not live are 0 and full,
the stack registers stay at home, limits and blim take their defaults. The trap banks do not travel. -/
def Thread.travel (th : Thread) (live : BitVec 32) : Thread :=
  { Thread.reset with
    pc := th.pc, via := th.via
    regs := Vector.ofFn (fun i : Fin 32 => if live.getLsbD i.val && i.val != 0 then th.regs[i] else 0)
    pw := th.pw, loops := th.loops, home := th.home, hslot := th.hslot, lix := th.lix, launch := th.launch
    pix := th.pix, vlen := th.vlen, frm := th.frm, fflags := th.fflags, held := th.held, pkslot := th.pkslot
    sig := th.sig, sigLen := th.sigLen, copies := th.copies, xvec := th.xvec, wrote := th.wrote, groups := th.groups, carried := live }

/-- Flits of a migrant: a header and 1,280 bits (04 R68, 06 R130). -/
def migrantFlits : Nat := 6

/-- The migrant leaves tile `k` for tile `t` (06 R130). -/
def State.sendMigrant (s : State) (k : TileId) (j : Fin 16) (th : Thread) (live : BitVec 32) (t : TileId) (va : Word) : State :=
  let s := s.setTile k ((s.tile k).setSlot j none)
  let s := if th.atHome k then
      let v : Resv := { away := t, splim := th.splim, spov := th.spov, spovlim := th.spovlim, bounces := 0
                        launch := th.launch, transit := true, fills := [], waiting := none }
      s.setCtx k { (s.tile k).c with resv := (s.tile k).c.resv.set th.hslot.toNat v }
    else s
  let s := s.refill k 16
  s.packet k t 2 migrantFlits .migrantArrival (.migrant t k (th.travel live) va)

/-- A migrating access, MIG, or a move home: the acting thread goes to tile `t`, where it issues its instruction again
(06 R129, R130, log 11). `rs` are the registers the instruction reads and writes. -/
def State.migrate (s : State) (th : Thread) (rs : List Reg) (t : TileId) (va : Word) : Out :=
  if th.xlvl ≠ 0 then s.trap cMigrateOverweight 0xFF va
  else
    let e := s.here.launchOf th.lix
    match th.search e.live (th.pc.toNat / 2) 0 e.nlive.toNat none 33 with
    | .need a => s.readFor th a 8 true
    | .found m =>
      let live := match m with
        | some m => m ||| regsMask rs
        | none => BitVec.allOnes 32
      if 10 < maskCount live then s.trap cMigrateOverweight (maskCount live) va
      else if s.storesPending s.cur.tile th then .next (s.park th .stores)
      else if live &&& ~~~(th.full ||| 1) ≠ 0 then .next (s.park th (.empty (live &&& ~~~(th.full ||| 1))))
      else .next (s.sendMigrant s.cur.tile s.cur.slot th live t va)

/-- An instruction that executes at home only: away from home, the thread first moves there (06 R125). -/
def State.atHome (s : State) (th : Thread) (rs : List Reg) (go : Out) : Out :=
  if th.atHome s.cur.tile then go
  else s.migrate th rs (shadowBase s.cur.tile + th.home.toNat)
    (0x2000000000000000 ||| (th.home.setWidth 64) <<< 18)

/-! ### Accesses of the acting thread -/

/-- What the acting thread parks for when an access does not complete in its turn. -/
def Access.why (a : Access) : ParkWhy := if a.kind.cls = .sync then .fe a.rd else .reply a.rd

/-- The limit of a waiting access (07 R160), counted in the cycles of its thread's tile. -/
def State.armTimeout (s : State) (r : Ref) (a : Access) : State :=
  if a.kind.cls = .sync then s.after a.timeo .feTimeout (.ref r) else s

/-- An access of the acting thread to a shared register (06 R124): ordinary loads at once, stores and synchronising
accesses eight cycles later. -/
def State.sharedAccess (s : State) (th : Thread) (n : Fin 8) (a : Access) : Out :=
  let k := s.cur.tile
  match a.kind with
  | .load => s.done (th.setReg a.rd s.here.c.h[n])
  | .store => (s.setCtx k { s.here.c with hOps := s.here.c.hOps ++ [.store n a.data s.here.r.cyc] }).done th
  | _ =>
    let r := s.nextRef
    let s' := s.park th (.fe a.rd)
    .next ((s'.setCtx k { (s'.tile k).c with hOps := (s'.tile k).c.hOps ++ [.sync a r.tok s.here.r.cyc] }).armTimeout r a)

/-- A waiter joins the list of a port, which holds 32 (07 R159); a refused access goes back in C1, and
its tile presents it again after 64 cycles. -/
def State.joinWaiters (s : State) (k : TileId) (off : Nat) (a : Access) (src : Ref) (fails issued : Nat) : State :=
  let c := (s.tile k).c
  if (c.waiters.filter (fun w => w.dw < 32768)).length < 32 then
    s.setCtx k { c with waiters := c.waiters ++ [{ dw := off / 8, acc := a, src := src, fails := fails, issued := issued, since := (s.tile k).r.cyc }] }
  else
    let t : Reply := .trap { code := cFeTimeout, detail := 1, val := a.addr }
    if src.tile = k then
      if a.retry ≤ fails + 1 then s.after 1 .feTimeout (.reply src t) else s.after 64 .feRefusalRepresent (.port k off a src (fails + 1) issued)
    else if a.retry ≤ fails + 1 then s.packet k src.tile 1 1 .accessReply (.reply src t)
    else s.packet k src.tile 1 1 .accessReply (.port k off a src (fails + 1) issued)

/-- The acting thread parks with reason capture (05 R94). -/
def State.parkCapture (s : State) (th : Thread) : State :=
  (s.logRec s.cur.tile 0 s.cur.slot.val 0 false .captureEntryFree .none 0).park th .capture

/-- A local access of the acting thread (14 R277 to R280). -/
def State.localAccess (s : State) (th : Thread) (off : Nat) (a : Access) : Out :=
  let k := s.cur.tile
  if 0x40000 ≤ off then s.sharedAccess th (Fin.ofNat 8 (off / 8)) a
  else
    match s.portPerform k off a (s.captureBusy (off / 64)) false with
    | (s', .reply (.value v)) => s'.done (th.setReg a.rd v)
    | (s', .reply .ack) => s'.done th
    | (s', .reply (.trap t)) => s'.trap t.code t.detail t.val
    | (_, .reply _) => s.done th
    | (_, .wait) =>
      let r := s.nextRef
      .next (((s.park th a.why).joinWaiters k off a r 0 s.here.r.cyc).armTimeout r a)
    | (_, .busy) => .next (s.parkCapture th)

/-- A request through the cluster switch (07 R149). -/
def State.portAccess (s : State) (th : Thread) (t : TileId) (off : Nat) (a : Access) : Out :=
  let r := s.nextRef
  .next (((s.park th a.why).packet s.cur.tile t 3 2 .remoteAccess (.port t off a r 0 s.here.r.cyc)).armTimeout r a)

/-- A load, store, synchronising access or AMO of the acting thread, whose registers are read (07 R148 to R155). `rs`
are the registers it reads and writes. -/
def State.access (s : State) (th : Thread) (rs : List Reg) (a : Access) : Out :=
  match s.place s.cur.tile a.kind.cls a.size (a.kind == .fest) a.addr with
  | .trap t => s.trap t.code t.detail t.val
  | .here off => if a.rl then s.release th (s.localAccess th off a) else s.localAccess th off a
  | .port t off => if a.rl then s.release th (s.portAccess th t off a) else s.portAccess th t off a
  | .beyond t => s.migrate th rs t a.addr
  | .gateway host _ =>
    match a.kind with
    | .store => s.postStore th host a.addr a.size a.data
    | _ => s.gateLoad th host a

end Sys2Proof.Machine
end

