-- ==== Sys2Proof/Machine/Loads.lean ====
section
/-!
DEFINITION. Loads, stores, synchronising accesses, AMOs, fences, DRAIN, register full/empty, the stack, and the ends of
a thread (13 R262, R267, R268, R272; 14 R275 to R284).
-/
namespace Sys2Proof.Machine

/-- The address of the TI form, with the shared-register window at A = 0 and I from −64 to −1 (14 R275). -/
def addrTI (th : Thread) (ra : Reg) (imm : BitVec 11) : Word :=
  if ra = 0 ∧ -64 ≤ imm.toInt ∧ imm.toInt < 0 then 0x40040 + imm11 imm else th.reg ra + imm11 imm

/-- The address of the TD form; B = g0 gives no index (14 R275). -/
def addrTD (th : Thread) (ra rb : Reg) (log : Nat) (imm : BitVec 16) : Word :=
  th.reg ra + (th.reg rb <<< log) + imm16 imm

/-- An access of `2 ^ log` bytes at `a`, with the thread's limits (07 R160). -/
def Thread.acc (th : Thread) (kind : AccKind) (log : Nat) (signed : Bool) (rd : Reg) (a data cmp : Word) (rl : Bool) : Access :=
  { kind := kind, size := 2 ^ log, signed := signed, rd := rd, addr := a, data := data, cmp := cmp, rl := rl
    timeo := th.fetimeo.toNat, retry := th.feretry.toNat }

/-! ### Loads and stores (14 R277, R278) -/

def State.loadTI (s : State) (log : Nat) (signed : Bool) (rd ra : Reg) (imm : BitVec 11) : Out :=
  s.withRegs [ra] fun th => s.access th [rd, ra] (th.acc .load log signed rd (addrTI th ra imm) 0 0 false)

def State.loadTD (s : State) (log : Nat) (signed : Bool) (rd ra rb : Reg) (imm : BitVec 16) : Out :=
  s.withRegs [ra, rb] fun th => s.access th [rd, ra, rb] (th.acc .load log signed rd (addrTD th ra rb log imm) 0 0 false)

def State.storeTI (s : State) (log : Nat) (rs ra : Reg) (imm : BitVec 11) : Out :=
  s.withRegs [rs, ra] fun th => s.access th [rs, ra] (th.acc .store log false 0 (addrTI th ra imm) (th.reg rs) 0 false)

def State.storeTD (s : State) (log : Nat) (rs ra rb : Reg) (imm : BitVec 16) : Out :=
  s.withRegs [rs, ra, rb] fun th =>
    s.access th [rs, ra, rb] (th.acc .store log false 0 (addrTD th ra rb log imm) (th.reg rs) 0 false)

/-- LD.B, TI form (14 R277). -/
def execLdBTi (rd ra : Reg) (imm : BitVec 11) (s : State) : Out := s.loadTI 0 true rd ra imm

/-- LD.B, TD form (14 R277). -/
def execLdBTd (rd ra rb : Reg) (imm : BitVec 16) (s : State) : Out := s.loadTD 0 true rd ra rb imm

/-- LD.BU, TI form (14 R277). -/
def execLdBuTi (rd ra : Reg) (imm : BitVec 11) (s : State) : Out := s.loadTI 0 false rd ra imm

/-- LD.BU, TD form (14 R277). -/
def execLdBuTd (rd ra rb : Reg) (imm : BitVec 16) (s : State) : Out := s.loadTD 0 false rd ra rb imm

/-- LD.H, TI form (14 R277). -/
def execLdHTi (rd ra : Reg) (imm : BitVec 11) (s : State) : Out := s.loadTI 1 true rd ra imm

/-- LD.H, TD form (14 R277). -/
def execLdHTd (rd ra rb : Reg) (imm : BitVec 16) (s : State) : Out := s.loadTD 1 true rd ra rb imm

/-- LD.HU, TI form (14 R277). -/
def execLdHuTi (rd ra : Reg) (imm : BitVec 11) (s : State) : Out := s.loadTI 1 false rd ra imm

/-- LD.HU, TD form (14 R277). -/
def execLdHuTd (rd ra rb : Reg) (imm : BitVec 16) (s : State) : Out := s.loadTD 1 false rd ra rb imm

/-- LD.W, TI form (14 R277). -/
def execLdWTi (rd ra : Reg) (imm : BitVec 11) (s : State) : Out := s.loadTI 2 true rd ra imm

/-- LD.W, TD form (14 R277). -/
def execLdWTd (rd ra rb : Reg) (imm : BitVec 16) (s : State) : Out := s.loadTD 2 true rd ra rb imm

/-- LD.WU, TI form (14 R277). -/
def execLdWuTi (rd ra : Reg) (imm : BitVec 11) (s : State) : Out := s.loadTI 2 false rd ra imm

/-- LD.WU, TD form (14 R277). -/
def execLdWuTd (rd ra rb : Reg) (imm : BitVec 16) (s : State) : Out := s.loadTD 2 false rd ra rb imm

/-- LD.D, TI form (14 R277). -/
def execLdDTi (rd ra : Reg) (imm : BitVec 11) (s : State) : Out := s.loadTI 3 false rd ra imm

/-- LD.D, TD form (14 R277). -/
def execLdDTd (rd ra rb : Reg) (imm : BitVec 16) (s : State) : Out := s.loadTD 3 false rd ra rb imm

/-- ST.B, TI form (14 R278). -/
def execStBTi (rs ra : Reg) (imm : BitVec 11) (s : State) : Out := s.storeTI 0 rs ra imm

/-- ST.B, TD form (14 R278). -/
def execStBTd (rs ra rb : Reg) (imm : BitVec 16) (s : State) : Out := s.storeTD 0 rs ra rb imm

/-- ST.H, TI form (14 R278). -/
def execStHTi (rs ra : Reg) (imm : BitVec 11) (s : State) : Out := s.storeTI 1 rs ra imm

/-- ST.H, TD form (14 R278). -/
def execStHTd (rs ra rb : Reg) (imm : BitVec 16) (s : State) : Out := s.storeTD 1 rs ra rb imm

/-- ST.W, TI form (14 R278). -/
def execStWTi (rs ra : Reg) (imm : BitVec 11) (s : State) : Out := s.storeTI 2 rs ra imm

/-- ST.W, TD form (14 R278). -/
def execStWTd (rs ra rb : Reg) (imm : BitVec 16) (s : State) : Out := s.storeTD 2 rs ra rb imm

/-- ST.D, TI form (14 R278). -/
def execStDTi (rs ra : Reg) (imm : BitVec 11) (s : State) : Out := s.storeTI 3 rs ra imm

/-- ST.D, TD form (14 R278). -/
def execStDTd (rs ra rb : Reg) (imm : BitVec 16) (s : State) : Out := s.storeTD 3 rs ra rb imm

/-! ### Synchronising accesses (14 R279) -/

/-- LDC (14 R279). -/
def execLdc (rd ra : Reg) (imm : BitVec 11) (s : State) : Out :=
  s.withRegs [ra] fun th => s.access th [rd, ra] (th.acc .ldc 3 false rd (addrTI th ra imm) 0 0 false)

/-- LDF (14 R279). -/
def execLdf (rd ra : Reg) (imm : BitVec 11) (s : State) : Out :=
  s.withRegs [ra] fun th => s.access th [rd, ra] (th.acc .ldf 3 false rd (addrTI th ra imm) 0 0 false)

/-- STP, a release (14 R279). -/
def execStp (rd ra : Reg) (imm : BitVec 11) (s : State) : Out :=
  s.withRegs [rd, ra] fun th => s.access th [rd, ra] (th.acc .stp 3 false 0 (addrTI th ra imm) (th.reg rd) 0 true)

/-- STF, a release (14 R279). -/
def execStf (rd ra : Reg) (imm : BitVec 11) (s : State) : Out :=
  s.withRegs [rd, ra] fun th => s.access th [rd, ra] (th.acc .stf 3 false 0 (addrTI th ra imm) (th.reg rd) 0 true)

/-- FEMT (14 R279). -/
def execFemt (ra : Reg) (imm : BitVec 11) (s : State) : Out :=
  s.withRegs [ra] fun th => s.access th [ra] (th.acc .femt 3 false 0 (addrTI th ra imm) 0 0 false)

/-- FEST: access size 1 (14 R279). -/
def execFest (rd ra : Reg) (imm : BitVec 11) (s : State) : Out :=
  s.withRegs [ra] fun th => s.access th [rd, ra] (th.acc .fest 0 false rd (addrTI th ra imm) 0 0 false)

/-! ### Atomic operations (14 R280) -/

/-- An AMO: the registers it reads, the release of its bit, the access at the owner's port. The comparand of CAS is rd before the
instruction. The acquire bit orders nothing further, as the thread waits for the old value (08 R170, log 66). -/
def State.amo (s : State) (op : Fin 10) (fl : AmoFlags) (rd ra rb : Reg) : Out :=
  s.withRegs (if op = 9 then [ra, rb, rd] else [ra, rb]) fun th =>
    s.access th [rd, ra, rb]
      (th.acc (.amo op) (if fl.d then 3 else 2) true rd (th.reg ra) (th.reg rb) (th.reg rd) fl.rl)

/-- AMOADD (14 R280). -/
def execAmoadd (fl : AmoFlags) (rd ra rb : Reg) (s : State) : Out := s.amo 0 fl rd ra rb

/-- AMOAND (14 R280). -/
def execAmoand (fl : AmoFlags) (rd ra rb : Reg) (s : State) : Out := s.amo 1 fl rd ra rb

/-- AMOOR (14 R280). -/
def execAmoor (fl : AmoFlags) (rd ra rb : Reg) (s : State) : Out := s.amo 2 fl rd ra rb

/-- AMOXOR (14 R280). -/
def execAmoxor (fl : AmoFlags) (rd ra rb : Reg) (s : State) : Out := s.amo 3 fl rd ra rb

/-- AMOMIN (14 R280). -/
def execAmomin (fl : AmoFlags) (rd ra rb : Reg) (s : State) : Out := s.amo 4 fl rd ra rb

/-- AMOMAX (14 R280). -/
def execAmomax (fl : AmoFlags) (rd ra rb : Reg) (s : State) : Out := s.amo 5 fl rd ra rb

/-- AMOMINU (14 R280). -/
def execAmominu (fl : AmoFlags) (rd ra rb : Reg) (s : State) : Out := s.amo 6 fl rd ra rb

/-- AMOMAXU (14 R280). -/
def execAmomaxu (fl : AmoFlags) (rd ra rb : Reg) (s : State) : Out := s.amo 7 fl rd ra rb

/-- AMOSWAP (14 R280). -/
def execAmoswap (fl : AmoFlags) (rd ra rb : Reg) (s : State) : Out := s.amo 8 fl rd ra rb

/-- AMOCAS (14 R280). -/
def execAmocas (fl : AmoFlags) (rd ra rb : Reg) (s : State) : Out := s.amo 9 fl rd ra rb

/-! ### Fences and drains (08 R171, 07 R166, 14 R281, R282) -/

/-- The thread has posted cellar stores that are not performed. -/
def State.cellarPending (s : State) (k : TileId) (th : Thread) : Bool :=
  (s.tile k).c.outq.any (fun p => p.of th && !p.host)

/-- The release side of a fence: scopes TILE and CLUSTER complete, PARTITION waits for cellar stores, SYSTEM for host
stores too. -/
def State.fenceRel (s : State) (scope : Fin 4) (go : Out) : Out :=
  if scope = 2 ∧ s.cellarPending s.cur.tile s.me then .next (s.park s.me .cellarStores)
  else if scope = 3 ∧ s.storesPending s.cur.tile s.me then .next (s.park s.me .stores)
  else go

/-- The acquire side: PARTITION and SYSTEM invalidate the cluster's read cache. -/
def State.fenceAcq (s : State) (scope : Fin 4) : Out :=
  if 2 ≤ scope.val then (s.flushCache (clusterOf s.cur.tile)).done { s.me with wrote := false } else s.done s.me

/-- FENCE.ACQ (14 R281). -/
def execFenceAcq (scope : Fin 4) (s : State) : Out := s.fenceAcq scope

/-- FENCE.REL (14 R281). -/
def execFenceRel (scope : Fin 4) (s : State) : Out := s.fenceRel scope (s.done s.me)

/-- FENCE.FULL: REL, then ACQ, of the same scope (14 R281). -/
def execFenceFull (scope : Fin 4) (s : State) : Out := s.fenceRel scope (s.fenceAcq scope)

/-- The path of a copy (07 R166). -/
def Job.path? (j : Job) : Option Nat :=
  match j with
  | .copy _ _ path _ _ _ => some path
  | _ => none

/-- What DRAIN on path `p`, issued in tile cycle `issued` by thread `th`, still waits for (07 R166). -/
def Tile.drainWaits (t : Tile) (th : Thread) (p issued : Nat) : Bool :=
  t.c.ops.any (fun o => o.job.path? == some p && decide (o.issued ≤ issued))
    || ((p == 3 || p == 4) && t.c.outq.any (fun x => x.of th && decide (x.issued ≤ issued)))

/-- The oldest deferred fault of a thread on a path (07 R166). -/
def oldest (ds : List Deferred) : Option Deferred :=
  ds.foldl (fun m d => match m with
    | none => some d
    | some e => if d.issued < e.issued then some d else some e) none

def TileCtx.faultOf (c : TileCtx) (th : Thread) (p : Nat) : Option Deferred :=
  oldest (c.deferred.filter (fun d => d.launch == th.launch && d.tid == th.tid && d.path == p))

/-- DRAIN on path `p` of the thread in slot `j` has nothing left to wait for: it completes, or traps on the oldest
deferred fault of its thread, which is cleared (07 R166, 09 R191). -/
def State.drainEnd (s : State) (k : TileId) (j : Fin 16) (nh p : Nat) : State :=
  let th := s.thr k j
  match (s.tile k).c.faultOf th p with
  | none => s.setThr k j (th.retire nh)
  | some d =>
    let s := s.setCtx k { (s.tile k).c with deferred := (s.tile k).c.deferred.erase d }
    s.trapAt k j th.pc (causeOf d.code d.detail true) d.val

/-- DRAIN (14 R282). -/
def execDrain (path : Fin 6) (s : State) : Out :=
  if s.here.drainWaits s.me path s.here.r.cyc then .next (s.park s.me (.drain path))
  else .next (s.drainEnd s.cur.tile s.cur.slot s.cur.nh path)

/-- DRAINs of tile `k` whose wait is over (07 R166); their wakes are logged ECOMP. -/
def State.endDrains (s : State) (k : TileId) : State :=
  (List.finRange 16).foldl (fun s j =>
    match (s.tile k).slot j with
    | some th =>
      match th.park with
      | some ⟨.drain p, _, nh, since⟩ =>
        if (s.tile k).drainWaits th p since then s
        else if s.recordless k j.val then (s.noteFull k j.val).after 1 .engineOpStart (.tile k)
        else (s.mark k kEcomp j.val 0 0).drainEnd k j nh p
      | _ => s
    | none => s) s

/-! ### Register full/empty (14 R283, R284) -/

/-- The slot of tile `k` that holds thread `tid` of a launch. -/
def Tile.slotOfTid (t : Tile) (tid : Nat) (launch : BitVec 32) : Option (Fin 16) :=
  (List.finRange 16).find? (fun j =>
    match t.slot j with
    | some th => th.tid == tid && th.launch == launch
    | none => false)

/-- G[r] of a thread is filled; a read of it that parked the thread wakes (14 R283). -/
def Thread.fillReg (th : Thread) (r : Reg) (v : Word) : Thread :=
  let th := th.setReg r v
  match th.park with
  | some ⟨.empty m, tok, nh, since⟩ =>
    if m &&& ~~~(regBit r) = 0 then { th with park := none }
    else { th with park := some ⟨.empty (m &&& ~~~(regBit r)), tok, nh, since⟩ }
  | _ => th

/-- RFILL (14 R283): performed in the tile when its target is here, else a packet to the target's home. -/
def execRfill (ra rb rt : Reg) (s : State) : Out :=
  if rt = 0 then s.trap cReservedField 0xFF s.me.pc
  else
    s.withRegs [ra, rb] fun th =>
      let k := s.cur.tile
      let tid := bitsOf (th.reg ra) 0 22
      let home := shadowBase k + tid % 2 ^ 18
      if !s.inPartition k home then s.trap cAddressSpace 2 (th.reg ra)
      else
        s.release th
          (if tid = th.tid then s.done (th.fillReg rt (th.reg rb))
           else
             match s.here.slotOfTid tid th.launch with
             | some j => (s.setThr k j ((s.thr k j).fillReg rt (th.reg rb))).done th
             | none => (s.packet k home 3 1 .rfillDelivery (.fill home tid rt (th.reg rb) th.launch none)).done th)

/-- REMPTY: the value stays; g0 is always full (14 R284). -/
def execRempty (rd : Reg) (s : State) : Out := s.done { s.me with full := s.me.full &&& ~~~(regBit rd) }

/-- RSTAT: the FE bits of g0 to g31 (14 R284). -/
def execRstat (rd : Reg) (s : State) : Out :=
  s.done (s.me.setReg rd ((s.me.full ||| 1).setWidth 64))

/-! ### The stack (07 R163, 13 R267, R268) -/

/-- Where ENTER's new frame goes: a trap, or the new sp and whether the stack moves to the cellar. -/
def Thread.frame (th : Thread) (sp n : Word) : Except TrapInfo (Word × Bool) :=
  let t := sp - n
  let top := th.spov &&& ~~~15#64
  let floor := th.spovlim &&& ~~~15#64
  if bitsOf sp 0 4 ≠ 0 then .error { code := cAlign, detail := 16, val := sp }
  else if spaceOf sp = 0 then
    if sp.toNat < th.splim.toNat + n.toNat then
      if !th.spov.getLsbD 0 then .error { code := cStackLimit, detail := 0, val := t }
      else if top.toNat < floor.toNat + 16 + n.toNat then .error { code := cStackLimit, detail := 1, val := top - 16 - n }
      else .ok (top - 16 - n, true)
    else .ok (t, false)
  else if spaceOf sp = 4 then
    if sp.toNat < floor.toNat + n.toNat then .error { code := cStackLimit, detail := 1, val := t } else .ok (t, false)
  else .error { code := cAddressSpace, detail := 3, val := sp }

/-- A store of ENTER: in the pipeline for the pool, to a shared register eight cycles later (06 R124), posted for the cellar
and the host. -/
def frameStore (k : TileId) (x : State × Thread) (w : Word × Word) : State × Thread :=
  match x.1.place k .plain 8 false w.1 with
  | .here off =>
    if 0x40000 ≤ off then
      let c := (x.1.tile k).c
      (x.1.setCtx k { c with hOps := c.hOps ++ [.store (Fin.ofNat 8 (off / 8)) w.2 (x.1.tile k).r.cyc] }, x.2)
    else (x.1.threadWrite k off (leBytes 8 w.2.toNat), x.2)
  | .gateway host _ =>
    let th := (x.1.tile k).foldStore x.2 w.1 8 w.2
    (x.1.post k x.2 host w.1 8 w.2, { th with wrote := th.wrote || (!host && !isShadow k) })
  | _ => x

/-- The trap of a store of ENTER that its address does not admit. -/
def State.frameTrap (s : State) (k : TileId) (w : Word × Word) : Option TrapInfo :=
  match s.place k .plain 8 false w.1 with
  | .trap t => some t
  | .here off => if (s.tile k).c.lockHit (s.tile k).r.cyc off (off + 8) then some (s.lockTrap k w.1) else none
  | .gateway _ _ => none
  | _ => some { code := cAddressSpace, detail := 3, val := w.1 }

/-- ENTER n (13 R267): stores to the pool complete in the pipeline; those to the cellar are posted, and ENTER parks first
while the outbound queue has no room for them. -/
def execEnter (n : BitVec 16) (s : State) : Out :=
  if n.toNat % 16 ≠ 0 ∨ n = 0 then s.trap cReservedField 0xFF s.me.pc
  else
    s.withRegs [29] fun th =>
      let k := s.cur.tile
      let sp := th.reg 29
      let n := n.setWidth 64
      if !th.atHome k then s.trap cStackLimit 2 (sp - n)
      else
        match th.frame sp n with
        | .error t => s.trap t.code t.detail t.val
        | .ok (t, move) =>
          let top := th.spov &&& ~~~15#64
          let ws := if move then [(top - 16, sp), (top - 8, 0), (t, sp)] else [(t, sp)]
          match ws.findSome? (s.frameTrap k) with
          | some i => (s.drawn k).trap i.code i.detail i.val
          | none =>
            if 16 < s.here.c.outq.length + (ws.filter (fun w => spaceOf w.1 != 0)).length then .next (s.park th .outQueue)
            else if s.captureBusy (bitsOf t 0 18 / 64) && spaceOf t == 0 && !isShared t then .next (s.parkCapture th)
            else
              let r := ws.foldl (frameStore k) (s, th)
              r.1.done (r.2.setReg 29 t)

/-- LEAVE: an ordinary doubleword load of the caller's sp (13 R268). -/
def execLeave (s : State) : Out :=
  s.withRegs [29] fun th =>
    if !th.atHome s.cur.tile then s.trap cStackLimit 2 (th.reg 29)
    else s.access th [29] (th.acc .load 3 false 29 (th.reg 29) 0 0 false)

/-! ### The ends of a thread (06 R120, 13 R262, R272) -/

/-- EXIT (13 R272). -/
def execExit (s : State) : Out := .next (s.endThread s.cur.tile s.cur.slot)

/-- RET: to the link in g30; a link of 0 ends the thread (13 R262). -/
def execRet (s : State) : Out :=
  s.withRegs [30] fun th =>
    if th.reg 30 = 0 then .next (s.endThread s.cur.tile s.cur.slot) else .next (s.setMe (th.jump (th.reg 30)))

end Sys2Proof.Machine
end

