-- ==== Sys2Proof/Machine/Ports.lean ====
section
/-!
DEFINITION. The events of accesses: ports, replies, reads through the gateway, full/empty waits, fills (07 R149 to R160, 12 R237, 14
R276).
-/
namespace Sys2Proof.Machine

/-- Log kind of a remote request that changes the target tile (05 R101, 14 R297, log 16); 0 for none. -/
def AccKind.record (k : AccKind) : Nat :=
  match k with
  | .store => kRstore
  | .stp => kRstore
  | .stf => kRstore
  | .femt => kRstore
  | .ldc => kAmo
  | .amo _ => kAmo
  | _ => 0

/-- A request is counted among the arrivals of the port in this cycle; the port takes eight (14 R276). -/
def State.arrive (s : State) (t : TileId) : State × Bool :=
  let r := (s.tile t).r
  let n := if r.arrivals.1 = s.now then r.arrivals.2 else 0
  (s.setRouter t { r with arrivals := (s.now, n + 1) }, decide (n < 8))

/-- The capture buffer of a tile cannot take a line that another tile's access writes (05 R94); what the log delivers was taken. -/
def Router.portBusy (r : Router) (line : Nat) : Bool := !r.quiet && r.captureFull line

/-- The port of tile `t` performs a request from elsewhere, or holds it, and answers in C1 (07 R149). -/
def State.portRequest (s : State) (t : TileId) (off : Nat) (a : Access) (src : Ref) (fails issued : Nat) : State :=
  match s.portPerform t off a ((s.tile t).r.portBusy (off / 64)) true with
  | (s', .reply v) => s'.packet t src.tile 1 1 .accessReply (.reply src v)
  | (_, .wait) => s.joinWaiters t off a src fails issued
  | (_, .busy) => s

/-- REMOTE_ACCESS (07 R149, 14 R276): logged, and performed at the port; a ninth request of a cycle goes back in C1; one whose line
the capture buffer cannot take waits at the port. What changes nothing in the tile is a note, so that replay makes its reply
(log 25). -/
def execRemoteAccess (s : State) : Out :=
  match s.input with
  | .port t off a src fails issued =>
    let r := s.arrive t
    if (s.tile t).r.quiet then .next (s.portRequest t off a src fails issued)
    else if !r.2 then
      let fails := if a.kind.cls = .sync then fails + 1 else fails
      if a.kind.cls = .sync ∧ a.retry ≤ fails then
        .next (r.1.relay t src.tile 1 1 .accessReply (.reply src (.trap { code := cFeTimeout, detail := 1, val := a.addr })))
      else .next (r.1.relay t src.tile 1 1 .accessReply (.port t off a src fails issued))
    else if a.kind.writes && (s.tile t).r.captureFull (off / 64) then .next (s.after 1 .remoteAccess s.input)
    else .next ((r.1.log t a.kind.record 0 (8 + a.size) .remoteAccess s.input 0).portRequest t off a src fails issued)
  | _ => .next s

/-- PORT_BOUNCE_REPRESENT (14 R276, 07 R159): the sender's port presents the request again. -/
def execPortBounceRepresent (s : State) : Out :=
  match s.input with
  | .port t off a src fails issued =>
    .next (s.packet src.tile t 3 2 .remoteAccess (.port t off a src fails issued))
  | _ => .next s

/-- Payload bytes of a reply: none for an acknowledgement (07 R149). -/
def Reply.len (v : Reply) : Nat := match v with | .ack => 0 | _ => 8

/-- A reply is logged and delivered (07 R149). -/
def State.logReply (s : State) (r : Ref) (v : Reply) (ev : Instr) : State :=
  match s.slotOf r with
  | none => s
  | some j => (s.log r.tile kLreply j.val v.len ev (.reply r v) 0).deliver r v

/-- A request that a port refused is back, logged BOUNCE; it is presented again 64 cycles later (14 R276, 07 R159). -/
def State.bounced (s : State) (src : Ref) (arg : Payload) : State :=
  (s.log src.tile kBounce (((s.slotOf src).map Fin.val).getD 0) 16 .accessReply arg 0).after 64 .portBounceRepresent arg

/-- FE_REFUSAL_REPRESENT (07 R159): an access that the full list of its own tile refused is presented again. -/
def execFeRefusalRepresent (s : State) : Out :=
  match s.input with
  | .port t off a src fails issued =>
    match s.portPerform t off a ((s.tile t).r.portBusy (off / 64)) false with
    | (s', .reply v) => .next (s'.deliver src v)
    | (_, .wait) => .next (s.joinWaiters t off a src fails issued)
    | (_, .busy) => .next (s.after 1 .feRefusalRepresent s.input)
  | _ => .next s

/-! ### Waiters (07 R159, R160, 06 R124) -/

/-- The outcome of a waiter reaches its thread: at once in its own tile, in C1 elsewhere. -/
def State.answerWaiter (s : State) (k : TileId) (w : Waiter) (v : Reply) : State :=
  if w.src.tile = k then s.deliver w.src v else s.packet k w.src.tile 1 1 .accessReply (.reply w.src v)

/-- A waiter that is passed over has one failed wake-up more; at feretry it ends (07 R159, R160). -/
def State.passOver (s : State) (k : TileId) (w : Waiter) : State :=
  let c := (s.tile k).c
  if w.acc.retry ≤ w.fails + 1 then
    let s := s.setCtx k { c with waiters := c.waiters.erase w }
    let t : Reply := .trap { code := cFeTimeout, detail := 1, val := w.acc.addr }
    if w.src.tile = k then s.after 1 .feTimeout (.reply w.src t) else s.packet k w.src.tile 1 1 .accessReply (.reply w.src t)
  else s.setCtx k { c with waiters := c.waiters.map (fun x => if x = w then { w with fails := w.fails + 1 } else x) }

/-- A synchronising access is performed at shared register `n` (06 R124): its reply, and the register's value and FE
bit at the end of the cycle. -/
def syncShared (a : Access) (v : Word) (full : Bool) (lines : Word) : Reply × Word × Bool :=
  match a.kind with
  | .ldc => (.value v, v, false)
  | .ldf => (.value v, v, full)
  | .stp => (.ack, a.data, true)
  | .stf => (.ack, a.data, true)
  | .femt => (.ack, v, false)
  | _ => (.value lines, v, full)

/-- The shared register a waiter or access names. -/
def hIndex (a : Word) : Fin 8 := Fin.ofNat 8 (bitsOf a 3 3)

/-- A waiter is performed (07 R159): at the pool's port, or at its shared register with effect at the end of the cycle. -/
def State.performWaiter (s : State) (k : TileId) (w : Waiter) (other : Bool) : State :=
  let c := (s.tile k).c
  let s := s.setCtx k { c with waiters := c.waiters.erase w }
  if w.dw < 32768 then
    match s.portPerform k (w.dw * 8) w.acc false other with
    | (s', .reply v) => s'.answerWaiter k w v
    | _ => s
  else
    let n := hIndex w.acc.addr
    let r := syncShared w.acc c.h[n] (c.isFull w.dw) (c.lineFull w.dw)
    let s := s.setCtx k { (s.tile k).c with hOps := (s.tile k).c.hOps ++ [.effect n r.2.1 r.2.2 (s.tile k).r.cyc] }
    s.deliver w.src r.1

/-- A waiter of tile `k` must wait on though its condition holds: the capture buffer cannot take its line (05 R94), or its wake,
which another tile causes, finds no record (R102). -/
def State.waiterHeld (s : State) (k : TileId) (w : Waiter) (j : Option (Fin 16)) (other : Bool) : Bool :=
  (w.acc.kind.writes && decide (w.dw < 32768) && (s.tile k).r.portBusy (w.dw / 8))
    || (other && (match j with | some j => s.recordless k j.val | none => false))

/-- FE_WAKE (07 R159): the oldest waiter whose condition holds is performed; every other that had joined is passed over. The wake
of a thread of this tile that another tile's access causes is logged WAKE with its slot (05 R101). -/
def execFeWake (s : State) : Out :=
  match s.input with
  | .dword k dw other =>
    let c := (s.tile k).c
    let ws := c.waiters.filter (fun w => w.dw == dw && decide (w.since < (s.tile k).r.cyc))
    let pick := ws.find? (fun w => w.acc.kind.ready (c.isFull dw))
    let pass (s : State) : State := (ws.filter (fun w => some w != pick)).foldl (fun s w => s.passOver k w) s
    match pick with
    | none => .next (pass s)
    | some w =>
      let j := if w.src.tile = k then s.slotOf w.src else none
      if s.waiterHeld k w j other then
        .next ((match j with | some j => s.noteFull k j.val | none => s).after 1 .feWake s.input)
      else
        let s := pass s
        let s := match j with
          | some j => if other then s.mark k kWake j.val 0 0 else s
          | none => s
        .next (s.performWaiter k w (decide (w.src.tile ≠ k)))
  | _ => .next s

/-- The address of the access that thread `r` waits for, wherever it is. -/
def State.waitsFor (s : State) (r : Ref) : Option Word :=
  let w := s.tiles.findSome? (fun x => x.2.c.waiters.find? (fun w => w.src == r))
  let e := s.agenda.findSome? (fun x => match x.arg with | .port _ _ a src _ _ => if src = r then some a else none | _ => none)
  let h := (s.tile r.tile).c.hOps.findSome? (fun o => match o with
    | .sync a tok _ => if tok = r.tok then some a else none | _ => none)
  match w, e, h with
  | some w, _, _ => some w.acc.addr
  | none, some a, _ => some a.addr
  | none, none, some a => some a.addr
  | none, none, none => none

/-- A waiter of tile `k` is withdrawn. -/
def State.removeWaiter (s : State) (k : TileId) (r : Ref) : State :=
  s.setCtx k { (s.tile k).c with waiters := (s.tile k).c.waiters.filter (fun w => w.src != r) }

/-- An access of the thread `r` is still on its way or waiting; it is withdrawn. A tile that is being recovered lets it go after its
release. -/
def State.withdraw (s : State) (r : Ref) : State :=
  let s := { s with agenda := s.agenda.filter (fun x => match x.arg with | .port _ _ _ src _ _ => src != r | _ => true) }
  let s := s.setCtx r.tile { (s.tile r.tile).c with hOps := (s.tile r.tile).c.hOps.filter (fun o => match o with
    | .sync _ tok _ => tok != r.tok | _ => true) }
  ((s.tiles.filter (fun x => x.2.c.waiters.any (fun w => w.src == r))).map Prod.fst).foldl (fun s k =>
    if k = r.tile then s.removeWaiter k r
    else
      let x := (s.tile k).r
      if x.mode == .fenced || x.replay then s.setRouter k { x with held := x.held ++ [(.feTimeout, .withdraw k r)] }
      else (s.note k .feTimeout (.withdraw k r)).removeWaiter k r) s

/-- FE_TIMEOUT (07 R160): detail 1 when the failed wake-ups reach feretry, detail 2 when fetimeo cycles have passed. The
access has no effect. -/
def execFeTimeout (s : State) : Out :=
  match s.input with
  | .reply r v => .next (s.deliver r v)
  | .ref r =>
    match s.waitsFor r with
    | some a => .next ((s.withdraw r).deliver r (.trap { code := cFeTimeout, detail := 2, val := a }))
    | none => .next s
  | .withdraw k r => .next ((s.note k .feTimeout s.input).removeWaiter k r)
  | _ => .next s

/-! ### The gateway (07 R151 to R155) -/

/-- What a gateway read of a thread of tile `k` returns: the state with the caches filled, and the bytes or the TRANSLATION
detail. -/
def State.gateRead (s : State) (k : TileId) (th : Option Thread) (g : GateRead) : State × Nat × List Byte :=
  let t := s.translate (clusterOf k) g.ctx g.host false g.va
  if g.fault ≠ 0 then (s, g.fault, [])
  else if t.2.2 ≠ 0 then (t.1, t.2.2, [])
  else if g.host then
    match s.dev.dmaCheck g.ctx t.2.1 false with
    | none => (t.1, 2, [])
    | some h => (t.1, 0, (t.1.hostSeen k th).bytes h g.size)
  else if g.cached && ((t.1.cluster (clusterOf k)).cachedLine (t.2.1 / 64)).isSome then
    let c := t.1.cacheRead k th t.2.1 g.size
    (c.1, 0, c.2)
  else if s.dev.poisonedRange t.2.1 g.size then (t.1, 5, [])
  else if g.cached then
    let c := t.1.cacheRead k th t.2.1 g.size
    (c.1, 0, c.2)
  else (t.1, 0, (t.1.cellarSeen k th).bytes t.2.1 g.size)

/-- The doublewords of bytes from address `a` on. -/
def dwordsOf (a : Nat) (bs : List Byte) : List (Nat × Word) :=
  (List.range (bs.length / 8)).map (fun i => (a + 8 * i, BitVec.ofNat 64 (leNat ((bs.drop (8 * i)).take 8))))

/-- Doublewords an instruction asked for go into its read buffer, and the instruction goes on (log 11); those of the packet that an
arriving thread holds give it tfmt and tscl (06 R130). -/
def State.intoBuffer (s : State) (r : Ref) (ws : List (Nat × Word)) : State :=
  match s.slotOf r with
  | none => s
  | some j =>
    let th := s.thr r.tile j
    match th.park.map Park.why, ws with
    | some .packet, [a, b] => s.setThr r.tile j { th with park := none, tfmt := a.2, tscl := b.2 }
    | _, _ => s.setThr r.tile j { th with park := none, rbuf := ws ++ th.rbuf }

/-- A read of several doublewords, each translated by itself; the first fault decides. -/
def State.gateReads (s : State) (k : TileId) (th : Option Thread) (g : GateRead) (n : Nat) : State × Nat × List Byte :=
  match n with
  | 0 => (s, 0, [])
  | n + 1 =>
    let x := s.gateRead k th { g with size := 8 }
    if x.2.1 ≠ 0 then x
    else
      let y := x.1.gateReads k th { g with va := (g.va + 8) % 2 ^ 48, addr := g.addr + 8 } n
      (y.1, y.2.1, x.2.2 ++ y.2.2)

/-- LOAD_REPLY (14 R277): the value, or a precise fault; logged LREPLY. What an ACCATT asked for goes on to its operation (16 R332). -/
def execLoadReply (s : State) : Out :=
  match s.input with
  | .gate r g =>
    let th := (s.slotOf r).map (fun j => s.thr r.tile j)
    let x := if g.toReg then s.gateRead r.tile th g else s.gateReads r.tile th g (g.size / 8)
    let op : Option Nat := match th.bind (fun t => t.park.map Park.why) with | some (.op id _) => some id | _ => none
    if x.2.1 ≠ 0 then
      match op with
      | some id => .next (x.1.after 0 .copyDataArrival (.spillIn r.tile id g.addr [] x.2.1))
      | none => .next (x.1.logReply r (.trap { code := cTranslation, detail := x.2.1, val := g.addr }) .loadReply)
    else if g.toReg then .next (x.1.logReply r (.value (extended g.signed g.size (leNat x.2.2))) .loadReply)
    else
      match x.1.slotOf r with
      | none => .next x.1
      | some j =>
        match (x.1.thr r.tile j).park.map Park.why with
        | some (.op id _) => .next (x.1.after 0 .copyDataArrival (.spillIn r.tile id g.addr x.2.2 0))
        | _ => .next ((x.1.log r.tile kLreply j.val g.size .loadReply (.buffer r g.addr.toNat x.2.2) 0).intoBuffer r
          (dwordsOf g.addr.toNat x.2.2))
  | .reply r v => .next (s.logReply r v .loadReply)
  | .buffer r a bs => .next (s.intoBuffer r (dwordsOf a bs))
  | _ => .next s

/-- Threads of tile `k` that waited for posted stores or for room in the outbound queue wake (07 R155, 08 R170, R171). -/
def State.wakeWaits (s : State) (k : TileId) : State :=
  s.wakeAll k kWake (fun th w => match w with
    | .stores => !s.storesPending k th
    | .cellarStores => !s.cellarPending k th
    | .outQueue => decide ((s.tile k).c.outq.length < 16)
    | _ => false)

/-- A store has left the outbound queue: threads wake, and the engine queue and a held COLRUN are looked at again (08 R172, 17 R366). -/
def State.wakeStores (s : State) (k : TileId) : State :=
  let s := s.wakeWaits k
  let held := match (s.tile k).c.coll with | some c => c.held.isSome | none => false
  let s := if held then s.after 1 .colrunHoldEnd (.tile k) else s
  let s := if (s.tile k).c.ops.any (fun o => o.started.isNone) then s.after 1 .engineOpStart (.tile k) else s
  s.endDrains k

/-- The launch index of a launch on a tile. -/
def TileCtx.lixOf (c : TileCtx) (lid : BitVec 32) : Nat := ((c.launches.find? (fun x => x.2.lid == lid)).map Prod.fst).getD 0

/-- CAPTURE_ENTRY_FREE (05 R94): threads parked with reason capture wake, each logged WAKE; a thread so logged wakes in replay. -/
def execCaptureEntryFree (s : State) : Out :=
  match s.input with
  | .tile k => .next (s.wakeOuter k (fun _ w => w == .capture || w == .logRec))
  | .ref r => .next (match s.slotOf r with | some j => s.unpark r.tile j | none => s)
  | _ => .next s

/-! ### The instruction cache (12 R237) -/

/-- Halfwords of bytes. -/
def halvesOf (bs : List Byte) : List (BitVec 16) :=
  (List.range (bs.length / 2)).map (fun i => BitVec.ofNat 16 (leNat ((bs.drop (2 * i)).take 2)))

/-- The cache with a line filled in: 128 lines, least recently used replaced. -/
def fillLine (ls : List ICLine) (l : ICLine) : List ICLine := (touchLine l ls).take 128

/-- ICACHE_FILL (12 R237): the line, through the read cache, logged LREPLY; the threads that missed on it wake. A fill that faults
ends the launch, FAULTED with code TRANSLATION. -/
def execIcacheFill (s : State) : Out :=
  match s.input with
  | .line k lix line =>
    let e := (s.tile k).launchOf (BitVec.ofNat 4 lix)
    let a := e.code + BitVec.ofNat 64 line
    let x := s.gateRead k none
      { ctx := (s.tile k).r.ctx, host := false, va := bitsOf a 0 48, addr := a, size := 64, signed := false, toReg := false
        cached := true, fault := 0 }
    if !(s.tile k).c.fills.contains (lix, line) then .next s
    else if x.2.1 ≠ 0 then .next (x.1.stopLaunch (s.tile k).r.ctx lix e.lid (statusFaulted, cTranslation))
    else .next (x.1.after 0 .icacheFill (.bytes k (lix * 2 ^ 32 + line) x.2.2))
  | .bytes k at_ bs =>
    let lix := at_ / 2 ^ 32
    let line := at_ % 2 ^ 32
    let s := s.log k kLreply 0 64 .icacheFill s.input 0
    let c := (s.tile k).c
    let s := s.setCtx k { c with
      fills := c.fills.filter (fun f => f != (lix, line))
      icache := fillLine c.icache { lix := lix, line := line, halves := halvesOf bs } }
    .next (s.wakeAll k 0 (fun th w => w == .icache line && th.lix.toNat == lix))
  | _ => .next s

end Sys2Proof.Machine
end

