-- ==== Sys2Proof/Machine/Moves.lean ====
section
/-!
DEFINITION. Migrants, RFILLs, notices and messages: the instructions that send them and the events that deliver them
(06 R127 to R134, 04 R86, 14 R283 to R287, R292).
-/
namespace Sys2Proof.Machine

/-! ### Migrants (06 R128, R132, R133) -/

/-- The lowest free guest entry, 16 to 31 (06 R127). -/
def TileCtx.freeEntry (c : TileCtx) : Option Nat :=
  ((List.range 16).map (· + 16)).find? (fun e => !c.guests.any (fun g => g.entry == e))

/-- The thread as it takes up its stack registers at home again (06 R127). -/
def Thread.comeHome (th : Thread) (v : Resv) : Thread :=
  { th with splim := v.splim, spov := v.spov, spovlim := v.spovlim }

/-- Registers that RFILLs wrote while the thread was in transit. -/
def Thread.fillAll (th : Thread) (fs : List (Reg × Word)) : Thread := fs.foldl (fun th f => th.fillReg f.1 f.2) th

/-- A thread comes back to its home tile: a slot, or its own reservation (06 R128); it is never bounced. -/
def State.returnHome (s : State) (k : TileId) (th : Thread) (refused : Option Word) : State :=
  let c := (s.tile k).c
  let h := th.hslot.toNat
  match c.resv.get? h with
  | none => s
  | some v =>
    let th := (th.comeHome v).fillAll v.fills
    match (s.tile k).freeSlot with
    | some j => (s.setCtx k { c with resv := c.resv.erase h }).enterSlot k j th refused
    | none =>
      s.setCtx k { c with
        resv := c.resv.set h { v with transit := false, fills := [], waiting := some th }
        guests := c.guests ++ [{ entry := h, thread := th, refused := refused }] }

/-- Bytes of a migrant's log record (05 R101). -/
def migrantLen : Nat := 160

/-- A migrant comes to rest on tile `k`: a set wrote invalidates the cluster's read cache, and is cleared (07 R154). What replay
delivers has done so. -/
def State.settle (s : State) (k : TileId) (th : Thread) : State × Thread :=
  (if th.wrote && !(s.tile k).r.quiet then s.flushCache (clusterOf k) else s, { th with wrote := false })

/-- MIGRANT_ARRIVAL (06 R128): a slot, the reservation of a thread that returns, a guest entry, or a bounce, which the router makes. -/
def execMigrantArrival (s : State) : Out :=
  match s.input with
  | .migrant t src th va =>
    let home := shadowBase t + th.home.toNat
    let back := th.atHome t
    if !back && (s.tile t).freeSlot.isNone && (s.tile t).c.freeEntry.isNone then
      .next (s.relay t home 2 migrantFlits .migback (.migrant home t th va))
    else
      let s := s.log t kMigrant 0 migrantLen .migrantArrival (.migrant t src th va) 0
      let x := s.settle t th
      let s := x.1
      let th := x.2
      if back then .next (s.returnHome t th none)
      else
        let s := s.packet t home 3 1 .locationNotice (.notice home th.hslot.toNat t)
        match (s.tile t).freeSlot with
        | some j => .next (s.enterSlot t j th none)
        | none =>
          .next (s.setCtx t { (s.tile t).c with
            guests := (s.tile t).c.guests ++ [{ entry := ((s.tile t).c.freeEntry).getD 16, thread := th, refused := none }] })
  | _ => .next s

/-- MIGBACK (06 R132): the bounced migrant is home; it goes again after migback cycles, or at migretry bounces it
enters a home slot and raises MIGRATE_REFUSED. -/
def execMigback (s : State) : Out :=
  match s.input with
  | .migrant k t th va =>
    let c := (s.tile k).c
    let h := th.hslot.toNat
    match c.resv.get? h with
    | none => .next s
    | some v =>
      let s := s.log k kMigback h migrantLen .migback (.migrant k t th va) 0
      let n := v.bounces + 1
      if c.migretry.toNat ≤ n then .next ((s.settle k th).1.returnHome k (s.settle k th).2 (some va))
      else
        let s := s.setCtx k { (s.tile k).c with resv := (s.tile k).c.resv.set h { v with bounces := n, transit := true } }
        .next (s.after c.migback.toNat .migbackResend (.migrant k t th va))
  | _ => .next s

/-- MIGBACK_RESEND (06 R132): the home tile sends the migrant again to the same target. -/
def execMigbackResend (s : State) : Out :=
  match s.input with
  | .migrant k t th va => .next (s.packet k t 2 migrantFlits .migrantArrival (.migrant t k th va))
  | _ => .next s

/-- LOCATION_NOTICE (06 R133): the home tile learns where the thread is, clears its bounce count, and forwards the RFILLs
that waited. -/
def execLocationNotice (s : State) : Out :=
  match s.input with
  | .notice k h loc =>
    match (s.tile k).c.resv.get? h with
    | none => .next s
    | some v =>
      let s := s.note k .locationNotice s.input
      let s := s.setCtx k { (s.tile k).c with
        resv := (s.tile k).c.resv.set h { v with away := loc, transit := false, bounces := 0, fills := [] } }
      .next (v.fills.foldl (fun s f =>
        s.packet k loc 3 1 .rfillDelivery (.fill loc (ltnOf k + 2 ^ 18 * h) f.1 f.2 v.launch none)) s)
  | _ => .next s

/-- EXIT_NOTICE (06 R134): the home reservation is freed, and the accumulator tiles and merge round of the thread that
ended away (06 R120). -/
def execExitNotice (s : State) : Out :=
  match s.input with
  | .tileNum k h =>
    match (s.tile k).c.resv.get? h with
    | none => .next s
    | some v =>
      let s := s.note k .exitNotice s.input
      let c := { (s.tile k).c with resv := (s.tile k).c.resv.erase h }
      let s := s.setCtx k (c.leave (BitVec.ofNat 4 h))
      .next (s.lookAt (s.tile k).r.ctx
        (((s.tile k).c.launches.find? (fun x => x.2.lid == v.launch)).map Prod.fst |>.getD 0))
  | _ => .next s

/-! ### RFILL (06 R133, 14 R283) -/

/-- The guest entries with a register of the thread filled. -/
def fillGuest (gs : List Guest) (tid : Nat) (launch : BitVec 32) (r : Reg) (v : Word) : List Guest :=
  gs.map (fun g => if g.thread.tid = tid ∧ g.thread.launch = launch then { g with thread := g.thread.fillReg r v } else g)

/-- RFILL_DELIVERY (14 R283): the register of the thread that is here becomes full and a parked read of it wakes; home
forwards for a thread that is away, or keeps the RFILL while it is in transit, as it is when the tile where it was last noticed
has returned the RFILL; elsewhere it goes back home. -/
def execRfillDelivery (s : State) : Out :=
  match s.input with
  | .fill t tid r v launch back =>
    let home := shadowBase t + tid % 2 ^ 18
    let h := tid / 2 ^ 18
    match (s.tile t).slotOfTid tid launch with
    | some j =>
      let s := s.log t kRfill j.val 8 .rfillDelivery s.input 0
      .next (s.setThr t j ((s.thr t j).fillReg r v))
    | none =>
      let c := (s.tile t).c
      if c.guests.any (fun g => g.thread.tid == tid && g.thread.launch == launch) then
        let s := s.log t kRfill 0 8 .rfillDelivery s.input 0
        .next (s.setCtx t { (s.tile t).c with guests := fillGuest c.guests tid launch r v })
      else if t ≠ home then .next (s.relay t home 3 1 .rfillDelivery (.fill home tid r v launch (some t)))
      else
        match c.resv.get? h with
        | none => .next s
        | some w =>
          if w.launch ≠ launch then .next s
          else if w.transit || back == some w.away then
            .next ((s.note t .rfillDelivery s.input).setCtx t { c with resv := c.resv.set h { w with fills := w.fills ++ [(r, v)] } })
          else .next (s.relay t w.away 3 1 .rfillDelivery (.fill w.away tid r v launch none))
  | _ => .next s

/-! ### Pool operands of messages and system instructions -/

/-- Checks 1 to 7 of 07 R148 on an operand that lies in space 0x0 only, then that its `len` bytes lie in the scratchpad,
then lock_check. -/
def State.poolOperand (s : State) (a : Word) (align len : Nat) (line : Nat) : Option TrapInfo :=
  let off := bitsOf a 0 19
  if !spaceKnown (spaceOf a) then some { code := cAddressSpace, detail := 0, val := a }
  else if !bitsNamed a then some { code := cAddressSpace, detail := 1, val := a }
  else if a.toNat % align ≠ 0 then some { code := cAlign, detail := align, val := a }
  else if spaceOf a ≠ 0 then some { code := cAddressSpace, detail := 3, val := a }
  else if rangeRegion s.here.c.poolcfg off (off + len) ≠ 0 then
    some { code := cProtect, detail := rangeRegion s.here.c.poolcfg off (off + len), val := a }
  else if a.toNat % line ≠ 0 then some { code := cAlign, detail := line, val := a }
  else if s.here.c.lockHit s.here.r.cyc off (off + len) then some (s.lockTrap s.cur.tile a)
  else none

/-! ### Messages (04 R86, R87, 14 R285 to R287) -/

/-- A message leaves: one header flit and two data flits; it is delivered in the cycle before its mailbox's condition
reads 1 (04 R87). -/
def State.sendMessage (s : State) (r : Ref) (p : PendSend) : State :=
  let t := shadowBase r.tile + p.ltn.toNat
  s.packet r.tile t 3 2 .messageDelivery
    (.msg t { src := BitVec.ofNat 18 (ltnOf r.tile), mbox := p.mbox, tag := p.tag, payload := p.payload } r)

/-- SEND (14 R285). -/
def execSend (ra rb : Reg) (mbox : Fin 16) (tag : BitVec 16) (s : State) : Out :=
  s.withRegs [ra, rb] fun th =>
    let k := s.cur.tile
    let l := th.reg ra
    if l.toNat / 2 ^ 18 ≠ 0 then s.trap cAddressSpace 1 l
    else if !s.inPartition k (shadowBase k + l.toNat) then s.trap cAddressSpace 2 l
    else
      match s.poolOperand (th.reg rb) 8 48 1 with
      | some t => (s.drawn k).trap t.code t.detail t.val
      | none =>
        s.release th
          (let p : PendSend := { ltn := l.setWidth 18, mbox := mbox, tag := tag
                                 payload := s.here.c.pool.bytes (bitsOf (th.reg rb) 0 18) 48, bounces := 0 }
           .next ((s.park { th with pend := some p } .send).sendMessage s.nextRef p))

/-- MESSAGE_DELIVERY (04 R86): into a mailbox with a free entry of its four, logged MSG, or a bounce. -/
def execMessageDelivery (s : State) : Out :=
  match s.input with
  | .msg t m src =>
    let c := (s.tile t).c
    let q := c.mail[m.mbox]
    if q.length < 4 then
      let s := s.log t kMsg 0 56 .messageDelivery s.input 0
      let s := s.setCtx t { (s.tile t).c with mail := (s.tile t).c.mail.set m.mbox.val (q ++ [m]) m.mbox.isLt }
      let s := s.relay t src.tile 1 1 .messageAcceptance (.ref src)
      .next (s.wakeAll t 0 (fun _ w => match w with | .recv mask => mask.getLsbD m.mbox.val | _ => false))
    else .next (s.relay t src.tile 1 1 .messageBounce (.ref src))
  | _ => .next s

/-- MESSAGE_ACCEPTANCE (04 R86): logged ACCEPT; the SEND completes. -/
def execMessageAcceptance (s : State) : Out :=
  match s.input with
  | .ref r =>
    match s.slotOf r with
    | none => .next s
    | some j =>
      let s := s.log r.tile kAccept j.val 0 .messageAcceptance s.input 0
      .next ((s.setThr r.tile j { s.thr r.tile j with pend := none }).deliver r .ack)
  | _ => .next s

/-- MESSAGE_BOUNCE (04 R86, 14 R285): logged; SEND_REFUSED at sndretry bounces, else a new try 64 cycles later. A contribution and a
bind request come back in the same way (04 R84, 17 R370, R352). -/
def execMessageBounce (s : State) : Out :=
  match s.input with
  | .ref r =>
    match s.slotOf r with
    | none => .next s
    | some j =>
      let th := s.thr r.tile j
      match th.pend with
      | none => .next s
      | some p =>
        let s := s.log r.tile kBounce j.val 16 .messageBounce s.input 0
        if th.sndretry.toNat ≤ p.bounces + 1 then
          let s := s.setThr r.tile j { s.thr r.tile j with pend := none }
          .next (s.deliver r (.trap { code := cSendRefused, detail := p.mbox.val, val := p.ltn.setWidth 64 }))
        else
          let s := s.setThr r.tile j { s.thr r.tile j with pend := some { p with bounces := p.bounces + 1 } }
          .next (s.after 64 .messageReinject (.ref r))
  | .part cl p n (some r) =>
    match s.slotOf r with
    | none => .next s
    | some j =>
      let s := s.log r.tile kBounce j.val 16 .messageBounce s.input 0
      if (s.thr r.tile j).sndretry.toNat ≤ n then
        .next (s.deliver r (.trap { code := cSendRefused, detail := 0x10, val := BitVec.ofNat 64 p.group }))
      else .next (s.after 64 .messageReinject (.part cl p n (some r)))
  | .merge src t tok round cid n idx data =>
    .next ((s.log src kBounce (((s.slotOf { tile := src, tok := tok }).map Fin.val).getD 0) 16 .messageBounce s.input 0).after 64
      .bindRequestRetry (.merge t src tok round cid n idx data))
  | _ => .next s

/-- MESSAGE_REINJECT (04 R86): the sender's port sends the message, or a bounced contribution (R84), again. -/
def execMessageReinject (s : State) : Out :=
  match s.input with
  | .ref r =>
    match s.slotOf r with
    | none => .next s
    | some j =>
      match (s.thr r.tile j).pend with
      | none => .next s
      | some p => .next (s.sendMessage r p)
  | .part cl _ _ (some r) =>
    match s.slotOf r with
    | none => .next s
    | some _ => .next (s.packet r.tile (cl * 32) 3 2 .reductionContribution s.input)
  | _ => .next s

/-- The lowest mailbox of the mask that holds a message (14 R287). -/
def TileCtx.firstMail (c : TileCtx) (mask : BitVec 16) : Option (Fin 16) :=
  (List.finRange 16).find? (fun n => mask.getLsbD n.val && !(c.mail[n]).isEmpty)

/-- The header RECV returns (14 R287). -/
def Msg.header (m : Msg) : Word :=
  0x8000000000000000 ||| (m.tag.setWidth 64) <<< 22 ||| (BitVec.ofNat 64 m.mbox.val) <<< 18 ||| m.src.setWidth 64

/-- The capture buffer has no room for the lines a store to [off, off + n) would latch (05 R94). -/
def Router.captureShort (r : Router) (off n : Nat) : Bool :=
  match r.ship with
  | none => false
  | some sh => 8 < sh.latched.length + ((linesOf off n).filter (fun x => sh.lines.any (fun l => l.line == x))).length

/-- The same as the acting thread finds it; replay finds what the first run did (log 25). -/
def State.captureFew (s : State) (off n : Nat) : Bool :=
  if s.here.r.replay then s.here.r.noted .captureEntryFree s.cur.slot.val else s.here.r.captureShort off n

/-- RECV and TRYRECV (14 R287); a payload that the capture buffer has no room for waits, the message untaken (05 R94, log 38). -/
def State.recv (s : State) (try_ : Bool) (rd ra rb : Reg) : Out :=
  s.withRegs [ra, rb] fun th =>
    let mask : BitVec 16 := (th.reg ra).setWidth 16
    match s.poolOperand (th.reg rb) 8 48 1 with
    | some t => (s.drawn s.cur.tile).trap t.code t.detail t.val
    | none =>
      match s.here.c.firstMail mask with
      | some n =>
        match s.here.c.mail[n] with
        | m :: ms =>
          if s.captureFew (bitsOf (th.reg rb) 0 18) 48 then .next (s.parkCapture th)
          else
          let s' := s.setCtx s.cur.tile { s.here.c with mail := s.here.c.mail.set n.val ms n.isLt }
          (s'.threadWrite s.cur.tile (bitsOf (th.reg rb) 0 18) m.payload).done (th.setReg rd m.header)
        | [] => s.done th
      | none =>
        if try_ || mask == 0 then s.done (th.setReg rd 0) else .next (s.park th (.recv mask))

/-- RECV (14 R287). -/
def execRecv (rd ra rb : Reg) (s : State) : Out := s.recv false rd ra rb

/-- TRYRECV (14 R287). -/
def execTryrecv (rd ra rb : Reg) (s : State) : Out := s.recv true rd ra rb

/-- MIG (14 R292): checks 1, 2, the space and 6; a NOP when the target is the current tile. -/
def execMig (ra : Reg) (s : State) : Out :=
  s.withRegs [ra] fun th =>
    let a := th.reg ra
    let t := namedTile s.cur.tile a
    if !spaceKnown (spaceOf a) then s.trap cAddressSpace 0 a
    else if !bitsNamed a then s.trap cAddressSpace 1 a
    else if spaceOf a ≠ 2 then s.trap cAddressSpace 3 a
    else if !s.inPartition s.cur.tile t then s.trap cAddressSpace 2 a
    else if t = s.cur.tile then s.done th
    else s.migrate th [ra] t a

end Sys2Proof.Machine
end

