-- ==== Sys2Proof/Machine/Reduction.lean ====
section
/-!
DEFINITION. The groups' tables at the routers, and router reductions: RED, REDG and their events (04 R82, R84, R85, 17 R370,
R371).
-/
namespace Sys2Proof.Machine

/-! ### Groups at the routers (04 R82) -/

/-- The key of a group among a cluster's groups: context and group id. -/
def groupKey (ctx g : Nat) : Nat := ctx * 65536 + g

def Thread.member? (th : Thread) (g : Nat) : Option Membership := th.groups.find? (fun m => m.group == g)

/-- A group at a member cluster, and at its home router. -/
def Cluster.localGroup (c : Cluster) (key : Nat) : GroupLocal := (c.groups.get? key).getD GroupLocal.reset
def Cluster.homeGroup (c : Cluster) (key : Nat) : GroupHome := (c.homes.get? key).getD GroupHome.reset

def State.setLocal (s : State) (cl key : Nat) (g : GroupLocal) : State :=
  s.setCluster cl { s.cluster cl with groups := (s.cluster cl).groups.set key g }

def State.setHome (s : State) (cl key : Nat) (g : GroupHome) : State :=
  s.setCluster cl { s.cluster cl with homes := (s.cluster cl).homes.set key g }

/-! ### Slots (04 R84, R85) -/

/-- Reduction slots of a router. -/
def redSlots : Nat := 16

/-- Two values combined, exactly and in any order: 0 ADD, 1 MIN, 2 MAX, 3 AND, 4 OR, 5 XOR (17 R370). -/
def redCombine (op ty : Nat) (a b : Word) : Word :=
  let t : ETy := Fin.ofNat 8 ty
  if t.isFloat then
    BitVec.ofNat 64 (toFloat t .rne (nanOr (if op = 1 then FVal.min else FVal.max) (ETy.value t a.toNat) (ETy.value t b.toNat))).bits
  else
    let f (n : Nat) (x y : BitVec n) : BitVec n :=
      match op with
      | 0 => intAdd n x y
      | 1 => intMin n x y
      | 2 => intMax n x y
      | 3 => intAnd n x y
      | 4 => intOr n x y
      | _ => intXor n x y
    if ty = 2 then (f 32 (a.setWidth 32) (b.setWidth 32)).setWidth 64 else f 64 a b

/-- The operand bits of a type, and a result as REDG writes it. -/
def redOperand (ty : Nat) (v : Word) : Word := zextLow v (ETy.bits (Fin.ofNat 8 ty))
def redValue (ty : Nat) (v : Word) : Word := if ty = 2 then sextLow v 32 else v

def RedSlot.isFor (r : RedSlot) (root : Bool) (ctx g num : Nat) : Bool :=
  r.root == root && r.ctx == ctx && r.group == g && r.num == num

/-- A contribution or partial combined into a slot. -/
def RedSlot.take (r : RedSlot) (p : Partial) : RedSlot :=
  let bad := r.mismatch || p.mismatch || r.op != p.op || r.ty != p.ty
  { r with value := if bad then 0 else redCombine r.op r.ty r.value p.value, count := r.count + p.count
           map := r.map ||| p.map, mismatch := bad }

/-- A slot that a contribution or partial opens. -/
def RedSlot.openBy (p : Partial) (root : Bool) (expect now : Nat) : RedSlot :=
  { ctx := p.ctx, group := p.group, num := p.num, root := root, op := p.op, ty := p.ty, value := p.value, count := p.count
    map := p.map, mismatch := p.mismatch, expect := expect, early := false, opened := now, gone := 0 }

def RedSlot.partial_ (r : RedSlot) : Partial :=
  { ctx := r.ctx, group := r.group, num := r.num, op := r.op, ty := r.ty, value := r.value, count := r.count, map := r.map
    mismatch := r.mismatch }

def Cluster.red? (c : Cluster) (root : Bool) (ctx g num : Nat) : Option RedSlot := c.reds.find? (fun r => r.isFor root ctx g num)

/-- The slot replaced, or freed. -/
def State.setRed (s : State) (cl : Nat) (root : Bool) (ctx g num : Nat) (r : Option RedSlot) : State :=
  let c := s.cluster cl
  s.setCluster cl { c with reds := c.reds.filter (fun x => !x.isFor root ctx g num) ++ r.toList }

/-- Members of a cluster in a group. -/
def State.localMembers (s : State) (cl ctx g : Nat) : Nat :=
  let l := (s.cluster cl).localGroup (groupKey ctx g)
  l.members + l.late.length

/-- A partial goes to the root. -/
def State.sendPartial (s : State) (cl : Nat) (p : Partial) : State :=
  let home := s.groupHome (cl * 32) p.group
  s.relay (cl * 32) (home * 32) 3 2 .reductionPartial (.part home p cl none)

/-- A member slot whose local members have all contributed forwards its partial, and is free (04 R85). Contributions of members that
have left since stand for none of those that remain. -/
def State.tryForward (s : State) (cl : Nat) (r : RedSlot) : State :=
  if r.count < s.localMembers cl r.ctx r.group + r.gone then s
  else
    let s := s.setRed cl false r.ctx r.group r.num none
    if r.early then s else s.sendPartial cl r.partial_

/-- A root slot whose received counts reach the expected count sends the result to every member cluster. -/
def State.tryResult (s : State) (home : Nat) (r : RedSlot) : State :=
  if r.count < r.expect then s
  else
    let s := s.setRed home true r.ctx r.group r.num none
    let h := (s.cluster home).homeGroup (groupKey r.ctx r.group)
    h.counts.foldl (fun s x =>
      s.relay (home * 32) (x.1 * 32) 3 2 .reductionResult (.part x.1 r.partial_ home none)) s

/-- A member that leaves, with `reds` contributions made: where it has not contributed it is no longer expected (04 R84), where it has,
its contribution stays. -/
def State.redLeave (s : State) (home ctx g cl reds : Nat) : State :=
  let roots := (s.cluster home).reds.filter (fun r => r.root && r.ctx == ctx && r.group == g && decide (reds ≤ r.num))
  let s := roots.foldl (fun s r =>
    let r := { r with expect := r.expect - 1 }
    (s.setRed home true r.ctx r.group r.num (some r)).tryResult home r) s
  ((s.cluster cl).reds.filter (fun r => !r.root && r.ctx == ctx && r.group == g)).foldl (fun s r =>
    let r := if r.num < reds then { r with gone := r.gone + 1 } else r
    (s.setRed cl false r.ctx r.group r.num (some r)).tryForward cl r) s

/-! ### RED (17 R370) -/

/-- A contribution of the parked thread `r`, bounced `n` times, on its way to its cluster's router. -/
def State.sendRed (s : State) (r : Ref) (p : Partial) (n : Nat) : State :=
  s.packet r.tile (clusterOf r.tile * 32) 3 2 .reductionContribution (.part (clusterOf r.tile) p n (some r))

/-- RED (17 R370): 1 for a non-member; else a release, and the contribution goes to the cluster's slot. -/
def execRed (rd ra rb : Reg) (op : BitVec 3) (ty : BitVec 4) (s : State) : Out :=
  s.withRegs [ra, rb] fun th =>
    s.atHome th [rd, ra, rb]
      (let k := s.cur.tile
       let g := bitsOf (th.reg ra) 0 16
       match th.member? g with
       | none => s.done (th.setReg rd 1)
       | some m =>
         s.release th
           (let p : Partial := { ctx := s.here.r.ctx, group := g, num := m.reds, op := op.toNat, ty := ty.toNat
                                 value := redOperand ty.toNat (th.reg rb), count := 1
                                 map := BitVec.ofNat 64 (2 ^ (k % 32)), mismatch := false }
            .next ((s.park th (.red rd g)).sendRed s.nextRef p 0)))

/-- The contribution is accepted; its thread gets 0 in C1, logged LREPLY. -/
def State.acceptRed (s : State) (cl : Nat) (r : Ref) : State :=
  s.relay (cl * 32) r.tile 1 1 .accessReply (.reply r (.value 0))

/-- REDUCTION_CONTRIBUTION (04 R84, R85): combined into the slot, which it may open; a straggler goes on alone; with no
free slot it bounces (R86). -/
def execReductionContribution (s : State) : Out :=
  match s.input with
  | .part cl p n (some r) =>
    let c := s.cluster cl
    match c.red? false p.ctx p.group p.num with
    | some x =>
      let y := x.take p
      let s := (s.setRed cl false p.ctx p.group p.num (some y)).acceptRed cl r
      let s := if x.early then s.sendPartial cl p else s
      .next (s.tryForward cl y)
    | none =>
      if c.reds.length < redSlots then
        let y := RedSlot.openBy p false 0 s.now
        let s := (s.setRed cl false p.ctx p.group p.num (some y)).acceptRed cl r
        .next ((s.after (s.tile r.tile).c.redlimit.toNat .redlimitExpire (.part cl p 0 none)).tryForward cl y)
      else .next (s.relay (cl * 32) r.tile 1 1 .messageBounce (.part cl p (n + 1) (some r)))
  | _ => .next s

/-- REDLIMIT_EXPIRE (04 R85): the partial goes early; later contributions go on alone. -/
def execRedlimitExpire (s : State) : Out :=
  match s.input with
  | .part cl p _ _ =>
    match (s.cluster cl).red? false p.ctx p.group p.num with
    | none => .next s
    | some x =>
      if x.early then .next s
      else .next ((s.setRed cl false p.ctx p.group p.num (some { x with early := true })).sendPartial cl x.partial_)
  | _ => .next s

/-- REDUCTION_PARTIAL (04 R84, R85): the root combines it; its slot opens with the group's member count. With no free slot
it is presented again 64 cycles later (log 24). -/
def execReductionPartial (s : State) : Out :=
  match s.input with
  | .part home p _ _ =>
    let c := s.cluster home
    match c.red? true p.ctx p.group p.num with
    | some x =>
      let y := x.take p
      .next ((s.setRed home true p.ctx p.group p.num (some y)).tryResult home y)
    | none =>
      if c.reds.length < redSlots then
        let y := RedSlot.openBy p true (((c.homeGroup (groupKey p.ctx p.group)).counts.map Prod.snd).sum) s.now
        .next ((s.setRed home true p.ctx p.group p.num (some y)).tryResult home y)
      else .next (s.after 64 .reductionPartial s.input)
  | _ => .next s

/-! ### REDG (17 R371) -/

/-- The thread of a REDG takes its result. -/
def Thread.takeRed (th : Thread) (rd : Reg) (qd : Pred) (g num nh : Nat) (v : Word) (bad : Bool) : Thread :=
  let th := { th with groups := th.groups.map (fun (m : Membership) => if m.group = g then { m with due := setDel m.due num } else m) }
  ((th.setReg rd (if bad then 0 else v)).setPred qd bad).retire nh

/-- The parked thread of a REDG wakes, logged REDRES. -/
def State.deliverRed (s : State) (r : Ref) (p : Partial) : State :=
  match s.slotOf r with
  | none => s
  | some j =>
    match (s.thr r.tile j).park with
    | some ⟨.redg rd qd g num, _, nh, _⟩ =>
      if g = p.group ∧ num = p.num then
        (s.log r.tile kRedres j.val 8 .reductionResult (.part 0 p 0 (some r)) 0).setThr r.tile j
          ((s.thr r.tile j).takeRed rd qd g num nh (redValue p.ty p.value) p.mismatch)
      else s
    | _ => s

/-- A thread of the cluster parked for a result. -/
def Thread.wantsRed (th : Thread) (p : Partial) : Option Nat :=
  match th.park with
  | some ⟨.redg _ _ g num, tok, _, _⟩ => if g = p.group ∧ num = p.num then some tok else none
  | _ => none

/-- Threads of a cluster that wait for a result, on tiles that run. -/
def State.redWaiters (s : State) (cl : Nat) (p : Partial) : List Ref :=
  (s.tiles.filter (fun x => clusterOf x.1 == cl && x.2.r.ctx == p.ctx && x.2.r.mode != .fenced && !x.2.r.replay)).flatMap (fun x =>
    (x.2.c.slots.toList.filterMap id).filterMap (fun th => (th.wantsRed p).map (fun tok => ({ tile := x.1, tok := tok } : Ref))))

/-- A result is kept until all its takers have it. -/
def State.keepResult (s : State) (cl : Nat) (p : Partial) (takers : Nat) : State :=
  let c := s.cluster cl
  let rest := c.results.filter (fun x => !(x.ctx == p.ctx && x.group == p.group && x.num == p.num))
  s.setCluster cl { c with results := if takers = 0 then rest else rest ++
    [{ ctx := p.ctx, group := p.group, num := p.num, ty := p.ty, value := p.value, mismatch := p.mismatch, takers := takers }] }

def RedResult.partial_ (x : RedResult) : Partial :=
  { ctx := x.ctx, group := x.group, num := x.num, op := 0, ty := x.ty, value := x.value, count := 0, map := 0
    mismatch := x.mismatch }

/-- A result is on its way to the port of a waiting thread's tile. -/
def State.redComing (s : State) (r : Ref) : Bool :=
  s.agenda.any (fun x => x.ev == .reductionResult && (match x.arg with | .part _ _ _ (some q) => q == r | _ => false))
    || (s.tile r.tile).r.held.any (fun x => x.1 == .reductionResult && (match x.2 with | .part _ _ _ (some q) => q == r | _ => false))

/-- REDUCTION_RESULT (04 R85, 17 R371): the parked REDG callers of the cluster wake; members that have not asked yet, or whose tile is
being recovered, find the result when they do. -/
def execReductionResult (s : State) : Out :=
  match s.input with
  | .part cl p n none =>
    let ws := s.redWaiters cl p
    let s := ws.foldl (fun s r => s.after 0 .reductionResult (.part cl p n (some r))) s
    .next (s.keepResult cl p (s.localMembers cl p.ctx p.group - ws.length))
  | .part _ p _ (some r) => .next (s.deliverRed r p)
  | .ref r =>
    match s.slotOf r with
    | none => .next s
    | some j =>
      if s.redComing r then .next s
      else
      match (s.cluster (clusterOf r.tile)).results.find? (fun x =>
          x.ctx == (s.tile r.tile).r.ctx && ((s.thr r.tile j).wantsRed x.partial_).isSome) with
      | none => .next s
      | some x => .next ((s.deliverRed r x.partial_).keepResult (clusterOf r.tile) x.partial_ (x.takers - 1))
  | _ => .next s

/-- REDG (17 R371). -/
def execRedg (rd ra : Reg) (qd : Pred) (s : State) : Out :=
  s.withRegs [ra] fun th =>
    s.atHome th [rd, ra]
      (let g := bitsOf (th.reg ra) 0 16
       match (th.member? g).bind (fun m => m.due.head?) with
       | none => s.done ((th.setReg rd 0).setPred qd true)
       | some num =>
         .next ((s.park th (.redg rd qd g num)).after 1 .reductionResult (.ref s.nextRef)))

end Sys2Proof.Machine
end

