-- ==== Sys2Proof/Machine/Threads.lean ====
section
/-!
DEFINITION. SPAWN, groups and barriers, work packets, SIGA and QPOST, with the events of the group routers and of the
packet server (06 R125, R135, 04 R82, R83, 14 R288 to R296).
-/
namespace Sys2Proof.Machine

/-- The launch-time state of a thread (03 R57). -/
def launchThread (pc : Word) (seeds : List Word) (ordinal : Nat) (lid : BitVec 32) (sp splim : Word) (home : Nat)
    (hslot : Nat) (lix : BitVec 4) : Thread :=
  let th := { Thread.reset with
    pc := pc, via := pc, home := BitVec.ofNat 18 home, hslot := BitVec.ofNat 4 hslot, lix := lix, launch := lid, splim := splim }
  let th := (List.range 6).foldl (fun th i => th.setReg (Fin.ofNat 32 (i + 1)) (seeds.getD i 0)) th
  ((th.setReg 7 (BitVec.ofNat 64 ordinal)).setReg 8 (lid.setWidth 64)).setReg 29 sp

/-- Slots of tile `k` that a population has reserved and has not written yet (03 R57, 14 R298). -/
def State.reservedSlots (s : State) (k : TileId) : List Nat :=
  (s.agenda.map Timed.arg ++ (s.tile k).r.held.map Prod.snd).filterMap (fun x => match x with
    | .populate t j _ _ _ _ _ => if t = k then some j else none
    | _ => none)

/-- A migrant enters tile `k` in this cycle (14 R298): the router delivers one (06 R128). -/
def State.migrantDue (s : State) (k : TileId) : Bool :=
  (s.tile k).r.hasRoom 11 false && s.agenda.any (fun x => decide (x.due ≤ s.now) && (match x.ev, x.arg with
    | .migrantArrival, .migrant t _ _ _ => t == k
    | _, _ => false))

/-- The slot a SPAWN takes: the lowest free one that no population has reserved and no migrant of this cycle takes. What it depends on
outside the tile is kept beside the log (log 25). -/
def State.spawnSlot (s : State) : State × Option (Fin 16) :=
  let k := s.cur.tile
  let x := s.outside k .population s.cur.slot.val (fun s => (s, .words (if s.migrantDue k then 1 else 0)
    ((s.reservedSlots k).map (BitVec.ofNat 64))))
  match x.2 with
  | .words n rs =>
    (x.1, ((List.finRange 16).filter (fun j => s.here.unmasked j && (s.here.slot j).isNone && !rs.contains (BitVec.ofNat 64 j.val)))[n]?)
  | _ => (x.1, none)

/-- SPAWN (14 R289). -/
def execSpawn (rd ra rb : Reg) (s : State) : Out :=
  s.withRegs [ra, rb] fun th =>
    let k := s.cur.tile
    let top := bitsOf (th.reg rb) 0 32
    let size := bitsOf (th.reg rb) 32 32
    if top % 16 ≠ 0 ∨ size % 16 ≠ 0 ∨ top < size ∨ scrBytes s.here.c.poolcfg < top then s.trap cReservedField 0xFF th.pc
    else
      let x := s.spawnSlot
      let s := x.1
      match x.2, s.here.c.guests with
      | some j, [] =>
        let new := launchThread (BitVec.ofNat 64 (bitsOf (th.reg ra) 0 32)) [BitVec.ofNat 64 th.tid] j.val th.launch
          (BitVec.ofNat 64 top) (BitVec.ofNat 64 (top - size)) (ltnOf k) j.val th.lix
        (s.setThr k j new).done (th.setReg rd (BitVec.ofNat 64 new.tid))
      | _, _ => s.done (th.setReg rd (BitVec.allOnes 64))

/-! ### Groups (06 R125, 04 R82, R83, 14 R290) -/

/-- A request to the home router; the thread parks for its reply. Kinds from 4 on carry their answer, kind − 4. -/
def State.groupAsk (s : State) (rd ra : Reg) (what : Nat) (kind : Thread → Nat → Nat) : Out :=
  s.withRegs [ra] fun th =>
    s.atHome th [rd, ra]
      (let g := bitsOf (th.reg ra) 0 16
       .next ((s.park th (.group rd what g)).askGroup s.cur.tile th g (kind th g)
         (((th.member? g).map Membership.reds).getD 0) s.nextRef))

/-- GJOIN (14 R290): 0 for a member, 2 for a member of four groups. -/
def execGjoin (rd ra : Reg) (s : State) : Out :=
  s.groupAsk rd ra 0 fun th g => if (th.member? g).isSome then 4 else if 4 ≤ th.groups.length then 6 else 0

/-- GLEAVE (14 R290): 1 for a thread that is no member. -/
def execGleave (rd ra : Reg) (s : State) : Out :=
  s.groupAsk rd ra 1 fun th g => if (th.member? g).isSome then 1 else 5

/-- GSIZE (14 R290). -/
def execGsize (rd ra : Reg) (s : State) : Out := s.groupAsk rd ra 2 fun _ _ => 2

/-- A cluster whose local arrivals equal its local members sends its arrival to the home router (04 R83). -/
def State.tryArrive (s : State) (cl home ctx g : Nat) : State :=
  let l := (s.cluster cl).localGroup (groupKey ctx g)
  if l.waiting.length = l.members ∧ 0 < l.members ∧ !l.sent then
    let s := s.setLocal cl (groupKey ctx g) { l with sent := true }
    s.relay (cl * 32) (home * 32) 3 1 .barrierClusterArrival (.cluster home ctx g cl)
  else s

/-- The home router sends departures when every member cluster has arrived (04 R83). A cluster of late members only takes no part in
the episode; the departure makes them members. -/
def State.tryDepart (s : State) (home ctx g : Nat) : State :=
  let h := (s.cluster home).homeGroup (groupKey ctx g)
  let members := (h.counts.filter (fun x => 0 < ((s.cluster x.1).localGroup (groupKey ctx g)).members)).map Prod.fst
  if members.isEmpty || h.arrived.isEmpty || !(members.all (fun m => h.arrived.contains m)) then s
  else
    let s := s.setHome home (groupKey ctx g) { h with arrived := [] }
    h.counts.keys.foldl (fun s m => s.relay (home * 32) (m * 32) 3 1 .barrierDeparture (.cluster m ctx g home)) s

/-- A join is applied (04 R82, R83): a member that joins during an episode counts from the next. -/
def State.joinGroup (s : State) (home ctx g cl tid : Nat) : State :=
  let key := groupKey ctx g
  let h := (s.cluster home).homeGroup key
  let l := (s.cluster cl).localGroup key
  let opened := !h.arrived.isEmpty || h.counts.any (fun x => !((s.cluster x.1).localGroup key).waiting.isEmpty)
  let s := s.setHome home key { h with counts := h.counts.set cl ((h.counts.get? cl).getD 0 + 1) }
  s.setLocal cl key (if opened then { l with late := l.late ++ [tid] } else { l with members := l.members + 1 })

/-- A leave is applied (04 R82, R83); the last one dissolves the group, and one may complete an episode. The arrival of a thread that
has ended goes with it. -/
def State.leaveGroup (s : State) (home ctx g cl tid : Nat) : State :=
  let key := groupKey ctx g
  let h := (s.cluster home).homeGroup key
  let l := (s.cluster cl).localGroup key
  let n := (h.counts.get? cl).getD 0 - 1
  let counts := if n = 0 then h.counts.erase cl else h.counts.set cl n
  let l := { (if l.late.contains tid then { l with late := l.late.erase tid } else { l with members := l.members - 1 }) with
    waiting := l.waiting.filter (fun x => x.1 != tid), early := l.early.filter (fun x => x.1 != tid) }
  if counts.isEmpty then
    let s := s.setCluster home { s.cluster home with homes := (s.cluster home).homes.erase key }
    s.setCluster cl { s.cluster cl with groups := (s.cluster cl).groups.erase key }
  else
    let s := (s.setHome home key { h with counts := counts, arrived := if n = 0 then setDel h.arrived cl else h.arrived }).setLocal
      cl key l
    (s.tryArrive cl home ctx g).tryDepart home ctx g

/-- Live groups of a context in the rectangle of cluster `home`: the partition, or its shadow (04 R82, R79). -/
def State.liveGroups (s : State) (ctx home : Nat) : Nat :=
  ((s.clusters.filter (fun x => x.1 / 8192 == home / 8192)).map
    (fun x => (x.2.homes.filter (fun h => h.1 / 65536 == ctx)).length)).sum

/-- The reply of a group request comes back in C1, logged LREPLY there; the thread's own list follows it (06 R125). -/
def State.groupReply (s : State) (home : Nat) (r : Ref) (v : Nat) : State :=
  if r = noRef then s else s.relay (home * 32) r.tile 1 1 .accessReply (.reply r (.value (BitVec.ofNat 64 v)))

/-- GROUP_REQUEST (04 R82): a join, leave or size query at the home router. -/
def execGroupRequest (s : State) : Out :=
  match s.input with
  | .group home ctx g kind cl reds tid src =>
    let key := groupKey ctx g
    match kind with
    | 0 =>
      if ((s.cluster home).homes.get? key).isNone && 4096 ≤ s.liveGroups ctx home then .next (s.groupReply home src 1)
      else .next ((s.joinGroup home ctx g cl tid).groupReply home src 0)
    | 1 => .next (((s.leaveGroup home ctx g cl tid).redLeave home ctx g cl reds).groupReply home src 0)
    | 2 => .next (s.groupReply home src (((s.cluster home).homeGroup key).counts.map Prod.snd).sum)
    | n => .next (s.groupReply home src (n - 4))
  | _ => .next s

/-- GBAR (14 R290): a member's arrival is a release, goes to its cluster's router and parks until the departure; a non-member gets 1 at
once. -/
def execGbar (rd ra : Reg) (s : State) : Out :=
  s.withRegs [ra] fun th =>
    s.atHome th [rd, ra]
      (let k := s.cur.tile
       let g := bitsOf (th.reg ra) 0 16
       let cl := clusterOf k
       if (th.member? g).isNone then s.done (th.setReg rd 1)
       else
         s.release th
           (.next ((s.park th (.group rd 3 g)).packet k (cl * 32) 3 1 .barrierClusterArrival
             (.group cl s.here.r.ctx g 3 cl 0 th.tid s.nextRef))))

/-- An arrival at a member's own router (04 R83): of a thread that joined during the episode it counts in the next. -/
def State.arriveLocal (s : State) (cl ctx g tid : Nat) (r : Ref) : State :=
  let key := groupKey ctx g
  let l := (s.cluster cl).localGroup key
  let s := s.setLocal cl key (if l.late.contains tid then { l with early := l.early ++ [(tid, r)] }
                              else { l with waiting := l.waiting ++ [(tid, r)] })
  s.tryArrive cl (s.groupHome (cl * 32) g) ctx g

/-- BARRIER_CLUSTER_ARRIVAL (04 R83): a member's arrival at its router, or a cluster's at the home router. -/
def execBarrierClusterArrival (s : State) : Out :=
  match s.input with
  | .group cl ctx g _ _ _ tid r => .next (s.arriveLocal cl ctx g tid r)
  | .cluster home ctx g cl =>
    let h := (s.cluster home).homeGroup (groupKey ctx g)
    .next ((s.setHome home (groupKey ctx g) { h with arrived := setAdd h.arrived cl }).tryDepart home ctx g)
  | _ => .next s

/-- BARRIER_DEPARTURE (04 R83): the parked members wake with 0, each at its tile's port, logged DEPART; those that joined during the
episode count from now on; the cluster's read cache is invalidated (07 R154). -/
def execBarrierDeparture (s : State) : Out :=
  match s.input with
  | .cluster cl ctx g _ =>
    let key := groupKey ctx g
    let l := (s.cluster cl).localGroup key
    let s := (s.setLocal cl key
      { members := l.members + l.late.length, late := [], waiting := l.early, early := [], sent := false }).flushCache cl
    let s := l.waiting.foldl (fun s x => s.after 0 .barrierDeparture (.reply x.2 (.value 0))) s
    .next (s.tryArrive cl (s.groupHome (cl * 32) g) ctx g)
  | .reply r v =>
    match s.slotOf r with
    | none => .next s
    | some j => .next ((s.log r.tile kDepart j.val 0 .barrierDeparture s.input 0).deliver r v)
  | _ => .next s

/-! ### Work packets (06 R135, 03 R60, 14 R291) -/

def State.setCtxRec (s : State) (n : Nat) (c : Ctx) : State :=
  { s with dev := { s.dev with contexts := s.dev.contexts.set n c } }

/-- TASK (14 R291). -/
def execTask (s : State) : Out :=
  let th := s.me
  let ctx := s.here.r.ctx
  let pkq := (s.here.launchOf th.lix).pkq
  if th.held then s.trap cTaskState 1 0
  else if pkq = 0 then s.trap cTaskState 2 0
  else
    .next ((s.park th .task).askMemory s.cur.tile 3 .packetGrant (.post s.nextRef ctx pkq.toNat []))

/-- TDONE (14 R291). -/
def execTdone (s : State) : Out :=
  let th := s.me
  if !th.held then s.trap cTaskState 3 0
  else
    (s.askMemory s.cur.tile 3 .packetRetire
      (.nums3 s.here.r.ctx (s.here.launchPkq th.lix) th.pkslot.toNat)).done { th with held := false, tfmt := 0, tscl := 0 }

/-- A doubleword of little-endian bytes. -/
def wordAt (bs : List Byte) (i : Nat) : Word := BitVec.ofNat 64 (leNat ((bs.drop (8 * i)).take 8))

/-- The address of the packet at a position of a queue with 2 ^ plog entries (03 R60). -/
def packetAddr (pkq : Word) (plog pos : Nat) : Word := pkq + BitVec.ofNat 64 (64 + 64 * (pos % 2 ^ plog))

/-- The grant loads g1 to g6, tfmt and tscl (06 R135). -/
def Thread.grant (th : Thread) (p : List Byte) (slot : Nat) : Thread :=
  let th := (List.range 6).foldl (fun th i => th.setReg (Fin.ofNat 32 (i + 1)) (wordAt p i)) th
  { th with tfmt := wordAt p 6, tscl := wordAt p 7, held := true, pkslot := BitVec.ofNat 16 slot }

/-- The thread of a reference still waits, as far as is known outside a tile that is not running. -/
def State.stillParked (s : State) (r : Ref) : Bool :=
  (s.slotOf r).isSome || (s.tile r.tile).r.mode == .fenced || (s.tile r.tile).r.replay

/-- The grant reaches its thread, logged LREPLY (06 R135). -/
def State.granted (s : State) (r : Ref) (pos : Nat) (bs : List Byte) : State :=
  match s.slotOf r with
  | none => s
  | some j =>
    let s := s.log r.tile kLreply j.val 64 .packetGrant s.input (BitVec.ofNat 64 pos)
    (s.setThr r.tile j ((s.thr r.tile j).grant bs pos)).deliver r .ack

/-- PACKET_GRANT (06 R135): the packet server hears of a thread that waits; it looks at a queue for the oldest thread that waits on it. A
read that is refused or poisoned traps that thread and grants nothing. An empty queue is looked at again (log 17). -/
def execPacketGrant (s : State) : Out :=
  match s.input with
  | .post r ctx pkq _ =>
    match s.dev.ctx? ctx with
    | none => .next s
    | some c => .next ((s.setCtxRec ctx { c with tasks := c.tasks ++ [(⟨r, BitVec.ofNat 64 pkq⟩ : TaskWait)] }).after 0 .packetGrant
        (.nums ctx pkq))
  | .buffer r pos bs => .next (s.granted r pos bs)
  | .nums ctx pkq =>
    match s.dev.ctx? ctx with
    | none => .next s
    | some c =>
      let q := BitVec.ofNat 64 pkq
      let live := c.tasks.filter (fun t => t.pkq != q || s.stillParked t.src || c.res != .resident)
      match live.find? (fun t => t.pkq == q) with
      | none => .next (s.setCtxRec ctx { c with tasks := live })
      | some t =>
        let s := s.setCtxRec ctx { c with tasks := live }
        let again := (s.after (1 + Config.memLatency s.free) .packetGrant (.nums ctx pkq)).draw
        if c.res ≠ .resident ∧ (s.slotOf t.src).isNone then .next again
        else
          let hd := s.fwRead ctx q 24
          let pos := (wordAt hd.2 1).toNat
          let plog := bitsOf (wordAt hd.2 2) 0 5
          let rest := live.erase t
          if hd.1 ≠ 0 then
            .next ((s.setCtxRec ctx { c with tasks := rest }).after 0 .accessReply
              (.reply t.src (.trap { code := cTranslation, detail := hd.1, val := q })))
          else if wordAt hd.2 0 = wordAt hd.2 1 then .next again
          else
            let a := packetAddr q plog pos
            let pk := s.fwRead ctx a 64
            if pk.1 ≠ 0 then
              .next ((s.setCtxRec ctx { c with tasks := rest }).after 0 .accessReply
                (.reply t.src (.trap { code := cTranslation, detail := pk.1, val := a })))
            else
              let s := s.setCtxRec ctx { c with tasks := rest, heldPos := c.heldPos ++ [(q, pos % 2 ^ plog)] }
              let s := (s.fwWrite ctx (q + 8) (leBytes 8 (pos + 1))).1
              .next (s.after 0 .packetGrant (.buffer t.src (pos % 2 ^ plog) pk.2))
  | _ => .next s

/-- PACKET_RETIRE (06 R135): the packet's entry is free for TASKS. -/
def execPacketRetire (s : State) : Out :=
  match s.input with
  | .nums3 ctx pkq slot =>
    match s.dev.ctx? ctx with
    | none => .next s
    | some c => .next (s.setCtxRec ctx { c with heldPos := c.heldPos.filter (fun x => x != (BitVec.ofNat 64 pkq, slot)) })
  | _ => .next s

/-! ### System instructions (14 R295, R296) -/

/-- SIGA (14 R295). -/
def execSiga (ra : Reg) (s : State) : Out :=
  s.withRegs [ra] fun th => s.done (th.fold (leBytes 8 (th.reg ra).toNat))

/-- QPOST (14 R296): the 64 bytes at c go to the control die; in the shadow nothing is posted. -/
def execQpost (rd ra rb : Reg) (s : State) : Out :=
  s.withRegs [ra, rb] fun th =>
    let a := th.reg ra
    match s.poolOperand a 8 64 64 with
    | some t => (s.drawn s.cur.tile).trap t.code t.detail t.val
    | none =>
      if isShadow s.cur.tile then s.done (th.setReg rd 0)
      else
        .next ((s.park th (.qpost rd)).askMemory s.cur.tile 3 .qpostRequest
          (.post s.nextRef s.here.r.ctx (bitsOf (th.reg rb) 0 6) (s.here.c.pool.bytes (bitsOf a 0 18) 64)))

end Sys2Proof.Machine
end

