-- ==== Sys2Proof/Machine/Csr.lean ====
section
/-!
DEFINITION. The control and status registers (13 R269 to R271, and the rules each register's home gives).
-/
namespace Sys2Proof.Machine

/-- Numbers of registers that are RO or FW to a thread (13 R269). -/
def csrReadOnly (n : Nat) : Bool := [0x00, 0x01, 0x02, 0x07, 0x08, 0x09, 0x0B, 0x0F, 0x16, 0x17, 0x19, 0x27].contains n

/-- The assigned numbers (13 R269). -/
def csrAssigned (n : Nat) : Bool :=
  n ≤ 0x1A || (0x20 ≤ n && n ≤ 0x27) || (0x30 ≤ n && n ≤ 0x35)

/-- A register of a trap bank, by its number modulo 16 (09 R184). -/
def Bank.read (b : Bank) (n : Nat) : Word :=
  match n with
  | 0 => b.pc.setWidth 64
  | 1 => b.cause.setWidth 64
  | 2 => b.val
  | 3 => b.pix.setWidth 64
  | 4 => b.pw.setWidth 64
  | _ =>
    BitVec.ofNat 64 b.loops.length ||| (b.sel.setWidth 64) <<< 4
      ||| (((b.loops[b.sel.toNat]?).map (fun (e : LoopEntry) => e.count)).getD 0).setWidth 64 <<< 32

/-- A write of a bank register (09 R184). -/
def Bank.write (b : Bank) (n : Nat) (v : Word) : Bank :=
  match n with
  | 0 => { b with pc := (v.setWidth 32) &&& ~~~1#32 }
  | 1 => { b with cause := v.setWidth 17 }
  | 2 => { b with val := v }
  | 3 => { b with pix := v.setWidth 20 }
  | 4 => { b with pw := v.setWidth 16 }
  | _ =>
    let sel : BitVec 2 := BitVec.ofNat 2 (bitsOf v 4 2)
    { b with
      sel := sel
      loops := b.loops.modify sel.toNat (fun (e : LoopEntry) => { e with count := BitVec.ofNat 32 (bitsOf v 32 32) }) }

/-- The thread owns the open merge round of the tile (17 R347, R361). -/
def Tile.ownsRound (t : Tile) (k : TileId) (th : Thread) : Option Round :=
  match t.c.round with
  | some r => if th.atHome k && r.owner == th.hslot then some r else none
  | none => none

/-- CSR[n] of a thread on tile `k` (13 R269); time is read elsewhere. -/
def Tile.csr (t : Tile) (k : TileId) (th : Thread) (n : Nat) : Word :=
  match n with
  | 0x00 => BitVec.ofNat 64 (th.tid + 2 ^ 22 * th.lix.toNat)
  | 0x01 => t.c.ivn.setWidth 64
  | 0x03 => th.pix.setWidth 64
  | 0x04 => th.vlen.setWidth 64
  | 0x05 => th.frm.setWidth 64
  | 0x06 => th.fflags.setWidth 64
  | 0x07 => th.tfmt
  | 0x08 => th.tscl
  | 0x09 => t.c.gridw.setWidth 64
  | 0x0A => th.blim.setWidth 64
  | 0x0B => match t.ownsRound k th with
            | some r => BitVec.ofNat 64 (r.bnext + 65536)
            | none => 0
  | 0x0C => th.splim
  | 0x0D => th.spov
  | 0x0E => th.spovlim
  | 0x0F => t.c.poolcfg
  | 0x10 => th.fetimeo.setWidth 64
  | 0x11 => th.feretry.setWidth 64
  | 0x12 => th.sndretry.setWidth 64
  | 0x13 => t.c.migretry.setWidth 64
  | 0x14 => t.c.coltimeo.setWidth 64
  | 0x15 => t.c.redlimit.setWidth 64
  | 0x16 => th.launch.setWidth 64
  | 0x17 => th.sig
  | 0x18 => t.c.migback.setWidth 64
  | 0x19 => t.c.ivlen.setWidth 64
  | 0x1A => t.c.ovf.setWidth 64 ||| (if t.c.inv then 65536 else 0)
  | 0x26 => th.xvec.setWidth 64
  | 0x27 => th.xlvl.setWidth 64
  | n => if n < 0x26 then th.bankX.read (n % 16) else th.bankY.read (n % 16)

/-- A field value brought into its range (log 18). -/
def clampTo (lo hi v : Nat) : Nat := max lo (min hi v)

/-- A write of a register of the thread. -/
def Thread.csrWrite (th : Thread) (n : Nat) (v : Word) : Thread :=
  match n with
  | 0x03 => { th with pix := v.setWidth 20 }
  | 0x04 => { th with vlen := if v.toNat / 2 ^ 20 = 0 then v.setWidth 20 else 0xFFFFF }
  | 0x05 => if 4 ≤ bitsOf v 0 3 then th else { th with frm := v.setWidth 3 }
  | 0x06 => { th with fflags := v.setWidth 5 }
  | 0x0A => { th with blim := v.setWidth 32 }
  | 0x0C => { th with splim := v }
  | 0x0D => { th with spov := v &&& ~~~0xE#64 }
  | 0x0E => { th with spovlim := v &&& ~~~0xF#64 }
  | 0x10 => { th with fetimeo := BitVec.ofNat 33 (clampTo (2 ^ 10) (2 ^ 32) (bitsOf v 0 33)) }
  | 0x11 => { th with feretry := BitVec.ofNat 8 (clampTo 1 255 (bitsOf v 0 8)) }
  | 0x12 => { th with sndretry := BitVec.ofNat 16 (clampTo 1 65535 (bitsOf v 0 16)) }
  | 0x26 => { th with xvec := (v.setWidth 32) &&& ~~~1#32 }
  | n =>
    if 0x20 ≤ n ∧ n < 0x26 then { th with bankX := th.bankX.write (n % 16) v }
    else if 0x30 ≤ n then { th with bankY := th.bankY.write (n % 16) v }
    else th

/-- A write of a register of the tile. -/
def TileCtx.csrWrite (c : TileCtx) (n : Nat) (v : Word) : TileCtx :=
  match n with
  | 0x13 => { c with migretry := BitVec.ofNat 8 (clampTo 1 255 (bitsOf v 0 8)) }
  | 0x14 => { c with coltimeo := BitVec.ofNat 33 (clampTo (2 ^ 10) (2 ^ 32) (bitsOf v 0 33)) }
  | 0x15 => { c with redlimit := BitVec.ofNat 24 (clampTo 16 (2 ^ 24) (bitsOf v 0 24)) }
  | 0x18 => { c with migback := BitVec.ofNat 17 (clampTo 16 (2 ^ 16) (bitsOf v 0 17)) }
  | 0x1A => { c with ovf := v.setWidth 16, inv := c.inv && !v.getLsbD 16 }
  | _ => c

/-- The time a read of the thread in slot `j` of a tile in replay returned when it was logged (05 R101). -/
def Router.loggedTime (r : Router) (j : Nat) : Option Word :=
  if r.replay then (r.script.find? (fun x => x.kind == kTime && x.cyc == r.cyc && x.slot == j)).map LogRec.val else none

/-- The value a read of time returns, logged TIME (13 R271, 05 R101). -/
def State.readTime (s : State) : State × Word :=
  let v := (s.here.r.loggedTime s.cur.slot.val).getD (BitVec.ofNat 64 s.ns)
  (s.mark s.cur.tile kTime s.cur.slot.val 8 v, v)

/-- The CSR instructions (13 R270): `v` gives the value to write from the old one, or none. -/
def State.csrOp (s : State) (rd : Reg) (csr : BitVec 11) (writes : Bool) (rs : List Reg) (f : Thread → Word → Word) : Out :=
  let n := csr.toNat
  if 0x400 ≤ n then s.trap cPriv 2 (csr.setWidth 64)
  else if !csrAssigned n then s.trap cIllegal 6 s.me.pc
  else if writes && csrReadOnly n then s.trap cPriv 1 (csr.setWidth 64)
  else
    s.withRegs rs fun th =>
      if n = 2 then
        if s.recordless s.cur.tile s.cur.slot.val then .next ((s.noteFull s.cur.tile s.cur.slot.val).park th .logRec) else s.readTime.1.done (th.setReg rd s.readTime.2)
      else
        let old := s.here.csr s.cur.tile th n
        if writes then
          (s.setCtx s.cur.tile (s.here.c.csrWrite n (f th old))).done ((th.csrWrite n (f th old)).setReg rd old)
        else s.done (th.setReg rd old)

/-- CSRR (13 R270). -/
def execCsrr (rd : Reg) (csr : BitVec 11) (s : State) : Out := s.csrOp rd csr false [] fun _ old => old

/-- CSRW (13 R270). -/
def execCsrw (rd ra : Reg) (csr : BitVec 11) (s : State) : Out := s.csrOp rd csr true [ra] fun th _ => th.reg ra

/-- CSRS: with g0, nothing is written (13 R270). -/
def execCsrs (rd ra : Reg) (csr : BitVec 11) (s : State) : Out :=
  s.csrOp rd csr (ra != 0) [ra] fun th old => old ||| th.reg ra

/-- CSRC: with g0, nothing is written (13 R270). -/
def execCsrc (rd ra : Reg) (csr : BitVec 11) (s : State) : Out :=
  s.csrOp rd csr (ra != 0) [ra] fun th old => old &&& ~~~th.reg ra

end Sys2Proof.Machine
end

