-- ==== Sys2Proof/Machine/Elementary.lean ====
section
/-!
DEFINITION. The correctly rounded elementwise functions (10 R217). Exponentials are computed in integer fixed point with
480 fraction bits, of which the lowest 80 are dropped as noise; the value of a non-zero rational argument is never
exactly representable nor midway, so the dropped part is sticky (log 15).
-/
namespace Sys2Proof.Machine

/-- An engine rounding of the magnitude `m * 2 ^ e` (m not 0), with a part below it lost if `sticky` (10 R207). -/
def Fmt.engineMag (f : Fmt) (md : Mode) (neg : Bool) (m : Nat) (e : Int) (sticky : Bool) : EngVal :=
  let r := f.round md neg m e sticky
  if f.infBits ≤ r.mag then { bits := f.signed neg f.maxBits, ovf := 1, inv := false }
  else { bits := f.signed neg r.mag, ovf := 0, inv := false }

/-- Fraction bits of the fixed point. -/
def expBits : Nat := 480

/-- 1 + r/1 (1 + r/2 (… (1 + r/n · acc))) in fixed point. -/
def expHorner (r n acc : Nat) : Nat :=
  match n with
  | 0 => acc
  | n + 1 => expHorner r n (2 ^ expBits + r * acc / (2 ^ expBits * (n + 1)))

/-- Squared `n` times. -/
def expSquare (n x : Nat) : Nat :=
  match n with
  | 0 => x
  | n + 1 => expSquare n (x * x / 2 ^ expBits)

/-- e ^ (m * 2 ^ e) in fixed point, for a magnitude below 128. -/
def expFixed (m : Nat) (e : Int) : Nat :=
  let x := if e < 0 then m * 2 ^ expBits / 2 ^ e.natAbs else m * 2 ^ (expBits + e.natAbs)
  expSquare 16 (expHorner (x / 2 ^ 16) 60 (2 ^ expBits))

/-- |n * 2 ^ e| is at least 120. -/
def isFar (n e : Int) : Bool := !numLt n.natAbs e 120 0

/-- The noise below the result's last place dropped. -/
def clean (x : Nat) : Nat × Int := (x / 2 ^ 80, 80 - (expBits : Int))

/-- e ^ b of a finite non-zero b. -/
def expOf (f : Fmt) (md : Mode) (n e : Int) : EngVal :=
  if isFar n e then f.engineMag md false 1 (if n < 0 then -1000 else 1000) true
  else
    let x := expFixed n.natAbs e
    let c := clean (if n < 0 then 2 ^ (2 * expBits) / x else x)
    f.engineMag md false c.1 c.2 true

/-- 1 / (1 + e ^ −b) of a finite non-zero b: magnitude and exponent. -/
def sigmoidOf (n e : Int) : Nat × Int :=
  if isFar n e then (if n < 0 then (1, -1000) else (2 ^ 400 - 1, -400))
  else
    let x := expFixed n.natAbs e
    clean (if n < 0 then 2 ^ (2 * expBits) / (2 ^ expBits + x)
           else 2 ^ (2 * expBits) / (2 ^ expBits + 2 ^ (2 * expBits) / x))

/-- 1 / b of a finite non-zero b. -/
def recipOf (f : Fmt) (md : Mode) (n e : Int) : EngVal :=
  let q := quotient 1 n.natAbs
  f.engineMag md (decide (n < 0)) q.1 (-e - (q.2.1 : Int)) q.2.2

/-- 1 / √b of a finite positive b. -/
def rsqrtOf (f : Fmt) (md : Mode) (n : Nat) (e : Int) : EngVal :=
  let m := if e % 2 = 0 then n else 2 * n
  let e := if e % 2 = 0 then e else e - 1
  let k := 100 + m.log2
  let q := 2 ^ (2 * k) / m
  let r := isqrt q (q.log2 / 2 + 1) 0
  f.engineMag md false r (-(e / 2) - (k : Int)) (r * r * m != 2 ^ (2 * k))

/-- The result of NaN operands and of negative square roots: the canonical NaN, with invalid. -/
def Fmt.engineNan (f : Fmt) : EngVal := { bits := f.nanBits, ovf := 0, inv := true }
def Fmt.plain (f : Fmt) (neg : Bool) (mag : Nat) : EngVal := { bits := f.signed neg mag, ovf := 0, inv := false }
/-- The pattern of 1. -/
def Fmt.one (f : Fmt) : Nat := f.bias * 2 ^ f.fb

/-- VEXP (10 R217). -/
def Fmt.vexp (f : Fmt) (md : Mode) (x : FVal) : EngVal :=
  match x with
  | .nan _ => f.engineNan
  | .zero _ => f.plain false f.one
  | .inf s => f.plain false (if s then 0 else f.infBits)
  | .num n e => expOf f md n e

/-- VRCP (10 R217). -/
def Fmt.vrcp (f : Fmt) (md : Mode) (x : FVal) : EngVal :=
  match x with
  | .nan _ => f.engineNan
  | .zero s => f.plain s f.infBits
  | .inf s => f.plain s 0
  | .num n e => recipOf f md n e

/-- VRSQ (10 R217). -/
def Fmt.vrsq (f : Fmt) (md : Mode) (x : FVal) : EngVal :=
  match x with
  | .nan _ => f.engineNan
  | .zero s => f.plain s f.infBits
  | .inf s => if s then f.engineNan else f.plain false 0
  | .num n e => if n < 0 then f.engineNan else rsqrtOf f md n.natAbs e

/-- VSIGM (10 R217). -/
def Fmt.vsigm (f : Fmt) (md : Mode) (x : FVal) : EngVal :=
  match x with
  | .nan _ => f.engineNan
  | .zero _ => f.plain false (f.one - 2 ^ f.fb)
  | .inf s => f.plain false (if s then 0 else f.one)
  | .num n e => f.engineMag md false (sigmoidOf n e).1 (sigmoidOf n e).2 true

/-- VSILU (10 R217). -/
def Fmt.vsilu (f : Fmt) (md : Mode) (x : FVal) : EngVal :=
  match x with
  | .nan _ => f.engineNan
  | .zero s => f.plain s 0
  | .inf s => if s then f.plain true 0 else f.plain false f.infBits
  | .num n e => f.engineMag md (decide (n < 0)) (n.natAbs * (sigmoidOf n e).1) (e + (sigmoidOf n e).2) true

end Sys2Proof.Machine
end

