-- ==== Sys2Proof/Machine/Engine.lean ====
section
/-!
DEFINITION. The engine queues of a tile: range registration, order by overlap, starts, completions and wakes (07 R164,
R165, 08 R172, 15 R299, R303), and the operand checks of engine instructions.
-/
namespace Sys2Proof.Machine

/-! ### Range locks (07 R164) -/

/-- Entries of the range-lock table of a tile. -/
def lockEntries : Nat := 32

/-- Ranges that are not empty. -/
def usedRanges (rs : List Range) : List Range := rs.filter (fun r => decide (r.lo < r.hi))

/-- The table has room for the ranges. -/
def TileCtx.lockRoom (c : TileCtx) (rs : List Range) : Bool := c.locks.length + (usedRanges rs).length ≤ lockEntries

/-- The ranges of operation `id` of tile `src` go into the table in tile cycle `cyc`. -/
def TileCtx.register (c : TileCtx) (cyc : Nat) (src : TileId) (id : Nat) (launch : BitVec 32) (rs : List Range) : TileCtx :=
  { c with locks := c.locks ++ (usedRanges rs).map (fun r => { tile := src, op := id, launch := launch, range := r, since := cyc }) }

/-- Copies of a tile queued or active (15 R315). -/
def TileCtx.copies (c : TileCtx) : Nat := (c.ops.filter (fun o => match o.job with | .copy .. => true | _ => false)).length

/-! ### The units and their order (07 R165, log 19) -/

/-- The unit of a job: 0 vector, 1 matrix, 2 delta, 3 merge, 4 copy engine; 5 none. -/
def Job.unit (j : Job) : Nat :=
  match j with
  | .vec .. => 0
  | .red .. => 0
  | .gat .. => 0
  | .tld .. => 1
  | .accLd .. => 1
  | .accSt .. => 1
  | .accAtt .. => 1
  | .accSpl .. => 1
  | .mma .. => 1
  | .delta .. => 2
  | .dread .. => 2
  | .dscl .. => 2
  | .bnorm .. => 3
  | .commit .. => 3
  | .swapt .. => 4
  | .copy .. => 4
  | .colld .. => 4
  | .hold => 5

/-- Operations that stop at a progress point for a pre-emption (06 R136); of the others a copy that its thread waits for, a SWAPT and a fill
of ACCATT stop at a part of theirs, and the rest complete (log 26). -/
def Job.stops (j : Job) : Bool :=
  match j with
  | .vec .. => true
  | .red .. => true
  | .gat .. => true
  | .mma .. => true
  | .delta .. => true
  | .dread .. => true
  | .dscl .. => true
  | .accLd .. => true
  | .accSt .. => true
  | .bnorm .. => true
  | .commit .. => true
  | _ => false

def Job.isCopy (j : Job) : Bool := match j with | .copy .. => true | _ => false

/-- Two ranges meet, and one is written. -/
def Range.conflicts (a b : Range) : Bool := (a.write || b.write) && decide (a.lo < b.hi) && decide (b.lo < a.hi)

/-- The ranges of an operation by tile, none for its own. -/
def EngOp.allRanges (o : EngOp) : List (Option TileId × Range) :=
  o.ranges.map (fun r => (none, r)) ++ o.far.map (fun f => (some f.tile, f.range))

/-- Two operations of a tile meet in some pool (07 R165). -/
def EngOp.conflicts (a b : EngOp) : Bool :=
  a.allRanges.any (fun r => b.allRanges.any (fun q => r.1 == q.1 && r.2.conflicts q.2))

/-- The ticket of a copy to a span peer (15 R315). -/
def Job.spanTicket (j : Job) : Option Nat :=
  match j with
  | .copy _ ticket _ _ dst _ => if spaceOf dst.base = 9 then some ticket else none
  | _ => none

/-- An operation may start: its unit is free, no earlier overlapping operation is pending, its ranges elsewhere are
registered, its thread's earlier stores are performed (07 R165, 08 R172, 15 R315). -/
def TileCtx.canStart (c : TileCtx) (o : EngOp) : Bool :=
  let earlier := c.ops.takeWhile (fun x => x.id != o.id)
  o.started.isNone && o.listed && o.job.unit != 5
    && (o.job.unit == 4 || !(c.ops.any (fun x => x.started.isSome && x.job.unit == o.job.unit)))
    && !(earlier.any (fun x => x.conflicts o && x.job != .hold))
    && (o.job.unit != 3 || !(earlier.any (fun x => x.job.unit == 3)))
    && o.far.all (fun f => f.granted)
    && !(c.outq.any (fun p => p.launch == o.launch && p.tid == o.tid && decide (p.issued ≤ o.issued)))
    && (match o.job.spanTicket with
        | some t => !(earlier.any (fun x => x.job.spanTicket == some t))
        | none => true)

def TileCtx.setOp (c : TileCtx) (id : Nat) (f : EngOp → EngOp) : TileCtx :=
  { c with ops := c.ops.map (fun o => if o.id = id then f o else o) }

/-- A tile that stops for a pre-emption starts only copies that no thread waits for (06 R136, log 26). -/
def Router.starts (r : Router) (o : EngOp) : Bool :=
  r.mode != .stopping || (match o.job with | .copy f _ _ _ _ _ => f != 1 | _ => false)

/-- Operations whose turn has come get their start on the agenda, oldest first (07 R165). -/
def State.kick (s : State) (k : TileId) : State :=
  (s.tile k).c.ops.foldl (fun s o =>
    if (s.tile k).c.canStart o && (s.tile k).r.starts o && !o.asked then
      (s.setCtx k ((s.tile k).c.setOp o.id (fun o => { o with asked := true }))).after 1 .engineOpStart (.op k o.id)
    else s) s

/-! ### Issue -/

/-- Initial value of VRED member `f`; it is also the result for no elements. Float values are F32 patterns. -/
def redInit (f : Nat) (ty : ETy) : Int :=
  match f with
  | 3 => if ty.isFloat then 0xFF800000 else minInt 64
  | 4 => if ty.isFloat then 0x7F800000 else maxInt 64
  | _ => 0

/-- The running value a job starts from (15 R301). -/
def Job.init (j : Job) : Int := match j with | .red f ty _ _ _ _ => redInit f ty | _ => 0

/-- Other tiles of a copy's ranges are asked to register them (07 R164). -/
def State.askRanges (s : State) (k : TileId) (o : EngOp) : State :=
  ((o.far.map FarRange.tile).dedup).foldl (fun s t =>
    s.packet k t 3 1 .rangeLockRequest
      (.range t k o.id o.launch ((o.far.filter (fun f => f.tile == t && !f.granted)).map FarRange.range))) s

/-- An operation enters the queue of tile `k` under the next number: its ranges are registered if there is room, else it waits there
for entries (07 R164). -/
def State.enqueue (s : State) (k : TileId) (o : EngOp) : State :=
  let c := (s.tile k).c
  let o := { o with id := c.nextOp, issued := (s.tile k).r.cyc, listed := c.lockRoom o.ranges }
  let c' := if o.listed then c.register (s.tile k).r.cyc k o.id o.launch o.ranges else c
  (s.setCtx k { c' with ops := c'.ops ++ [o], nextOp := c.nextOp + 1 }).askRanges k o

/-- An operation as it is issued. -/
def EngOp.fresh (slot : Option (Fin 16)) (th : Thread) (job : Job) (rs : List Range) (far : List FarRange) (pix : Nat) (sigAt : Option Nat) : EngOp :=
  { id := 0, slot := slot, launch := th.launch, tid := th.tid, cmd := none, job := job, ranges := usedRanges rs, far := far, pix := pix
    run := job.init, buf := [], asked := false, started := none, issued := 0, listed := false, sigAt := sigAt, wrote := []
    fault := none }

/-- An operation of the acting thread enters the queue. The thread, given as it then stands, parks until completion if `parks` says
so; else it parks only while the operation waits for range-lock entries (07 R164). -/
def State.issueOp (s : State) (th : Thread) (job : Job) (rs : List Range) (far : List FarRange) (parks : Option Reg)
    (pix : Nat) (sigAt : Option Nat) : Out :=
  let k := s.cur.tile
  let id := s.here.c.nextOp
  let room := s.here.c.lockRoom (usedRanges rs)
  let s' := s.enqueue k (EngOp.fresh (parks.map (fun _ => s.cur.slot)) th job rs far pix sigAt)
  match parks with
  | some rd => .next ((s'.park th (.op id rd)).kick k)
  | none => if room then (s'.kick k).done th else .next ((s'.park th (.listed id)).kick k)

/-- A long instruction that is over at its start: pix at or beyond its extent (13 R271). -/
def State.nothingLeft (s : State) (th : Thread) : Out := s.done { th with pix := 0 }

/-! ### Completion -/

/-- Operations that waited for range-lock entries take them as they are there, oldest first (07 R164). -/
def TileCtx.listOps (c : TileCtx) (cyc : Nat) (k : TileId) : TileCtx :=
  c.ops.foldl (fun c o =>
    if o.listed || !c.lockRoom o.ranges then c
    else (c.register cyc k o.id o.launch o.ranges).setOp o.id (fun o => { o with listed := true })) c

/-- Threads whose copy has its entries go on; the wake is logged ECOMP (07 R164). -/
def State.endListed (s : State) (k : TileId) : State :=
  (List.finRange 16).foldl (fun s j =>
    match (s.tile k).slot j with
    | some th =>
      match th.park with
      | some ⟨.listed id, _, nh, _⟩ =>
        if (s.tile k).c.ops.any (fun o => o.id == id && !o.listed) then s
        else if s.recordless k j.val then (s.noteFull k j.val).after 1 .engineOpStart (.tile k)
        else (s.mark k kEcomp j.val 0 0).setThr k j (th.retire nh)
      | _ => s
    | none => s) s

/-- The tile's queues are looked at again: operations take free lock entries, threads that waited for entries, copy slots or a record
go on, operations start, DRAINs end. -/
def State.afterRelease (s : State) (k : TileId) : State :=
  let s := s.setCtx k ((s.tile k).c.listOps (s.tile k).r.cyc k)
  let s := s.endListed k
  let s := s.wakeAll k kEcomp (fun _ w => match w with
    | .lockSpace => decide ((s.tile k).c.locks.length < lockEntries)
    | .copySlots => decide ((s.tile k).c.copies < 16)
    | _ => false)
  (s.kick k).endDrains k

/-- The table without the entries of operation `id` of tile `src`. -/
def TileCtx.unlock (c : TileCtx) (src : TileId) (id : Nat) : TileCtx :=
  { c with locks := c.locks.filter (fun l => !(l.tile == src && l.op == id)) }

/-- The operation leaves the queue and its tile's lock table (07 R164); its entries in other tables went with its last data there. -/
def State.releaseOp (s : State) (k : TileId) (o : EngOp) : State :=
  let c := (s.tile k).c.unlock k o.id
  let s := s.setCtx k { c with ops := c.ops.filter (fun x => x.id != o.id) }
  (s.afterRelease k).lookAt (s.tile k).r.ctx (c.lixOf o.launch)

/-- The thread parked on operation `id` of tile `k`. -/
def State.opRef (s : State) (k : TileId) (id : Nat) : Option Ref :=
  (List.finRange 16).findSome? (fun j =>
    match (s.tile k).slot j with
    | some th =>
      match th.park with
      | some ⟨.op i _, tok, _, _⟩ => if i = id then some { tile := k, tok := tok } else none
      | _ => none
    | none => none)

/-- The wake of a parked thread, marked ECOMP; with the log area full it waits for a record (05 R102). -/
def State.wakeOp (s : State) (r : Ref) (v : Reply) : State :=
  match s.slotOf r with
  | none => s
  | some j =>
    if s.recordless r.tile j.val then (s.noteFull r.tile j.val).after 1 .engineOpComplete (.reply r v)
    else (s.mark r.tile kEcomp j.val 8 0).deliver r v

/-- The operation stands at progress point `hi`, and so does the thread parked on it (09 R194). -/
def State.reach (s : State) (k : TileId) (o : EngOp) (hi : Nat) : State :=
  let s := s.setCtx k ((s.tile k).c.setOp o.id (fun o => { o with pix := hi }))
  match o.slot with
  | some j => s.setThr k j { s.thr k j with pix := BitVec.ofNat 20 hi }
  | none => s

/-- The operation stops at progress point `hi` for a pre-emption, and starts again from there (06 R136). -/
def State.pauseAt (s : State) (k : TileId) (o : EngOp) (hi : Nat) : State :=
  let s := s.reach k o hi
  s.setCtx k ((s.tile k).c.setOp o.id (fun o => { o with started := none, asked := false }))

/-- The operation is over: its ranges are released and its thread wakes. -/
def State.endOp (s : State) (k : TileId) (o : EngOp) (v : Reply) : State :=
  let r := s.opRef k o.id
  let s := s.releaseOp k o
  match r with
  | some r => s.wakeOp r v
  | none => s

/-! ### What an engine writes -/

/-- The pool and the events of an engine step. -/
structure Eng where
  pool : Memory
  ovf : Nat
  inv : Bool
  deriving DecidableEq, Repr

def Eng.of (m : Memory) : Eng := { pool := m, ovf := 0, inv := false }

/-- A value written with its events counted. -/
def Eng.put (e : Eng) (a n : Nat) (v : EngVal) : Eng :=
  { pool := e.pool.write a n v.bits, ovf := e.ovf + v.ovf, inv := e.inv || v.inv }

/-- A counter stops at 0xFFFF (10 R209). -/
def satAdd (x : BitVec 16) (n : Nat) : BitVec 16 := BitVec.ofNat 16 (min 0xFFFF (x.toNat + n))

/-- Lines that an engine wrote become dirty, those still to ship are latched. -/
def State.markLines (s : State) (k : TileId) (ls : List Nat) : State :=
  let t := s.tile k
  s.setTile k
    { c := { t.c with dirty := ls.foldl setAdd t.c.dirty }
      r := { t.r with ship := t.r.ship.map (fun sh => ls.foldl Ship.latch sh) } }

/-- Lines that an operation of tile `k` is about to write are latched; `false` if the capture buffer cannot take them all yet. Replay,
which ships anew, finds what the first run found (05 R94, log 25). -/
def State.captureOp (s : State) (k : TileId) (id : Nat) (ls : List Nat) : State × Bool :=
  let r := (s.tile k).r
  let x := s.latchLines k ls
  if r.replay then if r.noted .captureEntryFree (16 + id) then (s.logRec k 0 (16 + id) 0 false .captureEntryFree .none 0, false) else (s, true)
  else if x.2 then x
  else (x.1.logRec k 0 (16 + id) 0 false .captureEntryFree .none 0, false)

/-- Lines of the ranges that are written. -/
def writeLines (ranges : List Range) : List Nat :=
  (ranges.filter (fun r => r.write)).flatMap (fun r => linesOf r.lo (r.hi - r.lo))

/-- The engine's pool becomes the tile's, its events count in estat (10 R208, R219; log 9). -/
def State.engDone (s : State) (k : TileId) (e : Eng) (ranges : List Range) : State :=
  let s := s.markLines k (writeLines ranges)
  s.setCtx k { (s.tile k).c with
    pool := e.pool, ovf := satAdd (s.tile k).c.ovf e.ovf, inv := (s.tile k).c.inv || e.inv }

/-! ### Operand checks (15 R299) -/

/-- The checks of one engine operand: space 0x0 with bit 18 clear, alignment, the scratchpad. -/
def State.engOperand (s : State) (a : Word) (align len : Nat) : Option TrapInfo :=
  if spaceOf a ≠ 0 ∨ a.getLsbD 18 then some { code := cAddressSpace, detail := 3, val := a }
  else if a.toNat % align ≠ 0 then some { code := cAlign, detail := align, val := a }
  else if rangeRegion s.here.c.poolcfg a.toNat (a.toNat + len) ≠ 0 then
    some { code := cProtect, detail := rangeRegion s.here.c.poolcfg a.toNat (a.toNat + len), val := a }
  else none

/-- The first operand check that fails. -/
def State.engChecks (s : State) (xs : List (Word × Nat × Nat)) : Option TrapInfo :=
  xs.findSome? (fun x => s.engOperand x.1 x.2.1 x.2.2)

def State.trapInfo (s : State) (t : TrapInfo) : Out := s.trap t.code t.detail t.val

end Sys2Proof.Machine
end

