-- ==== Sys2Proof/Machine/Vector.lean ====
section
/-!
DEFINITION. The vector stream unit: VEC, VRED and VGAT (15 R299 to R307).
-/
namespace Sys2Proof.Machine

/-! ### Elements (15 R304) -/

/-- An operation of two operands of one class: floats rounded once by mode, integers exact and then wrapped or
saturated. -/
def arith (ts td : ETy) (md : Mode) (sat : Bool) (ff : FVal → FVal → FVal) (fi : Int → Int → Int) (b c : Nat) : EngVal :=
  if td.isFloat then toFloat td md (ff (ETy.value ts b) (ETy.value ts c))
  else intTo td sat (fi (ETy.int ts b) (ETy.int ts c))

/-- A power of two times a value (VSCL). Beyond a hundred thousand either way every format has left its range. -/
def FVal.scale (x : FVal) (c : Int) : FVal :=
  match x with
  | .num n e => .num n (e + (if c < -100000 then -100000 else if 100000 < c then 100000 else c))
  | x => x

/-- VCMP: the condition by S; a NaN operand is unordered, and invalid for LT and LE. -/
def vecCompare (ts : ETy) (rm b c : Nat) : EngVal :=
  let one (v : Bool) (inv : Bool) : EngVal := { bits := if v then 1 else 0, ovf := 0, inv := inv }
  if ts.isInt then
    let x := ETy.int ts b
    let y := ETy.int ts c
    one (match rm with | 0 => x == y | 1 => x != y | 2 => decide (x < y) | _ => decide (x ≤ y)) false
  else
    let x := ETy.value ts b
    let y := ETy.value ts c
    if x.isNan || y.isNan then one (rm == 1) (decide (2 ≤ rm))
    else one (match rm with | 0 => x.eq y | 1 => !x.eq y | 2 => x.lt y | _ => x.lt y || x.eq y) false

/-- Element value of VEC member `f` from the patterns of b, c and e; `cv` is the whole scalar register (15 R304). -/
def vecElem (f : Nat) (ts td : ETy) (rm : Nat) (sat : Bool) (i : Nat) (b c e : Nat) (cv : Word) : EngVal :=
  let md := Mode.of rm
  match f with
  | 0 => arith ts td md sat (FVal.add md) (fun x y => x + y) b c
  | 1 => arith ts td md sat (fun x y => FVal.add md x y.neg) (fun x y => x - y) b c
  | 2 => arith ts td md sat FVal.mul (fun x y => x * y) b c
  | 3 => arith ts td md sat (nanOr FVal.max) max b c
  | 4 => arith ts td md sat (nanOr FVal.min) min b c
  | 5 => arith ts td md sat (fun x _ => x.abs) (fun x _ => |x|) b b
  | 6 => arith ts td md sat (fun x _ => x.neg) (fun x _ => -x) b b
  | 7 => if td.isFloat then toFloat td md (fusedSum md [FVal.mul (ETy.value ts b) (ETy.value ts c), ETy.value ts e])
         else intTo td sat (ETy.int ts b * ETy.int ts c + ETy.int ts e)
  | 8 => (ETy.fmt td).vexp md (ETy.value ts b)
  | 9 => (ETy.fmt td).vrcp md (ETy.value ts b)
  | 10 => (ETy.fmt td).vrsq md (ETy.value ts b)
  | 11 => (ETy.fmt td).vsigm md (ETy.value ts b)
  | 12 => (ETy.fmt td).vsilu md (ETy.value ts b)
  | 13 => convert ts td md sat b
  | 14 => { bits := c, ovf := 0, inv := false }
  | 15 => { bits := b, ovf := 0, inv := false }
  | 16 => intTo td sat (ETy.int td c + i)
  | 17 =>
    let x := if e = 0 then c else b
    if td.isFloat then toFloat td md (ETy.value ts x) else { bits := x, ovf := 0, inv := false }
  | 18 => vecCompare ts rm b c
  | _ => toFloat td md ((ETy.value ts b).scale cv.toInt)

/-- Size of the elements E names: a byte for VSEL. -/
def vecSizeE (f : Nat) (ts : ETy) : Nat := if f = 17 then 1 else ETy.size ts

/-- The scalar c (15 R304): the low bytes of gC that the member takes. -/
def vecScalar (f : Nat) (ts td : ETy) (cv : Word) : Nat :=
  if f = 14 ∨ f = 16 then cv.toNat % 2 ^ ETy.bits td else cv.toNat % 2 ^ ETy.bits ts

/-- `n` elements from element `i` on, in increasing index (15 R302). -/
def vecLoop (f : Nat) (ts td : ETy) (rm : Nat) (sc sat : Bool) (a b c e : Nat) (cv : Word) (i n : Nat) (g : Eng) : Eng :=
  match n with
  | 0 => g
  | n + 1 =>
    let vb := if vecUsesB f then g.pool.read (b + i * ETy.size ts) (ETy.size ts) else 0
    let vc := if sc then vecScalar f ts td cv else if vecUsesC f then g.pool.read (c + i * ETy.size ts) (ETy.size ts) else 0
    let ve := if vecUsesE f then g.pool.read (e + i * vecSizeE f ts) (vecSizeE f ts) else 0
    let g := g.put (a + i * ETy.size td) (ETy.size td) (vecElem f ts td rm sat i vb vc ve cv)
    vecLoop f ts td rm sc sat a b c e cv (i + 1) n g

/-- The issue of VEC member `f` (15 R299, R301). -/
def State.vec (s : State) (f : Nat) (o : VecOps) : Out :=
  let rs := [o.a] ++ (if vecUsesB f then [o.b] else []) ++ (if vecUsesC f then [o.c] else [])
    ++ (if vecUsesE f then [o.e] else [])
  s.withRegs rs fun th =>
    let n := th.vlen.toNat
    let a := th.reg o.a
    let b := th.reg o.b
    let c := th.reg o.c
    let e := th.reg o.e
    let ss := ETy.size o.ts
    let xs := [(a, ETy.size o.td, n * ETy.size o.td)] ++ (if vecUsesB f then [(b, ss, n * ss)] else [])
      ++ (if vecUsesC f && !o.sc then [(c, ss, n * ss)] else [])
      ++ (if vecUsesE f then [(e, vecSizeE f o.ts, n * vecSizeE f o.ts)] else [])
    match s.engChecks xs with
    | some t => s.trapInfo t
    | none =>
      if n ≤ th.pix.toNat then s.nothingLeft th
      else
        let rd := (xs.drop 1).map (fun x => ({ lo := x.1.toNat, hi := x.1.toNat + x.2.2, write := false } : Range))
        s.issueOp th (.vec f o.ts o.td o.rm o.sc o.sat a.toNat b.toNat c.toNat e.toNat c n)
          (rd ++ [{ lo := a.toNat, hi := a.toNat + n * ETy.size o.td, write := true }]) [] (some 0) th.pix.toNat none

/-! ### Reductions (15 R306) -/

/-- Exact terms of float elements `i` to `i + n − 1`. -/
def redTerms (f : Nat) (ty : ETy) (m : Memory) (a b i n : Nat) : List FVal :=
  (List.range n).map (fun d =>
    let x := ETy.value ty (m.read (a + (i + d) * ETy.size ty) (ETy.size ty))
    match f with
    | 1 => FVal.mul x x
    | 5 => FVal.mul x (ETy.value ty (m.read (b + (i + d) * ETy.size ty) (ETy.size ty)))
    | _ => x)

/-- A rounding that keeps events: pattern and events so far. -/
def addEvents (v : EngVal) (ovf : Nat) (inv : Bool) : EngVal := { v with ovf := v.ovf + ovf, inv := v.inv || inv }

/-- One block of a float reduction into the running value. -/
def redBlock (f : Nat) (run : Nat) (ts : List FVal) : EngVal :=
  let r := f32.decode run
  match f with
  | 2 => rneF32 (ts.foldl (fun r t => nanOr FVal.max r t.abs) r)
  | 3 => rneF32 (ts.foldl (nanOr FVal.max) r)
  | 4 => rneF32 (ts.foldl (nanOr FVal.min) r)
  | _ =>
    let t := rneF32 (fusedSum .rne ts)
    addEvents (rneF32 (FVal.add .rne r (f32.decode t.bits))) t.ovf t.inv

/-- One integer element into the exact running value. -/
def redInt (f : Nat) (ty : ETy) (m : Memory) (a b i : Nat) (run : Int) : Int :=
  let x := ETy.int ty (m.read (a + i * ETy.size ty) (ETy.size ty))
  match f with
  | 0 => run + x
  | 1 => run + x * x
  | 2 => max run |x|
  | 3 => max run x
  | 4 => min run x
  | _ => run + x * ETy.int ty (m.read (b + i * ETy.size ty) (ETy.size ty))

/-- `n` blocks from block `k` on, of `len` elements in all: running value and events. -/
def redLoop (f : Nat) (ty : ETy) (m : Memory) (a b len k n : Nat) (run : Int) (ovf : Nat) (inv : Bool) : Int × Nat × Bool :=
  match n with
  | 0 => (run, ovf, inv)
  | n + 1 =>
    let cnt := min 16 (len - 16 * k)
    if ty.isFloat then
      let v := redBlock f run.toNat (redTerms f ty m a b (16 * k) cnt)
      redLoop f ty m a b len (k + 1) n v.bits (ovf + v.ovf) (inv || v.inv)
    else
      let run := (List.range cnt).foldl (fun r d => redInt f ty m a b (16 * k + d) r) run
      redLoop f ty m a b len (k + 1) n run ovf inv

/-- The result register's value (15 R306): F32 zero-extended, or I64 saturated and counted. -/
def redResult (ty : ETy) (run : Int) : EngVal :=
  if ty.isFloat then { bits := run.toNat, ovf := 0, inv := false } else clampInt 64 run

/-- The issue of VRED member `f`. An empty vector gives the empty result at once (15 R299). -/
def State.red (s : State) (f : Nat) (ty : ETy) (rd ra rb : Reg) : Out :=
  s.withRegs (if f = 5 then [ra, rb] else [ra]) fun th =>
    let n := th.vlen.toNat
    let sz := ETy.size ty
    let xs := [(th.reg ra, sz, n * sz)] ++ (if f = 5 then [(th.reg rb, sz, n * sz)] else [])
    match s.engChecks xs with
    | some t => s.trapInfo t
    | none =>
      if n = 0 then s.nothingLeft (th.setReg rd (BitVec.ofInt 64 (redInit f ty)))
      else if n ≤ th.pix.toNat then s.nothingLeft th
      else
        s.issueOp th (.red f ty (th.reg ra).toNat (th.reg rb).toNat n rd)
          (xs.map (fun x => ({ lo := x.1.toNat, hi := x.1.toNat + x.2.2, write := false } : Range))) [] (some rd)
          (th.pix.toNat / 16 * 16) none

/-! ### Gather and scatter (15 R307) -/

/-- Index width in bytes. -/
def gatWidth (x32 : Bool) : Nat := if x32 then 4 else 2

/-- `n` elements from element `i` on: the pool after, and the element at which an index left the scratchpad, with the
PROTECT trap. -/
def gatLoop (cfg : Word) (f : Nat) (ty : ETy) (x32 : Bool) (rm t0 lin x i n : Nat) (g : Eng) : Eng × Option (Nat × TrapInfo) :=
  match n with
  | 0 => (g, none)
  | n + 1 =>
    let sz := ETy.size ty
    let a := t0 + g.pool.read (x + i * gatWidth x32) (gatWidth x32) * sz
    if rangeRegion cfg a (a + sz) ≠ 0 then
      (g, some (i, { code := cProtect, detail := rangeRegion cfg a (a + sz), val := BitVec.ofNat 64 a }))
    else
      let l := lin + i * sz
      let g := match f with
        | 0 => { g with pool := g.pool.setBytes l (g.pool.bytes a sz) }
        | 1 => { g with pool := g.pool.setBytes a (g.pool.bytes l sz) }
        | _ => g.put a sz (arith ty ty (Mode.of rm) false (FVal.add (Mode.of rm)) (fun x y => x + y)
                 (g.pool.read a sz) (g.pool.read l sz))
      gatLoop cfg f ty x32 rm t0 lin x (i + 1) n g

/-- The issue of VGAT member `f`: 0 VGATH, 1 VSCAT, 2 VSCADD. The table base is B for a gather, A for a scatter. -/
def State.gat (s : State) (f rm : Nat) (o : GatOps) : Out :=
  s.withRegs [o.a, o.b, o.c] fun th =>
    let n := th.vlen.toNat
    let sz := ETy.size o.ty
    let a := th.reg o.a
    let b := th.reg o.b
    let c := th.reg o.c
    let w := gatWidth o.x32
    let lenA := if f = 0 then n * sz else 0
    let lenB := if f = 0 then 0 else n * sz
    match s.engChecks [(a, sz, lenA), (b, sz, lenB), (c, w, n * w)] with
    | some t => s.trapInfo t
    | none =>
      if n ≤ th.pix.toNat then s.nothingLeft th
      else
        let t0 := if f = 0 then b.toNat else a.toNat
        let lin := if f = 0 then a.toNat else b.toNat
        let top := min (t0 + 2 ^ (8 * w) * sz) (scrBytes s.here.c.poolcfg)
        s.issueOp th (.gat f o.ty o.x32 rm t0 lin c.toNat n)
          [{ lo := lin, hi := lin + n * sz, write := f == 0 }, { lo := c.toNat, hi := c.toNat + n * w, write := false },
           { lo := t0, hi := top, write := f != 0 }] [] (some 0) th.pix.toNat none

/-- VADD (15 R304). -/
def execVadd (o : VecOps) (s : State) : Out := s.vec 0 o

/-- VSUB (15 R304). -/
def execVsub (o : VecOps) (s : State) : Out := s.vec 1 o

/-- VMUL (15 R304). -/
def execVmul (o : VecOps) (s : State) : Out := s.vec 2 o

/-- VMAX (15 R304). -/
def execVmax (o : VecOps) (s : State) : Out := s.vec 3 o

/-- VMIN (15 R304). -/
def execVmin (o : VecOps) (s : State) : Out := s.vec 4 o

/-- VABS (15 R304). -/
def execVabs (o : VecOps) (s : State) : Out := s.vec 5 o

/-- VNEG (15 R304). -/
def execVneg (o : VecOps) (s : State) : Out := s.vec 6 o

/-- VFMA (15 R304). -/
def execVfma (o : VecOps) (s : State) : Out := s.vec 7 o

/-- VEXP (15 R304). -/
def execVexp (o : VecOps) (s : State) : Out := s.vec 8 o

/-- VRCP (15 R304). -/
def execVrcp (o : VecOps) (s : State) : Out := s.vec 9 o

/-- VRSQ (15 R304). -/
def execVrsq (o : VecOps) (s : State) : Out := s.vec 10 o

/-- VSIGM (15 R304). -/
def execVsigm (o : VecOps) (s : State) : Out := s.vec 11 o

/-- VSILU (15 R304). -/
def execVsilu (o : VecOps) (s : State) : Out := s.vec 12 o

/-- VCVT (15 R304). -/
def execVcvt (o : VecOps) (s : State) : Out := s.vec 13 o

/-- VSET (15 R304). -/
def execVset (o : VecOps) (s : State) : Out := s.vec 14 o

/-- VCPY (15 R304). -/
def execVcpy (o : VecOps) (s : State) : Out := s.vec 15 o

/-- VIOTA (15 R304). -/
def execViota (o : VecOps) (s : State) : Out := s.vec 16 o

/-- VSEL (15 R304). -/
def execVsel (o : VecOps) (s : State) : Out := s.vec 17 o

/-- VCMP (15 R304). -/
def execVcmp (o : VecOps) (s : State) : Out := s.vec 18 o

/-- VSCL (15 R304). -/
def execVscl (o : VecOps) (s : State) : Out := s.vec 19 o

/-- VSUM (15 R306). -/
def execVsum (ty : ETy) (rd ra : Reg) (s : State) : Out := s.red 0 ty rd ra 0

/-- VSSQ (15 R306). -/
def execVssq (ty : ETy) (rd ra : Reg) (s : State) : Out := s.red 1 ty rd ra 0

/-- VAMAX (15 R306). -/
def execVamax (ty : ETy) (rd ra : Reg) (s : State) : Out := s.red 2 ty rd ra 0

/-- VMAXR (15 R306). -/
def execVmaxr (ty : ETy) (rd ra : Reg) (s : State) : Out := s.red 3 ty rd ra 0

/-- VMINR (15 R306). -/
def execVminr (ty : ETy) (rd ra : Reg) (s : State) : Out := s.red 4 ty rd ra 0

/-- VDOT (15 R306). -/
def execVdot (ty : ETy) (rd ra rb : Reg) (s : State) : Out := s.red 5 ty rd ra rb

/-- VGATH (15 R307). -/
def execVgath (o : GatOps) (s : State) : Out := s.gat 0 0 o

/-- VSCAT (15 R307). -/
def execVscat (o : GatOps) (s : State) : Out := s.gat 1 0 o

/-- VSCADD (15 R307). -/
def execVscadd (rm : Fin 4) (o : GatOps) (s : State) : Out := s.gat 2 rm o

end Sys2Proof.Machine
end

