-- ==== Sys2Proof/Machine/Copy.lean ====
section
/-!
DEFINITION. Layout records and copies (15 R308 to R317, R320).
-/
namespace Sys2Proof.Machine

/-! ### The layout record (15 R308, R313) -/

/-- The 768 bits of a record. -/
def recordNat (ws : List Word) : Nat := match ws with | [] => 0 | w :: ws => w.toNat + 2 ^ 64 * recordNat ws

def natBits (x lo n : Nat) : Nat := x / 2 ^ lo % 2 ^ n
/-- A two's-complement field of `n` bits (20 R375). -/
def natInt (x lo n : Nat) : Int := (BitVec.ofNat n (natBits x lo n)).toInt
def maskBits (lo n : Nat) : Nat := (2 ^ n - 1) * 2 ^ lo

/-- Bits of a record that must be zero (15 R308). -/
def reservedBits (x : Nat) (dest : Bool) : Nat :=
  let rank := natBits x 68 3
  let dims := (List.range 5).foldl (fun m d =>
    m ||| maskBits (128 + 64 * d + 56) 8
      ||| (if rank ≤ d then maskBits (128 + 64 * d) 64 ||| maskBits (448 + 36 * d) 36 else 0)) 0
  maskBits 71 1 ||| maskBits 86 10 ||| (if dest || natBits x 85 1 == 0 then maskBits 96 32 else 0) ||| dims
    ||| maskBits 628 12 ||| maskBits 656 112

/-- The first doubleword with a reserved bit set. -/
def reservedDw (x : Nat) (dest : Bool) : Option Nat :=
  (List.range 12).find? (fun i => natBits (x &&& reservedBits x dest) (64 * i) 64 != 0)

/-- The record's fields. -/
def parseLayout (x : Nat) : Layout :=
  { base := BitVec.ofNat 64 x, ty := Fin.ofNat 8 (natBits x 64 4), rank := natBits x 68 3, ilv := natBits x 72 4
    gran := natBits x 76 4, round := natBits x 80 4, sat := natBits x 84 1 == 1, fill := natBits x 85 1 == 1
    fillbits := natBits x 96 32
    dims := (List.range (natBits x 68 3)).map (fun d =>
      { ext := natBits x (128 + 64 * d) 20, win := natBits x (128 + 64 * d + 20) 16
        org := natInt x (128 + 64 * d + 36) 20, str := natInt x (448 + 36 * d) 36 }) }

def Layout.size (l : Layout) : Nat := ETy.size l.ty
/-- Window length of dimension `d`; 1 beyond the rank. -/
def Layout.win (l : Layout) (d : Nat) : Nat := (l.dims[d]?.map Dim.win).getD 1
/-- Positions of the window (15 R309). -/
def Layout.count (l : Layout) : Nat := (l.dims.map Dim.win).foldl (· * ·) 1

/-- The window leaves the extents (15 R311). -/
def Layout.leaves (l : Layout) : Bool := l.dims.any (fun d => decide (d.org < 0) || decide ((d.ext : Int) < d.org + d.win))

/-- The first LAYOUT code of one record (15 R313). -/
def layoutCode (x : Nat) (dest : Bool) : Option Nat :=
  let l := parseLayout x
  let g := 2 ^ l.gran
  if natBits x 640 16 ≠ 1 then some 1
  else if 8 ≤ natBits x 64 4 then some 2
  else if l.rank = 0 ∨ 6 ≤ l.rank then some 3
  else if 3 ≤ l.ilv ∨ (l.ilv = 0 ∧ l.gran ≠ 0) ∨
      (l.ilv ≠ 0 ∧ (l.gran < 3 ∨ 9 < l.gran ∨ g < l.size ∨ l.base.toNat % (16 * g) ≠ 0)) then some 4
  else if (if dest then 4 ≤ l.round else l.round ≠ 0 ∨ l.sat) then some 5
  else if l.dims.any (fun d => d.ext == 0 || d.win == 0) then some 6
  else if !dest && l.leaves && !l.fill then some 8
  else if dest && l.leaves && !l.fill then some 9
  else if l.base.toNat % l.size ≠ 0 then some 0xA
  else none

/-- The fault of one record, at address `a`. -/
def recordFault (x : Nat) (dest : Bool) (a : Word) : Option TrapInfo :=
  match reservedDw x dest with
  | some i => some { code := cReservedField, detail := i, val := a }
  | none => (layoutCode x dest).map (fun c => { code := cLayout, detail := c + (if dest then 0x80 else 0), val := a })

/-! ### Positions and addresses (15 R309, R310) -/

/-- Tensor indices of the `k`-th position in traversal order. -/
def positionOf (ds : List Dim) (k : Nat) : List Int :=
  match ds with
  | [] => []
  | d :: ds => (d.org + ((k % d.win : Nat) : Int)) :: positionOf ds (k / d.win)

def insideAll (ds : List Dim) (is : List Int) : Bool :=
  (ds.zip is).all (fun x => decide (0 ≤ x.2) && decide (x.2 < x.1.ext))

/-- swz (15 R310). -/
def swizzle (ilv gran : Nat) (o : Int) : Int :=
  if ilv = 0 then o
  else
    let g : Int := 2 ^ gran
    let b := o / (16 * g)
    let j := (o / g % 16).toNat
    let bm := (b % 16).toNat
    let j' := if ilv = 1 then j ^^^ bm else (j + bm) % 16
    b * (16 * g) + (j' : Int) * g + o % g

/-- Offset from the base of tensor indices, before the interleave. -/
def Layout.offset (l : Layout) (is : List Int) : Int := l.size * ((l.dims.zip is).map (fun x => x.2 * x.1.str)).sum

/-- The address of an element (15 R309). -/
def Layout.address (l : Layout) (is : List Int) : Int := l.base.toNat + swizzle l.ilv l.gran (l.offset is)

/-- The bounding range of the inside elements, as exact addresses; none if no element is inside (15 R313). -/
def Layout.bounds (l : Layout) : Option (Int × Int) :=
  let rs := l.dims.map (fun (d : Dim) =>
    ((max d.org 0, min (d.org + Int.ofNat d.win) (Int.ofNat d.ext) - 1, d.str) : Int × Int × Int))
  if rs.any (fun r => decide (r.2.1 < r.1)) then none
  else
    let lo := l.size * (rs.map (fun r => min (r.1 * r.2.2) (r.2.1 * r.2.2))).sum
    let hi := l.size * (rs.map (fun r => max (r.1 * r.2.2) (r.2.1 * r.2.2))).sum + l.size
    let blk : Int := 16 * 2 ^ l.gran
    if l.ilv = 0 then some (l.base.toNat + lo, l.base.toNat + hi)
    else some (l.base.toNat + lo / blk * blk, l.base.toNat + ((hi - 1) / blk + 1) * blk)

/-! ### Spaces, paths, ranges (15 R313, R314, 07 R166) -/

/-- The tile whose pool a copy address in spaces 0x0 to 0x2 names. -/
def copyTile (k : TileId) (a : Word) : TileId := if spaceOf a = 0 then k else namedTile k a

/-- The pool offset, within the tile of `base`, of an exact address. -/
def poolOffset (base : Word) (a : Int) : Int := a - ((base.toNat - base.toNat % 2 ^ 18 : Nat) : Int)

/-- The DRAIN path of one side (07 R166). -/
def pathOf (k : TileId) (a : Word) : Nat :=
  match spaceOf a with
  | 0 => 0
  | 1 => 1
  | 2 => if clusterOf (namedTile k a) = clusterOf k then 1 else 2
  | 4 => 3
  | 8 => 4
  | _ => 5

/-- The pairs of 15 R314. -/
def pairOk (src dst : Nat) : Bool :=
  ([0, 1, 2, 4].contains src && [0, 1, 2, 4, 8, 9].contains dst) || (src == 8 && [0, 1, 2, 4].contains dst)

/-- A dense destination (15 R318). -/
def Layout.dense (l : Layout) : Bool :=
  l.ilv == 0 && !l.fill && l.dims.all (fun d => d.org == 0 && d.win == d.ext)
    && (List.range l.rank).all (fun i =>
      match i with
      | 0 => (l.dims[0]?.map Dim.str).getD 1 == 1
      | j + 1 => (l.dims[j + 1]?.map Dim.str).getD 0 ==
          (l.dims[j]?.map Dim.str).getD 0 * ((l.dims[j]?.map Dim.ext).getD 0 : Int))
    && l.count * l.size ≤ 2 ^ 21

/-- The pool range of a record, if it names one. -/
def Layout.poolRange (l : Layout) (k : TileId) : Option (TileId × Nat × Nat) :=
  if 3 ≤ spaceOf l.base then none
  else l.bounds.map (fun b => (copyTile k l.base, (poolOffset l.base b.1).toNat, (poolOffset l.base b.2).toNat))

/-- The ranges of two records overlap in one pool. -/
def poolsOverlap (k : TileId) (a b : Layout) : Bool :=
  match a.poolRange k, b.poolRange k with
  | some x, some y => x.1 == y.1 && decide (x.2.1 < y.2.2) && decide (y.2.1 < x.2.2)
  | _, _ => false

/-- The cross-record codes (15 R313 step 4) of member `f`: 0 CPY, 1 CPYS, 2 CPYX. -/
def crossCode (k : TileId) (f : Nat) (z : Bool) (a b : Layout) : Option Nat :=
  if (List.range 5).any (fun d => a.win d != b.win d) then some 7
  else if !pairOk (spaceOf a.base) (spaceOf b.base) || (spaceOf b.base == 9 && !b.dense) then some 0xB
  else if f = 2 ∧ (a.ty ≠ b.ty ∨ a.fill ∨ b.fill ∨ b.round ≠ 0 ∨ b.sat ∨ 8 ≤ spaceOf a.base ∨ 8 ≤ spaceOf b.base ∨ z) then
    some 0xD
  else if poolsOverlap k a b then some 0xE
  else if f = 1 ∧ 2 ^ 20 - 1 < b.count then some 0xF
  else none

/-- Checks 1 to 7 of 07 R148 on the bounding range of a record at address `ra` (15 R313 step 5). -/
def State.boundsCheck (s : State) (k : TileId) (l : Layout) (ra : Word) : Option TrapInfo :=
  let cfg := (s.tile k).c.poolcfg
  match l.bounds with
  | none => none
  | some b =>
    let ends := [BitVec.ofInt 64 b.1, BitVec.ofInt 64 (b.2 - 1)]
    if ends.any (fun v => spaceOf v != spaceOf l.base || !bitsNamed v) then some { code := cAddressSpace, detail := 1, val := ra }
    else if spaceOf l.base < 3 then
      let lo := poolOffset l.base b.1
      let hi := poolOffset l.base b.2
      if spaceOf l.base ≠ 0 ∧ !s.inPartition k (copyTile k l.base) then some { code := cAddressSpace, detail := 2, val := ra }
      else if lo < 0 ∨ ends.any isShared then some { code := cProtect, detail := 3, val := ra }
      else if rangeRegion cfg lo.toNat hi.toNat ≠ 0 then
        some { code := cProtect, detail := rangeRegion cfg lo.toNat hi.toNat, val := ra }
      else none
    else
      let lo : Int := ((l.base.toNat / 2 ^ 40 * 2 ^ 40 : Nat) : Int)
      if spaceOf l.base = 9 ∧ (b.1 < lo ∨ lo + 2 ^ 40 < b.2) then some { code := cAddressSpace, detail := 1, val := ra } else none

/-! ### Moving elements (15 R311, R312, R320) -/

/-- Where a record's elements are: in the pool of a tile, or beyond the gateway. -/
def Layout.at_ (l : Layout) (k : TileId) : Option TileId := if spaceOf l.base < 3 then some (copyTile k l.base) else none

/-- Where the gateway of cluster `cl` finds an address in context `ctx`: the TRANSLATION detail, and the place (07 R152, 02 R28). -/
def State.gatePlace (s : State) (cl ctx : Nat) (host write : Bool) (a : Int) : Nat × Nat :=
  let va := (a % 2 ^ 48).toNat
  let g := match (s.cluster cl).cachedTrans ctx host va with
    | some e => grant e.log e.pa e.rd e.wr write va
    | none =>
      match s.walk ctx host va with
      | .fault d => (0, d)
      | .leaf log pa rd wr => grant log pa rd wr write va
  if g.2 ≠ 0 then (g.2, 0)
  else if host then
    match s.dev.dmaCheck ctx g.1 write with
    | none => (2, 0)
    | some h => (0, h)
  else (0, g.1)

/-- A part of a copy read `n` bytes at an exact address beyond the gateway; it bypasses the read cache (07 R154). -/
def State.xferRead (s : State) (x : Xfer) (host : Bool) (a : Int) (n : Nat) : Nat × List Byte :=
  let p := s.gatePlace (clusterOf x.tile) x.ctx host false a
  if p.1 ≠ 0 then (p.1, [])
  else if host then (0, s.host.bytes p.2 n)
  else if s.dev.poisonedRange p.2 n then (5, [])
  else (0, s.cellar.bytes p.2 n)

/-- The pattern of element `i` of a record of the copy, or the fill value (15 R311); a detail if its read is refused. -/
def State.elemAt (s : State) (x : Xfer) (l : Layout) (i : Nat) : Nat × Nat :=
  let is := positionOf l.dims i
  if insideAll l.dims is then
    match l.at_ x.tile with
    | some t => (0, leNat ((s.tile t).c.pool.bytes (poolOffset l.base (l.address is)).toNat l.size))
    | none =>
      let r := s.xferRead x (spaceOf l.base == 8) (l.address is) l.size
      (r.1, leNat r.2)
  else
    let v := if l.ty = 3 then ((BitVec.ofNat 32 l.fillbits).signExtend 64).toNat else l.fillbits % 2 ^ (8 * l.size)
    (0, v)

/-- Conversion of an element between two records (15 R312). -/
def moveElem (a b : Layout) (x : Nat) : EngVal :=
  if a.ty = b.ty then { bits := x, ovf := 0, inv := false } else convert a.ty b.ty (Mode.of b.round) b.sat x

/-- What is written for element `i`, unless it is clipped. -/
def Layout.put (l : Layout) (i : Nat) (bs : List Byte) : List Put :=
  let is := positionOf l.dims i
  if insideAll l.dims is then [{ elem := i, addr := l.address is, bytes := bs }] else []

/-- Elements whose value is undefined (15 R315, log 6): `gen` gives the free bytes. -/
def Layout.freePuts (l : Layout) (gen : Nat → Byte) (i n : Nat) : List Put :=
  (List.range n).flatMap (fun d => l.put (i + d) ((List.range l.size).map (fun j => gen ((i + d) * l.size + j))))

/-- Free bytes that tile `k` uses (log 6). -/
def State.freeOf (s : State) (k : TileId) : Nat → Byte :=
  fun j => Config.byte (((s.tile k).c.draws + j) * 2 ^ 21 + k)

/-- Free bytes used outside tiles (log 6). -/
def State.freeHere (s : State) : Nat → Byte := fun j => Config.byte ((s.free + j) * 2 ^ 21 + 2 ^ 20)

/-- Elements `i` to `i + n − 1` read from record `a` and converted for record `b`: what is written, the events, the fault. -/
def State.gatherElems (s : State) (x : Xfer) (a b : Layout) (side i n : Nat) : List Put × Nat × Bool × Option CopyFault :=
  match n with
  | 0 => ([], 0, false, none)
  | n + 1 =>
    let e := s.elemAt x a i
    if e.1 ≠ 0 then ([], 0, false, some { elem := i, detail := e.1, side := side, time := s.now })
    else
      let v := moveElem a b e.2
      let r := s.gatherElems x a b side (i + 1) n
      (b.put i (leBytes b.size v.bits) ++ r.1, r.2.1 + v.ovf, r.2.2.1 || v.inv, r.2.2.2)

/-- Elements from the first fault on are free values; a CPYS writes none (15 R315, R316). -/
def Xfer.rest (x : Xfer) (l : Layout) (gen : Nat → Byte) (i : Nat) : List Put :=
  if x.f = 1 then [] else l.freePuts gen i (x.hi - i)

/-- Stage 0: the source elements are read and converted (15 R312). -/
def State.readStage (s : State) (x : Xfer) (gen : Nat → Byte) : Xfer :=
  if x.bad then { x with puts := x.rest x.dst gen x.lo, stage := 1 }
  else
    let r := s.gatherElems x x.src x.dst 1 x.lo (x.hi - x.lo)
    let tail := match r.2.2.2 with | none => [] | some f => x.rest x.dst gen f.elem
    { x with puts := r.1 ++ tail, ovf := r.2.1, inv := r.2.2.1, fault := r.2.2.2, stage := 1 }

/-- The elements of the other window of a CPYX are read before they are overwritten (15 R317). -/
def State.backStage (s : State) (x : Xfer) (gen : Nat → Byte) : Xfer :=
  if x.f ≠ 2 then x
  else
    let stop := if x.bad then x.lo else (x.fault.map CopyFault.elem).getD x.hi
    let r := s.gatherElems x x.dst x.src 2 x.lo (stop - x.lo)
    let cut := (r.2.2.2.map CopyFault.elem).getD stop
    let puts := if cut < stop then x.puts.filter (fun p => decide (p.elem < cut)) ++ x.rest x.dst gen cut else x.puts
    { x with back := r.1 ++ x.rest x.src gen cut, puts := puts, fault := r.2.2.2.orElse (fun _ => x.fault) }

/-- Elements written to the pool of tile `t`. -/
def State.poolPuts (s : State) (t : TileId) (base : Word) (ps : List Put) : State :=
  ps.foldl (fun s p => s.poolWrite t (poolOffset base p.addr).toNat p.bytes) s

/-- Elements written beyond the gateway, one after another: cellar writes update the line that the read cache of the tile's cluster
holds (07 R154). From a refused one on, the rest are undefined; a CPYS writes no more. -/
def State.outPuts (s : State) (x : Xfer) (l : Layout) (gen : Nat → Byte) (side : Nat) (ps : List Put) (fault : Option CopyFault) :
    State × Option CopyFault :=
  match ps with
  | [] => (s, fault)
  | p :: ps =>
    let host := spaceOf l.base == 8
    let pl := s.gatePlace (clusterOf x.tile) x.ctx host true p.addr
    if pl.1 ≠ 0 then
      let f := fault.orElse (fun _ => some { elem := p.elem, detail := pl.1, side := side, time := s.now })
      if x.f = 1 then (s, f) else s.outPuts x l gen side ps f
    else
      let late := match fault with | some f => decide (f.elem < p.elem) | none => false
      let bs := if late then (List.range p.bytes.length).map (fun j => gen (p.elem * l.size + j)) else p.bytes
      let s := if host then s.hostWrite pl.2 bs
        else (s.setCluster (clusterOf x.tile) ((s.cluster (clusterOf x.tile)).updateLine pl.2 bs)).cellarWrite pl.2 bs
      s.outPuts x l gen side ps fault

/-- Cellar bytes of the elements of a record in [i, i + n). -/
def State.elemBytes (s : State) (x : Xfer) (l : Layout) (i n : Nat) : List Nat :=
  (List.range n).flatMap (fun d =>
    let is := positionOf l.dims (i + d)
    let pl := s.gatePlace (clusterOf x.tile) x.ctx false true (l.address is)
    if insideAll l.dims is && pl.1 == 0 then (List.range l.size).map (fun j => pl.2 + j) else [])

/-- Lines that the copy has written whole lose their poison (05 R89). -/
def State.cleanCopied (s : State) (x : Xfer) (l : Layout) (hi : Nat) : State :=
  if s.dev.poison.isEmpty || spaceOf l.base != 4 then s
  else
    let pas := s.elemBytes x l x.start (hi - x.start)
    s.clean (((pas.map (fun a => a / 64)).dedup).filter (fun i => (List.range 64).all (fun j => pas.contains (i * 64 + j))))

/-- The bytes in which the two cellar windows of a CPYX meet are undefined (15 R317). -/
def State.blurOverlap (s : State) (x : Xfer) : State :=
  if x.f ≠ 2 ∨ spaceOf x.src.base ≠ 4 ∨ spaceOf x.dst.base ≠ 4 then s
  else
    let bs := s.elemBytes x x.dst 0 x.dst.count
    let both := (s.elemBytes x x.src 0 x.src.count).filter (fun a => bs.contains a)
    let gen := s.freeHere
    let s := (List.range both.length).foldl (fun s i => s.cellarWrite (both.getD i 0) [gen i]) s
    { s with free := s.free + both.length }

/-- Elements of a record before the operation's start, as they now stand: a paired launch's copy that resumes folds them too (03 R64,
log 21). -/
def State.earlierPuts (s : State) (x : Xfer) (l : Layout) : List Put :=
  (List.range x.start).flatMap (fun i => l.put i (leBytes l.size (s.elemAt x l i).2))

/-- Stage 1 or 2 beyond the gateway: the elements are written. -/
def State.writeStage (s : State) (x : Xfer) : State × Xfer :=
  let gen := s.freeHere
  let x := if x.stage = 1 then s.backStage x gen else x
  let l := if x.stage = 1 then x.dst else x.src
  let ps := if x.stage = 1 then x.puts else x.back
  let early := if x.sig && x.lo == x.start then s.earlierPuts x l else []
  let r := s.outPuts x l gen (if x.stage = 1 then 2 else 1) ps x.fault
  let up (ps : List Put) : List Put := if x.stage = 1 then ps else ps.map (fun p => { p with elem := p.elem + x.src.count })
  let y := { x with fault := r.2, wrote := x.wrote ++ (if x.sig then up (early ++ ps) else []), stage := if x.f = 2 && x.stage == 1 then 2 else 3 }
  let s := { r.1 with free := r.1.free + (x.hi * l.size) }
  let s := match r.2 with
    | some f => if x.bad then s else s.cleanCopied x l f.elem
    | none => if x.hi = x.dst.count && !x.bad then s.cleanCopied x l x.hi else s
  (if y.stage = 3 && y.hi == y.dst.count && !y.bad && y.fault.isNone then s.blurOverlap y else s, y)

/-- Pages of a record that a part of the copy uses. -/
def Xfer.pages (x : Xfer) (l : Layout) : List (Bool × Nat) :=
  if spaceOf l.base ≠ 4 ∧ spaceOf l.base ≠ 8 then []
  else ((List.range (x.hi - x.lo)).filterMap (fun d =>
    let is := positionOf l.dims (x.lo + d)
    if insideAll l.dims is then some (spaceOf l.base == 8, ((l.address is) % 2 ^ 48).toNat / 65536) else none)).dedup

/-- The first page of the stage that is neither cached nor looked up (07 R152). -/
def State.pageMissing (s : State) (x : Xfer) : Option (Bool × Nat) :=
  (x.pages (if x.stage = 1 then x.dst else x.src)).find? (fun p =>
    !x.walked.contains p && ((s.cluster (clusterOf x.tile)).cachedTrans x.ctx p.1 (p.2 * 65536)).isNone)

/-- Events of a copy count in estat of the issuing tile (10 R208). -/
def State.countEstat (s : State) (k : TileId) (ovf : Nat) (inv : Bool) : State :=
  s.setCtx k { (s.tile k).c with ovf := satAdd (s.tile k).c.ovf ovf, inv := (s.tile k).c.inv || inv }

/-! ### Issue (15 R313 to R317) -/

/-- A record's twelve doublewords: from the pool, or from the read buffer. -/
def State.recordWords (s : State) (th : Thread) (a : Word) : Option (List Word) :=
  if spaceOf a = 0 then
    some ((List.range 12).map (fun i => BitVec.ofNat 64 (s.here.c.pool.read (a.toNat + 8 * i) 8)))
  else (List.range 12).mapM (fun i => th.readBuf (a + BitVec.ofNat 64 (8 * i)))

/-- Step 1 of 15 R313, and the region of a record in the pool. -/
def State.recordAddr (_s : State) (a : Word) (dest : Bool) : Option TrapInfo :=
  if (spaceOf a ≠ 0 ∧ spaceOf a ≠ 4) ∨ a.toNat % 8 ≠ 0 then
    some { code := cLayout, detail := 0xC + (if dest then 0x80 else 0), val := a }
  else none

/-- A record in the pool lies in the scratchpad. -/
def State.recordRegion (s : State) (a : Word) : Option TrapInfo :=
  if spaceOf a = 0 ∧ rangeRegion s.here.c.poolcfg a.toNat (a.toNat + 96) ≠ 0 then
    some { code := cProtect, detail := rangeRegion s.here.c.poolcfg a.toNat (a.toNat + 96), val := a }
  else none

/-- The validation of both records, read (15 R313 steps 3 to 5). -/
def State.recordsFault (s : State) (k : TileId) (f : Nat) (z : Bool) (ra rb : Word) (x y : Nat) : Option TrapInfo :=
  let a := parseLayout x
  let b := parseLayout y
  match recordFault x false ra with
  | some t => some t
  | none =>
    match recordFault y true rb with
    | some t => some t
    | none =>
      match crossCode k f z a b with
      | some c => some { code := cLayout, detail := c + 0x80, val := rb }
      | none =>
        match s.boundsCheck k a ra with
        | some t => some t
        | none => s.boundsCheck k b rb

/-- The ranges a copy registers (15 R315, R317): those of its own tile, and those of others. -/
def copyRanges (k : TileId) (f : Nat) (a b : Layout) : List (TileId × Range) :=
  let one (l : Layout) (w : Bool) : List (TileId × Range) :=
    match l.poolRange k with
    | some x => [(x.1, { lo := x.2.1, hi := x.2.2, write := w })]
    | none => []
  one a (f == 2) ++ one b true

/-! ### The signature of a paired launch (03 R64, log 21) -/

/-- The records whose windows a copy writes outside the pools: destination, and for CPYX the source. -/
def outsides (f : Nat) (a b : Layout) : List Layout :=
  ([b] ++ (if f = 2 then [a] else [])).filter (fun l => spaceOf l.base == 4 || spaceOf l.base == 8)

/-- The CRC-32C of what was written, in ascending order of addresses. -/
def putsCrc (ps : List Put) : Nat := (crc32c ((sortBy (fun p q => decide (p.addr ≤ q.addr)) ps).flatMap Put.bytes)).toNat

/-- The CRCs of a copy's windows outside the pools; those of a CPYX source are numbered from `count` on. -/
def windowCrcs (f : Nat) (a b : Layout) (ps : List Put) : List Nat :=
  let one (l : Layout) (low : Bool) : List Nat :=
    if spaceOf l.base = 4 ∨ spaceOf l.base = 8 then [putsCrc (ps.filter (fun p => decide (p.elem < b.count) == low))] else []
  one b true ++ (if f = 2 then one a false else [])

/-- What a copy folds: each base with its CRC. -/
def foldBytes (ls : List Layout) (crcs : List Nat) : List Byte :=
  (ls.zip crcs).flatMap (fun x => leBytes 8 x.1.base.toNat ++ leBytes 8 x.2)

/-- The difference that the CRCs make to a chain that folded zeros for them and `after` bytes since: the chain is linear. -/
def lateFold (crcs : List Nat) (after : Nat) : Word :=
  match crcs with
  | [] => 0
  | c :: cs => fold64 0 (leBytes 8 c ++ cs.flatMap (fun c => leBytes 8 0 ++ leBytes 8 c) ++ List.replicate after 0)

/-- The thread issues copy `id` of tile `k`, whose bytes are not known yet. -/
def Thread.oweCopy (th : Thread) (k : TileId) (id : Nat) (ls : List Layout) : Thread :=
  let th := th.fold (foldBytes ls (ls.map (fun _ => 0)))
  { th with copies := th.copies ++ [(k, id, th.sigLen)] }

/-- A copy that shadow tile `k` does not perform: what it would write (15 R320). -/
def State.wouldWrite (s : State) (k : TileId) (f : Nat) (a b : Layout) : List Put :=
  let x : Xfer := { tile := k, id := 0, launch := 0, ctx := (s.tile k).r.ctx, f := f, src := a, dst := b, lo := 0, hi := b.count, start := 0
                    bad := false, sig := false, stage := 0, puts := [], back := [], wrote := [], ovf := 0, inv := false, fault := none
                    walked := [], ro := false, ticket := 0, z := false }
  let one (l m : Layout) : List Put := if spaceOf m.base = 4 ∨ spaceOf m.base = 8 then (s.gatherElems x l m 1 0 b.count).1 else []
  one a b ++ (if f = 2 then (one b a).map (fun p => { p with elem := p.elem + b.count }) else [])

/-- The CRCs of a copy that the shadow folds at its issue; what it reads from outside its pool is a note, which replay finds again (log
21, log 25). -/
def State.shadowCrcs (s : State) (k : TileId) (f : Nat) (a b : Layout) : State × List Nat :=
  let r := (s.tile k).r
  let j := s.cur.slot.val
  let old := (r.script.find? (fun x => x.kind == 0 && x.cyc == r.cyc && x.ev == .copyComplete && x.slot == j)).map (fun x => x.val.toNat)
  let crcs := windowCrcs f a b (s.wouldWrite k f a b)
  let crcs := match r.replay, old with
    | true, some v => if crcs.length = 2 then [v % 2 ^ 32, v / 2 ^ 32] else [v]
    | _, _ => crcs
  (s.logRec k 0 j 0 false .copyComplete .none (BitVec.ofNat 64 (crcs.headD 0 + 2 ^ 32 * (crcs.drop 1).headD 0)), crcs)

/-- CPY, CPYS and CPYX (15 R313 to R317): member `f`, ticket, records at gA and gB. -/
def State.copyInstr (s : State) (f : Nat) (ticket : Fin 32) (ra rb : Reg) (z : Bool) : Out :=
  s.withRegs [ra, rb] fun th =>
    let k := s.cur.tile
    let a := th.reg ra
    let b := th.reg rb
    match (s.recordAddr a false).orElse (fun _ => (s.recordAddr b true).orElse (fun _ =>
        (s.recordRegion a).orElse (fun _ => s.recordRegion b))) with
    | some t => s.trapInfo t
    | none =>
      match s.recordWords th a, s.recordWords th b with
      | none, _ => s.readFor th a 96 false
      | some _, none => s.readFor th b 96 false
      | some x, some y =>
        match s.recordsFault k f z a b (recordNat x) (recordNat y) with
        | some t => s.trapInfo t
        | none =>
          let src := parseLayout (recordNat x)
          let dst := parseLayout (recordNat y)
          let path := max (pathOf k src.base) (pathOf k dst.base)
          let start := if f = 1 then th.pix.toNat else 0
          if isShadow k ∧ (4 ≤ spaceOf dst.base ∨ (f = 2 ∧ 4 ≤ spaceOf src.base)) then
            let x := if (s.here.launchOf th.lix).paired then s.shadowCrcs k f src dst else (s, [])
            let th := if (s.here.launchOf th.lix).paired then th.fold (foldBytes (outsides f src dst) x.2) else th
            x.1.done { th with pix := if f = 1 then 0 else th.pix }
          else if f = 1 ∧ dst.count ≤ th.pix.toNat then s.nothingLeft th
          else if 16 ≤ s.here.c.copies then .next (s.park th .copySlots)
          else
            let rs := copyRanges k f src dst
            let here := (rs.filter (fun r => r.1 == k)).map Prod.snd
            let far := (rs.filter (fun r => r.1 != k)).map (fun r => ({ tile := r.1, range := r.2, granted := false } : FarRange))
            let paired := (s.here.launchOf th.lix).paired && !(outsides f src dst).isEmpty
            let th := if paired && f != 1 then th.oweCopy k s.here.c.nextOp (outsides f src dst) else th
            s.issueOp th (.copy f ticket.val path src dst z) here far (if f = 1 then some 0 else none) start
              (if paired then some th.sigLen else none)

/-- CPY (15 R315). -/
def execCpy (t : Fin 32) (ra rb : Reg) (z : Bool) (s : State) : Out := s.copyInstr 0 t ra rb z

/-- CPYS (15 R316). -/
def execCpys (t : Fin 32) (ra rb : Reg) (z : Bool) (s : State) : Out := s.copyInstr 1 t ra rb z

/-- CPYX (15 R317). -/
def execCpyx (t : Fin 32) (ra rb : Reg) (z : Bool) (s : State) : Out := s.copyInstr 2 t ra rb z

/-! ### A copy under way -/

def TileCtx.op? (c : TileCtx) (id : Nat) : Option EngOp := c.ops.find? (fun o => o.id == id)

/-- A copy has what it folds: the thread that issued it, if it is on the tile, else the launch takes it in (03 R64, log 21). -/
def State.payCopy (s : State) (k : TileId) (o : EngOp) (f : Nat) (a b : Layout) : State :=
  let crcs := windowCrcs f a b o.wrote
  let j := (List.finRange 16).find? (fun j =>
    match (s.tile k).slot j with | some th => th.copies.any (fun c => c.1 == k && c.2.1 == o.id) | none => false)
  match j with
  | some j =>
    let th := s.thr k j
    let at_ := ((th.copies.find? (fun c => c.1 == k && c.2.1 == o.id)).map (fun c => c.2.2)).getD 0
    s.setThr k j { th with sig := th.sig ^^^ lateFold crcs (th.sigLen - at_)
                           copies := th.copies.filter (fun c => !(c.1 == k && c.2.1 == o.id)) }
  | none =>
    s.inject k { src := k, dst := memoryPort, cls := 3, lat := 1, slow := false, ev := .launchEnd
                 arg := .words k (BitVec.ofNat 64 ((s.tile k).c.lixOf o.launch) :: BitVec.ofNat 64 o.id :: crcs.map (BitVec.ofNat 64)) }

/-- The signature's part of a finished copy. -/
def State.foldCopy (s : State) (k : TileId) (o : EngOp) (f : Nat) (a b : Layout) : State :=
  if o.sigAt.isNone then s
  else if f ≠ 1 then s.payCopy k o f a b
  else
    match o.slot with
    | some j => if o.fault.isSome then s else s.setThr k j ((s.thr k j).fold (foldBytes (outsides f a b) (windowCrcs f a b o.wrote)))
    | none => s

/-- A copy is over: a fault is taken precisely at CPYS, else recorded for a DRAIN on its path (15 R315, R316). A copy of
a COPY command completes its command instead, with the doubleword the refused address came from (03 R51). -/
def State.finishCopy (s : State) (k : TileId) (o : EngOp) : State :=
  match o.job, o.cmd with
  | .copy f ticket path a b _, none =>
    let s := s.foldCopy k o f a b
    match o.fault with
    | none => s.endOp k o .ack
    | some x =>
      if f = 1 then
        s.endOp k o (.fault { code := cTranslation, detail := x.detail, val := BitVec.ofNat 64 ticket } x.elem)
      else
        let s := s.setCtx k { (s.tile k).c with
          deferred := (s.tile k).c.deferred ++
            [{ launch := o.launch, tid := o.tid, path := path, issued := o.issued, since := x.time, code := cTranslation, detail := x.detail
               val := BitVec.ofNat 64 ticket }] }
        s.endOp k o .ack
  | .copy .., some (q, id) =>
    let out : Nat × Nat × Nat := match o.fault with
      | none => (0, 0, 0)
      | some x => (1, cTranslation + 256 * x.detail, x.side)
    (s.endOp k o .ack).inject k
      { src := k, dst := memoryPort, cls := 3, lat := 1, slow := false, ev := .commandComplete
        arg := .words q [BitVec.ofNat 64 id, BitVec.ofNat 64 out.1, BitVec.ofNat 64 out.2.1, BitVec.ofNat 64 out.2.2] }
  | _, _ => s.endOp k o .ack

/-- The copy of an operation stays within the pool of tile `k` (15 R315). -/
def isLocalCopy (k : TileId) (a b : Layout) : Bool := a.at_ k == some k && b.at_ k == some k

/-- Elements that one packet of copy data carries: 256 bytes (05 R101), or a block to a peer (15 R318). -/
def chunkElems (b : Layout) : Nat := if spaceOf b.base = 9 then 4096 / b.size else 256 / b.size

/-- A part of a copy of tile `k` from element `lo` to `hi`. -/
def EngOp.xfer (o : EngOp) (k : TileId) (ctx f ticket : Nat) (a b : Layout) (z : Bool) (lo hi : Nat) : Xfer :=
  { tile := k, id := o.id, launch := o.launch, ctx := ctx, f := f, src := a, dst := b, lo := lo, hi := hi, start := o.pix
    bad := o.fault.isSome, sig := o.sigAt.isSome, stage := 0, puts := [], back := [], wrote := [], ovf := 0, inv := false, fault := none
    walked := [], ro := false, ticket := ticket, z := z }

/-- Where a part of a copy goes next. -/
def Xfer.place (x : Xfer) : Option TileId :=
  match x.stage with
  | 0 => x.src.at_ x.tile
  | 1 => x.dst.at_ x.tile
  | 2 => x.src.at_ x.tile
  | _ => some x.tile

/-- Flits of a part of a copy: a header, and data where it carries any. -/
def Xfer.flits (x : Xfer) : Nat := 1 + (((x.puts ++ x.back).map (fun p => p.bytes.length)).sum + 31) / 32

/-- A part of a copy leaves for its next place: from tile `a` as an injection of its core, or of its router alone (`own` false), or
from memory. -/
def State.carry (s : State) (fr : Option TileId) (own : Bool) (x : Xfer) : State :=
  match fr, x.place with
  | some a, some b =>
    if own then s.packet a b 4 x.flits .copyDataArrival (.xfer (some b) x)
    else s.relay a b 4 x.flits .copyDataArrival (.xfer (some b) x)
  | some a, none =>
    if own then s.inject a { src := a, dst := memoryPort, cls := 4, lat := 1, slow := true, ev := .copyDataArrival, arg := .xfer none x }
    else if (s.tile a).r.quiet then s
    else (s.sendOn a memoryPort 4 (1 + Config.memLatency s.free) .copyDataArrival (.xfer none x)).draw
  | none, some b => (s.sendOn memoryPort b 4 (1 + Config.memLatency s.free) .copyDataArrival (.xfer (some b) x)).draw
  | none, none => s.after 1 .copyDataArrival (.xfer none x)

/-- Free bytes that tile `k` may have used for elements below `hi`. -/
def State.drawnFor (s : State) (k : TileId) (x : Xfer) : State :=
  if x.bad then s.setCtx k { (s.tile k).c with draws := (s.tile k).c.draws + x.hi * 8 } else s

/-- The next part of a copy of tile `k`, from element `lo` on, leaves; after the last, the copy completes. A CPYS that has faulted
writes no more; an empty last part still frees its ranges elsewhere (07 R164). -/
def State.sendPart (s : State) (k : TileId) (o : EngOp) (lo : Nat) : State :=
  match o.job with
  | .copy f ticket _ a b z =>
    let cut := f = 1 && o.fault.isSome
    let lo := if cut then b.count else lo
    let x := o.xfer k (s.tile k).r.ctx f ticket a b z lo (min (lo + chunkElems b) b.count)
    if a.at_ k = some k then (s.drawnFor k x).carry (some k) true (s.readStage x (s.freeOf k)) else s.carry (some k) true x
  | _ => s

/-- Blocks of a copy to a peer (15 R318). -/
def EngOp.spanBlocks (o : EngOp) : Nat :=
  match o.job with
  | .copy _ _ _ _ b _ => (b.count * b.size + 4095) / 4096
  | _ => 0

/-- What is over of a copy to a peer: bit i for the acknowledgement of block i, the bit after the last for the sending of all. -/
def EngOp.spanRun (o : EngOp) : Nat := o.run.toNat

/-- The copy is over with that set. -/
def EngOp.spanOver (o : EngOp) (run : Nat) : Bool := run + 1 == 2 ^ (o.spanBlocks + 1)

/-- A tile's copy hears of a part of it (15 R315): events count, a fault is kept, and the next part leaves; a copy to a peer goes on when its
block is sent, and ends with its acknowledgements (R318). A CPYS that stops for a pre-emption stops here (06 R136). -/
def State.partDone (s : State) (k : TileId) (x : Xfer) : State :=
  match (s.tile k).c.op? x.id with
  | none => s
  | some o =>
    let fault := o.fault.orElse (fun _ => x.fault)
    let run : Int := if spaceOf x.dst.base ≠ 9 then x.hi
      else ((o.spanRun ||| (if fault.isSome then 2 ^ o.spanBlocks - 1 else 0) ||| (if x.hi = x.dst.count then 2 ^ o.spanBlocks else 0) : Nat) : Int)
    let o := { o with fault := fault, wrote := o.wrote ++ x.wrote, run := run }
    let s := s.countEstat k x.ovf x.inv
    let s := s.setCtx k ((s.tile k).c.setOp x.id (fun _ => o))
    if x.hi ≠ x.dst.count then
      if x.f = 1 && (s.tile k).r.mode == .stopping && o.fault.isNone && spaceOf x.dst.base != 9 then
        s.pauseAt k o x.hi
      else s.sendPart k o x.hi
    else if spaceOf x.dst.base = 9 ∧ !o.spanOver o.spanRun then s
    else s.after 1 .copyComplete (.op k x.id)

/-- The last data of a copy at tile `t` frees its ranges there (07 R164). -/
def State.freeRanges (s : State) (t : TileId) (x : Xfer) : State :=
  if t = x.tile ∨ x.hi ≠ x.dst.count then s
  else (s.setCtx t ((s.tile t).c.unlock x.tile x.id)).afterRelease t

/-- Elements that a part of a copy writes into the pool it has reached. -/
def Xfer.writes (x : Xfer) : List Put := match x.stage with | 1 => x.puts | 2 => x.back | _ => []

/-- Lines of a pool that a part of a copy writes. -/
def Xfer.lines (x : Xfer) : List Nat :=
  let base := if x.stage = 1 then x.dst.base else x.src.base
  (x.writes.flatMap (fun p => linesOf (poolOffset base p.addr).toNat p.bytes.length)).dedup

/-- A part of a copy at the pool of tile `t`: a read, or a write that is logged before it takes effect (15 R320). -/
def State.partAt (s : State) (t : TileId) (x : Xfer) : State :=
  if x.stage = 0 then
    let y := s.readStage x s.freeHere
    let s := { s with free := s.free + (if x.bad then x.hi * 8 else 0) }
    let s := if x.hi = x.dst.count && x.f != 2 then (s.note t .copyDataArrival (.xfer (some t) x)).freeRanges t x else s
    s.carry (some t) false y
  else
    let len := 8 + (x.writes.map (fun p => p.bytes.length)).sum
    let s := if x.writes.isEmpty then s.note t .copyDataArrival (.xfer (some t) x)
      else s.logRec t (if x.ro then kCwref else kCwrite) 0 len x.ro .copyDataArrival (.xfer (some t) x) 0
    let y := if x.stage = 1 then s.backStage x (s.freeOf t) else x
    let base := if x.stage = 1 then x.dst.base else x.src.base
    let s := (s.drawnFor t x).poolPuts t base y.writes
    let y := { y with stage := if x.f = 2 && x.stage == 1 then 2 else 3 }
    let s := if y.stage = 3 || y.src.at_ x.tile != some t then s.freeRanges t x else s
    if y.place = some t ∧ y.stage = 3 then s.partDone t { y with puts := [], back := [] }
    else s.carry (some t) true (if y.stage = 3 then { y with puts := [], back := [] } else y)

/-- The pages of a cellar source are all read-only (15 R320). -/
def State.readOnlySource (s : State) (ctx : Nat) (l : Layout) : Bool :=
  spaceOf l.base == 4 &&
    (match l.bounds with
     | none => false
     | some b => (List.range (((b.2 - b.1) / 65536).toNat + 2)).all (fun i =>
         match s.walk ctx false ((min (b.1 + 65536 * i) (b.2 - 1)) % 2 ^ 48).toNat with
         | .leaf _ _ _ wr => !wr
         | .fault _ => false))

/-- The walker has looked up a page for a part of a copy, which goes on (07 R152). -/
def State.pageWalked (s : State) (x : Xfer) (p : Bool × Nat) : State :=
  ((s.translate (clusterOf x.tile) x.ctx p.1 false (p.2 * 65536)).1).after 1 .copyDataArrival
    (.xfer none { x with walked := p :: x.walked })

/-- A copy within its tile's pool does its work (15 R315, R317), from its progress point to element `hi`. -/
def State.localCopy (s : State) (k : TileId) (o : EngOp) (hi : Nat) : State :=
  match o.job with
  | .copy f ticket _ a b z =>
    let x := s.readStage (o.xfer k (s.tile k).r.ctx f ticket a b z o.pix hi) (s.freeOf k)
    let y := s.backStage x (s.freeOf k)
    ((s.poolPuts k b.base y.puts).poolPuts k a.base y.back).countEstat k x.ovf x.inv
  | _ => s

/-- Bytes that a copy writes from element `p` on: those of elements that are not clipped, and for CPYX those of both windows (15 R315,
R317). -/
def copyBytes (f : Nat) (b : Layout) (p : Nat) : Nat :=
  let n := if b.fill then ((List.range (b.count - p)).filter (fun i => insideAll b.dims (positionOf b.dims (p + i)))).length else b.count - p
  n * b.size * (if f = 2 then 2 else 1)

/-- Cycles of a copy within one pool, from its start at element `p` on (15 R315). -/
def copyCycles (f : Nat) (b : Layout) (p : Nat) : Nat := 12 + (copyBytes f b p + 63) / 64

/-- The start of a copy (15 R315): a local one takes its cycles, another sends its first part. -/
def State.startCopy (s : State) (k : TileId) (o : EngOp) : State :=
  match o.job with
  | .copy f _ _ a b _ =>
    if isLocalCopy k a b then s.after (copyCycles f b o.pix) .copyComplete (.op k o.id)
    else
      let s := if spaceOf b.base = 9 then s.after (s.tile k).c.coltimeo.toNat .spanCopyTimeout (.op k o.id) else s
      s.sendPart k o o.pix
  | _ => s

/-- RANGE_LOCK_REQUEST (07 R164): the other tile registers the ranges and says so, or its router refuses them in C1; the refusal is logged
BOUNCE at the issuing tile. -/
def execRangeLockRequest (s : State) : Out :=
  match s.input with
  | .range t k id launch rs =>
    if (s.tile t).c.lockRoom rs || (s.tile t).r.quiet then
      let s := s.note t .rangeLockRequest s.input
      .next ((s.setCtx t ((s.tile t).c.register (s.tile t).r.cyc k id launch rs)).packet t k 1 1 .rangeLockRequest (.grant k t id true))
    else .next (s.relay t k 1 1 .rangeLockRequest (.grant k t id false))
  | .grant k t id ok =>
    if ok then
      let s := s.note k .rangeLockRequest s.input
      .next ((s.setCtx k ((s.tile k).c.setOp id (fun o =>
        { o with far := o.far.map (fun f => if f.tile = t then { f with granted := true } else f) }))).kick k)
    else .next ((s.log k kBounce 0 16 .rangeLockRequest s.input 0).after 64 .rangeLockRepresent s.input)
  | _ => .next s

/-- RANGE_LOCK_REPRESENT (07 R164). -/
def execRangeLockRepresent (s : State) : Out :=
  match s.input with
  | .grant k t id _ =>
    match (s.tile k).c.op? id with
    | none => .next s
    | some o => .next (s.packet k t 3 1 .rangeLockRequest
        (.range t k id o.launch ((o.far.filter (fun f => f.tile == t && !f.granted)).map FarRange.range)))
  | _ => .next s

end Sys2Proof.Machine
end

