-- ==== Sys2Proof/Machine/Accum.lean ====
section
/-!
DEFINITION. Accumulator tiles: handles, ownership, pin records and the ACC instructions (16 R322 to R334).
-/
namespace Sys2Proof.Machine

/-! ### Handles (16 R322, R323) -/

/-- Pool offset of handle `h`. -/
def accOff (cfg : Word) (h : Nat) : Nat := scrBytes cfg + 1024 * h

/-- Handles of a tile. -/
def accHandles (cfg : Word) : Nat := 4 * accUnits cfg

/-- The range of handles `h` to `h + n − 1`, registered as read and write. -/
def accRange (cfg : Word) (h n : Nat) : Range := { lo := accOff cfg h, hi := accOff cfg (h + n), write := true }

/-- The word of element (i, j) of handle `h`. -/
def accAddr (cfg : Word) (h i j : Nat) : Nat := accOff cfg h + 4 * (16 * i + j)

/-- own(h) (16 R323). -/
def TileCtx.entry (c : TileCtx) (h : Nat) : OwnEntry := (c.own.get? h).getD OwnEntry.reset

def TileCtx.setEntry (c : TileCtx) (h : Nat) (e : OwnEntry) : TileCtx := { c with own := c.own.set h e }

/-- The entries of handles `h` to `h + n − 1` changed by `f`. -/
def TileCtx.mapEntries (c : TileCtx) (h n : Nat) (f : Nat → OwnEntry → OwnEntry) : TileCtx :=
  (List.range n).foldl (fun c i => c.setEntry (h + i) (f i (c.entry (h + i)))) c

/-- Events of an engine count in the entry of a handle (10 R208). -/
def OwnEntry.count (e : OwnEntry) (ovf : Nat) (inv : Bool) : OwnEntry :=
  { e with ovf := min 0xFFFF (e.ovf + ovf), inv := e.inv || inv }

def OwnEntry.stateCode (e : OwnEntry) : Nat :=
  match e.state with
  | .free => 0
  | .owned => 1
  | .pinned => 2
  | .spilled => 3
  | .staged => 4

/-- ACC_OWNER of a thread away from home: bit 63 and the owner (16 R326). -/
def ownAway (h : Nat) (e : OwnEntry) : TrapInfo :=
  { code := cAccOwner, detail := h, val := 0x8000000000000000 ||| e.owner.setWidth 64 }

def ownState (h st : Nat) : TrapInfo := { code := cAccState, detail := h, val := BitVec.ofNat 64 st }

/-- The check of one handle, the thread at home; `claim` admits a FREE handle (16 R326). -/
def ownCheck (hslot : BitVec 4) (claim : Bool) (h : Nat) (e : OwnEntry) : Option TrapInfo :=
  let owner : TrapInfo := { code := cAccOwner, detail := h, val := e.owner.setWidth 64 }
  match e.state with
  | .free => if claim then none else some (ownState h 0)
  | .owned => if e.owner ≠ hslot then some owner else none
  | .pinned => if !e.att then some (ownState h 2) else if e.owner ≠ hslot then some owner else none
  | .spilled =>
    if !e.att then some (ownState h 3) else if e.owner ≠ hslot then some owner else some (ownState h 3)
  | .staged => some (ownState h 4)

/-- The checks of a handle range in ascending order (16 R326). -/
def State.ownChecks (s : State) (th : Thread) (claim : Bool) (h n : Nat) : Option TrapInfo :=
  let c := s.here.c
  if !th.atHome s.cur.tile then some (ownAway h (c.entry h))
  else (List.range n).findSome? (fun i => ownCheck th.hslot claim (h + i) (c.entry (h + i)))

/-- A handle range that reaches the number of handles raises RESERVED_FIELD before anything is read (16 R322). -/
def State.withHandles (s : State) (h n : Nat) (k : Out) : Out :=
  if accHandles s.here.c.poolcfg < h + n then s.trap cReservedField 0xFF s.me.pc else k

/-- lock_check of a gap member on the range of its handles (16 R328). -/
def State.accLock (s : State) (h n : Nat) (k : Out) : Out :=
  let r := accRange s.here.c.poolcfg h n
  if s.here.c.lockHit s.here.r.cyc r.lo r.hi then (s.drawn s.cur.tile).trapInfo (s.lockTrap s.cur.tile (BitVec.ofNat 64 r.lo)) else k

/-- FREE handles become OWNED by the thread (16 R329, R330). -/
def OwnEntry.claim (e : OwnEntry) (hslot : BitVec 4) : OwnEntry :=
  if e.state == .free then { e with state := .owned, owner := hslot } else e

def OwnEntry.clear (e : OwnEntry) : OwnEntry := { e with ovf := 0, inv := false }

/-! ### ACCZ, ACCREL, ACCSTA (16 R329) -/

/-- ACCZ (16 R329): its lines are latched first, and it waits for entries of the capture buffer like a store (05 R94). -/
def execAccz (h : BitVec 7) (n1 : Fin 16) (s : State) : Out :=
  let n := n1.val + 1
  s.withHandles h.toNat n
    (match s.ownChecks s.me true h.toNat n with
     | some t => s.trapInfo t
     | none =>
       s.accLock h.toNat n
         (let k := s.cur.tile
          let off := accOff s.here.c.poolcfg h.toNat
          let x := s.latchMine (linesOf off (1024 * n))
          if !x.2 then .next (x.1.parkCapture s.me)
          else
          let s' := x.1.poolWrite k off (List.replicate (1024 * n) 0)
          (s'.setCtx k ((s'.tile k).c.mapEntries h.toNat n (fun _ e => (e.claim s.me.hslot).clear))).done s.me))

/-- The pin record of an entry. -/
def TileCtx.recordOf (c : TileCtx) (e : OwnEntry) : Option PinRec := c.pins.get? e.pin

/-- The handle range is exactly a record's bound range. -/
def PinRec.covers (r : PinRec) (h n : Nat) : Bool := r.bound && r.first == h && r.cnt + 1 == n

/-- ACCREL (16 R329). -/
def execAccrel (h : BitVec 7) (n1 : Fin 16) (s : State) : Out :=
  let n := n1.val + 1
  let c := s.here.c
  let es := (List.range n).map (fun i => c.entry (h.toNat + i))
  s.withHandles h.toNat n
    (if !s.me.atHome s.cur.tile then s.trapInfo (ownAway h.toNat (c.entry h.toNat))
     else
       match es.find? (fun e => e.pin != 15) with
       | some p =>
         let whole := (match c.recordOf p with | some r => r.covers h.toNat n | none => false)
           && es.all (fun e => e.att && e.owner == s.me.hslot && (e.state == .pinned || e.state == .spilled) && e.pin == p.pin)
         if !whole then s.trapInfo (ownState h.toNat (c.entry h.toNat).stateCode)
         else
           s.accLock h.toNat n
             ((s.setCtx s.cur.tile { (c.mapEntries h.toNat n (fun _ _ => OwnEntry.reset)) with pins := c.pins.erase p.pin }).done
               s.me)
       | none =>
         match s.ownChecks s.me false h.toNat n with
         | some t => s.trapInfo t
         | none =>
           s.accLock h.toNat n
             ((s.setCtx s.cur.tile (c.mapEntries h.toNat n (fun _ _ => OwnEntry.reset))).done s.me))

/-- What ACCSTA returns (16 R329). -/
def TileCtx.status (c : TileCtx) (h : Nat) : Word :=
  let e := c.entry h
  let tokens := ((c.recordOf e).map PinRec.tokens).getD 0
  BitVec.ofNat 64 (e.ovf + (if e.inv then 2 ^ 16 else 0) + e.stateCode * 2 ^ 17 + (if e.att then 2 ^ 20 else 0)
    + e.owner.toNat * 2 ^ 21 + e.pin * 2 ^ 25 + tokens.toNat * 2 ^ 32)

/-- ACCSTA: without clear it needs no ownership and no lock check (16 R329, R328). -/
def execAccsta (rd : Reg) (h : BitVec 7) (clr : Bool) (s : State) : Out :=
  let c := s.here.c
  s.withHandles h.toNat 1
    (if !clr then s.done (s.me.setReg rd (c.status h.toNat))
     else
       match s.ownChecks s.me false h.toNat 1 with
       | some t => s.trapInfo t
       | none =>
         s.accLock h.toNat 1
           ((s.setCtx s.cur.tile (c.mapEntries h.toNat 1 (fun _ e => e.clear))).done (s.me.setReg rd (c.status h.toNat))))

/-! ### ACCLD and ACCST (16 R330) -/

/-- The checks of ACCLD and ACCST on base, pitch and range; `foot` bytes follow the rows. -/
def State.accOperand (s : State) (a : Word) (p : Nat) (sz n foot : Nat) : Option TrapInfo :=
  let cfg := s.here.c.poolcfg
  let top := a.toNat + 16 * n * p
  if spaceOf a ≠ 0 ∨ a.getLsbD 18 then some { code := cAddressSpace, detail := 3, val := a }
  else if a.toNat % sz ≠ 0 ∨ p % sz ≠ 0 ∨ p < 16 * sz then some { code := cAlign, detail := sz, val := a }
  else if foot ≠ 0 ∧ top % 16 ≠ 0 then some { code := cAlign, detail := 16, val := BitVec.ofNat 64 top }
  else if rangeRegion cfg a.toNat (top + foot) ≠ 0 then
    some { code := cProtect, detail := rangeRegion cfg a.toNat (top + foot), val := a }
  else none

/-- The issue of ACCLD (`load`) or ACCST. -/
def State.accMove (s : State) (load : Bool) (h n : Nat) (ty : ETy) (ra rb : Reg) : Out :=
  s.withHandles h n
    (s.withRegs [ra, rb] fun th =>
      let sz := ETy.size ty
      let a := th.reg ra
      let p := if th.reg rb = 0 then 16 * sz else (th.reg rb).toNat
      let foot := if load then 0 else 16
      match s.accOperand a p sz n foot with
      | some t => s.trapInfo t
      | none =>
        match s.ownChecks th load h n with
        | some t => s.trapInfo t
        | none =>
          if n ≤ th.pix.toNat then s.nothingLeft th
          else
            let k := s.cur.tile
            let s' := if load then s.setCtx k (s.here.c.mapEntries h n (fun _ e => e.claim th.hslot)) else s
            let r : Range := { lo := a.toNat, hi := a.toNat + 16 * n * p + foot, write := !load }
            s'.issueOp th (if load then .accLd h n ty a.toNat p else .accSt h n ty a.toNat p)
              [r, accRange s.here.c.poolcfg h n] [] (some 0) th.pix.toNat none)

/-- ACCLD (16 R330). -/
def execAccld (h : BitVec 7) (n1 : Fin 16) (ty : ETy) (ra rb : Reg) (s : State) : Out :=
  s.accMove true h.toNat (n1.val + 1) ty ra rb

/-- ACCST (16 R330). -/
def execAccst (h : BitVec 7) (n1 : Fin 16) (ty : ETy) (ra rb : Reg) (s : State) : Out :=
  s.accMove false h.toNat (n1.val + 1) ty ra rb

/-- An element widened to a word of a handle. -/
def widen (ty : ETy) (x : Nat) : EngVal :=
  if ty.isInt then convert ty 2 .rne false x else convert ty 6 .rne false x

/-- A word of a handle narrowed to an element (16 R330). -/
def narrow (ty : ETy) (w : Nat) : EngVal :=
  if ty.isInt then convert 2 ty .rne true w else convert 6 ty .rne false w

/-- One element of ACCLD: number `x` in row order of tile `m`. -/
def accLdElem (cfg : Word) (h : Nat) (ty : ETy) (a p m : Nat) (g : Eng) (x : Nat) : Eng :=
  g.put (accAddr cfg (h + m) (x / 16) (x % 16)) 4
    (widen ty (g.pool.read (a + (16 * m + x / 16) * p + x % 16 * ETy.size ty) (ETy.size ty)))

/-- Tile `m` of ACCLD. -/
def accLdTile (cfg : Word) (h : Nat) (ty : ETy) (a p m : Nat) (g : Eng) : Eng :=
  (List.range 256).foldl (accLdElem cfg h ty a p m) g

/-- One element of ACCST. -/
def accStElem (cfg : Word) (h : Nat) (ty : ETy) (a p m : Nat) (g : Eng) (x : Nat) : Eng :=
  g.put (a + (16 * m + x / 16) * p + x % 16 * ETy.size ty) (ETy.size ty)
    (narrow ty (g.pool.read (accAddr cfg (h + m) (x / 16) (x % 16)) 4))

/-- Tile `m` of ACCST. -/
def accStTile (cfg : Word) (h : Nat) (ty : ETy) (a p m : Nat) (g : Eng) : Eng :=
  (List.range 256).foldl (accStElem cfg h ty a p m) g

/-- The element bytes ACCST stored, in row order. -/
def accStored (m : Memory) (ty : ETy) (a p n : Nat) : List Byte :=
  (List.range (16 * n)).flatMap (fun r => m.bytes (a + r * p) (16 * ETy.size ty))

/-- The 16 bytes of the ACCST footer (16 R330). -/
def TileCtx.footer (c : TileCtx) (h n : Nat) (crc : BitVec 32) : List Byte :=
  let r := c.recordOf (c.entry h)
  let es := (List.range n).map (fun i => c.entry (h + i))
  leBytes 4 ((r.map PinRec.key).getD 0).toNat ++ leBytes 4 ((r.map PinRec.tokens).getD 0).toNat
    ++ leBytes 2 (min 0xFFFF (es.map OwnEntry.ovf).sum) ++ leBytes 2 (if es.any OwnEntry.inv then 1 else 0)
    ++ leBytes 4 crc.toNat

/-- Tiles `lo` to `hi − 1` of ACCLD; a NaN among the elements sets inv of estat (10 R207, R208). -/
def State.accLdWork (s : State) (k : TileId) (o : EngOp) (h : Nat) (ty : ETy) (a p lo hi : Nat) : State :=
  let cfg := (s.tile k).c.poolcfg
  let g := (List.range (hi - lo)).foldl (fun g i => accLdTile cfg h ty a p (lo + i) g) (Eng.of (s.tile k).c.pool)
  let s := s.engDone k g o.ranges
  s.setCtx k ((s.tile k).c.mapEntries (h + lo) (hi - lo) (fun _ e => e.clear))

/-- Tiles `lo` to `hi − 1` of ACCST; each tile's events count in its entry, and the last tile is followed by the
footer. -/
def State.accStWork (s : State) (k : TileId) (o : EngOp) (h n : Nat) (ty : ETy) (a p lo hi : Nat) : State :=
  let cfg := (s.tile k).c.poolcfg
  let s := (List.range (hi - lo)).foldl (fun s i =>
    let g := accStTile cfg h ty a p (lo + i) (Eng.of (s.tile k).c.pool)
    let s := s.engDone k (Eng.of g.pool) o.ranges
    s.setCtx k ((s.tile k).c.mapEntries (h + lo + i) 1 (fun _ e => e.count g.ovf g.inv))) s
  if hi < n then s
  else
    let c := (s.tile k).c
    s.setCtx k { c with pool := c.pool.setBytes (a + 16 * n * p) (c.footer h n (crc32c (accStored c.pool ty a p n))) }

/-! ### ACCPIN, ACCATT, ACCSPL (16 R331 to R333) -/

/-- The record bound to a key. -/
def TileCtx.findKey (c : TileCtx) (key : BitVec 32) : Option (Nat × PinRec) :=
  if key = 0 then none else c.pins.find? (fun x => x.2.key == key)

/-- The lowest free pin record. -/
def TileCtx.freePin (c : TileCtx) : Option Nat := (List.range 15).find? (fun i => (c.pins.get? i).isNone)

/-- ACCPIN (16 R331). -/
def execAccpin (qd : Pred) (h : BitVec 7) (n1 : Fin 16) (ra rb : Reg) (s : State) : Out :=
  let n := n1.val + 1
  s.withHandles h.toNat n
    (s.withRegs [ra, rb] fun th =>
      let c := s.here.c
      let key : BitVec 32 := (th.reg ra).setWidth 32
      let spill := th.reg rb
      let es := (List.range n).map (fun i => (h.toNat + i, c.entry (h.toNat + i)))
      match (s.ownChecks th false h.toNat n).orElse (fun _ =>
          es.findSome? (fun x => if x.2.state == .owned then none else some (ownState x.1 x.2.stateCode))) with
      | some t => s.trapInfo t
      | none =>
        if spaceOf spill ≠ 4 then s.trap cAddressSpace 3 spill
        else if spill.toNat % 64 ≠ 0 then s.trap cAlign 64 spill
        else
          s.accLock h.toNat n
            (match (c.findKey key).isSome || key == 0, c.freePin with
             | false, some i =>
               let r : PinRec := { key := key, tokens := 0, spill := spill.toNat % 2 ^ 48, first := h.toNat, cnt := n1.val
                                   bound := true, bad := false, cfg := c.poolcfg }
               let c := c.mapEntries h.toNat n (fun _ e => { e with state := .pinned, att := true, pin := i })
               (s.setCtx s.cur.tile { c with pins := c.pins.set i r }).done (th.setPred qd false)
             | _, _ => s.done (th.setPred qd true)))

/-- What ACCATT decides at issue (16 R332). -/
inductive Attach where
  | refuse
  | already
  | attach
  | fill (pin : Nat)
  deriving DecidableEq, Repr

def TileCtx.attachOf (c : TileCtx) (hslot : BitVec 4) (key : BitVec 32) (h n : Nat) : Attach :=
  match c.findKey key with
  | none => .refuse
  | some (i, r) =>
    let e := c.entry h
    if r.cnt + 1 ≠ n then .refuse
    else if r.bound then
      if r.first ≠ h then .refuse
      else if e.att && e.owner == hslot then .already
      else if e.att then .refuse
      else if e.state == .pinned then .attach
      else if r.bad then .refuse
      else .fill i
    else if !(List.range n).all (fun j => (c.entry (h + j)).state == .free) then .refuse
    else if r.bad then .refuse
    else .fill i

/-- ACCATT (16 R332). -/
def execAccatt (qd : Pred) (h : BitVec 7) (n1 : Fin 16) (ra : Reg) (s : State) : Out :=
  let n := n1.val + 1
  s.withHandles h.toNat n
    (s.withRegs [ra] fun th =>
      let c := s.here.c
      let k := s.cur.tile
      if !th.atHome k then s.trapInfo (ownAway h.toNat (c.entry h.toNat))
      else
        s.accLock h.toNat n
          (match c.attachOf th.hslot ((th.reg ra).setWidth 32) h.toNat n with
           | .refuse => s.done (th.setPred qd true)
           | .already => s.done (th.setPred qd false)
           | .attach =>
             (s.setCtx k (c.mapEntries h.toNat n (fun _ e => { e with att := true, owner := th.hslot }))).done
               (th.setPred qd false)
           | .fill i =>
             if n ≤ th.pix.toNat then s.nothingLeft th
             else
               (s.setCtx k (c.mapEntries h.toNat n (fun _ e =>
                   { e with state := .spilled, att := true, owner := th.hslot, pin := i }))).issueOp
                 th (.accAtt h.toNat n i qd) [accRange c.poolcfg h.toNat n] [] (some 0) th.pix.toNat none))

/-- ACCSPL (16 R333). -/
def execAccspl (h : BitVec 7) (n1 : Fin 16) (s : State) : Out :=
  let n := n1.val + 1
  let c := s.here.c
  let e := c.entry h.toNat
  s.withHandles h.toNat n
    (match s.ownChecks s.me false h.toNat n with
     | some t => s.trapInfo t
     | none =>
       let whole := e.state == .pinned && (match c.recordOf e with | some r => r.covers h.toNat n | none => false)
       if !whole then s.trapInfo (ownState h.toNat e.stateCode)
       else if n ≤ s.me.pix.toNat then s.nothingLeft s.me
       else s.issueOp s.me (.accSpl h.toNat n e.pin) [accRange c.poolcfg h.toNat n] [] (some 0) 0 none)

/-! ### Spill records (16 R333, R334) -/

/-- Bytes of a spill record's header before its CRC. -/
def TileCtx.spillHead (c : TileCtx) (r : PinRec) : List Byte :=
  let es := (List.range (r.cnt + 1)).map (fun i => c.entry (r.first + i))
  let inv := ((List.range (r.cnt + 1)).map (fun i => if (c.entry (r.first + i)).inv then 2 ^ i else 0)).sum
  leBytes 4 0x4C495053 ++ leBytes 4 r.key.toNat ++ leBytes 2 (r.cnt + 16 * r.first) ++ leBytes 2 inv
    ++ leBytes 4 r.tokens.toNat
    ++ (List.range 16).flatMap (fun m => leBytes 2 (((es[m]?).map OwnEntry.ovf).getD 0)) ++ leBytes 12 0

/-- The tiles of a record's range, row-major. -/
def TileCtx.spillData (c : TileCtx) (r : PinRec) : List Byte := c.pool.bytes (accOff c.poolcfg r.first) (1024 * (r.cnt + 1))

/-- The whole spill record. -/
def TileCtx.spillBytes (c : TileCtx) (r : PinRec) : List Byte :=
  let hd := c.spillHead r
  let d := c.spillData r
  hd ++ leBytes 4 (crc32c (hd ++ d)).toNat ++ d

/-- The space-0x4 address of a spill record. -/
def spillAddr (a : Nat) : Word := BitVec.ofNat 64 (4 * 2 ^ 60 + a)

/-- A spill record of tile `k` leaves for its spill address; in the shadow of a paired launch none does (16 R333, 03 R64). -/
def State.spill (s : State) (k : TileId) (id : Option Nat) (pin : Nat) : State :=
  match (s.tile k).c.pins.get? pin with
  | none => s
  | some r =>
    if isShadow k then s
    else s.inject k { src := k, dst := memoryPort, cls := 3, lat := 1, slow := true, ev := .postedStorePerform
                      arg := .spillOut k id pin r.spill ((s.tile k).c.spillBytes r) }

/-- Lines written one after another through the gateway of tile `k`'s cluster, which fills its caches; the detail of the first
refusal. -/
def State.writeLines (s : State) (k : TileId) (a : Nat) (bs : List Byte) (n : Nat) : State × Nat :=
  match n with
  | 0 => (s, 0)
  | n + 1 =>
    let cl := clusterOf k
    let r := s.translate cl (s.tile k).r.ctx false true (a % 2 ^ 48)
    if r.2.2 ≠ 0 then (r.1, r.2.2)
    else
      let s := (r.1.setCluster cl ((r.1.cluster cl).updateLine r.2.1 (bs.take 64))).cellarWrite r.2.1 (bs.take 64)
      s.writeLines k (a + 64) (bs.drop 64) n

/-- A spill record reaches the cellar: it is written, and its tile hears of it (16 R333). -/
def State.spillWrite (s : State) (k : TileId) (id : Option Nat) (pin va : Nat) (bs : List Byte) : State :=
  let r := s.writeLines k va bs (bs.length / 64)
  (r.1.sendOn memoryPort k 3 (1 + Config.memLatency r.1.free) .postedStorePerform (.spillAck k id pin r.2)).draw

/-- Spill records of the launch or partition of context `ctx` that are not written yet. -/
def State.spilling (s : State) (ctx : Nat) : Bool :=
  let mine (p : Payload) : Bool := match p with
    | .spillOut k _ _ _ _ => (s.tile k).r.ctx == ctx
    | .spillAck k _ _ _ => (s.tile k).r.ctx == ctx
    | _ => false
  s.agenda.any (fun x => mine x.arg)
    || s.tiles.any (fun t => t.2.r.ctx == ctx && (t.2.r.out.any (fun p => mine p.arg) || t.2.r.held.any (fun h => mine h.2)))

/-- The thread of an ACCSPL folds the record into sig as a copy when its launch is paired (16 R333, 03 R64). -/
def State.foldSpill (s : State) (k : TileId) (o : EngOp) (r : PinRec) : State :=
  match o.slot with
  | some j =>
    let th := s.thr k j
    if ((s.tile k).launchOf th.lix).paired then
      s.setThr k j (th.fold (leBytes 8 (spillAddr r.spill).toNat ++ leBytes 8 (crc32c ((s.tile k).c.spillBytes r)).toNat))
    else s
  | none => s

/-- ACCSPL ends: its range is SPILLED, or its record could not be written (16 R333). -/
def State.endSpl (s : State) (k : TileId) (o : EngOp) (h n : Nat) (r : PinRec) (fault : Nat) : State :=
  if fault ≠ 0 then s.endOp k o (.fault { code := cTranslation, detail := fault, val := spillAddr r.spill } 0)
  else
    let s := s.foldSpill k o r
    (s.setCtx k ((s.tile k).c.mapEntries h n (fun _ e => { e with state := .spilled }))).endOp k o .ack

/-- ACCSPL has moved its lines (16 R328): the record leaves, or in the shadow the operation is over. -/
def State.splWork (s : State) (k : TileId) (o : EngOp) (h n pin : Nat) : State :=
  match (s.tile k).c.pins.get? pin with
  | none => s.endOp k o .ack
  | some r => if isShadow k then s.endSpl k o h n r 0 else s.spill k (some o.id) pin

/-- Tile `k` hears of a spill record: bad follows the outcome, and an ACCSPL ends (16 R333, R334). -/
def State.spillDone (s : State) (k : TileId) (id : Option Nat) (pin fault : Nat) : State :=
  match (s.tile k).c.pins.get? pin with
  | none => s
  | some r =>
    let s := s.setCtx k { (s.tile k).c with pins := (s.tile k).c.pins.set pin { r with bad := fault != 0 } }
    match id.bind (fun i => (s.tile k).c.op? i) with
    | some o =>
      match o.job with
      | .accSpl h n _ => s.endSpl k o h n r fault
      | _ => s
    | none => s

/-- An ACCATT undoes its reservation (16 R332). -/
def State.unattach (s : State) (k : TileId) (h n pin : Nat) : State :=
  let c := (s.tile k).c
  let bound := ((c.pins.get? pin).map PinRec.bound).getD false
  s.setCtx k (c.mapEntries h n (fun _ e => if bound then { e with att := false } else OwnEntry.reset))

/-- A spill record's header belongs to the pin record. -/
def PinRec.accepts (r : PinRec) (hd : List Byte) : Bool :=
  leNat (hd.take 4) == 0x4C495053 && leNat ((hd.drop 4).take 4) == r.key.toNat && leNat ((hd.drop 8).take 1) % 16 == r.cnt

/-- The attached range after its fill: entries and record from the header (16 R332). -/
def State.attachFrom (s : State) (k : TileId) (h n pin : Nat) (hd : List Byte) : State :=
  let c := (s.tile k).c
  let inv := leNat ((hd.drop 10).take 2)
  let c := c.mapEntries h n (fun i e =>
    { e with state := .pinned, inv := inv / 2 ^ i % 2 == 1, ovf := leNat ((hd.drop (16 + 2 * i)).take 2) })
  s.setCtx k { c with pins := match c.pins.get? pin with
    | some r => c.pins.set pin { r with first := h, bound := true, tokens := BitVec.ofNat 32 (leNat ((hd.drop 12).take 4)) }
    | none => c.pins }

/-- An ACCATT asks the gateway for `len` bytes of its spill record, the read cache bypassed (16 R332). -/
def State.askSpill (s : State) (k : TileId) (o : EngOp) (a len : Nat) : State :=
  match s.opRef k o.id with
  | none => s
  | some r =>
    s.ask r { ctx := (s.tile k).r.ctx, host := false, va := a % 2 ^ 48, addr := spillAddr a, size := len, signed := false
              toReg := false, cached := false, fault := 0 }

/-- The fill of ACCATT, part by part (16 R332, R325): the header, logged LREPLY; then tile by tile, logged CWRITE, the running CRC kept. A
header or CRC that differs, or a fault, undoes the reservation; a pre-emption stops it at a whole tile. -/
def State.attFill (s : State) (k : TileId) (o : EngOp) (h n pin : Nat) (qd : Pred) (r : PinRec) (a : Word) (bs : List Byte) : State :=
  let off := accOff (s.tile k).c.poolcfg h
  let at_ := a.toNat % 2 ^ 48 - r.spill
  if at_ = 0 then
    if !r.accepts bs then (s.unattach k h n pin).endOp k o (.pred qd true)
    else
      let o := { o with buf := bs, run := if o.pix = 0 then ((crc32c (bs.take 60)).toNat : Int) else o.run }
      (s.setCtx k ((s.tile k).c.setOp o.id (fun _ => o))).askSpill k o (r.spill + 64 + 1024 * o.pix) 1024
  else
    let m := (at_ - 64) / 1024
    let crc := crc32cMore (BitVec.ofInt 32 o.run) bs
    let o := { o with pix := m + 1, run := (crc.toNat : Int) }
    let s := (s.poolWrite k (off + 1024 * m) bs).setCtx k (((s.poolWrite k (off + 1024 * m) bs).tile k).c.setOp o.id (fun _ => o))
    if m + 1 < n then
      if (s.tile k).r.mode == .stopping then s.pauseAt k o (m + 1)
      else s.askSpill k o (r.spill + 64 + 1024 * (m + 1)) 1024
    else if leNat ((o.buf.drop 60).take 4) ≠ crc.toNat then (s.unattach k h n pin).endOp k o (.pred qd true)
    else (s.attachFrom k h n pin o.buf).endOp k o (.pred qd false)

/-- A part of a spill record reaches its ACCATT: a tile's 1,024 bytes are four CWRITE records, the header one LREPLY (16 R345). -/
def State.spillArrive (s : State) (k : TileId) (id : Nat) (a : Word) (bs : List Byte) (fault : Nat) (arg : Payload) : State :=
  match (s.tile k).c.op? id with
  | none => s
  | some o =>
    match o.job with
    | .accAtt h n pin qd =>
      match (s.tile k).c.pins.get? pin with
      | none => s.endOp k o (.pred qd true)
      | some r =>
        let off := accOff (s.tile k).c.poolcfg h + (a.toNat % 2 ^ 48 - r.spill - 64)
        let s := if bs.length ≤ 64 then s.log k kLreply (match o.slot with | some j => j.val | none => 0) 64 .copyDataArrival arg 0
          else if (s.tile k).r.quiet then s
          else
            let s := (List.range 3).foldl (fun s i =>
              s.log k kCwrite 0 264 .copyDataArrival (.bytes k (off + 256 * i) ((bs.drop (256 * i)).take 256)) 0) s
            s.log k kCwrite 0 264 .copyDataArrival arg 0
        if fault ≠ 0 then
          (s.unattach k h n pin).endOp k o (.fault { code := cTranslation, detail := fault, val := spillAddr r.spill } 0)
        else s.attFill k o h n pin qd r a bs
    | _ => s

/-- Spill records of every bound PINNED range of a tile (16 R334). -/
def State.spillAll (s : State) (k : TileId) : State :=
  (s.tile k).c.pins.foldl (fun s x =>
    if x.2.bound && ((s.tile k).c.entry x.2.first).state == .pinned then s.spill k none x.1 else s) s

/-- Eviction by a launch with another layout (16 R327). -/
def State.evict (s : State) (k : TileId) (cfg : Word) : State :=
  let old (r : PinRec) : Bool := r.bound && r.cfg != cfg
  if !(s.tile k).c.pins.any (fun x => old x.2) then s
  else
    let s := (s.tile k).c.pins.foldl (fun s x =>
      if old x.2 && ((s.tile k).c.entry x.2.first).state == .pinned then s.spill k none x.1 else s) s
    s.setCtx k { (s.tile k).c with
      own := []
      pins := (s.tile k).c.pins.mapVals (fun (r : PinRec) => if old r then { r with bound := false } else r) }

end Sys2Proof.Machine
end

