-- ==== Sys2Proof/Machine/Matrix.lean ====
section
/-!
DEFINITION. The matrix engine: MMA, MMAG and TLD (16 R335 to R339, 10 R214, R215).
-/
namespace Sys2Proof.Machine

/-! ### Shapes (16 R335) -/

/-- The types of A and B of a type combination. -/
def mmaTypes (comb : Nat) : ETy × ETy :=
  match comb with
  | 0 => (5, 5)
  | 1 => (5, 7)
  | 2 => (0, 0)
  | 3 => (4, 4)
  | _ => (6, 6)

/-- The block size b. -/
def mmaBlock (comb : Nat) : Nat := if comb = 4 then 4 else 8

/-- Cycles of a k-block. -/
def mmaCycles (comb : Nat) : Nat :=
  match comb with
  | 0 => 8
  | 1 => 2
  | 2 => 4
  | 3 => 8
  | _ => 16

/-- The fields of tfmt and tscl (10 R214). -/
def wBase (tfmt : Word) : Nat := bitsOf tfmt 0 18
def wPitch (tfmt : Word) : Nat := bitsOf tfmt 20 16
def nGrp (tfmt : Word) : Nat := bitsOf tfmt 36 16
def sBase (tscl : Word) : Nat := bitsOf tscl 0 18

/-- First weight row and first k of a B operand at offset `b` (10 R214). -/
def n0Of (tfmt : Word) (b : Nat) : Nat := (b - wBase tfmt) / wPitch tfmt
def k0Of (tfmt : Word) (b : Nat) : Nat := (b - wBase tfmt) % wPitch tfmt

/-- The address of the scale of product column `j`, index `k`. -/
def scaleAddr (tfmt tscl : Word) (b j k : Nat) : Nat :=
  sBase tscl + 2 * ((n0Of tfmt b + j) * nGrp tfmt + (k0Of tfmt b + k) / 32)

/-- The address of the weight of column `j`, index `k`. -/
def weightAddr (tfmt : Word) (b j k : Nat) : Nat := wBase tfmt + (n0Of tfmt b + j) * wPitch tfmt + k0Of tfmt b + k

/-! ### Work (16 R336, 10 R215) -/

/-- The address of row `i` of A: MMA by pitch, MMAG by index vector at `c`. -/
def mmaRow (m : Memory) (a pa : Nat) (c : Option Nat) (i : Nat) : Nat :=
  match c with
  | none => a + i * pa
  | some c => a + m.read (c + 2 * i) 2 * pa

/-- The address of element (k, j) of B, size `sb`. -/
def mmaCol (col : Bool) (b pb sb j k : Nat) : Nat := if col then b + j * pb + k * sb else b + k * pb + j * sb

/-- The exact product of index `k` for element (i, j), float combinations. -/
def mmaTerm (comb : Nat) (col : Bool) (m : Memory) (a b pa pb : Nat) (c : Option Nat) (tfmt tscl : Word) (i j k : Nat) :
    FVal :=
  let t := mmaTypes comb
  let x := ETy.value t.1 (m.read (mmaRow m a pa c i + k * ETy.size t.1) (ETy.size t.1))
  if comb = 1 then
    FVal.mul x (FVal.mul (ETy.value 5 (m.read (scaleAddr tfmt tscl b j k) 2))
      (ETy.value 7 (m.read (weightAddr tfmt b j k) 1)))
  else FVal.mul x (ETy.value t.2 (m.read (mmaCol col b pb (ETy.size t.2) j k) (ETy.size t.2)))

/-- The exact integer product of index `k` for element (i, j). -/
def mmaInt (col : Bool) (m : Memory) (a b pa pb : Nat) (c : Option Nat) (i j k : Nat) : Int :=
  ETy.int 0 (m.read (mmaRow m a pa c i + k) 1) * ETy.int 0 (m.read (mmaCol col b pb 1 j k) 1)

/-- The block step of element (i, j): `n` products from index `lo` on added to the running word (10 R215). -/
def mmaStep (comb : Nat) (col : Bool) (m : Memory) (a b pa pb : Nat) (c : Option Nat) (tfmt tscl : Word)
    (i j lo n : Nat) (w : Nat) : EngVal :=
  let ks := (List.range n).map (fun d => lo + d)
  if comb = 2 then clampInt 32 (ETy.int 2 w + (ks.map (fun k => mmaInt col m a b pa pb c i j k)).sum)
  else rneF32 (fusedSum .rne (f32.decode w :: ks.map (fun k => mmaTerm comb col m a b pa pb c tfmt tscl i j k)))

/-- One k-block of every element; the operands lie in the scratchpad, which no step of an MMA writes. -/
def mmaBlockStep (cfg : Word) (h comb : Nat) (col : Bool) (a b pa pb : Nat) (c : Option Nat) (tfmt tscl : Word)
    (lo n : Nat) (g : Eng) : Eng :=
  let m := g.pool
  (List.range 256).foldl (fun g x =>
    let at_ := accAddr cfg h (x / 16) (x % 16)
    g.put at_ 4 (mmaStep comb col m a b pa pb c tfmt tscl (x / 16) (x % 16) lo n (m.read at_ 4))) g

/-- `n` k-blocks from block `m` on of `kk` products. -/
def mmaLoop (cfg : Word) (h comb : Nat) (col : Bool) (a b pa pb : Nat) (c : Option Nat) (tfmt tscl : Word)
    (kk m n : Nat) (g : Eng) : Eng :=
  match n with
  | 0 => g
  | n + 1 =>
    let lo := m * mmaBlock comb
    mmaLoop cfg h comb col a b pa pb c tfmt tscl kk (m + 1) n
      (mmaBlockStep cfg h comb col a b pa pb c tfmt tscl lo (min (mmaBlock comb) (kk - lo)) g)

/-- The pool with every element of handle `h` +0. -/
def zeroAcc (cfg : Word) (h : Nat) (m : Memory) : Memory := m.setBytes (accOff cfg h) (List.replicate 1024 0)

/-- An MMA from progress point `p` to `hi`; events count in own(h). -/
def State.mmaWork (s : State) (k : TileId) (o : EngOp) (h comb : Nat) (acc col : Bool) (a b pa pb : Nat) (c : Option Nat)
    (tfmt tscl : Word) (kk p hi : Nat) : State :=
  let cfg := (s.tile k).c.poolcfg
  let pool := (s.tile k).c.pool
  let g := Eng.of (if !acc && p == 0 then zeroAcc cfg h pool else pool)
  let bk := mmaBlock comb
  let g := mmaLoop cfg h comb col a b pa pb c tfmt tscl kk (p / bk) ((hi + bk - 1) / bk - p / bk) g
  let s := s.engDone k (Eng.of g.pool) o.ranges
  s.setCtx k ((s.tile k).c.mapEntries h 1 (fun _ e => e.count g.ovf g.inv))

/-! ### Issue (16 R337) -/

/-- The checks of .BFDS (16 R337 step 3). -/
def bfdsCheck (th : Thread) (o : MmaOps) (k : Nat) : Option TrapInfo :=
  let field : TrapInfo := { code := cReservedField, detail := 0xFF, val := th.pc }
  let b := (th.reg o.b).toNat
  let f := th.tfmt
  let k0 := k0Of f b
  if !th.held then some { code := cTaskState, detail := 4, val := 0 }
  else if bitsOf f 18 2 ≠ 0 ∨ bitsOf f 52 12 ≠ 0 ∨ bitsOf th.tscl 18 46 ≠ 0 ∨ wPitch f = 0 ∨ nGrp f = 0 then some field
  else if b < wBase f ∨ wPitch f < k0 + k ∨ nGrp f < (k0 + k + 31) / 32 then some field
  else if sBase th.tscl % 2 ≠ 0 then some { code := cAlign, detail := 2, val := BitVec.ofNat 64 (sBase th.tscl) }
  else none

/-- A base of an operand: space 0x0, and a multiple of its element size. -/
def baseCheck (a : Word) (sz : Nat) : Option TrapInfo :=
  if spaceOf a ≠ 0 ∨ a.getLsbD 18 then some { code := cAddressSpace, detail := 3, val := a }
  else if a.toNat % sz ≠ 0 then some { code := cAlign, detail := sz, val := a }
  else none

/-- A range [lo, hi) inside the scratchpad; xval is the operand's base. -/
def rangeCheck (cfg : Word) (a : Word) (lo hi : Nat) : Option TrapInfo :=
  if rangeRegion cfg lo hi ≠ 0 then some { code := cProtect, detail := rangeRegion cfg lo hi, val := a } else none

/-- The ranges of an MMA or MMAG, with the base each belongs to (16 R337 step 6). -/
def mmaRanges (m : Memory) (th : Thread) (o : MmaOps) (c : Option Reg) (k : Nat) : List (Word × Nat × Nat) :=
  let t := mmaTypes o.comb.val
  let sa := ETy.size t.1
  let sb := ETy.size t.2
  let a := th.reg o.a
  let b := th.reg o.b
  let rows := (List.range 16).map (mmaRow m a.toNat o.pa.toNat (c.map (fun r => (th.reg r).toNat)))
  let lo := rows.foldl min (rows.headD 0)
  let hi := rows.foldl max 0
  let ra := if k = 0 then [] else [(a, lo, hi + k * sa)]
  let rb := if k = 0 then []
    else if o.comb.val = 1 then
      [(b, weightAddr th.tfmt b.toNat 0 0, weightAddr th.tfmt b.toNat 15 (k - 1) + 1),
       (BitVec.ofNat 64 (sBase th.tscl), scaleAddr th.tfmt th.tscl b.toNat 0 0, scaleAddr th.tfmt th.tscl b.toNat 15 (k - 1) + 2)]
    else if o.col then [(b, b.toNat, b.toNat + 15 * o.pb.toNat + k * sb)]
    else [(b, b.toNat, b.toNat + (k - 1) * o.pb.toNat + 16 * sb)]
  ra ++ rb ++ (match c with
    | none => []
    | some r => [(th.reg r, (th.reg r).toNat, (th.reg r).toNat + 32)])

/-- MMA (`c` none) and MMAG (16 R336, R337). What only the encoding decides comes first (09 R182). -/
def State.mma (s : State) (o : MmaOps) (c : Option Reg) : Out :=
  let h := o.h.toNat
  if o.comb = 1 ∧ (!o.col ∨ o.pb ≠ 0) then s.trap cReservedField 0xFF s.me.pc
  else s.withHandles h 1
    (s.withRegs ([o.a, o.b, o.k] ++ c.toList) fun th =>
      let cfg := s.here.c.poolcfg
      let k := (th.reg o.k).toNat
      let t := mmaTypes o.comb.val
      match s.ownChecks th false h 1 with
      | some t => s.trapInfo t
      | none =>
        if 65535 < k then s.trap cReservedField 0xFF th.pc
        else
          match if o.comb = 1 then bfdsCheck th o k else none with
          | some t => s.trapInfo t
          | none =>
            match (baseCheck (th.reg o.a) (ETy.size t.1)).orElse (fun _ => (baseCheck (th.reg o.b) (ETy.size t.2)).orElse
                (fun _ => c.bind (fun r => baseCheck (th.reg r) 2))) with
            | some t => s.trapInfo t
            | none =>
              let xs := mmaRanges s.here.c.pool th o c k
              match xs.findSome? (fun x => rangeCheck cfg x.1 x.2.1 x.2.2) with
              | some t => s.trapInfo t
              | none =>
                if k ≤ th.pix.toNat ∧ !(k == 0 && th.pix == 0 && !o.acc) then s.nothingLeft th
                else
                  s.issueOp th (.mma o.comb.val o.acc o.col h (th.reg o.a).toNat (th.reg o.b).toNat
                      (c.map (fun r => (th.reg r).toNat)) o.pa.toNat o.pb.toNat k th.tfmt th.tscl)
                    (xs.map (fun x => ({ lo := x.2.1, hi := x.2.2, write := false } : Range)) ++ [accRange cfg h 1])
                    [] (some 0) th.pix.toNat none)

/-- MMA (16 R336). -/
def execMma (o : MmaOps) (s : State) : Out := s.mma o none

/-- MMAG (16 R336). -/
def execMmag (o : MmaOps) (rc : Reg) (s : State) : Out := s.mma o (some rc)

/-! ### TLD (16 R339) -/

/-- The pool after a TLD: the whole block is read before the first write. -/
def tldWork (sz a b pitch : Nat) (m : Memory) : Memory :=
  (List.range 256).foldl (fun n x =>
    n.setBytes (b + (16 * (x % 16) + x / 16) * sz) (m.bytes (a + x / 16 * pitch + x % 16 * sz) sz)) m

/-- TLD: `ra` source, `rb` destination (16 R339). The pitch, which the encoding alone gives, is checked first (09 R182). -/
def execTld (w : Bool) (ra rb : Reg) (pitch : BitVec 16) (s : State) : Out :=
  if pitch.toNat % (if w then 4 else 2) ≠ 0 then s.trap cAlign (if w then 4 else 2) (pitch.setWidth 64)
  else s.withRegs [ra, rb] fun th =>
    let cfg := s.here.c.poolcfg
    let sz := if w then 4 else 2
    let a := th.reg ra
    let b := th.reg rb
    let p := pitch.toNat
    let space (x : Word) : Option TrapInfo :=
      if spaceOf x ≠ 0 ∨ x.getLsbD 18 then some { code := cAddressSpace, detail := 3, val := x } else none
    let algn (x : Word) : Option TrapInfo := if x.toNat % sz ≠ 0 then some { code := cAlign, detail := sz, val := x } else none
    match [space a, space b, algn a, algn b, rangeCheck cfg a a.toNat (a.toNat + 15 * p + 16 * sz),
        rangeCheck cfg b b.toNat (b.toNat + 256 * sz)].findSome? id with
    | some t => s.trapInfo t
    | none =>
      if th.pix ≠ 0 then s.nothingLeft th
      else
        s.issueOp th (.tld sz a.toNat b.toNat p)
          [{ lo := a.toNat, hi := a.toNat + 15 * p + 16 * sz, write := false },
           { lo := b.toNat, hi := b.toNat + 256 * sz, write := true }] [] (some 0) 0 none

end Sys2Proof.Machine
end

