-- ==== Sys2Proof/Machine/Delta.lean ====
section
/-!
DEFINITION. The delta unit: DELTA, DREAD and DSCL (16 R340 to R344).
-/
namespace Sys2Proof.Machine

/-! ### The descriptor (16 R340, R341) -/

/-- A descriptor from its 64 bytes. -/
def parseDelta (bs : List Byte) : DeltaDesc :=
  let x := leNat bs
  { q := natBits x 0 64, k := natBits x 64 64, v := natBits x 128 64, g := natBits x 192 64, o := natBits x 256 64
    dk := natBits x 320 16, dv := natBits x 336 16, c := natBits x 352 16
    inTy := Fin.ofNat 8 (natBits x 368 8), outTy := Fin.ofNat 8 (natBits x 376 8)
    qp := natBits x 384 16, kp := natBits x 400 16, vp := natBits x 416 16, op := natBits x 432 16 }

/-- A state dimension: 16, 32, … 128. -/
def dimOk (d : Nat) : Bool := d % 16 == 0 && 0 < d && d ≤ 128

/-- The RESERVED_FIELD detail of a descriptor (16 R341 step 3). -/
def deltaFault (bs : List Byte) : Option Nat :=
  let x := leNat bs
  let d := parseDelta bs
  if !dimOk d.dk || !dimOk d.dv || d.c == 0 || decide (256 < d.c) || !([5, 6].contains (natBits x 368 8))
      || !([4, 5, 6].contains (natBits x 376 8)) then some 5
  else if d.qp % ETy.size d.inTy ≠ 0 ∨ d.kp % ETy.size d.inTy ≠ 0 ∨ d.vp % ETy.size d.inTy ≠ 0 ∨ d.op % ETy.size d.outTy ≠ 0
    then some 6
  else if natBits x 448 64 ≠ 0 then some 7
  else none

/-- Handles of the state. -/
def DeltaDesc.handles (d : DeltaDesc) : Nat := d.dv / 16 * (d.dk / 16)

/-- The handle that holds element (i, j) of the state at handle `h`. -/
def DeltaDesc.handleOf (d : DeltaDesc) (h i j : Nat) : Nat := h + i / 16 * (d.dk / 16) + j / 16

/-- A base's span: base, alignment, span, whether it is written. -/
structure Span where
  base : Nat
  algn : Nat
  len : Nat
  write : Bool
  deriving DecidableEq, Repr

/-- The spans member `f` uses: 0 DELTA, 1 DREAD, 2 DSCL (16 R341). -/
def DeltaDesc.spans (d : DeltaDesc) (f : Nat) : List Span :=
  let si := ETy.size d.inTy
  let so := ETy.size d.outTy
  let q : Span := { base := d.q, algn := si, len := (d.c - 1) * d.qp + d.dk * si, write := false }
  let k : Span := { base := d.k, algn := si, len := (d.c - 1) * d.kp + d.dk * si, write := false }
  let v : Span := { base := d.v, algn := si, len := (d.c - 1) * d.vp + d.dv * si, write := false }
  let g : Span := { base := d.g, algn := 4, len := (d.c - 1) * 8 + 8, write := false }
  let o : Span := { base := d.o, algn := so, len := (d.c - 1) * d.op + d.dv * so, write := true }
  match f with
  | 0 => [q, k, v, g, o]
  | 1 => [q, o]
  | _ => []

/-- A base of the descriptor: alignment, then the scratchpad. -/
def Span.check (x : Span) (cfg : Word) : Option TrapInfo :=
  let a := BitVec.ofNat 64 x.base
  if x.base % x.algn ≠ 0 then some { code := cAlign, detail := x.algn, val := a }
  else if rangeRegion cfg x.base (x.base + x.len) ≠ 0 then
    some { code := cProtect, detail := rangeRegion cfg x.base (x.base + x.len), val := a }
  else none

/-- The issue of the three members (16 R341). -/
def State.deltaIssue (s : State) (f : Nat) (h : BitVec 7) (ra : Reg) (rs : List Reg) (job : DeltaDesc → Thread → Job) : Out :=
  s.withRegs (ra :: rs) fun th =>
    let c := s.here.c
    let a := th.reg ra
    if !th.atHome s.cur.tile then s.trapInfo (ownAway h.toNat (c.entry h.toNat))
    else if spaceOf a ≠ 0 ∨ a.getLsbD 18 then s.trap cAddressSpace 3 a
    else if a.toNat % 64 ≠ 0 then s.trap cAlign 64 a
    else if rangeRegion c.poolcfg a.toNat (a.toNat + 64) ≠ 0 then
      s.trap cProtect (rangeRegion c.poolcfg a.toNat (a.toNat + 64)) a
    else
      let bs := c.pool.bytes a.toNat 64
      match deltaFault bs with
      | some i => s.trap cReservedField i a
      | none =>
        let d := parseDelta bs
        let n := d.handles
        s.withHandles h.toNat n
          (match (s.ownChecks th false h.toNat n).orElse (fun _ => (d.spans f).findSome? (fun x => x.check c.poolcfg)) with
           | some t => s.trapInfo t
           | none =>
             if (if f = 2 then n else d.c) ≤ th.pix.toNat then s.nothingLeft th
             else
               s.issueOp th (job d th)
                 (({ lo := a.toNat, hi := a.toNat + 64, write := false } : Range)
                   :: (d.spans f).map (fun x => ({ lo := x.base, hi := x.base + x.len, write := x.write } : Range))
                   ++ [accRange c.poolcfg h.toNat n]) [] (some 0) th.pix.toNat none)

/-- DELTA (16 R342). -/
def execDelta (h : BitVec 7) (ra : Reg) (s : State) : Out :=
  s.deltaIssue 0 h ra [] fun d _ => .delta h.toNat d

/-- DREAD (16 R343). -/
def execDread (h : BitVec 7) (ra : Reg) (s : State) : Out :=
  s.deltaIssue 1 h ra [] fun d _ => .dread h.toNat d

/-- DSCL (16 R343). -/
def execDscl (h : BitVec 7) (ra rb : Reg) (s : State) : Out :=
  s.deltaIssue 2 h ra [rb] fun d th => .dscl h.toNat d.handles (bitsOf (th.reg rb) 0 32)

/-! ### Work (16 R342 to R344) -/

/-- The pool of a delta operation, and the events of each handle. -/
structure DEng where
  pool : Memory
  ev : Table (Nat × Bool)
  deriving DecidableEq, Repr

/-- An event of a step counts at a handle. -/
def DEng.note (g : DEng) (h : Nat) (v : EngVal) : DEng :=
  let e := (g.ev.get? h).getD (0, false)
  { g with ev := g.ev.set h (e.1 + v.ovf, e.2 || v.inv) }

/-- The address of element (i, j) of the state. -/
def stateAddr (cfg : Word) (h : Nat) (d : DeltaDesc) (i j : Nat) : Nat := accAddr cfg (d.handleOf h i j) (i % 16) (j % 16)

/-- Row `i` of the state as exact values. -/
def stateRow (cfg : Word) (h : Nat) (d : DeltaDesc) (m : Memory) (i : Nat) : List FVal :=
  (List.range d.dk).map (fun j => f32.decode (m.read (stateAddr cfg h d i j) 4))

/-- Elements of a type from an address on. -/
def elemsAt (ty : ETy) (m : Memory) (a n : Nat) : List FVal :=
  (List.range n).map (fun i => ETy.value ty (m.read (a + i * ETy.size ty) (ETy.size ty)))

/-- dot of 16 R342 over the terms of `n` blocks of four. -/
def dotLoop (xs ys : List FVal) (n : Nat) (r : EngVal) : EngVal :=
  match n with
  | 0 => r
  | n + 1 =>
    let ts := ((xs.take 4).zip (ys.take 4)).map (fun p => FVal.mul p.1 p.2)
    let v := rneF32 (fusedSum .rne (f32.decode r.bits :: ts))
    dotLoop (xs.drop 4) (ys.drop 4) n (addEvents v r.ovf r.inv)

def dot (xs ys : List FVal) : EngVal := dotLoop xs ys (xs.length / 4) { bits := 0, ovf := 0, inv := false }

/-- Row `i` of the update of a token: u, e, c, and the row of S. -/
def deltaRow (cfg : Word) (h : Nat) (d : DeltaDesc) (al be : FVal) (ks vs : List FVal) (g : DEng) (i : Nat) : DEng :=
  let row := stateRow cfg h d g.pool i
  let hd := d.handleOf h i 0
  let u := dot row ks
  let au := rneF32 (FVal.mul al (f32.decode u.bits))
  let e := rneF32 (FVal.add .rne (vs.getD i (.zero false)) (f32.decode au.bits).neg)
  let c := rneF32 (FVal.mul be (f32.decode e.bits))
  let g := (((g.note hd u).note hd au).note hd e).note hd c
  (List.range d.dk).foldl (fun g j =>
    let v := rneF32 (fusedSum .rne [FVal.mul al (row.getD j (.zero false)), FVal.mul (f32.decode c.bits) (ks.getD j (.zero false))])
    let g := g.note (d.handleOf h i j) v
    { g with pool := g.pool.write (stateAddr cfg h d i j) 4 v.bits }) g

/-- Row `i` of the output of token `t`. -/
def outRow (cfg : Word) (h : Nat) (d : DeltaDesc) (t : Nat) (qs : List FVal) (g : DEng) (i : Nat) : DEng :=
  let hd := d.handleOf h i 0
  let o := dot (stateRow cfg h d g.pool i) qs
  let v := toFloat d.outTy .rne (f32.decode o.bits)
  let g := (g.note hd o).note hd v
  { g with pool := g.pool.write (d.o + t * d.op + i * ETy.size d.outTy) (ETy.size d.outTy) v.bits }

/-- Token `t` of a DELTA (`upd`) or DREAD: its inputs are read before its outputs are written. -/
def deltaToken (cfg : Word) (h : Nat) (d : DeltaDesc) (upd : Bool) (g : DEng) (t : Nat) : DEng :=
  let qs := elemsAt d.inTy g.pool (d.q + t * d.qp) d.dk
  let g :=
    if upd then
      let al := f32.decode (g.pool.read (d.g + 8 * t) 4)
      let be := f32.decode (g.pool.read (d.g + 8 * t + 4) 4)
      let ks := elemsAt d.inTy g.pool (d.k + t * d.kp) d.dk
      let vs := elemsAt d.inTy g.pool (d.v + t * d.vp) d.dv
      (List.range d.dv).foldl (deltaRow cfg h d al be ks vs) g
    else g
  (List.range d.dv).foldl (outRow cfg h d t qs) g

/-- Handle `h` multiplied by α (16 R343). -/
def dsclHandle (cfg : Word) (alpha : Nat) (g : DEng) (h : Nat) : DEng :=
  (List.range 256).foldl (fun g x =>
    let a := accAddr cfg h (x / 16) (x % 16)
    let v := rneF32 (FVal.mul (f32.decode alpha) (f32.decode (g.pool.read a 4)))
    let g := g.note h v
    { g with pool := g.pool.write a 4 v.bits }) g

/-- A delta operation's pool becomes the tile's, its events those of the handles. -/
def State.deltaDone (s : State) (k : TileId) (o : EngOp) (g : DEng) : State :=
  let s := s.engDone k (Eng.of g.pool) o.ranges
  s.setCtx k (g.ev.foldl (fun c x => c.mapEntries x.1 1 (fun _ e => e.count x.2.1 x.2.2)) (s.tile k).c)

/-- Tokens `p` to `hi − 1`; DELTA counts them in the pin record of handle `h`. -/
def State.deltaWork (s : State) (k : TileId) (o : EngOp) (h : Nat) (d : DeltaDesc) (upd : Bool) (p hi : Nat) : State :=
  let c := (s.tile k).c
  let g := (List.range (hi - p)).foldl (fun g i => deltaToken c.poolcfg h d upd g (p + i)) { pool := c.pool, ev := [] }
  let s := s.deltaDone k o g
  let c := (s.tile k).c
  match upd, c.pins.get? (c.entry h).pin with
  | true, some r =>
    s.setCtx k { c with pins := c.pins.set (c.entry h).pin { r with tokens := r.tokens + BitVec.ofNat 32 (hi - p) } }
  | _, _ => s

/-- Handles `p` to `hi − 1` of a DSCL. -/
def State.dsclWork (s : State) (k : TileId) (o : EngOp) (h alpha p hi : Nat) : State :=
  let c := (s.tile k).c
  s.deltaDone k o ((List.range (hi - p)).foldl (fun g i => dsclHandle c.poolcfg alpha g (h + p + i)) { pool := c.pool, ev := [] })

end Sys2Proof.Machine
end

