-- ==== Sys2Proof/Machine/Flags.lean ====
section
/-!
DEFINITION. Flag computations: the IEEE binary32 results of the scalar core with the sticky flags they set (10 R205,
13 R257 to R261). fflags bits: 0 nx, 1 uf, 2 of, 3 dz, 4 nv.
-/
namespace Sys2Proof.Machine

def flagNx : BitVec 5 := 1
def flagUf : BitVec 5 := 2
def flagOf : BitVec 5 := 4
def flagDz : BitVec 5 := 8
def flagNv : BitVec 5 := 16

/-- A result pattern and the flags it raises. -/
structure FRes where
  bits : Nat
  flags : BitVec 5
  deriving DecidableEq, Repr

/-- The NaN result; a signalling operand or an invalid operation raises nv. -/
def FRes.nan (f : Fmt) (nv : Bool) : FRes := { bits := f.nanBits, flags := if nv then flagNv else 0 }

/-- IEEE rounding of a magnitude with default exception handling: overflow by mode, tininess after rounding. -/
def ieeeRound (f : Fmt) (md : Mode) (neg : Bool) (m : Nat) (e : Int) (sticky : Bool) : FRes :=
  let r := f.round md neg m e sticky
  if f.infBits ≤ r.mag then
    let toInf := match md with | .rne => true | .rtz => false | .rup => !neg | .rdn => neg
    { bits := f.signed neg (if toInf then f.infBits else f.maxBits), flags := flagOf ||| flagNx }
  else
    { bits := f.signed neg r.mag
      flags := (if r.inexact then flagNx else 0) ||| (if r.inexact && r.tiny then flagUf else 0) }

/-- IEEE rounding of an exact value; an exact NaN here is an invalid operation. -/
def ieeeOf (f : Fmt) (md : Mode) (x : FVal) : FRes :=
  match x with
  | .nan _ => FRes.nan f true
  | .inf s => { bits := f.signed s f.infBits, flags := 0 }
  | .zero s => { bits := f.signed s 0, flags := 0 }
  | .num n e => ieeeRound f md (decide (n < 0)) n.natAbs e false

/-- NaN operands first: the canonical NaN, nv for a signalling one; otherwise `k`. -/
def nanFirst (f : Fmt) (xs : List FVal) (k : FRes) : FRes :=
  if xs.any FVal.isNan then FRes.nan f (xs.any FVal.isSig) else k

def fpAdd (md : Mode) (a b : FVal) : FRes := nanFirst f32 [a, b] (ieeeOf f32 md (a.add md b))
def fpSub (md : Mode) (a b : FVal) : FRes := nanFirst f32 [a, b] (ieeeOf f32 md (a.add md b.neg))
def fpMul (md : Mode) (a b : FVal) : FRes := nanFirst f32 [a, b] (ieeeOf f32 md (a.mul b))

/-- a / b: 0/0 and Inf/Inf are invalid, a finite non-zero by 0 is Inf with dz (13 R258). -/
def divide (md : Mode) (a b : FVal) : FRes :=
  let s := a.isNeg != b.isNeg
  match a, b with
  | .num n e, .num m k =>
    let q := quotient n.natAbs m.natAbs
    ieeeRound f32 md s q.1 (e - k - q.2.1) q.2.2
  | .num _ _, .zero _ => { bits := f32.signed s f32.infBits, flags := flagDz }
  | .zero _, .zero _ => FRes.nan f32 true
  | .inf _, .inf _ => FRes.nan f32 true
  | .inf _, _ => { bits := f32.signed s f32.infBits, flags := 0 }
  | _, _ => { bits := f32.signed s 0, flags := 0 }

def fpDiv (md : Mode) (a b : FVal) : FRes := nanFirst f32 [a, b] (divide md a b)

/-- FMIN and FMAX: one NaN gives the other operand, two give NaN; nv if either is signalling (13 R258). -/
def fpPick (f : FVal → FVal → FVal) (x y : Nat) : FRes :=
  let a := f32.decode x
  let b := f32.decode y
  let fl : BitVec 5 := if a.isSig || b.isSig then flagNv else 0
  if a.isNan && b.isNan then { bits := f32.nanBits, flags := fl }
  else if a.isNan then { bits := y, flags := fl }
  else if b.isNan then { bits := x, flags := fl }
  else { bits := if f a b = a then x else y, flags := fl }

/-- Square root: −0 gives −0, a negative value NaN (13 R258). -/
def fpSqrt (md : Mode) (a : FVal) : FRes :=
  match a with
  | .nan s => FRes.nan f32 s
  | .inf s => if s then FRes.nan f32 true else { bits := f32.infBits, flags := 0 }
  | .zero s => { bits := f32.signed s 0, flags := 0 }
  | .num n e =>
    if n < 0 then FRes.nan f32 true
    else
      let r := rootOf n.natAbs e
      ieeeRound f32 md false r.1 r.2.1 r.2.2

/-- FABS and FNEG: the sign bit alone, but NaN is canonical (13 R258). -/
def fpSign (f : Nat → Nat) (x : Nat) : FRes :=
  match f32.decode x with
  | .nan s => FRes.nan f32 s
  | _ => { bits := f x, flags := 0 }

/-- a·b + c, or c − a·b, one rounding; Inf · 0 raises nv even beside a quiet NaN (13 R259). -/
def fpFma (md : Mode) (negate : Bool) (a b c : FVal) : FRes :=
  let p := if negate then (a.mul b).neg else a.mul b
  let invalid := p.isNan && !a.isNan && !b.isNan
  if a.isNan || b.isNan || c.isNan || invalid then
    FRes.nan f32 (a.isSig || b.isSig || c.isSig || invalid)
  else ieeeOf f32 md (p.add md c)

/-- A compare: false for NaN; `quiet` compares raise nv only for a signalling NaN (13 R260). -/
def fpCmp (quiet : Bool) (f : FVal → FVal → Bool) (a b : FVal) : Bool × BitVec 5 :=
  (f a b, if a.isSig || b.isSig || (!quiet && (a.isNan || b.isNan)) then flagNv else 0)

def fpEq (a b : FVal) : Bool × BitVec 5 := fpCmp true FVal.eq a b
def fpLt (a b : FVal) : Bool × BitVec 5 := fpCmp false FVal.lt a b
def fpLe (a b : FVal) : Bool × BitVec 5 := fpCmp false (fun a b => a.lt b || a.eq b) a b
def fpUn (a b : FVal) : Bool × BitVec 5 := fpCmp true (fun a b => a.isNan || b.isNan) a b

/-- F32 to signed I64: NaN gives 0, beyond range saturates, both with nv (13 R261). -/
def fpToInt (md : Mode) (a : FVal) : Word × BitVec 5 :=
  match a with
  | .nan _ => (0, flagNv)
  | .inf s => (if s then BitVec.intMin 64 else BitVec.intMax 64, flagNv)
  | .zero _ => (0, 0)
  | .num n e =>
    let r := roundInt md n e
    if r.1 < minInt 64 then (BitVec.intMin 64, flagNv)
    else if maxInt 64 < r.1 then (BitVec.intMax 64, flagNv)
    else (BitVec.ofInt 64 r.1, if r.2 then flagNx else 0)

/-- A narrowing or widening conversion between float formats (13 R261). -/
def fpConvert (f : Fmt) (md : Mode) (a : FVal) : FRes := nanFirst f [a] (ieeeOf f md a)

/-- The class bit (13 R261 FCLASS). -/
def fpClass (x : Nat) : Nat :=
  match f32.decode x with
  | .nan s => if s then 8 else 9
  | .inf s => if s then 0 else 7
  | .zero s => if s then 3 else 4
  | .num n _ =>
    let sub := x / 2 ^ f32.fb % 2 ^ f32.eb == 0
    if n < 0 then (if sub then 2 else 1) else (if sub then 5 else 6)

/-! ### What the instructions share -/

/-- The mode a rounding S field selects: 4 selects frm (12 R243). -/
def Thread.mode (th : Thread) (rm : Fin 5) : Mode := if rm = 4 then Mode.of th.frm.toNat else Mode.of rm.val

/-- The F32 pattern in bits [31:0] of a register (13 R257). -/
def Thread.f32Bits (th : Thread) (r : Reg) : Nat := (th.reg r).toNat % 2 ^ 32
def Thread.f32Val (th : Thread) (r : Reg) : FVal := f32.decode (th.f32Bits r)

/-- Flags accumulate and are never cleared by an instruction (13 R257). -/
def Thread.raise (th : Thread) (fl : BitVec 5) : Thread := { th with fflags := th.fflags ||| fl }

/-- An instruction that reads F32 registers and writes a float result, zero-extended, with its flags. -/
def State.fpOp (s : State) (rs : List Reg) (rd : Reg) (f : Thread → FRes) : Out :=
  s.withRegs rs fun th => s.done ((th.setReg rd (BitVec.ofNat 64 (f th).bits)).raise (f th).flags)

/-- A float compare. -/
def State.fpPred (s : State) (qd : Pred) (ra rb : Reg) (f : FVal → FVal → Bool × BitVec 5) : Out :=
  s.withRegs [ra, rb] fun th =>
    s.done ((th.setPred qd (f (th.f32Val ra) (th.f32Val rb)).1).raise (f (th.f32Val ra) (th.f32Val rb)).2)

end Sys2Proof.Machine
end

