-- ==== Sys2Proof/Machine/Merge.lean ====
section
/-!
DEFINITION. Bounded merge: the round, its instructions and its events (17 R347 to R361, 22 R377, R378).
-/
namespace Sys2Proof.Machine

/-! ### The round record (17 R348) -/

/-- A set of ids as a number, bit i for id i. -/
def idSet (ids : List Nat) : Nat := (ids.map (fun i => 2 ^ i)).foldl (· ||| ·) 0

/-- Group `k`'s 16 bytes. -/
def Group.bytes (g : Group) : List Byte :=
  leBytes 4 (g.first + g.state * 2 ^ 8 + g.parts / 4 * 2 ^ 11 + (if g.mark then 2 ^ 16 else 0)) ++ leBytes 4 g.id
    ++ leBytes 4 g.norm ++ leBytes 4 g.scale

/-- Doubleword `i` of the first four. -/
def Round.dword (r : Round) (i : Nat) : Nat :=
  match i with
  | 0 => r.round + r.nids * 2 ^ 32 + r.total * 2 ^ 48 + (r.n - 1) * 2 ^ 55
  | 1 => r.bnext + r.committed * 2 ^ 16 + r.absent * 2 ^ 32 + r.rejected * 2 ^ 48
  | 2 => r.refused + r.groups.length * 2 ^ 16 + r.owner.toNat * 2 ^ 21
  | _ => r.ctiles

/-- The 1,344 bytes of the record. -/
def Round.bytes (r : Round) : List Byte :=
  (List.range 4).flatMap (fun i => leBytes 8 (r.dword i)) ++ leBytes 32 0
    ++ (List.range 16).flatMap (fun k => match r.groups[k]? with | some g => g.bytes | none => leBytes 16 0)
    ++ leBytes 512 (idSet r.seen) ++ leBytes 512 (idSet r.done)

def recordLen : Nat := 1344

/-- The round changes, and with it the record in the scratchpad (17 R347). -/
def State.setRound (s : State) (k : TileId) (r : Round) : State :=
  (s.setCtx k { (s.tile k).c with round := some r }).poolUpdate k r.area r.bytes 21

/-! ### Checks -/

/-- Away from home, a member that names no handle (17 R349). -/
def mergeAway : TrapInfo := { code := cAccOwner, detail := 0, val := 0x8000000000000000 }

def mergeTrap (d : Nat) (v : Word) : TrapInfo := { code := cMergeState, detail := d, val := v }

/-- An operand in the scratchpad, 64-aligned (17 R351, R352). -/
def State.mergeArea (s : State) (a : Word) (len : Nat) : Option TrapInfo :=
  if spaceOf a ≠ 0 ∨ a.getLsbD 18 then some { code := cAddressSpace, detail := 3, val := a }
  else if a.toNat % 64 ≠ 0 then some { code := cAlign, detail := 64, val := a }
  else rangeCheck s.here.c.poolcfg a a.toNat (a.toNat + len)

/-- The round the acting thread owns; else ACC_OWNER or MERGE_STATE 0x08 with value `v`. -/
def State.withRound (s : State) (th : Thread) (away : TrapInfo) (v : Word) (go : Round → Out) : Out :=
  if !th.atHome s.cur.tile then s.trapInfo away
  else
    match s.here.ownsRound s.cur.tile th with
    | none => s.trapInfo (mergeTrap 8 v)
    | some r => go r

/-! ### BOPEN (17 R351) -/

/-- First handles of the larder blocks: each wholly FREE, below the number of handles, disjoint from the total. -/
def TileCtx.larder (c : TileCtx) (h n want : Nat) : List Nat :=
  (((List.range (accHandles c.poolcfg / n)).map (· * n)).filter (fun f =>
    (decide (f + n ≤ h) || decide (h + n ≤ f)) && (List.range n).all (fun i => (c.entry (f + i)).state == .free))).take want

def Group.open (f : Nat) : Group :=
  { first := f, state := 0, parts := 0, mark := false, id := 0, norm := 0, scale := 0, src := none }

/-- The capture buffer cannot take a change of the round record at `area`; the acting thread then parks (05 R94). -/
def State.withRecord (s : State) (th : Thread) (area : Nat) (go : Out) : Out :=
  if s.captureFew area recordLen then .next (s.parkCapture th) else go

/-- A hold of the acting thread: ranges in the table, which has room for them, that no engine runs. -/
def State.holdOp (s : State) (th : Thread) (slot : Option (Fin 16)) (rs : List Range) : State :=
  let k := s.cur.tile
  let c := s.here.c
  s.enqueue k { EngOp.fresh slot th .hold rs [] 0 none with id := c.nextOp }

/-- BOPEN (17 R351). -/
def execBopen (rd : Reg) (h : BitVec 7) (n1 : Fin 16) (want : BitVec 5) (ra rb : Reg) (s : State) : Out :=
  s.withRegs [ra, rb] fun th =>
    let k := s.cur.tile
    let c := s.here.c
    let a := th.reg ra
    let b := th.reg rb
    let n := n1.val + 1
    let round := bitsOf a 0 32
    let ids := bitsOf a 32 16
    if !th.atHome k then s.trapInfo (ownAway h.toNat (c.entry h.toNat))
    else if c.round.isSome then s.trapInfo (mergeTrap 5 a)
    else if round = 0 ∨ ids = 0 ∨ 4096 < ids ∨ bitsOf a 48 16 ≠ 0 then s.trapInfo (mergeTrap 6 a)
    else
      match s.mergeArea b recordLen with
      | some t => s.trapInfo t
      | none =>
        s.withHandles h.toNat n
          (match s.ownChecks th false h.toNat n with
           | some t => s.trapInfo t
           | none =>
             if c.lockHit s.here.r.cyc b.toNat (b.toNat + recordLen) then (s.drawn k).trapInfo (s.lockTrap k b)
             else
               let fs := c.larder h.toNat n (if want = 0 then 16 else want.toNat)
               let rg : Range := { lo := b.toNat, hi := b.toNat + recordLen, write := true }
               if fs.isEmpty then s.trapInfo (mergeTrap 9 a)
               else if !c.lockRoom [rg] then .next (s.park th .lockSpace)
               else if s.captureFew b.toNat recordLen then .next (s.parkCapture th)
               else
                 let r : Round := { area := b.toNat, op := c.nextOp, round := round, nids := ids, total := h.toNat, n := n
                                    bnext := 0, committed := 0, absent := 0, rejected := 0, refused := 0, owner := th.hslot
                                    ctiles := 0, groups := fs.map Group.open, seen := [], done := [], order := [], busy := false }
                 let c := fs.foldl (fun c f => c.mapEntries f n (fun _ e =>
                   { e with state := .staged, owner := th.hslot, ovf := 0, inv := false })) c
                 ((((s.setCtx k c).holdOp th none [rg]).setRound k r).done (th.setReg rd (BitVec.ofNat 64 fs.length))))

/-! ### BSEND and its packets (17 R352, R353) -/

/-- A bind request leaves; what it carries is the source, the thread's token, round, id, tiles, tiles already sent. -/
def State.sendBind (s : State) (t src : TileId) (tok round cid n idx : Nat) : State :=
  s.packet src t 3 1 .bindRequest (.merge t src tok round cid n idx [])

/-- BSEND (17 R352). -/
def execBsend (rs ra rb : Reg) (n1 : Fin 16) (s : State) : Out :=
  s.withRegs [rs, ra, rb] fun th =>
    let k := s.cur.tile
    let d := th.reg rs
    let l := th.reg ra
    let p := th.reg rb
    let n := n1.val + 1
    if !th.atHome k then s.trapInfo mergeAway
    else if bitsOf d 48 16 ≠ 0 ∨ bitsOf d 0 32 = 0 then s.trapInfo (mergeTrap 6 d)
    else if l.toNat / 2 ^ 18 ≠ 0 then s.trap cAddressSpace 1 l
    else if !s.inPartition k (shadowBase k + l.toNat) then s.trap cAddressSpace 2 l
    else
      match s.mergeArea p (1024 * n) with
      | some t => s.trapInfo t
      | none =>
        let rg : Range := { lo := p.toNat, hi := p.toNat + 1024 * n, write := false }
        if n ≤ th.pix.toNat then s.nothingLeft th
        else if !s.here.c.lockRoom [rg] then .next (s.park th .lockSpace)
        else
          s.release th
            (.next (((s.holdOp th (some s.cur.slot) [rg]).park th .bsend).sendBind (shadowBase k + l.toNat) k s.nextRef.tok
              (bitsOf d 0 32) (bitsOf d 32 16) n th.pix.toNat))

/-- The refusal a bind request meets (17 R353). -/
def Round.refusal (r : Option Round) (round cid n : Nat) : Option Nat :=
  match r with
  | none => some 1
  | some r =>
    if r.round ≠ round then some 1
    else if r.nids ≤ cid then some 3
    else if r.n ≠ n then some 4
    else if r.seen.contains cid then some 2
    else none

/-- The lowest-numbered free group. -/
def Round.freeGroup (r : Round) : Option Nat := (List.range r.groups.length).find? (fun i => ((r.groups[i]?).map Group.state) == some 0)

/-- The group bound to an id that still takes packets; a group that is free keeps its other fields until it is bound again (log 77). -/
def Round.boundTo (r : Round) (cid : Nat) : Option Nat :=
  (List.range r.groups.length).find? (fun i => match r.groups[i]? with | some g => g.state == 1 && g.id == cid | none => false)

def Round.setGroup (r : Round) (i : Nat) (f : Group → Group) : Round := { r with groups := r.groups.modify i f }

/-- The operand of a contributor as MERGE_STATE reports it: G[D]. -/
def contributor (round cid : Nat) : Word := BitVec.ofNat 64 (round + cid * 2 ^ 32)

/-- BIND_REQUEST (17 R353, 22 R378): refused, bound, or bounced for want of a free group or while the tile is
pre-empted (R372). -/
def execBindRequest (s : State) : Out :=
  match s.input with
  | .merge t src tok round cid n idx _ =>
    let m := (s.tile t).r.mode
    if m == .stopping || m == .saved then .next (s.relay t src 1 1 .messageBounce (.merge src t tok round cid n idx []))
    else
      let s := s.log t kMerge 0 16 .bindRequest s.input 0
      let r := (s.tile t).c.round
      let dest : Ref := { tile := src, tok := tok }
      match Round.refusal r round cid n, r with
      | some d, _ =>
        let s := match r with
          | some r => s.setRound t { r with refused := min 0xFFFF (r.refused + 1) }
          | none => s
        .next (s.packet t src 1 1 .accessReply (.reply dest (.trap (mergeTrap d (contributor round cid)))))
      | none, some r =>
        match r.freeGroup with
        | none => .next (s.packet t src 1 1 .messageBounce (.merge src t tok round cid n idx []))
        | some i =>
          let r := (r.setGroup i (fun g => { g with state := 1, id := cid, parts := 0, mark := false, src := some (src, tok) }))
          let s := s.setRound t { r with seen := setAdd r.seen cid }
          .next (s.packet t src 1 1 .accessReply (.merge src t tok round cid n idx []))
      | none, none => .next s
  | _ => .next s

/-- BIND_REQUEST_RETRY (17 R352). -/
def execBindRequestRetry (s : State) : Out :=
  match s.input with
  | .merge t src tok round cid n idx _ => .next (s.sendBind t src tok round cid n idx)
  | _ => .next s

/-- Flits of a packet of merge data: a header and 256 bytes (04 R68). -/
def partFlits : Nat := 9

/-- The bind is accepted: the tiles go out in quarters, then the marker (17 R352). -/
def State.sendTiles (s : State) (t src : TileId) (j : Fin 16) (tok round cid n idx : Nat) : State :=
  let base := ((s.tile src).c.ops.find? (fun o => o.slot == some j && o.job == .hold)).bind (fun o => o.ranges.head?.map Range.lo)
  let s := (List.range (4 * (n - idx))).foldl (fun s i =>
    s.packet src t 4 partFlits .mergeData
      (.merge t src tok round cid n (4 * idx + i) ((s.tile src).c.pool.bytes (base.getD 0 + 256 * (4 * idx + i)) 256))) s
  let s := s.setThr src j { s.thr src j with pix := BitVec.ofNat 20 n }
  s.packet src t 4 1 .mergeMarker (.merge t src tok round cid n n [])

/-- The range of a BSEND is released as its thread goes on. -/
def State.endBsend (s : State) (r : Ref) : State :=
  match s.slotOf r with
  | none => s
  | some j =>
    match (s.thr r.tile j).park with
    | some ⟨.bsend, _, _, _⟩ =>
      match (s.tile r.tile).c.ops.find? (fun o => o.slot == some j && o.job == .hold) with
      | some o => s.releaseOp r.tile o
      | none => s
    | _ => s

/-- ACCESS_REPLY (07 R149): the reply is logged LREPLY and delivered; a request that a port refused is back (14 R276); the acceptance of
a bind request lets its BSEND send (17 R352). -/
def execAccessReply (s : State) : Out :=
  match s.input with
  | .reply r v => .next ((s.endBsend r).logReply r v .accessReply)
  | .port _ _ _ src _ _ => .next (s.bounced src s.input)
  | .merge src t tok round cid n idx _ =>
    match s.slotOf { tile := src, tok := tok } with
    | none => .next s
    | some j => .next ((s.log src kLreply j.val 8 .accessReply s.input 0).sendTiles t src j tok round cid n idx)
  | _ => .next s

/-! ### BWAIT and BCLOSE (17 R354, R359) -/

/-- What BWAIT finds: the value it returns and the round after. -/
def Round.waitStep (r : Round) : Option (Word × Round) :=
  match r.order with
  | i :: rest =>
    match r.groups[i]? with
    | some g =>
      some (BitVec.ofNat 64 (2 ^ 63 + g.first * 2 ^ 16 + g.id),
        { r.setGroup i (fun g => { g with state := 3 }) with order := rest })
    | none => none
  | [] =>
    if r.seen.length = r.nids ∧ !(r.groups.any (fun g => g.state == 1)) then some (0, r) else none

/-- What BCLOSE finds. -/
inductive Closing where
  | arrived
  | unsealed (h : Nat)
  | closed
  | wait
  deriving DecidableEq, Repr

def TileCtx.closing (c : TileCtx) (r : Round) : Closing :=
  if r.groups.any (fun g => g.state == 2) then .arrived
  else
    match r.groups.find? (fun g => g.state == 3 || g.state == 4) with
    | some g => .unsealed g.first
    | none => if r.done.length = r.nids ∧ !(c.ops.any (fun o => o.job.unit == 3)) then .closed else .wait

/-- The round is closed: larder handles FREE, the record's range released; its bytes stay (17 R359, 22 R377). -/
def State.closeRound (s : State) (k : TileId) (r : Round) : State :=
  let c := r.groups.foldl (fun c g => c.mapEntries g.first r.n (fun _ _ => OwnEntry.reset)) (s.tile k).c
  let s := s.setCtx k { c with round := none }
  match c.ops.find? (fun o => o.id == r.op) with
  | some o => s.releaseOp k o
  | none => s

/-- The parked owner looks again after an arrival or the end of a commit. -/
def State.mergeLook (s : State) (k : TileId) : State :=
  match (s.tile k).c.round with
  | none => s
  | some r =>
    match (List.finRange 16).findSome? (fun j => match (s.tile k).slot j with
        | some th =>
          match th.park with
          | some p => if th.hslot == r.owner && th.atHome k then some p else none
          | none => none
        | none => none) with
    | none => s
    | some p =>
      let dest : Ref := { tile := k, tok := p.tok }
      match p.why with
      | .bwait _ =>
        match r.waitStep with
        | some x => (s.setRound k x.2).deliver dest (.value x.1)
        | none => s
      | .bclose _ =>
        match (s.tile k).c.closing r with
        | .arrived => s.deliver dest (.value 0x8000000000000000)
        | .unsealed h => s.deliver dest (.trap (mergeTrap 0x0B (BitVec.ofNat 64 h)))
        | .closed => (s.closeRound k r).deliver dest (.value (BitVec.ofNat 64 r.committed))
        | .wait => s
      | _ => s

/-- BWAIT (17 R354). -/
def execBwait (rd : Reg) (s : State) : Out :=
  s.withRound s.me mergeAway 0 fun r =>
    let k := s.cur.tile
    match r.waitStep with
    | some x => s.withRecord s.me r.area ((s.setRound k x.2).done (s.me.setReg rd x.1))
    | none => .next ((s.park s.me (.bwait rd)).after s.here.c.coltimeo.toNat .bwaitTimeout (.ref s.nextRef))

/-- BCLOSE (17 R359). -/
def execBclose (rd : Reg) (s : State) : Out :=
  s.withRound s.me mergeAway 0 fun r =>
    let k := s.cur.tile
    match s.here.c.closing r with
    | .arrived => s.done (s.me.setReg rd 0x8000000000000000)
    | .unsealed h => s.trapInfo (mergeTrap 0x0B (BitVec.ofNat 64 h))
    | .closed => (s.closeRound k r).done (s.me.setReg rd (BitVec.ofNat 64 r.committed))
    | .wait => .next ((s.park s.me (.bclose rd)).after s.here.c.coltimeo.toNat .bcloseTimeout (.ref s.nextRef))

/-- BWAIT_TIMEOUT (17 R354). -/
def execBwaitTimeout (s : State) : Out :=
  match s.input with
  | .ref r => .next (s.deliver r (.value 0x4000000000000000))
  | _ => .next s

/-- BCLOSE_TIMEOUT (17 R359). -/
def execBcloseTimeout (s : State) : Out :=
  match s.input with
  | .ref r => .next (s.deliver r (.value 0x4000000000000000))
  | _ => .next s

/-- A group whose data and marker are in has arrived; its contributor is acknowledged (17 R353). -/
def State.tryArrived (s : State) (t : TileId) (r : Round) (i : Nat) : State :=
  match r.groups[i]? with
  | none => s.setRound t r
  | some g =>
    if g.mark && g.parts == 4 * r.n then
      let s := s.setRound t { r.setGroup i (fun g => { g with state := 2 }) with order := r.order ++ [i] }
      let s := match g.src with
        | some (src, tok) => s.packet t src 1 1 .accessReply (.reply { tile := src, tok := tok } .ack)
        | none => s
      s.mergeLook t
    else s.setRound t r

/-- The group of the open round that a packet belongs to. -/
def State.packetGroup (s : State) (t : TileId) (round cid : Nat) : Option (Round × Nat) :=
  match (s.tile t).c.round with
  | none => none
  | some r => if r.round = round then (r.boundTo cid).map (fun i => (r, i)) else none

/-- MERGE_DATA (17 R353): a quarter of a tile is written into the bound group's handle, bits unchanged; packets of no group are
discarded. -/
def execMergeData (s : State) : Out :=
  match s.input with
  | .merge t _ _ round cid _ idx data =>
    let s := s.log t kMerge 0 (16 + data.length) .mergeData s.input 0
    match s.packetGroup t round cid with
    | none => .next s
    | some (r, i) =>
      let first := ((r.groups[i]?).map Group.first).getD 0
      let s := s.poolWrite t (accOff (s.tile t).c.poolcfg first + 256 * idx) data
      .next (s.tryArrived t (r.setGroup i (fun g => { g with parts := g.parts + 1 })) i)
  | _ => .next s

/-- MERGE_MARKER (17 R353): the marker of no group is answered with refusal 0x02. -/
def execMergeMarker (s : State) : Out :=
  match s.input with
  | .merge t src tok round cid _ _ _ =>
    let s := s.log t kMerge 0 16 .mergeMarker s.input 0
    match s.packetGroup t round cid with
    | none => .next (s.packet t src 1 1 .accessReply (.reply { tile := src, tok := tok } (.trap (mergeTrap 2 (contributor round cid)))))
    | some (r, i) => .next (s.tryArrived t (r.setGroup i (fun g => { g with mark := true, src := some (src, tok) })) i)
  | _ => .next s

/-! ### BNORM and BSEAL (17 R355, R356) -/

/-- The larder group whose first handle is `h` and whose state `f` admits. -/
def Round.groupAt (r : Round) (h : Nat) (f : Nat → Bool) : Option Nat :=
  (List.range r.groups.length).find? (fun i => match r.groups[i]? with | some g => g.first == h && f g.state | none => false)

/-- BNORM (17 R355). -/
def execBnorm (rd : Reg) (h : BitVec 7) (s : State) : Out :=
  s.withRound s.me (ownAway h.toNat (s.here.c.entry h.toNat)) 0 fun r =>
    match r.groupAt h.toNat (fun st => st == 3 || st == 4) with
    | none => s.trapInfo (mergeTrap 0x0A (h.setWidth 64))
    | some i =>
      if r.n ≤ s.me.pix.toNat then s.nothingLeft s.me
      else s.issueOp s.me (.bnorm i r.n rd) [accRange s.here.c.poolcfg h.toNat r.n] [] (some rd) s.me.pix.toNat none

/-- The squares of row `row` of a handle. -/
def rowTerms (cfg : Word) (m : Memory) (h row : Nat) : List FVal :=
  (List.range 16).map (fun j =>
    let x := f32.decode (m.read (accAddr cfg h row j) 4)
    FVal.mul x x)

/-- The running squared norm over one tile, with its events. -/
def normTile (cfg : Word) (m : Memory) (h : Nat) (v : EngVal) : EngVal :=
  (List.range 16).foldl (fun v row =>
    let b := redBlock 1 v.bits (rowTerms cfg m h row)
    addEvents b v.ovf v.inv) v

/-- Tiles `p` to `hi − 1` of a BNORM: gnorm is the running value; each tile's events count in its entry. -/
def State.bnormWork (s : State) (k : TileId) (i p hi : Nat) : State × Nat :=
  match (s.tile k).c.round with
  | none => (s, 0)
  | some r =>
    let cfg := (s.tile k).c.poolcfg
    let g := (r.groups[i]?).getD (Group.open 0)
    let x := (List.range (hi - p)).foldl (fun (x : State × Nat) d =>
      let v := normTile cfg (s.tile k).c.pool (g.first + p + d) { bits := x.2, ovf := 0, inv := false }
      (x.1.setCtx k ((x.1.tile k).c.mapEntries (g.first + p + d) 1 (fun _ e => e.count v.ovf v.inv)), v.bits))
      (s, if p = 0 then 0 else g.norm)
    (x.1.setRound k (r.setGroup i (fun g => { g with norm := x.2, state := if hi = r.n then 4 else g.state })), x.2)

/-- The scale of a group with squared norm `n2` under the limit `beta`, and whether it is rejected (17 R356). -/
def sealScale (n2 beta : Nat) : Nat × Bool :=
  let x := f32.decode n2
  let b := f32.decode beta
  if x.isNan || x == .inf false then (0, true)
  else
    let nu := (fpSqrt .rne x).bits
    if (f32.decode nu).lt b || (f32.decode nu).eq b then (0x3F800000, false) else ((divide .rne b (f32.decode nu)).bits, false)

/-- A limit that BSEAL refuses: NaN or negative (17 R356, R350). -/
def limitBad (beta : Nat) : Bool := (f32.decode beta).isNan || (decide (2 ^ 31 ≤ beta) && beta != 2 ^ 31)

/-- A sealed group whose id is due starts its commit; one that finds no lock entries waits for them (17 R357). -/
def State.tryCommit (s : State) (k : TileId) : State :=
  let c := (s.tile k).c
  match c.round with
  | none => s
  | some r =>
    match r.groups.findIdx? (fun g => g.state == 5 && g.id == r.bnext) with
    | none => s
    | some i =>
      if c.ops.any (fun o => match o.job with | .commit _ _ => true | _ => false) then s
      else
        let g := (r.groups[i]?).getD (Group.open 0)
        let rs := [accRange c.poolcfg r.total r.n, accRange c.poolcfg g.first r.n]
        let hold := c.ops.find? (fun o => o.id == r.op)
        (s.enqueue k { EngOp.fresh none Thread.reset (.commit i r.n) rs [] r.ctiles none with
          launch := (hold.map EngOp.launch).getD 0, tid := (hold.map EngOp.tid).getD 0 }).kick k

/-- BSEAL (17 R356). -/
def execBseal (rd : Reg) (h : BitVec 7) (s : State) : Out :=
  s.withRound s.me (ownAway h.toNat (s.here.c.entry h.toNat)) 0 fun r =>
    match r.groupAt h.toNat (fun st => st == 4) with
    | none => s.trapInfo (mergeTrap 0x0A (h.setWidth 64))
    | some i =>
      let beta := s.me.blim.toNat
      if limitBad beta then s.trapInfo (mergeTrap 7 0)
      else
        s.withRecord s.me r.area
        (let g := (r.groups[i]?).getD (Group.open 0)
        let x := sealScale g.norm (if beta = 2 ^ 31 then 0 else beta)
        let s' := s.setRound s.cur.tile (r.setGroup i (fun g => { g with scale := x.1, state := 5 }))
        (s'.tryCommit s.cur.tile).done (s.me.setReg rd (BitVec.ofNat 64 (x.1 + (if x.2 then 2 ^ 63 else 0)))))

/-! ### The commit (17 R357) -/

/-- The lowest id not done, or N. -/
def Round.due (r : Round) : Nat := ((List.range r.nids).find? (fun i => !r.done.contains i)).getD r.nids

/-- Tile `d` of a commit: T ← fused([T, s·G]) for every element. -/
def commitTile (cfg : Word) (total first scale d : Nat) (g : Eng) : Eng :=
  (List.range 256).foldl (fun g x =>
    let a := accAddr cfg (total + d) (x / 16) (x % 16)
    let t := f32.decode (g.pool.read a 4)
    let y := f32.decode (g.pool.read (accAddr cfg (first + d) (x / 16) (x % 16)) 4)
    g.put a 4 (rneF32 (fusedSum .rne [t, FVal.mul (f32.decode scale) y]))) g

/-- A group sealed with a norm that is not finite (17 R356). -/
def Group.rejected (g : Group) : Bool := let x := f32.decode g.norm; x.isNan || x == .inf false

/-- Tiles ctiles to `hi − 1` of the commit of group `i`. -/
def State.commitWork (s : State) (k : TileId) (i hi : Nat) : State :=
  match (s.tile k).c.round with
  | none => s
  | some r =>
    let g := (r.groups[i]?).getD (Group.open 0)
    let cfg := (s.tile k).c.poolcfg
    let s := if g.rejected then s else
      (List.range (hi - r.ctiles)).foldl (fun s d =>
        let e := commitTile cfg r.total g.first g.scale (r.ctiles + d) (Eng.of (s.tile k).c.pool)
        let s := s.engDone k (Eng.of e.pool) [accRange cfg r.total r.n]
        s.setCtx k ((s.tile k).c.mapEntries (r.total + r.ctiles + d) 1 (fun _ x => x.count e.ovf e.inv))) s
    s.setRound k { r with ctiles := hi }

/-- The last tile of a commit is in (17 R357): the group is free, counts, bnext and the ranges follow. -/
def State.endCommit (s : State) (k : TileId) (o : EngOp) (r : Round) (i : Nat) : State :=
  let g := (r.groups[i]?).getD (Group.open 0)
  let s := s.commitWork k i r.n
  let s := s.setCtx k ((s.tile k).c.mapEntries g.first r.n (fun _ e => e.clear))
  let done := setAdd r.done g.id
  let r := { r.setGroup i (fun g => { g with state := 0 }) with
    committed := if g.rejected then r.committed else r.committed + 1
    rejected := if g.rejected then r.rejected + 1 else r.rejected
    done := done, ctiles := 0 }
  let s := s.setRound k { r with bnext := r.due }
  ((s.releaseOp k o).tryCommit k).mergeLook k

/-! ### BABSENT and BSTAT (17 R358, R360) -/

/-- BABSENT (17 R358). -/
def execBabsent (ra : Reg) (s : State) : Out :=
  s.withRegs [ra] fun th =>
    let a := th.reg ra
    s.withRound th mergeAway a fun r =>
      let cid := bitsOf a 0 16
      let bound := r.boundTo cid
      if a.toNat / 2 ^ 16 ≠ 0 then s.trapInfo (mergeTrap 6 a)
      else if r.nids ≤ cid then s.trapInfo (mergeTrap 3 a)
      else if r.seen.contains cid && bound.isNone then s.trapInfo (mergeTrap 2 a)
      else
        s.withRecord th r.area
        (let r := match bound with
          | some i => r.setGroup i (fun g => { g with state := 0 })
          | none => r
        let r := { r with seen := setAdd r.seen cid, done := setAdd r.done cid, absent := r.absent + 1 }
        ((s.setRound s.cur.tile { r with bnext := r.due }).tryCommit s.cur.tile).done th)

/-- BSTAT (17 R360). -/
def execBstat (rd : Reg) (dw : Fin 4) (s : State) : Out :=
  if !s.me.atHome s.cur.tile then s.trapInfo mergeAway
  else s.done (s.me.setReg rd (match s.here.c.round with | some r => BitVec.ofNat 64 (r.dword dw.val) | none => 0))

end Sys2Proof.Machine
end

