-- ==== Sys2Proof/Machine/Span.lean ====
section
/-!
DEFINITION. Span frames: their bytes, the peer tables, what a port sends, and copies to a peer (02 R33 to R40, 15 R318).
-/
namespace Sys2Proof.Machine

/-! ### Frames and blocks (02 R36 to R38) -/

/-- The 16-byte frame header. -/
def frameHeader (type dev ptag seq round : Nat) : List Byte :=
  leBytes 16 (type + dev % 2 ^ 32 * 2 ^ 16 + ptag % 2 ^ 16 * 2 ^ 48 + seq % 2 ^ 32 * 2 ^ 64 + round % 2 ^ 16 * 2 ^ 96)

/-- The 16-byte chunk header. -/
def chunkHeader (hash op off : Nat) : List Byte := leBytes 16 (hash % 2 ^ 32 + op % 256 * 2 ^ 32 + off % 2 ^ 32 * 2 ^ 64)

/-- A block: header and stored bytes. -/
def block (mode orig : Nat) (stored : List Byte) : List Byte :=
  leBytes 4 (orig + mode * 2 ^ 15 + stored.length * 2 ^ 16) ++ stored

/-- The doublewords of a block. -/
def chop8 (bs : List Byte) (n : Nat) : List (List Byte) :=
  match n with
  | 0 => []
  | n + 1 => bs.take 8 :: chop8 (bs.drop 8) n

/-- The stored form of a compressed block: presence map, then the non-zero doublewords (02 R38). -/
def compressed (bs : List Byte) : List Byte :=
  let ds := chop8 bs 512
  leBytes 64 (((List.range 512).map (fun i => if leNat (ds.getD i []) ≠ 0 then 2 ^ i else 0)).sum)
    ++ (ds.filter (fun d => leNat d != 0)).flatten

/-- A block of a payload, compressed when the copy asks for it and it gains by it. -/
def packBlock (z : Bool) (bs : List Byte) : List Byte :=
  let c := compressed bs
  if z && bs.length == 4096 && decide (c.length < 4096) then block 1 4096 c else block 0 bs.length bs

/-- The doublewords of a compressed block laid out again. -/
def spread (map : Nat) (ds : List (List Byte)) (i n : Nat) : List Byte :=
  match n with
  | 0 => []
  | n + 1 =>
    if map / 2 ^ i % 2 = 1 then ds.headD [] ++ spread map (ds.drop 1) (i + 1) n
    else leBytes 8 0 ++ spread map ds (i + 1) n

/-- A block's header has a reserved bit set: its frame is discarded (02 R36, R37). -/
def blockReserved (b : List Byte) : Bool :=
  let h := leNat (b.take 4)
  h / 2 ^ 13 % 4 != 0 || h / 2 ^ 29 != 0

/-- The bytes of a received block; none if it is malformed (02 R37, R38). -/
def unpackBlock (b : List Byte) : Option (List Byte) :=
  let h := leNat (b.take 4)
  let orig := h % 2 ^ 13
  let stored := h / 2 ^ 16 % 2 ^ 13
  let body := b.drop 4
  if 4096 < orig ∨ orig = 0 ∨ stored ≠ body.length then none
  else if h / 2 ^ 15 % 2 = 0 then (if stored = orig then some body else none)
  else
    let map := leNat (body.take 64)
    let nz := ((List.range 512).filter (fun i => map / 2 ^ i % 2 == 1)).length
    if orig ≠ 4096 ∨ stored ≠ 64 + 8 * nz then none else some (spread map (chop8 (body.drop 64) nz) 0 512)

/-- The whole frame, with its CRC. -/
def sealFrame (bs : List Byte) : List Byte := bs ++ leBytes 4 (crc32c bs).toNat

/-- A frame is taken apart: type, device, tag, seq, round, the rest before the CRC. None for a bad CRC, a reserved type or
non-zero reserved bits (02 R36). -/
structure FrameIn where
  type : Nat
  dev : Nat
  ptag : Nat
  seq : Nat
  round : Nat
  rest : List Byte
  deriving DecidableEq, Repr

def openFrame (bs : List Byte) : Option FrameIn :=
  let n := bs.length - 4
  let h := leNat (bs.take 16)
  if bs.length < 20 ∨ leNat (bs.drop n) ≠ (crc32c (bs.take n)).toNat then none
  else if 5 ≤ h % 16 ∨ h / 2 ^ 4 % 2 ^ 12 ≠ 0 ∨ h / 2 ^ 112 ≠ 0 then none
  else
    some { type := h % 16, dev := h / 2 ^ 16 % 2 ^ 32, ptag := h / 2 ^ 48 % 2 ^ 16, seq := h / 2 ^ 64 % 2 ^ 32
           round := h / 2 ^ 96 % 2 ^ 16, rest := (bs.take n).drop 16 }

/-! ### Peers and ports (02 R33 to R35) -/

/-- The valid entry of peer index `p` of a context. -/
def Device.peer (d : Device) (ctx p : Nat) : Option PeerEntry :=
  ((d.peers.get? ctx).bind (fun t => t.get? p)).filter PeerEntry.v

def Device.port (d : Device) (p : Nat) : SpanPort := (d.ports.get? p).getD SpanPort.reset

def State.setPort (s : State) (p : Nat) (x : SpanPort) : State := { s with dev := { s.dev with ports := s.dev.ports.set p x } }

/-- A frame leaves on a port. -/
def State.sendFrame (s : State) (p : Nat) (bs : List Byte) : State :=
  let x := s.dev.port p
  s.setPort p { x with sent := x.sent ++ [sealFrame bs], lastTx := s.now }

/-- A frame of tile `k` to a peer, one injection (02 R34). -/
def State.tileFrame (s : State) (k : TileId) (peer type seq round : Nat) (rest : List Byte) : State :=
  s.inject k { src := k, dst := memoryPort, cls := 4, lat := 1, slow := true, ev := .copyDataArrival
               arg := .frame k peer type seq round rest }

/-- The frame of a tile leaves on the port of its peer, if the entry still holds (02 R35). -/
def State.frameOut (s : State) (k : TileId) (peer type seq round : Nat) (rest : List Byte) : State :=
  let ctx := (s.tile k).r.ctx
  match s.dev.peer ctx peer with
  | none => s
  | some e => s.sendFrame e.port (frameHeader type s.dev.fuses.ident (Config.partTag ctx) seq round ++ rest)

/-- The context and entry of the partition a frame belongs to (02 R35, 23 R379); of several that match, the lowest context, and in it
the lowest index (log 23). -/
def Device.sourceOf (d : Device) (f : FrameIn) : Option (Nat × PeerEntry) :=
  d.peers.findSome? (fun c => (c.2.find? (fun e => e.2.v && e.2.dev == f.dev && e.2.ptag == f.ptag)).map (fun e => (c.1, e.2)))

/-- The tile of a context with a logical tile number. -/
def State.tileOf (s : State) (ctx ltn : Nat) : Option TileId :=
  (s.tiles.find? (fun x => x.2.r.ctx == ctx && ltnOf x.1 == ltn && !isShadow x.1)).map Prod.fst

/-! ### Copies to a peer (15 R318, 02 R39, R40) -/

/-- Peer index and offset of a space-0x9 address. -/
def peerIndex (a : Word) : Nat := bitsOf a 40 8

/-- seq of a copy's block: ticket, sender, block index. -/
def copySeq (ticket ltn i : Nat) : Nat := i + ltn * 2 ^ 9 + ticket * 2 ^ 27

/-- A part of a copy to a peer leaves as one block: the peer table is checked and the frame sent, and the issuing tile hears of it. -/
def State.sendBlock (s : State) (x : Xfer) : State :=
  let y := { x with stage := 3, puts := [], back := [] }
  if x.puts.isEmpty then s.carry none true y
  else
    match (s.dev.peer x.ctx (peerIndex x.dst.base)).filter PeerEntry.cp with
    | none => s.carry none true { y with fault := x.fault.orElse (fun _ => some { elem := x.lo, detail := 3, side := 2, time := s.now }) }
    | some e =>
      let seq := copySeq x.ticket (ltnOf x.tile) (x.lo * x.dst.size / 4096)
      let bs := x.puts.flatMap Put.bytes
      (s.sendFrame e.port (frameHeader 0 s.dev.fuses.ident (Config.partTag x.ctx) seq 0 ++ packBlock x.z bs)).carry none true y

/-- A copy of tile `k` to a peer faults: what is still to be acknowledged no longer counts. -/
def State.spanFault (s : State) (k : TileId) (o : EngOp) (detail : Nat) : State :=
  let run := o.spanRun ||| (2 ^ o.spanBlocks - 1)
  let f : CopyFault := { elem := o.pix, detail := detail, side := 2, time := s.now }
  let s := s.setCtx k ((s.tile k).c.setOp o.id (fun o => { o with fault := o.fault.orElse (fun _ => some f), run := (run : Int) }))
  if o.spanOver run then s.after 1 .copyComplete (.op k o.id) else s

/-- SPAN_COPY_TIMEOUT (02 R39, R40). -/
def execSpanCopyTimeout (s : State) : Out :=
  match s.input with
  | .op k id =>
    match (s.tile k).c.op? id with
    | some o => .next (if o.spanOver o.spanRun ∨ o.spanRun % 2 ^ o.spanBlocks + 1 = 2 ^ o.spanBlocks then s else s.spanFault k o 4)
    | none => .next s
  | _ => .next s

/-- A block of a copy is acknowledged with a status; a status other than 0 faults the copy, the last acknowledgement
completes it (15 R318, R319). -/
def State.copyAcked (s : State) (k : TileId) (ticket i status : Nat) : State :=
  match (s.tile k).c.ops.find? (fun o => o.started.isSome && o.job.spanTicket == some ticket) with
  | none => s
  | some o =>
    if o.spanOver o.spanRun then s
    else if status ≠ 0 then s.spanFault k o 3
    else
      let run := o.spanRun ||| 2 ^ i
      let s := s.setCtx k ((s.tile k).c.setOp o.id (fun o => { o with run := (run : Int) }))
      if o.spanOver run then s.after 1 .copyComplete (.op k o.id) else s

end Sys2Proof.Machine
end

