-- ==== Sys2Proof/Machine/Collective.lean ====
section
/-!
DEFINITION. Collective graphs: COLLD, COLRUN, COLWAIT, COLABT, COLST, and the chunks of a round (17 R362 to R369, 23 R379
to R381).
-/
namespace Sys2Proof.Machine

/-! ### Graph fields (17 R362) -/

def opKind (o : CollOp) : Nat := bitsOf o.lo 0 2
def opSpan (o : CollOp) : Bool := bitsOf o.lo 2 1 == 1
def opDeps (o : CollOp) : Nat := bitsOf o.lo 8 8
def opSucc0 (o : CollOp) : Nat := bitsOf o.lo 16 8
def opSucc1 (o : CollOp) : Nat := bitsOf o.lo 24 8
def opS0v (o : CollOp) : Bool := bitsOf o.lo 32 1 == 1
def opS1v (o : CollOp) : Bool := bitsOf o.lo 33 1 == 1
def opBase (o : CollOp) : Nat := bitsOf o.lo 34 3
def opPeer (o : CollOp) : Nat := bitsOf o.lo 40 18
def opOff (o : CollOp) : Nat := bitsOf o.hi 0 32
def opLen (o : CollOp) : Nat := bitsOf o.hi 32 32

def graphOps (h0 : Word) : Nat := bitsOf h0 32 8 + 1
def graphType (h0 : Word) : ETy := Fin.ofNat 8 (bitsOf h0 40 4)
def graphRed (h0 : Word) : Nat := bitsOf h0 44 4
def graphCount (h1 : Word) : Nat := bitsOf h1 0 32

/-- The descriptor hash: CRC-32C of gid, count, type and rop (17 R362). -/
def graphHash (h0 h1 : Word) : Nat :=
  (crc32c (leBytes 4 (bitsOf h0 0 32) ++ leBytes 4 (graphCount h1) ++ leBytes 1 (bitsOf h0 40 4) ++ leBytes 1 (graphRed h0))).toNat

/-- A header field out of range, or reserved bits (17 R365 code 2). -/
def headerBad (h0 h1 : Word) : Bool :=
  !(decide (2 ≤ bitsOf h0 40 4) && decide (bitsOf h0 40 4 ≤ 6)) || decide (2 < graphRed h0) || bitsOf h0 48 16 != 0
    || graphCount h1 == 0 || bitsOf h1 32 32 != 0

/-- An entry is malformed (17 R365 code 3). `known` says whether a logical tile is in the partition. -/
def entryBad (h0 h1 : Word) (known : Nat → Bool) (o : CollOp) : Bool :=
  let nops := graphOps h0 - 1
  let sz := ETy.size (graphType h0)
  opKind o == 3 || bitsOf o.lo 3 5 != 0 || bitsOf o.lo 37 3 != 0 || bitsOf o.lo 58 6 != 0
    || (opSpan o && decide (256 ≤ opPeer o))
    || (opS0v o && decide (nops < opSucc0 o)) || (opKind o == 0 && opS1v o && decide (nops < opSucc1 o))
    || (opKind o != 0 && opS1v o) || opOff o % sz != 0 || opLen o % sz != 0 || opLen o == 0 || decide (2 ^ 20 < opLen o)
    || decide (graphCount h1 * sz < opOff o + opLen o) || (!opSpan o && !known (opPeer o))

/-! ### The work area (17 R363) -/

def areaLen (h0 : Word) : Nat := 64 + 24 * graphOps h0

/-- The cycles of coltimeo that remain in tile cycle `now`. -/
def Coll.remaining (c : Coll) (now : Nat) : Nat := if c.state = 1 then c.ends - now else c.left

/-- The work area's bytes. -/
def Coll.bytes (c : Coll) (now : Nat) : List Byte :=
  leBytes 8 (c.state + c.round * 2 ^ 16 + c.ndone * 2 ^ 32) ++ leBytes 8 (c.remaining now)
    ++ leBytes 8 (c.hash + c.mop * 2 ^ 32) ++ leBytes 8 c.mhash ++ leBytes 8 c.h0.toNat ++ leBytes 8 c.h1.toNat ++ leBytes 16 0
    ++ c.ops.flatMap (fun o => leBytes 8 o.lo.toNat ++ leBytes 8 o.hi.toNat ++ leBytes 8 (o.deps + o.st * 2 ^ 8 + o.bytes * 2 ^ 32))

/-- The table changes, and with it the work area (17 R363). -/
def State.setColl (s : State) (k : TileId) (c : Coll) : State :=
  let bs := c.bytes (s.tile k).r.cyc
  (s.setCtx k { (s.tile k).c with coll := some c }).poolUpdate k c.area bs ((bs.length + 63) / 64)

def Coll.setOp (c : Coll) (i : Nat) (f : CollOp → CollOp) : Coll := { c with ops := c.ops.modify i f }

/-! ### The end of a round (17 R368) -/

/-- Peers the graph names. -/
def Coll.peers (c : Coll) : List (Bool × Nat) := (c.ops.map (fun o => (opSpan o, opPeer o))).dedup

/-- Aborts go once to every peer of the graph. -/
def State.sendAborts (s : State) (k : TileId) (c : Coll) : State :=
  c.peers.foldl (fun s p =>
    if p.1 then s.tileFrame k p.2 3 (ltnOf k * 2 ^ 9) c.round []
    else s.packet k (shadowBase k + p.2) 3 1 .roundAbort (.tileNum (shadowBase k + p.2) c.round)) s

/-- What COLWAIT gives for an ended round: a value, or COLLECTIVE_MISMATCH (17 R369). -/
def Coll.outcome (c : Coll) : Reply :=
  if c.state = 5 then .trap { code := cCollective, detail := c.mop, val := BitVec.ofNat 64 c.mhash }
  else .value (BitVec.ofNat 64 ((if c.state = 2 then 0 else if c.state = 4 then 2 else 1) + c.ndone * 2 ^ 8))

/-- Threads of the tile in COLWAIT go on (17 R369). -/
def State.wakeColwait (s : State) (k : TileId) (v : Reply) : State :=
  (List.finRange 16).foldl (fun s j =>
    match (s.tile k).slot j with
    | some th =>
      match th.park with
      | some ⟨.colwait _, tok, _, _⟩ => s.wakeOp { tile := k, tok := tok } v
      | _ => s
    | none => s) s

/-- The round ends in a state; ranges are released, and at any end but complete aborts go out (17 R368). -/
def State.endRound (s : State) (k : TileId) (c : Coll) (state : Nat) : State :=
  let c' := { c with state := state, left := c.ends - (s.tile k).r.cyc, rangeOp := none }
  let s := s.setColl k c'
  let s := if state = 2 then s else s.sendAborts k c'
  let s := match (s.tile k).c.ops.find? (fun o => some o.id == c.rangeOp) with
    | some o => s.releaseOp k o
    | none => s
  let s := if (s.tile k).c.preempt then s.after 1 .gangPreempt (.tileNum k 4) else s
  s.wakeColwait k c'.outcome

/-! ### Firing (17 R366, R367) -/

/-- The address of an operation's extent. -/
def Coll.address (c : Coll) (o : CollOp) : Word := c.bases.getD (opBase o) 0 + BitVec.ofNat 64 (opOff o)

/-- Bytes of a cellar base, read page by page through the gateway; none if a page refuses (17 R367). -/
def State.pagesRead (s : State) (k : TileId) (a n fuel : Nat) : State × Option (List Byte) :=
  match fuel with
  | 0 => (s, some [])
  | fuel + 1 =>
    if n = 0 then (s, some [])
    else
      let m := min n (65536 - a % 65536)
      let p := s.translate (clusterOf k) (s.tile k).r.ctx false false (a % 2 ^ 48)
      if p.2.2 ≠ 0 ∨ p.1.dev.poisonedRange p.2.1 m then (p.1, none)
      else
        let r := p.1.pagesRead k (a + m) (n - m) fuel
        (r.1, r.2.map (fun bs => p.1.cellar.bytes p.2.1 m ++ bs))

/-- Bytes written to a cellar base, page by page; false if a page refuses. -/
def State.pagesWrite (s : State) (k : TileId) (a : Nat) (bs : List Byte) (fuel : Nat) : State × Bool :=
  match fuel with
  | 0 => (s, true)
  | fuel + 1 =>
    if bs.isEmpty then (s, true)
    else
      let m := min bs.length (65536 - a % 65536)
      let cl := clusterOf k
      let p := s.translate cl (s.tile k).r.ctx false true (a % 2 ^ 48)
      if p.2.2 ≠ 0 then (p.1, false)
      else
        ((p.1.setCluster cl ((p.1.cluster cl).updateLine p.2.1 (bs.take m))).cellarWrite p.2.1 (bs.take m)).pagesWrite k (a + m)
          (bs.drop m) fuel

/-- Bytes of a base: of the pool, or of the cellar, which replay finds as they were (log 25). -/
def State.baseRead (s : State) (k : TileId) (slot : Nat) (a : Word) (n : Nat) : State × Option (List Byte) :=
  if spaceOf a = 0 then (s, some ((s.tile k).c.pool.bytes a.toNat n))
  else
    let x := s.outside k .chunkArrival slot (fun s =>
      let r := s.pagesRead k (a.toNat % 2 ^ 48) n (n / 65536 + 2)
      (r.1, .data (if r.2.isSome then 1 else 0) 0 (r.2.getD [])))
    (x.1, match x.2 with | .data 1 _ bs => some bs | _ => none)

/-- Bytes written to a base; false if a page refuses. -/
def State.baseWrite (s : State) (k : TileId) (a : Word) (bs : List Byte) : State × Bool :=
  if spaceOf a = 0 then (s.poolWrite k a.toNat bs, true)
  else
    let x := s.outside k .chunkArrival 257 (fun s =>
      let r := s.pagesWrite k (a.toNat % 2 ^ 48) bs (bs.length / 65536 + 2)
      (r.1, .num (if r.2 then 1 else 0)))
    (x.1, x.2 == .num 1)

/-- Bytes of chunk `i` of an extent of `len` bytes. -/
def chunkLen (len i : Nat) : Nat := min 4096 (len - 4096 * i)

/-- Flits of a chunk: packets of a header and 256 bytes (04 R68). -/
def chunkFlits (n : Nat) : Nat := (n + 255) / 256 + (n + 31) / 32

/-- A chunk goes to its peer: in C4 with a resend 64 cycles later, or as a frame with one 2 µs later (17 R367). -/
def State.sendChunk (s : State) (k : TileId) (c : Chunk) (peer : Nat) : State :=
  if c.span then
    (s.tileFrame k peer 2 (ltnOf k * 2 ^ 9 + c.idx) c.round (chunkHeader c.hash c.op c.off ++ block 0 c.data.length c.data)).after 5000
      .chunkResend (.chunk k c)
  else
    let t := shadowBase k + peer
    (s.packet k t 4 (chunkFlits c.data.length) .chunkArrival (.chunk t c)).after 64 .chunkResend (.chunk k c)

/-- The peer entry of a span operation is valid and lets chunks pass (02 R35); replay finds it as it was. -/
def State.peerOpen (s : State) (k : TileId) (i : Nat) (o : CollOp) : State × Bool :=
  if !opSpan o then (s, true)
  else
    let x := s.outside k .peerTableWrite i (fun s =>
      (s, .num (if ((s.dev.peer (s.tile k).r.ctx (opPeer o)).map PeerEntry.ch).getD false then 1 else 0)))
    (x.1, x.2 == .num 1)

/-- The chunks of extent bytes that a SEND sends. -/
def Coll.chunksOf (c : Coll) (k : TileId) (i : Nat) (o : CollOp) (bs : List Byte) : List Chunk :=
  (List.range ((opLen o + 4095) / 4096)).map (fun n =>
    ({ src := ltnOf k, span := opSpan o, round := c.round, op := i, hash := c.hash, off := opOff o + 4096 * n, idx := n
       data := (bs.drop (4096 * n)).take (chunkLen (opLen o) n) } : Chunk))

/-- An operation fires: a receive becomes ready, a SEND sends its extent as it stands; a refused page or peer entry ends
the round aborted. -/
def State.fire (s : State) (k : TileId) (i : Nat) : State :=
  match (s.tile k).c.coll with
  | none => s
  | some c =>
    match c.ops[i]? with
    | none => s
    | some o =>
      if c.state ≠ 1 ∨ o.st ≠ 0 then s
      else
        let c := c.setOp i (fun o => { o with st := 1 })
        let p := (s.setColl k c).peerOpen k i o
        if !p.2 then p.1.endRound k c 3
        else if opKind o ≠ 0 then p.1
        else
          let x := p.1.baseRead k i (c.address o) (opLen o)
          match x.2 with
          | none => x.1.endRound k c 3
          | some bs => (c.chunksOf k i o bs).foldl (fun s x => s.sendChunk k x (opPeer o)) x.1

/-- Operations whose count has reached 0 fire in ascending index. -/
def State.fireReady (s : State) (k : TileId) : State :=
  match (s.tile k).c.coll with
  | none => s
  | some c => (List.range c.ops.length).foldl (fun s i =>
      match c.ops[i]? with
      | some o => if o.deps = 0 ∧ o.st = 0 then s.fire k i else s
      | none => s) s

/-- Successor `j` of a done operation has one dependency less. -/
def Coll.release (c : Coll) (valid : Bool) (j : Nat) : Coll :=
  if valid then c.setOp j (fun o => { o with deps := o.deps - 1 }) else c

/-- Operation `i` is done: successors, and the round's completion (17 R367, R368). -/
def State.opDone (s : State) (k : TileId) (c : Coll) (i : Nat) : State :=
  match c.ops[i]? with
  | none => s
  | some o =>
    let c := { c.setOp i (fun o => { o with st := 2 }) with ndone := c.ndone + 1 }
    let c := (c.release (opS0v o) (opSucc0 o)).release (opKind o == 0 && opS1v o) (opSucc1 o)
    if c.ops.all (fun o => o.st == 2) then s.endRound k c 2 else (s.setColl k c).fireReady k

/-! ### COLLD (17 R365) -/

/-- Checks 1 to 7 of 07 R148 on a graph or work-area address of `size` bytes, pool regions aside. -/
def graphAddr (a : Word) (size : Nat) (cellar : Bool) : Option TrapInfo :=
  if !spaceKnown (spaceOf a) then some { code := cAddressSpace, detail := 0, val := a }
  else if !bitsNamed a ∨ isShared a then some { code := cAddressSpace, detail := 1, val := a }
  else if a.toNat % size ≠ 0 then some { code := cAlign, detail := size, val := a }
  else if spaceOf a = 0xF then some { code := cPriv, detail := 0, val := a }
  else if spaceOf a ≠ 0 ∧ !(cellar && spaceOf a == 4) then some { code := cAddressSpace, detail := 3, val := a }
  else none

/-- Doubleword `i` of a graph: in the pool, or in the thread's read buffer. -/
def State.graphWord (s : State) (th : Thread) (a : Word) (i : Nat) : Option Word :=
  if spaceOf a = 0 then some (BitVec.ofNat 64 (s.here.c.pool.read (a.toNat + 8 * i) 8))
  else th.readBuf (a + BitVec.ofNat 64 (8 * i))

/-- COLLD: the graph is read first; the load itself is an engine operation (17 R365). Graph g0 unloads. -/
def execColld (rd ra rb : Reg) (s : State) : Out :=
  s.withRegs [ra, rb] fun th =>
    let cfg := s.here.c.poolcfg
    let a := th.reg ra
    let b := th.reg rb
    match (graphAddr a 16 true).orElse (fun _ => (graphAddr b 64 false).orElse (fun _ =>
        (if spaceOf a = 0 ∧ ra ≠ 0 then rangeCheck cfg a a.toNat (a.toNat + 16) else none).orElse (fun _ =>
          rangeCheck cfg b b.toNat (b.toNat + 64)))) with
    | some t => s.trapInfo t
    | none =>
      if ra = 0 then s.issueOp th (.colld rd 0 b.toNat) [] [] (some rd) 0 none
      else
        match s.graphWord th a 0 with
        | none => s.readFor th a 16 true
        | some h0 =>
          let len := 16 + 16 * graphOps h0
          match (if spaceOf a = 0 then rangeCheck cfg a a.toNat (a.toNat + len) else none).orElse (fun _ =>
              rangeCheck cfg b b.toNat (b.toNat + areaLen h0)) with
          | some t => s.trapInfo t
          | none =>
            if (s.graphWord th a 2).isNone then s.readFor th (a + 16) (len - 16) true
            else
              s.issueOp th (.colld rd a b.toNat)
                ([{ lo := b.toNat, hi := b.toNat + areaLen h0, write := true }]
                  ++ (if spaceOf a = 0 then [{ lo := a.toNat, hi := a.toNat + len, write := false }] else []))
                [] (some rd) 0 none

/-- The loaded graph goes; its work area is ordinary scratchpad again. -/
def State.unload (s : State) (k : TileId) : State :=
  match (s.tile k).c.coll with
  | none => s
  | some c =>
    let s := s.setCtx k { (s.tile k).c with coll := none }
    match (s.tile k).c.ops.find? (fun o => o.id == c.op) with
    | some o => s.releaseOp k o
    | none => s

/-- A round runs or is held on the tile. -/
def Coll.active (c : Coll) : Bool := c.state == 1 || c.held.isSome

/-- The work of a COLLD of the thread `th`, and the value it returns: code and entry index (17 R365). The operation stays
in the queue as the holder of the work area's range. -/
def State.colldWork (s : State) (k : TileId) (o : EngOp) (th : Thread) (ga : Word) (wa : Nat) : State × Nat × Bool :=
  let busy := match (s.tile k).c.coll with | some c => c.active | none => false
  let word (i : Nat) : Word :=
    if spaceOf ga = 0 then BitVec.ofNat 64 ((s.tile k).c.pool.read (ga.toNat + 8 * i) 8)
    else (th.readBuf (ga + BitVec.ofNat 64 (8 * i))).getD 0
  if busy then (s, 1, false)
  else if o.ranges.isEmpty then (s.unload k, 0, false)
  else
    let h0 := word 0
    let h1 := word 1
    let ops := (List.range (graphOps h0)).map (fun i =>
      ({ lo := word (2 + 2 * i), hi := word (3 + 2 * i), deps := opDeps { lo := word (2 + 2 * i), hi := 0, deps := 0, st := 0, bytes := 0, acked := [] }
         st := 0, bytes := 0, acked := [] } : CollOp))
    if headerBad h0 h1 then (s, 2, false)
    else
      match ops.findIdx? (entryBad h0 h1 (fun p => s.inPartition k (shadowBase k + p))) with
      | some i => (s, 3 + 256 * i, false)
      | none =>
        let c : Coll := { area := wa, op := o.id, launch := o.launch, h0 := h0, h1 := h1, hash := graphHash h0 h1, ops := ops
                          state := 0, round := 0, ndone := 0, left := 0, ends := 0, mop := 0, mhash := 0, bases := []
                          held := none, rangeOp := none, ran := false }
        ((s.unload k).setColl k c, 0, true)

/-! ### COLRUN (17 R366) -/

/-- The first operation whose base lies elsewhere, or whose extent leaves the scratchpad. -/
def Coll.badBase (c : Coll) (cfg : Word) (bases : List Word) : Option Nat :=
  c.ops.findIdx? (fun o =>
    let b := bases.getD (opBase o) 0
    let lo := b.toNat + opOff o
    !(spaceOf b == 0 || spaceOf b == 4) || (spaceOf b == 0 && rangeRegion cfg lo (lo + opLen o) != 0))

/-- One range per scratchpad base in use: written, unless only SENDs use it. -/
def Coll.baseRanges (c : Coll) (bases : List Word) : List Range :=
  (List.range 8).filterMap (fun i =>
    let b := bases.getD i 0
    let os := c.ops.filter (fun o => opBase o == i)
    if spaceOf b ≠ 0 then none
    else
      match os with
      | [] => none
      | o :: _ =>
        some { lo := os.foldl (fun m x => min m (b.toNat + opOff x)) (b.toNat + opOff o)
               hi := os.foldl (fun m x => max m (b.toNat + opOff x + opLen x)) 0
               write := os.any (fun x => opKind x != 0) })

/-- The checks of COLRUN on its base table (17 R366). -/
def State.colBases (s : State) (a : Word) : Option TrapInfo :=
  match s.place s.cur.tile .plain 8 false a with
  | .trap t => some t
  | .here off =>
    match if spaceOf a ≠ 0 then some { code := cAddressSpace, detail := 3, val := a } else rangeCheck s.here.c.poolcfg a off (off + 64) with
    | some t => some t
    | none => if s.here.c.lockHit s.here.r.cyc off (off + 64) then some (s.lockTrap s.cur.tile a) else none
  | _ => some { code := cAddressSpace, detail := 3, val := a }

/-- COLRUN (17 R366). -/
def execColrun (rd ra rb : Reg) (s : State) : Out :=
  s.withRegs [ra, rb] fun th =>
    let k := s.cur.tile
    let a := th.reg ra
    let r := th.reg rb
    match s.colBases a with
    | some t => (s.drawn k).trapInfo t
    | none =>
      let code (n : Nat) : Out := s.done (th.setReg rd (BitVec.ofNat 64 n))
      match s.here.c.coll with
      | none => code 1
      | some c =>
        let bases := (List.range 8).map (fun i => BitVec.ofNat 64 (s.here.c.pool.read (a.toNat + 8 * i) 8))
        if c.active then code 2
        else if bitsOf r 0 16 = 0 ∨ bitsOf r 16 48 ≠ 0 then code 3
        else
          match c.badBase s.here.c.poolcfg bases with
          | some i => code (4 + 256 * i)
          | none =>
            let rs := c.baseRanges bases
            if !s.here.c.lockRoom rs then .next (s.park th .lockSpace)
            else
              let id := s.here.c.nextOp
              let s' := s.holdOp th none rs
              let c := { c with bases := bases, held := some (bitsOf r 0 16, th.tid, th.launch), ends := s.here.r.cyc, rangeOp := some id }
              let s' := s'.setCtx k { (s'.tile k).c with coll := some c }
              (s'.after 1 .colrunHoldEnd (.tile k)).done (th.setReg rd 0)

/-- COLRUN_HOLD_END (17 R366): once the po-earlier stores are performed, the round runs. -/
def execColrunHoldEnd (s : State) : Out :=
  match s.input with
  | .tile k =>
    match (s.tile k).c.coll with
    | none => .next s
    | some c =>
      match c.held with
      | none => .next s
      | some (r, tid, launch) =>
        if (s.tile k).c.outq.any (fun p => p.launch == launch && p.tid == tid && decide (p.issued ≤ c.ends)) then .next s
        else
          let left := (s.tile k).c.coltimeo.toNat
          let c := { c with
            held := none, round := r, state := 1, left := left, ends := (s.tile k).r.cyc + left, ndone := 0, ran := true
            mop := 0, mhash := 0
            ops := c.ops.map (fun o => { o with deps := opDeps o, st := 0, bytes := 0, acked := [] }) }
          .next (((s.setColl k c).after left .roundTimeout (.tileNum k r)).fireReady k)
  | _ => .next s

/-! ### Chunks (17 R367) -/

/-- What an arriving chunk meets. -/
inductive ChunkFate where
  | refused
  | mismatch
  | repeated
  | take (i : Nat)
  deriving DecidableEq, Repr

/-- The chunk comes from the peer and operation that receive `o` names. -/
def CollOp.takes (o : CollOp) (x : Chunk) : Bool :=
  opKind o != 0 && opSpan o == x.span && opPeer o == x.src && opSucc1 o == x.op

/-- The fate of a chunk at a tile. -/
def chunkFate (g : Option Coll) (x : Chunk) : ChunkFate :=
  match g with
  | none => .refused
  | some c =>
    if c.round ≠ x.round ∨ (c.state ≠ 1 ∧ c.state ≠ 2) ∨ c.held.isSome then .refused
    else if x.hash ≠ c.hash then (if c.state = 1 then .mismatch else .refused)
    else
      match (c.ops.findIdx? (fun o => o.takes x && o.st == 1)).orElse (fun _ => c.ops.findIdx? (fun o => o.takes x)) with
      | none => if c.state = 1 then .mismatch else .refused
      | some i =>
        match c.ops[i]? with
        | none => .refused
        | some o =>
          if o.st = 0 then .refused
          else if o.st = 2 ∨ o.acked.contains x.idx then .repeated
          else if x.off < opOff o ∨ opOff o + opLen o < x.off + x.data.length then .mismatch
          else .take i

/-- Element-wise reduction of a chunk into what stands there (17 R367): bytes and events. -/
def reduceBytes (ty : ETy) (red : Nat) (old new : List Byte) (n : Nat) : List Byte × Nat × Bool :=
  match n with
  | 0 => ([], 0, false)
  | n + 1 =>
    let sz := ETy.size ty
    let x := leNat (old.take sz)
    let y := leNat (new.take sz)
    let v := match red with
      | 0 => arith ty ty .rne false (FVal.add .rne) (fun a b => a + b) x y
      | 1 => arith ty ty .rne false (nanOr FVal.min) min x y
      | _ => arith ty ty .rne false (nanOr FVal.max) max x y
    let r := reduceBytes ty red (old.drop sz) (new.drop sz) n
    (leBytes sz v.bits ++ r.1, r.2.1 + v.ovf, r.2.2 || v.inv)

/-- The data of a chunk reaches the extent of operation `o`; false if a page refuses. -/
def State.applyChunk (s : State) (k : TileId) (c : Coll) (o : CollOp) (x : Chunk) : State × Bool :=
  let a := c.bases.getD (opBase o) 0 + BitVec.ofNat 64 x.off
  if opKind o = 2 then s.baseWrite k a x.data
  else
    let r := s.baseRead k 256 a x.data.length
    match r.2 with
    | none => (r.1, false)
    | some old =>
      let ty := graphType c.h0
      let v := reduceBytes ty (graphRed c.h0) old x.data (x.data.length / ETy.size ty)
      (r.1.countEstat k v.2.1 v.2.2).baseWrite k a v.1

/-- An acknowledgement of a chunk returns: in C1, or as a frame of type 1. -/
def State.ackChunk (s : State) (k : TileId) (x : Chunk) : State :=
  if x.span then s.tileFrame k x.src 1 (ltnOf k * 2 ^ 9 + x.idx) x.round (block 0 4 (leBytes 4 0))
  else
    let t := shadowBase k + x.src
    s.packet k t 1 1 .chunkAck (.chunkAck t x.round x.op x.idx x.data.length)

/-- A chunk, logged before, is matched at tile `k`; one that stops for a pre-emption refuses it, its round is frozen (17 R372). -/
def State.chunkAt (s : State) (k : TileId) (x : Chunk) : State :=
  if (s.tile k).r.mode.stops then s
  else
  match chunkFate (s.tile k).c.coll x, (s.tile k).c.coll with
  | .repeated, _ => s.ackChunk k x
  | .mismatch, some c => s.endRound k { c with mop := x.op, mhash := x.hash } 5
  | .take i, some c =>
    match c.ops[i]? with
    | none => s
    | some o =>
      let r := s.applyChunk k c o x
      if !r.2 then r.1.endRound k c 3
      else
        let o := { o with bytes := o.bytes + x.data.length, acked := o.acked ++ [x.idx] }
        let s := (r.1.setColl k (c.setOp i (fun _ => o))).ackChunk k x
        if opLen o ≤ o.bytes then s.opDone k (c.setOp i (fun _ => o)) i else s
  | _, _ => s

/-- Pool lines that the chunk may write, beside those of the work area. -/
def State.chunkLines (s : State) (k : TileId) (x : Chunk) : List Nat :=
  match chunkFate (s.tile k).c.coll x, (s.tile k).c.coll with
  | .take i, some c =>
    match c.ops[i]? with
    | some o =>
      let a := c.bases.getD (opBase o) 0
      if spaceOf a = 0 then linesOf (a.toNat + x.off) x.data.length else []
    | none => []
  | _, _ => []

/-- Lines of the work area of a tile. -/
def TileCtx.areaLines (c : TileCtx) : List Nat := match c.coll with | some g => linesOf g.area (areaLen g.h0) | none => []

/-- CHUNK_ARRIVAL (17 R367): every chunk is logged CHUNK. -/
def execChunkArrival (s : State) : Out :=
  match s.input with
  | .chunk k x => .next ((s.log k kChunk 0 (8 + x.data.length) .chunkArrival s.input 0).chunkAt k x)
  | _ => .next s

/-- A chunk of SEND operation `i` is acknowledged; a frozen round does not hear of it, and sends the chunk again (17 R372). -/
def State.chunkAcked (s : State) (k : TileId) (round i idx : Nat) : State :=
  match (s.tile k).c.coll with
  | none => s
  | some c =>
    match c.ops[i]? with
    | none => s
    | some o =>
      if c.state ≠ 1 ∨ c.round ≠ round ∨ o.st ≠ 1 ∨ opKind o ≠ 0 ∨ o.acked.contains idx ∨ (s.tile k).r.mode.stops then s
      else
        let o := { o with bytes := o.bytes + chunkLen (opLen o) idx, acked := o.acked ++ [idx] }
        let c := c.setOp i (fun _ => o)
        if opLen o ≤ o.bytes then s.opDone k c i else s.setColl k c

/-- CHUNK_ACK (17 R367): logged LREPLY. -/
def execChunkAck (s : State) : Out :=
  match s.input with
  | .chunkAck k round i idx _ => .next ((s.log k kLreply 0 0 .chunkAck s.input 0).chunkAcked k round i idx)
  | _ => .next s

/-- CHUNK_RESEND (17 R367): a chunk not acknowledged goes again while its round runs; a peer entry that no longer lets it pass ends the
round aborted (02 R35). -/
def execChunkResend (s : State) : Out :=
  match s.input with
  | .chunk k x =>
    match (s.tile k).c.coll with
    | none => .next s
    | some c =>
      match c.ops[x.op]? with
      | none => .next s
      | some o =>
        if c.state ≠ 1 ∨ c.round ≠ x.round ∨ o.st ≠ 1 ∨ o.acked.contains x.idx then .next s
        else
          let p := s.peerOpen k (256 + x.op) o
          .next (if p.2 then p.1.sendChunk k x (opPeer o) else p.1.endRound k c 3)
  | _ => .next s

/-! ### Ends and waits (17 R368, R369) -/

/-- ROUND_TIMEOUT (17 R368). -/
def execRoundTimeout (s : State) : Out :=
  match s.input with
  | .tileNum k r =>
    match (s.tile k).c.coll with
    | some c => .next (if c.state = 1 ∧ c.round = r ∧ c.ends ≤ (s.tile k).r.cyc then s.endRound k c 4 else s)
    | none => .next s
  | _ => .next s

/-- An abort for a round, logged before, reaches a tile: applied and forwarded if that round runs, else discarded (17 R368, 23 R380). -/
def State.abortAt (s : State) (k : TileId) (r : Nat) : State :=
  match (s.tile k).c.coll with
  | some c => if c.state = 1 ∧ c.round = r then s.endRound k c 3 else s
  | none => s

/-- ROUND_ABORT (17 R368). -/
def execRoundAbort (s : State) : Out :=
  match s.input with
  | .tileNum k r => .next ((s.log k kChunk 0 8 .roundAbort s.input 0).abortAt k r)
  | _ => .next s

/-- COLWAIT (17 R369). -/
def execColwait (rd : Reg) (s : State) : Out :=
  match s.here.c.coll with
  | none => s.done (s.me.setReg rd 3)
  | some c =>
    if c.active then .next (s.park s.me (.colwait rd))
    else if !c.ran then s.done (s.me.setReg rd 3)
    else
      match c.outcome with
      | .trap t => s.trapInfo t
      | .value v => s.done (s.me.setReg rd v)
      | _ => s.done s.me

/-- COLABT: a running round ends aborted (17 R369); the capture buffer must take the work area (05 R94). -/
def execColabt (s : State) : Out :=
  match s.here.c.coll with
  | some c =>
    if c.state ≠ 1 then s.done s.me
    else if s.captureFew c.area (areaLen c.h0) then .next (s.parkCapture s.me)
    else (s.endRound s.cur.tile c 3).done s.me
  | none => s.done s.me

/-- COLST: doubleword 0 of the work area, or 0 (17 R369). -/
def execColst (rd : Reg) (s : State) : Out :=
  s.done (s.me.setReg rd (match s.here.c.coll with
    | some c => BitVec.ofNat 64 (c.state + c.round * 2 ^ 16 + c.ndone * 2 ^ 32)
    | none => 0))

/-! ### Span frames of rounds (02 R36, 23 R379, R380) -/

/-- A frame that is not accepted is counted. -/
def State.discardFrame (s : State) (p : Nat) (reject : Bool) : State :=
  let x := s.dev.port p
  s.setPort p (if reject then { x with rejects := x.rejects + 1 } else { x with discards := x.discards + 1 })

/-- A frame arrives on a port: the silence timer is reset, the frame checked; `k` takes it with the context and entry of its peer (02 R35, R36,
R39). Any frame, one that is discarded too, resets the timer and marks a port that was down up again: DESIGN CHOICE (log 23), the spec does
not say how a port comes up. -/
def State.takeFrame (s : State) (p type : Nat) (bs : List Byte) (k : State → FrameIn → Nat → PeerEntry → State) : State :=
  let x := s.dev.port p
  let s := s.setPort p { x with lastRx := s.now, up := true }
  match openFrame bs with
  | none => s.discardFrame p false
  | some f =>
    if f.type ≠ type then s.discardFrame p false
    else
      match s.dev.sourceOf f with
      | none => s.discardFrame p true
      | some (ctx, e) => k s f ctx e

/-- The peer index under which a context knows a device and tag. -/
def Device.peerNumber (d : Device) (ctx : Nat) (e : PeerEntry) : Nat :=
  match (d.peers.get? ctx).bind (fun t => t.find? (fun x => x.2 == e)) with
  | some x => x.1
  | none => 0

/-- The tile a frame goes to: the same logical tile number in the partition (23 R379). -/
def State.frameTile (s : State) (ctx seq : Nat) : Option TileId := s.tileOf ctx (seq / 2 ^ 9 % 2 ^ 18)

/-- A frame that its port has accepted goes on to its tile, whose router logs it (02 R34). -/
def State.passFrame (s : State) (p : Nat) (f : FrameIn) (ctx : Nat) (e : PeerEntry) (ev : Instr) : State :=
  match s.frameTile ctx f.seq with
  | some k => s.after 0 ev (.frame k (s.dev.peerNumber ctx e) f.type f.seq f.round f.rest)
  | none => s.discardFrame p false

/-- A frame from a port is logged SPAN before its delivery to tile `k` (02 R34, 05 R101). -/
def State.logFrame (s : State) (k : TileId) (ev : Instr) (rest : List Byte) : State := s.log k kSpan 0 (16 + rest.length) ev s.input 0

/-- The chunk of a frame. -/
def frameChunk (peer seq round : Nat) (rest d : List Byte) : Chunk :=
  let h := leNat (rest.take 16)
  { src := peer, span := true, round := round, op := h / 2 ^ 32 % 256, hash := h % 2 ^ 32, off := h / 2 ^ 64 % 2 ^ 32, idx := seq % 2 ^ 9
    data := d }

/-- SPAN_CHUNK_RECEIVE (17 R367, 23 R379): at the port, and then at the tile. -/
def execSpanChunkReceive (s : State) : Out :=
  match s.input with
  | .data p _ bs =>
    .next (s.takeFrame p 2 bs (fun s f ctx e =>
      let h := leNat (f.rest.take 16)
      if h / 2 ^ 40 % 2 ^ 24 ≠ 0 ∨ h / 2 ^ 96 ≠ 0 ∨ f.seq / 2 ^ 27 ≠ 0 ∨ blockReserved (f.rest.drop 16) ∨ (unpackBlock (f.rest.drop 16)).isNone
      then s.discardFrame p false
      else s.passFrame p f ctx e .spanChunkReceive))
  | .frame k peer _ seq round rest =>
    match unpackBlock (rest.drop 16) with
    | some d => .next ((s.logFrame k .spanChunkReceive rest).chunkAt k (frameChunk peer seq round rest d))
    | none => .next s
  | _ => .next s

/-- SPAN_ROUND_ABORT_RECEIVE (23 R380). -/
def execSpanRoundAbortReceive (s : State) : Out :=
  match s.input with
  | .data p _ bs =>
    .next (s.takeFrame p 3 bs (fun s f ctx e =>
      if f.seq / 2 ^ 27 ≠ 0 then s.discardFrame p false else s.passFrame p f ctx e .spanRoundAbortReceive))
  | .frame k _ _ _ round rest => .next ((s.logFrame k .spanRoundAbortReceive rest).abortAt k round)
  | _ => .next s

/-- SPAN_PROBE_RECEIVE (02 R39). -/
def execSpanProbeReceive (s : State) : Out :=
  match s.input with
  | .data p _ bs =>
    let x := s.dev.port p
    let s := s.setPort p { x with lastRx := s.now, up := true }
    match openFrame bs with
    | some f => .next (if f.type = 4 then s else s.discardFrame p false)
    | none => .next (s.discardFrame p false)
  | _ => .next s

/-- The fired SEND over a span port that an acknowledgement's chunk index belongs to (log 23). -/
def Coll.sendFor (c : Coll) (peer idx : Nat) : Option Nat :=
  c.ops.findIdx? (fun o => opKind o == 0 && opSpan o && opPeer o == peer && o.st == 1 && !o.acked.contains idx
    && decide (4096 * idx < opLen o))

/-- SPAN_COPY_ACK_RECEIVE (15 R318, R319, 17 R367): the acknowledgement of a copy's block, or of a chunk, which is logged LREPLY. -/
def execSpanCopyAckReceive (s : State) : Out :=
  match s.input with
  | .data p _ bs =>
    .next (s.takeFrame p 1 bs (fun s f ctx e =>
      if blockReserved f.rest ∨ (unpackBlock f.rest).isNone then s.discardFrame p false else s.passFrame p f ctx e .spanCopyAckReceive))
  | .frame k peer _ seq round rest =>
    if round = 0 then
      .next ((s.logFrame k .spanCopyAckReceive rest).copyAcked k (seq / 2 ^ 27) (seq % 2 ^ 9) (leNat ((unpackBlock rest).getD [])))
    else
      let s := s.log k kLreply 0 0 .spanCopyAckReceive s.input 0
      .next (match ((s.tile k).c.coll).bind (fun c => c.sendFor peer (seq % 2 ^ 9)) with
        | some i => s.chunkAcked k round i (seq % 2 ^ 9)
        | none => s)
  | _ => .next s

/-- SPAN_COPY_DATA_RECEIVE (15 R319): the block is written to the partition's cellar and acknowledged with a status. The
address travels beside the frame (log 23). -/
def execSpanCopyDataReceive (s : State) : Out :=
  match s.input with
  | .data p addr bs =>
    .next (s.takeFrame p 0 bs (fun s f ctx e =>
      if blockReserved f.rest then s.discardFrame p false
      else
        let a := BitVec.ofNat 64 (4 * 2 ^ 60 + (addr + 4096 * (f.seq % 2 ^ 9)) % 2 ^ 40)
        let r := match unpackBlock f.rest with
          | none => (s, 1)
          | some d =>
            let w := s.fwWrite ctx a d
            (w.1, if w.2 = 0 then 0 else 1)
        r.1.sendFrame e.port (frameHeader 1 s.dev.fuses.ident (Config.partTag ctx) f.seq 0 ++ block 0 4 (leBytes 4 r.2))))
  | _ => .next s

/-- SPAN_PROBE (02 R39): a port that has sent nothing for 10 µs sends a probe. -/
def execSpanProbe (s : State) : Out :=
  match s.input with
  | .num p =>
    let idle := s.now - (s.dev.port p).lastTx
    if 25000 ≤ idle then
      .next ((s.sendFrame p (frameHeader 4 s.dev.fuses.ident 0 0 0)).after 25000 .spanProbe (.num p))
    else .next (s.after (25000 - idle) .spanProbe (.num p))
  | _ => .next s

/-- SPAN_PORT_DOWN (02 R39): no frame for 1 ms. -/
def execSpanPortDown (s : State) : Out :=
  match s.input with
  | .num p =>
    let x := s.dev.port p
    let idle := s.now - x.lastRx
    if 2500000 ≤ idle then
      .next ((if x.up then s.setPort p { x with up := false, downAt := s.ns } else s).after 2500000 .spanPortDown (.num p))
    else .next (s.after (2500000 - idle) .spanPortDown (.num p))
  | _ => .next s

/-- SPAN_LANE_FAIL (02 R33): the port retrains at 4 lanes. -/
def execSpanLaneFail (s : State) : Out :=
  match s.input with
  | .num p => .next (s.setPort p { s.dev.port p with lanes := 4 })
  | _ => .next s

end Sys2Proof.Machine
end

