-- ==== Sys2Proof/Machine/EngineRun.lean ====
section
/-!
DEFINITION. SWAPT, how engine operations start, progress and complete, and what comes from memory: copies, walks, posted stores (07
R152, R155, 14 R293, 15 R301 to R303, R320, 16 R344, R345).
-/
namespace Sys2Proof.Machine

/-! ### SWAPT (14 R293, 16 R338) -/

/-- The partition's tiles in ascending LTN order, of the primary or the shadow that tile `k` belongs to. -/
def State.partTiles (s : State) (k : TileId) : List TileId :=
  (s.tiles.filter (fun x => x.2.r.ctx == (s.tile k).r.ctx && shadowBase x.1 == shadowBase k)).map Prod.fst

/-- The transposed partner of tile `k`; none on the diagonal. -/
def State.partner (s : State) (k : TileId) : Option TileId :=
  let ts := s.partTiles k
  let w := (s.tile k).c.gridw.toNat
  match ts.findIdx? (fun t => t == k) with
  | none => none
  | some o => if w * w ≤ o ∨ o % w = o / w then none else ts[o % w * w + o / w]?

/-- SWAPT (14 R293). -/
def execSwapt (ra rb : Reg) (s : State) : Out :=
  s.withRegs [ra, rb] fun th =>
    let a := th.reg ra
    let len := th.reg rb
    let hi := a.toNat + len.toNat
    if spaceOf a ≠ 0 then s.trap cAddressSpace 3 a
    else if a.toNat % 64 ≠ 0 then s.trap cAlign 64 a
    else if len.toNat % 64 ≠ 0 then s.trap cAlign 64 len
    else if rangeRegion s.here.c.poolcfg a.toNat hi ≠ 0 then
      s.trap cProtect (rangeRegion s.here.c.poolcfg a.toNat hi) a
    else
      match s.partner s.cur.tile with
      | none => s.nothingLeft th
      | some p =>
        if len.toNat / 64 ≤ th.pix.toNat then s.nothingLeft th
        else s.issueOp th (.swapt a.toNat len.toNat p) [{ lo := a.toNat, hi := hi, write := true }] [] (some 0) th.pix.toNat none

/-- The oldest started SWAPT with a partner that is in the state `f` says: run is 0 before both sides have started; then bit 0 is set, bit 1
once the partner's lines have come, bit 2 once the partner has this tile's. -/
def TileCtx.swapFor (c : TileCtx) (t : TileId) (f : Int → Bool) : Option EngOp :=
  c.ops.find? (fun o => o.started.isSome && f o.run && (match o.job with | .swapt _ _ p => p == t | _ => false))

/-- Both sides have started: the lines of tile `k` from the partner's progress point on go to it, as they stood at the start. -/
def State.swapLines (s : State) (k p : TileId) (o : EngOp) (start : Nat) : State :=
  let n := o.buf.length / 64
  let s := s.setCtx k ((s.tile k).c.setOp o.id (fun o => { o with run := 1 }))
  if n ≤ start then s.packet k p 4 1 .copyDataArrival (.swap p k n n [])
  else
    (List.range (n - start)).foldl (fun s i =>
      s.packet k p 4 3 .copyDataArrival (.swap p k n (start + i) ((o.buf.drop (64 * (start + i))).take 64))) s

/-- A SWAPT starts: the range is taken as it stands (one that a pre-emption stopped has taken it), the partner hears of it, and if it has
started too the lines go. -/
def State.startSwap (s : State) (k : TileId) (o : EngOp) (a len p : Nat) : State :=
  let o := { o with buf := if o.buf.isEmpty then (s.tile k).c.pool.bytes a len else o.buf }
  let s := (s.setCtx k ((s.tile k).c.setOp o.id (fun _ => o))).packet k p 4 1 .copyDataArrival (.swap p k 0 o.pix [])
  match (s.tile k).c.swaps.find? (fun x => x.1 == p) with
  | some x => (s.setCtx k { (s.tile k).c with swaps := (s.tile k).c.swaps.erase x }).swapLines k p o x.2
  | none => s

/-- One side of a SWAPT is over, and with the other the exchange (14 R293): bit 1 of run for what comes, bit 2 for what goes. -/
def State.swapSide (s : State) (k : TileId) (o : EngOp) (side : Nat) : State :=
  let run := o.run.toNat ||| side
  let s := s.setCtx k ((s.tile k).c.setOp o.id (fun o => { o with run := run }))
  if run = 7 then s.after 1 .engineOpComplete (.op k o.id) else s

/-- Lines that a packet of a SWAPT writes: none at a tile that is stopping, which asks for them again after its restore. -/
def Tile.swapLine (t : Tile) (p idx : Nat) (bs : List Byte) : List Nat :=
  match (t.c.swapFor p (fun r => r.toNat % 4 == 1)).map EngOp.job with
  | some (.swapt a len _) => if 64 * idx < len ∧ !t.r.mode.stops then linesOf (a + 64 * idx) bs.length else []
  | _ => []

/-- A line of the partner comes: it is logged CWRITE and written, up to the tile's own length, and pix counts the lines written; after the
last the partner hears of it. -/
def State.swapTake (s : State) (k p n idx : Nat) (bs : List Byte) : State :=
  let s := if ((s.tile k).swapLine p idx bs).isEmpty then s.note k .copyDataArrival s.input
    else s.log k kCwrite 0 (8 + bs.length) .copyDataArrival s.input 0
  match (s.tile k).c.swapFor p (fun r => r.toNat % 4 == 1) with
  | none => s
  | some o =>
    match o.job with
    | .swapt a len _ =>
      if (s.tile k).r.mode.stops then s
      else
        let s := if 64 * idx < len && !bs.isEmpty then (s.poolWrite k (a + 64 * idx) bs).reach k o (idx + 1) else s
        if n ≤ idx + 1 then (s.swapSide k o 2).packet k p 4 1 .copyDataArrival (.swap p k 0 0 [0]) else s
    | _ => s

/-- A packet of a SWAPT reaches tile `k` (14 R293): the partner has started and says from which line on it takes, a line of it, or the word
that it has all. A stopping tile lets the first two go by: both sides begin again from their progress points (06 R136). -/
def State.swapArrive (s : State) (k p n idx : Nat) (bs : List Byte) : State :=
  if n ≠ 0 then s.swapTake k p n idx bs
  else
    let s := s.note k .copyDataArrival s.input
    if !bs.isEmpty then
      match (s.tile k).c.swapFor p (fun r => r != 0 && r.toNat / 4 == 0) with
      | some o => s.swapSide k o 4
      | none => s
    else if (s.tile k).r.mode.stops then s
    else
      match (s.tile k).c.swapFor p (fun r => r == 0) with
      | some o => s.swapLines k p o idx
      | none => s.setCtx k { (s.tile k).c with swaps := (s.tile k).c.swaps ++ [(p, idx)] }

/-! ### Extents, rates and times (15 R303, 16 R344, 17 R356) -/

/-- Progress points of a job: pix runs from the point it starts at to this. -/
def Job.extent (j : Job) : Nat :=
  match j with
  | .vec _ _ _ _ _ _ _ _ _ _ _ n => n
  | .red _ _ _ _ n _ => n
  | .gat _ _ _ _ _ _ _ n => n
  | .accLd _ n _ _ _ => n
  | .accSt _ n _ _ _ => n
  | .mma _ _ _ _ _ _ _ _ _ k _ _ => k
  | .delta _ d => d.c
  | .dread _ d => d.c
  | .dscl _ n _ => n
  | .bnorm _ n _ => n
  | .commit _ n => n
  | .copy _ _ _ _ b _ => b.count
  | _ => 1

/-- Elements in a step of a job, and the cycles of the step. -/
def Job.rate (j : Job) : Nat × Nat :=
  match j with
  | .vec f ts td _ _ _ _ _ _ _ _ _ => (if 8 ≤ f ∧ f ≤ 12 then 4 else if ts = 3 ∨ td = 3 then 8 else 16, 1)
  | .red _ ty _ _ _ _ => (if ty = 3 then 8 else 16, 1)
  | .gat .. => (4, 1)
  | .tld .. => (1, 32)
  | .accLd .. => (1, 16)
  | .accSt .. => (1, 16)
  | .mma comb _ _ _ _ _ _ _ _ _ _ _ => (mmaBlock comb, mmaCycles comb)
  | .delta _ d => (1, d.dv * d.dk / 64 + 40)
  | .dread _ d => (1, d.dv * d.dk / 64 + 40)
  | .dscl .. => (1, 16)
  | .bnorm .. => (1, 16)
  | .commit .. => (1, 16)
  | .copy _ _ _ _ b _ => (64 / b.size, 1)
  | _ => (1, 1)

/-- A progress point of a reduction is a block of sixteen, of an MMA a k-block; elsewhere every element (15 R301, 10 R218). -/
def Job.grain (j : Job) : Nat :=
  match j with
  | .red .. => 16
  | .mma comb _ _ _ _ _ _ _ _ _ _ _ => mmaBlock comb
  | _ => 1

/-- Cycles from a start at point `p` to the end: 12, and a step for each part that is left; a copy's are those of the bytes it writes. -/
def Job.cycles (j : Job) (p : Nat) : Nat :=
  match j with
  | .copy f _ _ _ b _ => copyCycles f b p
  | j => 12 + (j.extent - p + j.rate.1 - 1) / j.rate.1 * j.rate.2

/-- Cycles from a start at point `p` to the first progress point that is reached `e` cycles after it or later (06 R136). -/
def Job.pointAfter (j : Job) (p e : Nat) : Nat :=
  let m := (e - 12 + j.rate.2 - 1) / j.rate.2
  let m := ((List.range j.grain).map (fun i => m + i)).find? (fun m => decide ((p + m * j.rate.1) % j.grain = 0)) |>.getD m
  min (j.cycles p) (12 + m * j.rate.2)

/-- The progress point reached `e` cycles after a start at point `p`, short of the end. -/
def Job.reached (j : Job) (p e : Nat) : Nat :=
  let q := p + (e - 12) / j.rate.2 * j.rate.1
  max p (min q (j.extent - 1) / j.grain * j.grain)

/-! ### The work of an operation -/

/-- VEC, VRED and VGAT from the operation's point to `hi`: the state, the running value, the reply. -/
def State.vectorWork (s : State) (k : TileId) (o : EngOp) (hi : Nat) : State × Int × Reply :=
  let pool := (s.tile k).c.pool
  match o.job with
  | .vec f ts td rm sc sat a b c e cv _ =>
    (s.engDone k (vecLoop f ts td rm sc sat a b c e cv o.pix (hi - o.pix) (Eng.of pool)) o.ranges, 0, .ack)
  | .red f ty a b n _ =>
    let x := redLoop f ty pool a b n (o.pix / 16) ((hi + 15) / 16 - o.pix / 16) o.run 0 false
    let v := redResult ty x.1
    let last := hi = n
    (s.engDone k { pool := pool, ovf := x.2.1 + (if last then v.ovf else 0), inv := x.2.2 || (last && v.inv) } [], x.1,
      .value (BitVec.ofNat 64 v.bits))
  | .gat f ty x32 rm t0 lin x _ =>
    let g := gatLoop (s.tile k).c.poolcfg f ty x32 rm t0 lin x o.pix (hi - o.pix) (Eng.of pool)
    (s.engDone k g.1 o.ranges, 0, match g.2 with | some (i, t) => .fault t i | none => .ack)
  | _ => (s, 0, .ack)

/-- The thread parked on an operation. -/
def State.opThread (s : State) (k : TileId) (o : EngOp) : Thread :=
  match o.slot with
  | some j => s.thr k j
  | none => Thread.reset

/-- The operation from its progress point to `hi`: the state, the running value, and the reply if that ends it. -/
def State.opWork (s : State) (k : TileId) (o : EngOp) (hi : Nat) : State × Int × Reply :=
  match o.job with
  | .vec .. => s.vectorWork k o hi
  | .red .. => s.vectorWork k o hi
  | .gat .. => s.vectorWork k o hi
  | .tld sz a b pitch => (s.engDone k (Eng.of (tldWork sz a b pitch (s.tile k).c.pool)) o.ranges, 0, .ack)
  | .accLd h _ ty a p => (s.accLdWork k o h ty a p o.pix hi, 0, .ack)
  | .accSt h n ty a p => (s.accStWork k o h n ty a p o.pix hi, 0, .ack)
  | .mma comb acc col h a b c pa pb kk tfmt tscl =>
    (s.mmaWork k o h comb acc col a b pa pb c tfmt tscl kk o.pix hi, 0, .ack)
  | .delta h d => (s.deltaWork k o h d true o.pix hi, 0, .ack)
  | .dread h d => (s.deltaWork k o h d false o.pix hi, 0, .ack)
  | .dscl h _ alpha => (s.dsclWork k o h alpha o.pix hi, 0, .ack)
  | .bnorm g _ _ =>
    let x := s.bnormWork k g o.pix hi
    (x.1, 0, .value (BitVec.ofNat 64 x.2))
  | .commit i _ => (s.commitWork k i hi, 0, .ack)
  | .copy .. => (s.localCopy k o hi, 0, .ack)
  | _ => (s, 0, .ack)

/-! ### Events -/

/-- A started operation: its completion goes on the agenda, or its first packet leaves. -/
def State.startOp (s : State) (k : TileId) (o : EngOp) : State :=
  match o.job with
  | .commit .. => s.after (o.job.cycles o.pix) .mergeCommit (.op k o.id)
  | .copy .. => s.startCopy k o
  | .swapt a len p => s.startSwap k o a len p
  | .accAtt _ _ pin _ => s.askSpill k o (((s.tile k).c.pins.get? pin).map PinRec.spill |>.getD 0) 64
  | .accSpl _ n _ => s.after (14 + 32 * n) .engineOpComplete (.op k o.id)
  | .colld .. => (s.after (1 + Config.memLatency (s.drawAt k)) .engineOpComplete (.op k o.id)).drawn k
  | .hold => s
  | _ => s.after (o.job.cycles o.pix) .engineOpComplete (.op k o.id)

/-- ENGINE_OP_START (07 R165): the operation starts if its turn still stands; of a tile alone, all that waits there for a record, for
entries or for an operation is looked at (05 R102). -/
def execEngineOpStart (s : State) : Out :=
  match s.input with
  | .op k id =>
    match (s.tile k).c.op? id with
    | none => .next s
    | some o =>
      if o.started.isSome then .next s
      else if !(s.tile k).c.canStart o || !(s.tile k).r.starts o then
        .next (s.setCtx k ((s.tile k).c.setOp id (fun o => { o with asked := false })))
      else
        let o := { o with started := some (s.tile k).r.cyc }
        .next ((s.setCtx k ((s.tile k).c.setOp id (fun _ => o))).startOp k o)
  | .tile k => .next ((s.wakeWaits k).afterRelease k)
  | _ => .next s

/-- A COLLD completes: its value reaches the thread, and a loaded graph keeps the range of its work area (17 R365). -/
def State.endColld (s : State) (k : TileId) (o : EngOp) (ga : Word) (wa : Nat) : State :=
  let r := s.opRef k o.id
  let x := s.colldWork k o (s.opThread k o) ga wa
  let s := x.1
  if !x.2.2 then s.endOp k o (.value (BitVec.ofNat 64 x.2.1))
  else
    let area := o.ranges.filter (fun r => r.write)
    let c := (s.tile k).c.setOp o.id (fun o => { o with job := .hold, ranges := area, slot := none })
    let s := s.setCtx k { c with locks := c.locks.filter (fun l => !(l.tile == k && l.op == o.id) || area.contains l.range) }
    let s := s.afterRelease k
    match r with
    | some r => s.wakeOp r (.value 0)
    | none => s

/-- An operation of a tile that stops for a pre-emption has reached its progress point: what it has done is there, and it starts again from
that point; a gather or scatter whose index faults before it completes with its fault (06 R136). -/
def State.pauseOp (s : State) (k : TileId) (o : EngOp) (hi : Nat) : State :=
  let x := s.opWork k o hi
  match x.2.2 with
  | .fault tr i => x.1.endOp k o (.fault tr i)
  | _ =>
    let run := match o.job with | .red .. => x.2.1 | _ => o.run
    (x.1.setCtx k ((x.1.tile k).c.setOp o.id (fun o => { o with run := run }))).pauseAt k o hi

/-- The operation stops within a tile's pool: at a progress point, or, if it is a CPYS there, at an element (15 R316). -/
def Job.stopsHere (j : Job) (k : TileId) : Bool :=
  j.stops || (match j with
    | .copy f _ _ a b _ => f == 1 && isLocalCopy k a b
    | _ => false)

/-- The point at which the operation stops if its tile is stopping. -/
def State.stopsAt (s : State) (k : TileId) (o : EngOp) : Option Nat :=
  match o.started with
  | some t =>
    let hi := o.job.reached o.pix ((s.tile k).r.cyc - t)
    if (s.tile k).r.mode == .stopping && o.job.stopsHere k && decide (o.job.cycles o.pix > (s.tile k).r.cyc - t) then some hi else none
  | none => none

/-- What a completing operation does (log 9). -/
def State.completeOp (s : State) (k : TileId) (o : EngOp) : State :=
  match o.job with
  | .colld _ ga wa => s.endColld k o ga wa
  | .swapt .. => s.endOp k o .ack
  | .accSpl h n pin => s.splWork k o h n pin
  | .accAtt .. => s
  | .copy .. => s
  | _ =>
    let x := s.opWork k o o.job.extent
    x.1.endOp k o x.2.2

/-- Lines that an operation writes as it completes; those of a SWAPT have come, and a BNORM writes its round record (17 R355). -/
def EngOp.writesNow (o : EngOp) (c : TileCtx) : List Nat :=
  match o.job with
  | .swapt .. => []
  | .accSpl .. => []
  | .bnorm .. => (c.round.map (fun r => linesOf r.area recordLen)).getD []
  | _ => writeLines o.ranges

/-- ENGINE_OP_COMPLETE: the operation's effect is there, its ranges are free, its thread wakes, logged ECOMP (07 R164,
05 R101, log 9). It waits until the capture buffer can take what it writes (05 R94). -/
def execEngineOpComplete (s : State) : Out :=
  match s.input with
  | .op k id =>
    match (s.tile k).c.op? id with
    | none => .next s
    | some o =>
      if o.started.isNone then .next s
      else
        let x := s.captureOp k id (o.writesNow (s.tile k).c)
        .next (if !x.2 then x.1.after 1 .engineOpComplete s.input
          else match s.stopsAt k o with
            | some hi => x.1.pauseOp k o hi
            | none => x.1.completeOp k o)
  | .reply r v => .next (s.wakeOp r v)
  | .ref r =>
    match s.slotOf r with
    | none => .next s
    | some j =>
      match (s.thr r.tile j).park with
      | some ⟨.drain p, _, nh, _⟩ => .next (s.drainEnd r.tile j nh p)
      | _ => .next s
  | _ => .next s

/-- COPY_COMPLETE (15 R315): a local copy does its work, and a copy is over; a CPYS whose tile is stopping stops at an element. -/
def execCopyComplete (s : State) : Out :=
  match s.input with
  | .op k id =>
    match (s.tile k).c.op? id with
    | none => .next s
    | some o =>
      match o.job with
      | .copy _ _ _ a b _ =>
        if !isLocalCopy k a b then .next (s.finishCopy k o)
        else
          let x := s.captureOp k id (writeLines o.ranges)
          .next (if !x.2 then x.1.after 1 .copyComplete s.input
            else match s.stopsAt k o with
              | some hi => x.1.pauseOp k o hi
              | none => (x.1.localCopy k o b.count).finishCopy k o)
      | _ => .next s
  | _ => .next s

/-- MERGE_COMMIT (17 R357): a commit is over, or its tile is stopping and it stops at a tile boundary. -/
def execMergeCommit (s : State) : Out :=
  match s.input with
  | .op k id =>
    match (s.tile k).c.op? id, (s.tile k).c.round with
    | some o, some r =>
      match o.job with
      | .commit i _ =>
        let x := s.captureOp k id (writeLines [accRange (s.tile k).c.poolcfg r.total r.n] ++ linesOf r.area recordLen)
        .next (if !x.2 then x.1.after 1 .mergeCommit s.input
          else match s.stopsAt k o with
            | some hi => x.1.pauseOp k o hi
            | none => x.1.endCommit k o r i)
      | _ => .next s
    | _, _ => .next s
  | _ => .next s

/-! ### What comes over the network and from memory -/

/-- A part of a copy at memory (15 R312, R320, 07 R152): a page that is not cached goes to the walker first; then its elements are read,
or written, or sent to a peer. -/
def State.partOut (s : State) (x : Xfer) : State :=
  match s.pageMissing x with
  | some _ => s.walkNext (clusterOf x.tile) (.xfer none x)
  | none =>
    if x.stage = 0 then
      let y := s.readStage { x with ro := s.readOnlySource x.ctx x.src } s.freeHere
      ({ s with free := s.free + (if x.bad then x.hi * 8 else 0) }).carry none true y
    else if x.stage = 1 ∧ spaceOf x.dst.base = 9 then s.sendBlock x
    else
      let y := s.writeStage x
      y.1.carry none true (if y.2.stage = 3 then { y.2 with puts := [], back := [] } else y.2)

/-- COPY_DATA_ARRIVAL (15 R320): a part of a copy, a line of a SWAPT, a part of a spill record, or a frame at its port. -/
def execCopyDataArrival (s : State) : Out :=
  match s.input with
  | .xfer (some t) x =>
    .next (if x.stage = 3 then (s.note t .copyDataArrival s.input).partDone t { x with puts := [], back := [] } else s.partAt t x)
  | .xfer none x => .next (s.partOut x)
  | .swap t p n idx bs => .next (s.swapArrive t p n idx bs)
  | .spillIn t id a bs fault => .next (s.spillArrive t id a bs fault s.input)
  | .bytes t off bs => .next ((s.log t kCwrite 0 (8 + bs.length) .copyDataArrival s.input 0).poolWrite t off bs)
  | .frame k peer type seq round rest => .next (s.frameOut k peer type seq round rest)
  | _ => .next s

/-- TRANSLATION_WALK (07 R152): the walker has read the tables and fills the translation cache; the load, the store, the fill of a
code line or the copy that missed goes on. -/
def execTranslationWalk (s : State) : Out :=
  match s.input with
  | .gate r g =>
    let t := s.translate (clusterOf r.tile) g.ctx g.host false g.va
    .next ((t.1.sendOn r.tile memoryPort 1 (1 + Config.memLatency t.1.free) .loadReply (.gate r { g with fault := t.2.2 })).draw)
  | .stored k p =>
    let g := s.passGateway k p
    .next ((g.1.sendOn k (memoryPort + 2 ^ 10 + g.2.pa / 64) 3 (1 + Config.memLatency g.1.free) .postedStorePerform (.stored k g.2)).draw)
  | .line k lix line =>
    let a := ((s.tile k).launchOf (BitVec.ofNat 4 lix)).code + BitVec.ofNat 64 line
    let t := s.translate (clusterOf k) (s.tile k).r.ctx false false (bitsOf a 0 48)
    .next ((t.1.sendOn k memoryPort 1 (1 + Config.memLatency t.1.free) .icacheFill s.input).draw)
  | .xfer none x =>
    .next (match s.pageMissing x with
      | some p => s.pageWalked x p
      | none => s.after 1 .copyDataArrival s.input)
  | _ => .next s

/-- POSTED_STORE_PERFORM (07 R155): the store is performed, or refused. The word of it leaves the outbound queue; a fault waits for
its thread's DRAIN on path CELLAR or HOST. -/
def execPostedStorePerform (s : State) : Out :=
  match s.input with
  | .stored k p =>
    let dma := if p.host && p.fault == 0 then s.dev.dmaCheck (s.tile k).r.ctx p.pa true else some p.pa
    let fault := if p.fault ≠ 0 then p.fault else if dma.isNone then 2 else 0
    let bs := leBytes p.size p.data.toNat
    let s := if fault ≠ 0 then s else if p.host then s.hostWrite (dma.getD 0) bs else s.cellarWrite p.pa bs
    .next (s.after 0 .postedStorePerform (.posted k p.id fault s.now))
  | .spillOut k id pin va bs => .next (s.spillWrite k id pin va bs)
  | .spillAck k id pin fault => .next ((s.note k .postedStorePerform s.input).spillDone k id pin fault)
  | .posted k id fault time =>
    match (s.tile k).c.outq.find? (fun p => p.id == id) with
    | none => .next s
    | some p =>
      let s := s.note k .postedStorePerform s.input
      let c := (s.tile k).c
      let s := s.setCtx k { c with
        outq := c.outq.filter (fun x => x.id != id)
        deferred := if fault = 0 then c.deferred else c.deferred ++
          [{ launch := p.launch, tid := p.tid, path := if p.host then 4 else 3, issued := p.issued, since := time
             code := cTranslation, detail := fault, val := p.addr }] }
      .next ((s.wakeStores k).lookAt (s.tile k).r.ctx (c.lixOf p.launch))
  | _ => .next s

end Sys2Proof.Machine
end

