-- ==== Sys2Proof/Machine/Boundary.lean ====
section
/-!
DEFINITION. Intervals: boundary requests, capture, shipping to the buddy and commit, and CKPT (05 R92 to R98, R102, 14 R294).
-/
namespace Sys2Proof.Machine

/-! ### Sizes (05 R95 to R97) -/

/-- The tile that keeps a tile's mirror, and whose mirror the tile keeps. -/
def buddyOf (k : TileId) : TileId := k ^^^ 0x800

/-- The reloadable extents of a tile. -/
def State.extents (s : State) (k : TileId) : List (Nat × Nat × Nat) := (s.tile k).c.extents

/-- A line lies in a reloadable extent. -/
def inExtents (xs : List (Nat × Nat × Nat)) (line : Nat) : Bool :=
  xs.any (fun x => decide (x.1 ≤ line * 64) && decide (line * 64 < x.1 + x.2.1))

/-- Lines of a sorted list of line intervals, each from one to before another, that none before `n` counts. -/
def unionLines (n : Nat) (xs : List (Nat × Nat)) : Nat :=
  match xs with
  | [] => 0
  | x :: xs => (x.2 - max n x.1) + unionLines (max n x.2) xs

/-- Bytes of extents, in whole lines; a line of several counts once. -/
def extentBytes (xs : List (Nat × Nat × Nat)) : Nat :=
  64 * unionLines 0 (sortBy (fun a b => decide (a.1 ≤ b.1))
    ((xs.filter (fun x => x.2.1 != 0)).map (fun x => (x.1 / 64, (x.1 + x.2.1 + 63) / 64))))

/-- The mutable extent under a pool configuration (05 R96). -/
def mutableExtent (cfg : Word) (xs : List (Nat × Nat × Nat)) : Nat :=
  (bitsOf cfg 0 6 + bitsOf cfg 8 6 + scrUnits cfg) * 4096 - extentBytes xs

/-- Bytes of the mirror region under a pool configuration. -/
def mirrorBytes (cfg : Word) : Nat := bitsOf cfg 16 6 * 4096

/-- A tile holds a launch. -/
def State.occupied (s : State) (k : TileId) : Bool := (s.tile k).r.ctx != 0 && !(s.tile k).c.launches.isEmpty

/-- The staging capacity in lines, by the mir of the buddy, or of the tile itself if its buddy holds no launch (log 34). -/
def State.staging (s : State) (k : TileId) : Nat :=
  let b := if s.occupied (buddyOf k) then buddyOf k else k
  (mirrorBytes (s.tile b).c.poolcfg - mutableExtent (s.tile k).c.poolcfg (s.extents k)) / 68

/-! ### Tile clocks

A fenced or pre-empted tile's cycles do not advance (05 R103, 06 R136), nor do they while its chiplet changes its operating point (01
R12, R13): what it counts stops, and goes on afterwards. -/

/-- The tile whose core counts an event of the agenda, and makes it again in replay. -/
def clockOf (ev : Instr) (arg : Payload) : Option TileId :=
  match ev, arg with
  | .feWake, .dword t _ _ => some t
  | .feTimeout, .ref r => some r.tile
  | .feTimeout, .reply r _ => some r.tile
  | .feRefusalRepresent, .port _ _ _ r _ _ => some r.tile
  | .portBounceRepresent, .port _ _ _ r _ _ => some r.tile
  | .messageReinject, .ref r => some r.tile
  | .messageReinject, .part _ _ _ (some r) => some r.tile
  | .migbackResend, .migrant k _ _ _ => some k
  | .rangeLockRepresent, .grant k _ _ _ => some k
  | .bindRequestRetry, .merge _ k _ _ _ _ _ _ => some k
  | .engineOpStart, .op k _ => some k
  | .engineOpStart, .tile k => some k
  | .engineOpComplete, .op k _ => some k
  | .engineOpComplete, .reply r _ => some r.tile
  | .engineOpComplete, .ref r => some r.tile
  | .copyComplete, .op k _ => some k
  | .mergeCommit, .op k _ => some k
  | .spanCopyTimeout, .op k _ => some k
  | .ivlenExpire, .tileNum k _ => some k
  | .deferredBoundary, .tile k => some k
  | .residencyStep, .tile k => some k
  | .colrunHoldEnd, .tile k => some k
  | .roundTimeout, .tileNum k _ => some k
  | .chunkResend, .chunk k _ => some k
  | .bwaitTimeout, .ref r => some r.tile
  | .bcloseTimeout, .ref r => some r.tile
  | .preemptSaveDone, .tileNum k _ => some k
  | .gangPreempt, .tileNum k 4 => some k
  | .watchdogFire, .tileNum k _ => some k
  | _, _ => none

/-- The tile that an event of the agenda is delivered to by its router, and whether its delivery takes a record of the reserve (05
R99). -/
def portOf (ev : Instr) (arg : Payload) : Option (TileId × Bool) :=
  match ev, arg with
  | .loadReply, .gate r _ => some (r.tile, false)
  | .loadReply, .reply r _ => some (r.tile, false)
  | .loadReply, .buffer r _ _ => some (r.tile, false)
  | .remoteAccess, .port t _ _ _ _ _ => some (t, false)
  | .accessReply, .reply r _ => some (r.tile, false)
  | .accessReply, .port _ _ _ r _ _ => some (r.tile, false)
  | .accessReply, .merge _ k _ _ _ _ _ _ => some (k, false)
  | .feTimeout, .withdraw t _ => some (t, false)
  | .icacheFill, .line t _ _ => some (t, false)
  | .icacheFill, .bytes t _ _ => some (t, false)
  | .migrantArrival, .migrant t _ _ _ => some (t, false)
  | .migback, .migrant t _ _ _ => some (t, false)
  | .locationNotice, .notice t _ _ => some (t, false)
  | .exitNotice, .tileNum t _ => some (t, false)
  | .rfillDelivery, .fill t _ _ _ _ _ => some (t, false)
  | .messageDelivery, .msg t _ _ => some (t, false)
  | .messageAcceptance, .ref r => some (r.tile, false)
  | .messageBounce, .ref r => some (r.tile, false)
  | .messageBounce, .part _ _ _ (some r) => some (r.tile, false)
  | .messageBounce, .merge k _ _ _ _ _ _ _ => some (k, false)
  | .bindRequest, .merge t _ _ _ _ _ _ _ => some (t, false)
  | .mergeData, .merge t _ _ _ _ _ _ _ => some (t, false)
  | .mergeMarker, .merge t _ _ _ _ _ _ _ => some (t, false)
  | .chunkArrival, .chunk t _ => some (t, false)
  | .chunkAck, .chunkAck t _ _ _ _ => some (t, false)
  | .roundAbort, .tileNum t _ => some (t, false)
  | .copyDataArrival, .xfer (some t) _ => some (t, false)
  | .copyDataArrival, .swap t _ _ _ _ => some (t, false)
  | .copyDataArrival, .spillIn t _ _ _ _ => some (t, false)
  | .copyDataArrival, .bytes t _ _ => some (t, false)
  | .rangeLockRequest, .range t _ _ _ _ => some (t, false)
  | .rangeLockRequest, .grant k _ _ _ => some (k, false)
  | .spanChunkReceive, .frame k _ _ _ _ _ => some (k, false)
  | .spanRoundAbortReceive, .frame k _ _ _ _ _ => some (k, false)
  | .spanCopyAckReceive, .frame k _ _ _ _ _ => some (k, false)
  | .barrierDeparture, .reply r _ => some (r.tile, false)
  | .reductionResult, .part _ _ _ (some r) => some (r.tile, false)
  | .reductionResult, .ref r => some (r.tile, false)
  | .packetGrant, .buffer r _ _ => some (r.tile, false)
  | .postedStorePerform, .posted k _ _ _ => some (k, false)
  | .postedStorePerform, .spillAck k _ _ _ => some (k, false)
  | .mirrorLineReceive, .mirror b _ _ => some (b, false)
  | .commitMarkerReceive, .nums3 b _ _ => some (b, false)
  | .boundaryCommit, .tileNum k _ => some (k, false)
  | .captureEntryFree, .tile k => some (k, false)
  | .deferredBoundary, .tileNum k _ => some (k, false)
  | .firmwareRegisterWrite, .words 4 [k, _] => some (k.toNat, false)
  | .population, .populate t _ _ _ _ _ _ => some (t, false)
  | .launchEnd, .dropped t _ _ => some (t, false)
  | .copy, .xfer (some t) _ => some (t, false)
  | .coldeferExpire, .tile k => some (k, false)
  | .gangPreempt, .tile k => some (k, true)
  | .gangPreempt, .tileNum k n => if n = 4 then none else some (k, true)
  | .maskChange, .tileNum k _ => some (k, true)
  | _, _ => none

/-- The tile that waits for what an event on its way elsewhere will bring back. -/
def Payload.issuer? (p : Payload) : Option TileId :=
  match p with
  | .port _ _ _ r _ _ => some r.tile
  | .gate r _ => some r.tile
  | .stored k _ => some k
  | .line k _ _ => some k
  | .migrant _ k _ _ => some k
  | .msg _ _ r => some r.tile
  | .part _ _ _ (some r) => some r.tile
  | .post r _ _ bs => if bs.isEmpty then Option.none else some r.tile
  | .group _ _ _ kind _ _ _ r => if kind = 3 then Option.none else some r.tile
  | .xfer _ x => some x.tile
  | .spillOut k _ _ _ _ => some k
  | .range _ k _ _ _ => some k
  | .merge _ k _ _ _ _ _ _ => some k
  | .swap _ k _ _ _ => some k
  | _ => Option.none

/-- What the core of tile `k` has yet to count, with the cycles that are left. -/
def State.timersBut (s : State) (k : TileId) (keep : Timed → Bool) : List Timed :=
  (s.agenda.filter (fun x => clockOf x.ev x.arg == some k && !keep x)).map (fun (x : Timed) => { x with due := x.due - s.now })

/-- What tile `k` counts is no longer on the agenda. -/
def State.stopTimers (s : State) (k : TileId) (keep : Timed → Bool) : State :=
  { s with agenda := s.agenda.filter (fun x => !(clockOf x.ev x.arg == some k && !keep x)) }

/-- What tile `k` counts stops, as far as `keep` does not except it. -/
def State.freezeBut (s : State) (k : TileId) (keep : Timed → Bool) : State :=
  let xs := s.timersBut k keep
  let s := s.stopTimers k keep
  s.setCtx k { (s.tile k).c with frozen := (s.tile k).c.frozen ++ xs }

def State.freeze (s : State) (k : TileId) : State := s.freezeBut k (fun _ => false)

/-- What tile `k` counts goes on. -/
def State.thaw (s : State) (k : TileId) : State :=
  let xs := (s.tile k).c.frozen.map (fun (x : Timed) => { x with due := s.now + x.due })
  let s := s.setCtx k { (s.tile k).c with frozen := [] }
  { s with agenda := s.agenda ++ xs }

/-- A tile comes into the model's tables: it has counted its cycles and taken its boundaries since boot (05 R93). -/
def State.listTile (s : State) (k : TileId) : State :=
  if (s.tiles.get? k).isSome then s
  else
    let len := Tile.reset.c.ivlen.toNat + 1
    let base := s.now / len * len
    let s := s.setTile k { c := { Tile.reset.c with ivn := BitVec.ofNat 48 (s.now / len) }
                           r := { Tile.reset.r with cyc := s.now, base := base, logFrom := base } }
    s.after (base + len - 1 - s.now) .ivlenExpire (.tileNum k base)

/-! ### Requests and the capture (05 R93, R94) -/

/-- A boundary request: taken at the end of this cycle, deferred while an earlier boundary is uncommitted, until the release
of a fenced tile (18 R374), or until the restore of a tile that stopped in an earlier cycle (06 R141). -/
def State.requestBoundary (s : State) (k : TileId) : State :=
  let r := (s.tile k).r
  if (r.mode == .stopping || r.mode == .saved) && r.stopped != r.cyc + 1 then s.setCtx k { (s.tile k).c with late := true }
  else if r.ship.isSome || r.mode == .fenced then s.setRouter k { r with deferred := true }
  else s.setRouter k { r with want := true, asked := if r.asked = 0 then r.cyc + 1 else r.asked }

/-- A line as it stands. -/
def TileCtx.lineImage (c : TileCtx) (line : Nat) : MirrorLine :=
  { line := line, bytes := c.pool.bytes (line * 64) 64
    empty := (List.range 8).filter (fun i => c.emptyDw.contains (8 * line + i)) }

/-- The lines of the ctx region (05 R94). -/
def ctxLines (cfg : Word) : List MirrorLine :=
  (List.range (bitsOf cfg 0 6 * 64)).map (fun i => { line := (64 - bitsOf cfg 0 6) * 64 + i, bytes := [], empty := [] })

/-- The lines a boundary ships, ascending: dirty lines of the scratchpad outside reloadable extents, or stored into, those of the acc
region, and the ctx region. -/
def State.shipLines (s : State) (k : TileId) : List MirrorLine :=
  let c := (s.tile k).c
  let xs := s.extents k
  (sortBy (fun a b => decide (a ≤ b))
    (c.dirty.filter (fun l => decide (regionOf c.poolcfg (l * 64) < 2) && (!inExtents xs l || c.stored.contains l)))).map c.lineImage
    ++ ctxLines c.poolcfg

/-- The context a boundary captures of tile `k` at the end of a cycle, its timers stopped, its lines apart, of the range-lock table what
other tiles have registered (05 R94). -/
def State.captured (s : State) (k : TileId) : TileCtx :=
  let c := (s.tile k).c
  { c with pool := [], emptyDw := [], dirty := [], locks := c.locks.filter (fun l => l.tile != k)
           frozen := c.frozen ++ (s.timersBut k (fun _ => false)).map (fun (x : Timed) => { x with due := x.due - 1 }) }

/-- The boundary at the end of this cycle: ivn increments, the capture is taken, the log of the next interval begins, shipping starts.
A tile that is to be moved stops there (05 R112). -/
def State.takeBoundary (s : State) (k : TileId) : State :=
  let c := { (s.tile k).c with ivn := (s.tile k).c.ivn + 1 }
  let r := (s.tile k).r
  let lines := s.shipLines k
  let s := s.setTile k
    { c := { c with dirty := [] }
      r := { r with prev := some { base := r.logFrom, log := r.log, sent := r.sent }, log := [], sent := [], base := r.cyc + 1, logFrom := r.cyc + 1
                    want := false, asked := 0 } }
  let s := s.after (1 + c.ivlen.toNat) .ivlenExpire (.tileNum k (r.cyc + 1))
  let sh : Ship := { ivn := c.ivn, cyc := r.cyc + 1, base := r.cyc + 1, lines := lines, latched := [], count := lines.length, ctx := s.captured k, mask := r.mask }
  let s := s.setRouter k { (s.tile k).r with ship := some sh }
  let s := s.after 1 .mirrorLineReceive (.tileNum k c.ivn.toNat)
  if r.moving then (s.freeze k).setRouter k { (s.tile k).r with mode := .fenced, fence := r.cyc } else s

/-- The requests a tile makes of itself at the end of a cycle: records in its log area, lines dirtied (05 R93). -/
def State.selfRequest (s : State) (k : TileId) : State :=
  let t := s.tile k
  if t.r.want || t.r.deferred then s
  else if 1536 ≤ t.r.records then s.requestBoundary k
  else if !t.c.dirty.isEmpty && decide (s.staging k ≤ t.c.dirty.length) then s.requestBoundary k
  else s

/-- CKPT (14 R294): the thread parks until the boundary it requests commits. -/
def execCkpt (rd : Reg) (s : State) : Out :=
  .next ((s.park s.me (.ckpt rd)).requestBoundary s.cur.tile)

/-- IVLEN_EXPIRE (05 R93): ivlen cycles have passed since the boundary whose interval began at the given tile cycle, unless the
register has been written in between; then the rest is waited for. -/
def execIvlenExpire (s : State) : Out :=
  match s.input with
  | .tileNum k base =>
    let t := s.tile k
    let gone := t.r.cyc - base
    .next (if t.r.base ≠ base then s
      else if t.c.ivlen.toNat ≤ gone then s.requestBoundary k
      else s.after (t.c.ivlen.toNat - gone) .ivlenExpire s.input)
  | _ => .next s

/-! ### Shipping and commit (05 R98) -/

/-- The next captured line leaves for the buddy in C5, those of the capture buffer first, one in two cycles (01 R13); after the last, the
commit marker. -/
def State.shipNext (s : State) (k : TileId) (ivn : Nat) (sh : Ship) : State :=
  let b := buddyOf k
  match sh.latched, sh.lines with
  | l :: ls, _ =>
    let s := (s.setRouter k { (s.tile k).r with ship := some { sh with latched := ls } }).after 1 .captureEntryFree (.tile k)
    (s.packet k b 5 3 .mirrorLineReceive (.mirror b ivn l)).after 2 .mirrorLineReceive (.tileNum k ivn)
  | [], l :: ls =>
    let s := s.setRouter k { (s.tile k).r with ship := some { sh with lines := ls } }
    (s.packet k b 5 3 .mirrorLineReceive (.mirror b ivn l)).after 2 .mirrorLineReceive (.tileNum k ivn)
  | [], [] => s.packet k b 5 1 .commitMarkerReceive (.nums3 b sh.count ivn)

/-- The boundary of tile `k` that its buddy may stage: that of a fenced tile is discarded (05 R98, R103). -/
def Router.staged? (r : Router) (ivn : Nat) : Option Ship :=
  if r.mode == .fenced && !r.moving then none else r.ship.filter (fun sh => sh.ivn.toNat == ivn)

/-- MIRROR_LINE_RECEIVE (05 R98): a line reaches the buddy's staging; or it is time for the next line to leave. -/
def execMirrorLineReceive (s : State) : Out :=
  match s.input with
  | .tileNum k ivn =>
    .next (match (s.tile k).r.staged? ivn with
      | some sh => s.shipNext k ivn sh
      | none => s)
  | .mirror b ivn l =>
    if ((s.tile (buddyOf b)).r.staged? ivn).isNone then .next s
    else
      let r := (s.tile b).r
      let old := match r.staging with | some st => if st.ivn.toNat = ivn then st.lines else [] | none => []
      .next (s.setRouter b { r with staging := some { ivn := BitVec.ofNat 48 ivn, lines := old ++ [l] } })
  | _ => .next s

/-- A pool with captured lines put into it, and its empty doublewords. -/
def mergeLines (m : Memory × List Nat) (ls : List MirrorLine) : Memory × List Nat :=
  ls.foldl (fun m l =>
    if l.bytes.isEmpty then m
    else (m.1.setBytes (l.line * 64) l.bytes, m.2.filter (fun d => d / 8 != l.line) ++ l.empty.map (fun i => 8 * l.line + i))) m

/-- The mirror with the staged lines merged into it (05 R98). -/
def Ship.merged (sh : Ship) (old : Option Mirror) (ls : List MirrorLine) : Mirror :=
  let m := mergeLines (match old with | some m => (m.ctx.pool, m.ctx.emptyDw) | none => ([], [])) ls
  { ctx := { sh.ctx with pool := m.1, emptyDw := m.2 }, cyc := sh.cyc, base := sh.base, mask := sh.mask }

/-- COMMIT_MARKER_RECEIVE (05 R98): with the count matching, the staged lines go into the mirror and the buddy acknowledges in C1. -/
def execCommitMarkerReceive (s : State) : Out :=
  match s.input with
  | .nums3 b count ivn =>
    let k := buddyOf b
    match (s.tile k).r.staged? ivn with
    | none => .next s
    | some sh =>
      let r := (s.tile b).r
      let ls := match r.staging with | some st => if st.ivn.toNat = ivn then st.lines else [] | none => []
      if ls.length ≠ count then .next s
      else .next ((s.setRouter b { r with staging := none, keeps := some (sh.merged r.keeps ls) }).relay b k 1 1
        .boundaryCommit (.tileNum k ivn))
  | _ => .next s

/-- Threads whose CKPT asked for the boundary that ended before tile cycle `cyc`, by slot. -/
def Tile.ckptThreads (t : Tile) (cyc : Nat) : List (Fin 16 × Nat) :=
  (List.finRange 16).filterMap (fun j =>
    match t.slot j with
    | some th =>
      match th.park with
      | some ⟨.ckpt _, tok, _, since⟩ => if since < cyc then some (j, tok) else none
      | _ => none
    | none => none)

/-- BOUNDARY_COMMIT (05 R98): the acknowledgement is the commit. The log of the interval before is freed, delivery resumes, a deferred
request is due, and the threads of CKPT and those that a read of time parked
(R102) wake, logged WAKE. A tile that stopped there to be moved is moved first (R112). -/
def execBoundaryCommit (s : State) : Out :=
  match s.input with
  | .tileNum k ivn =>
    match (s.tile k).r.ship with
    | none => .next s
    | some sh =>
      if sh.ivn.toNat ≠ ivn then .next s
      else if (s.tile k).r.moving && (s.tile k).r.mode == .fenced then
        let r := (s.tile k).r
        .next ((s.setRouter k { r with held := r.held ++ [(.boundaryCommit, s.input)] }).after 64 .recovery (.tileNum k r.chain))
      else
        let s := s.note k .boundaryCommit s.input
        let r := (s.tile k).r
        let s := s.setRouter k { r with ship := none, prev := none, blocked := false, saving := if r.saving ≤ sh.cyc then 0 else r.saving, deferred := false }
        let s := if r.deferred then s.after 1 .deferredBoundary (.tile k) else s
        let s := ((s.tile k).ckptThreads sh.cyc).foldl (fun s x =>
          (s.mark k kWake x.1.val 0 0).deliver { tile := k, tok := x.2 } (.value (BitVec.ofNat 64 ivn))) s
        .next (s.wakeOuter k (fun _ w => w == .logRec))
  | _ => .next s

/-- LOG_AREA_FULL (05 R102): the router delivers nothing more to the tile until a commit frees records. -/
def execLogAreaFull (s : State) : Out :=
  match s.input with
  | .tile k => .next (if (s.tile k).r.logFull then s.setRouter k { (s.tile k).r with blocked := true } else s)
  | _ => .next s

end Sys2Proof.Machine
end

