-- ==== Sys2Proof/Machine/Recovery.lean ====
section
/-!
DEFINITION. Detection, recovery of a flagged tile, planned migration, loss of state and incident captures (05 R88 to R91,
R103 to R116, 18 R373, R374).
-/
namespace Sys2Proof.Machine

/-! ### Physical tiles (04 R77) -/

/-- The physical slot of a logical position. An entry that is not valid, or that nothing has written, names the slot of the same number:
DESIGN CHOICE (log 71). -/
def State.physSlot (s : State) (k : TileId) : Nat :=
  match (s.cluster (clusterOf k)).slotMap.get? (ltnOf k % 32) with
  | some e => if e.v then e.pslot else ltnOf k % 32
  | none => ltnOf k % 32

/-- The latest exception for a tile. -/
def State.exceptionOf (s : State) (k : TileId) : Option Exception := s.dev.exceptions.find? (fun e => e.isFor k)

/-- The physical tile: chiplet, cluster and slot. -/
def State.ptlOf (s : State) (k : TileId) : Nat :=
  match s.exceptionOf k with
  | some e => e.ptl
  | none => placeAt (s.gridOf (clusterOf k) k) * 64 + s.physSlot k

def State.chiplet (s : State) (c : Nat) : Chiplet := (s.chiplets.get? c).getD Chiplet.reset

/-- The physical chiplet of a tile. -/
def State.chipOf (s : State) (k : TileId) : Nat := s.ptlOf k / 2 ^ 12

/-- The position has no working tile (04 R77). -/
def State.isLost (s : State) (k : TileId) : Bool :=
  match (s.cluster (clusterOf k)).slotMap.get? (ltnOf k % 32) with
  | some e => e.lost
  | none => false

/-- A tile that is being recovered: what its core holds is not what it will hold. -/
def State.recovering (s : State) (k : TileId) : Bool := ((s.tile k).r.mode == .fenced && !s.isLost k) || (s.tile k).r.replay

/-- Listed tiles of a physical chiplet. -/
def State.tilesOfChip (s : State) (c : Nat) : List TileId := s.tiles.keys.filter (fun k => s.chipOf k == c)

/-- Every logical tile on a physical chiplet: those listed, then those that nothing has used yet (log 43). -/
def State.everyTileOf (s : State) (c : Nat) : List TileId :=
  let ks := s.tilesOfChip c
  let taken := ks.map s.ptlOf
  let more := ((List.range 128).filter (fun l => s.dev.physChip l == c)).flatMap (fun l =>
    (List.range 2048).map (fun i => l * 2048 + i))
  ks ++ more.filter (fun k => (s.tiles.get? k).isNone && (s.exceptionOf k).isNone && !taken.contains (s.ptlOf k))

/-- The physical tile of a position is out of use. -/
def State.condemn (s : State) (k : TileId) : State :=
  match s.exceptionOf k with
  | some e => { s with dev := { s.dev with badTiles := setAdd s.dev.badTiles e.ptl } }
  | none =>
    let c := s.cluster (clusterOf k)
    s.setCluster (clusterOf k) { c with failed := setAdd c.failed (s.physSlot k) }

/-! ### The fence (05 R88, R103 step 1, R109) -/

/-- Records of a position since the boundary that ended before tile cycle `cyc`, and injections since. -/
def Router.since (r : Router) (cyc : Nat) : List LogRec × List Packet :=
  (r.logged.filter (fun x => decide (cyc ≤ x.cyc)),
    (match r.prev with | some i => if cyc ≤ i.base then i.sent else [] | none => []) ++ (if cyc ≤ r.logFrom then r.sent else []))

/-- The checkpoint of tile `k`, in its buddy's mir region. A tile of no partition that has none begins anew. -/
def State.mirrorOf (s : State) (k : TileId) : Option Mirror :=
  match (s.tile (buddyOf k)).r.keeps with
  | some m => some m
  | none =>
    let t := s.tile k
    let x : Timed := { due := t.c.ivlen.toNat, ev := .ivlenExpire, arg := .tileNum k (t.r.fence + 1) }
    if t.r.ctx = 0 then
      some { ctx := { TileCtx.reset with ivn := t.c.ivn, ivlen := t.c.ivlen, frozen := [x] }, cyc := t.r.fence + 1, base := t.r.fence + 1
             mask := t.r.mask }
    else none

/-- The router of a tile fences it at this cycle: nothing goes in or out, what its port has buffered is discarded, what it kept for
its buddy is gone, and its own unmatched staging at the buddy; a boundary whose marker has matched stands (05 R90, R98, R103, R107). -/
def State.fence (s : State) (k : TileId) (cause : Nat) : State :=
  let b := buddyOf k
  let kept := (s.tile b).r.keeps.map (fun m => m.ctx.ivn)
  let s := s.setRouter b { (s.tile b).r with staging := none }
  let r := (s.tile k).r
  (s.setRouter k { r with
    mode := .fenced, cause := cause, out := [], want := false, moving := false, relief := false, missed := 0, asked := 0, hung := false
    saving := 0, blocked := false, keeps := none, staging := none, ship := r.ship.filter (fun sh => some sh.ivn == kept)
    replay := false, quiet := false, script := [], chain := r.chain + 1, target := none }).stopTimers k (fun _ => false)

/-- A tile is flagged by detector `cause` and fenced, and recovery begins 64 cycles later (05 R88, R116). A boundary requested in this
cycle is not taken (R109, R374). Its records up to here are what a replay delivers, its injections what it does not repeat (R106); a
replacement that fails in its replay leaves the fence cycle and the records as they were, and the third ends recovery (R108). -/
def State.flag (s : State) (k : TileId) (cause : Nat) : State :=
  let s := ((s.listTile k).listTile (buddyOf k)).condemn k
  let r := (s.tile k).r
  let s := s.fence k cause
  let x := (s.tile k).r
  let since := match s.mirrorOf k with | some m => r.since m.cyc | none => ([], [])
  let x :=
    if r.replay then { x with tries := r.tries + 1, total := max r.total since.2.length }
    else if r.mode == .fenced then x
    else { x with fence := r.cyc, source := since.1, total := since.2.length }
  (s.setRouter k x).after 64 .recovery (.tileNum k x.chain)

/-- A router is lost, with its log: no position of its cluster has a working tile, and what their state was is lost (05 R113). -/
def State.routerLost (s : State) (cl : Nat) : State :=
  (List.range 32).foldl (fun s i => s.after 1 .stateLoss (.tileNum (cl * 32 + i) 0xFE)) s

/-- ERROR_DETECT (05 R88): a detector flags a tile; an uncorrectable error of a log pool loses the router. A core that issues nothing
any more is found by the watchdog alone (R91). -/
def execErrorDetect (s : State) : Out :=
  match s.input with
  | .tileNum k cause =>
    .next (if cause = 5 then (s.listTile k).setRouter k { ((s.listTile k).tile k).r with hung := true } else s.flag k cause)
  | .num cl => .next (s.routerLost cl)
  | _ => .next s

def Cluster.link (c : Cluster) (i : Nat) : LinkState := (c.links.get? i).getD LinkState.reset

def State.setLink (s : State) (cl i : Nat) (l : LinkState) : State :=
  s.setCluster cl { s.cluster cl with links := (s.cluster cl).links.set i l }

/-- CORRECTED_ERROR (05 R88): counted in the device status; one of a link, in flight, by the link too (04 R69). -/
def execCorrectedError (s : State) : Out :=
  let s := { s with dev := { s.dev with correctedErrors := s.dev.correctedErrors + 1 } }
  match s.input with
  | .nums cl i =>
    let l := (s.cluster cl).link i
    .next (s.setLink cl i { l with corrected := l.corrected + 1 })
  | _ => .next s

/-- CELLAR_POISON (05 R89): the 64 KiB page of the address. -/
def execCellarPoison (s : State) : Out :=
  match s.input with
  | .num pa =>
    .next { s with dev := { s.dev with
      poison := setAdd s.dev.poison (pa / 65536)
      cleaned := s.dev.cleaned.filter (fun l => l / 1024 != pa / 65536) } }
  | _ => .next s

/-- A chiplet is without power: all its tiles are flagged (05 R88, 01 R11). -/
def State.cutPower (s : State) (c : Nat) : State :=
  let s := { s with chiplets := s.chiplets.set c { s.chiplet c with powered := false, lost := true } }
  (s.everyTileOf c).foldl (fun s k => s.flag k 6) s

/-- POWER_LOSS (05 R88). -/
def execPowerLoss (s : State) : Out :=
  match s.input with
  | .num c => .next (s.cutPower c)
  | _ => .next s

/-- The bytes of the save of tile `k` still move at the rate of 06 R138. -/
def State.saveMoves (s : State) (k : TileId) : Bool :=
  !(s.tile k).r.hung && s.agenda.any (fun x => x.ev == .preemptSaveDone && x.arg == .tileNum k 0 && decide (s.now + 1 < x.due))

/-- WATCHDOG_FIRE (05 R91): a core that makes no progress or does not take a boundary, or, with the cycle a pre-emption took effect in, a
save that is not finished; one that takes longer than wdlimit by 06 R138 alone is looked at again (log 58). -/
def execWatchdogFire (s : State) : Out :=
  match s.input with
  | .tile k =>
    let r := (s.tile k).r
    .next (if r.mode != .fenced && (r.missed != 0 || r.asked != 0) then s.flag k 5 else s)
  | .tileNum k since =>
    let r := (s.tile k).r
    .next (if r.mode != .stopping || r.stopped != since then s
      else if s.saveMoves k then s.after (s.cluster (clusterOf k)).wdlimit .watchdogFire s.input
      else s.flag k 5)
  | _ => .next s

/-! ### Spares (05 R104) -/

/-- Replacements chosen and not yet released, but for that of tile `k`. -/
def State.targets (s : State) (k : TileId) : List (TileId × Nat × Nat) :=
  (s.tiles.filter (fun x => x.1 != k)).filterMap (fun x => x.2.r.target.map (fun t => (x.1, t)))

/-- A free local spare of the cluster: physical slot 32 or 33, on a chiplet that has power (01 R11). -/
def State.localSpare (s : State) (k : TileId) : Option Nat :=
  let c := s.cluster (clusterOf k)
  if (s.chiplet (s.chipOf k)).lost then none
  else
    [32, 33].find? (fun p => !c.failed.contains p && !c.slotMap.any (fun e => e.1 < 32 && e.2.v && e.2.pslot == p)
      && !(s.targets k).any (fun t => clusterOf t.1 == clusterOf k && t.2 == (0, p)))

/-- A free tile of a spare chiplet, any of its 34 in a cluster. -/
def State.freePtl (s : State) (k : TileId) (chip : Nat) : Option Nat :=
  ((List.range 64).flatMap (fun c => (List.range 34).map (fun p => chip * 2 ^ 12 + c * 64 + p))).find? (fun ptl =>
    !s.dev.badTiles.contains ptl && !s.dev.exceptions.any (fun e => e.v && e.ptl == ptl) && !(s.targets k).any (fun t => t.2 == (1, ptl)))

/-- Spare chiplets that a replacement of tile `k` may use: not that of its buddy (05 R95). -/
def State.spareChips (s : State) (k : TileId) (powered : Bool) : List Nat :=
  s.dev.fuses.spares.filter (fun c => !(s.chiplet c).lost && (s.chiplet c).powered == powered && c != s.chipOf (buddyOf k))

/-- Priority of a context: the highest of its launches. -/
def Ctx.prio (c : Ctx) : Nat := (c.launches.map (fun l => l.2.prio)).foldl max 0

/-- The resident partition of the lowest priority below that of tile `k`. -/
def State.victim (s : State) (k : TileId) : Option Nat :=
  let mine := ((s.dev.ctx? (s.tile k).r.ctx).map Ctx.prio).getD 0
  let cs := s.dev.contexts.filter (fun c => c.1 != (s.tile k).r.ctx && (c.2.res == .resident || c.2.res == .stopping)
    && decide (c.2.prio < mine))
  (sortBy (fun a b => decide (a.2.prio ≤ b.2.prio)) cs).head?.map Prod.fst

/-- A physical tile of a partition that has given its place up, not on the chiplet of the buddy of tile `k`, and its position there. -/
def State.borrowed (s : State) (k : TileId) (c : Ctx) : Option (TileId × Nat) :=
  ((List.range 128).flatMap (fun l => (List.range 2048).map (fun i => l * 2048 + i))).findSome? (fun j =>
    let p := s.gridOf (clusterOf j) j
    if !c.region.holds p || s.isLost j || s.chipOf j == s.chipOf (buddyOf k) || (s.tile j).r.ctx != 0
        || (s.tile j).r.mode != .live || (s.targets k).any (fun t => t.2 == (1, s.ptlOf j)) then none
    else some (j, s.ptlOf j))

/-- What step 2 of R103 finds. -/
inductive Spare where
  | slot (p : Nat)
  | tile (ptl : Nat)
  | dark (chip : Nat)
  | borrow (ctx : Nat)
  | stay
  | none
  deriving DecidableEq, Repr

/-- The choice of 05 R104. Thermal relief takes a tile of a spare chiplet (06 R142), and no planned migration borrows (05 R112): with no
spare it stays. Steps 2 and 3 need an entry of the exception table. -/
def State.chooseSpare (s : State) (k : TileId) : Spare :=
  match if s.exceptionOf k = none ∧ (s.tile k).r.relief = false then s.localSpare k else none with
  | some p => .slot p
  | none =>
    let room := decide (s.dev.exceptions.length < 1024) || (s.exceptionOf k).isSome
    match if room then (s.spareChips k true).findSome? (s.freePtl k) else none, if room then (s.spareChips k false).head? else none with
    | some ptl, _ => .tile ptl
    | none, some c => .dark c
    | none, none =>
      if (s.tile k).r.moving then .stay
      else match if room then s.victim k else none with
        | some c => .borrow c
        | none => .none

/-! ### Admission (05 R111) -/

def Ctx.rects (c : Ctx) : List Region := c.region :: c.shadow.toList

/-- Partitions that hold their clusters. -/
def Ctx.holds (c : Ctx) : Bool := c.res == .resident || c.res == .stopping || c.res == .restoring

/-- Clusters of a context's partition, its shadow's too. -/
def Ctx.clusters (c : Ctx) : Nat := (c.rects.map (fun r => r.width * r.height)).sum

/-- Logical clusters all of whose positions map to working tiles. -/
def State.capacity (s : State) : Nat :=
  8192 - (s.clusters.filter (fun x => decide (x.1 < 8192) && x.2.slotMap.any (fun e => decide (e.1 < 32) && e.2.lost))).length

/-- Clusters of the resident partitions other than `n`. -/
def State.residentClusters (s : State) (n : Nat) : Nat :=
  ((s.dev.contexts.filter (fun x => x.1 != n && x.2.holds)).map (fun x => x.2.clusters)).sum

/-- A partition fits (05 R111). -/
def State.fits (s : State) (n : Nat) (c : Ctx) : Bool :=
  decide (c.clusters + s.residentClusters n ≤ s.capacity - (s.dev.reserve + 31) / 32)

/-! ### Loss of state (05 R108, R113) -/

/-- The launches of a context end FAULTED with a detail, and its threads stop. -/
def State.stopContext (s : State) (ctx detail : Nat) : State :=
  match s.dev.ctx? ctx with
  | none => s
  | some c => c.launches.foldl (fun s l => s.stopLaunch ctx l.1 l.2.lid (statusFaulted, detail)) s

/-- The resident partitions that no longer fit, those of the lowest priority first; each that goes makes room (05 R111, log 45). -/
def State.overfull (s : State) : List Nat :=
  let cs := sortBy (fun a b => decide (a.2.prio ≤ b.2.prio)) (s.dev.contexts.filter (fun x => x.2.res == .resident))
  let room := s.capacity - (s.dev.reserve + 31) / 32
  (cs.foldl (fun (x : List Nat × Nat) c => if x.2 ≤ room then x else (x.1 ++ [c.1], x.2 - c.2.clusters))
    (([] : List Nat), (s.dev.contexts.map (fun c => if c.2.holds then c.2.clusters else 0)).sum)).1

/-- STATE_LOSS (05 R113): detail 0x00FE, or 0x00FD for a tile given up (R108). The position has no working tile, what it kept for its
buddy is gone, and partitions that no longer fit are suspended (R111). -/
def execStateLoss (s : State) : Out :=
  match s.input with
  | .tileNum k detail =>
    if s.isLost k then .next s
    else
      let c := s.cluster (clusterOf k)
      let e : SlotMap := (c.slotMap.get? (ltnOf k % 32)).getD { pslot := ltnOf k % 32, v := true, lost := false }
      let s := s.setCluster (clusterOf k) { c with slotMap := c.slotMap.set (ltnOf k % 32) { e with lost := true } }
      if (s.tiles.get? k).isNone then .next (s.overfull.foldl (fun s n => s.after 1 .partitionSuspend (.nums3 n 0 1)) s)
      else
        let n := (s.tile k).r.ctx
        let s := s.fence k (s.tile k).r.cause
        let s := s.setTile k { c := { TileCtx.reset with ivn := (s.tile k).c.ivn }, r := { (s.tile k).r with held := [] } }
        let s := s.stopContext n detail
        .next (s.overfull.foldl (fun s n => s.after 1 .partitionSuspend (.nums3 n 0 1)) s)
  | _ => .next s

/-- What the replacement of tile `k` is loaded from. -/
def State.restored (s : State) (k : TileId) : TileCtx := ((s.mirrorOf k).map Mirror.ctx).getD TileCtx.reset

/-- A reloadable extent of the tile reads poisoned data (05 R89). -/
def State.extentPoisoned (s : State) (k : TileId) : Bool :=
  (s.restored k).extents.any (fun x => (s.fwRead (s.tile k).r.ctx (BitVec.ofNat 64 x.2.2) x.2.1).1 == 5)

/-! ### The recovery sequence (05 R103 to R107) -/

/-- Cycles in which a tile's checkpoint and reloadable extents are loaded (05 R116). -/
def State.loadCycles (s : State) (k : TileId) : Nat :=
  let c := s.restored k
  (mutableExtent c.poolcfg c.extents + extentBytes c.extents) / 32

/-- The event belongs to the recovery of tile `k` that is under way. -/
def State.inChain (s : State) (k : TileId) (n : Nat) : Bool := (s.tile k).r.mode == .fenced && (s.tile k).r.chain == n

/-- The engine takes a replacement for tile `k`. -/
def State.aim (s : State) (k : TileId) (kind p : Nat) : State := s.setRouter k { (s.tile k).r with target := some (kind, p) }

/-- RECOVERY (05 R103 steps 2 and 3): a spare is chosen, and the checkpoint and the reloadable extents are loaded at 32
bytes per cycle. Without a mirror, a spare or readable extents the state is lost. A borrowed tile waits until its partition
is parked. The engine handles 64 at once. -/
def execRecovery (s : State) : Out :=
  match s.input with
  | .tileNum k n =>
    let go (s : State) (kind p : Nat) : State := (s.aim k kind p).after (s.loadCycles k) .rebindWave (.nums3 k n 0)
    if !s.inChain k n then .next s
    else if 3 ≤ (s.tile k).r.tries then .next (s.after 1 .stateLoss (.tileNum k 0xFD))
    else if 64 ≤ (s.targets k).length then .next (s.after 1 .recovery s.input)
    else if (s.mirrorOf k).isNone ∨ s.extentPoisoned k then .next (s.after 1 .stateLoss (.tileNum k 0xFE))
    else
      match (s.tile k).r.target with
      | some (0, _) => .next s
      | some (1, _) => .next s
      | some (4, _) => .next s
      | some (3, c) =>
        match s.dev.ctx? c with
        | none => .next ((s.setRouter k { (s.tile k).r with target := none }).after 1 .recovery s.input)
        | some y =>
          if y.holds then .next (s.after 1024 .recovery s.input)
          else
            match s.borrowed k y with
            | none => .next ((s.setRouter k { (s.tile k).r with target := none }).after 1 .recovery s.input)
            | some (j, ptl) => .next (go (s.after 1 .stateLoss (.tileNum j 0xFE)) 1 ptl)
      | _ =>
        match s.chooseSpare k with
        | .slot p => .next (go s 0 p)
        | .tile ptl => .next (go s 1 ptl)
        | .stay => .next (go s 4 0)
        | .dark c => .next ((s.aim k 2 c).after 625000 .spareChipletPowered (.tileNum k c))
        | .borrow c =>
          let s := if ((s.dev.ctx? c).map Ctx.res) == some .resident then s.after 1 .partitionSuspend (.nums3 c 0 1) else s
          .next ((s.aim k 3 c).after 1024 .recovery s.input)
        | .none => .next (s.after 1 .stateLoss (.tileNum k 0xFE))
  | _ => .next s

/-- SPARE_CHIPLET_POWERED (05 R104): the dark spare is up, and the restore goes on. -/
def execSpareChipletPowered (s : State) : Out :=
  match s.input with
  | .tileNum k c =>
    let s := { s with chiplets := s.chiplets.set c { s.chiplet c with powered := true } }.setDark c false
    .next (if (s.tile k).r.target = some (2, c) then s.after 1 .recovery (.tileNum k (s.tile k).r.chain) else s)
  | _ => .next s

/-- Links from the control die to the farthest router, by the corners of the chiplets (05 R116). -/
def Device.waveLinks (d : Device) : Nat :=
  ((List.range 136).flatMap (fun c => [0, 7, 56, 63].map (fun i => d.dieHops (coordOf c i)))).foldl max 0

/-- The context that the replacement of tile `k` starts from: the mirror, with lines of reloadable extents read from the cellar again
but for those that the launch has stored into (05 R97), their FE bits full (07 R157), and each operation's ranges registered again
(05 R94). -/
def State.loaded (s : State) (k : TileId) (m : Mirror) : TileCtx :=
  let c := m.ctx
  let fresh (c : TileCtx) (x : Nat × Nat × Nat) : TileCtx :=
    let bs := (s.fwRead (s.tile k).r.ctx (BitVec.ofNat 64 x.2.2) x.2.1).2
    (linesOf x.1 x.2.1).foldl (fun c l =>
      if c.stored.contains l then c
      else
        let lo := max (64 * l) x.1
        let hi := min (64 * l + 64) (x.1 + x.2.1)
        { c with pool := c.pool.setBytes lo ((bs.drop (lo - x.1)).take (hi - lo)), emptyDw := c.emptyDw.filter (fun d => d / 8 != l) }) c
  let c := c.extents.foldl fresh c
  c.ops.foldl (fun c o => if o.listed then c.register o.issued k o.id o.launch o.ranges else c) c

/-- The tables of the routers name the replacement: a local spare changes the slot map of its cluster, another one writes an exception
entry in every router, and its old router one that forwards (05 R105). -/
def State.rebind (s : State) (k : TileId) (kind p : Nat) : State :=
  match kind with
  | 0 =>
    let c := s.cluster (clusterOf k)
    s.setCluster (clusterOf k) { c with slotMap := c.slotMap.set (ltnOf k % 32) { pslot := p, v := true, lost := false } }
  | 1 =>
    let e : Exception := { ltn := ltnOf k, ptl := p, v := true, fwd := false, shd := isShadow k, since := s.now }
    let c := s.cluster (clusterOf k)
    let i := ((List.range 1024).find? (fun i => (c.exceptions.get? i).isNone)).getD 0
    let s := s.setCluster (clusterOf k) { c with exceptions := c.exceptions.set i { e with fwd := true } }
    { s with dev := { s.dev with exceptions := e :: s.dev.exceptions } }
  | _ => s

/-- The boundary of the checkpoint as the tile's port holds it until its commit: its lines have gone. -/
def Mirror.ship (m : Mirror) : Ship := { ivn := m.ctx.ivn, cyc := m.cyc, base := m.base, lines := [], latched := [], count := 0, ctx := m.ctx, mask := m.mask }

/-- REBIND_WAVE (05 R103, R105): the checkpoint is loaded; the wave leaves, one at a time, and takes 2·D·3 cycles, none for a local
spare (R116). -/
def execRebindWave (s : State) : Out :=
  match s.input with
  | .nums3 k n loaded =>
    match (s.tile k).r.target, if loaded = 0 then s.mirrorOf k else (s.tile k).r.ship.map (fun sh => ⟨sh.ctx, sh.cyc, sh.base, sh.mask⟩) with
    | some (kind, p), some m =>
      if !s.inChain k n then .next s
      else
        let s := if loaded = 0 then (s.setCtx k (s.loaded k m)).setRouter k { (s.tile k).r with ship := some m.ship } else s
        if kind = 1 ∧ s.now < s.dev.waveEnd then .next (s.after (s.dev.waveEnd - s.now) .rebindWave (.nums3 k n 1))
        else
          let t := if kind = 1 then 2 * s.dev.waveLinks * 3 else 0
          let s := s.rebind k kind p
          let s := if kind = 1 then { s with dev := { s.dev with waveEnd := s.now + t } } else s
          .next (s.after t .rebindWaveComplete (.tileNum k n))
    | _, _ => .next (if s.inChain k n then s.after 1 .stateLoss (.tileNum k 0xFE) else s)
  | _ => .next s

/-- REBIND_WAVE_COMPLETE (05 R105, R116): every router has the entry; the log is copied, two cycles for each record. -/
def execRebindWaveComplete (s : State) : Out :=
  match s.input with
  | .tileNum k n =>
    if !s.inChain k n then .next s
    else
      let e := s.exceptionOf k
      let s := { s with dev := { s.dev with exceptions := s.dev.exceptions.filter (fun x => !x.isFor k || some x == e) } }
      .next (s.after (2 * ((s.tile k).r.source.map LogRec.size).sum) .replay (.tileNum k n))
  | _ => .next s

/-- The tile joins those that take a turn in this cycle. -/
def State.joinTurns (s : State) (k : TileId) : State :=
  if (s.tile k).r.mode == .live && !s.turns.contains k then { s with turns := insertBy (fun a b => decide (a ≤ b)) k s.turns } else s

/-- The commit of boundary `ivn` of tile `k` is among what a replay delivers, or has yet to reach it. -/
def State.commitDue (s : State) (k : TileId) (ivn : BitVec 48) : Bool :=
  let r := (s.tile k).r
  r.source.any (fun x => x.ev == .boundaryCommit && x.arg == .tileNum k ivn.toNat)
    || r.held.any (fun h => h.1 == .boundaryCommit && h.2 == .tileNum k ivn.toNat)
    || s.agenda.any (fun x => x.ev == .boundaryCommit && x.arg == .tileNum k ivn.toNat)

/-- The router of tile `k` runs a replay from the checkpoint of boundary `m` to tile cycle `f` on the records `xs`; the first `n` injections are not
repeated (05 R106). -/
def State.startReplay (s : State) (k : TileId) (m : Ship) (f : Nat) (xs : List LogRec) (n : Nat) : State :=
  let s := s.setRouter k { (s.tile k).r with
    mode := .live, mask := m.mask, cyc := m.cyc, base := m.base, logFrom := m.cyc, fence := f, log := [], sent := [], prev := none, ship := if s.commitDue k m.ivn then some m else none, deferred := false
    want := false, script := xs, skip := n, replay := true, stopped := 0, arrivals := (0, 0), migrantAt := 0 }
  (s.thaw k).joinTurns k

/-- REPLAY (05 R106, 18 R373): the replacement executes from the checkpoint on. A planned migration has nothing to replay (R112). -/
def execReplay (s : State) : Out :=
  match s.input with
  | .tileNum k n =>
    let r := (s.tile k).r
    match r.ship with
    | none => .next s
    | some sh =>
      if !s.inChain k n then .next s
      else if r.fence < sh.cyc then
        .next ((s.setRouter k { r with
          cyc := sh.cyc, base := sh.base, logFrom := sh.cyc, ship := if s.commitDue k sh.ivn then some sh else none }).after 1 .recoveryRelease (.tileNum k n))
      else .next (s.startReplay k sh r.fence r.source r.total)
  | _ => .next s

/-- The replay of tile `k` has executed the fence cycle: RESTART is logged, and the release follows; what it has asked for is due then
(05 R106, 18 R374). -/
def State.endReplay (s : State) (k : TileId) : State :=
  let r := (s.tile k).r
  let s := s.setRouter k { r with mode := .fenced, stopped := if r.mode == .live then 0 else r.stopped
                                  replay := false, script := [], skip := 0, want := false, deferred := r.deferred || r.want }
  (s.mark k kRestart 0 8 (BitVec.ofNat 64 (r.fence - r.base))).after 1 .recoveryRelease (.tileNum k r.chain)

/-- Every line of the mutable extent. -/
def allLines (cfg : Word) : List Nat := List.range ((scrUnits cfg + accUnits cfg) * 64)

/-- Tile `b` has no mirror any more: it takes a boundary at once with every mutable line dirty, and what it was shipping is void (05
R107). -/
def State.reprotect (s : State) (b : TileId) : State :=
  let s := s.note b .deferredBoundary (.tileNum b 1)
  let c := (s.tile b).c
  let s := s.setCtx b { c with dirty := c.dirty ++ (allLines c.poolcfg).filter (fun l => !c.dirty.contains l) }
  (s.setRouter b { (s.tile b).r with ship := none }).requestBoundary b

/-- A request of a boundary that comes from outside the tile; with 1 beside it, that of R107, with 2 an emergency save (R110). A tile that is
being recovered makes it after its release. -/
def State.orderBoundary (s : State) (k : TileId) (kind : Nat) : State :=
  let r := (s.tile k).r
  if r.mode == .fenced || (r.replay && !r.quiet) then s.setRouter k { r with held := r.held ++ [(.deferredBoundary, .tileNum k kind)] }
  else if kind = 1 then s.reprotect k
  else if kind = 2 then
    let s := s.note k .deferredBoundary (.tileNum k kind)
    (s.setRouter k { (s.tile k).r with saving := r.cyc + 1 }).requestBoundary k
  else (s.note k .deferredBoundary (.tileNum k kind)).requestBoundary k

/-- DEFERRED_BOUNDARY (05 R93, R107): a deferred request is taken in the cycle after the commit; or a boundary is ordered from outside. -/
def execDeferredBoundary (s : State) : Out :=
  match s.input with
  | .tile k => .next (s.requestBoundary k)
  | .tileNum k kind => .next (s.orderBoundary k kind)
  | _ => .next s

/-- Cycles that a held packet's way from the old router to the new one adds (05 R116). -/
def State.forwardCycles (s : State) (k : TileId) (d : Nat) : Nat :=
  let here := s.ptlOf k / 64
  if d = here then 0 else 8 + 3 * s.dev.routeHops none (coordOf (d / 64) (d % 64)) (coordOf (here / 64) (here % 64))

/-- RECOVERY_RELEASE (05 R105, R107, 18 R374): live execution resumes in this cycle; a voided or deferred boundary is
taken in it, then the held packets go in; the buddy takes a boundary with every mutable line dirty. Threads that waited for something
their router knows are looked at, and launches that waited for the tile; the mask count of its chiplet goes to it (01 R19). -/
def execRecoveryRelease (s : State) : Out :=
  match s.input with
  | .tileNum k n =>
    let r := (s.tile k).r
    if !s.inChain k n then .next s
    else
      let due := r.deferred && r.ship.isNone
      let far := match r.target with | some (1, _) => s.forwardCycles k (placeAt (s.gridOf (clusterOf k) k)) | _ => 0
      let s := s.setRouter k { r with
        mode := if r.stopped = 0 then .live else .stopping
        tries := 0, moving := false, relief := false, target := none, source := [], total := 0, want := due, deferred := r.deferred && !due }
      let s := if r.fence < r.base then s.thaw k else s
      let s := s.joinTurns k
      let s := s.after ((if due then 1 else 0) + far) .heldPacketDelivery (.tileNum k n)
      let s := s.after 1 .captureEntryFree (.tile k)
      let s := (List.finRange 16).foldl (fun s j =>
        match ((s.tile k).slot j).bind Thread.park with
        | some ⟨.redg .., tok, _, _⟩ => s.after 1 .reductionResult (.ref { tile := k, tok := tok })
        | _ => s) s
      let s := (((s.dev.ctx? r.ctx).map Ctx.launches).getD []).foldl (fun s l => s.lookAt r.ctx l.1) s
      let s := s.after 1 .population (.num r.ctx)
      let m := (s.chiplet (s.chipOf k)).mask
      let s := if m = r.mask then s else s.sendOn memoryPort k 0 (3 * s.dieLinks (clusterOf k)) .maskChange (.tileNum k m)
      .next (s.orderBoundary (buddyOf k) 1)
  | _ => .next s

/-- HELD_PACKET_DELIVERY (05 R105): one held packet per cycle, in arrival order, as a live event; contexts of a population go in together (03
R57), and a pre-emption takes effect in the cycle after (06 R140). -/
def execHeldPacketDelivery (s : State) : Out :=
  match s.input with
  | .tileNum k n =>
    let r := (s.tile k).r
    match r.held with
    | [] => .next s
    | x :: rest =>
      if r.mode == .fenced || r.replay || r.chain != n then .next s
      else
        let many := rest.takeWhile (fun y => x.1 == .population && y.1 == .population)
        let rest := rest.drop many.length
        let s := (x :: many).foldl (fun s y => s.after (if y.1 = .gangPreempt then 1 else 0) y.1 y.2) (s.setRouter k { r with held := rest })
        .next (if rest.isEmpty then s else s.after 1 .heldPacketDelivery s.input)
  | _ => .next s

/-! ### Planned migration (05 R112, 06 R142) -/

/-- Thermal relief may move tile `k` (06 R142): its chiplet throttled in 10 control intervals in a row, fewer than 64 of its tiles
on the move, and a spare chiplet has a free tile. -/
def State.reliefAllowed (s : State) (k : TileId) : Bool :=
  let c := s.chipOf k
  decide (10 ≤ (s.chiplet c).runs) && decide ((s.tiles.filter (fun x => x.2.r.relief)).length < 64)
    && (((s.spareChips k true).findSome? (s.freePtl k)).isSome || !(s.spareChips k false).isEmpty)

/-- PLANNED_MIGRATION (05 R112): the tile takes a boundary, stops there, and is recovered from it at the commit. Firmware asks for
it for service, or with 1 beside the tile for thermal relief, where that is allowed (06 R142). -/
def execPlannedMigration (s : State) : Out :=
  match s.input with
  | .tile k =>
    let r := (s.tile k).r
    .next (if r.mode != .live ∨ r.replay then s else (s.setRouter k { r with moving := true }).orderBoundary k 0)
  | .tileNum k 1 =>
    let r := (s.tile k).r
    .next (if r.mode != .live ∨ r.replay ∨ r.moving ∨ !s.reliefAllowed k then s
      else (s.setRouter k { r with moving := true, relief := true }).orderBoundary k 0)
  | _ => .next s

/-! ### Tables and links (04 R69, R77, R78) -/

/-- REBIND_TABLE_WRITE (04 R77, R78): firmware writes an entry of one router: kind 0 its chiplet map, 1 its slot map, 2 its exception
table; the entry's bits as R77 lays them out. It takes effect in the cycle after it arrives, kinds 4 to 6. -/
def execRebindTableWrite (s : State) : Out :=
  match s.input with
  | .words kind [cl, i, w] =>
    let c := s.cluster cl.toNat
    let map : SlotMap := { pslot := bitsOf w 0 8, v := w.getLsbD 8, lost := w.getLsbD 9 }
    let slot : SlotMap := { pslot := bitsOf w 0 6, v := w.getLsbD 6, lost := w.getLsbD 7 }
    let e : Exception :=
      { ltn := bitsOf w 0 18, ptl := bitsOf w 18 20, v := w.getLsbD 38, fwd := w.getLsbD 39, shd := w.getLsbD 40, since := s.now }
    let n := i.toNat
    match kind with
    | 4 => .next (if 136 ≤ n then s else s.setCluster cl.toNat { c with chipMap := c.chipMap.set n map })
    | 5 => .next (if 34 ≤ n then s else s.setCluster cl.toNat { c with slotMap := c.slotMap.set n slot })
    | 6 => .next (if 1024 ≤ n then s else s.setCluster cl.toNat { c with exceptions := c.exceptions.set n e })
    | n => .next (if n < 3 then s.after 1 .rebindTableWrite (.words (n + 4) [cl, i, w]) else s)
  | _ => .next s

/-- LINK_RESEND (04 R69): a link of a router has asked for a flit again, or, with 1, got it; a resend costs 8 cycles, which nothing but
time shows. Three failures in a row take the link down, which escalates as the loss of the router. -/
def execLinkResend (s : State) : Out :=
  match s.input with
  | .nums3 cl i ok =>
    let l := (s.cluster cl).link i
    if ok = 1 then .next (s.setLink cl i { l with failing := 0 })
    else
      let s := s.setLink cl i { l with resends := l.resends + 1, failing := l.failing + 1 }
      .next (if 3 ≤ l.failing + 1 then s.routerLost cl else s)
  | _ => .next s

end Sys2Proof.Machine
end

