-- ==== Sys2Proof/Machine/Registers.lean ====
section
/-!
DEFINITION. The registers that an instruction reads and writes, which a migration and a save add to the live set (06 R129, R137).
-/
namespace Sys2Proof.Machine

/-- The general registers an instruction names or uses by itself (06 R129 step 2); an event uses none. -/
def registersOf (i : Instr) : List Reg :=
  match i with
  | .add _ a b c | .sub _ a b c | .mul _ a b c | .mulh _ a b c | .mulhu _ a b c | .div _ a b c
  | .divu _ a b c | .rem _ a b c | .remu _ a b c | .and _ a b c | .or _ a b c | .xor _ a b c
  | .andn _ a b c | .shl _ a b c | .shr _ a b c | .sar _ a b c | .rot _ a b c | .min _ a b c
  | .max _ a b c | .minu _ a b c | .maxu _ a b c | .sel a _ b c | .fadd _ a b c | .fsub _ a b c
  | .fmul _ a b c | .fdiv _ a b c | .fmin _ a b c | .fmax _ a b c | .ldBTd a b c _ | .ldBuTd a b c _
  | .ldHTd a b c _ | .ldHuTd a b c _ | .ldWTd a b c _ | .ldWuTd a b c _ | .ldDTd a b c _ | .stBTd a b c _
  | .stHTd a b c _ | .stWTd a b c _ | .stDTd a b c _ | .amoadd _ a b c | .amoand _ a b c | .amoor _ a b c
  | .amoxor _ a b c | .amomin _ a b c | .amomax _ a b c | .amominu _ a b c | .amomaxu _ a b c | .amoswap _ a b c
  | .amocas _ a b c | .rfill a b c | .recv a b c | .tryrecv a b c | .spawn a b c | .qpost a b c
  | .vdot _ a b c | .bopen a _ _ _ b c | .bsend a b c _ | .colld a b c | .colrun a b c | .red a b c _ _ => [a, b, c]
  | .addi a b _ | .andi a b _ | .ori a b _ | .xori a b _ | .shli a b _ | .shri a b _
  | .sari a b _ | .muli a b _ | .mov a b | .neg a b | .not a b | .clz a b
  | .ctz a b | .popc a b | .sext _ a b | .zext _ a b | .ext a b _ _ | .extu a b _ _
  | .ins a b _ _ | .cmpEq _ a b | .cmpNe _ a b | .cmpLt _ a b | .cmpGe _ a b | .cmpLtu _ a b
  | .cmpGeu _ a b | .cmpTst _ a b | .cmpNtst _ a b | .fsqrt _ a b | .fabs _ a b | .fneg _ a b
  | .feq _ a b | .flt _ a b | .fle _ a b | .funo _ a b | .cvtfi _ a b | .cvtif _ a b
  | .cvtfb _ a b | .cvtbf _ a b | .cvtfh _ a b | .cvthf _ a b | .fclass _ a b | .csrw a b _
  | .csrs a b _ | .csrc a b _ | .ldBTi a b _ | .ldBuTi a b _ | .ldHTi a b _ | .ldHuTi a b _
  | .ldWTi a b _ | .ldWuTi a b _ | .ldDTi a b _ | .stBTi a b _ | .stHTi a b _ | .stWTi a b _
  | .stDTi a b _ | .ldc a b _ | .ldf a b _ | .stp a b _ | .stf a b _ | .fest a b _
  | .send a b _ _ | .gjoin a b | .gleave a b | .gbar a b | .gsize a b | .swapt a b
  | .vsum _ a b | .vssq _ a b | .vamax _ a b | .vmaxr _ a b | .vminr _ a b | .cpy _ a b _
  | .cpys _ a b _ | .cpyx _ a b _ | .accld _ _ _ a b | .accst _ _ _ a b | .accpin _ _ _ a b | .tld _ a b _
  | .dscl _ a b | .redg a b _ => [a, b]
  | .li16 _ a _ | .li32 _ a _ | .li64 a _ | .cmpiEq _ a _ | .cmpiNe _ a _ | .cmpiLt _ a _
  | .cmpiGe _ a _ | .cmpiLtu _ a _ | .cmpiGeu _ a _ | .cmpiTst _ a _ | .cmpiNtst _ a _ | .ppack a _
  | .punpack a _ | .prd a | .pwr a | .jr a | .loop a _ | .lidx a
  | .ldep a | .csrr a _ | .femt a _ | .rempty a | .rstat a | .mig a
  | .ckpt a | .siga a | .accatt _ _ _ a | .accsta a _ _ | .delta _ a | .dread _ a
  | .bwait a | .bnorm a _ | .bseal a _ | .babsent a | .bclose a | .bstat a _
  | .colwait a | .colst a => [a]
  | .fma _ a b c d | .fnma _ a b c d => [a, b, c, d]
  | .call _ | .ret => [30]
  | .callr a => [a, 30]
  | .enter _ | .leave => [29]
  | .task => [1, 2, 3, 4, 5, 6]
  | .vadd o | .vsub o | .vmul o | .vmax o | .vmin o | .vabs o
  | .vneg o | .vfma o | .vexp o | .vrcp o | .vrsq o | .vsigm o
  | .vsilu o | .vcvt o | .vset o | .vcpy o | .viota o | .vsel o
  | .vcmp o | .vscl o => [o.a, o.b, o.c, o.e]
  | .vgath o | .vscat o | .vscadd _ o => [o.a, o.b, o.c]
  | .mma o => [o.a, o.b, o.k]
  | .mmag o d => [o.a, o.b, o.k, d]
  | _ => []

/-- The instruction that the head at offset `p` of a line encodes. -/
def instrIn (halves : List (BitVec 16)) (p : Word) : Option Instr :=
  if (lineCheck halves).isSome || (headCheck (lineNH halves) p).isSome then none
  else
    match decode (halfAt halves (headOf p)) (tailOf halves (headOf p)) with
    | .instr i => some i
    | _ => none

end Sys2Proof.Machine
end

