-- ==== Sys2Proof/Machine/Image.lean ====
section
/-!
DEFINITION. The parked image of a tile: its bytes, and what a restore reads back from them (06 R137, R138, 09 R192 to R196, 16
R325).
-/
namespace Sys2Proof.Machine

/-! ### The registers a save keeps (06 R129, R137, 09 R192, R193) -/

/-- The search of 09 R192, its entries read through the gateway of tile `k`'s cluster: the state, the covering entry's mask, whether
none covers the offset or a read is refused (log 74), and the number of reads. -/
def State.liveSearch (s : State) (k : TileId) (base : Word) (h lo hi n : Nat) (e : Option (BitVec 32)) (fuel : Nat) :
    State × Option (BitVec 32) × Nat :=
  match fuel with
  | 0 => (s, e, n)
  | fuel + 1 =>
    if hi ≤ lo then (s, e, n)
    else
      let mid := (lo + hi) / 2
      let a := base + BitVec.ofNat 64 (8 * mid)
      let x := s.gateRead k none
        { ctx := (s.tile k).r.ctx, host := false, va := bitsOf a 0 48, addr := a, size := 8, signed := false, toReg := false
          cached := true, fault := 0 }
      if x.2.1 ≠ 0 then (x.1, none, n + 1)
      else
        let w := leNat x.2.2
        if w % 2 ^ 32 ≤ h then x.1.liveSearch k base h (mid + 1) hi (n + 1) (some (BitVec.ofNat 32 (w / 2 ^ 32))) fuel
        else x.1.liveSearch k base h lo mid (n + 1) e fuel

/-- The search for a thread of tile `k`, at its PC. -/
def State.liveAt (s : State) (k : TileId) (th : Thread) : State × Option (BitVec 32) × Nat :=
  let e := (s.tile k).launchOf th.lix
  s.liveSearch k e.live (th.pc.toNat / 2) 0 e.nlive.toNat 0 none 33

/-- The instruction at a thread's PC: from the instruction cache, or from its code image. -/
def State.instrAt (s : State) (k : TileId) (th : Thread) : Option Instr :=
  let line := (lineOf th.pc).toNat
  match (s.tile k).cached th.lix.toNat line with
  | some l => instrIn l.halves th.pc
  | none =>
    let e := (s.tile k).launchOf th.lix
    if e.limit.toNat ≤ line then none
    else
      let x := s.fwRead (s.tile k).r.ctx (e.code + BitVec.ofNat 64 line) 64
      if x.1 ≠ 0 then none else instrIn (halvesOf x.2) th.pc

/-- The registers of a thread that a save keeps: those of the covering entry and of the instruction at its PC, or all (06 R129, R137, 09
R193). -/
def State.saveMask (s : State) (k : TileId) (th : Thread) : BitVec 32 :=
  if th.xlvl ≠ 0 then BitVec.allOnes 32
  else match (s.liveAt k th).2.1 with
    | some m => m ||| regsMask (((s.instrAt k th).map registersOf).getD [])
    | none => BitVec.allOnes 32

/-- The tile searches for the live registers of the thread in slot `j`; each entry that it reads is logged LREPLY (09 R192). -/
def State.searchLive (s : State) (k : TileId) (j : Fin 16) : State :=
  match (s.tile k).slot j with
  | none => s
  | some th =>
    if th.xlvl ≠ 0 then s
    else
      let x := s.liveAt k th
      (List.range x.2.2).foldl (fun s _ => s.mark k kLreply j.val 8 0) x.1

/-! ### The bytes (09 R194 to R196, 06 R130) -/

/-- The registers of a mask in ascending number, 8 bytes each. -/
def regBytes (th : Thread) (m : BitVec 32) : List Byte :=
  ((List.finRange 32).filter (fun r => r.val != 0 && m.getLsbD r.val)).flatMap (fun r => leBytes 8 (th.reg r).toNat)

/-- Loop entries, innermost first, in `n` places. -/
def loopBytes (ls : List LoopEntry) (n : Nat) : List Byte :=
  (List.range n).flatMap (fun i => match ls[i]? with
    | some e => leBytes 4 e.start.toNat ++ leBytes 4 e.stop.toNat ++ leBytes 4 e.count.toNat
    | none => leBytes 12 0)

/-- Bits [255:0] of the migrant image, with fields of the saved record in reserved bits (06 R130, 09 R194). -/
def headBits (th : Thread) (live : BitVec 32) (saved : Bool) : Nat :=
  th.pc.toNat % 2 ^ 32 + th.pw.toNat * 2 ^ 32 + th.loops.length * 2 ^ 48 + th.frm.toNat * 2 ^ 51 + th.fflags.toNat * 2 ^ 54
    + th.lix.toNat * 2 ^ 59 + (if th.held then 2 ^ 63 else 0) + th.tid * 2 ^ 64
    + (if saved then th.xlvl.toNat * 2 ^ 86 else 0) + (live.toNat / 2 * 2) * 2 ^ 96 + th.pix.toNat * 2 ^ 128
    + th.vlen.toNat * 2 ^ 148 + th.pkslot.toNat * 2 ^ 168 + (if saved then th.feretry.toNat * 2 ^ 184 else 0)
    + th.sig.toNat * 2 ^ 192

/-- The 128-byte thread record (09 R194). -/
def recordBytes (th : Thread) (live : BitVec 32) : List Byte :=
  let p := th.pend.getD { ltn := 0, mbox := 0, tag := 0, payload := [], bounces := 0 }
  let mid := th.splim.toNat + th.spov.toNat * 2 ^ 64 + th.spovlim.toNat * 2 ^ 128 + th.fetimeo.toNat * 2 ^ 192
    + th.xvec.toNat / 2 * 2 ^ 225
  let tail := th.blim.toNat + th.sndretry.toNat * 2 ^ 32 + p.bounces % 2 ^ 16 * 2 ^ 48
    + (if th.pend.isSome then 2 ^ 64 else 0) + p.mbox.val * 2 ^ 65 + p.tag.toNat * 2 ^ 69 + p.ltn.toNat * 2 ^ 85
  leBytes 32 (headBits th live true) ++ leBytes 32 mid ++ leBytes 16 tail ++ (p.payload ++ List.replicate 48 0).take 48

/-- The 160-byte migrant image of a box-room entry (06 R130). -/
def guestBytes (th : Thread) : List Byte :=
  leBytes 32 (headBits th th.carried false) ++ loopBytes th.loops 4 ++ (regBytes th th.carried ++ List.replicate 80 0).take 80

/-- Six doublewords of a trap bank (09 R195). -/
def bankBytes (b : Bank) : List Byte :=
  leBytes 8 (b.pc.toNat + b.pix.toNat * 2 ^ 32 + b.loops.length * 2 ^ 52) ++ leBytes 8 (b.cause.toNat + b.pw.toNat * 2 ^ 32)
    ++ leBytes 8 b.val.toNat ++ loopBytes b.loops 4

/-- A slot block (09 R195). -/
def slotBytes (o : Option Thread) : List Byte :=
  match o with
  | none => List.replicate 192 0
  | some th => loopBytes th.loops 4 ++ bankBytes th.bankX ++ bankBytes th.bankY

/-- An ownership entry's word (16 R323). -/
def OwnEntry.word (e : OwnEntry) : Nat :=
  e.stateCode + (if e.att then 8 else 0) + e.owner.toNat * 16 + (if e.inv then 256 else 0) + e.pin * 512 + e.ovf * 2 ^ 16

/-- A pin record's 16 bytes (16 R324); a free record is 0. -/
def pinBytes (o : Option PinRec) : List Byte :=
  match o with
  | none => leBytes 16 0
  | some r => leBytes 16 (r.key.toNat + r.tokens.toNat * 2 ^ 32 + r.spill / 64 * 2 ^ 64 + r.first * 2 ^ 106 + r.cnt * 2 ^ 113
      + (if r.bound then 2 ^ 117 else 0) + (if r.bad then 2 ^ 118 else 0))

/-- The kind of an engine record (16 R325). -/
def Job.kind (j : Job) : Nat :=
  match j with
  | .vec .. => 1
  | .red .. => 2
  | .gat .. => 3
  | .mma _ _ _ _ _ _ c _ _ _ _ _ => if c.isSome then 5 else 4
  | .delta .. => 6
  | .dread .. => 7
  | .dscl .. => 8
  | .tld .. => 9
  | .accLd .. => 10
  | .accSt .. => 11
  | .accAtt .. => 12
  | .accSpl .. => 13
  | .swapt .. => 14
  | .copy f .. => if f = 1 then 15 else 0
  | _ => 0

/-- The running value of an operation has a place in its engine record: a VRED F32 value, the partial CRC of an ACCATT (16 R325). -/
def Job.keepsRun (j : Job) : Bool :=
  match j with
  | .red _ ty _ _ _ _ => ty.isFloat
  | .accAtt .. => true
  | _ => false

/-- Operations whose progress point a pre-emption saves as their thread's pix (09 R194, 15 R316, 16 R325, 14 R293). -/
def Job.keepsPix (j : Job) : Bool :=
  j.stops || (match j with
    | .copy f .. => f == 1
    | .swapt .. => true
    | .accAtt .. => true
    | _ => false)

/-- The long instruction parked in slot `j`. -/
def TileCtx.opOf (c : TileCtx) (j : Fin 16) : Option EngOp := c.ops.find? (fun o => o.slot == some j && o.job.kind != 0)

/-- The engine record of a slot: the instruction parked there, a held fault, the running value (16 R325). -/
def TileCtx.engineBytes (c : TileCtx) (j : Fin 16) : List Byte :=
  let flt := (c.slots[j]).bind Thread.fault
  let head := match c.opOf j with
    | some o => o.job.kind + (if o.job.keepsRun then o.run.toNat % 2 ^ 32 * 2 ^ 32 else 0)
    | none => 0
  match flt with
  | some t => leBytes 16 (head + 16 + t.code % 256 * 32 + t.detail % 256 * 2 ^ 13 + t.val.toNat * 2 ^ 64)
  | none => leBytes 16 head

/-- The 4,096-byte control area (09 R195, 16 R325). -/
def TileCtx.controlBytes (c : TileCtx) : List Byte :=
  c.slots.toList.flatMap slotBytes
    ++ (List.range 128).flatMap (fun h => if h < accHandles c.poolcfg then leBytes 4 (c.entry h).word else leBytes 4 0)
    ++ (List.range 15).flatMap (fun i => pinBytes (c.pins.get? i))
    ++ leBytes 8 (c.ovf.toNat + (if c.inv then 2 ^ 16 else 0) + c.migretry.toNat * 2 ^ 24 + c.redlimit.toNat * 2 ^ 32)
    ++ leBytes 8 (c.migback.toNat + c.coltimeo.toNat * 2 ^ 17)
    ++ (List.finRange 16).flatMap c.engineBytes

/-- A migrant of tile `k` that has come back and waits to go again is in its home reservation (06 R132, R141). -/
def State.bouncedIn (s : State) (k : TileId) (h : Nat) : Option Thread :=
  ((s.tile k).c.frozen ++ s.agenda).findSome? (fun x =>
    match x.ev, x.arg with
    | .migbackResend, .migrant j _ th _ => if j = k ∧ th.hslot.toNat = h then some th else none
    | _, _ => none)

/-- The box-room entries in use, in ascending number: the home reservations with the thread that waits in one, and the guests (06
R127). -/
def State.boxRoom (s : State) (k : TileId) : List (Nat × Option Thread) :=
  let c := (s.tile k).c
  c.resv.map (fun x => (x.1, x.2.waiting.orElse (fun _ => s.bouncedIn k x.1)))
    ++ sortBy (fun a b => decide (a.1 ≤ b.1)) ((c.guests.filter (fun g => decide (16 ≤ g.entry))).map (fun g => (g.entry, some g.thread)))

/-- Scratchpad lines that a save holds: outside reloadable extents. -/
def State.savedLines (s : State) (k : TileId) : List Nat :=
  (List.range (scrBytes (s.tile k).c.poolcfg / 64)).filter (fun l => !inExtents (s.extents k) l)

/-- FE bits of a line, bit i for its doubleword i. -/
def TileCtx.feByte (c : TileCtx) (l : Nat) : Nat := (c.lineFull (8 * l)).toNat

/-- A tile's save, in the order of 09 R196. What the entry of a reservation holds while its thread is elsewhere is not given: free bytes
(log 6). -/
def State.imageBytes (s : State) (k : TileId) : List Byte :=
  let c := (s.tile k).c
  let ls := s.savedLines k
  c.controlBytes
    ++ (c.slots.toList.filterMap id).flatMap (fun th => recordBytes th (s.saveMask k th) ++ regBytes th (s.saveMask k th))
    ++ (s.boxRoom k).flatMap (fun x => match x.2 with
      | some th => guestBytes th
      | none => (List.range 160).map (fun i => Config.byte (s.free + 160 * x.1 + i)))
    ++ ls.flatMap (fun l => c.pool.bytes (64 * l) 64)
    ++ c.pool.bytes (scrBytes c.poolcfg) (accUnits c.poolcfg * 4096)
    ++ ls.map (fun l => BitVec.ofNat 8 (c.feByte l))

/-- Bytes of a tile's save: B of 06 R138. -/
def State.imageLen (s : State) (k : TileId) : Nat :=
  let c := (s.tile k).c
  let ext := extentBytes (s.extents k)
  (scrUnits c.poolcfg + accUnits c.poolcfg) * 4096 - ext + 4096
    + ((c.slots.toList.filterMap id).map (fun th => 128 + 8 * maskCount (s.saveMask k th))).sum
    + 160 * (s.boxRoom k).length + (scrUnits c.poolcfg * 4096 - ext) / 64

/-! ### Reading an image back (06 R137, 03 R54)

What the image does not hold (which slots are occupied, empty registers, what threads are parked for, mailboxes, launches) is as the context
kept it (log 27). -/

/-- Bits [lo + w - 1 : lo] of a number. -/
def fieldOf (n lo w : Nat) : Nat := n / 2 ^ lo % 2 ^ w

/-- `n` bytes from offset `a` of some bytes, as a number. -/
def numAt (bs : List Byte) (a n : Nat) : Nat := leNat ((bs.drop a).take n)

/-- Loop entries as bytes give them. -/
def loopsOf (bs : List Byte) (n : Nat) : List LoopEntry :=
  (List.range n).map (fun i =>
    { start := BitVec.ofNat 32 (numAt bs (12 * i) 4), stop := BitVec.ofNat 32 (numAt bs (12 * i + 4) 4)
      count := BitVec.ofNat 32 (numAt bs (12 * i + 8) 4) })

/-- A thread with the registers of a mask as bytes give them; the others are 0 and full. -/
def Thread.withRegBytes (th : Thread) (m : BitVec 32) (bs : List Byte) : Thread :=
  let rs := (List.finRange 32).filter (fun r => r.val != 0 && m.getLsbD r.val)
  { th with
    regs := Vector.ofFn (fun i : Fin 32 => match rs.findIdx? (fun r => r == i) with
      | some p => BitVec.ofNat 64 (numAt bs (8 * p) 8)
      | none => 0)
    full := th.full ||| ~~~m }

/-- The fields of bits [255:0] of an image. -/
def Thread.withHead (th : Thread) (h : Nat) : Thread :=
  { th with
    pc := BitVec.ofNat 64 (fieldOf h 0 32), pw := BitVec.ofNat 16 (fieldOf h 32 16), frm := BitVec.ofNat 3 (fieldOf h 51 3)
    fflags := BitVec.ofNat 5 (fieldOf h 54 5), lix := BitVec.ofNat 4 (fieldOf h 59 4), held := fieldOf h 63 1 == 1
    home := BitVec.ofNat 18 (fieldOf h 64 18), hslot := BitVec.ofNat 4 (fieldOf h 82 4), pix := BitVec.ofNat 20 (fieldOf h 128 20)
    vlen := BitVec.ofNat 20 (fieldOf h 148 20), pkslot := BitVec.ofNat 16 (fieldOf h 168 16), sig := BitVec.ofNat 64 (fieldOf h 192 64) }

/-- A trap bank as its bytes give it. -/
def Bank.withBytes (b : Bank) (bs : List Byte) : Bank :=
  let a := numAt bs 0 8
  let c := numAt bs 8 8
  { b with
    pc := BitVec.ofNat 32 (fieldOf a 0 32), pix := BitVec.ofNat 20 (fieldOf a 32 20), loops := loopsOf (bs.drop 24) (fieldOf a 52 3)
    cause := BitVec.ofNat 17 (fieldOf c 0 17), pw := BitVec.ofNat 16 (fieldOf c 32 16), val := BitVec.ofNat 64 (numAt bs 16 8) }

/-- A thread as its record, its registers and its slot block give it (09 R194, R195): the thread, and the bytes that it took. -/
def Thread.withRecord (th : Thread) (rec_ block : List Byte) : Thread × Nat :=
  let h := numAt rec_ 0 32
  let mid := numAt rec_ 32 32
  let t := numAt rec_ 64 16
  let live := BitVec.ofNat 32 (fieldOf h 96 32)
  let th := (th.withHead h).withRegBytes live (rec_.drop 128)
  ({ th with
      loops := loopsOf block (fieldOf h 48 3), xlvl := BitVec.ofNat 2 (fieldOf h 86 2), feretry := BitVec.ofNat 8 (fieldOf h 184 8)
      splim := BitVec.ofNat 64 (fieldOf mid 0 64), spov := BitVec.ofNat 64 (fieldOf mid 64 64), spovlim := BitVec.ofNat 64 (fieldOf mid 128 64)
      fetimeo := BitVec.ofNat 33 (fieldOf mid 192 33), xvec := BitVec.ofNat 32 (fieldOf mid 225 31 * 2)
      blim := BitVec.ofNat 32 (fieldOf t 0 32), sndretry := BitVec.ofNat 16 (fieldOf t 32 16)
      pend := if fieldOf t 64 1 = 1 then
          some { ltn := BitVec.ofNat 18 (fieldOf t 85 18), mbox := Fin.ofNat 16 (fieldOf t 65 4), tag := BitVec.ofNat 16 (fieldOf t 69 16)
                 payload := (rec_.drop 80).take 48, bounces := fieldOf t 48 16 }
        else none
      bankX := th.bankX.withBytes (block.drop 48), bankY := th.bankY.withBytes (block.drop 120) }, 128 + 8 * maskCount live)

/-- A guest as its migrant image gives it (06 R130). -/
def Thread.withImage (th : Thread) (bs : List Byte) : Thread :=
  let h := numAt bs 0 32
  let live := BitVec.ofNat 32 (fieldOf h 96 32)
  { (th.withHead h).withRegBytes live (bs.drop 80) with loops := loopsOf (bs.drop 32) (fieldOf h 48 3), carried := live }

/-- An ownership entry from its word (16 R323). -/
def OwnEntry.ofWord (w : Nat) : OwnEntry :=
  { state := match fieldOf w 0 3 with | 1 => .owned | 2 => .pinned | 3 => .spilled | 4 => .staged | _ => .free
    att := fieldOf w 3 1 == 1, owner := BitVec.ofNat 4 (fieldOf w 4 4), inv := fieldOf w 8 1 == 1, pin := fieldOf w 9 4
    ovf := fieldOf w 16 16 }

/-- A pin record from its bytes (16 R324); it keeps the pool configuration it was made under, else it has the tile's. -/
def PinRec.ofBytes (old : Option PinRec) (cfg : Word) (bs : List Byte) : Option PinRec :=
  let n := numAt bs 0 16
  if fieldOf n 0 32 = 0 then none
  else
    some { key := BitVec.ofNat 32 (fieldOf n 0 32), tokens := BitVec.ofNat 32 (fieldOf n 32 32), spill := fieldOf n 64 42 * 64
           first := fieldOf n 106 7, cnt := fieldOf n 113 4, bound := fieldOf n 117 1 == 1, bad := fieldOf n 118 1 == 1
           cfg := (old.map PinRec.cfg).getD cfg }

/-- The slots from the records, one after another: the slots, and the bytes taken. -/
def slotsFrom (slots : List (Option Thread)) (ctl bs : List Byte) (j : Nat) : List (Option Thread) × Nat :=
  match slots with
  | [] => ([], 0)
  | none :: rest =>
    let x := slotsFrom rest ctl bs (j + 1)
    (none :: x.1, x.2)
  | some th :: rest =>
    let y := th.withRecord bs ((ctl.drop (192 * j)).take 192)
    let flt := numAt ctl (0xF00 + 16 * j) 16
    let t : TrapInfo := { code := fieldOf flt 5 8, detail := fieldOf flt 13 8, val := BitVec.ofNat 64 (fieldOf flt 64 64) }
    let th := { y.1 with fault := if fieldOf flt 4 1 = 1 then some t else none }
    let x := slotsFrom rest ctl (bs.drop y.2) (j + 1)
    (some th :: x.1, y.2 + x.2)

/-- An operation as its slot's engine record and thread give it: the progress point and the running value. -/
def EngOp.withRecord (o : EngOp) (slots : List (Option Thread)) (ctl : List Byte) : EngOp :=
  match o.slot with
  | none => o
  | some j =>
    let n := numAt ctl (0xF00 + 16 * j.val) 16
    { o with
      pix := if o.job.keepsPix then (((slots[j.val]?).getD none).map (fun t => t.pix.toNat)).getD o.pix else o.pix
      run := if o.job.keepsRun then (fieldOf n 32 32 : Int) else o.run }

/-- The lines of the scratchpad and their FE bits, and the acc region, from the end of an image. -/
def TileCtx.withLines (c : TileCtx) (ls : List Nat) (bs : List Byte) : TileCtx :=
  let acc := accUnits c.poolcfg * 4096
  let pool := ((List.range ls.length).foldl (fun (m : Memory) i => m.setBytes (64 * ls.getD i 0) ((bs.drop (64 * i)).take 64)) c.pool).setBytes
    (scrBytes c.poolcfg) ((bs.drop (64 * ls.length)).take acc)
  let fe := bs.drop (64 * ls.length + acc)
  { c with
    pool := pool
    emptyDw := c.emptyDw.filter (fun d => !ls.contains (d / 8)) ++ (List.range ls.length).flatMap (fun i =>
      ((List.range 8).filter (fun b => !(fe.getD i 0).getLsbD b)).map (fun b => 8 * ls.getD i 0 + b)) }

/-- Box-room entries from their images: the reservations that hold a thread, then the guests. -/
def TileCtx.withBox (c : TileCtx) (box : List Nat) (bs : List Byte) : TileCtx :=
  let img (e : Nat) : Option (List Byte) := (box.findIdx? (fun x => x == e)).map (fun i => (bs.drop (160 * i)).take 160)
  { c with
    resv := c.resv.map (fun x => (x.1, { x.2 with waiting := match x.2.waiting, img x.1 with
      | some th, some b => some (th.withImage b)
      | w, _ => w }))
    guests := c.guests.map (fun g => match img g.entry with
      | some b => { g with thread := g.thread.withImage b }
      | none => g) }

/-- The context of a tile as an image gives it, over what the context has kept, and the bytes of the image. `ls` are the lines that it
holds, `box` the entries in use. -/
def TileCtx.fromImage (c : TileCtx) (ls box : List Nat) (bs : List Byte) : TileCtx × Nat :=
  let ctl := bs.take 4096
  let e := numAt ctl 0xEF0 8
  let m := numAt ctl 0xEF8 8
  let x := slotsFrom c.slots.toList ctl (bs.drop 4096) 0
  let at_ := 4096 + x.2
  let len := at_ + 160 * box.length + 64 * ls.length + accUnits c.poolcfg * 4096 + ls.length
  let c := c.withBox box (bs.drop at_)
  let c := { c with
    slots := Vector.ofFn (fun j : Fin 16 => (x.1[j.val]?).getD none)
    ops := c.ops.map (fun (o : EngOp) => o.withRecord x.1 ctl)
    own := (List.range (accHandles c.poolcfg)).filterMap (fun h =>
      let o := OwnEntry.ofWord (numAt ctl (0xC00 + 4 * h) 4)
      if o = OwnEntry.reset then none else some (h, o))
    pins := (List.range 15).filterMap (fun i =>
      (PinRec.ofBytes (c.pins.get? i) c.poolcfg ((ctl.drop (0xE00 + 16 * i)).take 16)).map (fun r => (i, r)))
    ovf := BitVec.ofNat 16 (fieldOf e 0 16), inv := fieldOf e 16 1 == 1, migretry := BitVec.ofNat 8 (fieldOf e 24 8)
    redlimit := BitVec.ofNat 24 (fieldOf e 32 24), migback := BitVec.ofNat 17 (fieldOf m 0 17), coltimeo := BitVec.ofNat 33 (fieldOf m 17 33) }
  (c.withLines ls (bs.drop (at_ + 160 * box.length)), len)

end Sys2Proof.Machine
end

