-- ==== Sys2Proof/Machine/Preempt.lean ====
section
/-!
DEFINITION. Gang pre-emption: requests, stop, save, park and restore, and time slices (06 R136 to R141, R383, 09 R196, R201, 16 R334).
-/
namespace Sys2Proof.Machine

/-! ### Stop (06 R136 steps 1 and 2) -/

/-- What goes on at a tile that has stopped for a pre-emption: what completes accesses, operations and copies in flight, the save, and what
its router counts. -/
def goesOn (x : Timed) : Bool :=
  match x.ev with
  | .feWake => true
  | .feRefusalRepresent => true
  | .portBounceRepresent => true
  | .rangeLockRepresent => true
  | .engineOpStart => true
  | .engineOpComplete => true
  | .copyComplete => true
  | .mergeCommit => true
  | .spanCopyTimeout => true
  | .preemptSaveDone => true
  | .watchdogFire => true
  | .residencyStep => true
  | .ivlenExpire => true
  | .deferredBoundary => true
  | _ => false

/-- Tiles of a context, those of its shadow too. -/
def State.tilesOf (s : State) (ctx : Nat) : List TileId := (s.tiles.filter (fun x => x.2.r.ctx == ctx)).map Prod.fst

/-- Cycles that saves of the given sizes take, by tile: the bytes of the busiest cluster at 32 per cycle, or all at 51,200 (06 R138). -/
def saveTime (xs : Table Nat) : Nat :=
  max ((xs.map (fun x => ((xs.filter (fun y => clusterOf y.1 == clusterOf x.1)).map Prod.snd).sum)).foldl max 0 / 32)
    ((xs.map Prod.snd).sum / 51200)

/-- The sizes of the saves of a context's tiles. -/
def State.saveSizes (s : State) (ctx : Nat) : Table Nat := (s.tilesOf ctx).map (fun k => (k, s.imageLen k))

/-- Cycles in which every long instruction of a tile reaches a progress point, by what has started (06 R138). -/
def TileCtx.stopTime (c : TileCtx) : Nat :=
  (c.ops.map (fun o => match o.started, o.job with
    | some _, .delta _ d => d.dv * d.dk / 64 + 40
    | some _, .dread _ d => d.dv * d.dk / 64 + 40
    | _, _ => 0)).foldl max 64

/-- A started operation will stop at the next progress point it reaches. -/
def State.stopAtPoint (s : State) (k : TileId) (o : EngOp) : State :=
  match o.started with
  | none => s
  | some t =>
    if !o.job.stopsHere k then s
    else
      let e := (s.tile k).r.cyc - t
      let ev : Instr := match o.job with | .copy .. => .copyComplete | .commit .. => .mergeCommit | _ => .engineOpComplete
      let s := { s with agenda := s.agenda.filter (fun y => !(y.arg == Payload.op k o.id && y.ev == ev)) }
      s.after (o.job.pointAfter o.pix e - e) ev (.op k o.id)

/-- The tile stops in this cycle; it tries to save once its share of t_pre has gone by, and its router watches that it does (06 R138,
05 R91). A round that is open keeps the cycles it has left. -/
def State.stopTile (s : State) (k : TileId) : State :=
  let s := (s.tile k).c.ops.foldl (fun s o => s.stopAtPoint k o) s
  let s := s.freezeBut k goesOn
  let t := s.tile k
  let coll := t.c.coll.map (fun (x : Coll) => if x.state = 1 then { x with left := x.ends - t.r.cyc } else x)
  let s := s.setTile k { c := { t.c with coll := coll, preempt := false }
                         r := { t.r with mode := .stopping, stopped := t.r.cyc + 1 } }
  (s.after (t.c.stopTime + saveTime (s.saveSizes t.r.ctx)) .preemptSaveDone (.tileNum k 0)).after
    (s.cluster (clusterOf k)).wdlimit .watchdogFire (.tileNum k (t.r.cyc + 1))

/-! ### Requests (06 R136, R139, R140) -/

/-- The tile's round is open, and whether its graph crosses a span port. -/
def TileCtx.roundOpen (c : TileCtx) : Bool := match c.coll with | some x => x.state == 1 | none => false
def TileCtx.spanRound (c : TileCtx) : Bool := c.roundOpen && (match c.coll with | some x => x.ops.any opSpan | none => false)

/-- A time in ns as a number of cycles of 0.4 ns. -/
def cyclesOf (ns : Nat) : Nat := (ns * 5 + 1) / 2

/-- The partition stops being resident: time limits stop counting (03 R59). -/
def Ctx.stopClock (c : Ctx) (now : Nat) : Ctx :=
  { c with launches := c.launches.mapVals (fun (l : Launch) => { l with elapsed := l.elapsed + (now - l.since) }) }

/-- The scheduler pre-empts a resident partition, whose slice timer stops: a request goes to every tile in C0, 3 cycles a link; with a span
round open it is deferred, and coldefer runs (06 R136, R138 to R140). A request for one that is being pre-empted is the same (R141). -/
def State.preempt (s : State) (ctx : Nat) : State :=
  match s.dev.ctx? ctx with
  | none => s
  | some c =>
    if c.res != .resident then s
    else
      let ks := s.tilesOf ctx
      let span := ks.any (fun k => (s.tile k).c.spanRound)
      let s := s.setCtxRec ctx { c.stopClock s.now with res := .stopping, deferred := span, reqAt := s.now }
      let s := { s with agenda := s.agenda.filter (fun x => !(x.ev == Instr.timeSliceExpire && x.arg == Payload.num ctx)) }
      let s := ks.foldl (fun s k =>
        s.sendOn memoryPort k 0 (3 * s.dieLinks (clusterOf k)) .gangPreempt (if span then .tileNum k 2 else .tile k)) s
      if span then s.after (cyclesOf s.dev.coldefer) .coldeferExpire (.num ctx) else s

/-- The open round of a tile that holds a request aborts, and the request takes effect in the next cycle (06 R140). -/
def State.abortHeld (s : State) (k : TileId) : State :=
  match (s.tile k).c.preempt, (s.tile k).c.coll with
  | true, some x => if x.state = 1 then s.endRound k x 3 else s
  | _, _ => s

/-- The request takes effect, logged PREEMPT, unless a boundary is taken in this cycle (06 R141). -/
def State.preemptTile (s : State) (k : TileId) (arg : Payload) : State :=
  let x := s.selfRequest k
  if (x.tile k).r.want && !(x.tile k).r.quiet then x.after 1 .gangPreempt (.tileNum k 1)
  else (s.log k kPreempt 0 0 .gangPreempt arg 0).stopTile k

/-- GANG_PREEMPT (06 R136, R140, R141). With 1 beside its tile the request has let a boundary go first; with 2 the tile holds it while its
round is open; with 3 the deferral is over, and an open round aborts; with 4 the round that held it has ended. -/
def execGangPreempt (s : State) : Out :=
  match s.input with
  | .tile k => .next (if (s.tile k).r.mode != .live then s else s.preemptTile k s.input)
  | .tileNum k n =>
    let t := s.tile k
    let hold (s : State) : State := (s.note k .gangPreempt s.input).setCtx k { ((s.note k .gangPreempt s.input).tile k).c with preempt := true }
    .next (if t.r.mode != .live then s
      else if n = 4 then
        (if !t.c.preempt then s
         else if ((s.selfRequest k).tile k).r.want then (s.selfRequest k).after 1 .gangPreempt (.tileNum k 4)
         else (s.mark k kPreempt 0 0 0).stopTile k)
      else if n = 2 ∧ t.c.roundOpen then hold s
      else if n = 3 ∧ t.c.roundOpen then (hold s).abortHeld k
      else s.preemptTile k s.input)
  | _ => .next s

/-- A deferred request on its way, once the deferral is over. -/
def lateRequest (ks : List TileId) (p : Payload) : Payload :=
  match p with
  | .tileNum k 2 => if ks.contains k then .tileNum k 3 else p
  | p => p

/-- COLDEFER_EXPIRE (06 R140): the tiles that hold the request abort their rounds, and the pre-emption takes effect. -/
def execColdeferExpire (s : State) : Out :=
  match s.input with
  | .num ctx =>
    match s.dev.ctx? ctx with
    | none => .next s
    | some c =>
      if !c.deferred ∨ c.res != .stopping then .next s
      else
        let ks := s.tilesOf ctx
        let s := s.setCtxRec ctx { c with deferred := false }
        let s := { s with
          agenda := s.agenda.map (fun (x : Timed) => if x.ev = .gangPreempt then { x with arg := lateRequest ks x.arg } else x)
          tiles := s.tiles.mapVals (fun t => { t with r := { t.r with held := t.r.held.map (fun h =>
            if h.1 = .gangPreempt then (h.1, lateRequest ks h.2) else h) } }) }
        .next (ks.foldl (fun s k => s.after 0 .coldeferExpire (.tile k)) s)
  | .tile k => .next ((s.note k .coldeferExpire s.input).abortHeld k)
  | _ => .next s

/-- The slice of a partition in cycles (06 R139). -/
def State.slice (s : State) (c : Ctx) : Nat :=
  cyclesOf (max ((c.launches.map (fun l => l.2.slice * 1000)).foldl max 0) (max 200000 (4 * s.dev.lastSwitch * 2 / 5)))

/-- Two rectangles have a cluster in common. -/
def Region.meets (a b : Region) : Bool :=
  decide (a.col0 < b.col0 + b.width) && decide (b.col0 < a.col0 + a.width) && decide (a.row0 < b.row0 + b.height)
    && decide (b.row0 < a.row0 + a.height)

def Ctx.meets (a b : Ctx) : Bool := a.rects.any (fun x => b.rects.any (fun y => x.meets y))

/-- TIME_SLICE_EXPIRE (06 R139): the scheduler pre-empts the partition if another waits for its place. -/
def execTimeSliceExpire (s : State) : Out :=
  match s.input with
  | .num ctx =>
    match s.dev.ctx? ctx with
    | none => .next s
    | some c =>
      if c.res != .resident ∨ !(s.dev.contexts.any (fun x => x.1 != ctx && x.2.queued && x.2.meets c)) then .next s
      else if s.now < c.since + s.slice c then .next (s.after (c.since + s.slice c - s.now) .timeSliceExpire s.input)
      else .next ((s.setCtxRec ctx { c with queued := true }).preempt ctx)
  | _ => .next s

/-! ### Save (06 R136 steps 3 and 4, R137) -/

/-- A command of queue `q` at ring position `pos` is over: status, detail, value. -/
def State.complete (s : State) (q pos status detail : Nat) (value : Word) : State :=
  s.after 1 .commandComplete (.words q [BitVec.ofNat 64 pos, BitVec.ofNat 64 status, BitVec.ofNat 64 detail, value])

def statusOk : Nat := 0
def statusTimeLimit : Nat := 2
def statusGone : Nat := 3
def statusMalformed : Nat := 4
def statusPriv : Nat := 5
def statusMirrorShort : Nat := 6
def statusKept : Nat := 7
def statusVoid : Nat := 8
def statusNoMajority : Nat := 9
def statusParked : Nat := 10
def statusSkipped : Nat := 11

/-- What is in flight to the port of a tile or for a thread, store or operation of it, but for requests and masks. -/
def inFlightOf (k : TileId) (x : Timed) : Bool :=
  (match x.ev with
    | .gangPreempt => false
    | .maskChange => false
    | .mirrorLineReceive => false
    | .commitMarkerReceive => false
    | .coldeferExpire => false
    | _ => (portOf x.ev x.arg).map Prod.fst == some k)
  || x.arg.issuer? == some k

/-- An operation of a stopping tile has work under way: it has started, or is a copy that may start; a SWAPT is at a line
boundary unless it is over (14 R293). -/
def State.busyOp (s : State) (k : TileId) (o : EngOp) : Bool :=
  let t := s.tile k
  match o.job with
  | .swapt .. => o.run == 7
  | .copy .. => o.started.isSome || (t.c.canStart o && t.r.starts o)
  | _ => o.started.isSome

/-- A stopping tile has nothing in flight: accesses, posted stores, migrants, copies, an uncommitted boundary. -/
def State.quiet (s : State) (k : TileId) : Bool :=
  let t := s.tile k
  t.c.outq.isEmpty && t.c.hOps.isEmpty && t.r.out.isEmpty && t.r.held.isEmpty && t.r.ship.isNone && !t.c.ops.any (s.busyOp k)
    && !s.agenda.any (inFlightOf k)

/-- What routers have in flight for a context's groups and reductions. -/
def inFlightIn (n : Nat) (x : Timed) : Bool :=
  match x.arg with
  | .group _ c _ _ _ _ _ _ => c == n
  | .cluster _ c _ _ => c == n
  | .part _ p _ _ => p.ctx == n && x.ev != .redlimitExpire
  | _ => false

/-- Every tile of a context is saved, one without a working tile apart. -/
def State.allSaved (s : State) (n : Nat) : Bool := (s.tilesOf n).all (fun k => (s.tile k).r.mode == .saved || s.isLost k)

/-- Nothing is in flight for a context. -/
def State.ctxQuiet (s : State) (n : Nat) : Bool :=
  (s.tilesOf n).all (fun k => s.quiet k || s.isLost k) && !s.agenda.any (inFlightIn n)

/-- The context of a tile as its context keeps it beside the parked image: its timers stopped but for those of its position, its operations
as not started (log 27), an exchange with its partner as begun by neither. -/
def State.savedCtx (s : State) (k : TileId) : TileCtx :=
  let c := (s.tile k).c
  let stays (x : Timed) : Bool := x.ev == .residencyStep || x.ev == .ivlenExpire || x.ev == .watchdogFire || x.ev == .preemptSaveDone
  { c with
    ops := c.ops.map (fun (o : EngOp) =>
      { o with started := none, asked := false, run := match o.job with | .swapt .. => 0 | _ => o.run })
    frozen := c.frozen ++ s.timersBut k stays, swaps := [], late := false }

/-- The position of a tile whose context has left: its clock, mask, interval and what it keeps for its buddy remain, and its own
recovery; a boundary that was put off stays due there. -/
def Router.vacated (r : Router) (late : Bool) : Router :=
  { Router.reset with
    cyc := r.cyc, base := r.base, logFrom := r.cyc + 1, mask := r.mask, mode := if r.mode = .fenced then .fenced else .live
    keeps := r.keeps, staging := r.staging, fence := r.fence, cause := r.cause, tries := r.tries
    chain := if r.mode = .fenced then r.chain + 1 else r.chain, hung := r.hung, deferred := r.deferred || late, saving := r.saving }

/-- The context of tile `k` leaves its position; its mirror is gone. A recovery begins again, with nothing to restore. -/
def State.vacate (s : State) (k : TileId) : State :=
  let t := s.tile k
  let stays (x : Timed) : Bool := x.ev == .residencyStep || x.ev == .ivlenExpire || x.ev == .deferredBoundary
  let s := s.stopTimers k stays
  let s := s.setTile k { c := { TileCtx.reset with pool := t.c.pool, emptyDw := t.c.emptyDw, ivn := t.c.ivn, ivlen := t.c.ivlen }, r := t.r.vacated t.c.late }
  let s := if t.r.mode == .fenced && !s.isLost k then s.after 64 .recovery (.tileNum k (t.r.chain + 1)) else s
  let b := s.tile (buddyOf k)
  s.setRouter (buddyOf k) { b.r with keeps := none, staging := none }

/-- The images of the tiles, one after another in ascending LTN, the primary's first, at a cellar address (log 27). -/
def State.writeImages (s : State) (a : Nat) (ks : List TileId) : State :=
  match ks with
  | [] => s
  | k :: ks =>
    let bs := s.imageBytes k
    ({ s with free := s.free + 2560 }.cellarWrite a bs).writeImages (a + bs.length) ks

/-- Partitions that wait for a place look for it. -/
def State.wakeQueued (s : State) (ctx : Nat) (reqAt : Nat) : State :=
  (s.dev.contexts.filter (fun x => x.1 != ctx && x.2.queued)).foldl (fun s x =>
    (s.setCtxRec x.1 { x.2 with switchFrom := some reqAt }).after 1 .restore (.num x.1)) s

/-- A partition whose last tile has been saved is parked, and its positions are free. -/
def State.parkCtx (s : State) (ctx : Nat) (c : Ctx) : State :=
  let ks := s.tilesOf ctx
  let sizes := s.saveSizes ctx
  let s := s.writeImages c.park ks
  let image := ks.map (fun k => (k, s.savedCtx k))
  let s := ks.foldl State.vacate s
  let s := match c.suspendCmd with
    | some (q, id) => s.complete q id statusOk 0 0
    | none => s
  (s.setCtxRec ctx { c with res := .parked, image := image, sizes := sizes, imageAt := none, deferred := false, suspendCmd := none }).wakeQueued
    ctx c.reqAt

/-- The partition is parked if this was the last of its tiles, and once nothing is in flight for it. -/
def State.tryPark (s : State) (k : TileId) : State :=
  let n := (s.tile k).r.ctx
  match s.dev.ctx? n with
  | none => s
  | some c =>
    if c.res != .stopping || !s.allSaved n then s
    else if s.ctxQuiet n then s.parkCtx n c
    else s.after 1 .preemptSaveDone (.tileNum k 2)

/-- PREEMPT_SAVE_DONE (06 R136, 16 R334, 09 R192): once the tile is quiet, its pinned ranges go to their spill addresses; once they are
there, the live registers of its threads are looked up, and it is saved. In replay the save waits for the release (R383). -/
def execPreemptSaveDone (s : State) : Out :=
  match s.input with
  | .tileNum k phase =>
    let r := (s.tile k).r
    .next (if phase = 2 then (if r.mode == .saved then s.tryPark k else s)
      else if r.mode != .stopping then s
      else if r.replay || !s.quiet k then s.after 1 .preemptSaveDone s.input
      else if phase = 0 then (s.spillAll k).after 1 .preemptSaveDone (.tileNum k 1)
      else
        let s := (List.finRange 16).foldl (fun s j => s.searchLive k j) s
        (s.setRouter k { (s.tile k).r with mode := .saved }).tryPark k)
  | _ => .next s

/-! ### Restore (06 R137, R138) -/

/-- Bytes at an offset of a context's parked image, or the TRANSLATION detail of a refused read. -/
def State.imageRead (s : State) (c : Ctx) (off n : Nat) : Nat × List Byte :=
  match c.imageAt with
  | none => (0, s.cellar.bytes (c.park + off) n)
  | some a => s.fwRead 0 (a + BitVec.ofNat 64 off) n

/-- The records of `n` threads and their registers. -/
def State.recordsRead (s : State) (c : Ctx) (off n : Nat) : Nat × List Byte :=
  match n with
  | 0 => (0, [])
  | n + 1 =>
    let x := s.imageRead c off 128
    let m := 8 * maskCount (BitVec.ofNat 32 (fieldOf (numAt x.2 0 32) 96 32))
    let y := s.imageRead c (off + 128) m
    if x.1 ≠ 0 then x
    else if y.1 ≠ 0 then y
    else
      let z := s.recordsRead c (off + 128 + m) n
      (z.1, x.2 ++ y.2 ++ z.2)

/-- The entries of the box room in use, by what the context keeps. -/
def TileCtx.boxEntries (c : TileCtx) : List Nat :=
  c.resv.map Prod.fst ++ sortBy (fun a b => decide (a ≤ b)) ((c.guests.map Guest.entry).filter (fun e => decide (16 ≤ e)))

/-- The save of a tile at an offset of the image, over what the context has kept of it, and the offset after it; or a detail. -/
def State.tileRead (s : State) (c : Ctx) (off : Nat) (t : TileCtx) : Nat × TileCtx × Nat :=
  let ext := t.extents
  let ls := (List.range (scrBytes t.poolcfg / 64)).filter (fun l => !inExtents ext l)
  let box := t.boxEntries
  let ctl := s.imageRead c off 4096
  let recs := s.recordsRead c (off + 4096) (t.slots.toList.filterMap id).length
  let rest := s.imageRead c (off + 4096 + recs.2.length) (160 * box.length + 64 * ls.length + accUnits t.poolcfg * 4096 + ls.length)
  let x := t.fromImage ls box (ctl.2 ++ recs.2 ++ rest.2)
  (if ctl.1 ≠ 0 then ctl.1 else if recs.1 ≠ 0 then recs.1 else rest.1, x.1, off + x.2)

/-- The tiles of an image, one after another, or a detail. -/
def State.tilesRead (s : State) (c : Ctx) (off : Nat) (xs : Table TileCtx) : Nat × Table TileCtx :=
  match xs with
  | [] => (0, [])
  | (k, t) :: xs =>
    let y := s.tileRead c off t
    if y.1 ≠ 0 then (y.1, [])
    else
      let zs := s.tilesRead c y.2.2 xs
      (zs.1, (k, y.2.1) :: zs.2)

/-- A held packet's tfmt and tscl are read again before its thread issues (06 R137). -/
def State.rereadPacket (s : State) (k : TileId) (j : Fin 16) : State :=
  match (s.tile k).slot j with
  | some th => if th.held && th.park.isNone then s.enterSlot k j th (th.fault.map TrapInfo.val) else s
  | none => s

/-- Since when threads wait in masked slots (01 R20). -/
def Tile.countWaits (t : Tile) (cyc : Nat) : Tile :=
  if t.r.mask = 0 then t
  else
    { t with c := { t.c with slots := Vector.ofFn (fun j : Fin 16 => (t.slot j).map (fun (th : Thread) =>
        if t.unmasked j || th.park.isSome then { th with waits := 0 }
        else if th.waits = 0 then { th with waits := cyc + 1 } else th)) } }

/-- A tile position takes a context, which is its checkpoint from the end of this cycle on (05 R95): a boundary that was put off is taken in
this cycle (06 R141). A position that is being recovered takes it up at its release. -/
def State.seat (s : State) (k : TileId) (n : Nat) (c : TileCtx) : State :=
  let t := s.tile k
  let live := t.r.mode != .fenced
  let c := { c with ivn := t.c.ivn, ivlen := t.c.ivlen, late := false, icache := [], fills := [], dirty := [], preempt := false
                    coll := c.coll.map (fun (x : Coll) => if x.state = 1 then { x with ends := t.r.cyc + x.left } else x) }
  let x : Timed := { due := c.ivlen.toNat, ev := .ivlenExpire, arg := .tileNum k (t.r.cyc + 1) }
  let c := if live then c else { c with frozen := c.frozen ++ [x] }
  let r := { t.r with
    ctx := n, base := if live then t.r.base else t.r.cyc + 1, log := [], sent := [], prev := none, ship := none, deferred := false, want := live && (t.r.deferred || t.r.want)
    logFrom := t.r.cyc + 1, stopped := 0, replay := false, script := [], skip := 0, tries := if live then 0 else t.r.tries }
  let s := (s.setTile k { c := c, r := r }).setTile k (({ c := c, r := r } : Tile).countWaits r.cyc)
  let s := if live then (s.thaw k).kick k else s
  let s := (List.finRange 16).foldl (fun s j => s.rereadPacket k j) s
  let s := s.flush k
  let s := s.setRouter k { (s.tile k).r with sent := [], log := [] }
  let x := s.tile k
  let m : Mirror := { ctx := { s.captured k with pool := x.c.pool, emptyDw := x.c.emptyDw }, cyc := x.r.cyc + 1, base := x.r.base, mask := x.r.mask }
  let s := if live then s else s.setRouter k { x.r with ship := t.r.ship.map (fun _ => m.ship) }
  let b := s.tile (buddyOf k)
  s.setRouter (buddyOf k) { b.r with staging := none, keeps := if b.r.mode = .fenced then none else some m }

/-- The threads of a restored tile that wait for a reduction look for its result. -/
def State.lookRed (s : State) (k : TileId) : State :=
  (List.finRange 16).foldl (fun s j =>
    match ((s.tile k).slot j).bind Thread.park with
    | some ⟨.redg .., tok, _, _⟩ => s.after 1 .reductionResult (.ref { tile := k, tok := tok })
    | _ => s) s

/-- A tile takes its context back: the gateway's read cache is empty (07 R154). -/
def State.restoreTile (s : State) (n : Nat) (k : TileId) (c : TileCtx) : State :=
  ((s.flushCache (clusterOf k)).seat k n c).lookRed k

/-- The last tile's restore is complete: the partition is resident, its time limits count on (03 R59), its slice timer starts, and the switch
has been measured (06 R138, R139). -/
def State.resident (s : State) (n : Nat) (c : Ctx) : State :=
  let s := { s with dev := { s.dev with lastSwitch := match c.switchFrom with | some t => s.now - t | none => s.dev.lastSwitch } }
  let s := match c.resumeCmd with
    | some (q, id) => s.complete q id statusOk 0 0
    | none => s
  let s := s.setCtxRec n { c with
    res := .resident, image := [], sizes := [], imageAt := none, queued := false, resumeCmd := none, switchFrom := none, since := s.now
    launches := c.launches.mapVals (fun (l : Launch) => { l with since := s.now }) }
  let s := c.launches.foldl (fun s l =>
    if l.2.tlim = 0 then s
    else s.after (cyclesOf (l.2.tlim * 1000) - l.2.elapsed) .launchTimeLimit (.nums3 n l.1 l.2.lid.toNat)) s
  (s.after (s.slice c) .timeSliceExpire (.num n)).after 1 .population (.num n)

/-- Cycles of a restore: the request to the farthest tile, and the bytes (06 R138). -/
def State.restoreTime (s : State) (c : Ctx) : Nat :=
  3 * (c.image.map (fun x => s.dieLinks (clusterOf x.1))).foldl max 0 + saveTime c.sizes

/-- RESTORE (06 R137, R138): a parked partition begins to take its images back if its place is free, and else waits for it; with a number
beside it the restore is complete. A refused read of the image leaves it parked (03 R51, R54). -/
def execRestore (s : State) : Out :=
  match s.input with
  | .num n =>
    match s.dev.ctx? n with
    | none => .next s
    | some c =>
      if c.res != .parked then .next s
      else
        let others := s.dev.contexts.filter (fun x => x.1 != n && x.2.holds && x.2.meets c)
        if others.isEmpty then
          .next ((s.setCtxRec n { c with res := .restoring, queued := false }).after (s.restoreTime c) .restore (.nums n 0))
        else
          .next (others.foldl (fun s y => s.after 1 .timeSliceExpire (.num y.1)) (s.setCtxRec n { c with queued := true }))
  | .nums n _ =>
    match s.dev.ctx? n with
    | none => .next s
    | some c =>
      if c.res != .restoring then .next s
      else
        let xs := s.tilesRead c 0 c.image
        if xs.1 = 0 then .next ((xs.2.foldl (fun s x => s.restoreTile n x.1 x.2) s).resident n c)
        else
          let s := match c.resumeCmd with
            | some (q, id) => s.complete q id statusFaulted (cTranslation + 256 * xs.1) 2
            | none => s
          .next ((s.setCtxRec n { c with res := .parked, imageAt := none, resumeCmd := none, switchFrom := none }).wakeQueued n s.now)
  | _ => .next s

end Sys2Proof.Machine
end

