-- ==== Sys2Proof/Machine/Incidents.lean ====
section
/-!
DEFINITION. Incident captures, their replay as firmware reports it, and crash records in the incident store (05 R100, R115, R384, 09 R188).
-/
namespace Sys2Proof.Machine

/-! ### Log records as bits (05 R100, R101, R384) -/

/-- The 112 bytes of a POPULATE record (05 R384). -/
def populateBytes (lix : Nat) (e : LaunchEntry) (th : Thread) (cfg : Word) (zero : Bool) : List Byte :=
  leBytes 8 e.code.toNat ++ leBytes 4 e.limit.toNat ++ leBytes 4 e.entry.toNat ++ leBytes 8 e.live.toNat ++ leBytes 4 e.nlive.toNat
    ++ leBytes 4 e.lid.toNat ++ leBytes 8 e.pkq.toNat ++ (List.range 6).flatMap (fun i => leBytes 8 (th.reg (Fin.ofNat 32 (i + 1))).toNat)
    ++ leBytes 8 th.splim.toNat ++ leBytes 8 (th.reg 29).toNat ++ leBytes 1 (th.reg 7).toNat
    ++ leBytes 1 (lix % 16 + (if zero then 128 else 0)) ++ leBytes 4 cfg.toNat ++ leBytes 2 0

/-- The payload of a record, where R101 and R384 lay it out; none elsewhere. -/
def LogRec.given (x : LogRec) : Option (List Byte) :=
  match x.arg with
  | .msg _ m _ => some (leBytes 8 m.header.toNat ++ m.payload)
  | .migrant _ _ th _ => some (guestBytes th)
  | .reply _ (.value v) => some (leBytes 8 v.toNat)
  | .buffer _ _ bs => some bs
  | .bytes _ off bs => some (leBytes 8 off ++ bs)
  | .populate _ _ lix e th cfg zero => some (populateBytes lix e th cfg zero)
  | _ => if x.kind = kMask || x.kind = kRestart || x.kind = kTime then some (leBytes 8 x.val.toNat) else none

/-- The payload of a record: what the rules do not lay out is free (log 6). -/
def LogRec.payload (x : LogRec) (free : Nat) : List Byte :=
  let more (n : Nat) : List Byte := (List.range n).map (fun i => Config.byte (free + i))
  let bs := (x.given.getD (more x.len)).take x.len
  bs ++ more (x.len - bs.length)

/-- The 16-byte records of an event of an interval that began at tile cycle `base` (05 R100). -/
def LogRec.bytes (x : LogRec) (base free : Nat) : List Byte :=
  if x.kind = 0 then []
  else
    let head := leBytes 8 ((x.cyc - base) % 2 ^ 32 + x.kind % 256 * 2 ^ 32 + x.slot % 16 * 2 ^ 40 + (if x.ref then 2 ^ 44 else 0)
      + x.len % 2 ^ 16 * 2 ^ 48)
    let bs := head ++ x.payload free
    (bs ++ List.replicate (16 * x.size) 0).take (16 * x.size)

/-- The records of an interval. -/
def recordsBytes (base free : Nat) (xs : List LogRec) : List Byte :=
  match xs with
  | [] => []
  | x :: xs => x.bytes base free ++ recordsBytes base (free + x.len) xs

/-! ### Capture (05 R115) -/

/-- A packet as its flits carry it. -/
def Packet.flits (p : Packet) : Packet := { p with lat := 0, slow := false }

/-- The 64-byte header of a capture: the checkpoint image follows it, and then the records. -/
def Incident.header (x : Incident) (imageLen : Nat) : List Byte :=
  let body := leBytes 4 0x49434E45 ++ leBytes 4 (ltnOf x.tile) ++ leBytes 8 (x.mirror.ctx.ivn.toNat + x.cause % 2 ^ 16 * 2 ^ 48)
    ++ leBytes 4 (x.fence - x.mirror.base) ++ leBytes 4 (x.source.map LogRec.size).sum ++ leBytes 4 x.sent.length ++ leBytes 4 x.icrc.toNat
    ++ leBytes 8 (x.at_ + 64) ++ leBytes 8 (x.at_ + 64 + imageLen) ++ leBytes 12 0
  body ++ leBytes 4 (crc32c body).toNat

/-- The checkpoint image: the lines of the mirror, outside reloadable extents or stored into, in ascending order, the ctx region, whose
layout is not given, and the extents (log 75). -/
def Incident.imageBytes (x : Incident) (ext : List (Nat × Nat × Nat)) (free : Nat) : List Byte :=
  let c := x.mirror.ctx
  let ls := (allLines c.poolcfg).filter (fun l => !inExtents ext l || c.stored.contains l)
  ls.flatMap (fun l => c.pool.bytes (64 * l) 64)
    ++ (List.range (bitsOf c.poolcfg 0 6 * 4096)).map (fun i => Config.byte (free + i))
    ++ ext.flatMap (fun e => leBytes 4 e.1 ++ leBytes 4 e.2.1 ++ leBytes 8 e.2.2)

/-- A flagged interval goes into the incident store at a cellar address. -/
def State.captureIncident (s : State) (k : TileId) (a : Nat) : State :=
  let r := (s.tile k).r
  match s.mirrorOf k with
  | none => s
  | some m =>
    let sent := (r.since m.cyc).2
    let x : Incident :=
      { tile := k, ctx := r.ctx, peers := s.tilesOf r.ctx, at_ := a, cause := r.cause, fence := r.fence
        icrc := Config.flitCrc (sent.map Packet.flits), mirror := m, source := r.source, sent := sent.map Packet.flits }
    let image := x.imageBytes m.ctx.extents s.free
    let recs := recordsBytes m.base (s.free + 262144) x.source
    let s := s.cellarWrite a (x.header image.length ++ image ++ recs)
    { s with free := s.free + 262144 + recs.length, dev := { s.dev with incidents := s.dev.incidents ++ [x] } }

/-- A crash record leaves a router's area for the context's incident store (09 R188). -/
def State.saveCrash (s : State) (cl a : Nat) : State :=
  match (s.cluster cl).crash with
  | [] => s
  | r :: rest =>
    (s.setCluster cl { s.cluster cl with crash := rest }).cellarWrite a (r.body ++ leBytes 4 r.crc.toNat)

/-- INCIDENT_CAPTURE (05 R115, 09 R188): firmware preserves the flagged interval of a tile that has not begun its replay; or, with a router,
it copies the oldest crash record of that router. -/
def execIncidentCapture (s : State) : Out :=
  match s.input with
  | .tileNum k a => .next (if (s.tile k).r.mode == .fenced && !(s.tile k).r.moving then s.captureIncident k a else s)
  | .nums cl a => .next (s.saveCrash cl a)
  | _ => .next s

/-! ### Replay of a capture (05 R115) -/

/-- A tile position that is free for an incident replay. -/
def State.freeTile (s : State) (t : TileId) : Bool := (s.tile t).r.ctx == 0 && (s.tile t).r.mode == .live && !(s.tile t).r.replay && !s.isLost t

/-- INCIDENT_REPLAY (05 R115): firmware asks for the replay of capture `i` on a free tile; after as many cycles as the interval has, the
router of that tile brings what it has found: 0 a match, else one more than the index of the record that diverges. -/
def execIncidentReplay (s : State) : Out :=
  match s.input with
  | .nums i t =>
    match s.dev.incidents[i]? with
    | none => .next s
    | some x => .next (if s.freeTile t then s.after (x.fence + 2 - x.mirror.cyc) .incidentReplay (.tileNum t i) else s)
  | .nums3 _ i n => .next { s with dev := { s.dev with replays := s.dev.replays ++ [(i, if n = 0 then none else some (n - 1))] } }
  | _ => .next s

end Sys2Proof.Machine
end

