-- ==== Sys2Proof/Machine/Queues.lean ====
section
/-!
DEFINITION. Command queues: mapping, watched lines, dispatch, acceptance, start and completion of commands, QPOST (02 R31, R32,
R382, 03 R41 to R43, R48 to R53, R62).
-/
namespace Sys2Proof.Machine

/-- An address of a command or record: space 0x4 or 0x8 (03 R51). -/
def memSpace (a : Word) : Bool := spaceOf a == 4 || spaceOf a == 8

/-- The first `n` doublewords of some bytes. -/
def wordsOf (bs : List Byte) (n : Nat) : List Word := (List.range n).map (wordAt bs)

def State.queue (s : State) (q : Nat) : Queue := (s.dev.queues.get? q).getD Queue.reset
def State.setQueue (s : State) (q : Nat) (x : Queue) : State :=
  { s with dev := { s.dev with queues := s.dev.queues.set q x } }

/-- head and state as the record shows them; a refused write is dropped (03 R49). -/
def State.putState (s : State) (q : Nat) : State :=
  let x := s.queue q
  (s.fwWrite 0 (x.record + 16) (leBytes 4 x.head ++ leBytes 4 x.state)).1

/-! ### Dispatch (03 R41, R50) -/

/-- A slot a worker can serve: changed, or with commands not yet accepted. -/
def Queue.waits (x : Queue) : Bool := x.mapped && x.state == 1 && !x.accepting && (x.pending || x.head != x.tail)

/-- The slot served next: highest priority, then longest unserved (03 R50). -/
def State.nextSlot (s : State) : Option Nat :=
  (sortBy (fun a b => decide (b.2.prio < a.2.prio ∨ (a.2.prio = b.2.prio ∧ a.2.served ≤ b.2.served)))
    (s.dev.queues.filter (fun x => x.2.waits))).head?.map Prod.fst

/-- The dispatcher looks again while a slot waits. -/
def State.dispatch (s : State) : State :=
  if s.nextSlot.isSome && 0 < s.dev.workers then s.after 1 .queueWake .none else s

/-! ### Start of commands (03 R50, R51) -/

def Command.header (c : Command) : Word := c.words.getD 0 0
def Command.dw (c : Command) (i : Nat) : Word := c.words.getD i 0
def Command.kind (c : Command) : Nat := bitsOf c.header 0 8
def Command.cont (c : Command) : Bool := c.header.getLsbD 9
def Command.isWait (c : Command) : Bool := c.kind == 5
/-- ord, which SIGNAL and WAIT always have. -/
def Command.ordered (c : Command) : Bool := c.header.getLsbD 8 || c.kind == 4 || c.kind == 5

/-- Doublewords of a command that fail their rule, as a function of the kind (03 R51, log 28). -/
def Command.badDw (c : Command) (i : Nat) : Bool :=
  let w := c.dw i
  let addr := !memSpace w
  let addr8 := !memSpace w || w.toNat % 8 != 0
  match c.kind, i with
  | _, 0 => c.kind == 0 || decide (7 < c.kind) || bitsOf w 10 22 != 0 || (c.ctx == 0 && decide (c.kind ≤ 3))
  | _, 7 => w != 0 && !memSpace w
  | 1, 1 => addr
  | 2, 1 => addr
  | 2, 2 => addr
  | 2, 3 => bitsOf w 1 63 != 0
  | 3, 1 => addr
  | 3, 2 => bitsOf w 32 32 != 0
  | 3, 3 => spaceOf w != 4
  | 4, 1 => addr8
  | 4, 2 => false
  | 5, 1 => addr8
  | 5, 2 => false
  | 5, 3 => bitsOf w 32 32 != 0
  | 6, 1 => decide (3 < bitsOf w 0 8) || bitsOf w 8 8 != 0 || bitsOf w 32 32 != 0 || bitsOf w 16 16 == 0
  | 6, 2 => bitsOf (c.dw 1) 0 8 == 0 && addr
  | 7, 1 => addr
  | 7, 2 => bitsOf w 1 63 != 0
  | 7, 3 => (c.dw 2).getLsbD 0 && addr
  | _, _ => w != 0

/-- The event that carries a command out. -/
def Command.event (c : Command) : Instr :=
  match c.kind with
  | 1 => .launch
  | 2 => .copy
  | 3 => .tasks
  | 4 => .signal
  | 5 => .wait
  | 6 => (match bitsOf (c.dw 1) 0 8 with
    | 0 => .partitionCreate
    | 1 => .partitionTeardown
    | 2 => .partitionSuspend
    | _ => .partitionResume)
  | _ => .status

/-- A command starts: a malformed one completes, with the index of the lowest doubleword at fault; PARTITION on a queue of
a context completes PRIV (03 R51, R54). -/
def State.startOne (s : State) (q : Nat) (c : Command) : State :=
  if c.kind = 6 ∧ c.ctx ≠ 0 ∧ !c.badDw 0 then s.complete q c.id statusPriv 0 0
  else
    match (List.range 8).find? c.badDw with
    | some i => s.complete q c.id statusMalformed i 0
    | none => s.after 1 c.event (.cmd q c.id)

/-- The command of a queue that starts next, if one may (03 R50, R51). -/
def Queue.nextStart (x : Queue) : Option Command :=
  let cs := x.commands.filter (fun c => !c.orphan)
  match cs.find? (fun c => !c.started) with
  | none => none
  | some c =>
    let before := cs.takeWhile (fun d => d.started)
    if before.any Command.isWait || (c.ordered && !before.isEmpty) then none else some c

def Queue.setCommand (x : Queue) (id : Nat) (f : Command → Command) : Queue :=
  { x with commands := x.commands.map (fun c => if c.id = id then f c else c) }

/-- The commands of an open queue that may start do. -/
def State.startCommands (s : State) (q fuel : Nat) : State :=
  match fuel with
  | 0 => s
  | fuel + 1 =>
    let x := s.queue q
    if x.state ≠ 1 ∨ !x.mapped then s
    else
      match x.nextStart with
      | none => s
      | some c =>
        ((s.setQueue q (x.setCommand c.id (fun c => { c with started := true }))).startOne q c).startCommands q fuel

def State.startAll (s : State) (q : Nat) : State := s.startCommands q ((s.queue q).commands.length + 1)

/-! ### Stopping a queue (03 R50, R53, 02 R382) -/

/-- An open queue stops: state 2, the map status if there is a reason, and accepted commands that have not started complete
SKIPPED in ring order. One that has stopped shows a later reason too (03 R52). -/
def State.stopQueue (s : State) (q reason : Nat) : State :=
  let x := s.queue q
  if x.state = 2 ∧ x.mapped then (if reason = 0 then s else s.setQueue q { x with reason := reason })
  else if x.state ≠ 1 ∨ !x.mapped then s
  else
    let skip := x.commands.filter (fun c => !c.started && !c.orphan)
    let x := { x with
      state := 2, pending := false
      reason := if reason = 0 then x.reason else reason
      commands := x.commands.map (fun (c : Command) => if c.orphan then c else { c with started := true }) }
    skip.foldl (fun s c => s.complete q c.id statusSkipped 0 0) ((s.setQueue q x).putState q)

/-- Map-status details (03 R50, R52, 02 R382). -/
def detailOverrun : Nat := 0xFFFF
def detailWatch : Nat := 0xFFFE
def detailEntry : Nat := 0xFFFD
def detailRecord : Nat := 0xFFFC

/-! ### Mapping (03 R48, R49) -/

/-- Reasons of a failed mapping (log 29). -/
def mapMalformed : Nat := 1
def mapContext : Nat := 2
def mapLine : Nat := 3

/-- A queue record keeps its rules (03 R49). -/
def recordGood (ws : List Word) : Bool :=
  let w (i : Nat) : Word := ws.getD i 0
  memSpace (w 0) && (w 0).toNat % 64 == 0 && decide (4 ≤ bitsOf (w 1) 0 5) && decide (bitsOf (w 1) 0 5 ≤ 16)
    && bitsOf (w 1) 25 39 == 0 && ((w 1).getLsbD 24 || (w 3).toNat % 64 == 0) && bitsOf (w 8) 32 32 == 0
    && [4, 5, 6, 7, 9, 10, 11, 12, 13, 14, 15].all (fun i => w i == 0)

/-- The watched line as it stands in host memory; none if no DMA window entry lets the context read it (02 R31). -/
def State.watched (s : State) (ctx : Nat) (wline : Nat) : Option (List Byte) :=
  (s.dev.dmaCheck ctx wline false).map (fun a => s.host.bytes a 64)

/-- QUEUE_MAP (03 R48): firmware reads and checks the record and opens the queue, or the map status says why not. -/
def execQueueMap (s : State) : Out :=
  match s.input with
  | .words q [rec] =>
    if s.dev.boot != .ready ∨ 64 ≤ q ∨ (s.queue q).mapped then .next s
    else
      let x := if memSpace rec && rec.toNat % 64 == 0 then s.fwRead 0 rec 128 else (1, [])
      let ws := wordsOf x.2 16
      let w (i : Nat) : Word := ws.getD i 0
      let ctx := bitsOf (w 1) 8 16
      let dpost := (w 1).getLsbD 24
      let fail (r : Nat) : Out := .next (s.setQueue q { s.queue q with reason := r })
      if x.1 ≠ 0 ∨ !recordGood ws then fail mapMalformed
      else if ctx ≠ 0 ∧ (s.dev.ctx? ctx).isNone then fail mapContext
      else
        let line := s.watched ctx (w 3).toNat
        if !dpost && line.isNone then fail mapLine
        else
          let head := bitsOf (w 2) 0 32
          .next ((s.setQueue q { s.queue q with
            mapped := true, record := rec, ring := w 0, rlog := bitsOf (w 1) 0 5, prio := bitsOf (w 1) 5 3, ctx := ctx
            dpost := dpost, wline := (w 3).toNat, held := line.getD [], pending := false, rereading := false
            head := head, tail := head, state := 1, reason := 0, served := 0, accepting := false }).putState q)
  | _ => .next s

/-- A queue leaves its slot; its record keeps the count of what it has accepted (03 R49). Of these commands those that have started
run on and complete; the others never start nor complete: DESIGN CHOICE (log 29), the spec does not say what becomes of them. -/
def Queue.unmap (x : Queue) : Queue :=
  { Queue.reset with
    record := x.record, head := x.head
    commands := x.commands.map (fun (c : Command) => { c with orphan := true }) }

/-- QUEUE_UNMAP (03 R53). -/
def execQueueUnmap (s : State) : Out :=
  match s.input with
  | .num q =>
    let x := s.queue q
    if !x.mapped then .next s
    else
      let s : State := { s with dev := { s.dev with workers := s.dev.workers + (if x.accepting then 1 else 0) } }
      .next ((s.setQueue q x.unmap).putState q)
  | _ => .next s

/-! ### Watched lines (02 R31, R32, R382) -/

/-- WATCHED_LINE_INVALIDATE (02 R31, R32). -/
def execWatchedLineInvalidate (s : State) : Out :=
  match s.input with
  | .num q =>
    let x := s.queue q
    if !x.mapped ∨ x.dpost ∨ x.rereading then .next s
    else .next ((s.setQueue q { x with rereading := true }).after (1 + Config.memLatency s.free) .watchedLineReread (.num q)).draw
  | _ => .next s

/-- WATCHED_LINE_REREAD (02 R31, R32, R382): a changed line sets the pending bit and wakes a worker; while the bit is set
only the copy changes. A refused read stops the queue. -/
def execWatchedLineReread (s : State) : Out :=
  match s.input with
  | .num q =>
    let x := s.queue q
    if !x.mapped ∨ !x.rereading then .next s
    else
      match s.watched x.ctx x.wline with
      | none => .next ((s.setQueue q { x with rereading := false }).stopQueue q detailWatch)
      | some line =>
        .next ((s.setQueue q { x with
          rereading := false, held := line, pending := x.pending || (line != x.held && x.state == 1) }).dispatch)
  | _ => .next s

/-! ### Workers (03 R41 to R43, R50) -/

/-- QUEUE_WAKE (03 R50, 02 R32): the dispatcher gives a slot to an idle worker, which clears the pending bit and reads tail;
a refused read of the record counts as one of the ring entry (log 29). -/
def execQueueWake (s : State) : Out :=
  match s.nextSlot with
  | none => .next s
  | some q =>
    if s.dev.workers = 0 then .next s
    else
      let x : Queue := { s.queue q with pending := false, served := s.tok }
      let s : State := { s.setQueue q x with tok := s.tok + 1 }
      let r := s.fwRead 0 (x.record + 64) 4
      if r.1 ≠ 0 then .next (s.stopQueue q detailEntry).dispatch
      else
        let tail := leNat r.2
        let n := (tail + 2 ^ 32 - x.head) % 2 ^ 32
        if 2 ^ x.rlog < n then .next (s.stopQueue q detailOverrun).dispatch
        else if n = 0 then .next (s.setQueue q { x with tail := tail }).dispatch
        else
          let s := s.setQueue q { x with tail := tail, accepting := true }
          let s : State := { s with dev := { s.dev with workers := s.dev.workers - 1 } }
          .next ((s.after (1 + Config.memLatency s.free) .commandAccept (.num q)).draw).dispatch

/-- COMMAND_ACCEPT (03 R50): the ring entry at head is parsed and head advances; a refused or poisoned read stops the
queue. -/
def execCommandAccept (s : State) : Out :=
  match s.input with
  | .num q =>
    let x := s.queue q
    if !x.accepting then .next s
    else
      let x : Queue := { x with accepting := false }
      let s : State := { s.setQueue q x with dev := { (s.setQueue q x).dev with workers := s.dev.workers + 1 } }
      if x.state ≠ 1 then .next s.dispatch
      else
        let e := s.fwRead x.ctx (x.ring + BitVec.ofNat 64 (64 * (x.head % 2 ^ x.rlog))) 64
        if e.1 ≠ 0 then .next (s.stopQueue q detailEntry).dispatch
        else
          let c : Command := { id := s.tok, ctx := x.ctx, words := wordsOf e.2 8, started := false, orphan := false, value := 0 }
          let s : State := { s.setQueue q { x with head := (x.head + 1) % 2 ^ 32, commands := x.commands ++ [c] } with tok := s.tok + 1 }
          .next ((s.putState q).startAll q).dispatch
  | _ => .next s

/-- WORKER_ERROR (03 R43): the command the worker holds is discarded, and another worker takes it. -/
def execWorkerError (s : State) : Out :=
  match s.input with
  | .num q =>
    let x := s.queue q
    if !x.accepting then .next s
    else
      let s := { s with
        agenda := s.agenda.filter (fun (y : Timed) => !(y.ev == Instr.commandAccept && y.arg == Payload.num q))
        dev := { s.dev with workers := s.dev.workers + 1 } }
      .next (s.setQueue q { x with accepting := false }).dispatch
  | _ => .next s

/-- What the lock-step pair carries out. -/
def pairStep (ev : Instr) : Bool :=
  match ev with
  | .commandComplete => true
  | .launch => true
  | .copy => true
  | .tasks => true
  | .tasksAppend => true
  | .signal => true
  | .wait => true
  | .waitPoll => true
  | .partitionCreate => true
  | .partitionTeardown => true
  | .partitionSuspend => true
  | .partitionResume => true
  | .status => true
  | .population => true
  | .launchEnd => true
  | .recovery => true
  | _ => false

/-- LOCKSTEP_MISMATCH (03 R42): the pair restarts within 50 µs and reissues the step in progress; nothing is lost and
nothing is done twice. -/
def execLockstepMismatch (s : State) : Out :=
  let d := Config.memLatency s.free % 125001
  .next { s with
    free := s.free + 1
    agenda := s.agenda.map (fun (x : Timed) => if pairStep x.ev then { x with due := max x.due (s.now + d) } else x)
    dev := { s.dev with restarts := s.dev.restarts + 1 } }

/-! ### Completion (03 R52, R53) -/

/-- The status leaves the queue open. -/
def statusGood (st : Nat) : Bool := st == statusOk || st == statusKept || st == statusParked

/-- The completion record (03 R52). -/
def completionBytes (c : Command) (status detail value : Word) : List Byte :=
  leBytes 4 (bitsOf c.header 32 32) ++ leBytes 2 status.toNat ++ leBytes 2 detail.toNat ++ leBytes 8 value.toNat

/-- COMMAND_COMPLETE (03 R52, R53): the record is written, then later commands may start, or the queue stops. A completion address of
another space than 0x4 or 0x8 counts as a refused write of the record: DESIGN CHOICE (log 29). -/
def execCommandComplete (s : State) : Out :=
  match s.input with
  | .words q [id, status, detail, value] =>
    let x := s.queue q
    match x.commands.find? (fun c => c.id == id.toNat) with
    | none => .next s
    | some c =>
      let s := s.setQueue q { x with commands := x.commands.filter (fun d => d.id != c.id) }
      let w := if c.dw 7 = 0 then (s, 0)
        else if memSpace (c.dw 7) then s.fwWrite c.ctx (c.dw 7) (completionBytes c status detail value) else (s, 1)
      if c.orphan then .next w.1
      else if w.2 ≠ 0 then .next (w.1.stopQueue q detailRecord)
      else if !statusGood status.toNat && !c.cont then .next (w.1.stopQueue q 0)
      else .next (w.1.startAll q)
  | _ => .next s

/-- The command of a queue, if it has not completed. -/
def State.command? (s : State) (q id : Nat) : Option Command := (s.queue q).commands.find? (fun c => c.id == id)

/-- A command's address at doubleword `i` was refused with detail `d` (03 R51). -/
def State.refuse (s : State) (q id d i : Nat) : State := s.complete q id statusFaulted (cTranslation + 256 * d) i

/-! ### QPOST (03 R62, 14 R296) -/

/-- QPOST_REQUEST (03 R62): the control die writes the command at the tail and advances tail, and wakes a worker; or it
answers why not. -/
def execQpostRequest (s : State) : Out :=
  match s.input with
  | .post r ctx q bs =>
    let x := s.queue q
    let answer (s : State) (v : Nat) : Out := .next (s.logReply r (.value (BitVec.ofNat 64 v)) .qpostRequest)
    if !x.mapped ∨ x.ctx ≠ ctx ∨ !x.dpost then answer s 2
    else if x.state ≠ 1 then answer s 3
    else
      let t := s.fwRead 0 (x.record + 64) 4
      let tail := leNat t.2
      if t.1 ≠ 0 then answer s 3
      else if (tail + 2 ^ 32 - x.head) % 2 ^ 32 = 2 ^ x.rlog then answer s 1
      else
        let w := s.fwWrite x.ctx (x.ring + BitVec.ofNat 64 (64 * (tail % 2 ^ x.rlog))) bs
        if w.2 ≠ 0 then answer s 3
        else
          let s := (w.1.fwWrite 0 (x.record + 64) (leBytes 4 ((tail + 1) % 2 ^ 32))).1
          answer (s.setQueue q { x with pending := true }).dispatch 0
  | _ => .next s

end Sys2Proof.Machine
end

