-- ==== Sys2Proof/Machine/Commands.lean ====
section
/-!
DEFINITION. The commands SIGNAL, WAIT, TASKS, COPY and STATUS (03 R46, R51, R60, R61, R63, 07 R152, 02 R30).
-/
namespace Sys2Proof.Machine

/-! ### SIGNAL and WAIT (03 R63) -/

/-- Where an address of a context leads: host or cellar, and the physical address. -/
def State.wordPlace (s : State) (ctx : Nat) (a : Word) : Option (Bool × Nat) :=
  let host := spaceOf a == 8
  match s.walk ctx host (a.toNat % 2 ^ 48) with
  | .fault _ => none
  | .leaf log pa _ _ => some (host, pa + a.toNat % 2 ^ 48 % 2 ^ log)

/-- The WAITs that are in progress on a place, as queue and command. -/
def State.waitsOn (s : State) (p : Option (Bool × Nat)) : List (Nat × Nat) :=
  s.dev.queues.flatMap (fun x => (x.2.commands.filter (fun (c : Command) =>
    c.started && c.isWait && s.wordPlace c.ctx (c.dw 1) == p)).map (fun c => (x.1, c.id)))

/-- SIGNAL (03 R63): the value is written, and the WAITs on its address look at once. -/
def execSignal (s : State) : Out :=
  match s.input with
  | .cmd q id =>
    match s.command? q id with
    | none => .next s
    | some c =>
      let w := s.fwWrite c.ctx (c.dw 1) (leBytes 8 (c.dw 2).toNat)
      if w.2 ≠ 0 then .next (s.refuse q id w.2 1)
      else
        let ws := s.waitsOn (s.wordPlace c.ctx (c.dw 1))
        .next ((ws.foldl (fun s x => s.after 0 .waitPoll (.nums x.1 x.2)) w.1).complete q id statusOk 0 0)
  | _ => .next s

/-- One read of a WAIT: it completes, or keeps the value read. -/
def State.lookWait (s : State) (q id : Nat) (again : Bool) : State :=
  match s.command? q id with
  | none => s
  | some c =>
    let r := s.fwRead c.ctx (c.dw 1) 8
    let v := wordAt r.2 0
    if r.1 ≠ 0 then s.refuse q id r.1 1
    else if (c.dw 2).ule v then s.complete q id statusOk 0 v
    else
      let s := s.setQueue q ((s.queue q).setCommand id (fun c => { c with value := v }))
      if again then s.after 5000 .waitPoll (.cmd q id) else s

/-- WAIT (03 R63): the first read, and the limit. -/
def execWait (s : State) : Out :=
  match s.input with
  | .cmd q id =>
    match s.command? q id with
    | none => .next s
    | some c =>
      let limit := bitsOf (c.dw 3) 0 32
      let s := if limit = 0 then s else s.after (cyclesOf (limit * 1000)) .waitLimit (.cmd q id)
      .next (s.lookWait q id true)
  | _ => .next s

/-- WAIT_POLL (03 R63): every 2 µs, and at once after a SIGNAL to the address. -/
def execWaitPoll (s : State) : Out :=
  match s.input with
  | .cmd q id => .next (s.lookWait q id true)
  | .nums q id => .next (s.lookWait q id false)
  | _ => .next s

/-- WAIT_LIMIT (03 R63). -/
def execWaitLimit (s : State) : Out :=
  match s.input with
  | .cmd q id =>
    match s.command? q id with
    | none => .next s
    | some c => .next (s.complete q id statusTimeLimit 0 c.value)
  | _ => .next s

/-! ### TASKS (03 R60, R61) -/

/-- TASKS (03 R61). -/
def execTasks (s : State) : Out :=
  match s.input with
  | .cmd q id => .next (if (s.command? q id).isSome then s.after 1 .tasksAppend s.input else s)
  | _ => .next s

/-- The entry at the producer's position is free: the queue is not full, and no thread holds that packet (06 R135). -/
def State.entryFree (s : State) (ctx : Nat) (pkq prod cons : Word) (plog : Nat) : Bool :=
  (prod - cons).toNat != 2 ^ plog
    && !((s.dev.ctx? ctx).map Ctx.heldPos |>.getD []).contains (pkq, prod.toNat % 2 ^ plog)

/-- TASKS_APPEND (03 R61): the next packet is written, and then published; a full queue is looked at again (log 17). -/
def execTasksAppend (s : State) : Out :=
  match s.input with
  | .cmd q id =>
    match s.command? q id with
    | none => .next s
    | some c =>
      let pkq := c.dw 3
      let n := c.value
      if n.toNat = bitsOf (c.dw 2) 0 32 then .next (s.complete q id statusOk 0 n)
      else
        let hd := s.fwRead c.ctx pkq 24
        let prod := wordAt hd.2 0
        let plog := bitsOf (wordAt hd.2 2) 0 5
        if hd.1 ≠ 0 then .next (s.refuse q id hd.1 3)
        else if !s.entryFree c.ctx pkq prod (wordAt hd.2 1) plog then
          .next ((s.after (1 + Config.memLatency s.free) .tasksAppend s.input).draw)
        else
          let p := s.fwRead c.ctx (c.dw 1 + 64 * n) 64
          if p.1 ≠ 0 then .next (s.refuse q id p.1 1)
          else
            let w := s.fwWrite c.ctx (packetAddr pkq plog prod.toNat) p.2
            if w.2 ≠ 0 then .next (s.refuse q id w.2 3)
            else
              let v := w.1.fwWrite c.ctx pkq (leBytes 8 (prod + 1).toNat)
              if v.2 ≠ 0 then .next (s.refuse q id v.2 3)
              else
                let s' := v.1.setQueue q ((v.1.queue q).setCommand id (fun c => { c with value := n + 1 }))
                .next (s'.after 1 .tasksAppend s.input)
  | _ => .next s

/-! ### COPY (03 R51) -/

/-- The record of a copy at an address of a command. -/
def State.commandRecord (s : State) (ctx : Nat) (a : Word) : Nat × Nat :=
  let r := s.fwRead ctx a 96
  (r.1, recordNat (wordsOf r.2 12))

/-- A copy as a command asks for it, on its way to the tile that carries it out: `start` names the queue, `id` the command. -/
def commandXfer (k : TileId) (ctx q id : Nat) (a b : Layout) (z : Bool) : Xfer :=
  { tile := k, id := id, launch := 0, ctx := ctx, f := 0, src := a, dst := b, lo := 0, hi := 0, start := q, bad := false, sig := false
    stage := 0, puts := [], back := [], wrote := [], ovf := 0, inv := false, fault := none, walked := [], ro := false, ticket := 0, z := z }

/-- The copy of a command enters the queue of tile `k`. -/
def State.enqueueCopy (s : State) (k : TileId) (x : Xfer) : State :=
  let rs := copyRanges k 0 x.src x.dst
  let here := (rs.filter (fun r => r.1 == k)).map Prod.snd
  let far := (rs.filter (fun r => r.1 != k)).map (fun r => ({ tile := r.1, range := r.2, granted := false } : FarRange))
  let job : Job := .copy 0 0 (max (pathOf k x.src.base) (pathOf k x.dst.base)) x.src x.dst x.z
  let o := EngOp.fresh none Thread.reset job here far 0 none
  (s.enqueue k { o with tid := 2 ^ 22, cmd := some (x.start, x.id) }).kick k

/-- COPY (03 R51): a layout copy of a tile of the partition that firmware chooses (log 30). A record at fault completes the
command FAULTED with the code and detail CPY would raise. It waits while the partition is away or the tile has 16 copies. -/
def execCopy (s : State) : Out :=
  match s.input with
  | .cmd q id =>
    match s.command? q id with
    | none => .next s
    | some c =>
      let ks := (s.tilesOf c.ctx).filter (fun k => !isShadow k)
      let k := ks.getD (Config.choice s.free % ks.length) 0
      let x := s.commandRecord c.ctx (c.dw 1)
      let y := s.commandRecord c.ctx (c.dw 2)
      let z := (c.dw 3).getLsbD 0
      let s := s.draw
      if ks.isEmpty ∨ ((s.dev.ctx? c.ctx).map Ctx.res) ≠ some .resident then .next (s.after 1024 .copy s.input)
      else if x.1 ≠ 0 then .next (s.refuse q id x.1 1)
      else if y.1 ≠ 0 then .next (s.refuse q id y.1 2)
      else
        match s.recordsFault k 0 z (c.dw 1) (c.dw 2) x.2 y.2 with
        | some t => .next (s.complete q id statusFaulted (t.code + 256 * t.detail) (if t.val = c.dw 1 then 1 else 2))
        | none =>
          .next (s.sendOn memoryPort k 3 (18 + 3 * s.dieLinks (clusterOf k) + 3) .copy
            (.xfer (some k) (commandXfer k c.ctx q id (parseLayout x.2) (parseLayout y.2) z)))
  | .xfer (some k) x =>
    .next (if (s.tile k).r.ctx ≠ x.ctx then s
      else if 16 ≤ (s.tile k).c.copies && !(s.tile k).r.quiet then s.after 64 .copy s.input
      else (s.note k .copy s.input).enqueueCopy k x)
  | _ => .next s

/-! ### STATUS (03 R46, 07 R152, 02 R30) -/

/-- A device access of the context to host memory that was issued and is not over. -/
def State.hostBusy (s : State) (ctx : Nat) : Bool :=
  s.tiles.any (fun x => x.2.r.ctx == ctx &&
      (x.2.c.outq.any (fun p => p.host) || x.2.c.ops.any (fun o => o.started.isSome && o.job.path? == some 4)
        || x.2.r.out.any (fun p => match p.arg with | .gate _ g => g.host | _ => false)))
    || s.agenda.any (fun (x : Timed) => match x.arg with
      | .gate r g => g.ctx == ctx && g.host && (s.slotOf r).isSome
      | _ => false)

/-- Bytes the spec gives no value. -/
def State.freeBytes (s : State) (n : Nat) : List Byte := (List.range n).map (fun i => Config.byte (s.free + i))

/-- STATUS (07 R152, 02 R30): every host access issued before is over, the context's translations leave every gateway, and
the status block is written; the layout of the block is not given (log 13). -/
def execStatus (s : State) : Out :=
  match s.input with
  | .cmd q id =>
    match s.command? q id with
    | none => .next s
    | some c =>
      if s.hostBusy c.ctx then .next (s.after 1 .status s.input)
      else
        let s := { s with clusters := s.clusters.mapVals (fun (x : Cluster) => { x with tcache := x.tcache.filter (fun e => e.ctx != c.ctx) }) }
        let w := s.fwWrite c.ctx (c.dw 1) (s.freeBytes 64)
        let s := { w.1 with free := s.free + 64 }
        if w.2 ≠ 0 then .next (s.refuse q id w.2 1)
        else if (c.dw 2).getLsbD 0 then .next (s.after 1 .statusAttest s.input)
        else .next (s.complete q id statusOk 0 0)
  | _ => .next s

/-- STATUS_ATTEST (03 R46): the security engine adds its report over the nonce to the block; the layout of the report is not
given (log 13). -/
def execStatusAttest (s : State) : Out :=
  match s.input with
  | .cmd q id =>
    match s.command? q id with
    | none => .next s
    | some c =>
      let n := s.fwRead c.ctx (c.dw 3) 32
      let w := s.fwWrite c.ctx (c.dw 1) (s.freeBytes 64)
      if n.1 ≠ 0 then .next (s.refuse q id n.1 3)
      else if w.2 ≠ 0 then .next (s.refuse q id w.2 1)
      else .next ({ w.1 with free := s.free + 64 }.complete q id statusOk 0 0)
  | _ => .next s

end Sys2Proof.Machine
end

