-- ==== Sys2Proof/Machine/Control.lean ====
section
/-!
DEFINITION. Control transfer, the loop stack and the miscellaneous group (13 R262 to R266, R272, R386).
-/
namespace Sys2Proof.Machine

/-- A transfer with unwind to `t` (13 R262, R265). -/
def State.branch (s : State) (th : Thread) (t : Word) : Out :=
  .next (s.setMe ({ th with loops := unwindLoops t th.loops }.jump t))

/-- The offset after the head at PC. -/
def State.nextPc (s : State) (th : Thread) : Word := nextOf s.cur.nh th.pc

/-- The condition a branch tests: q0 to q15, or k0 to k15, the mailbox conditions of the tile (13 R262). -/
def State.condition (s : State) (th : Thread) (sel : Fin 32) : Bool :=
  if sel.val < 16 then th.pred (Fin.ofNat 16 sel.val) else !(s.here.c.mail[sel.val % 16]'(Nat.mod_lt _ (by decide))).isEmpty

/-- BR (13 R262). -/
def execBr (t : Target) (s : State) : Out := s.branch s.me (targetAt s.me.pc t)

/-- BT: taken when the condition is 1 (13 R262). -/
def execBt (sel : Fin 32) (t : Target) (s : State) : Out :=
  if s.condition s.me sel then s.branch s.me (targetAt s.me.pc t) else s.done s.me

/-- BF: taken when the condition is 0 (13 R262). -/
def execBf (sel : Fin 32) (t : Target) (s : State) : Out :=
  if s.condition s.me sel then s.done s.me else s.branch s.me (targetAt s.me.pc t)

/-- CALL: the link to g30, no unwind (13 R262). -/
def execCall (t : Target) (s : State) : Out :=
  .next (s.setMe ((s.me.setReg 30 (s.nextPc s.me)).jump (targetAt s.me.pc t)))

/-- JR (13 R262). -/
def execJr (r : Reg) (s : State) : Out := s.withRegs [r] fun th => s.branch th (th.reg r)

/-- CALLR: the target is read before the link is written (13 R262). -/
def execCallr (r : Reg) (s : State) : Out :=
  s.withRegs [r] fun th => .next (s.setMe ((th.setReg 30 (s.nextPc th)).jump (th.reg r)))

/-- Opening a loop entry, or skipping a body of count 0 (13 R264). The check of the end target comes before the park
on an empty count register. -/
def State.openLoop (s : State) (rs : List Reg) (t : Target) (count : Thread → BitVec 32) : Out :=
  let stop := targetAt s.me.pc t
  let next := s.nextPc s.me
  if t.h = 0 || stop.slt next then s.trap cReservedField 0xFF s.me.pc
  else
    s.withRegs rs fun th =>
      if count th = 0 then s.continueAfter stop th
      else if 4 ≤ th.loops.length then s.trap cLoopDepth 0 th.pc
      else
        s.done { th with loops := { start := next.setWidth 32, stop := stop.setWidth 32, count := count th } :: th.loops }

/-- LOOP: the count is G[A][31:0] (13 R264). -/
def execLoop (ra : Reg) (t : Target) (s : State) : Out :=
  s.openLoop [ra] t fun th => (th.reg ra).setWidth 32

/-- LOOPI: the count is the 8-bit field, 0 meaning 256 (13 R264). -/
def execLoopi (n : BitVec 8) (t : Target) (s : State) : Out :=
  s.openLoop [] t fun _ => if n = 0 then 256 else n.setWidth 32

/-- LEXIT: pops the innermost entry and continues after its end; NOP on an empty stack (13 R266, R386). -/
def execLexit (s : State) : Out :=
  match s.me.loops with
  | [] => s.done s.me
  | e :: es => s.continueAfter (e.stop.setWidth 64) { s.me with loops := es }

/-- LIDX: passes still to run, 0 on an empty stack (13 R266). -/
def execLidx (rd : Reg) (s : State) : Out :=
  s.regOp [] rd fun th => match th.loops with | [] => 0 | e :: _ => e.count.setWidth 64

/-- LDEP: loop depth (13 R266). -/
def execLdep (rd : Reg) (s : State) : Out := s.regOp [] rd fun th => BitVec.ofNat 64 th.loops.length

/-- NOP changes nothing but PC (13 R272). -/
def execNop (s : State) : Out := s.done s.me

/-- YIELD: the next turn becomes a bubble (13 R272). -/
def execYield (s : State) : Out := s.done { s.me with skip := true }

/-- BRK and TRAP retire, end step included, and then trap; xpc is the next head in execution order (09 R180, 13
R263). -/
def State.softTrap (s : State) (code detail : Nat) : Out :=
  let th := s.me.retire s.cur.nh
  .next ((s.setMe th).trapAt s.cur.tile s.cur.slot th.pc (causeOf code detail false) 0)

/-- BRK: BREAK, detail 0 (13 R272). -/
def execBrk (s : State) : Out := s.softTrap cBreak 0

/-- TRAP n: SOFT, detail n (13 R272). -/
def execTrap (n : Fin 32) (s : State) : Out := s.softTrap cSoft n

/-- RETT (09 R185); ILLEGAL 0x05 at level 0. -/
def execRett (s : State) : Out :=
  if s.me.xlvl = 0 then s.trap cIllegal 5 s.me.pc else .next (s.setMe s.me.leaveTrap)

end Sys2Proof.Machine
end

