-- ==== Sys2Proof/Machine/Float.lean ====
section
/-!
DEFINITION. The binary32 instructions (13 R257 to R261).
-/
namespace Sys2Proof.Machine

/-- FADD (13 R258). -/
def execFadd (rm : Fin 5) (rd ra rb : Reg) (s : State) : Out :=
  s.fpOp [ra, rb] rd fun th => fpAdd (th.mode rm) (th.f32Val ra) (th.f32Val rb)

/-- FSUB (13 R258). -/
def execFsub (rm : Fin 5) (rd ra rb : Reg) (s : State) : Out :=
  s.fpOp [ra, rb] rd fun th => fpSub (th.mode rm) (th.f32Val ra) (th.f32Val rb)

/-- FMUL (13 R258). -/
def execFmul (rm : Fin 5) (rd ra rb : Reg) (s : State) : Out :=
  s.fpOp [ra, rb] rd fun th => fpMul (th.mode rm) (th.f32Val ra) (th.f32Val rb)

/-- FDIV (13 R258). -/
def execFdiv (rm : Fin 5) (rd ra rb : Reg) (s : State) : Out :=
  s.fpOp [ra, rb] rd fun th => fpDiv (th.mode rm) (th.f32Val ra) (th.f32Val rb)

/-- FMIN: exact, the S field ignored (13 R258, 12 R243). -/
def execFmin (_rm : Fin 5) (rd ra rb : Reg) (s : State) : Out :=
  s.fpOp [ra, rb] rd fun th => fpPick FVal.min (th.f32Bits ra) (th.f32Bits rb)

/-- FMAX: exact, the S field ignored (13 R258, 12 R243). -/
def execFmax (_rm : Fin 5) (rd ra rb : Reg) (s : State) : Out :=
  s.fpOp [ra, rb] rd fun th => fpPick FVal.max (th.f32Bits ra) (th.f32Bits rb)

/-- FSQRT (13 R258). -/
def execFsqrt (rm : Fin 5) (rd ra : Reg) (s : State) : Out :=
  s.fpOp [ra] rd fun th => fpSqrt (th.mode rm) (th.f32Val ra)

/-- FABS: bit 31 cleared, the S field ignored (13 R258). -/
def execFabs (_rm : Fin 5) (rd ra : Reg) (s : State) : Out :=
  s.fpOp [ra] rd fun th => fpSign (fun x => x % 2 ^ 31) (th.f32Bits ra)

/-- FNEG: bit 31 inverted, the S field ignored (13 R258). -/
def execFneg (_rm : Fin 5) (rd ra : Reg) (s : State) : Out :=
  s.fpOp [ra] rd fun th => fpSign (fun x => (x + 2 ^ 31) % 2 ^ 32) (th.f32Bits ra)

/-- FMA (13 R259). -/
def execFma (rm : Fin 5) (rd ra rb rc : Reg) (s : State) : Out :=
  s.fpOp [ra, rb, rc] rd fun th => fpFma (th.mode rm) false (th.f32Val ra) (th.f32Val rb) (th.f32Val rc)

/-- FNMA (13 R259). -/
def execFnma (rm : Fin 5) (rd ra rb rc : Reg) (s : State) : Out :=
  s.fpOp [ra, rb, rc] rd fun th => fpFma (th.mode rm) true (th.f32Val ra) (th.f32Val rb) (th.f32Val rc)

/-- FEQ (13 R260). -/
def execFeq (qd : Pred) (ra rb : Reg) (s : State) : Out := s.fpPred qd ra rb fpEq

/-- FLT (13 R260). -/
def execFlt (qd : Pred) (ra rb : Reg) (s : State) : Out := s.fpPred qd ra rb fpLt

/-- FLE (13 R260). -/
def execFle (qd : Pred) (ra rb : Reg) (s : State) : Out := s.fpPred qd ra rb fpLe

/-- FUN (13 R260). -/
def execFuno (qd : Pred) (ra rb : Reg) (s : State) : Out := s.fpPred qd ra rb fpUn

/-- CVTFI: F32 to signed I64 (13 R261). -/
def execCvtfi (rm : Fin 5) (rd ra : Reg) (s : State) : Out :=
  s.withRegs [ra] fun th =>
    s.done ((th.setReg rd (fpToInt (th.mode rm) (th.f32Val ra)).1).raise (fpToInt (th.mode rm) (th.f32Val ra)).2)

/-- CVTIF: signed I64 to F32 (13 R261). -/
def execCvtif (rm : Fin 5) (rd ra : Reg) (s : State) : Out :=
  s.fpOp [ra] rd fun th => ieeeOf f32 (th.mode rm) (FVal.ofInt (th.reg ra).toInt 0)

/-- CVTFB: F32 to BF16 (13 R261). -/
def execCvtfb (rm : Fin 5) (rd ra : Reg) (s : State) : Out :=
  s.fpOp [ra] rd fun th => fpConvert bf16 (th.mode rm) (th.f32Val ra)

/-- CVTBF: BF16 to F32, exact (13 R261). -/
def execCvtbf (_rm : Fin 5) (rd ra : Reg) (s : State) : Out :=
  s.fpOp [ra] rd fun th => fpConvert f32 .rne (bf16.decode ((th.reg ra).toNat % 2 ^ 16))

/-- CVTFH: F32 to F16 (13 R261). -/
def execCvtfh (rm : Fin 5) (rd ra : Reg) (s : State) : Out :=
  s.fpOp [ra] rd fun th => fpConvert f16 (th.mode rm) (th.f32Val ra)

/-- CVTHF: F16 to F32, exact (13 R261). -/
def execCvthf (_rm : Fin 5) (rd ra : Reg) (s : State) : Out :=
  s.fpOp [ra] rd fun th => fpConvert f32 .rne (f16.decode ((th.reg ra).toNat % 2 ^ 16))

/-- FCLASS: the single class bit, no flags (13 R261). -/
def execFclass (_rm : Fin 5) (rd ra : Reg) (s : State) : Out :=
  s.regOp [ra] rd fun th => BitVec.ofNat 64 (2 ^ fpClass (th.f32Bits ra))

end Sys2Proof.Machine
end

