-- ==== Sys2Proof/Machine/Partition.lean ====
section
/-!
DEFINITION. PARTITION commands: contexts and their partitions (03 R47, R54, 04 R79, R81, 05 R111, 16 R323, R338, 21 R376).
-/
namespace Sys2Proof.Machine

/-! ### Rectangles (03 R47, 04 R81) -/

def Region.ofWord (w : Word) : Region :=
  { col0 := bitsOf w 0 8, row0 := bitsOf w 8 8, width := bitsOf w 16 8, height := bitsOf w 24 8, stitch := bitsOf w 32 2 }

/-- The logical chiplet of an active physical one: its rank among those that are no spares (log 31). -/
def Device.logical (d : Device) (p : Nat) : Nat := p - (d.fuses.spares.filter (fun x => decide (x < p))).length

/-- The logical cluster at a grid coordinate; none at an unpopulated site or a spare chiplet's. -/
def Device.clusterAt (d : Device) (x y : Nat) : Option Nat :=
  match chipAt x y with
  | none => none
  | some p => if d.fuses.spares.contains p then none else some (d.logical p * 64 + y % 8 * 8 + x % 8)

/-- The clusters of a rectangle, row by row; none where one does not exist. -/
def Device.clustersOf (d : Device) (r : Region) : Option (List Nat) :=
  ((List.range r.height).flatMap (fun j => (List.range r.width).map (fun i => d.clusterAt (r.col0 + i) (r.row0 + j)))).mapM id

/-- A rectangle keeps the rules of R47 and R81. -/
def Device.regionGood (d : Device) (r : Region) : Bool :=
  decide (1 ≤ r.width) && decide (r.width ≤ 96) && decide (1 ≤ r.height) && decide (r.height ≤ 96)
    && decide (r.col0 + r.width ≤ 96) && decide (r.row0 + r.height ≤ 96) && r.stitch != 3
    && (r.stitch == 0 || (r.col0 % 8 == 0 && r.row0 % 8 == 0 && r.width % 8 == 0 && r.height % 8 == 0))
    && (d.clustersOf r).isSome

/-- A rectangle of context `n` meets one of another resident partition. -/
def Device.meets (d : Device) (n : Nat) (r : Region) : Bool :=
  d.contexts.any (fun x => x.1 != n && x.2.holds && x.2.rects.any (fun y => y.meets r))

/-- The doubleword at fault in a context record (03 R47, log 28). -/
def Device.recordBad (d : Device) (n : Nat) (ws : List Word) : Option Nat :=
  let w (i : Nat) : Word := ws.getD i 0
  let r := Region.ofWord (w 1)
  let sh := Region.ofWord (w 2)
  let bad (i : Nat) : Bool := match i with
    | 0 => bitsOf (w 0) 0 12 != 0
    | 1 => bitsOf (w 1) 34 30 != 0 || !d.regionGood r || d.meets n r
    | 2 => w 2 != 0 && (bitsOf (w 2) 34 30 != 0 || sh.width != r.width || sh.height != r.height || sh.stitch != r.stitch
      || !d.regionGood sh || d.meets n sh || sh.meets r)
    | 3 => bitsOf (w 3) 0 5 != 0
    | 4 => decide (bitsOf (w 4) 0 5 < 4) || decide (20 < bitsOf (w 4) 0 5) || bitsOf (w 4) 5 59 != 0
    | 5 => false
    | 6 => false
    | 7 => false
    | 8 => bitsOf (w 8) 32 32 != 0
    | _ => w i != 0
  (List.range 16).find? bad

/-! ### Placement -/

/-- Tiles of a rectangle: ascending LTN. -/
def Device.tilesIn (d : Device) (r : Region) : List TileId :=
  (sortBy (fun a b => decide (a ≤ b)) ((d.clustersOf r).getD [])).flatMap (fun cl => (List.range 32).map (fun i => cl * 32 + i))

/-- The largest g with g ^ 2 ≤ n (16 R338), at most 512. -/
def gridWidth (n : Nat) : Nat := ((List.range 513).filter (fun g => decide (g * g ≤ n))).length - 1

/-- A tile as PARTITION CREATE leaves it: handles free, pins free, gridw set, a zero fill due; the pool's bytes and FE bits, ivlen
and ivn stay, the rest is as after reset (16 R323, R338, 21 R376, log 32). Its checkpoint is the state it starts from. -/
def State.placeTile (s : State) (n grid : Nat) (k : TileId) : State :=
  let s := (s.listTile k).listTile (buddyOf k)
  let t := s.tile k
  s.seat k n { TileCtx.reset with pool := t.c.pool, emptyDw := t.c.emptyDw, gridw := BitVec.ofNat 18 grid, zeroDue := true }

/-- The routers of a shadow rectangle serve the shadow under numbers of their own (04 R79). -/
def State.placeShadow (s : State) (c : Ctx) : State :=
  match c.shadow with
  | none => s
  | some sh =>
    (((s.dev.clustersOf c.region).getD []).zip ((s.dev.clustersOf sh).getD [])).foldl (fun s x =>
      s.setCluster (x.1 + 8192) { s.cluster x.2 with groups := [], homes := [], reds := [], results := [] }) s

/-- A partition takes its place: every tile is marked for a zero fill. -/
def State.placeCtx (s : State) (n : Nat) (c : Ctx) : State :=
  let ks := s.dev.tilesIn c.region
  let s := s.setCtxRec n { c with res := .resident, since := s.now }
  let s := s.placeShadow c
  let all := ks ++ (if c.shadow.isSome then ks.map (fun k => k + 2 ^ 18) else [])
  ((all.foldl (fun s k => s.placeTile n (gridWidth ks.length) k) s).after (s.slice c) .timeSliceExpire (.num n)).after 1 .population (.num n)

/-- The context a PARTITION command names. -/
def Command.target (c : Command) : Nat := bitsOf (c.dw 1) 16 16

/-- A context as its record describes it. -/
def Ctx.ofRecord (ws : List Word) (record : Word) : Ctx :=
  let w (i : Nat) : Word := ws.getD i 0
  { xlroot := bitsOf (w 0) 0 48, region := Region.ofWord (w 1), shadow := if w 2 = 0 then none else some (Region.ofWord (w 2))
    tbase := bitsOf (w 3) 0 48, tlog := bitsOf (w 4) 0 5, record := record, park := bitsOf (w 7) 0 48, parksz := bitsOf (w 8) 0 32
    res := .unplaced, lids := 0, launches := [], waiting := [], tasks := [], heldPos := [], deferred := false, suspendCmd := none, resumeCmd := none
    image := [], sizes := [], imageAt := none, queued := false, since := 0, reqAt := 0, switchFrom := none, dropped := [] }

/-- PARTITION_CREATE (03 R47, 05 R111). -/
def execPartitionCreate (s : State) : Out :=
  match s.input with
  | .cmd q id =>
    match s.command? q id with
    | none => .next s
    | some c =>
      let n := c.target
      if (s.dev.ctx? n).isSome then .next (s.complete q id statusMalformed 1 0)
      else
        let x := s.fwRead c.ctx (c.dw 2) 128
        let ws := wordsOf x.2 16
        if x.1 ≠ 0 then .next (s.refuse q id x.1 2)
        else
          match s.dev.recordBad n ws with
          | some i => .next (s.complete q id statusMalformed i 0)
          | none =>
            let y := Ctx.ofRecord ws (c.dw 2)
            if s.fits n y then .next ((s.placeCtx n y).complete q id statusOk 0 0)
            else .next ((s.setCtxRec n y).complete q id statusParked 0 0)
  | _ => .next s

/-! ### TEARDOWN (03 R54) -/

/-- Launches of a context that are resident or wait. -/
def Ctx.allLaunches (c : Ctx) : List Launch := c.launches.map Prod.snd ++ c.waiting

/-- The value of a command that its context's tear-down completes: the launch id of a LAUNCH, the count a TASKS has reached, what a
WAIT has read (03 R52). -/
def State.goneValue (s : State) (q : Nat) (c : Command) : Word :=
  if c.kind = 1 then
    match ((s.dev.ctx? c.ctx).map Ctx.allLaunches |>.getD []).find? (fun (l : Launch) => l.slot = q && l.pos = c.id) with
    | some l => l.lid.setWidth 64
    | none => 0
  else c.value

/-- The commands of a context in a queue slot, as far as they have been accepted, no longer wait to start. -/
def Queue.accepted (x : Queue) (n : Nat) : List Command :=
  (x.commands.filter (fun (c : Command) => c.ctx == n)).map (fun (c : Command) => { c with orphan := true, started := true })

/-- Commands of a context that a queue slot has kept from a queue unmapped before complete CONTEXT_GONE too. -/
def State.dropKept (s : State) (n q : Nat) : State :=
  let x := s.queue q
  let s0 := s
  let s := s.setQueue q { x with commands := (x.commands.filter (fun (c : Command) => c.ctx != n)) ++ x.accepted n }
  (x.accepted n).foldl (fun s c => s.complete q c.id statusGone 0 (s0.goneValue q c)) s

/-- The queues of a context leave their slots, state 3; every command of theirs that has not completed completes CONTEXT_GONE,
with the value each has so far; those still in the ring too (log 33). -/
def State.dropQueue (s : State) (q : Nat) : State :=
  let x := s.queue q
  let s0 := s
  let n := (x.tail + 2 ^ 32 - x.head) % 2 ^ 32
  let ring := (List.range (min n 65536)).filterMap (fun i =>
    let e := s.fwRead x.ctx (x.ring + BitVec.ofNat 64 (64 * ((x.head + i) % 2 ^ x.rlog))) 64
    if e.1 = 0 then
      some ({ id := s.tok + i, ctx := x.ctx, words := wordsOf e.2 8, started := true, orphan := true, value := 0 } : Command)
    else none)
  let all := x.accepted x.ctx ++ ring
  let others := x.commands.filter (fun (c : Command) => c.ctx != x.ctx)
  let s := s.setQueue q { x with state := 3 }
  let s := s.putState q
  let s := { s.setQueue q { Queue.reset with record := x.record, state := 3, commands := others ++ all } with tok := s.tok + n }
  let s := { s with dev := { s.dev with workers := s.dev.workers + (if x.accepting then 1 else 0) } }
  all.foldl (fun s c => s.complete q c.id statusGone 0 (s0.goneValue q c)) s

/-- Routers forget a context's groups, reductions and results. -/
def Cluster.forget (c : Cluster) (n : Nat) : Cluster :=
  { c with
    groups := c.groups.filter (fun x => x.1 / 65536 != n)
    homes := c.homes.filter (fun x => x.1 / 65536 != n)
    reds := c.reds.filter (fun r => r.ctx != n)
    results := c.results.filter (fun r => r.ctx != n) }

/-- A shadow's routers serve their own clusters again: what they learnt of their slots stays. -/
def State.clearShadow (s : State) (c : Ctx) : State :=
  match c.shadow with
  | none => s
  | some sh =>
    (((s.dev.clustersOf c.region).getD []).zip ((s.dev.clustersOf sh).getD [])).foldl (fun s x =>
      s.setCluster x.2 { s.cluster x.2 with
        slotMap := (s.cluster (x.1 + 8192)).slotMap, failed := (s.cluster (x.1 + 8192)).failed }) s

/-- What is on its way for a context or to its tiles, and what it counts: gone with it. What the positions keep for others stays. -/
def timedFor (n : Nat) (ks : List TileId) (x : Timed) : Bool :=
  (match x.ev, x.arg with
    | .gangPreempt, .tile k => ks.contains k
    | .gangPreempt, .tileNum k _ => ks.contains k
    | .coldeferExpire, .tile k => ks.contains k
    | .coldeferExpire, .num m => m == n
    | .timeSliceExpire, .num m => m == n
    | .restore, .num m => m == n
    | .restore, .nums m _ => m == n
    | .population, .num m => m == n
    | .launchTimeLimit, .nums3 m _ _ => m == n
    | .launchEnd, .nums m _ => m == n
    | .packetRetire, .nums3 m _ _ => m == n
    | .deferredBoundary, _ => false
    | _, _ => ks.any (fun k => inFlightOf k x))
  || inFlightIn n x

/-- Every thread of the context ends, its keys are free, its tiles leave; the pools keep their bytes. -/
def State.clearTiles (s : State) (n : Nat) : State :=
  let ks := s.tilesOf n
  ks.foldl State.vacate { s with
    clusters := s.clusters.mapVals (fun c => c.forget n)
    agenda := s.agenda.filter (fun x => !timedFor n ks x) }

/-- PARTITION_TEARDOWN (03 R54, 02 R26): the context is live until this completes. -/
def execPartitionTeardown (s : State) : Out :=
  match s.input with
  | .cmd q id =>
    match s.command? q id with
    | none => .next s
    | some c =>
      let n := c.target
      if (s.dev.ctx? n).isNone then .next (s.complete q id statusGone 0 0)
      else
        let qs := (s.dev.queues.filter (fun x => x.2.mapped && x.2.ctx == n)).map Prod.fst
        let kept := (s.dev.queues.filter (fun x => !(x.2.mapped && x.2.ctx == n) && x.2.commands.any (fun c => c.ctx == n))).map Prod.fst
        let s := (kept.foldl (fun s q => s.dropKept n q) (qs.foldl State.dropQueue s)).clearTiles n
        let s := match s.dev.ctx? n with
          | some y =>
            let s := if y.holds then s.clearShadow y else s
            let s := (y.suspendCmd.toList ++ y.resumeCmd.toList).foldl (fun (s : State) (x : Nat × Nat) => s.complete x.1 x.2 statusGone 0 0) s
            s.setCtxRec n { y with
              res := .unplaced, launches := [], waiting := [], tasks := [], heldPos := [], image := [], sizes := [], imageAt := none, queued := false
              suspendCmd := none, resumeCmd := none }
          | none => s
        .next (s.after 2 .partitionTeardown (.nums3 n q id))
  | .nums3 n q id =>
    let s := { s with dev := { s.dev with
      contexts := s.dev.contexts.erase n, peers := s.dev.peers.erase n, parkedReports := setDel s.dev.parkedReports n } }
    .next (s.complete q id statusOk 0 0)
  | _ => .next s

/-! ### SUSPEND and RESUME (03 R54, 05 R111) -/

/-- PARTITION_SUSPEND (03 R54): a gang pre-emption; of the device itself when a partition no longer fits or lends a tile (05
R104, R111). A partition that is parked already is suspended. -/
def execPartitionSuspend (s : State) : Out :=
  match s.input with
  | .cmd q id =>
    match s.command? q id with
    | none => .next s
    | some c =>
      let n := c.target
      match s.dev.ctx? n with
      | none => .next (s.complete q id statusGone 0 0)
      | some y =>
        let s := s.setCtxRec n { y with queued := false }
        match y.res with
        | .resident => .next ((s.setCtxRec n { y with queued := false, suspendCmd := some (q, id) }).preempt n)
        | .restoring => .next (s.after 1024 .partitionSuspend s.input)
        | .stopping =>
          if y.suspendCmd.isSome then .next (s.after 1024 .partitionSuspend s.input)
          else .next (s.setCtxRec n { y with queued := false, suspendCmd := some (q, id) })
        | _ => .next (s.complete q id statusOk 0 0)
  | .nums3 n _ _ =>
    let s := { s with dev := { s.dev with parkedReports := setAdd s.dev.parkedReports n } }
    .next (s.preempt n)
  | _ => .next s

/-- PARTITION_RESUME (03 R54, 05 R111): a parked image comes back, its own or the one that the command's address names, or a partition that
was created PARKED takes its place as by CREATE. -/
def execPartitionResume (s : State) : Out :=
  match s.input with
  | .cmd q id =>
    match s.command? q id with
    | none => .next s
    | some c =>
      let n := c.target
      match s.dev.ctx? n with
      | none => .next (s.complete q id statusGone 0 0)
      | some y =>
        if y.res != .unplaced && !memSpace (c.dw 2) then .next (s.complete q id statusMalformed 2 0)
        else
        match y.res with
        | .resident => .next (s.complete q id statusOk 0 0)
        | .stopping => .next (s.after 1024 .partitionResume s.input)
        | .restoring => .next (s.after 1024 .partitionResume s.input)
        | .unplaced =>
          if s.dev.meets n y.region then .next (s.complete q id statusMalformed 1 0)
          else if y.shadow.any (s.dev.meets n) then .next (s.complete q id statusMalformed 2 0)
          else if !s.fits n y then .next (s.complete q id statusParked 0 0)
          else .next ((s.placeCtx n y).complete q id statusOk 0 0)
        | .parked =>
          if y.resumeCmd.isSome then .next (s.after 1024 .partitionResume s.input)
          else if !s.fits n y then .next (s.complete q id statusParked 0 0)
          else
            let s := { s with dev := { s.dev with parkedReports := setDel s.dev.parkedReports n } }
            .next ((s.setCtxRec n { y with
              resumeCmd := some (q, id), imageAt := some (c.dw 2) }).after 1 .restore (.num n))
  | _ => .next s

end Sys2Proof.Machine
end

