-- ==== Sys2Proof/Machine/Launch.lean ====
section
/-!
DEFINITION. Launches: validation, population, end, time limit, paired launches (03 R55 to R59, R64, R65, 05 R96, R384, 07 R146, 12
R237, 16 R327, 21 R376).
-/
namespace Sys2Proof.Machine

/-! ### Validation (03 R55, R56, 07 R146, 12 R237) -/

/-- A pool configuration word keeps R56. -/
def cfgGood (cfg : Word) : Bool :=
  decide (4 ≤ bitsOf cfg 0 6) && decide (bitsOf cfg 8 6 ≤ 32) && bitsOf cfg 6 2 == 0 && bitsOf cfg 14 2 == 0 && bitsOf cfg 22 2 == 0
    && bitsOf cfg 30 34 == 0
    && decide (bitsOf cfg 0 6 + bitsOf cfg 8 6 + bitsOf cfg 16 6 + bitsOf cfg 24 6 + 1 ≤ 64)

/-- Every page of [a, a + n) of a context's cellar space can be read. -/
def State.readable (s : State) (ctx : Nat) (a : Word) (n : Nat) : Bool :=
  let va := a.toNat % 2 ^ 48
  (List.range ((va + n - 1) / 65536 - va / 65536 + 1)).all (fun i =>
    match s.walk ctx false ((va / 65536 + i) * 65536) with
    | .leaf _ _ rd _ => rd
    | .fault _ => false)

/-- The doubleword at fault in a launch descriptor, the lowest (03 R56). -/
def State.launchBad (s : State) (n : Nat) (c : Ctx) (ws : List Word) : Option Nat :=
  let w (i : Nat) : Word := ws.getD i 0
  let limit := bitsOf (w 1) 0 32
  let entry := bitsOf (w 1) 32 32
  let quota := bitsOf (w 8) 0 5
  let cfg := bitsOf (w 8) 32 32
  let one := limit == 0 || limit % 64 != 0 || entry % 2 == 1 || decide (limit ≤ entry)
  let bad (i : Nat) : Bool := match i with
    | 0 => spaceOf (w 0) != 4 || bitsOf (w 0) 0 6 != 0 || !(limit == 0 || s.readable n (w 0) limit)
    | 1 => one
    | 8 => quota == 0 || decide (16 < quota) || bitsOf (w 8) 5 3 != 0 || bitsOf (w 8) 12 20 != 0 || !cfgGood (BitVec.ofNat 64 cfg)
      || ((w 8).getLsbD 8 && c.shadow.isNone) || c.allLaunches.any (fun l => l.poolcfg.toNat != cfg)
    | 9 => bitsOf (w 9) 0 3 != 0
    | 10 => bitsOf (w 10) 32 32 != 0
    | 11 => bitsOf (w 11) 0 3 != 0
    | 13 => w 13 != 0
    | 14 => w 14 != 0
    | 15 => w 15 != 0
    | _ => false
  (List.range 16).find? bad

/-- A launch as its descriptor gives it. -/
def Launch.ofDescriptor (ws : List Word) (lid : BitVec 32) (q id : Nat) : Launch :=
  let w (i : Nat) : Word := ws.getD i 0
  { lix := 0, lid := lid, slot := q, pos := id, code := w 0, limit := (w 1).setWidth 32, entry := BitVec.ofNat 32 (bitsOf (w 1) 32 32)
    seeds := [w 2, w 3, w 4, w 5, w 6, w 7], quota := bitsOf (w 8) 0 5, paired := (w 8).getLsbD 8, prio := bitsOf (w 8) 9 3
    poolcfg := BitVec.ofNat 32 (bitsOf (w 8) 32 32), live := w 9, nlive := (w 10).setWidth 32, pkq := w 11
    tlim := bitsOf (w 12) 0 32, slice := bitsOf (w 12) 32 32, populated := false, elapsed := 0, since := 0, abort := none
    abortAt := (0, 0, 0), owed := [], paid := [], sig := 0, shadowSig := 0, thirdSig := none, rerun := false, extents := [] }

/-- The region table of an image, at live + 8·nlive: a count, then the reloadable extents (11 R231, 05 R97); none without a
liveness base. A count beyond the 4,096 extents a pool can hold is cut there. -/
def State.regionTable (s : State) (ctx : Nat) (live : Word) (nlive : Nat) : Nat × List (Nat × Nat × Nat) :=
  if live = 0 then (0, [])
  else
    let a := live + BitVec.ofNat 64 (8 * nlive)
    let h := s.fwRead ctx a 8
    if h.1 ≠ 0 then (h.1, [])
    else
      let n := min (leNat h.2) 4096
      let es := (List.range n).map (fun i => s.fwRead ctx (a + BitVec.ofNat 64 (8 + 16 * i)) 16)
      match es.find? (fun e => e.1 != 0) with
      | some e => (e.1, [])
      | none => (0, es.map (fun e => (bitsOf (wordAt e.2 0) 0 18, bitsOf (wordAt e.2 0) 32 19, (wordAt e.2 1).toNat)))

/-! ### The mirrors (05 R96) -/

/-- The buddy of one of the launch's tiles has a mirror partition too small for its mutable extent; or it holds another resident launch
whose extent does not fit the launch's own mir. A buddy that holds no launch counts with the launch's own mir (log 34). -/
def State.mirrorShort (s : State) (n : Nat) (c : Ctx) (cfg : Word) (xs : List (Nat × Nat × Nat)) : Bool :=
  let e := mutableExtent cfg (c.allLaunches.flatMap Launch.extents ++ xs)
  (s.dev.tilesIn c.region).any (fun k =>
    let b := buddyOf k
    let other := (s.tile b).r.ctx != n && s.occupied b
    let mir := mirrorBytes (if other then (s.tile b).c.poolcfg else cfg)
    decide (mir < e + 4096)
      || (other && decide (mirrorBytes cfg < mutableExtent (s.tile b).c.poolcfg (s.extents b) + 4096)))

/-- LAUNCH (03 R56, R62): the descriptor is read and checked, and the launch waits for its population. A tear-down of its context
in this cycle wins. A launch that is turned away takes no launch id, and its completion value is 0: DESIGN CHOICE (log 60), the spec does
not say whether it counts. -/
def execLaunch (s : State) : Out :=
  match s.input with
  | .cmd q id =>
    match s.command? q id with
    | none => .next s
    | some c =>
      match s.dev.ctx? c.ctx with
      | none => .next (s.complete q id statusGone 0 0)
      | some y =>
        let x := s.fwRead c.ctx (c.dw 1) 128
        let ws := wordsOf x.2 16
        if x.1 ≠ 0 then .next (s.refuse q id x.1 1)
        else
          match s.launchBad c.ctx y ws with
          | some i => .next (s.complete q id statusMalformed i 0)
          | none =>
            let l := Launch.ofDescriptor ws (BitVec.ofNat 32 (y.lids + 1)) q id
            let t := s.regionTable c.ctx l.live l.nlive.toNat
            if t.1 ≠ 0 then .next (s.refuse q id t.1 1)
            else if s.mirrorShort c.ctx y (l.poolcfg.setWidth 64) t.2 then .next (s.complete q id statusMirrorShort 0 0)
            else
              .next ((s.setCtxRec c.ctx { y with
                lids := y.lids + 1, waiting := y.waiting ++ [{ l with extents := t.2 }] }).after 1 .population (.num c.ctx))
  | _ => .next s

/-! ### Population (03 R57, R58, 05 R384, 21 R376) -/

/-- Slots that a population may take: empty, and no home reservation of a thread that is away. -/
def TileCtx.emptySlots (c : TileCtx) : List (Fin 16) :=
  (List.finRange 16).filter (fun j => c.slots[j].isNone && (c.resv.get? j.val).isNone)

/-- Those that no population has reserved. -/
def State.openSlots (s : State) (k : TileId) : List (Fin 16) :=
  (s.tile k).c.emptySlots.filter (fun j => !(s.reservedSlots k).contains j.val)

/-- A launch fits a set of tiles. -/
def State.roomFor (s : State) (ks : List TileId) (quota : Nat) : Bool := ks.all (fun k => decide (quota ≤ (s.openSlots k).length))

/-- The zero fill of the scratchpad and acc region, with the scratchpad's FE bits full (21 R376, 07 R157). -/
def TileCtx.zeroFill (c : TileCtx) : TileCtx :=
  let top := (scrUnits c.poolcfg + accUnits c.poolcfg) * 4096
  { c with
    pool := c.pool.filter (fun x => decide (top ≤ x.1))
    emptyDw := c.emptyDw.filter (fun d => decide (scrBytes c.poolcfg ≤ d * 8))
    dirty := c.dirty ++ (allLines c.poolcfg).filter (fun l => !c.dirty.contains l)
    zeroDue := false }

/-- The thread with ordinal `i` of `quota` at context `j` of tile `k` (03 R57, R58). -/
def Launch.thread (l : Launch) (lix : Nat) (k : TileId) (j i : Nat) : Thread :=
  let cfg : Word := l.poolcfg.setWidth 64
  let spill := bitsOf cfg 24 6
  let share := spill * 4096 / l.quota / 16 * 16
  let splim := (scrUnits cfg - spill) * 4096 + i * share
  launchThread (l.entry.setWidth 64) l.seeds i l.lid (BitVec.ofNat 64 (splim + share)) (BitVec.ofNat 64 splim) (ltnOf k) j
    (BitVec.ofNat 4 lix)

/-- The launch-table entry of a launch (06 R126). -/
def Launch.tableEntry (l : Launch) : LaunchEntry :=
  { code := l.code, limit := l.limit, entry := l.entry, live := l.live, nlive := l.nlive, pkq := l.pkq, lid := l.lid, paired := l.paired
    extents := l.extents }

/-- The slot number of a populate event that evicts bound records and writes no context (16 R327). -/
def evictSlot : Nat := 16

/-- A tile's contexts of a launch go to it, one POPULATE event for each (05 R384). -/
def State.populateTile (s : State) (lix : Nat) (l : Launch) (k : TileId) : State :=
  let js := (s.openSlots k).take l.quota
  let zero := (s.tile k).c.zeroDue
  (List.range js.length).foldl (fun s i =>
    let j := (js.getD i 0).val
    s.sendOn memoryPort k 0 (3 * s.dieLinks (clusterOf k) + 1) .population
      (.populate k j lix l.tableEntry (l.thread lix k j i) (l.poolcfg.setWidth 64) (zero && i == 0))) s

/-- A POPULATE event reaches tile `k`: it is logged, the zero fill is performed if it asks for one, and the context and the launch-table entry
are written (05 R384, 21 R376, 12 R237, 07 R154). -/
def State.takeContext (s : State) (k : TileId) (j lix : Nat) (e : LaunchEntry) (th : Thread) (cfg : Word) (zero : Bool) : State :=
  let s := s.log k kPopulate j 112 .population s.input 0
  let s := s.flushCache (clusterOf k)
  let c := (s.tile k).c
  let c := { c with poolcfg := cfg, icache := c.icache.filter (fun x => x.lix != lix), launches := c.launches.set lix e }
  let s := s.setCtx k (if zero then c.zeroFill else c)
  s.setTile k ((s.tile k).setSlot (Fin.ofNat 16 j) (some th))

/-- The tiles a launch runs on: the working tiles of the partition, and those of the shadow if it is paired. -/
def State.launchTiles (s : State) (c : Ctx) (l : Launch) : List TileId :=
  let ks := s.dev.tilesIn c.region
  (ks ++ (if l.paired then ks.map (fun k => k + 2 ^ 18) else [])).filter (fun k => !s.isLost k)

/-- A free launch index. -/
def Ctx.freeLix (c : Ctx) : Option Nat := (List.range 16).find? (fun i => (c.launches.get? i).isNone)

/-- The first waiting launch that fits and that no earlier one of its priority or a higher holds back. -/
def State.nextLaunch (s : State) (c : Ctx) (ls : List Launch) (held : Nat) : Option Launch :=
  match ls with
  | [] => none
  | l :: ls =>
    if held ≤ l.prio ∧ s.roomFor (s.launchTiles c l) l.quota then some l else s.nextLaunch c ls (max held (l.prio + 1))

/-- A tile has records bound under another pool configuration, to be evicted first (16 R327). -/
def TileCtx.mustEvict (c : TileCtx) (cfg : Word) : Bool := c.pins.any (fun x => x.2.bound && x.2.cfg != cfg)

/-- Spill writes of a tile are under way, or an eviction is on its way to it. -/
def State.evicting (s : State) (k : TileId) : Bool :=
  let mine (p : Payload) : Bool := match p with
    | .spillOut t _ _ _ _ => t == k
    | .spillAck t _ _ _ => t == k
    | .populate t j _ _ _ _ _ => t == k && j == evictSlot
    | _ => false
  s.agenda.any (fun x => mine x.arg) || (s.tile k).r.out.any (fun p => mine p.arg) || (s.tile k).r.held.any (fun h => mine h.2)

/-- The records that a launch evicts are written before it starts (16 R327): none is left, or those that are go now. -/
def State.evictFor (s : State) (ks : List TileId) (cfg : Word) : State × Bool :=
  if ks.any s.evicting then (s, false)
  else
    let old := ks.filter (fun k => (s.tile k).c.mustEvict cfg)
    (old.foldl (fun s k => s.sendOn memoryPort k 0 (3 * s.dieLinks (clusterOf k) + 1) .population
      (.populate k evictSlot 0 LaunchEntry.reset Thread.reset cfg false)) s, old.isEmpty)

/-- A launch takes its slots on every tile in one pass, and its time limit begins (03 R57, R59). -/
def State.start (s : State) (n : Nat) (c : Ctx) (lix : Nat) (l : Launch) (ks : List TileId) : State :=
  let s := ks.foldl (fun s k => s.populateTile lix l k) s
  let s := s.setCtxRec n { c with
    waiting := c.waiting.filter (fun x => x.lid != l.lid)
    launches := c.launches.set lix { l with lix := lix, populated := true, since := s.now } }
  if l.tlim = 0 then s else s.after (cyclesOf (l.tlim * 1000)) .launchTimeLimit (.nums3 n lix l.lid.toNat)

/-- Waiting launches are populated, one after another. -/
def State.populate (s : State) (n fuel : Nat) : State :=
  match fuel with
  | 0 => s
  | fuel + 1 =>
    match s.dev.ctx? n with
    | none => s
    | some c =>
      if c.res != .resident then s
      else
        match c.freeLix, s.nextLaunch c c.waiting 0 with
        | some lix, some l =>
          let ks := s.launchTiles c l
          if ks.any s.recovering then s
          else
            let x := s.evictFor ks (l.poolcfg.setWidth 64)
            if x.2 then (x.1.start n c lix l ks).populate n fuel else x.1.after 1 .population (.num n)
        | _, _ => s

/-- Third copies whose slots are free start on the shadow region (03 R65). -/
def State.rerun (s : State) (n : Nat) : State :=
  match s.dev.ctx? n with
  | none => s
  | some c =>
    let ks := ((s.dev.tilesIn c.region).map (fun k => k + 2 ^ 18)).filter (fun k => !s.isLost k)
    c.launches.foldl (fun s x =>
      if x.2.rerun && c.res == .resident && !ks.any s.recovering && s.roomFor ks x.2.quota then
        (ks.foldl (fun s k => s.populateTile x.1 x.2 k) s).withLaunch n x.1 (fun l => { l with rerun := false })
      else s) s

/-- POPULATION (03 R57, 05 R384, 16 R327): all or nothing, in the order of acceptance as far as priorities let it; or a context reaches its
tile, or the order to evict. -/
def execPopulation (s : State) : Out :=
  match s.input with
  | .num n => .next ((s.rerun n).populate n 17)
  | .populate k j lix e th cfg zero =>
    .next (if j = evictSlot then (s.note k .population s.input).evict k cfg else s.takeContext k j lix e th cfg zero)
  | _ => .next s

/-! ### The end of a launch (03 R59, R64, R65) -/

/-- An event in flight belongs to a launch. -/
def State.ofLaunch (s : State) (n : Nat) (l : Launch) (p : Payload) : Bool :=
  match p with
  | .migrant k _ th _ => (s.tile k).r.ctx == n && th.launch == l.lid
  | .ended k th => (s.tile k).r.ctx == n && th.launch == l.lid
  | .populate k _ _ e _ _ _ => (s.tile k).r.ctx == n && e.lid == l.lid
  | .stored k x => (s.tile k).r.ctx == n && x.launch == l.lid
  | .xfer _ x => x.ctx == n && x.launch == l.lid
  | .crash _ r ctx => ctx == n && r.lid == l.lid
  | .dropped k _ lid => (s.tile k).r.ctx == n && lid == l.lid
  | .words k (lix :: _ :: _) => (s.tile k).r.ctx == n && lix.toNat == l.lix
  | _ => false

/-- Nothing of a launch is left: threads, home reservations, operations, posted stores, copies that are owed to its signature, or its threads
on their way; and none of its tiles is being recovered. -/
def State.over (s : State) (n : Nat) (l : Launch) : Bool :=
  let ks := (s.tilesOf n).filter (fun k => !s.isLost k)
  ks.all (fun k =>
    let t := s.tile k
    (t.c.threadsOf (BitVec.ofNat 4 l.lix) l.lid).isEmpty && !t.c.resv.any (fun x => x.2.launch == l.lid)
      && !t.c.ops.any (fun o => o.launch == l.lid && o.job != .hold) && !t.c.outq.any (fun p => p.launch == l.lid)
      && !s.recovering k && !t.r.out.any (fun p => s.ofLaunch n l p.arg) && !t.r.held.any (fun h => s.ofLaunch n l h.2))
    && !s.agenda.any (fun x => x.ev != .commandComplete && s.ofLaunch n l x.arg) && (l.abort.isSome || l.owed.isEmpty)

/-- A chain, or a copy's part of one, goes into the signature of the copy of the launch that it ran on (03 R64, R65). -/
def Launch.addSig (l : Launch) (k : TileId) (v : Word) : Launch :=
  if !l.paired then l
  else if !isShadow k then { l with sig := l.sig ^^^ v }
  else match l.thirdSig with
    | some t => { l with thirdSig := some (t ^^^ v) }
    | none => { l with shadowSig := l.shadowSig ^^^ v }

/-- A thread that ended on tile `k` owes a copy to its chain, which folded so many bytes after it: it is paid, or will be (log 21). -/
def Launch.owe (l : Launch) (k : TileId) (x : Nat × Nat × Nat) : Launch :=
  match l.paid.find? (fun p => p.1 == x.1 && p.2.1 == x.2.1) with
  | some p => { l.addSig k (lateFold p.2.2 x.2.2) with paid := l.paid.erase p }
  | none => { l with owed := l.owed ++ [x] }

/-- A copy of tile `k` is complete, and its thread has left. -/
def Launch.pay (l : Launch) (k : TileId) (id : Nat) (crcs : List Nat) : Launch :=
  match l.owed.find? (fun p => p.1 == k && p.2.1 == id) with
  | some p => { l.addSig k (lateFold crcs p.2.2) with owed := l.owed.erase p }
  | none => { l with paid := l.paid ++ [(k, id, crcs)] }

/-- The end of a thread counts for its launch. -/
def Launch.ended (l : Launch) (k : TileId) (th : Thread) : Launch :=
  if th.launch ≠ l.lid then l
  else th.copies.foldl (fun l c => l.owe k (c.1, c.2.1, th.sigLen - c.2.2)) (l.addSig k th.sig)

/-- The first deferred fault in time that a launch's threads have left, on any tile (09 R191). -/
def State.leftFault (s : State) (n : Nat) (lid : BitVec 32) : Option Nat :=
  ((sortBy (fun (a b : Deferred) => decide (a.since ≤ b.since))
    (((s.tilesOf n).flatMap (fun k => (s.tile k).c.deferred)).filter (fun d => d.launch == lid))).head?).map Deferred.code

/-- How a launch that is over completes: status and detail; none when a third copy must run first (03 R59, R65). -/
def Launch.outcome (l : Launch) (fault : Option Nat) : Option (Nat × Nat) :=
  match l.abort, fault with
  | some x, _ => some x
  | none, some code => some (statusFaulted, code)
  | none, none =>
    if !l.paired ∨ (l.thirdSig.isNone ∧ l.sig = l.shadowSig) then some (statusOk, 0)
    else
      match l.thirdSig with
      | none => none
      | some t => some (if t = l.sig then statusKept else if t = l.shadowSig then statusVoid else statusNoMajority, 0)

/-- The launch has ended: it leaves its tiles and its index, and its command completes. -/
def State.closeLaunch (s : State) (n lix : Nat) (l : Launch) (out : Nat × Nat) : State :=
  let s := s.dropAll n lix l.lid
  let s := match s.dev.ctx? n with
    | some c => s.setCtxRec n { c with launches := c.launches.erase lix }
    | none => s
  (s.complete l.slot l.pos out.1 out.2 (l.lid.setWidth 64)).after 1 .population (.num n)

/-- The abort that a third-level trap of cycle `t` orders: FAULTED, with the code of its first cause. Of the records of one cycle that of
the lower LTN and then of the lower slot counts, and a time limit of that cycle gives way (09 R187, R201). -/
def Launch.crashed (l : Launch) (r : CrashRec) (t : Nat) : Launch :=
  let key := (t, r.ltn, r.slot)
  let a := l.abortAt
  let first := l.abort.isNone || (a.1 == t && (l.abort == some (statusTimeLimit, 0)
    || decide (r.ltn < a.2.1) || (r.ltn == a.2.1 && decide (r.slot < a.2.2))))
  if first then { l with abort := some (statusFaulted, r.cause0.toNat % 256), abortAt := key } else l

/-- A crash record reaches the router, and the abort firmware (09 R187 steps 1 and 3). -/
def State.crash (s : State) (cl : Nat) (r : CrashRec) (n : Nat) : State :=
  let s := s.addCrash cl r
  match s.launch? n r.lix with
  | none => s
  | some l =>
    if l.lid ≠ r.lid then s
    else
      let y := l.crashed r (s.now - 1)
      (s.withLaunch n r.lix (fun _ => y)).stopLaunch n r.lix l.lid (y.abort.getD (0, 0))

/-- LAUNCH_END (03 R59, R64, R65, 09 R187): firmware looks whether a launch is over; a thread has ended, a copy that a thread left is complete,
a third-level trap aborts the launch; or the launch leaves a tile. -/
def execLaunchEnd (s : State) : Out :=
  match s.input with
  | .nums n lix =>
    match s.launch? n lix with
    | none => .next s
    | some l =>
      if !l.populated ∨ (l.rerun && l.abort.isNone) ∨ !s.over n l then .next s
      else
        match l.outcome (s.leftFault n l.lid) with
        | none => .next ((s.withLaunch n lix (fun l => { l with thirdSig := some 0, rerun := true })).after 1 .population (.num n))
        | some x => .next (s.closeLaunch n lix l x)
  | .ended k th =>
    let n := (s.tile k).r.ctx
    .next ((s.withLaunch n th.lix.toNat (fun l => l.ended k th)).lookAt n th.lix.toNat)
  | .words k (lix :: id :: crcs) =>
    let n := (s.tile k).r.ctx
    .next ((s.withLaunch n lix.toNat (fun l => l.pay k id.toNat (crcs.map BitVec.toNat))).lookAt n lix.toNat)
  | .crash cl r n => .next (s.crash cl r n)
  | .dropped k lix launch => .next (s.dropOn k lix launch)
  | _ => .next s

/-- LAUNCH_TIME_LIMIT (03 R59): the limit counts while the partition is resident. -/
def execLaunchTimeLimit (s : State) : Out :=
  match s.input with
  | .nums3 n lix lid =>
    match s.dev.ctx? n, s.launch? n lix with
    | some c, some l =>
      if c.res != .resident ∨ l.lid.toNat ≠ lid ∨ l.abort.isSome ∨ l.elapsed + (s.now - l.since) < cyclesOf (l.tlim * 1000) then .next s
      else .next ((s.withLaunch n lix (fun l => { l with abortAt := (s.now, 0, 0) })).stopLaunch n lix l.lid (statusTimeLimit, 0))
    | _, _ => .next s
  | _ => .next s

end Sys2Proof.Machine
end

