-- ==== Sys2Proof/Machine/Links.lean ====
section
/-!
DEFINITION. The Tolpen links: inbound windows, the DMA window table, span peer tables and configuration space (02 R24 to R28, R30,
03 R45).
-/
namespace Sys2Proof.Machine

/-! ### Inbound windows (02 R27) -/

/-- An access lies inside a window. One that straddles its edge counts as outside: DESIGN CHOICE (log 35), the spec does not say. -/
def InWindow.has (w : InWindow) (addr n : Nat) : Bool := w.v && decide (w.base ≤ addr) && decide (addr + n ≤ w.base + 2 ^ w.log)

/-- The cellar address of a host access; none outside every valid window, or before firmware answers (01 R23). Of valid windows that overlap
the lowest-numbered counts: DESIGN CHOICE (log 35), the spec names no winner. -/
def Device.inbound (d : Device) (link addr n : Nat) : Option Nat :=
  if d.boot != .ready && d.boot != .waitHost then none
  else
    ((List.range 16).findSome? (fun i => (d.windows.get? (link * 16 + i)).bind (fun w =>
      if w.has addr n then some (w.target + (addr - w.base)) else none)))

/-- The link's inbound-miss status bit is set. -/
def State.missed (s : State) (link : Nat) : State := { s with dev := { s.dev with missed := setAdd s.dev.missed link } }

/-! ### Configuration space as it reads (02 R24 to R26) -/

def fieldAt (w : Word) (lo : Nat) : Word := w <<< lo

def flagAt (b : Bool) (lo : Nat) : Word := if b then 1#64 <<< lo else 0

/-- The doublewords of a table entry, as the host wrote them less reserved bits (02 R28, R35). -/
def DmaEntry.words (e : DmaEntry) : List Word :=
  [flagAt e.v 0 ||| flagAt e.rd 1 ||| flagAt e.wr 2 ||| fieldAt (BitVec.ofNat 64 e.ctx) 16, BitVec.ofNat 64 e.devBase,
    BitVec.ofNat 64 e.hostBase, BitVec.ofNat 64 e.pages]

def PeerEntry.words (e : PeerEntry) : List Word :=
  [flagAt e.v 0 ||| flagAt e.cp 1 ||| flagAt e.ch 2 ||| fieldAt (BitVec.ofNat 64 e.port) 8 ||| fieldAt (BitVec.ofNat 64 e.ptag) 16
      ||| fieldAt (BitVec.ofNat 64 e.dev) 32, BitVec.ofNat 64 e.rate]

def DmaEntry.reset : DmaEntry := { v := false, rd := false, wr := false, ctx := 0, devBase := 0, hostBase := 0, pages := 0 }
def PeerEntry.reset : PeerEntry := { v := false, cp := false, ch := false, port := 0, ptag := 0, dev := 0, rate := 0 }
def InWindow.reset : InWindow := { v := false, base := 0, log := 12, target := 0 }

def InWindow.words (w : InWindow) : List Word :=
  [flagAt w.v 0 ||| fieldAt (BitVec.ofNat 64 w.log) 8, BitVec.ofNat 64 w.base, BitVec.ofNat 64 w.target, 0]

/-- The words of the queue slot map register of a slot: the record's address, the map bit, the map status (03 R48, R50). -/
def Queue.words (x : Queue) : List Word := [x.record, flagAt x.mapped 0, BitVec.ofNat 64 x.reason, 0]

def Boot.code (b : Boot) : Nat :=
  match b with
  | .off => 0
  | .halted => 1
  | .recovery => 2
  | .waitHost => 3
  | .ready => 4

/-- The doubleword with index `i` of the 4 KiB of boot and device status; R26 names what it holds, the places are the model's (log 35). -/
def State.statusWord (s : State) (i : Nat) : Word :=
  let d := s.dev
  match i with
  | 0 => BitVec.ofNat 64 d.boot.code ||| flagAt (d.missed.contains 0) 8 ||| flagAt (d.missed.contains 1) 9
  | 1 => BitVec.ofNat 64 s.capacity
  | 2 => d.refusals.setWidth 64
  | 3 => BitVec.ofNat 64 d.reserve
  | 4 => BitVec.ofNat 64 d.root0
  | 5 => BitVec.ofNat 64 d.correctedErrors
  | 6 => BitVec.ofNat 64 d.crashLost
  | 7 => BitVec.ofNat 64 d.shadowDiscards
  | 8 => BitVec.ofNat 64 (d.fuses.spares.map (fun p => 2 ^ p)).sum
  | 9 => BitVec.ofNat 64 ((d.fuses.spares.map (fun p => 2 ^ p)).sum / 2 ^ 64)
  | 10 => BitVec.ofNat 64 ((d.fuses.spares.map (fun p => 2 ^ p)).sum / 2 ^ 128)
  | 11 => BitVec.ofNat 64 (64 * (40 - d.lostStacks.length)) ||| fieldAt (BitVec.ofNat 64 (d.lostStacks.map (fun n => 2 ^ n)).sum) 16
  | 12 => BitVec.ofNat 64 d.parkedReports.length
  | 13 => BitVec.ofNat 64 d.staged.1
  | 14 => BitVec.ofNat 64 d.staged.2
  | _ =>
    if 64 ≤ i ∧ i < 128 then
      let p := d.port (i - 64)
      BitVec.ofNat 64 p.lanes ||| flagAt p.up 8 ||| fieldAt (BitVec.ofNat 64 p.downAt) 16
    else if 128 ≤ i ∧ i < 192 then
      let p := d.port (i - 128)
      BitVec.ofNat 64 (p.rejects % 2 ^ 32) ||| fieldAt (BitVec.ofNat 64 p.discards) 32
    else if 256 ≤ i then BitVec.ofNat 64 (d.parkedReports.getD (i - 256) 0)
    else 0

/-- The doubleword at an offset of a link's configuration space, as the host reads it, and firmware through the control die (02 R25, R26). A
module that is absent reads as all ones (01 R23 step 1, log 35). -/
def State.configRead (s : State) (link off : Nat) : Word :=
  let i := off / 8
  let d := s.dev
  if d.boot = .off then BitVec.allOnes 64
  else if off < 0x1000 then s.statusWord i
  else if off < 0x1800 then (s.queue ((off - 0x1000) / 32)).words.getD (i % 4) 0
  else if off < 0x1A00 then ((d.windows.get? (link * 16 + (off - 0x1800) / 32)).getD InWindow.reset).words.getD (i % 4) 0
  else if off < 0x1A08 then BitVec.ofNat 64 d.peerSelect
  else if off < 0x1A10 then
    flagAt (d.peers.get? d.peerSelect).isSome 0 ||| flagAt d.peerDiscard 1 ||| fieldAt (BitVec.ofNat 64 d.peers.length) 2
  else if off < 0x4000 then 0
  else if off < 0x5000 then
    ((((d.peers.get? d.peerSelect).getD []).get? ((off - 0x4000) / 16)).getD PeerEntry.reset).words.getD (i % 2) 0
  else if off < 0x8000 then 0
  else if off < 0x10000 then ((d.dma.get? ((off - 0x8000) / 32)).getD DmaEntry.reset).words.getD (i % 4) 0
  else 0

/-- HOST_INBOUND_READ (02 R26, R27): the bytes go back to the host, all ones outside every window; with a link and an offset alone, the
doubleword there of configuration space. -/
def execHostInboundRead (s : State) : Out :=
  match s.input with
  | .nums3 link addr n =>
    let x := match s.dev.inbound link addr n with
      | some a => (s, s.cellar.bytes a n)
      | none => (s.missed link, List.replicate n 0xFF)
    .next { x.1 with dev := { x.1.dev with hostReads := x.1.dev.hostReads ++ [x.2] } }
  | .nums link off =>
    .next { s with dev := { s.dev with hostReads := s.dev.hostReads ++ [leBytes 8 (s.configRead link off).toNat] } }
  | _ => .next s

/-- HOST_INBOUND_WRITE (02 R27). -/
def execHostInboundWrite (s : State) : Out :=
  match s.input with
  | .data link addr bs =>
    match s.dev.inbound link addr bs.length with
    | some a => .next (s.cellarWrite a bs)
    | none => .next (s.missed link)
  | _ => .next s

/-! ### Tables of the host (02 R25, R26, R28, R30, R35) -/

/-- The tables the host must write are written (01 R23 step 8): one entry in each of the two, DESIGN CHOICE (log 35), the spec does not say when
the step counts as done. -/
def State.hostWrote (s : State) : State :=
  if s.dev.boot == .waitHost && s.dev.dmaWritten && s.dev.peersWritten then s.after 1 .bootReady .none else s

/-- An entry as its four doublewords lay it out (02 R28). -/
def DmaEntry.ofWords (ws : List Word) : DmaEntry :=
  let w (i : Nat) : Word := ws.getD i 0
  { v := (w 0).getLsbD 0, rd := (w 0).getLsbD 1, wr := (w 0).getLsbD 2, ctx := bitsOf (w 0) 16 16
    devBase := bitsOf (w 1) 12 36 * 4096, hostBase := bitsOf (w 2) 12 52 * 4096, pages := bitsOf (w 3) 0 32 }

/-- The host has written an entry of the DMA window table, which holds for every access that arrives from now on (02 R30). -/
def State.putDma (s : State) (i : Nat) (ws : List Word) : State :=
  if 1024 ≤ i then s
  else State.hostWrote { s with dev := { s.dev with dma := s.dev.dma.set i (DmaEntry.ofWords ws), dmaWritten := true } }

/-- DMA_WINDOW_WRITE (02 R28, R30). -/
def execDmaWindowWrite (s : State) : Out :=
  match s.input with
  | .words i ws => .next (s.putDma i ws)
  | _ => .next s

/-- A peer entry as its two doublewords lay it out (02 R35). -/
def PeerEntry.ofWords (ws : List Word) : PeerEntry :=
  let lo := ws.getD 0 0
  { v := lo.getLsbD 0, cp := lo.getLsbD 1, ch := lo.getLsbD 2, port := bitsOf lo 8 6, ptag := bitsOf lo 16 16
    dev := bitsOf lo 32 32, rate := bitsOf (ws.getD 1 0) 0 16 }

/-- The host has written an entry of the selected context's peer table. A context without a table gets one with its first valid entry; while
1,024 tables are in use the write is discarded, and the status says so of the last write (02 R26). -/
def State.putPeer (s : State) (p : Nat) (ws : List Word) : State :=
  let e := PeerEntry.ofWords ws
  let put (t : Table PeerEntry) : State :=
    State.hostWrote { s with dev := { s.dev with
      peers := s.dev.peers.set s.dev.peerSelect (t.set p e), peerDiscard := false, peersWritten := true } }
  if 256 ≤ p then s
  else
    match s.dev.peers.get? s.dev.peerSelect with
    | some t => put t
    | none =>
      if !e.v then State.hostWrote { s with dev := { s.dev with peerDiscard := false, peersWritten := true } }
      else if 1024 ≤ s.dev.peers.length then { s with dev := { s.dev with peerDiscard := true } }
      else put []

/-- PEER_TABLE_WRITE (02 R26). -/
def execPeerTableWrite (s : State) : Out :=
  match s.input with
  | .words p ws => .next (s.putPeer p ws)
  | _ => .next s

/-- FIRMWARE_TABLE_WRITE (02 R25): discarded and counted, saturating. -/
def execFirmwareTableWrite (s : State) : Out :=
  .next { s with dev := { s.dev with
    refusals := if s.dev.refusals = BitVec.allOnes 32 then s.dev.refusals else s.dev.refusals + 1 } }

/-- An inbound window: a power of two from 4 KiB to 64 GiB, its base and target aligned to it (02 R27, log 35). -/
def InWindow.ofWords (v base log target : Nat) : InWindow :=
  let n := max 12 (min 36 log)
  { v := v % 2 == 1, base := base / 2 ^ n * 2 ^ n, log := n, target := target / 2 ^ n * 2 ^ n }

/-- An inbound window register of a link takes its values. -/
def State.putWindow (s : State) (link i v base log target : Nat) : State :=
  if 2 ≤ link ∨ 16 ≤ i then s
  else { s with dev := { s.dev with windows := s.dev.windows.set (link * 16 + i) (InWindow.ofWords v base log target) } }

/-- A doubleword written into the boot and device status: 0 the inbound-miss bits, W1C; 2 the refusal counter, W1C; 3 the spare reserve (05
R111); 4 the context-0 translation root (03 R47); 13 and 14 where in the cellar an image for the next boot is staged, and its length (03 R44);
the rest is read only (log 35). -/
def State.putStatus (s : State) (i : Nat) (w : Word) : State :=
  match i with
  | 0 => { s with dev := { s.dev with missed := s.dev.missed.filter (fun l => !w.getLsbD (8 + l)) } }
  | 2 => { s with dev := { s.dev with refusals := s.dev.refusals &&& ~~~(w.setWidth 32) } }
  | 3 => { s with dev := { s.dev with reserve := min w.toNat 4096 } }
  | 4 => { s with dev := { s.dev with root0 := bitsOf w 12 36 * 4096 } }
  | 13 => { s with dev := { s.dev with staged := (w.toNat, s.dev.staged.2) } }
  | 14 => { s with dev := { s.dev with staged := (s.dev.staged.1, w.toNat) } }
  | _ => s

/-- The map register of a slot: the address of a record while it is not mapped; its map bit maps or unmaps (03 R48, R53). -/
def State.putQueueWord (s : State) (q i : Nat) (w : Word) : State :=
  let x := s.queue q
  match i with
  | 0 => if x.mapped then s else s.setQueue q { x with record := w }
  | 1 =>
    if w.getLsbD 0 && !x.mapped then s.after 0 .queueMap (.words q [x.record])
    else if !w.getLsbD 0 && x.mapped then s.after 0 .queueUnmap (.num q)
    else s
  | _ => s

/-- The host writes the doubleword at an offset of a link's configuration space (02 R25, R26). -/
def State.configWrite (s : State) (link off : Nat) (w : Word) : State :=
  let i := off / 8
  let d := s.dev
  let put (ws : List Word) (n : Nat) : List Word := ws.set (i % n) w
  if d.boot = .off then s
  else if off < 0x1000 then s.putStatus i w
  else if off < 0x1800 then s.putQueueWord ((off - 0x1000) / 32) (i % 4) w
  else if off < 0x1A00 then
    let n := (off - 0x1800) / 32
    let ws := put ((d.windows.get? (link * 16 + n)).getD InWindow.reset).words 4
    s.putWindow link n (bitsOf (ws.getD 0 0) 0 1) (ws.getD 1 0).toNat (bitsOf (ws.getD 0 0) 8 6) (ws.getD 2 0).toNat
  else if off < 0x1A08 then { s with dev := { d with peerSelect := bitsOf w 0 16 } }
  else if off < 0x4000 then s
  else if off < 0x5000 then
    let n := (off - 0x4000) / 16
    s.putPeer n (put ((((d.peers.get? d.peerSelect).getD []).get? n).getD PeerEntry.reset).words 2)
  else if off < 0x8000 then s
  else if off < 0x10000 then
    let n := (off - 0x8000) / 32
    s.putDma n (put ((d.dma.get? n).getD DmaEntry.reset).words 4)
  else s

/-- CONFIG_WRITE (02 R25, R26): register 0 an inbound window of a link, 1 the peer table select, 2 the spare reserve (05 R111), 3
the context-0 translation root (03 R47), 4 the refusal counter, W1C, by number; 5 a doubleword by link and offset. -/
def execConfigWrite (s : State) : Out :=
  match s.input with
  | .words 0 [link, i, v, base, log, target] => .next (s.putWindow link.toNat i.toNat v.toNat base.toNat log.toNat target.toNat)
  | .words 1 [w] => .next { s with dev := { s.dev with peerSelect := bitsOf w 0 16 } }
  | .words 2 [w] => .next (s.putStatus 3 w)
  | .words 3 [w] => .next (s.putStatus 4 w)
  | .words 4 [w] => .next (s.putStatus 2 w)
  | .words 5 [link, off, w] => .next (s.configWrite link.toNat off.toNat w)
  | _ => .next s

end Sys2Proof.Machine
end

