-- ==== Sys2Proof/Machine/Power.lean ====
section
/-!
DEFINITION. Boot, control intervals, thresholds, slot masking, residency and telemetry (01 R10 to R23, 03 R44, 05 R110).
-/
namespace Sys2Proof.Machine

def State.setChiplet (s : State) (c : Nat) (x : Chiplet) : State := { s with chiplets := s.chiplets.set c x }

/-! ### Boot (01 R23, 03 R44) -/

/-- The physical slots of a cluster that fail fill up with its spares; a position without one is lost (01 R23 step 6). -/
def slotMapFor (failed : List Nat) : Table SlotMap :=
  let bad := (List.range 32).filter failed.contains
  let spares := [32, 33].filter (fun p => !failed.contains p)
  (List.range bad.length).map (fun i => (bad.getD i 0, match spares[i]? with
    | some p => { pslot := p, v := true, lost := false }
    | none => { pslot := bad.getD i 0, v := true, lost := true }))

/-- Every position of a cluster is lost. -/
def lostCluster : Table SlotMap := (List.range 32).map (fun i => (i, { pslot := i, v := true, lost := true }))

/-- A failure the boot finds: bits [63:56] its kind, 1 a stack, 2 a router (logical cluster), 3 a tile (logical cluster in [15:0],
physical slot in [23:16]), 4 a physical chiplet, 5 a span port with lanes in [15:8]; 6 that step 1 has failed. -/
def State.bootFailure (s : State) (w : Word) : State :=
  let a := bitsOf w 0 16
  match bitsOf w 56 8 with
  | 1 => { s with dev := { s.dev with lostStacks := setAdd s.dev.lostStacks (a % 64) } }
  | 2 => s.setCluster a { s.cluster a with slotMap := lostCluster }
  | 3 =>
    let failed := setAdd (s.cluster a).failed (bitsOf w 16 8)
    s.setCluster a { s.cluster a with failed := failed, slotMap := slotMapFor failed }
  | 4 =>
    let s := s.setChiplet a { s.chiplet a with powered := false, lost := true }
    let l := s.dev.logical a
    let used (p : Nat) : Bool := s.dev.chipMap.any (fun e => decide (e.1 < 128) && e.2.pslot == p)
    match s.dev.fuses.spares.find? (fun p => !(s.chiplet p).lost && !used p) with
    | some p =>
      let s := (s.setChiplet p { s.chiplet p with powered := true }).setDark p false
      { s with dev := { s.dev with chipMap := s.dev.chipMap.set l { pslot := p, v := true, lost := false } } }
    | none => (List.range 64).foldl (fun s i => s.setCluster (l * 64 + i) { s.cluster (l * 64 + i) with slotMap := lostCluster }) s
  | 5 => s.setPort (a % 256) { s.dev.port (a % 256) with lanes := a / 256, up := a / 256 != 0 }
  | _ => s

/-- An event that comes from outside the module or is decided by its firmware, and not by what the module did before (log 5). -/
def fromOutside (x : Timed) : Bool :=
  match x.ev, x.arg with
  | .hostInboundRead, _ => true
  | .hostInboundWrite, _ => true
  | .dmaWindowWrite, _ => true
  | .peerTableWrite, _ => true
  | .firmwareTableWrite, _ => true
  | .configWrite, _ => true
  | .queueMap, _ => true
  | .queueUnmap, _ => true
  | .watchedLineInvalidate, _ => true
  | .spanChunkReceive, .data _ _ _ => true
  | .spanRoundAbortReceive, .data _ _ _ => true
  | .spanProbeReceive, _ => true
  | .spanCopyAckReceive, .data _ _ _ => true
  | .spanCopyDataReceive, _ => true
  | .thermalThrottle, _ => true
  | .throttleRelease, _ => true
  | .emergencySave, _ => true
  | .hardTrip, _ => true
  | .currentLimitTrip, _ => true
  | .powerLoss, _ => true
  | .errorDetect, _ => true
  | .correctedError, _ => true
  | .cellarPoison, _ => true
  | .linkResend, _ => true
  | .firmwareRegisterWrite, _ => true
  | .plannedMigration, _ => true
  | .boot, _ => true
  | _, _ => false

/-- BOOT (01 R23 steps 1 to 7): fuses, the firmware image, one that the host has staged in the cellar first, and its signatures (03 R44), a zero
cellar, the chiplet map, chiplets, slot maps and ports; what the tests find comes with the event. What comes from outside later still comes. -/
def execBoot (s : State) : Out :=
  let image := if s.dev.staged.2 = 0 then s.dev.image else s.cellar.bytes s.dev.staged.1 s.dev.staged.2
  let d := { Device.reset with fuses := s.dev.fuses, image := image }
  let s0 := { State.reset with
    now := s.now, free := s.free, tok := s.tok, input := s.input, host := s.host, agenda := s.agenda.filter fromOutside, dev := d }
  let absent := match s.input with | .words _ ws => ws.any (fun w => bitsOf w 56 8 == 6) | _ => false
  let ok := Config.verifies d.fuses.keyDigests.1 0 d.image && Config.verifies d.fuses.keyDigests.2 1 d.image
  if absent then .next s0
  else if !d.fuses.ok then .next { s0 with dev := { d with boot := .halted } }
  else if !ok then .next { s0 with dev := { d with boot := .recovery } }
  else
    let active := (List.range 136).filter (fun c => !d.fuses.spares.contains c)
    let chips : Table Chiplet := (List.range 136).map (fun c =>
      (c, { Chiplet.reset with powered := !d.fuses.spares.contains c, spare := d.fuses.spares.contains c }))
    let map : Table SlotMap := (List.range active.length).map (fun i => (i, { pslot := active.getD i 0, v := true, lost := false }))
      ++ (List.range (136 - active.length)).map (fun i => (128 + i, { pslot := d.fuses.spares.getD i 0, v := true, lost := true }))
    let ports : Table SpanPort := (List.range 64).map (fun p => (p, { SpanPort.reset with up := true, lastRx := s.now, lastTx := s.now }))
    let s1 := { s0 with chiplets := chips, dev := { d with boot := .waitHost, chipMap := map, ports := ports } }
    let s2 := match s.input with
      | .words _ ws => ws.foldl State.bootFailure s1
      | _ => s1
    let s3 := (List.range 64).foldl (fun s p => (s.after 25000 .spanProbe (.num p)).after 2500000 .spanPortDown (.num p)) s2
    .next (s3.after 25000 .controlInterval .none)

/-- BOOT_READY (01 R23 step 9): queue mappings are accepted, and telemetry runs. -/
def execBootReady (s : State) : Out :=
  if s.dev.boot != .waitHost ∨ !s.dev.dmaWritten ∨ !s.dev.peersWritten then .next s
  else .next ({ s with dev := { s.dev with boot := .ready } }.after 250000 .telemetrySample .none)

/-! ### Control intervals (01 R12, R16, R17) -/

/-- The lowest operating point asked for, and the largest mask count. -/
def Chiplet.lowest (x : Chiplet) : Nat := max x.thermal.point (max x.current.point x.firmware.point)
def Chiplet.maskCount (x : Chiplet) : Nat := max x.thermal.mask (max x.current.mask x.firmware.mask)

/-- One operating point below the one in force; below boost lies the nominal one. -/
def Chiplet.lower (x : Chiplet) : Nat := if x.boost then 0 else min 10 (x.point + 1)

/-- A chiplet at the boundary of a control interval: thermal control asks for one point lower while its throttle is asserted and for nothing
afterwards, the current limiter until the current has been below the limit for an interval (log 36); boost is void in an interval in which
a throttle asserted. -/
def Chiplet.interval (x : Chiplet) : Chiplet :=
  let x := { x with
    thermal := { x.thermal with point := if x.throttle then x.lower else 0 }
    current := if x.ilim then { x.current with point := x.lower } else { point := 0, mask := 0 } }
  { x with
    boost := x.boostReq && x.boostOn && !x.throttle && !x.ilim && x.lowest == 0
    point := x.lowest
    runs := if x.throttled then x.runs + 1 else 0
    throttled := x.throttle, ilim := false, mask := x.maskCount }

/-- A mask count goes to every tile of a chiplet (01 R19). It takes 3 cycles a link: DESIGN CHOICE (log 36), the spec gives only 2 µs as a
limit. -/
def State.sendMask (s : State) (c m : Nat) : State :=
  (s.everyTileOf c).foldl (fun s k =>
    let s := s.listTile k
    s.sendOn memoryPort k 0 (3 * s.dieLinks (clusterOf k)) .maskChange (.tileNum k m)) s

/-- A chiplet changes its operating point within 1 µs; its tiles take no turn until then (01 R12). -/
def State.changePoint (s : State) (c : Nat) : State :=
  let s := { s.setChiplet c { s.chiplet c with changing := true } with turns := s.turns.filter (fun k => s.chipOf k != c) }
  (s.after (1 + Config.memLatency s.free % 2500) .operatingPointSettled (.num c)).draw

/-- One chiplet at the boundary: a new point settles within 1 µs, a new mask count goes out. -/
def State.intervalOf (s : State) (c : Nat) : State :=
  let x := s.chiplet c
  let y := x.interval
  let moved := y.point != x.point || y.boost != x.boost
  let s := s.setChiplet c y
  let s := if moved then s.changePoint c else s
  if y.mask = x.mask then s else s.sendMask c y.mask

/-- CONTROL_INTERVAL (01 R17): every 10 µs. -/
def execControlInterval (s : State) : Out :=
  .next (((s.chiplets.filter (fun x => x.2.powered)).foldl (fun s x => s.intervalOf x.1) s).after 25000 .controlInterval .none)

/-- OPERATING_POINT_SETTLED (01 R12): the chiplet issues again. -/
def execOperatingPointSettled (s : State) : Out :=
  match s.input with
  | .num c =>
    let s := s.setChiplet c { s.chiplet c with changing := false }
    .next ((s.tilesOfChip c).foldl State.joinTurns s)
  | _ => .next s

/-- THERMAL_THROTTLE (01 R16, R17): a die temperature, in sixteenths of a degree, at the threshold or above. A boost of the interval is void
from here on (log 36). -/
def execThermalThrottle (s : State) : Out :=
  match s.input with
  | .reading c v =>
    let x := s.chiplet c
    let s' := s.setChiplet c { x with throttle := true, throttled := true, sampleThr := true, boost := false }
    .next (if v < x.thThrottle then s else if x.boost then s'.changePoint c else s')
  | _ => .next s

/-- THROTTLE_RELEASE (01 R16): below 100 °C. -/
def execThrottleRelease (s : State) : Out :=
  match s.input with
  | .reading c v => .next (if v < 1600 then s.setChiplet c { s.chiplet c with throttle := false } else s)
  | _ => .next s

/-- EMERGENCY_SAVE (05 R110): every tile of the chiplet requests a boundary. -/
def execEmergencySave (s : State) : Out :=
  match s.input with
  | .reading c v =>
    .next (if v < (s.chiplet c).thSave then s
      else (s.everyTileOf c).foldl (fun s k => (s.listTile k).orderBoundary k 2) s)
  | _ => .next s

/-- HARD_TRIP (01 R16, R18): at the threshold the power goes, and an unfinished save with it. -/
def execHardTrip (s : State) : Out :=
  match s.input with
  | .reading c v => .next (if v < (s.chiplet c).thTrip then s else s.cutPower c)
  | _ => .next s

/-- CURRENT_LIMIT_TRIP (01 R16, R17): a current, in tenths of an ampere, above the limit; the limiter's mask count, which the spec
does not give (log 30), applies within 2 µs, and the point follows at the boundary. A current at the limit trips nothing, but is not
below it. -/
def execCurrentLimitTrip (s : State) : Out :=
  match s.input with
  | .nums c amps =>
    let x := s.chiplet c
    if amps < x.thCurrent then .next s
    else if amps = x.thCurrent then .next (if x.current = { point := 0, mask := 0 } then s else s.setChiplet c { x with ilim := true })
    else
      let m := 1 + Config.choice s.free % 15
      let x := { x with ilim := true, sampleIlim := true, current := { x.current with mask := max x.current.mask m } }
      let s := (s.setChiplet c { x with mask := x.maskCount }).draw
      .next (s.sendMask c x.maskCount)
  | _ => .next s

/-! ### Slot masking (01 R19, R20) -/

/-- MASK_CHANGE (01 R19): logged MASK, then in force; residency steps count from here, and one due in this cycle still
happens (06 R141). Slots it frees take waiting guests. -/
def execMaskChange (s : State) : Out :=
  match s.input with
  | .tileNum k m =>
    let m := min m 15
    let s := s.log k kMask 0 8 .maskChange s.input (BitVec.ofNat 64 m)
    let s := s.setRouter k { (s.tile k).r with mask := m }
    let s := { s with agenda := s.agenda.filter (fun (y : Timed) => !(y.ev == Instr.residencyStep && y.arg == Payload.tile k && decide (s.now < y.due))) }
    let s := s.refill k 16
    .next (if m = 0 then s else s.after 65536 .residencyStep (.tile k))
  | _ => .next s

/-- Threads that wait in masked slots, longest first; one that has begun to wait in this cycle last (01 R20). -/
def Tile.waiting (t : Tile) : List (Fin 16 × Thread) :=
  sortBy (fun a b => b.2.waits == 0 || (a.2.waits != 0 && decide (a.2.waits ≤ b.2.waits)))
    ((List.finRange 16).filterMap (fun j => match t.slot j with
      | some th => if !t.unmasked j && th.park.isNone then some (j, th) else none
      | none => none))

/-- Unmasked slots without a parked thread, and their threads. -/
def Tile.movable (t : Tile) : List (Fin 16) :=
  (List.finRange 16).filter (fun j => t.unmasked j && (match t.slot j with | some th => th.park.isNone | none => true))

/-- A waiting thread and what stands in an unmasked slot change places. -/
def Tile.swapSlots (t : Tile) (w u : Fin 16) : Tile :=
  let fresh (o : Option Thread) : Option Thread := o.map (fun th => { th with waits := 0 })
  (t.setSlot u (fresh (t.slot w))).setSlot w (fresh (t.slot u))

/-- The exchange of a residency step: waiting threads, the longest-waiting first, take the lowest-numbered unmasked slots, and the threads
of those take theirs. -/
def Tile.exchange (t : Tile) : Tile := ((t.waiting.map Prod.fst).zip t.movable).foldl (fun t x => t.swapSlots x.1 x.2) t

/-- RESIDENCY_STEP (01 R20). -/
def execResidencyStep (s : State) : Out :=
  match s.input with
  | .tile k =>
    let later := s.agenda.any (fun (y : Timed) => y.ev == Instr.residencyStep && y.arg == Payload.tile k && decide (s.now < y.due))
    if (s.tile k).r.mask = 0 then .next s
    else
      let s := s.setTile k (s.tile k).exchange
      .next (if later then s else s.after 65536 .residencyStep (.tile k))
  | _ => .next s

/-! ### Telemetry (01 R21, R22) -/

/-- The frequency of a chiplet in MHz (01 R12). -/
def Chiplet.mhz (x : Chiplet) : Nat := if x.boost then 2750 else 2500 - 125 * x.point

/-- An emergency save that is not committed on some tile of the chiplet. -/
def State.saving (s : State) (c : Nat) : Bool := (s.tilesOfChip c).any (fun k => (s.tile k).r.saving != 0)

/-- A sample, after one that was dropped or not; the readings of the supply, the die and the energy meter are free values (log 6). -/
def State.sampleBytes (s : State) (c : Nat) (lost : Bool) : List Byte :=
  let x := s.chiplet c
  let r (i n : Nat) : List Byte := (List.range n).map (fun j => Config.byte (s.free + i + j))
  let flag (b : Bool) (i : Nat) : Nat := if b then 2 ^ i else 0
  let body := leBytes 8 s.ns ++ leBytes 1 c
    ++ leBytes 1 (flag (x.sampleThr || x.throttle) 0 + flag x.sampleIlim 1 + flag x.boost 2 + flag (s.saving c) 3 + flag lost 4)
    ++ leBytes 2 x.mask ++ r 0 6 ++ leBytes 2 x.mhz ++ leBytes 4 x.seq ++ r 6 4
  body ++ leBytes 4 (crc32c body).toNat

/-- The sample of a chiplet for a context: written at the producer's place, or dropped if the ring is full (01 R22). -/
def State.sampleFor (s : State) (n : Nat) (c : Nat) : State :=
  match s.dev.ctx? n with
  | none => s
  | some y =>
    let r := s.fwRead 0 (y.record + 40) 16
    let prod := (wordAt r.2 0).toNat
    let full := decide (2 ^ y.tlog ≤ (wordAt r.2 0 - wordAt r.2 1).toNat)
    if r.1 ≠ 0 ∨ full then s.setCtxRec n { y with dropped := setAdd y.dropped c }
    else
      let bs := s.sampleBytes c (y.dropped.contains c)
      let s := { s.cellarWrite (y.tbase + 32 * (prod % 2 ^ y.tlog)) bs with free := s.free + 10 }
      let s := (s.fwWrite 0 (y.record + 40) (leBytes 8 (prod + 1))).1
      s.setCtxRec n { y with dropped := setDel y.dropped c }

/-- Chiplets that hold tiles of a context's partition. -/
def State.chipsOf (s : State) (n : Nat) : List Nat := ((s.tilesOf n).map s.chipOf).dedup

/-- TELEMETRY_SAMPLE (01 R21, R22): every 100 µs. -/
def execTelemetrySample (s : State) : Out :=
  let ns := (s.dev.contexts.filter (fun x => x.2.holds)).map Prod.fst
  let s := ns.foldl (fun s n => (s.chipsOf n).foldl (fun s c => s.sampleFor n c) s) s
  let cs := (ns.flatMap s.chipsOf).dedup
  let s := cs.foldl (fun s c =>
    let x := s.chiplet c
    s.setChiplet c { x with seq := (x.seq + 1) % 2 ^ 32, sampleThr := false, sampleIlim := false }) s
  .next (s.after 250000 .telemetrySample .none)

/-! ### Firmware registers (01 R16, 05 R91, R93, 06 R140) -/

/-- FIRMWARE_REGISTER_WRITE: register 0 the throttle, 1 the save and 2 the current threshold of a chiplet, 8 that of the hard trip, never above
the fused value; 3 wdlimit of a cluster; 4 ivlen of a tile, which its router notes beside the log, and which counts for the interval that
runs; 5 coldefer in ns; 6 boost enable and request of a chiplet; 7 the point and mask count firmware asks for. Values clamp to their
ranges. -/
def execFirmwareRegisterWrite (s : State) : Out :=
  match s.input with
  | .words 0 [c, v] => .next (s.setChiplet c.toNat { s.chiplet c.toNat with thThrottle := min v.toNat 1680 })
  | .words 1 [c, v] => .next (s.setChiplet c.toNat { s.chiplet c.toNat with thSave := min v.toNat 1840 })
  | .words 2 [c, v] => .next (s.setChiplet c.toNat { s.chiplet c.toNat with thCurrent := min v.toNat 4200 })
  | .words 3 [cl, v] => .next (s.setCluster cl.toNat { s.cluster cl.toNat with wdlimit := max 0x1000 (min v.toNat 0x1000000) })
  | .words 4 [k, v] =>
    let k := k.toNat
    let n := max 0x10000 (min v.toNat 0x80000000)
    let s := (s.listTile k).note k .firmwareRegisterWrite s.input
    let s := s.setCtx k { (s.tile k).c with ivlen := BitVec.ofNat 32 n }
    let r := (s.tile k).r
    .next (s.after (n - (r.cyc - r.base)) .ivlenExpire (.tileNum k r.base))
  | .words 8 [c, v] => .next (s.setChiplet c.toNat { s.chiplet c.toNat with thTrip := min v.toNat 2000 })
  | .words 5 [v] => .next { s with dev := { s.dev with coldefer := min v.toNat 1000000000 } }
  | .words 6 [c, v] => .next (s.setChiplet c.toNat { s.chiplet c.toNat with boostOn := v.getLsbD 0, boostReq := v.getLsbD 1 })
  | .words 7 [c, p, m] =>
    .next (s.setChiplet c.toNat { s.chiplet c.toNat with firmware := { point := min p.toNat 10, mask := min m.toNat 15 } })
  | _ => .next s

end Sys2Proof.Machine
end

