-- ==== Sys2Proof/Machine/Scalar.lean ====
section
/-!
DEFINITION. The integer, compare, select and predicate instructions (13 R246 to R256).
-/
namespace Sys2Proof.Machine

/-- ADD (13 R248). -/
def execAdd (w : Bool) (rd ra rb : Reg) (s : State) : Out := s.alu intAdd w rd ra rb

/-- SUB (13 R248). -/
def execSub (w : Bool) (rd ra rb : Reg) (s : State) : Out := s.alu intSub w rd ra rb

/-- MUL (13 R248). -/
def execMul (w : Bool) (rd ra rb : Reg) (s : State) : Out := s.alu intMul w rd ra rb

/-- MULH (13 R248). -/
def execMulh (w : Bool) (rd ra rb : Reg) (s : State) : Out := s.alu intMulh w rd ra rb

/-- MULHU (13 R248). -/
def execMulhu (w : Bool) (rd ra rb : Reg) (s : State) : Out := s.alu intMulhu w rd ra rb

/-- DIV (13 R248). -/
def execDiv (w : Bool) (rd ra rb : Reg) (s : State) : Out := s.alu intDiv w rd ra rb

/-- DIVU (13 R248). -/
def execDivu (w : Bool) (rd ra rb : Reg) (s : State) : Out := s.alu intDivu w rd ra rb

/-- REM (13 R248). -/
def execRem (w : Bool) (rd ra rb : Reg) (s : State) : Out := s.alu intRem w rd ra rb

/-- REMU (13 R248). -/
def execRemu (w : Bool) (rd ra rb : Reg) (s : State) : Out := s.alu intRemu w rd ra rb

/-- AND (13 R248). -/
def execAnd (w : Bool) (rd ra rb : Reg) (s : State) : Out := s.alu intAnd w rd ra rb

/-- OR (13 R248). -/
def execOr (w : Bool) (rd ra rb : Reg) (s : State) : Out := s.alu intOr w rd ra rb

/-- XOR (13 R248). -/
def execXor (w : Bool) (rd ra rb : Reg) (s : State) : Out := s.alu intXor w rd ra rb

/-- ANDN (13 R248). -/
def execAndn (w : Bool) (rd ra rb : Reg) (s : State) : Out := s.alu intAndn w rd ra rb

/-- SHL (13 R248). -/
def execShl (w : Bool) (rd ra rb : Reg) (s : State) : Out := s.alu intShl w rd ra rb

/-- SHR (13 R248). -/
def execShr (w : Bool) (rd ra rb : Reg) (s : State) : Out := s.alu intShr w rd ra rb

/-- SAR (13 R248). -/
def execSar (w : Bool) (rd ra rb : Reg) (s : State) : Out := s.alu intSar w rd ra rb

/-- ROT (13 R248). -/
def execRot (w : Bool) (rd ra rb : Reg) (s : State) : Out := s.alu intRot w rd ra rb

/-- MIN (13 R248). -/
def execMin (w : Bool) (rd ra rb : Reg) (s : State) : Out := s.alu intMin w rd ra rb

/-- MAX (13 R248). -/
def execMax (w : Bool) (rd ra rb : Reg) (s : State) : Out := s.alu intMax w rd ra rb

/-- MINU (13 R248). -/
def execMinu (w : Bool) (rd ra rb : Reg) (s : State) : Out := s.alu intMinu w rd ra rb

/-- MAXU (13 R248). -/
def execMaxu (w : Bool) (rd ra rb : Reg) (s : State) : Out := s.alu intMaxu w rd ra rb

/-- ADDI (13 R249). -/
def execAddi (rd ra : Reg) (imm : BitVec 11) (s : State) : Out := s.alui (intAdd 64) rd ra (imm11 imm)

/-- ANDI (13 R249). -/
def execAndi (rd ra : Reg) (imm : BitVec 11) (s : State) : Out := s.alui (intAnd 64) rd ra (imm11 imm)

/-- ORI (13 R249). -/
def execOri (rd ra : Reg) (imm : BitVec 11) (s : State) : Out := s.alui (intOr 64) rd ra (imm11 imm)

/-- XORI (13 R249). -/
def execXori (rd ra : Reg) (imm : BitVec 11) (s : State) : Out := s.alui (intXor 64) rd ra (imm11 imm)

/-- MULI (13 R249). -/
def execMuli (rd ra : Reg) (imm : BitVec 11) (s : State) : Out := s.alui (intMul 64) rd ra (imm11 imm)

/-- SHLI (13 R249): the count is I[5:0]. -/
def execShli (rd ra : Reg) (n : BitVec 6) (s : State) : Out := s.alui (intShl 64) rd ra (n.setWidth 64)

/-- SHRI (13 R249): the count is I[5:0]. -/
def execShri (rd ra : Reg) (n : BitVec 6) (s : State) : Out := s.alui (intShr 64) rd ra (n.setWidth 64)

/-- SARI (13 R249): the count is I[5:0]. -/
def execSari (rd ra : Reg) (n : BitVec 6) (s : State) : Out := s.alui (intSar 64) rd ra (n.setWidth 64)

/-- LI with a 16-bit tail: sign- or zero-extended (13 R250). -/
def execLi16 (zx : Bool) (rd : Reg) (imm : BitVec 16) (s : State) : Out :=
  s.regOp [] rd fun _ => if zx then imm.setWidth 64 else imm.signExtend 64

/-- LI with a 32-bit tail: sign- or zero-extended (13 R250). -/
def execLi32 (zx : Bool) (rd : Reg) (imm : BitVec 32) (s : State) : Out :=
  s.regOp [] rd fun _ => if zx then imm.setWidth 64 else imm.signExtend 64

/-- LI with a 64-bit tail: the bits as they stand (13 R250). -/
def execLi64 (rd : Reg) (imm : BitVec 64) (s : State) : Out := s.regOp [] rd fun _ => imm

/-- MOV: rd ← a (13 R251). -/
def execMov (rd ra : Reg) (s : State) : Out := s.unary (fun a => a) rd ra

/-- NEG: 0 − a mod 2^64 (13 R251). -/
def execNeg (rd ra : Reg) (s : State) : Out := s.unary (fun a => 0 - a) rd ra

/-- NOT: ~a (13 R251). -/
def execNot (rd ra : Reg) (s : State) : Out := s.unary (fun a => ~~~a) rd ra

/-- CLZ: leading zero bits, 64 for 0 (13 R251). -/
def execClz (rd ra : Reg) (s : State) : Out := s.unary (fun a => BitVec.ofNat 64 (leadZeros a 64)) rd ra

/-- CTZ: trailing zero bits, 64 for 0 (13 R251). -/
def execCtz (rd ra : Reg) (s : State) : Out := s.unary (fun a => BitVec.ofNat 64 (trailZeros a 0 64)) rd ra

/-- POPC: set bits (13 R251). -/
def execPopc (rd ra : Reg) (s : State) : Out := s.unary (fun a => BitVec.ofNat 64 (popUpTo a 64)) rd ra

/-- SEXT of the low 8, 16 or 32 bits (13 R251). -/
def execSext (sz : Fin 3) (rd ra : Reg) (s : State) : Out := s.unary (fun a => sextLow a (extWidth sz)) rd ra

/-- ZEXT of the low 8, 16 or 32 bits (13 R251). -/
def execZext (sz : Fin 3) (rd ra : Reg) (s : State) : Out := s.unary (fun a => zextLow a (extWidth sz)) rd ra

/-- EXT: the field at `pos`, sign-extended (13 R252). -/
def execExt (rd ra : Reg) (pos len : BitVec 6) (s : State) : Out :=
  s.unary (fun a => sextLow (a >>> pos.toNat) (fieldLen len)) rd ra

/-- EXTU: the field at `pos`, zero-extended (13 R252). -/
def execExtu (rd ra : Reg) (pos len : BitVec 6) (s : State) : Out :=
  s.unary (fun a => zextLow (a >>> pos.toNat) (fieldLen len)) rd ra

/-- INS: the field of rd at `pos` replaced; rd is a source too (13 R252). -/
def execIns (rd ra : Reg) (pos len : BitVec 6) (s : State) : Out :=
  s.regOp [ra, rd] rd fun th => insertField (th.reg rd) (th.reg ra) pos.toNat (fieldLen len)

/-- CMP.EQ (13 R253). -/
def execCmpEq (qd : Pred) (ra rb : Reg) (s : State) : Out := s.cmp ccEq qd ra rb

/-- CMP.NE (13 R253). -/
def execCmpNe (qd : Pred) (ra rb : Reg) (s : State) : Out := s.cmp ccNe qd ra rb

/-- CMP.LT (13 R253). -/
def execCmpLt (qd : Pred) (ra rb : Reg) (s : State) : Out := s.cmp ccLt qd ra rb

/-- CMP.GE (13 R253). -/
def execCmpGe (qd : Pred) (ra rb : Reg) (s : State) : Out := s.cmp ccGe qd ra rb

/-- CMP.LTU (13 R253). -/
def execCmpLtu (qd : Pred) (ra rb : Reg) (s : State) : Out := s.cmp ccLtu qd ra rb

/-- CMP.GEU (13 R253). -/
def execCmpGeu (qd : Pred) (ra rb : Reg) (s : State) : Out := s.cmp ccGeu qd ra rb

/-- CMP.TST (13 R253). -/
def execCmpTst (qd : Pred) (ra rb : Reg) (s : State) : Out := s.cmp ccTst qd ra rb

/-- CMP.NTST (13 R253). -/
def execCmpNtst (qd : Pred) (ra rb : Reg) (s : State) : Out := s.cmp ccNtst qd ra rb

/-- CMPI.EQ: b is the sign-extended immediate (13 R253). -/
def execCmpiEq (qd : Pred) (ra : Reg) (imm : BitVec 11) (s : State) : Out := s.cmpi ccEq qd ra imm

/-- CMPI.NE: b is the sign-extended immediate (13 R253). -/
def execCmpiNe (qd : Pred) (ra : Reg) (imm : BitVec 11) (s : State) : Out := s.cmpi ccNe qd ra imm

/-- CMPI.LT: b is the sign-extended immediate (13 R253). -/
def execCmpiLt (qd : Pred) (ra : Reg) (imm : BitVec 11) (s : State) : Out := s.cmpi ccLt qd ra imm

/-- CMPI.GE: b is the sign-extended immediate (13 R253). -/
def execCmpiGe (qd : Pred) (ra : Reg) (imm : BitVec 11) (s : State) : Out := s.cmpi ccGe qd ra imm

/-- CMPI.LTU: b is the sign-extended immediate (13 R253). -/
def execCmpiLtu (qd : Pred) (ra : Reg) (imm : BitVec 11) (s : State) : Out := s.cmpi ccLtu qd ra imm

/-- CMPI.GEU: b is the sign-extended immediate (13 R253). -/
def execCmpiGeu (qd : Pred) (ra : Reg) (imm : BitVec 11) (s : State) : Out := s.cmpi ccGeu qd ra imm

/-- CMPI.TST: b is the sign-extended immediate (13 R253). -/
def execCmpiTst (qd : Pred) (ra : Reg) (imm : BitVec 11) (s : State) : Out := s.cmpi ccTst qd ra imm

/-- CMPI.NTST: b is the sign-extended immediate (13 R253). -/
def execCmpiNtst (qd : Pred) (ra : Reg) (imm : BitVec 11) (s : State) : Out := s.cmpi ccNtst qd ra imm

/-- SEL: both sources are read whatever the predicate holds (13 R254). -/
def execSel (rd : Reg) (qn : Pred) (ra rb : Reg) (s : State) : Out :=
  s.regOp [ra, rb] rd fun th => if th.pred qn then th.reg ra else th.reg rb

/-- PAND (13 R255). -/
def execPand (qd qa qb : Pred) (s : State) : Out := s.predOp [] qd fun th => th.pred qa && th.pred qb

/-- POR (13 R255). -/
def execPor (qd qa qb : Pred) (s : State) : Out := s.predOp [] qd fun th => th.pred qa || th.pred qb

/-- PXOR (13 R255). -/
def execPxor (qd qa qb : Pred) (s : State) : Out := s.predOp [] qd fun th => th.pred qa != th.pred qb

/-- PANDN (13 R255). -/
def execPandn (qd qa qb : Pred) (s : State) : Out := s.predOp [] qd fun th => th.pred qa && !th.pred qb

/-- PNOT (13 R255). -/
def execPnot (qd qa : Pred) (s : State) : Out := s.predOp [] qd fun th => !th.pred qa

/-- PMOV (13 R255). -/
def execPmov (qd qa : Pred) (s : State) : Out := s.predOp [] qd fun th => th.pred qa

/-- PSET (13 R255). -/
def execPset (qd : Pred) (s : State) : Out := s.predOp [] qd fun _ => true

/-- PCLR (13 R255). -/
def execPclr (qd : Pred) (s : State) : Out := s.predOp [] qd fun _ => false

/-- PPACK: eight predicates from base 0 or 8 into rd (13 R256). -/
def execPpack (rd : Reg) (hi : Bool) (s : State) : Out :=
  s.regOp [] rd fun th => ((th.pw >>> (if hi then 8 else 0)).setWidth 8).setWidth 64

/-- PUNPACK: the low byte of gA into eight predicates (13 R256). -/
def execPunpack (ra : Reg) (hi : Bool) (s : State) : Out :=
  s.withRegs [ra] fun th =>
    let b : BitVec 16 := ((th.reg ra).setWidth 8).setWidth 16
    s.done { th with pw := if hi then (th.pw &&& 0x00FF) ||| (b <<< 8) else (th.pw &&& 0xFF00) ||| b }

/-- PRD: the predicate word into rd (13 R256). -/
def execPrd (rd : Reg) (s : State) : Out := s.regOp [] rd fun th => th.pw.setWidth 64

/-- PWR: the predicate word from gA (13 R256). -/
def execPwr (ra : Reg) (s : State) : Out :=
  s.withRegs [ra] fun th => s.done { th with pw := (th.reg ra).setWidth 16 }

end Sys2Proof.Machine
end

