-- ==== Sys2Proof/Machine/Dispatch.lean ====
section
/-!
DEFINITION. The meaning of every instruction and event: one arm per constructor, each one direct call.
-/
namespace Sys2Proof.Machine

def exec (i : Instr) (s : State) : Host.Outcome State Fault Refusal :=
  match i with
  | .nop => Sys2Proof.Machine.execNop s
  | .exit => Sys2Proof.Machine.execExit s
  | .yield => Sys2Proof.Machine.execYield s
  | .brk => Sys2Proof.Machine.execBrk s
  | .trap n => Sys2Proof.Machine.execTrap n s
  | .rett => Sys2Proof.Machine.execRett s
  | .add w rd ra rb => Sys2Proof.Machine.execAdd w rd ra rb s
  | .sub w rd ra rb => Sys2Proof.Machine.execSub w rd ra rb s
  | .mul w rd ra rb => Sys2Proof.Machine.execMul w rd ra rb s
  | .mulh w rd ra rb => Sys2Proof.Machine.execMulh w rd ra rb s
  | .mulhu w rd ra rb => Sys2Proof.Machine.execMulhu w rd ra rb s
  | .div w rd ra rb => Sys2Proof.Machine.execDiv w rd ra rb s
  | .divu w rd ra rb => Sys2Proof.Machine.execDivu w rd ra rb s
  | .rem w rd ra rb => Sys2Proof.Machine.execRem w rd ra rb s
  | .remu w rd ra rb => Sys2Proof.Machine.execRemu w rd ra rb s
  | .and w rd ra rb => Sys2Proof.Machine.execAnd w rd ra rb s
  | .or w rd ra rb => Sys2Proof.Machine.execOr w rd ra rb s
  | .xor w rd ra rb => Sys2Proof.Machine.execXor w rd ra rb s
  | .andn w rd ra rb => Sys2Proof.Machine.execAndn w rd ra rb s
  | .shl w rd ra rb => Sys2Proof.Machine.execShl w rd ra rb s
  | .shr w rd ra rb => Sys2Proof.Machine.execShr w rd ra rb s
  | .sar w rd ra rb => Sys2Proof.Machine.execSar w rd ra rb s
  | .rot w rd ra rb => Sys2Proof.Machine.execRot w rd ra rb s
  | .min w rd ra rb => Sys2Proof.Machine.execMin w rd ra rb s
  | .max w rd ra rb => Sys2Proof.Machine.execMax w rd ra rb s
  | .minu w rd ra rb => Sys2Proof.Machine.execMinu w rd ra rb s
  | .maxu w rd ra rb => Sys2Proof.Machine.execMaxu w rd ra rb s
  | .addi rd ra imm => Sys2Proof.Machine.execAddi rd ra imm s
  | .andi rd ra imm => Sys2Proof.Machine.execAndi rd ra imm s
  | .ori rd ra imm => Sys2Proof.Machine.execOri rd ra imm s
  | .xori rd ra imm => Sys2Proof.Machine.execXori rd ra imm s
  | .shli rd ra n => Sys2Proof.Machine.execShli rd ra n s
  | .shri rd ra n => Sys2Proof.Machine.execShri rd ra n s
  | .sari rd ra n => Sys2Proof.Machine.execSari rd ra n s
  | .muli rd ra imm => Sys2Proof.Machine.execMuli rd ra imm s
  | .li16 zx rd imm => Sys2Proof.Machine.execLi16 zx rd imm s
  | .li32 zx rd imm => Sys2Proof.Machine.execLi32 zx rd imm s
  | .li64 rd imm => Sys2Proof.Machine.execLi64 rd imm s
  | .mov rd ra => Sys2Proof.Machine.execMov rd ra s
  | .neg rd ra => Sys2Proof.Machine.execNeg rd ra s
  | .not rd ra => Sys2Proof.Machine.execNot rd ra s
  | .clz rd ra => Sys2Proof.Machine.execClz rd ra s
  | .ctz rd ra => Sys2Proof.Machine.execCtz rd ra s
  | .popc rd ra => Sys2Proof.Machine.execPopc rd ra s
  | .sext sz rd ra => Sys2Proof.Machine.execSext sz rd ra s
  | .zext sz rd ra => Sys2Proof.Machine.execZext sz rd ra s
  | .ext rd ra pos len => Sys2Proof.Machine.execExt rd ra pos len s
  | .extu rd ra pos len => Sys2Proof.Machine.execExtu rd ra pos len s
  | .ins rd ra pos len => Sys2Proof.Machine.execIns rd ra pos len s
  | .cmpEq qd ra rb => Sys2Proof.Machine.execCmpEq qd ra rb s
  | .cmpNe qd ra rb => Sys2Proof.Machine.execCmpNe qd ra rb s
  | .cmpLt qd ra rb => Sys2Proof.Machine.execCmpLt qd ra rb s
  | .cmpGe qd ra rb => Sys2Proof.Machine.execCmpGe qd ra rb s
  | .cmpLtu qd ra rb => Sys2Proof.Machine.execCmpLtu qd ra rb s
  | .cmpGeu qd ra rb => Sys2Proof.Machine.execCmpGeu qd ra rb s
  | .cmpTst qd ra rb => Sys2Proof.Machine.execCmpTst qd ra rb s
  | .cmpNtst qd ra rb => Sys2Proof.Machine.execCmpNtst qd ra rb s
  | .cmpiEq qd ra imm => Sys2Proof.Machine.execCmpiEq qd ra imm s
  | .cmpiNe qd ra imm => Sys2Proof.Machine.execCmpiNe qd ra imm s
  | .cmpiLt qd ra imm => Sys2Proof.Machine.execCmpiLt qd ra imm s
  | .cmpiGe qd ra imm => Sys2Proof.Machine.execCmpiGe qd ra imm s
  | .cmpiLtu qd ra imm => Sys2Proof.Machine.execCmpiLtu qd ra imm s
  | .cmpiGeu qd ra imm => Sys2Proof.Machine.execCmpiGeu qd ra imm s
  | .cmpiTst qd ra imm => Sys2Proof.Machine.execCmpiTst qd ra imm s
  | .cmpiNtst qd ra imm => Sys2Proof.Machine.execCmpiNtst qd ra imm s
  | .sel rd qn ra rb => Sys2Proof.Machine.execSel rd qn ra rb s
  | .pand qd qa qb => Sys2Proof.Machine.execPand qd qa qb s
  | .por qd qa qb => Sys2Proof.Machine.execPor qd qa qb s
  | .pxor qd qa qb => Sys2Proof.Machine.execPxor qd qa qb s
  | .pandn qd qa qb => Sys2Proof.Machine.execPandn qd qa qb s
  | .pnot qd qa => Sys2Proof.Machine.execPnot qd qa s
  | .pmov qd qa => Sys2Proof.Machine.execPmov qd qa s
  | .pset qd => Sys2Proof.Machine.execPset qd s
  | .pclr qd => Sys2Proof.Machine.execPclr qd s
  | .ppack rd hi => Sys2Proof.Machine.execPpack rd hi s
  | .punpack ra hi => Sys2Proof.Machine.execPunpack ra hi s
  | .prd rd => Sys2Proof.Machine.execPrd rd s
  | .pwr ra => Sys2Proof.Machine.execPwr ra s
  | .fadd rm rd ra rb => Sys2Proof.Machine.execFadd rm rd ra rb s
  | .fsub rm rd ra rb => Sys2Proof.Machine.execFsub rm rd ra rb s
  | .fmul rm rd ra rb => Sys2Proof.Machine.execFmul rm rd ra rb s
  | .fdiv rm rd ra rb => Sys2Proof.Machine.execFdiv rm rd ra rb s
  | .fmin rm rd ra rb => Sys2Proof.Machine.execFmin rm rd ra rb s
  | .fmax rm rd ra rb => Sys2Proof.Machine.execFmax rm rd ra rb s
  | .fsqrt rm rd ra => Sys2Proof.Machine.execFsqrt rm rd ra s
  | .fabs rm rd ra => Sys2Proof.Machine.execFabs rm rd ra s
  | .fneg rm rd ra => Sys2Proof.Machine.execFneg rm rd ra s
  | .fma rm rd ra rb rc => Sys2Proof.Machine.execFma rm rd ra rb rc s
  | .fnma rm rd ra rb rc => Sys2Proof.Machine.execFnma rm rd ra rb rc s
  | .feq qd ra rb => Sys2Proof.Machine.execFeq qd ra rb s
  | .flt qd ra rb => Sys2Proof.Machine.execFlt qd ra rb s
  | .fle qd ra rb => Sys2Proof.Machine.execFle qd ra rb s
  | .funo qd ra rb => Sys2Proof.Machine.execFuno qd ra rb s
  | .cvtfi rm rd ra => Sys2Proof.Machine.execCvtfi rm rd ra s
  | .cvtif rm rd ra => Sys2Proof.Machine.execCvtif rm rd ra s
  | .cvtfb rm rd ra => Sys2Proof.Machine.execCvtfb rm rd ra s
  | .cvtbf rm rd ra => Sys2Proof.Machine.execCvtbf rm rd ra s
  | .cvtfh rm rd ra => Sys2Proof.Machine.execCvtfh rm rd ra s
  | .cvthf rm rd ra => Sys2Proof.Machine.execCvthf rm rd ra s
  | .fclass rm rd ra => Sys2Proof.Machine.execFclass rm rd ra s
  | .br t => Sys2Proof.Machine.execBr t s
  | .bt sel t => Sys2Proof.Machine.execBt sel t s
  | .bf sel t => Sys2Proof.Machine.execBf sel t s
  | .call t => Sys2Proof.Machine.execCall t s
  | .jr r => Sys2Proof.Machine.execJr r s
  | .callr r => Sys2Proof.Machine.execCallr r s
  | .ret => Sys2Proof.Machine.execRet s
  | .loop ra t => Sys2Proof.Machine.execLoop ra t s
  | .loopi n t => Sys2Proof.Machine.execLoopi n t s
  | .lexit => Sys2Proof.Machine.execLexit s
  | .lidx rd => Sys2Proof.Machine.execLidx rd s
  | .ldep rd => Sys2Proof.Machine.execLdep rd s
  | .enter n => Sys2Proof.Machine.execEnter n s
  | .leave => Sys2Proof.Machine.execLeave s
  | .csrr rd csr => Sys2Proof.Machine.execCsrr rd csr s
  | .csrw rd ra csr => Sys2Proof.Machine.execCsrw rd ra csr s
  | .csrs rd ra csr => Sys2Proof.Machine.execCsrs rd ra csr s
  | .csrc rd ra csr => Sys2Proof.Machine.execCsrc rd ra csr s
  | .ldBTi rd ra imm => Sys2Proof.Machine.execLdBTi rd ra imm s
  | .ldBuTi rd ra imm => Sys2Proof.Machine.execLdBuTi rd ra imm s
  | .ldHTi rd ra imm => Sys2Proof.Machine.execLdHTi rd ra imm s
  | .ldHuTi rd ra imm => Sys2Proof.Machine.execLdHuTi rd ra imm s
  | .ldWTi rd ra imm => Sys2Proof.Machine.execLdWTi rd ra imm s
  | .ldWuTi rd ra imm => Sys2Proof.Machine.execLdWuTi rd ra imm s
  | .ldDTi rd ra imm => Sys2Proof.Machine.execLdDTi rd ra imm s
  | .ldBTd rd ra rb imm => Sys2Proof.Machine.execLdBTd rd ra rb imm s
  | .ldBuTd rd ra rb imm => Sys2Proof.Machine.execLdBuTd rd ra rb imm s
  | .ldHTd rd ra rb imm => Sys2Proof.Machine.execLdHTd rd ra rb imm s
  | .ldHuTd rd ra rb imm => Sys2Proof.Machine.execLdHuTd rd ra rb imm s
  | .ldWTd rd ra rb imm => Sys2Proof.Machine.execLdWTd rd ra rb imm s
  | .ldWuTd rd ra rb imm => Sys2Proof.Machine.execLdWuTd rd ra rb imm s
  | .ldDTd rd ra rb imm => Sys2Proof.Machine.execLdDTd rd ra rb imm s
  | .stBTi rs ra imm => Sys2Proof.Machine.execStBTi rs ra imm s
  | .stHTi rs ra imm => Sys2Proof.Machine.execStHTi rs ra imm s
  | .stWTi rs ra imm => Sys2Proof.Machine.execStWTi rs ra imm s
  | .stDTi rs ra imm => Sys2Proof.Machine.execStDTi rs ra imm s
  | .stBTd rs ra rb imm => Sys2Proof.Machine.execStBTd rs ra rb imm s
  | .stHTd rs ra rb imm => Sys2Proof.Machine.execStHTd rs ra rb imm s
  | .stWTd rs ra rb imm => Sys2Proof.Machine.execStWTd rs ra rb imm s
  | .stDTd rs ra rb imm => Sys2Proof.Machine.execStDTd rs ra rb imm s
  | .ldc rd ra imm => Sys2Proof.Machine.execLdc rd ra imm s
  | .ldf rd ra imm => Sys2Proof.Machine.execLdf rd ra imm s
  | .stp rd ra imm => Sys2Proof.Machine.execStp rd ra imm s
  | .stf rd ra imm => Sys2Proof.Machine.execStf rd ra imm s
  | .femt ra imm => Sys2Proof.Machine.execFemt ra imm s
  | .fest rd ra imm => Sys2Proof.Machine.execFest rd ra imm s
  | .amoadd fl rd ra rb => Sys2Proof.Machine.execAmoadd fl rd ra rb s
  | .amoand fl rd ra rb => Sys2Proof.Machine.execAmoand fl rd ra rb s
  | .amoor fl rd ra rb => Sys2Proof.Machine.execAmoor fl rd ra rb s
  | .amoxor fl rd ra rb => Sys2Proof.Machine.execAmoxor fl rd ra rb s
  | .amomin fl rd ra rb => Sys2Proof.Machine.execAmomin fl rd ra rb s
  | .amomax fl rd ra rb => Sys2Proof.Machine.execAmomax fl rd ra rb s
  | .amominu fl rd ra rb => Sys2Proof.Machine.execAmominu fl rd ra rb s
  | .amomaxu fl rd ra rb => Sys2Proof.Machine.execAmomaxu fl rd ra rb s
  | .amoswap fl rd ra rb => Sys2Proof.Machine.execAmoswap fl rd ra rb s
  | .amocas fl rd ra rb => Sys2Proof.Machine.execAmocas fl rd ra rb s
  | .fenceAcq scope => Sys2Proof.Machine.execFenceAcq scope s
  | .fenceRel scope => Sys2Proof.Machine.execFenceRel scope s
  | .fenceFull scope => Sys2Proof.Machine.execFenceFull scope s
  | .drain path => Sys2Proof.Machine.execDrain path s
  | .rfill ra rb rt => Sys2Proof.Machine.execRfill ra rb rt s
  | .rempty rd => Sys2Proof.Machine.execRempty rd s
  | .rstat rd => Sys2Proof.Machine.execRstat rd s
  | .send ra rb mbox tag => Sys2Proof.Machine.execSend ra rb mbox tag s
  | .recv rd ra rb => Sys2Proof.Machine.execRecv rd ra rb s
  | .tryrecv rd ra rb => Sys2Proof.Machine.execTryrecv rd ra rb s
  | .spawn rd ra rb => Sys2Proof.Machine.execSpawn rd ra rb s
  | .gjoin rd ra => Sys2Proof.Machine.execGjoin rd ra s
  | .gleave rd ra => Sys2Proof.Machine.execGleave rd ra s
  | .gbar rd ra => Sys2Proof.Machine.execGbar rd ra s
  | .gsize rd ra => Sys2Proof.Machine.execGsize rd ra s
  | .task => Sys2Proof.Machine.execTask s
  | .tdone => Sys2Proof.Machine.execTdone s
  | .mig ra => Sys2Proof.Machine.execMig ra s
  | .swapt ra rb => Sys2Proof.Machine.execSwapt ra rb s
  | .ckpt rd => Sys2Proof.Machine.execCkpt rd s
  | .siga ra => Sys2Proof.Machine.execSiga ra s
  | .qpost rd ra rb => Sys2Proof.Machine.execQpost rd ra rb s
  | .vadd o => Sys2Proof.Machine.execVadd o s
  | .vsub o => Sys2Proof.Machine.execVsub o s
  | .vmul o => Sys2Proof.Machine.execVmul o s
  | .vmax o => Sys2Proof.Machine.execVmax o s
  | .vmin o => Sys2Proof.Machine.execVmin o s
  | .vabs o => Sys2Proof.Machine.execVabs o s
  | .vneg o => Sys2Proof.Machine.execVneg o s
  | .vfma o => Sys2Proof.Machine.execVfma o s
  | .vexp o => Sys2Proof.Machine.execVexp o s
  | .vrcp o => Sys2Proof.Machine.execVrcp o s
  | .vrsq o => Sys2Proof.Machine.execVrsq o s
  | .vsigm o => Sys2Proof.Machine.execVsigm o s
  | .vsilu o => Sys2Proof.Machine.execVsilu o s
  | .vcvt o => Sys2Proof.Machine.execVcvt o s
  | .vset o => Sys2Proof.Machine.execVset o s
  | .vcpy o => Sys2Proof.Machine.execVcpy o s
  | .viota o => Sys2Proof.Machine.execViota o s
  | .vsel o => Sys2Proof.Machine.execVsel o s
  | .vcmp o => Sys2Proof.Machine.execVcmp o s
  | .vscl o => Sys2Proof.Machine.execVscl o s
  | .vsum ty rd ra => Sys2Proof.Machine.execVsum ty rd ra s
  | .vssq ty rd ra => Sys2Proof.Machine.execVssq ty rd ra s
  | .vamax ty rd ra => Sys2Proof.Machine.execVamax ty rd ra s
  | .vmaxr ty rd ra => Sys2Proof.Machine.execVmaxr ty rd ra s
  | .vminr ty rd ra => Sys2Proof.Machine.execVminr ty rd ra s
  | .vdot ty rd ra rb => Sys2Proof.Machine.execVdot ty rd ra rb s
  | .vgath o => Sys2Proof.Machine.execVgath o s
  | .vscat o => Sys2Proof.Machine.execVscat o s
  | .vscadd rm o => Sys2Proof.Machine.execVscadd rm o s
  | .cpy t ra rb z => Sys2Proof.Machine.execCpy t ra rb z s
  | .cpys t ra rb z => Sys2Proof.Machine.execCpys t ra rb z s
  | .cpyx t ra rb z => Sys2Proof.Machine.execCpyx t ra rb z s
  | .accz h n1 => Sys2Proof.Machine.execAccz h n1 s
  | .accld h n1 ty ra rb => Sys2Proof.Machine.execAccld h n1 ty ra rb s
  | .accst h n1 ty ra rb => Sys2Proof.Machine.execAccst h n1 ty ra rb s
  | .accpin qd h n1 ra rb => Sys2Proof.Machine.execAccpin qd h n1 ra rb s
  | .accatt qd h n1 ra => Sys2Proof.Machine.execAccatt qd h n1 ra s
  | .accrel h n1 => Sys2Proof.Machine.execAccrel h n1 s
  | .accspl h n1 => Sys2Proof.Machine.execAccspl h n1 s
  | .accsta rd h clr => Sys2Proof.Machine.execAccsta rd h clr s
  | .mma o => Sys2Proof.Machine.execMma o s
  | .mmag o rc => Sys2Proof.Machine.execMmag o rc s
  | .tld w ra rb pitch => Sys2Proof.Machine.execTld w ra rb pitch s
  | .delta h ra => Sys2Proof.Machine.execDelta h ra s
  | .dread h ra => Sys2Proof.Machine.execDread h ra s
  | .dscl h ra rb => Sys2Proof.Machine.execDscl h ra rb s
  | .bopen rd h n1 want ra rb => Sys2Proof.Machine.execBopen rd h n1 want ra rb s
  | .bsend rs ra rb n1 => Sys2Proof.Machine.execBsend rs ra rb n1 s
  | .bwait rd => Sys2Proof.Machine.execBwait rd s
  | .bnorm rd h => Sys2Proof.Machine.execBnorm rd h s
  | .bseal rd h => Sys2Proof.Machine.execBseal rd h s
  | .babsent ra => Sys2Proof.Machine.execBabsent ra s
  | .bclose rd => Sys2Proof.Machine.execBclose rd s
  | .bstat rd dw => Sys2Proof.Machine.execBstat rd dw s
  | .colld rd ra rb => Sys2Proof.Machine.execColld rd ra rb s
  | .colrun rd ra rb => Sys2Proof.Machine.execColrun rd ra rb s
  | .colwait rd => Sys2Proof.Machine.execColwait rd s
  | .colabt => Sys2Proof.Machine.execColabt s
  | .red rd ra rb op ty => Sys2Proof.Machine.execRed rd ra rb op ty s
  | .redg rd ra qd => Sys2Proof.Machine.execRedg rd ra qd s
  | .colst rd => Sys2Proof.Machine.execColst rd s
  | .boot => Sys2Proof.Machine.execBoot s
  | .bootReady => Sys2Proof.Machine.execBootReady s
  | .controlInterval => Sys2Proof.Machine.execControlInterval s
  | .operatingPointSettled => Sys2Proof.Machine.execOperatingPointSettled s
  | .thermalThrottle => Sys2Proof.Machine.execThermalThrottle s
  | .throttleRelease => Sys2Proof.Machine.execThrottleRelease s
  | .emergencySave => Sys2Proof.Machine.execEmergencySave s
  | .hardTrip => Sys2Proof.Machine.execHardTrip s
  | .currentLimitTrip => Sys2Proof.Machine.execCurrentLimitTrip s
  | .maskChange => Sys2Proof.Machine.execMaskChange s
  | .residencyStep => Sys2Proof.Machine.execResidencyStep s
  | .telemetrySample => Sys2Proof.Machine.execTelemetrySample s
  | .hostInboundRead => Sys2Proof.Machine.execHostInboundRead s
  | .hostInboundWrite => Sys2Proof.Machine.execHostInboundWrite s
  | .dmaWindowWrite => Sys2Proof.Machine.execDmaWindowWrite s
  | .peerTableWrite => Sys2Proof.Machine.execPeerTableWrite s
  | .firmwareTableWrite => Sys2Proof.Machine.execFirmwareTableWrite s
  | .configWrite => Sys2Proof.Machine.execConfigWrite s
  | .queueMap => Sys2Proof.Machine.execQueueMap s
  | .queueUnmap => Sys2Proof.Machine.execQueueUnmap s
  | .watchedLineInvalidate => Sys2Proof.Machine.execWatchedLineInvalidate s
  | .watchedLineReread => Sys2Proof.Machine.execWatchedLineReread s
  | .spanProbe => Sys2Proof.Machine.execSpanProbe s
  | .spanPortDown => Sys2Proof.Machine.execSpanPortDown s
  | .spanLaneFail => Sys2Proof.Machine.execSpanLaneFail s
  | .spanCopyDataReceive => Sys2Proof.Machine.execSpanCopyDataReceive s
  | .spanCopyAckReceive => Sys2Proof.Machine.execSpanCopyAckReceive s
  | .spanChunkReceive => Sys2Proof.Machine.execSpanChunkReceive s
  | .spanRoundAbortReceive => Sys2Proof.Machine.execSpanRoundAbortReceive s
  | .spanProbeReceive => Sys2Proof.Machine.execSpanProbeReceive s
  | .spanCopyTimeout => Sys2Proof.Machine.execSpanCopyTimeout s
  | .queueWake => Sys2Proof.Machine.execQueueWake s
  | .commandAccept => Sys2Proof.Machine.execCommandAccept s
  | .lockstepMismatch => Sys2Proof.Machine.execLockstepMismatch s
  | .workerError => Sys2Proof.Machine.execWorkerError s
  | .commandComplete => Sys2Proof.Machine.execCommandComplete s
  | .launch => Sys2Proof.Machine.execLaunch s
  | .copy => Sys2Proof.Machine.execCopy s
  | .tasks => Sys2Proof.Machine.execTasks s
  | .tasksAppend => Sys2Proof.Machine.execTasksAppend s
  | .signal => Sys2Proof.Machine.execSignal s
  | .wait => Sys2Proof.Machine.execWait s
  | .waitPoll => Sys2Proof.Machine.execWaitPoll s
  | .waitLimit => Sys2Proof.Machine.execWaitLimit s
  | .partitionCreate => Sys2Proof.Machine.execPartitionCreate s
  | .partitionTeardown => Sys2Proof.Machine.execPartitionTeardown s
  | .partitionSuspend => Sys2Proof.Machine.execPartitionSuspend s
  | .partitionResume => Sys2Proof.Machine.execPartitionResume s
  | .status => Sys2Proof.Machine.execStatus s
  | .statusAttest => Sys2Proof.Machine.execStatusAttest s
  | .population => Sys2Proof.Machine.execPopulation s
  | .launchEnd => Sys2Proof.Machine.execLaunchEnd s
  | .launchTimeLimit => Sys2Proof.Machine.execLaunchTimeLimit s
  | .packetGrant => Sys2Proof.Machine.execPacketGrant s
  | .packetRetire => Sys2Proof.Machine.execPacketRetire s
  | .qpostRequest => Sys2Proof.Machine.execQpostRequest s
  | .linkResend => Sys2Proof.Machine.execLinkResend s
  | .rebindTableWrite => Sys2Proof.Machine.execRebindTableWrite s
  | .groupRequest => Sys2Proof.Machine.execGroupRequest s
  | .barrierClusterArrival => Sys2Proof.Machine.execBarrierClusterArrival s
  | .barrierDeparture => Sys2Proof.Machine.execBarrierDeparture s
  | .reductionContribution => Sys2Proof.Machine.execReductionContribution s
  | .redlimitExpire => Sys2Proof.Machine.execRedlimitExpire s
  | .reductionPartial => Sys2Proof.Machine.execReductionPartial s
  | .reductionResult => Sys2Proof.Machine.execReductionResult s
  | .messageDelivery => Sys2Proof.Machine.execMessageDelivery s
  | .messageAcceptance => Sys2Proof.Machine.execMessageAcceptance s
  | .messageBounce => Sys2Proof.Machine.execMessageBounce s
  | .messageReinject => Sys2Proof.Machine.execMessageReinject s
  | .errorDetect => Sys2Proof.Machine.execErrorDetect s
  | .correctedError => Sys2Proof.Machine.execCorrectedError s
  | .cellarPoison => Sys2Proof.Machine.execCellarPoison s
  | .powerLoss => Sys2Proof.Machine.execPowerLoss s
  | .watchdogFire => Sys2Proof.Machine.execWatchdogFire s
  | .ivlenExpire => Sys2Proof.Machine.execIvlenExpire s
  | .deferredBoundary => Sys2Proof.Machine.execDeferredBoundary s
  | .captureEntryFree => Sys2Proof.Machine.execCaptureEntryFree s
  | .mirrorLineReceive => Sys2Proof.Machine.execMirrorLineReceive s
  | .commitMarkerReceive => Sys2Proof.Machine.execCommitMarkerReceive s
  | .boundaryCommit => Sys2Proof.Machine.execBoundaryCommit s
  | .logAreaFull => Sys2Proof.Machine.execLogAreaFull s
  | .recovery => Sys2Proof.Machine.execRecovery s
  | .rebindWave => Sys2Proof.Machine.execRebindWave s
  | .rebindWaveComplete => Sys2Proof.Machine.execRebindWaveComplete s
  | .replay => Sys2Proof.Machine.execReplay s
  | .recoveryRelease => Sys2Proof.Machine.execRecoveryRelease s
  | .heldPacketDelivery => Sys2Proof.Machine.execHeldPacketDelivery s
  | .stateLoss => Sys2Proof.Machine.execStateLoss s
  | .plannedMigration => Sys2Proof.Machine.execPlannedMigration s
  | .incidentCapture => Sys2Proof.Machine.execIncidentCapture s
  | .incidentReplay => Sys2Proof.Machine.execIncidentReplay s
  | .gangPreempt => Sys2Proof.Machine.execGangPreempt s
  | .preemptSaveDone => Sys2Proof.Machine.execPreemptSaveDone s
  | .restore => Sys2Proof.Machine.execRestore s
  | .timeSliceExpire => Sys2Proof.Machine.execTimeSliceExpire s
  | .coldeferExpire => Sys2Proof.Machine.execColdeferExpire s
  | .migrantArrival => Sys2Proof.Machine.execMigrantArrival s
  | .migback => Sys2Proof.Machine.execMigback s
  | .migbackResend => Sys2Proof.Machine.execMigbackResend s
  | .locationNotice => Sys2Proof.Machine.execLocationNotice s
  | .rfillDelivery => Sys2Proof.Machine.execRfillDelivery s
  | .exitNotice => Sys2Proof.Machine.execExitNotice s
  | .remoteAccess => Sys2Proof.Machine.execRemoteAccess s
  | .portBounceRepresent => Sys2Proof.Machine.execPortBounceRepresent s
  | .accessReply => Sys2Proof.Machine.execAccessReply s
  | .loadReply => Sys2Proof.Machine.execLoadReply s
  | .postedStorePerform => Sys2Proof.Machine.execPostedStorePerform s
  | .translationWalk => Sys2Proof.Machine.execTranslationWalk s
  | .feWake => Sys2Proof.Machine.execFeWake s
  | .feRefusalRepresent => Sys2Proof.Machine.execFeRefusalRepresent s
  | .feTimeout => Sys2Proof.Machine.execFeTimeout s
  | .rangeLockRequest => Sys2Proof.Machine.execRangeLockRequest s
  | .rangeLockRepresent => Sys2Proof.Machine.execRangeLockRepresent s
  | .engineOpStart => Sys2Proof.Machine.execEngineOpStart s
  | .engineOpComplete => Sys2Proof.Machine.execEngineOpComplete s
  | .copyComplete => Sys2Proof.Machine.execCopyComplete s
  | .icacheFill => Sys2Proof.Machine.execIcacheFill s
  | .bindRequest => Sys2Proof.Machine.execBindRequest s
  | .mergeData => Sys2Proof.Machine.execMergeData s
  | .mergeMarker => Sys2Proof.Machine.execMergeMarker s
  | .mergeCommit => Sys2Proof.Machine.execMergeCommit s
  | .bwaitTimeout => Sys2Proof.Machine.execBwaitTimeout s
  | .bcloseTimeout => Sys2Proof.Machine.execBcloseTimeout s
  | .chunkArrival => Sys2Proof.Machine.execChunkArrival s
  | .chunkAck => Sys2Proof.Machine.execChunkAck s
  | .chunkResend => Sys2Proof.Machine.execChunkResend s
  | .roundTimeout => Sys2Proof.Machine.execRoundTimeout s
  | .roundAbort => Sys2Proof.Machine.execRoundAbort s
  | .colrunHoldEnd => Sys2Proof.Machine.execColrunHoldEnd s
  | .firmwareRegisterWrite => Sys2Proof.Machine.execFirmwareRegisterWrite s
  | .spareChipletPowered => Sys2Proof.Machine.execSpareChipletPowered s
  | .copyDataArrival => Sys2Proof.Machine.execCopyDataArrival s
  | .bindRequestRetry => Sys2Proof.Machine.execBindRequestRetry s

end Sys2Proof.Machine
end

