-- ==== Sys2Proof/Machine/Cycle.lean ====
section
/-!
DEFINITION. A cycle: the order of its events, the turns of the tiles, and its end (06 R117 to R124, R141, 05 R102, R105, R109, 07
R167, 08 R179, 09 R200, R201, 13 R273, 14 R274, R298, 15 R321).
-/
namespace Sys2Proof.Machine

/-! ### The order of events in a cycle -/

/-- The place of an event in its cycle, the turns after 0: what engines and the routers have done before them 0, mask changes 1, what cores
count 2 (06 R141); at routers leaves 3, arrivals 4 and the other packets 5 (04 R83); detectors and time-outs 6; pre-emptions and restores 7
(06 R141). -/
def rank (ev : Instr) (arg : Payload) : Nat :=
  match ev, arg with
  | .engineOpComplete, _ => 0
  | .copyComplete, _ => 0
  | .mergeCommit, _ => 0
  | .postedStorePerform, _ => 0
  | .population, _ => 0
  | .recoveryRelease, _ => 0
  | .heldPacketDelivery, _ => 0
  | .replay, _ => 0
  | .controlInterval, _ => 0
  | .thermalThrottle, _ => 0
  | .operatingPointSettled, _ => 0
  | .rebindTableWrite, .words kind _ => if 4 ≤ kind then 0 else 5
  | .gangPreempt, .tileNum _ n => if n = 1 then 0 else 7
  | .gangPreempt, _ => 7
  | .restore, _ => 7
  | .maskChange, _ => 1
  | .groupRequest, .group _ _ _ kind _ _ _ _ => if kind = 1 then 3 else 5
  | .barrierClusterArrival, _ => 4
  | .errorDetect, _ => 6
  | .watchdogFire, _ => 6
  | .powerLoss, _ => 6
  | .hardTrip, _ => 6
  | .rebindWave, _ => 6
  | .status, _ => 6
  | .feTimeout, _ => 6
  | .bwaitTimeout, _ => 6
  | .bcloseTimeout, _ => 6
  | .roundTimeout, _ => 6
  | .spanCopyTimeout, _ => 6
  | .redlimitExpire, _ => 6
  | .launchTimeLimit, _ => 6
  | .coldeferExpire, _ => 6
  | .waitLimit, _ => 6
  | ev, arg => if (clockOf ev arg).isSome then 2 else 5

/-- The chiplet of a tile is changing its operating point: what its core counts stands still (01 R12, R13). -/
def State.stands (s : State) (k : TileId) : Bool := (s.chiplet (s.chipOf k)).changing

/-- An event waits for a core that stands still. -/
def State.onHold (s : State) (x : Timed) : Bool := match clockOf x.ev x.arg with | some k => s.stands k | none => false

/-- The first event of a rank that is due. -/
def State.dueOf (s : State) (n : Nat) : Option Timed :=
  s.agenda.find? (fun x => decide (x.due ≤ s.now) && rank x.ev x.arg == n && !s.onHold x)

/-- The next record that replay delivers to a tile in this cycle (05 R106). -/
def Tile.scripted (t : Tile) : Option LogRec :=
  if t.r.replay && t.r.mode != .fenced then t.r.script.find? (fun x => x.delivered && decide (x.cyc ≤ t.r.cyc)) else none

/-- The first such record of a rank, with its tile. -/
def State.scriptOf (s : State) (n : Nat) : Option (TileId × LogRec) :=
  s.tiles.findSome? (fun x => (x.2.scripted.filter (fun y => rank y.ev y.arg == n && !s.stands x.1)).map (fun y => (x.1, y)))

/-! ### Delivery at a tile's port -/

/-- An event leaves the agenda and takes effect. -/
def State.runPlain (s : State) (x : Timed) : Out := exec x.ev { s with agenda := s.agenda.erase x, input := x.arg }

/-- A delivery waits for the next cycle in its place; later ones do not overtake it (05 R102). -/
def State.postpone (s : State) (x : Timed) : State :=
  { s with agenda := s.agenda.replace x { x with due := s.now + 1, late := true } }

/-- A packet waits with the others for the release of tile `k` (05 R105). A request that let a boundary go first is as it came. -/
def State.holdFor (s : State) (x : Timed) (k : TileId) : State :=
  let p : Payload := match x.ev, x.arg with
    | .gangPreempt, .tileNum k 1 => .tile k
    | _, p => p
  let s := { s with agenda := s.agenda.erase x }
  s.setRouter k { (s.tile k).r with held := (s.tile k).r.held ++ [(x.ev, p)] }

/-- What a core would count does not: it hangs, or has stopped; what a stopped one has left goes on later (05 R91, 06 R136). -/
def State.idle (s : State) (x : Timed) (k : TileId) : Option State :=
  let r := (s.tile k).r
  let router : Bool := x.ev == .ivlenExpire || x.ev == .deferredBoundary || x.ev == .watchdogFire
  let drop := { s with agenda := s.agenda.erase x }
  let keep := drop.setCtx k { (drop.tile k).c with frozen := (drop.tile k).c.frozen ++ [{ x with due := 0 }] }
  if r.hung && !router then some drop
  else if r.mode == .fenced || ((r.mode == .stopping || r.mode == .saved) && !goesOn x) then some keep
  else none

/-- Events at a tile's port that pass those that wait: they are no packets, or take no record but of the reserve. -/
def passes (x : Timed) (reserve : Bool) : Bool :=
  reserve || x.ev == .boundaryCommit || x.ev == .mirrorLineReceive || x.ev == .commitMarkerReceive || x.ev == .captureEntryFree
    || x.ev == .deferredBoundary || x.ev == .postedStorePerform || x.ev == .firmwareRegisterWrite

/-- An earlier event at the port of tile `k` waits. -/
def State.behind (s : State) (x : Timed) (k : TileId) : Bool :=
  (s.agenda.takeWhile (fun y => y != x)).any (fun y => y.late && (portOf y.ev y.arg).map Prod.fst == some k)

/-- The contexts of launches that come to tile `k` now, one record of 112 bytes each, go in together (03 R57, 05 R384). -/
def State.populating (s : State) (k : TileId) : Nat :=
  8 * (s.agenda.filter (fun x => decide (x.due ≤ s.now) && (match x.ev, x.arg with
    | .population, .populate t _ _ _ _ _ _ => t == k
    | _, _ => false))).length

/-- A delivery has to wait whatever it does: a migrant has come in this cycle (06 R128), the capture buffer is full (05 R94), or not all contexts
have room. -/
def State.portWaits (s : State) (x : Timed) (k : TileId) : Bool :=
  let r := (s.tile k).r
  match x.ev, x.arg with
  | .migrantArrival, _ => r.migrantAt == r.cyc + 1
  | .remoteAccess, .port _ off a _ _ _ => a.kind.writes && r.captureFull (off / 64)
  | .population, _ => !r.hasRoom (s.populating k) false
  | _, _ => false

/-- What a delivery at tile `k` comes to: it takes effect if the log area has room for its records and the capture buffer for the lines it
writes, and waits otherwise (05 R94, R99, R102). -/
def State.conclude (s : State) (x : Timed) (k : TileId) (reserve : Bool) (out : Out) : Out :=
  match out with
  | .next s' =>
    let r := (s.tile k).r
    let r' := (s'.tile k).r
    let grew := decide (r.records < r'.records)
    let latched (r : Router) : List MirrorLine := (r.ship.map Ship.latched).getD []
    if grew && ((r.blocked && !reserve) || decide ((if reserve then 2048 else logRoom) < r'.records)) then
      .next (if r.blocked then s.postpone x else (s.postpone x).after 0 .logAreaFull (.tile k))
    else if 8 < (latched r').length ∧ (latched r).length < (latched r').length then
      .next ((s.latchLines k (((latched r').drop (latched r).length).map MirrorLine.line)).1.postpone x)
    else out
  | out => out

/-- An event for tile `k` at its router: held while the tile is being recovered (05 R105), forwarded if the tile has moved (04 R78), waiting, or
delivered. -/
def State.atPort (s : State) (run : State → Timed → Out) (x : Timed) (k : TileId) (reserve : Bool) : Out :=
  let r := (s.tile k).r
  if r.mode == .fenced && !(x.ev == .boundaryCommit && r.moving) then .next (s.holdFor x k)
  else if r.replay then .next (s.holdFor x k)
  else
    match x.dest.filter (fun d => d != s.ptlOf k / 64) with
    | some d =>
      .next { s with agenda := s.agenda.replace x { x with due := s.now + s.forwardCycles k d, dest := some (s.ptlOf k / 64) } }
    | none =>
      if (!passes x reserve && s.behind x k) || s.portWaits x k then .next (s.postpone x)
      else s.conclude x k reserve (run s x)

/-- A due event takes effect, or waits. -/
def State.handleWith (run : State → Timed → Out) (s : State) (x : Timed) : Out :=
  match (clockOf x.ev x.arg).bind (s.idle x) with
  | some s' => .next s'
  | none =>
    match portOf x.ev x.arg with
    | none => run s x
    | some (k, reserve) => s.atPort run x k reserve

/-- The thread that a record names, if the record is of a wake. -/
def LogRec.thread? (x : LogRec) : Option Ref :=
  match x.arg with
  | .reply r _ => some r
  | .buffer r _ _ => some r
  | .ref r => some r
  | _ => none

/-- Replay delivers a record as the live event was, and has it in its log again; in the replay of an incident one whose thread is not parked
stands for a divergence (05 R106, R115). -/
def State.deliverRecord (s : State) (k : TileId) (x : LogRec) : Out :=
  let r := (s.tile k).r
  let lost := r.trial.isSome && x.kind != 0 && (match x.thread? with | some f => (s.slotOf f).isNone | none => false)
  let s := s.setRouter k { r with script := r.script.erase x, quiet := true, log := if lost then r.log else r.log ++ [x] }
  match exec x.ev { s with input := x.arg } with
  | .next s => .next (s.setRouter k { (s.tile k).r with quiet := false })
  | out => out

/-! ### Turns (06 R117, 12 R240, 09 R182) -/

/-- A thread takes its turn in this cycle: its tile is live, its slot unmasked, and it is not parked. -/
def Tile.ready (t : Tile) (j : Fin 16) : Bool :=
  t.r.mode == .live && t.unmasked j && (match t.slot j with | some th => th.park.isNone | none => false)

/-- The turn's slot (06 R117). -/
def Router.turnSlot (r : Router) : Fin 16 := Fin.ofNat 16 r.cyc

/-- A decoded head: its meaning, or the trap of decode. -/
def State.issue (s : State) (d : Decoded) : Out :=
  match d with
  | .bad (.illegal n) => s.trap cIllegal n s.me.pc
  | .bad .reserved => s.trap cReservedField 0xFF s.me.pc
  | .instr i => if i.wf then exec i s else s.trap cReservedField 0xFF s.me.pc

/-- The state in which the head found by a fetch runs: its line most recently used, the cursor at its thread. -/
def State.atHead (s : State) (k : TileId) (j : Fin 16) (l : ICLine) (nh : Nat) : State :=
  { s.touch k l with cur := { tile := k, slot := j, nh := nh } }

/-- The head of a level-2 handler is fetched for the first time since its trap (09 R183, R188). -/
def Thread.atHandler (th : Thread) : Bool :=
  th.xlvl == 2 && th.pc == th.xvec.setWidth 64 + 64 && th.via.setWidth 32 &&& ~~~1#32 == th.bankY.pc

/-- The instruction at the PC of the thread in slot `j` of tile `k` issues. -/
def State.issueAt (s : State) (k : TileId) (j : Fin 16) : Out :=
  let th := s.thr k j
  match (s.tile k).fetch th.lix th.pc with
  | .fault c d => .next (s.trapFrom k j th.pc (causeOf c d false) th.via th.atHandler)
  | .miss => .next ({ s with cur := { tile := k, slot := j, nh := 0 } }.missLine (lineOf th.pc).toNat)
  | .head l nh head tail => (s.atHead k j l nh).issue (decode head tail)

/-- The turn of tile `k`: its thread issues one instruction; a turn given up by YIELD passes, and one of a core that hangs (05 R91). A fault that
the thread holds is taken first, and its handler's head issues (06 R132, 09 R201). -/
def State.turn (s : State) (k : TileId) : Out :=
  let t := s.tile k
  let j := t.r.turnSlot
  let th := s.thr k j
  if !t.ready j || t.r.hung then .next s
  else if th.skip then .next (s.setThr k j { th with skip := false })
  else if th.fault.isSome then
    let s := s.takeFault k j
    if ((s.tile k).slot j).isNone then .next s else s.issueAt k j
  else s.issueAt k j

/-! ### The end of a cycle -/

/-- A shared register takes a value and an FE state. -/
def State.putShared (s : State) (k : TileId) (n : Fin 8) (v : Word) : State :=
  s.setCtx k { (s.tile k).c with h := (s.tile k).c.h.set n v }

/-- One shared-register operation at the end of its cycle (06 R124). -/
def State.sharedOne (s : State) (k : TileId) (o : HOp) : State :=
  match o with
  | .store n v _ => s.putShared k n v
  | .effect n v full _ => (s.putShared k n v).setFe k (sharedDw n) full false
  | .sync a tok issue =>
    let r : Ref := { tile := k, tok := tok }
    let n := hIndex a.addr
    let c := (s.tile k).c
    let full := c.isFull (sharedDw n)
    if (s.slotOf r).isNone then s
    else if !a.kind.ready full then
      s.setCtx k { c with waiters := c.waiters ++ [{ dw := sharedDw n, acc := a, src := r, fails := 0, issued := issue, since := (s.tile k).r.cyc }] }
    else
      let x := syncShared a c.h[n] full (c.lineFull (sharedDw n))
      ((s.putShared k n x.2.1).setFe k (sharedDw n) x.2.2 false).deliver r x.1

/-- An operation that ends with cycle `c`: a store of cycle c − 7, a synchronising access of cycle c − 8, or the effect of a
waiter performed in this one. -/
def HOp.ends (o : HOp) (c : Nat) : Bool :=
  match o with
  | .store _ _ i => decide (i + 7 ≤ c)
  | .sync _ _ i => decide (i + 8 ≤ c)
  | .effect .. => true

def HOp.isEffect (o : HOp) : Bool := match o with | .effect .. => true | _ => false

/-- The shared registers at the end of a cycle: waiters performed in it first, then in issue order. -/
def State.sharedEnd (s : State) (k : TileId) : State :=
  let c := (s.tile k).c
  let due := c.hOps.filter (fun o => o.ends (s.tile k).r.cyc)
  let s := s.setCtx k { c with hOps := c.hOps.filter (fun o => !o.ends (s.tile k).r.cyc) }
  (due.filter HOp.isEffect ++ due.filter (fun o => !o.isEffect)).foldl (fun s o => s.sharedOne k o) s

/-- Words of the watchdog of tile `k` at the end of a cycle: the turn of a thread that can issue has passed in a core that hangs, and the cycle
in which it fires has come (05 R91). -/
def State.watch (s : State) (k : TileId) : State :=
  let t := s.tile k
  let r := t.r
  let missed := if r.missed = 0 ∧ r.hung = true ∧ t.ready r.turnSlot = true then r.cyc + 1 else r.missed
  let limit := (s.cluster (clusterOf k)).wdlimit
  let fires (since : Nat) : Bool := since != 0 && r.cyc + 2 == since + limit
  let s := s.setRouter k { r with missed := missed }
  if fires missed || fires r.asked then s.after 1 .watchdogFire (.tile k) else s

/-- The next cycle of tile `k` begins; what a replay has not used of the records of this one is of no use any more. -/
def State.nextCycle (s : State) (k : TileId) : State :=
  let t := (s.tile k).countWaits (s.tile k).r.cyc
  s.setTile k { t with r := { t.r with cyc := t.r.cyc + 1, script := t.r.script.filter (fun x => decide (t.r.cyc < x.cyc)) } }

/-- The end of a cycle of tile `k`: shared registers, the boundary requested in it, and the next cycle. After the fence cycle a replay is at its
end, and no boundary is taken (05 R106, 18 R374). -/
def State.endCycle (s : State) (k : TileId) : State :=
  let s := (s.sharedEnd k).selfRequest k
  let r := (s.tile k).r
  if r.replay && r.cyc == r.fence then
    let s := s.nextCycle k
    if r.trial.isSome then s.setRouter k { (s.tile k).r with replay := false } else s.endReplay k
  else
    let s := if r.want && !r.hung then s.takeBoundary k else s
    (s.watch k).nextCycle k

/-- The cycles of a tile advance: it is not fenced, and its chiplet has power and is not changing its operating point (01 R12, 05 R100,
R103). -/
def State.advances (s : State) (k : TileId) : Bool :=
  (s.tile k).r.mode != .fenced && !(s.chiplet (s.chipOf k)).changing && !(s.chiplet (s.chipOf k)).lost

/-- What the cores of tiles that stand still count comes a cycle later (01 R13). -/
def State.standStill (s : State) : State :=
  { s with agenda := s.agenda.map (fun (x : Timed) => if s.onHold x then { x with due := x.due + 1 } else x) }

/-- The end of a cycle: the tile ports inject what they hold, the tiles whose cycles advance do, time goes on, and the threads that can issue
are lined up in order of tile; one that an event of the new cycle wakes waits for its next turn (06 R122). -/
def State.tick (s : State) : State :=
  let s := s.tiles.keys.foldl State.flush s
  let s := s.standStill
  let ks := s.tiles.keys.filter s.advances
  let s := ks.foldl State.endCycle s
  { s with
    now := s.now + 1
    turns := ks.filter (fun k => (s.tile k).ready (s.tile k).r.turnSlot) }

/-- A record that replay delivers, or an event of the agenda, of a rank. -/
def State.dueWith (run : State → Timed → Out) (s : State) (n : Nat) : Option Out :=
  match s.scriptOf n with
  | some x => some (s.deliverRecord x.1 x.2)
  | none => (s.dueOf n).map (State.handleWith run s)

/-- What happens next: an event that comes before the turns, a turn, another event of the cycle, or its end. -/
def State.advanceWith (run : State → Timed → Out) (s : State) : Out :=
  match State.dueWith run s 0 with
  | some out => out
  | none =>
    match s.turns with
    | k :: ks => { s with turns := ks }.turn k
    | [] =>
      match [1, 2, 3, 4, 5, 6, 7].findSome? (State.dueWith run s) with
      | some out => out
      | none => .next s.tick

/-! ### The replay of an incident (05 R115) -/

/-- A machine that holds the tile of a capture alone, in replay mode, with the other tiles of its partition as names. -/
def State.trialOf (s : State) (i : Nat) (x : Incident) : State :=
  let mate : Tile := { Tile.reset with r := { Router.reset with ctx := x.ctx, mode := .fenced } }
  let s := { s with tiles := x.peers.map (fun k => (k, mate)), agenda := [], turns := [] }
  let s := s.setRouter x.tile { Router.reset with ctx := x.ctx, source := x.source, trial := some i }
  (s.setCtx x.tile (s.loaded x.tile x.mirror)).startReplay x.tile x.mirror.ship x.fence x.source 0

/-- It runs up to the fence cycle. -/
def State.runTrial (s : State) (k : TileId) (fuel : Nat) : State :=
  match fuel with
  | 0 => s
  | fuel + 1 =>
    if !(s.tile k).r.replay then s
    else match State.advanceWith State.runPlain s with
      | .next s' => s'.runTrial k fuel
      | _ => s

/-- What of a record is compared. -/
def LogRec.shown (x : LogRec) : Nat × Nat × Nat × Nat × Word := (x.cyc, x.kind, x.slot, x.len, x.val)

/-- One more than the number of the first record in which two logs differ, 0 for none. -/
def diverges (a b : List LogRec) (n : Nat) : Nat :=
  match a, b with
  | [], [] => 0
  | x :: a, y :: b => if x.shown = y.shown then diverges a b (n + x.size) else n + 1
  | _, _ => n + 1

/-- What the replay of capture `i` finds: 0 a match, else one more than the number of the record that diverges. -/
def State.tried (s : State) (i : Nat) : Nat :=
  match s.dev.incidents[i]? with
  | none => 0
  | some x =>
    let u := (s.trialOf i x).runTrial x.tile ((x.fence + 2 - x.mirror.cyc) * 4096)
    let r := (u.tile x.tile).r
    let sent := (((r.prev.map Interval.sent).getD []) ++ r.sent).map Packet.flits
    let n := diverges (x.source.filter (fun y => y.kind != 0)) (r.logged.filter (fun y => y.kind != 0 && decide (y.cyc ≤ x.fence))) 0
    if n ≠ 0 then n
    else if sent.length ≠ x.sent.length ∨ Config.flitCrc sent ≠ x.icrc then (x.source.map LogRec.size).sum + 1
    else 0

/-- An event leaves the agenda and takes effect; the replay of an incident has run on its tile by then. -/
def State.run (s : State) (x : Timed) : Out :=
  match x.ev, x.arg with
  | .incidentReplay, .tileNum t i => exec x.ev { s with agenda := s.agenda.erase x, input := .nums3 t i (s.tried i) }
  | _, _ => s.runPlain x

/-- What happens next. -/
def State.advance (s : State) : Out := State.advanceWith State.run s

/-! ### Placing an instruction -/

/-- A code line with one head and its tail (12 R232, R233). -/
def oneHead (head tail : Nat) : List (BitVec 16) :=
  let n := tailLen head
  BitVec.ofNat 16 0x0800 :: BitVec.ofNat 16 head ::
    (List.replicate (30 - n) 0 ++ (List.range n).map (fun i => BitVec.ofNat 16 (tail / 65536 ^ i)))

/-- The machine with one instruction as the next thing to happen: a thread in slot 0 of tile 0 stands at the head of a line that
the instruction cache holds (log 3). -/
def State.placed (s : State) (head tail : Nat) : State :=
  let t := s.tile 0
  let th := { s.thr 0 0 with pc := 2, via := 2, park := none, skip := false, fault := none }
  let e := { t.launchOf th.lix with limit := BitVec.ofNat 32 64 }
  let l : ICLine := { lix := th.lix.toNat, line := 0, halves := oneHead head tail }
  let c := { t.c with launches := t.c.launches.set th.lix.toNat e, icache := touchLine l t.c.icache }
  let t := { t with c := c, r := { t.r with cyc := 0, script := [], mask := 0, mode := .live, hung := false, ctx := if t.r.ctx = 0 then 1 else t.r.ctx } }
  let s := { s with tiles := s.tiles.mapVals (fun x => { x with r := { x.r with script := [] } }) }
  { s.setTile 0 (t.setSlot 0 (some th)) with
    agenda := [], turns := [0], dev := { s.dev with boot := if s.dev.boot = .halted then .ready else s.dev.boot } }

end Sys2Proof.Machine
end

