-- ==== Sys2Proof/Machine/Step.lean ====
section
/-!
DEFINITION. The step of the machine.
-/
namespace Sys2Proof.Machine

/-- One step (01 R23, 06 R117): a machine halted at boot does nothing more. -/
def step (s : State) : Host.Outcome State Fault Refusal :=
  if s.dev.boot = .halted then .fault .bootHalted else s.advance

/-- The state with an instruction, its bits numbered as the opcode table numbers them, where `step` fetches next (log 3, log 4). -/
def State.withFetchWord (s : State) (nbits w : Nat) : State :=
  s.placed (w / 2 ^ (nbits - 16)) (w % 2 ^ (nbits - 16))

end Sys2Proof.Machine
end

