-- ==== Sys2Proof/Laws/Encoding.lean ====
section
/-!
SUPPORT. The fields of heads and tails: each is read back as it was put, and decoding a code depends on its fields alone.
-/
namespace Sys2Proof.Laws
open Sys2Proof

/-- The fields of a code fit their places in the head. -/
def Fits (c : Code) : Prop := c.tl < 4 ∧ c.op < 64 ∧ c.d < 32 ∧ c.s < 8

theorem decode_code {c : Code} (h : Fits c) : decode c.head c.tail = decFields c.tl c.op c.d c.s (tailPart c.tl c.tail) := by
  obtain ⟨h1, h2, h3, h4⟩ := h
  have e1 : c.head / 16384 % 4 = c.tl := by unfold Code.head; omega
  have e2 : c.head / 256 % 64 = c.op := by unfold Code.head; omega
  have e3 : c.head / 8 % 32 = c.d := by unfold Code.head; omega
  have e4 : c.head % 8 = c.s := by unfold Code.head; omega
  simp only [decode, e1, e2, e3, e4]

/-- A round trip from the encoding, its fit, and the decoding of its fields. -/
theorem roundTrip {i : Instr} (c : Code) (he : encode i = some c) (hf : Fits c)
    (hd : i.wf = true → decFields c.tl c.op c.d c.s (tailPart c.tl c.tail) = .instr i) :
    i.wf = true → ∀ c, encode i = some c → decode c.head c.tail = .instr i := by
  intro hw c' h
  obtain rfl : c = c' := by simpa [he] using h
  rw [decode_code hf, hd hw]

/-! ### Numbers of registers, predicates and small fields -/

@[simp] theorem regOf_val (r : Reg) : regOf r.val = r := by ext; simp [regOf]
@[simp] theorem predOf_val (q : Pred) : predOf q.val = q := by ext; simp [predOf]
@[simp] theorem ofNat_val {n : Nat} [NeZero n] (x : Fin n) : Fin.ofNat n x.val = x := by ext; simp
theorem bits_ofNat {n : Nat} (x : BitVec n) : BitVec.ofNat n x.toNat = x := by simp

/-! ### Tails -/

@[simp] theorem tailPart_zero (t : Nat) : tailPart 0 t = 0 := Nat.mod_one t
theorem tailPart_one {t : Nat} (h : t < 65536) : tailPart 1 t = t := Nat.mod_eq_of_lt h
theorem tailPart_two {t : Nat} (h : t < 4294967296) : tailPart 2 t = t := Nat.mod_eq_of_lt h
theorem tailPart_three {t : Nat} (h : t < 18446744073709551616) : tailPart 3 t = t := Nat.mod_eq_of_lt h

section
variable {a b c e : Reg} {f i : Nat}

@[simp] theorem tail_tr (h : f < 64) : tailPart 1 (tr a b f) = tr a b f :=
  tailPart_one (by have := a.isLt; have := b.isLt; unfold tr; omega)
@[simp] theorem trA_tr (h : f < 64) : trA (tr a b f) = a.val := by have := a.isLt; have := b.isLt; unfold trA tr; omega
@[simp] theorem trB_tr (h : f < 64) : trB (tr a b f) = b.val := by have := a.isLt; have := b.isLt; unfold trB tr; omega
@[simp] theorem trF_tr (h : f < 64) : trF (tr a b f) = f := by have := a.isLt; have := b.isLt; unfold trF tr; omega

@[simp] theorem tail_ti (h : i < 2048) : tailPart 1 (ti a i) = ti a i := tailPart_one (by have := a.isLt; unfold ti; omega)
@[simp] theorem trA_ti (h : i < 2048) : trA (ti a i) = a.val := by have := a.isLt; unfold trA ti; omega
@[simp] theorem tiI_ti (h : i < 2048) : tiI (ti a i) = i := by have := a.isLt; unfold tiI ti; omega

@[simp] theorem tail_tdw (hf : f < 64) (hi : i < 65536) : tailPart 2 (tdw a b f i) = tdw a b f i :=
  tailPart_two (by have := a.isLt; have := b.isLt; unfold tdw; omega)
@[simp] theorem tdA_tdw (hf : f < 64) (hi : i < 65536) : tdA (tdw a b f i) = a.val := by
  have := a.isLt; have := b.isLt; unfold tdA tdw; omega
@[simp] theorem tdB_tdw (hf : f < 64) (hi : i < 65536) : tdB (tdw a b f i) = b.val := by
  have := a.isLt; have := b.isLt; unfold tdB tdw; omega
@[simp] theorem tdF_tdw (hf : f < 64) (hi : i < 65536) : tdF (tdw a b f i) = f := by
  have := a.isLt; have := b.isLt; unfold tdF tdw; omega
@[simp] theorem tdI_tdw (hi : i < 65536) : tdI (tdw a b f i) = i := by
  have := a.isLt; have := b.isLt; unfold tdI tdw; omega

@[simp] theorem tail_tq (hf : f < 64) (hi : i < 274877906944) : tailPart 3 (tq a b c e f i) = tq a b c e f i :=
  tailPart_three (by have := a.isLt; have := b.isLt; have := c.isLt; have := e.isLt; unfold tq; omega)
@[simp] theorem tqA_tq (hf : f < 64) (hi : i < 274877906944) : tqA (tq a b c e f i) = a.val := by
  have := a.isLt; have := b.isLt; have := c.isLt; have := e.isLt; unfold tqA tq; omega
@[simp] theorem tqB_tq (hf : f < 64) (hi : i < 274877906944) : tqB (tq a b c e f i) = b.val := by
  have := a.isLt; have := b.isLt; have := c.isLt; have := e.isLt; unfold tqB tq; omega
@[simp] theorem tqC_tq (hf : f < 64) (hi : i < 274877906944) : tqC (tq a b c e f i) = c.val := by
  have := a.isLt; have := b.isLt; have := c.isLt; have := e.isLt; unfold tqC tq; omega
@[simp] theorem tqE_tq (hf : f < 64) (hi : i < 274877906944) : tqE (tq a b c e f i) = e.val := by
  have := a.isLt; have := b.isLt; have := c.isLt; have := e.isLt; unfold tqE tq; omega
@[simp] theorem tqF_tq (hf : f < 64) (hi : i < 274877906944) : tqF (tq a b c e f i) = f := by
  have := a.isLt; have := b.isLt; have := c.isLt; have := e.isLt; unfold tqF tq; omega
@[simp] theorem tqI_tq (hi : i < 274877906944) : tqI (tq a b c e f i) = i := by
  have := a.isLt; have := b.isLt; have := c.isLt; have := e.isLt; unfold tqI tq; omega

end

theorem bits_lt (t : Target) : t.bits < 65536 := by
  have := t.l.isLt; have := t.h.isLt; unfold Target.bits; omega

@[simp] theorem tail_bits (t : Target) : tailPart 1 t.bits = t.bits := tailPart_one (bits_lt t)

@[simp] theorem targetOf_bits (t : Target) : targetOf t.bits = t := by
  have h1 := t.l.isLt
  have h2 := t.h.isLt
  have e1 : t.bits / 32 = t.l.toNat := by unfold Target.bits; omega
  have e2 : BitVec.ofNat 5 t.bits = t.h := by
    apply BitVec.eq_of_toNat_eq
    simp only [BitVec.toNat_ofNat, Target.bits]
    omega
  simp [targetOf, e1, e2]

/-! ### Round trips by the form of the tail -/

section
variable {i : Instr} {op d s f m : Nat} {a b c e : Reg}

/-- Round trip of a head alone. -/
theorem roundTrip_head (he : encode i = some ⟨0, op, d, s, 0⟩) (hf : op < 64 ∧ d < 32 ∧ s < 8)
    (hd : i.wf = true → decFields 0 op d s 0 = .instr i) :
    i.wf = true → ∀ c, encode i = some c → decode c.head c.tail = .instr i :=
  roundTrip _ he ⟨by simp, hf⟩ fun hw => by
    show decFields 0 op d s (tailPart 0 0) = _
    rw [tailPart_zero]; exact hd hw

/-- Round trip of a halfword tail. -/
theorem roundTrip_half (he : encode i = some ⟨1, op, d, s, m⟩) (hf : op < 64 ∧ d < 32 ∧ s < 8) (hm : m < 65536)
    (hd : i.wf = true → decFields 1 op d s m = .instr i) :
    i.wf = true → ∀ c, encode i = some c → decode c.head c.tail = .instr i :=
  roundTrip _ he ⟨by simp, hf⟩ fun hw => by
    show decFields 1 op d s (tailPart 1 m) = _
    rw [tailPart_one hm]; exact hd hw

/-- Round trip of a word tail. -/
theorem roundTrip_word (he : encode i = some ⟨2, op, d, s, m⟩) (hf : op < 64 ∧ d < 32 ∧ s < 8) (hm : m < 4294967296)
    (hd : i.wf = true → decFields 2 op d s m = .instr i) :
    i.wf = true → ∀ c, encode i = some c → decode c.head c.tail = .instr i :=
  roundTrip _ he ⟨by simp, hf⟩ fun hw => by
    show decFields 2 op d s (tailPart 2 m) = _
    rw [tailPart_two hm]; exact hd hw

/-- Round trip of a doubleword tail. -/
theorem roundTrip_double (he : encode i = some ⟨3, op, d, s, m⟩) (hf : op < 64 ∧ d < 32 ∧ s < 8)
    (hm : m < 18446744073709551616) (hd : i.wf = true → decFields 3 op d s m = .instr i) :
    i.wf = true → ∀ c, encode i = some c → decode c.head c.tail = .instr i :=
  roundTrip _ he ⟨by simp, hf⟩ fun hw => by
    show decFields 3 op d s (tailPart 3 m) = _
    rw [tailPart_three hm]; exact hd hw

/-- Round trip of a tail TR: what the decoder reads of it are its fields. -/
theorem roundTrip_tr (he : encode i = some ⟨1, op, d, s, tr a b f⟩) (hf : op < 64 ∧ d < 32 ∧ s < 8) (hF : f < 64)
    (hd : i.wf = true → ∀ t, trA t = a.val → trB t = b.val → trF t = f → decFields 1 op d s t = .instr i) :
    i.wf = true → ∀ c, encode i = some c → decode c.head c.tail = .instr i :=
  roundTrip_half he hf (by have := a.isLt; have := b.isLt; unfold tr; omega) fun hw =>
    hd hw _ (trA_tr hF) (trB_tr hF) (trF_tr hF)

/-- Round trip of a tail that names predicates. -/
theorem roundTrip_preds (x y : Pred) (he : encode i = some ⟨1, op, d, s, x.val * 2048 + y.val * 64⟩)
    (hf : op < 64 ∧ d < 32 ∧ s < 8)
    (hd : i.wf = true → ∀ t, trA t = x.val → trB t = y.val → trF t = 0 → decFields 1 op d s t = .instr i) :
    i.wf = true → ∀ c, encode i = some c → decode c.head c.tail = .instr i :=
  roundTrip_half he hf (by have := x.isLt; have := y.isLt; omega) fun hw =>
    hd hw _ (by have := x.isLt; have := y.isLt; unfold trA; omega) (by have := x.isLt; have := y.isLt; unfold trB; omega)
      (by have := x.isLt; have := y.isLt; unfold trF; omega)

/-- Round trip of a tail TI. -/
theorem roundTrip_ti (he : encode i = some ⟨1, op, d, s, ti a m⟩) (hf : op < 64 ∧ d < 32 ∧ s < 8) (hm : m < 2048)
    (hd : i.wf = true → ∀ t, trA t = a.val → tiI t = m → decFields 1 op d s t = .instr i) :
    i.wf = true → ∀ c, encode i = some c → decode c.head c.tail = .instr i :=
  roundTrip_half he hf (by have := a.isLt; unfold ti; omega) fun hw => hd hw _ (trA_ti hm) (tiI_ti hm)

/-- Round trip of a tail TD. -/
theorem roundTrip_td (he : encode i = some ⟨2, op, d, s, tdw a b f m⟩) (hf : op < 64 ∧ d < 32 ∧ s < 8) (hF : f < 64)
    (hm : m < 65536)
    (hd : i.wf = true → ∀ t, tdA t = a.val → tdB t = b.val → tdF t = f → tdI t = m → decFields 2 op d s t = .instr i) :
    i.wf = true → ∀ c, encode i = some c → decode c.head c.tail = .instr i :=
  roundTrip_word he hf (by have := a.isLt; have := b.isLt; unfold tdw; omega) fun hw =>
    hd hw _ (tdA_tdw hF hm) (tdB_tdw hF hm) (tdF_tdw hF hm) (tdI_tdw hm)

/-- Round trip of a tail TQ. -/
theorem roundTrip_tq (he : encode i = some ⟨3, op, d, s, tq a b c e f m⟩) (hf : op < 64 ∧ d < 32 ∧ s < 8) (hF : f < 64)
    (hm : m < 274877906944)
    (hd : i.wf = true → ∀ t, tqA t = a.val → tqB t = b.val → tqC t = c.val → tqE t = e.val → tqF t = f → tqI t = m →
      decFields 3 op d s t = .instr i) :
    i.wf = true → ∀ c, encode i = some c → decode c.head c.tail = .instr i :=
  roundTrip_double he hf
    (by have := a.isLt; have := b.isLt; have := c.isLt; have := e.isLt; unfold tq; omega) fun hw =>
    hd hw _ (tqA_tq hF hm) (tqB_tq hF hm) (tqC_tq hF hm) (tqE_tq hF hm) (tqF_tq hF hm) (tqI_tq hm)

end

/-! ### Packed immediates -/

theorem bitf_pos (p n : BitVec 6) : BitVec.ofNat 6 (n.toNat * 64 + p.toNat) = p := by
  apply BitVec.eq_of_toNat_eq; have := p.isLt; simp only [BitVec.toNat_ofNat]; omega
theorem bitf_len (p n : BitVec 6) : BitVec.ofNat 6 ((n.toNat * 64 + p.toNat) / 64) = n := by
  apply BitVec.eq_of_toNat_eq; have := p.isLt; have := n.isLt; simp only [BitVec.toNat_ofNat]; omega
theorem bitf_lt (p n : BitVec 6) : n.toNat * 64 + p.toNat < 4096 := by have := p.isLt; have := n.isLt; omega
theorem acc_fields {h : BitVec 7} {n : Fin 16} {ty t : Nat} {c : Bool} (ht : ty < 16)
    (hI : tdI t = h.toNat + n.val * 128 + ty * 2048 + c.toNat * 32768) :
    BitVec.ofNat 7 (tdI t) = h ∧ Fin.ofNat 16 (tdI t / 128) = n ∧ tdI t / 128 % 16 = n.val ∧ tdI t / 2048 % 16 = ty
      ∧ tdI t / 32768 % 2 = c.toNat := by
  have := h.isLt; have := n.isLt; have := c.toNat_le
  refine ⟨?_, ?_, ?_, ?_, ?_⟩
  · apply BitVec.eq_of_toNat_eq; simp only [BitVec.toNat_ofNat]; omega
  · ext; simp only [Fin.ofNat]; omega
  all_goals omega
theorem gat_fields {o : GatOps} {t : Nat} (hI : tqI t = o.ty.val + 16 * o.x32.toNat) :
    Fin.ofNat 8 (tqI t) = o.ty ∧ tqI t % 16 = o.ty.val ∧ tqI t < 64 ∧ tqI t / 16 < 2 ∧ (tqI t / 16 % 4 == 1) = o.x32 := by
  have := o.ty.isLt; have := o.x32.toNat_le
  refine ⟨?_, ?_, ?_, ?_, ?_⟩
  · ext; simp only [Fin.ofNat]; omega
  · omega
  · omega
  · omega
  · have : tqI t / 16 % 4 = o.x32.toNat := by omega
    rw [this]; cases o.x32 <;> rfl
theorem ety_lt {ty : ETy} (h : (ty != 7) = true) : ty.val < 7 := by revert ty; decide
theorem vec_td (o : VecOps) : Fin.ofNat 8 (o.td.val + 16 * o.sat.toNat + 32 * o.sc.toNat) = o.td := by
  ext; have := o.td.isLt; simp only [Fin.ofNat]; omega
theorem vec_lt (o : VecOps) : o.td.val + 16 * o.sat.toNat + 32 * o.sc.toNat < 64 := by
  have := o.td.isLt; have := o.sat.toNat_le; have := o.sc.toNat_le; omega
theorem vec_ty (o : VecOps) : (o.td.val + 16 * o.sat.toNat + 32 * o.sc.toNat) % 16 = o.td.val := by
  have := o.td.isLt; omega
theorem vec_sat (o : VecOps) : ((o.td.val + 16 * o.sat.toNat + 32 * o.sc.toNat) / 16 % 2 == 1) = o.sat := by
  have : (o.td.val + 16 * o.sat.toNat + 32 * o.sc.toNat) / 16 % 2 = o.sat.toNat := by
    have := o.td.isLt; have := o.sat.toNat_le; omega
  rw [this]; cases o.sat <;> rfl
theorem vec_sc (o : VecOps) : ((o.td.val + 16 * o.sat.toNat + 32 * o.sc.toNat) / 32 % 2 == 1) = o.sc := by
  have : (o.td.val + 16 * o.sat.toNat + 32 * o.sc.toNat) / 32 % 2 = o.sc.toNat := by
    have := o.td.isLt; have := o.sat.toNat_le; have := o.sc.toNat_le; omega
  rw [this]; cases o.sc <;> rfl
theorem mma_h (o : MmaOps) : BitVec.ofNat 7 (o.h.toNat + o.pa.toNat * 128 + o.pb.toNat * 8388608) = o.h := by
  apply BitVec.eq_of_toNat_eq; have := o.h.isLt; simp only [BitVec.toNat_ofNat]; omega
theorem mma_pa (o : MmaOps) : BitVec.ofNat 16 ((o.h.toNat + o.pa.toNat * 128 + o.pb.toNat * 8388608) / 128) = o.pa := by
  apply BitVec.eq_of_toNat_eq; have := o.h.isLt; have := o.pa.isLt; simp only [BitVec.toNat_ofNat]; omega
theorem mma_pb (o : MmaOps) : BitVec.ofNat 15 ((o.h.toNat + o.pa.toNat * 128 + o.pb.toNat * 8388608) / 8388608) = o.pb := by
  apply BitVec.eq_of_toNat_eq; have := o.h.isLt; have := o.pa.isLt; have := o.pb.isLt; simp only [BitVec.toNat_ofNat]; omega
theorem mma_acc (o : MmaOps) : ((o.acc.toNat + 2 * o.col.toNat) % 2 == 1) = o.acc := by
  have : (o.acc.toNat + 2 * o.col.toNat) % 2 = o.acc.toNat := by have := o.acc.toNat_le; omega
  rw [this]; cases o.acc <;> rfl
theorem mma_col (o : MmaOps) : ((o.acc.toNat + 2 * o.col.toNat) / 2 % 2 == 1) = o.col := by
  have : (o.acc.toNat + 2 * o.col.toNat) / 2 % 2 = o.col.toNat := by have := o.acc.toNat_le; have := o.col.toNat_le; omega
  rw [this]; cases o.col <;> rfl
theorem mma_s (o : MmaOps) : o.acc.toNat + 2 * o.col.toNat < 4 := by
  have := o.acc.toNat_le; have := o.col.toNat_le; omega
theorem bopen_h (h : BitVec 7) (n : Fin 16) (w : BitVec 5) : BitVec.ofNat 7 (h.toNat + n.val * 128 + w.toNat * 2048) = h := by
  apply BitVec.eq_of_toNat_eq; have := h.isLt; simp only [BitVec.toNat_ofNat]; omega
theorem bopen_n (h : BitVec 7) (n : Fin 16) (w : BitVec 5) : Fin.ofNat 16 ((h.toNat + n.val * 128 + w.toNat * 2048) / 128) = n := by
  ext; have := h.isLt; have := n.isLt; simp only [Fin.ofNat]; omega
theorem bopen_w (h : BitVec 7) (n : Fin 16) (w : BitVec 5) : (h.toNat + n.val * 128 + w.toNat * 2048) / 2048 = w.toNat := by
  have := h.isLt; have := n.isLt; omega
theorem red_op (o : BitVec 3) (y : BitVec 4) : BitVec.ofNat 3 (o.toNat + y.toNat * 16) = o := by
  apply BitVec.eq_of_toNat_eq; have := o.isLt; simp only [BitVec.toNat_ofNat]; omega
theorem red_ty (o : BitVec 3) (y : BitVec 4) : BitVec.ofNat 4 ((o.toNat + y.toNat * 16) / 16) = y := by
  apply BitVec.eq_of_toNat_eq; have := o.isLt; have := y.isLt; simp only [BitVec.toNat_ofNat]; omega
theorem red_gap (o : BitVec 3) (y : BitVec 4) : (o.toNat + y.toNat * 16) / 8 % 2 = 0 := by have := o.isLt; omega
theorem red_lt (o : BitVec 3) (y : BitVec 4) : o.toNat + y.toNat * 16 < 256 := by have := o.isLt; have := y.isLt; omega
theorem ety_ne {ty : ETy} (h : (ty != 7) = true) : ¬ty.val = 7 := by have := ety_lt h; omega
theorem accld_lt {ty : ETy} (h : (decide (ty.val < 7) && ty != 3) = true) : ty.val < 7 := by revert ty; decide
theorem accld_ne {ty : ETy} (h : (decide (ty.val < 7) && ty != 3) = true) : ¬ty.val = 3 := by revert ty; decide
theorem mma_acc' (o : MmaOps) : (o.acc.toNat % 2 == 1) = o.acc := by cases o.acc <;> rfl
theorem acc_lt (h : BitVec 7) (n : Fin 16) {ty : Nat} (c : Bool) (ht : ty < 16) :
    h.toNat + n.val * 128 + ty * 2048 + c.toNat * 32768 < 65536 := by
  have := h.isLt; have := n.isLt; have := c.toNat_le; omega
theorem regOf_add (r : Reg) : regOf (32 + r.val) = r := by ext; have := r.isLt; simp only [regOf, Fin.ofNat]; omega
theorem loopi_count (n : BitVec 8) : BitVec.ofNat 8 (n.toNat / 8 * 8 + n.toNat % 8) = n := by
  apply BitVec.eq_of_toNat_eq; have := n.isLt; simp only [BitVec.toNat_ofNat]; omega

end Sys2Proof.Laws
end

