-- ==== Sys2Proof/Laws/PerInstr.lean ====
section
/-!
SUPPORT. The encoding round trip of every instruction: what `encode` gives decodes to the instruction. One lemma per constructor; an event has no encoding.
-/
namespace Sys2Proof.Laws.RoundTrip
open Sys2Proof Sys2Proof.Laws
set_option Elab.async false
set_option linter.unusedSimpArgs false

/-- The head and tail that encode a well-formed instruction decode to it. -/
def Statement (i : Instr) : Prop := i.wf = true → ∀ c, encode i = some c → decode c.head c.tail = .instr i

theorem nop : Statement (.nop) := by
  refine roundTrip_head rfl ?_ fun hw  => ?_
  · omega
  · simp [-Fin.ofNat_eq_cast, decFields, decMisc, pick]

theorem exit : Statement (.exit) := by
  refine roundTrip_head rfl ?_ fun hw  => ?_
  · omega
  · simp [-Fin.ofNat_eq_cast, decFields, decMisc, pick]

theorem yield : Statement (.yield) := by
  refine roundTrip_head rfl ?_ fun hw  => ?_
  · omega
  · simp [-Fin.ofNat_eq_cast, decFields, decMisc, pick]

theorem brk : Statement (.brk) := by
  refine roundTrip_head rfl ?_ fun hw  => ?_
  · omega
  · simp [-Fin.ofNat_eq_cast, decFields, decMisc, pick]

theorem trap (n : Fin 32) : Statement (.trap n) := by
  have h_n : n.val < 32 := n.isLt
  refine roundTrip_head rfl ?_ fun hw  => ?_
  · omega
  · simp [-Fin.ofNat_eq_cast, decFields, decMisc, pick, h_n]

theorem rett : Statement (.rett) := by
  refine roundTrip_head rfl ?_ fun hw  => ?_
  · omega
  · simp [-Fin.ofNat_eq_cast, decFields, decMisc, pick]

theorem add (w : Bool) (rd : Reg) (ra : Reg) (rb : Reg) : Statement (.add w rd ra rb) := by
  have h_w : w.toNat ≤ 1 := Bool.toNat_le _
  have h_rd : rd.val < 32 := rd.isLt
  have h_ra : ra.val < 32 := ra.isLt
  have h_rb : rb.val < 32 := rb.isLt
  refine roundTrip_tr rfl ?_ ?_ fun hw t hA hB hF => ?_
  · omega
  · omega
  · cases w <;> simp [-Fin.ofNat_eq_cast, decFields, decAlu, pick, hA, hB, hF, h_rd, h_ra, h_rb]

theorem sub (w : Bool) (rd : Reg) (ra : Reg) (rb : Reg) : Statement (.sub w rd ra rb) := by
  have h_w : w.toNat ≤ 1 := Bool.toNat_le _
  have h_rd : rd.val < 32 := rd.isLt
  have h_ra : ra.val < 32 := ra.isLt
  have h_rb : rb.val < 32 := rb.isLt
  refine roundTrip_tr rfl ?_ ?_ fun hw t hA hB hF => ?_
  · omega
  · omega
  · cases w <;> simp [-Fin.ofNat_eq_cast, decFields, decAlu, pick, hA, hB, hF, h_rd, h_ra, h_rb]

theorem mul (w : Bool) (rd : Reg) (ra : Reg) (rb : Reg) : Statement (.mul w rd ra rb) := by
  have h_w : w.toNat ≤ 1 := Bool.toNat_le _
  have h_rd : rd.val < 32 := rd.isLt
  have h_ra : ra.val < 32 := ra.isLt
  have h_rb : rb.val < 32 := rb.isLt
  refine roundTrip_tr rfl ?_ ?_ fun hw t hA hB hF => ?_
  · omega
  · omega
  · cases w <;> simp [-Fin.ofNat_eq_cast, decFields, decAlu, pick, hA, hB, hF, h_rd, h_ra, h_rb]

theorem mulh (w : Bool) (rd : Reg) (ra : Reg) (rb : Reg) : Statement (.mulh w rd ra rb) := by
  have h_w : w.toNat ≤ 1 := Bool.toNat_le _
  have h_rd : rd.val < 32 := rd.isLt
  have h_ra : ra.val < 32 := ra.isLt
  have h_rb : rb.val < 32 := rb.isLt
  refine roundTrip_tr rfl ?_ ?_ fun hw t hA hB hF => ?_
  · omega
  · omega
  · cases w <;> simp [-Fin.ofNat_eq_cast, decFields, decAlu, pick, hA, hB, hF, h_rd, h_ra, h_rb]

theorem mulhu (w : Bool) (rd : Reg) (ra : Reg) (rb : Reg) : Statement (.mulhu w rd ra rb) := by
  have h_w : w.toNat ≤ 1 := Bool.toNat_le _
  have h_rd : rd.val < 32 := rd.isLt
  have h_ra : ra.val < 32 := ra.isLt
  have h_rb : rb.val < 32 := rb.isLt
  refine roundTrip_tr rfl ?_ ?_ fun hw t hA hB hF => ?_
  · omega
  · omega
  · cases w <;> simp [-Fin.ofNat_eq_cast, decFields, decAlu, pick, hA, hB, hF, h_rd, h_ra, h_rb]

theorem div (w : Bool) (rd : Reg) (ra : Reg) (rb : Reg) : Statement (.div w rd ra rb) := by
  have h_w : w.toNat ≤ 1 := Bool.toNat_le _
  have h_rd : rd.val < 32 := rd.isLt
  have h_ra : ra.val < 32 := ra.isLt
  have h_rb : rb.val < 32 := rb.isLt
  refine roundTrip_tr rfl ?_ ?_ fun hw t hA hB hF => ?_
  · omega
  · omega
  · cases w <;> simp [-Fin.ofNat_eq_cast, decFields, decAlu, pick, hA, hB, hF, h_rd, h_ra, h_rb]

theorem divu (w : Bool) (rd : Reg) (ra : Reg) (rb : Reg) : Statement (.divu w rd ra rb) := by
  have h_w : w.toNat ≤ 1 := Bool.toNat_le _
  have h_rd : rd.val < 32 := rd.isLt
  have h_ra : ra.val < 32 := ra.isLt
  have h_rb : rb.val < 32 := rb.isLt
  refine roundTrip_tr rfl ?_ ?_ fun hw t hA hB hF => ?_
  · omega
  · omega
  · cases w <;> simp [-Fin.ofNat_eq_cast, decFields, decAlu, pick, hA, hB, hF, h_rd, h_ra, h_rb]

theorem rem (w : Bool) (rd : Reg) (ra : Reg) (rb : Reg) : Statement (.rem w rd ra rb) := by
  have h_w : w.toNat ≤ 1 := Bool.toNat_le _
  have h_rd : rd.val < 32 := rd.isLt
  have h_ra : ra.val < 32 := ra.isLt
  have h_rb : rb.val < 32 := rb.isLt
  refine roundTrip_tr rfl ?_ ?_ fun hw t hA hB hF => ?_
  · omega
  · omega
  · cases w <;> simp [-Fin.ofNat_eq_cast, decFields, decAlu, pick, hA, hB, hF, h_rd, h_ra, h_rb]

theorem remu (w : Bool) (rd : Reg) (ra : Reg) (rb : Reg) : Statement (.remu w rd ra rb) := by
  have h_w : w.toNat ≤ 1 := Bool.toNat_le _
  have h_rd : rd.val < 32 := rd.isLt
  have h_ra : ra.val < 32 := ra.isLt
  have h_rb : rb.val < 32 := rb.isLt
  refine roundTrip_tr rfl ?_ ?_ fun hw t hA hB hF => ?_
  · omega
  · omega
  · cases w <;> simp [-Fin.ofNat_eq_cast, decFields, decAlu, pick, hA, hB, hF, h_rd, h_ra, h_rb]

theorem and (w : Bool) (rd : Reg) (ra : Reg) (rb : Reg) : Statement (.and w rd ra rb) := by
  have h_w : w.toNat ≤ 1 := Bool.toNat_le _
  have h_rd : rd.val < 32 := rd.isLt
  have h_ra : ra.val < 32 := ra.isLt
  have h_rb : rb.val < 32 := rb.isLt
  refine roundTrip_tr rfl ?_ ?_ fun hw t hA hB hF => ?_
  · omega
  · omega
  · cases w <;> simp [-Fin.ofNat_eq_cast, decFields, decAlu, pick, hA, hB, hF, h_rd, h_ra, h_rb]

theorem or (w : Bool) (rd : Reg) (ra : Reg) (rb : Reg) : Statement (.or w rd ra rb) := by
  have h_w : w.toNat ≤ 1 := Bool.toNat_le _
  have h_rd : rd.val < 32 := rd.isLt
  have h_ra : ra.val < 32 := ra.isLt
  have h_rb : rb.val < 32 := rb.isLt
  refine roundTrip_tr rfl ?_ ?_ fun hw t hA hB hF => ?_
  · omega
  · omega
  · cases w <;> simp [-Fin.ofNat_eq_cast, decFields, decAlu, pick, hA, hB, hF, h_rd, h_ra, h_rb]

theorem xor (w : Bool) (rd : Reg) (ra : Reg) (rb : Reg) : Statement (.xor w rd ra rb) := by
  have h_w : w.toNat ≤ 1 := Bool.toNat_le _
  have h_rd : rd.val < 32 := rd.isLt
  have h_ra : ra.val < 32 := ra.isLt
  have h_rb : rb.val < 32 := rb.isLt
  refine roundTrip_tr rfl ?_ ?_ fun hw t hA hB hF => ?_
  · omega
  · omega
  · cases w <;> simp [-Fin.ofNat_eq_cast, decFields, decAlu, pick, hA, hB, hF, h_rd, h_ra, h_rb]

theorem andn (w : Bool) (rd : Reg) (ra : Reg) (rb : Reg) : Statement (.andn w rd ra rb) := by
  have h_w : w.toNat ≤ 1 := Bool.toNat_le _
  have h_rd : rd.val < 32 := rd.isLt
  have h_ra : ra.val < 32 := ra.isLt
  have h_rb : rb.val < 32 := rb.isLt
  refine roundTrip_tr rfl ?_ ?_ fun hw t hA hB hF => ?_
  · omega
  · omega
  · cases w <;> simp [-Fin.ofNat_eq_cast, decFields, decAlu, pick, hA, hB, hF, h_rd, h_ra, h_rb]

theorem shl (w : Bool) (rd : Reg) (ra : Reg) (rb : Reg) : Statement (.shl w rd ra rb) := by
  have h_w : w.toNat ≤ 1 := Bool.toNat_le _
  have h_rd : rd.val < 32 := rd.isLt
  have h_ra : ra.val < 32 := ra.isLt
  have h_rb : rb.val < 32 := rb.isLt
  refine roundTrip_tr rfl ?_ ?_ fun hw t hA hB hF => ?_
  · omega
  · omega
  · cases w <;> simp [-Fin.ofNat_eq_cast, decFields, decAlu, pick, hA, hB, hF, h_rd, h_ra, h_rb]

theorem shr (w : Bool) (rd : Reg) (ra : Reg) (rb : Reg) : Statement (.shr w rd ra rb) := by
  have h_w : w.toNat ≤ 1 := Bool.toNat_le _
  have h_rd : rd.val < 32 := rd.isLt
  have h_ra : ra.val < 32 := ra.isLt
  have h_rb : rb.val < 32 := rb.isLt
  refine roundTrip_tr rfl ?_ ?_ fun hw t hA hB hF => ?_
  · omega
  · omega
  · cases w <;> simp [-Fin.ofNat_eq_cast, decFields, decAlu, pick, hA, hB, hF, h_rd, h_ra, h_rb]

theorem sar (w : Bool) (rd : Reg) (ra : Reg) (rb : Reg) : Statement (.sar w rd ra rb) := by
  have h_w : w.toNat ≤ 1 := Bool.toNat_le _
  have h_rd : rd.val < 32 := rd.isLt
  have h_ra : ra.val < 32 := ra.isLt
  have h_rb : rb.val < 32 := rb.isLt
  refine roundTrip_tr rfl ?_ ?_ fun hw t hA hB hF => ?_
  · omega
  · omega
  · cases w <;> simp [-Fin.ofNat_eq_cast, decFields, decAlu, pick, hA, hB, hF, h_rd, h_ra, h_rb]

theorem rot (w : Bool) (rd : Reg) (ra : Reg) (rb : Reg) : Statement (.rot w rd ra rb) := by
  have h_w : w.toNat ≤ 1 := Bool.toNat_le _
  have h_rd : rd.val < 32 := rd.isLt
  have h_ra : ra.val < 32 := ra.isLt
  have h_rb : rb.val < 32 := rb.isLt
  refine roundTrip_tr rfl ?_ ?_ fun hw t hA hB hF => ?_
  · omega
  · omega
  · cases w <;> simp [-Fin.ofNat_eq_cast, decFields, decAlu, pick, hA, hB, hF, h_rd, h_ra, h_rb]

theorem min (w : Bool) (rd : Reg) (ra : Reg) (rb : Reg) : Statement (.min w rd ra rb) := by
  have h_w : w.toNat ≤ 1 := Bool.toNat_le _
  have h_rd : rd.val < 32 := rd.isLt
  have h_ra : ra.val < 32 := ra.isLt
  have h_rb : rb.val < 32 := rb.isLt
  refine roundTrip_tr rfl ?_ ?_ fun hw t hA hB hF => ?_
  · omega
  · omega
  · cases w <;> simp [-Fin.ofNat_eq_cast, decFields, decAlu, pick, hA, hB, hF, h_rd, h_ra, h_rb]

theorem max (w : Bool) (rd : Reg) (ra : Reg) (rb : Reg) : Statement (.max w rd ra rb) := by
  have h_w : w.toNat ≤ 1 := Bool.toNat_le _
  have h_rd : rd.val < 32 := rd.isLt
  have h_ra : ra.val < 32 := ra.isLt
  have h_rb : rb.val < 32 := rb.isLt
  refine roundTrip_tr rfl ?_ ?_ fun hw t hA hB hF => ?_
  · omega
  · omega
  · cases w <;> simp [-Fin.ofNat_eq_cast, decFields, decAlu, pick, hA, hB, hF, h_rd, h_ra, h_rb]

theorem minu (w : Bool) (rd : Reg) (ra : Reg) (rb : Reg) : Statement (.minu w rd ra rb) := by
  have h_w : w.toNat ≤ 1 := Bool.toNat_le _
  have h_rd : rd.val < 32 := rd.isLt
  have h_ra : ra.val < 32 := ra.isLt
  have h_rb : rb.val < 32 := rb.isLt
  refine roundTrip_tr rfl ?_ ?_ fun hw t hA hB hF => ?_
  · omega
  · omega
  · cases w <;> simp [-Fin.ofNat_eq_cast, decFields, decAlu, pick, hA, hB, hF, h_rd, h_ra, h_rb]

theorem maxu (w : Bool) (rd : Reg) (ra : Reg) (rb : Reg) : Statement (.maxu w rd ra rb) := by
  have h_w : w.toNat ≤ 1 := Bool.toNat_le _
  have h_rd : rd.val < 32 := rd.isLt
  have h_ra : ra.val < 32 := ra.isLt
  have h_rb : rb.val < 32 := rb.isLt
  refine roundTrip_tr rfl ?_ ?_ fun hw t hA hB hF => ?_
  · omega
  · omega
  · cases w <;> simp [-Fin.ofNat_eq_cast, decFields, decAlu, pick, hA, hB, hF, h_rd, h_ra, h_rb]

theorem addi (rd : Reg) (ra : Reg) (imm : BitVec 11) : Statement (.addi rd ra imm) := by
  have h_rd : rd.val < 32 := rd.isLt
  have h_ra : ra.val < 32 := ra.isLt
  have h_imm : imm.toNat < 2048 := imm.isLt
  refine roundTrip_ti rfl ?_ ?_ fun hw t hA hI => ?_
  · omega
  · omega
  · simp [-Fin.ofNat_eq_cast, decFields, decAlui, pick, hA, hI, h_rd, h_ra, h_imm]

theorem andi (rd : Reg) (ra : Reg) (imm : BitVec 11) : Statement (.andi rd ra imm) := by
  have h_rd : rd.val < 32 := rd.isLt
  have h_ra : ra.val < 32 := ra.isLt
  have h_imm : imm.toNat < 2048 := imm.isLt
  refine roundTrip_ti rfl ?_ ?_ fun hw t hA hI => ?_
  · omega
  · omega
  · simp [-Fin.ofNat_eq_cast, decFields, decAlui, pick, hA, hI, h_rd, h_ra, h_imm]

theorem ori (rd : Reg) (ra : Reg) (imm : BitVec 11) : Statement (.ori rd ra imm) := by
  have h_rd : rd.val < 32 := rd.isLt
  have h_ra : ra.val < 32 := ra.isLt
  have h_imm : imm.toNat < 2048 := imm.isLt
  refine roundTrip_ti rfl ?_ ?_ fun hw t hA hI => ?_
  · omega
  · omega
  · simp [-Fin.ofNat_eq_cast, decFields, decAlui, pick, hA, hI, h_rd, h_ra, h_imm]

theorem xori (rd : Reg) (ra : Reg) (imm : BitVec 11) : Statement (.xori rd ra imm) := by
  have h_rd : rd.val < 32 := rd.isLt
  have h_ra : ra.val < 32 := ra.isLt
  have h_imm : imm.toNat < 2048 := imm.isLt
  refine roundTrip_ti rfl ?_ ?_ fun hw t hA hI => ?_
  · omega
  · omega
  · simp [-Fin.ofNat_eq_cast, decFields, decAlui, pick, hA, hI, h_rd, h_ra, h_imm]

theorem shli (rd : Reg) (ra : Reg) (n : BitVec 6) : Statement (.shli rd ra n) := by
  have h_rd : rd.val < 32 := rd.isLt
  have h_ra : ra.val < 32 := ra.isLt
  have h_n : n.toNat < 64 := n.isLt
  refine roundTrip_ti rfl ?_ ?_ fun hw t hA hI => ?_
  · omega
  · omega
  · simp [-Fin.ofNat_eq_cast, decFields, decAlui, pick, hA, hI, h_rd, h_ra, h_n]

theorem shri (rd : Reg) (ra : Reg) (n : BitVec 6) : Statement (.shri rd ra n) := by
  have h_rd : rd.val < 32 := rd.isLt
  have h_ra : ra.val < 32 := ra.isLt
  have h_n : n.toNat < 64 := n.isLt
  refine roundTrip_ti rfl ?_ ?_ fun hw t hA hI => ?_
  · omega
  · omega
  · simp [-Fin.ofNat_eq_cast, decFields, decAlui, pick, hA, hI, h_rd, h_ra, h_n]

theorem sari (rd : Reg) (ra : Reg) (n : BitVec 6) : Statement (.sari rd ra n) := by
  have h_rd : rd.val < 32 := rd.isLt
  have h_ra : ra.val < 32 := ra.isLt
  have h_n : n.toNat < 64 := n.isLt
  refine roundTrip_ti rfl ?_ ?_ fun hw t hA hI => ?_
  · omega
  · omega
  · simp [-Fin.ofNat_eq_cast, decFields, decAlui, pick, hA, hI, h_rd, h_ra, h_n]

theorem muli (rd : Reg) (ra : Reg) (imm : BitVec 11) : Statement (.muli rd ra imm) := by
  have h_rd : rd.val < 32 := rd.isLt
  have h_ra : ra.val < 32 := ra.isLt
  have h_imm : imm.toNat < 2048 := imm.isLt
  refine roundTrip_ti rfl ?_ ?_ fun hw t hA hI => ?_
  · omega
  · omega
  · simp [-Fin.ofNat_eq_cast, decFields, decAlui, pick, hA, hI, h_rd, h_ra, h_imm]

theorem li16 (zx : Bool) (rd : Reg) (imm : BitVec 16) : Statement (.li16 zx rd imm) := by
  have h_zx : zx.toNat ≤ 1 := Bool.toNat_le _
  have h_rd : rd.val < 32 := rd.isLt
  have h_imm : imm.toNat < 65536 := imm.isLt
  refine roundTrip_half rfl ?_ ?_ fun hw  => ?_
  · omega
  · omega
  · cases zx <;> simp [-Fin.ofNat_eq_cast, decFields, decLi, pick, h_rd, h_imm]

theorem li32 (zx : Bool) (rd : Reg) (imm : BitVec 32) : Statement (.li32 zx rd imm) := by
  have h_zx : zx.toNat ≤ 1 := Bool.toNat_le _
  have h_rd : rd.val < 32 := rd.isLt
  have h_imm : imm.toNat < 4294967296 := imm.isLt
  refine roundTrip_word rfl ?_ ?_ fun hw  => ?_
  · omega
  · omega
  · cases zx <;> simp [-Fin.ofNat_eq_cast, decFields, decLi, pick, h_rd, h_imm]

theorem li64 (rd : Reg) (imm : BitVec 64) : Statement (.li64 rd imm) := by
  have h_rd : rd.val < 32 := rd.isLt
  have h_imm : imm.toNat < 18446744073709551616 := imm.isLt
  refine roundTrip_double rfl ?_ ?_ fun hw  => ?_
  · omega
  · omega
  · simp [-Fin.ofNat_eq_cast, decFields, decLi, pick, h_rd, h_imm]

theorem mov (rd : Reg) (ra : Reg) : Statement (.mov rd ra) := by
  have h_rd : rd.val < 32 := rd.isLt
  have h_ra : ra.val < 32 := ra.isLt
  refine roundTrip_tr rfl ?_ ?_ fun hw t hA hB hF => ?_
  · omega
  · omega
  · simp [-Fin.ofNat_eq_cast, decFields, decUnary, pick, hA, hB, hF, h_rd, h_ra]

theorem neg (rd : Reg) (ra : Reg) : Statement (.neg rd ra) := by
  have h_rd : rd.val < 32 := rd.isLt
  have h_ra : ra.val < 32 := ra.isLt
  refine roundTrip_tr rfl ?_ ?_ fun hw t hA hB hF => ?_
  · omega
  · omega
  · simp [-Fin.ofNat_eq_cast, decFields, decUnary, pick, hA, hB, hF, h_rd, h_ra]

theorem not (rd : Reg) (ra : Reg) : Statement (.not rd ra) := by
  have h_rd : rd.val < 32 := rd.isLt
  have h_ra : ra.val < 32 := ra.isLt
  refine roundTrip_tr rfl ?_ ?_ fun hw t hA hB hF => ?_
  · omega
  · omega
  · simp [-Fin.ofNat_eq_cast, decFields, decUnary, pick, hA, hB, hF, h_rd, h_ra]

theorem clz (rd : Reg) (ra : Reg) : Statement (.clz rd ra) := by
  have h_rd : rd.val < 32 := rd.isLt
  have h_ra : ra.val < 32 := ra.isLt
  refine roundTrip_tr rfl ?_ ?_ fun hw t hA hB hF => ?_
  · omega
  · omega
  · simp [-Fin.ofNat_eq_cast, decFields, decUnary, pick, hA, hB, hF, h_rd, h_ra]

theorem ctz (rd : Reg) (ra : Reg) : Statement (.ctz rd ra) := by
  have h_rd : rd.val < 32 := rd.isLt
  have h_ra : ra.val < 32 := ra.isLt
  refine roundTrip_tr rfl ?_ ?_ fun hw t hA hB hF => ?_
  · omega
  · omega
  · simp [-Fin.ofNat_eq_cast, decFields, decUnary, pick, hA, hB, hF, h_rd, h_ra]

theorem popc (rd : Reg) (ra : Reg) : Statement (.popc rd ra) := by
  have h_rd : rd.val < 32 := rd.isLt
  have h_ra : ra.val < 32 := ra.isLt
  refine roundTrip_tr rfl ?_ ?_ fun hw t hA hB hF => ?_
  · omega
  · omega
  · simp [-Fin.ofNat_eq_cast, decFields, decUnary, pick, hA, hB, hF, h_rd, h_ra]

theorem sext (sz : Fin 3) (rd : Reg) (ra : Reg) : Statement (.sext sz rd ra) := by
  have h_sz : sz.val < 3 := sz.isLt
  have h_rd : rd.val < 32 := rd.isLt
  have h_ra : ra.val < 32 := ra.isLt
  refine roundTrip_tr rfl ?_ ?_ fun hw t hA hB hF => ?_
  · omega
  · omega
  · simp [-Fin.ofNat_eq_cast, decFields, decUnary, pick, hA, hB, hF, h_sz, h_rd, h_ra]

theorem zext (sz : Fin 3) (rd : Reg) (ra : Reg) : Statement (.zext sz rd ra) := by
  have h_sz : sz.val < 3 := sz.isLt
  have h_rd : rd.val < 32 := rd.isLt
  have h_ra : ra.val < 32 := ra.isLt
  refine roundTrip_tr rfl ?_ ?_ fun hw t hA hB hF => ?_
  · omega
  · omega
  · simp [-Fin.ofNat_eq_cast, decFields, decUnary, pick, hA, hB, hF, h_sz, h_rd, h_ra]

theorem ext (rd : Reg) (ra : Reg) (pos : BitVec 6) (len : BitVec 6) : Statement (.ext rd ra pos len) := by
  have h_rd : rd.val < 32 := rd.isLt
  have h_ra : ra.val < 32 := ra.isLt
  have h_pos : pos.toNat < 64 := pos.isLt
  have h_len : len.toNat < 64 := len.isLt
  refine roundTrip_td rfl ?_ ?_ ?_ fun hw t hA hB hF hI => ?_
  · omega
  · omega
  · omega
  · simp [-Fin.ofNat_eq_cast, decFields, decBitf, pick, hA, hB, hF, hI, h_rd, h_ra, h_pos, h_len, bitf_pos, bitf_len, bitf_lt, show bitfOk pos len = true from hw]

theorem extu (rd : Reg) (ra : Reg) (pos : BitVec 6) (len : BitVec 6) : Statement (.extu rd ra pos len) := by
  have h_rd : rd.val < 32 := rd.isLt
  have h_ra : ra.val < 32 := ra.isLt
  have h_pos : pos.toNat < 64 := pos.isLt
  have h_len : len.toNat < 64 := len.isLt
  refine roundTrip_td rfl ?_ ?_ ?_ fun hw t hA hB hF hI => ?_
  · omega
  · omega
  · omega
  · simp [-Fin.ofNat_eq_cast, decFields, decBitf, pick, hA, hB, hF, hI, h_rd, h_ra, h_pos, h_len, bitf_pos, bitf_len, bitf_lt, show bitfOk pos len = true from hw]

theorem ins (rd : Reg) (ra : Reg) (pos : BitVec 6) (len : BitVec 6) : Statement (.ins rd ra pos len) := by
  have h_rd : rd.val < 32 := rd.isLt
  have h_ra : ra.val < 32 := ra.isLt
  have h_pos : pos.toNat < 64 := pos.isLt
  have h_len : len.toNat < 64 := len.isLt
  refine roundTrip_td rfl ?_ ?_ ?_ fun hw t hA hB hF hI => ?_
  · omega
  · omega
  · omega
  · simp [-Fin.ofNat_eq_cast, decFields, decBitf, pick, hA, hB, hF, hI, h_rd, h_ra, h_pos, h_len, bitf_pos, bitf_len, bitf_lt, show bitfOk pos len = true from hw]

theorem cmpEq (qd : Pred) (ra : Reg) (rb : Reg) : Statement (.cmpEq qd ra rb) := by
  have h_qd : qd.val < 16 := qd.isLt
  have h_ra : ra.val < 32 := ra.isLt
  have h_rb : rb.val < 32 := rb.isLt
  refine roundTrip_tr rfl ?_ ?_ fun hw t hA hB hF => ?_
  · omega
  · omega
  · simp [-Fin.ofNat_eq_cast, decFields, decCmp, pick, hA, hB, hF, h_qd, h_ra, h_rb]

theorem cmpNe (qd : Pred) (ra : Reg) (rb : Reg) : Statement (.cmpNe qd ra rb) := by
  have h_qd : qd.val < 16 := qd.isLt
  have h_ra : ra.val < 32 := ra.isLt
  have h_rb : rb.val < 32 := rb.isLt
  refine roundTrip_tr rfl ?_ ?_ fun hw t hA hB hF => ?_
  · omega
  · omega
  · simp [-Fin.ofNat_eq_cast, decFields, decCmp, pick, hA, hB, hF, h_qd, h_ra, h_rb]

theorem cmpLt (qd : Pred) (ra : Reg) (rb : Reg) : Statement (.cmpLt qd ra rb) := by
  have h_qd : qd.val < 16 := qd.isLt
  have h_ra : ra.val < 32 := ra.isLt
  have h_rb : rb.val < 32 := rb.isLt
  refine roundTrip_tr rfl ?_ ?_ fun hw t hA hB hF => ?_
  · omega
  · omega
  · simp [-Fin.ofNat_eq_cast, decFields, decCmp, pick, hA, hB, hF, h_qd, h_ra, h_rb]

theorem cmpGe (qd : Pred) (ra : Reg) (rb : Reg) : Statement (.cmpGe qd ra rb) := by
  have h_qd : qd.val < 16 := qd.isLt
  have h_ra : ra.val < 32 := ra.isLt
  have h_rb : rb.val < 32 := rb.isLt
  refine roundTrip_tr rfl ?_ ?_ fun hw t hA hB hF => ?_
  · omega
  · omega
  · simp [-Fin.ofNat_eq_cast, decFields, decCmp, pick, hA, hB, hF, h_qd, h_ra, h_rb]

theorem cmpLtu (qd : Pred) (ra : Reg) (rb : Reg) : Statement (.cmpLtu qd ra rb) := by
  have h_qd : qd.val < 16 := qd.isLt
  have h_ra : ra.val < 32 := ra.isLt
  have h_rb : rb.val < 32 := rb.isLt
  refine roundTrip_tr rfl ?_ ?_ fun hw t hA hB hF => ?_
  · omega
  · omega
  · simp [-Fin.ofNat_eq_cast, decFields, decCmp, pick, hA, hB, hF, h_qd, h_ra, h_rb]

theorem cmpGeu (qd : Pred) (ra : Reg) (rb : Reg) : Statement (.cmpGeu qd ra rb) := by
  have h_qd : qd.val < 16 := qd.isLt
  have h_ra : ra.val < 32 := ra.isLt
  have h_rb : rb.val < 32 := rb.isLt
  refine roundTrip_tr rfl ?_ ?_ fun hw t hA hB hF => ?_
  · omega
  · omega
  · simp [-Fin.ofNat_eq_cast, decFields, decCmp, pick, hA, hB, hF, h_qd, h_ra, h_rb]

theorem cmpTst (qd : Pred) (ra : Reg) (rb : Reg) : Statement (.cmpTst qd ra rb) := by
  have h_qd : qd.val < 16 := qd.isLt
  have h_ra : ra.val < 32 := ra.isLt
  have h_rb : rb.val < 32 := rb.isLt
  refine roundTrip_tr rfl ?_ ?_ fun hw t hA hB hF => ?_
  · omega
  · omega
  · simp [-Fin.ofNat_eq_cast, decFields, decCmp, pick, hA, hB, hF, h_qd, h_ra, h_rb]

theorem cmpNtst (qd : Pred) (ra : Reg) (rb : Reg) : Statement (.cmpNtst qd ra rb) := by
  have h_qd : qd.val < 16 := qd.isLt
  have h_ra : ra.val < 32 := ra.isLt
  have h_rb : rb.val < 32 := rb.isLt
  refine roundTrip_tr rfl ?_ ?_ fun hw t hA hB hF => ?_
  · omega
  · omega
  · simp [-Fin.ofNat_eq_cast, decFields, decCmp, pick, hA, hB, hF, h_qd, h_ra, h_rb]

theorem cmpiEq (qd : Pred) (ra : Reg) (imm : BitVec 11) : Statement (.cmpiEq qd ra imm) := by
  have h_qd : qd.val < 16 := qd.isLt
  have h_ra : ra.val < 32 := ra.isLt
  have h_imm : imm.toNat < 2048 := imm.isLt
  refine roundTrip_ti rfl ?_ ?_ fun hw t hA hI => ?_
  · omega
  · omega
  · simp [-Fin.ofNat_eq_cast, decFields, decCmpi, pick, hA, hI, h_qd, h_ra, h_imm]

theorem cmpiNe (qd : Pred) (ra : Reg) (imm : BitVec 11) : Statement (.cmpiNe qd ra imm) := by
  have h_qd : qd.val < 16 := qd.isLt
  have h_ra : ra.val < 32 := ra.isLt
  have h_imm : imm.toNat < 2048 := imm.isLt
  refine roundTrip_ti rfl ?_ ?_ fun hw t hA hI => ?_
  · omega
  · omega
  · simp [-Fin.ofNat_eq_cast, decFields, decCmpi, pick, hA, hI, h_qd, h_ra, h_imm]

theorem cmpiLt (qd : Pred) (ra : Reg) (imm : BitVec 11) : Statement (.cmpiLt qd ra imm) := by
  have h_qd : qd.val < 16 := qd.isLt
  have h_ra : ra.val < 32 := ra.isLt
  have h_imm : imm.toNat < 2048 := imm.isLt
  refine roundTrip_ti rfl ?_ ?_ fun hw t hA hI => ?_
  · omega
  · omega
  · simp [-Fin.ofNat_eq_cast, decFields, decCmpi, pick, hA, hI, h_qd, h_ra, h_imm]

theorem cmpiGe (qd : Pred) (ra : Reg) (imm : BitVec 11) : Statement (.cmpiGe qd ra imm) := by
  have h_qd : qd.val < 16 := qd.isLt
  have h_ra : ra.val < 32 := ra.isLt
  have h_imm : imm.toNat < 2048 := imm.isLt
  refine roundTrip_ti rfl ?_ ?_ fun hw t hA hI => ?_
  · omega
  · omega
  · simp [-Fin.ofNat_eq_cast, decFields, decCmpi, pick, hA, hI, h_qd, h_ra, h_imm]

theorem cmpiLtu (qd : Pred) (ra : Reg) (imm : BitVec 11) : Statement (.cmpiLtu qd ra imm) := by
  have h_qd : qd.val < 16 := qd.isLt
  have h_ra : ra.val < 32 := ra.isLt
  have h_imm : imm.toNat < 2048 := imm.isLt
  refine roundTrip_ti rfl ?_ ?_ fun hw t hA hI => ?_
  · omega
  · omega
  · simp [-Fin.ofNat_eq_cast, decFields, decCmpi, pick, hA, hI, h_qd, h_ra, h_imm]

theorem cmpiGeu (qd : Pred) (ra : Reg) (imm : BitVec 11) : Statement (.cmpiGeu qd ra imm) := by
  have h_qd : qd.val < 16 := qd.isLt
  have h_ra : ra.val < 32 := ra.isLt
  have h_imm : imm.toNat < 2048 := imm.isLt
  refine roundTrip_ti rfl ?_ ?_ fun hw t hA hI => ?_
  · omega
  · omega
  · simp [-Fin.ofNat_eq_cast, decFields, decCmpi, pick, hA, hI, h_qd, h_ra, h_imm]

theorem cmpiTst (qd : Pred) (ra : Reg) (imm : BitVec 11) : Statement (.cmpiTst qd ra imm) := by
  have h_qd : qd.val < 16 := qd.isLt
  have h_ra : ra.val < 32 := ra.isLt
  have h_imm : imm.toNat < 2048 := imm.isLt
  refine roundTrip_ti rfl ?_ ?_ fun hw t hA hI => ?_
  · omega
  · omega
  · simp [-Fin.ofNat_eq_cast, decFields, decCmpi, pick, hA, hI, h_qd, h_ra, h_imm]

theorem cmpiNtst (qd : Pred) (ra : Reg) (imm : BitVec 11) : Statement (.cmpiNtst qd ra imm) := by
  have h_qd : qd.val < 16 := qd.isLt
  have h_ra : ra.val < 32 := ra.isLt
  have h_imm : imm.toNat < 2048 := imm.isLt
  refine roundTrip_ti rfl ?_ ?_ fun hw t hA hI => ?_
  · omega
  · omega
  · simp [-Fin.ofNat_eq_cast, decFields, decCmpi, pick, hA, hI, h_qd, h_ra, h_imm]

theorem sel (rd : Reg) (qn : Pred) (ra : Reg) (rb : Reg) : Statement (.sel rd qn ra rb) := by
  have h_rd : rd.val < 32 := rd.isLt
  have h_qn : qn.val < 16 := qn.isLt
  have h_ra : ra.val < 32 := ra.isLt
  have h_rb : rb.val < 32 := rb.isLt
  refine roundTrip_tr rfl ?_ ?_ fun hw t hA hB hF => ?_
  · omega
  · omega
  · simp [-Fin.ofNat_eq_cast, decFields, decSel, pick, hA, hB, hF, h_rd, h_qn, h_ra, h_rb]

theorem pand (qd : Pred) (qa : Pred) (qb : Pred) : Statement (.pand qd qa qb) := by
  have h_qd : qd.val < 16 := qd.isLt
  have h_qa : qa.val < 16 := qa.isLt
  have h_qb : qb.val < 16 := qb.isLt
  refine roundTrip_preds qa qb rfl ?_ fun hw t hA hB hF => ?_
  · omega
  · simp [-Fin.ofNat_eq_cast, decFields, decPlog, pick, hA, hB, hF, h_qd, h_qa, h_qb]

theorem por (qd : Pred) (qa : Pred) (qb : Pred) : Statement (.por qd qa qb) := by
  have h_qd : qd.val < 16 := qd.isLt
  have h_qa : qa.val < 16 := qa.isLt
  have h_qb : qb.val < 16 := qb.isLt
  refine roundTrip_preds qa qb rfl ?_ fun hw t hA hB hF => ?_
  · omega
  · simp [-Fin.ofNat_eq_cast, decFields, decPlog, pick, hA, hB, hF, h_qd, h_qa, h_qb]

theorem pxor (qd : Pred) (qa : Pred) (qb : Pred) : Statement (.pxor qd qa qb) := by
  have h_qd : qd.val < 16 := qd.isLt
  have h_qa : qa.val < 16 := qa.isLt
  have h_qb : qb.val < 16 := qb.isLt
  refine roundTrip_preds qa qb rfl ?_ fun hw t hA hB hF => ?_
  · omega
  · simp [-Fin.ofNat_eq_cast, decFields, decPlog, pick, hA, hB, hF, h_qd, h_qa, h_qb]

theorem pandn (qd : Pred) (qa : Pred) (qb : Pred) : Statement (.pandn qd qa qb) := by
  have h_qd : qd.val < 16 := qd.isLt
  have h_qa : qa.val < 16 := qa.isLt
  have h_qb : qb.val < 16 := qb.isLt
  refine roundTrip_preds qa qb rfl ?_ fun hw t hA hB hF => ?_
  · omega
  · simp [-Fin.ofNat_eq_cast, decFields, decPlog, pick, hA, hB, hF, h_qd, h_qa, h_qb]

theorem pnot (qd : Pred) (qa : Pred) : Statement (.pnot qd qa) := by
  have h_qd : qd.val < 16 := qd.isLt
  have h_qa : qa.val < 16 := qa.isLt
  refine roundTrip_preds qa 0 rfl ?_ fun hw t hA hB hF => ?_
  · omega
  · simp [-Fin.ofNat_eq_cast, decFields, decPlog, pick, hA, hB, hF, h_qd, h_qa]

theorem pmov (qd : Pred) (qa : Pred) : Statement (.pmov qd qa) := by
  have h_qd : qd.val < 16 := qd.isLt
  have h_qa : qa.val < 16 := qa.isLt
  refine roundTrip_preds qa 0 rfl ?_ fun hw t hA hB hF => ?_
  · omega
  · simp [-Fin.ofNat_eq_cast, decFields, decPlog, pick, hA, hB, hF, h_qd, h_qa]

theorem pset (qd : Pred) : Statement (.pset qd) := by
  have h_qd : qd.val < 16 := qd.isLt
  refine roundTrip_preds 0 0 rfl ?_ fun hw t hA hB hF => ?_
  · omega
  · simp [-Fin.ofNat_eq_cast, decFields, decPlog, pick, hA, hB, hF, h_qd]

theorem pclr (qd : Pred) : Statement (.pclr qd) := by
  have h_qd : qd.val < 16 := qd.isLt
  refine roundTrip_preds 0 0 rfl ?_ fun hw t hA hB hF => ?_
  · omega
  · simp [-Fin.ofNat_eq_cast, decFields, decPlog, pick, hA, hB, hF, h_qd]

theorem ppack (rd : Reg) (hi : Bool) : Statement (.ppack rd hi) := by
  have h_rd : rd.val < 32 := rd.isLt
  have h_hi : hi.toNat ≤ 1 := Bool.toNat_le _
  refine roundTrip_half rfl ?_ ?_ fun hw  => ?_
  · omega
  · omega
  · cases hi <;> simp [-Fin.ofNat_eq_cast, decFields, decPword, pick, h_rd, trA, trB, trF]

theorem punpack (ra : Reg) (hi : Bool) : Statement (.punpack ra hi) := by
  have h_ra : ra.val < 32 := ra.isLt
  have h_hi : hi.toNat ≤ 1 := Bool.toNat_le _
  refine roundTrip_tr rfl ?_ ?_ fun hw t hA hB hF => ?_
  · omega
  · omega
  · cases hi <;> simp [-Fin.ofNat_eq_cast, decFields, decPword, pick, hA, hB, hF, h_ra]

theorem prd (rd : Reg) : Statement (.prd rd) := by
  have h_rd : rd.val < 32 := rd.isLt
  refine roundTrip_half rfl ?_ ?_ fun hw  => ?_
  · omega
  · omega
  · simp [-Fin.ofNat_eq_cast, decFields, decPword, pick, h_rd, trA, trB, trF]

theorem pwr (ra : Reg) : Statement (.pwr ra) := by
  have h_ra : ra.val < 32 := ra.isLt
  refine roundTrip_tr rfl ?_ ?_ fun hw t hA hB hF => ?_
  · omega
  · omega
  · simp [-Fin.ofNat_eq_cast, decFields, decPword, pick, hA, hB, hF, h_ra]

theorem fadd (rm : Fin 5) (rd : Reg) (ra : Reg) (rb : Reg) : Statement (.fadd rm rd ra rb) := by
  have h_rm : rm.val < 5 := rm.isLt
  have h_rd : rd.val < 32 := rd.isLt
  have h_ra : ra.val < 32 := ra.isLt
  have h_rb : rb.val < 32 := rb.isLt
  refine roundTrip_tr rfl ?_ ?_ fun hw t hA hB hF => ?_
  · omega
  · omega
  · simp [-Fin.ofNat_eq_cast, decFields, decFalu, pick, hA, hB, hF, h_rm, h_rd, h_ra, h_rb]

theorem fsub (rm : Fin 5) (rd : Reg) (ra : Reg) (rb : Reg) : Statement (.fsub rm rd ra rb) := by
  have h_rm : rm.val < 5 := rm.isLt
  have h_rd : rd.val < 32 := rd.isLt
  have h_ra : ra.val < 32 := ra.isLt
  have h_rb : rb.val < 32 := rb.isLt
  refine roundTrip_tr rfl ?_ ?_ fun hw t hA hB hF => ?_
  · omega
  · omega
  · simp [-Fin.ofNat_eq_cast, decFields, decFalu, pick, hA, hB, hF, h_rm, h_rd, h_ra, h_rb]

theorem fmul (rm : Fin 5) (rd : Reg) (ra : Reg) (rb : Reg) : Statement (.fmul rm rd ra rb) := by
  have h_rm : rm.val < 5 := rm.isLt
  have h_rd : rd.val < 32 := rd.isLt
  have h_ra : ra.val < 32 := ra.isLt
  have h_rb : rb.val < 32 := rb.isLt
  refine roundTrip_tr rfl ?_ ?_ fun hw t hA hB hF => ?_
  · omega
  · omega
  · simp [-Fin.ofNat_eq_cast, decFields, decFalu, pick, hA, hB, hF, h_rm, h_rd, h_ra, h_rb]

theorem fdiv (rm : Fin 5) (rd : Reg) (ra : Reg) (rb : Reg) : Statement (.fdiv rm rd ra rb) := by
  have h_rm : rm.val < 5 := rm.isLt
  have h_rd : rd.val < 32 := rd.isLt
  have h_ra : ra.val < 32 := ra.isLt
  have h_rb : rb.val < 32 := rb.isLt
  refine roundTrip_tr rfl ?_ ?_ fun hw t hA hB hF => ?_
  · omega
  · omega
  · simp [-Fin.ofNat_eq_cast, decFields, decFalu, pick, hA, hB, hF, h_rm, h_rd, h_ra, h_rb]

theorem fmin (rm : Fin 5) (rd : Reg) (ra : Reg) (rb : Reg) : Statement (.fmin rm rd ra rb) := by
  have h_rm : rm.val < 5 := rm.isLt
  have h_rd : rd.val < 32 := rd.isLt
  have h_ra : ra.val < 32 := ra.isLt
  have h_rb : rb.val < 32 := rb.isLt
  refine roundTrip_tr rfl ?_ ?_ fun hw t hA hB hF => ?_
  · omega
  · omega
  · simp [-Fin.ofNat_eq_cast, decFields, decFalu, pick, hA, hB, hF, h_rm, h_rd, h_ra, h_rb]

theorem fmax (rm : Fin 5) (rd : Reg) (ra : Reg) (rb : Reg) : Statement (.fmax rm rd ra rb) := by
  have h_rm : rm.val < 5 := rm.isLt
  have h_rd : rd.val < 32 := rd.isLt
  have h_ra : ra.val < 32 := ra.isLt
  have h_rb : rb.val < 32 := rb.isLt
  refine roundTrip_tr rfl ?_ ?_ fun hw t hA hB hF => ?_
  · omega
  · omega
  · simp [-Fin.ofNat_eq_cast, decFields, decFalu, pick, hA, hB, hF, h_rm, h_rd, h_ra, h_rb]

theorem fsqrt (rm : Fin 5) (rd : Reg) (ra : Reg) : Statement (.fsqrt rm rd ra) := by
  have h_rm : rm.val < 5 := rm.isLt
  have h_rd : rd.val < 32 := rd.isLt
  have h_ra : ra.val < 32 := ra.isLt
  refine roundTrip_tr rfl ?_ ?_ fun hw t hA hB hF => ?_
  · omega
  · omega
  · simp [-Fin.ofNat_eq_cast, decFields, decFalu, pick, hA, hB, hF, h_rm, h_rd, h_ra]

theorem fabs (rm : Fin 5) (rd : Reg) (ra : Reg) : Statement (.fabs rm rd ra) := by
  have h_rm : rm.val < 5 := rm.isLt
  have h_rd : rd.val < 32 := rd.isLt
  have h_ra : ra.val < 32 := ra.isLt
  refine roundTrip_tr rfl ?_ ?_ fun hw t hA hB hF => ?_
  · omega
  · omega
  · simp [-Fin.ofNat_eq_cast, decFields, decFalu, pick, hA, hB, hF, h_rm, h_rd, h_ra]

theorem fneg (rm : Fin 5) (rd : Reg) (ra : Reg) : Statement (.fneg rm rd ra) := by
  have h_rm : rm.val < 5 := rm.isLt
  have h_rd : rd.val < 32 := rd.isLt
  have h_ra : ra.val < 32 := ra.isLt
  refine roundTrip_tr rfl ?_ ?_ fun hw t hA hB hF => ?_
  · omega
  · omega
  · simp [-Fin.ofNat_eq_cast, decFields, decFalu, pick, hA, hB, hF, h_rm, h_rd, h_ra]

theorem fma (rm : Fin 5) (rd : Reg) (ra : Reg) (rb : Reg) (rc : Reg) : Statement (.fma rm rd ra rb rc) := by
  have h_rm : rm.val < 5 := rm.isLt
  have h_rd : rd.val < 32 := rd.isLt
  have h_ra : ra.val < 32 := ra.isLt
  have h_rb : rb.val < 32 := rb.isLt
  have h_rc : rc.val < 32 := rc.isLt
  refine roundTrip_td rfl ?_ ?_ ?_ fun hw t hA hB hF hI => ?_
  · omega
  · omega
  · omega
  · simp [-Fin.ofNat_eq_cast, decFields, decFfma, pick, hA, hB, hF, hI, h_rm, h_rd, h_ra, h_rb, h_rc, regOf_add]

theorem fnma (rm : Fin 5) (rd : Reg) (ra : Reg) (rb : Reg) (rc : Reg) : Statement (.fnma rm rd ra rb rc) := by
  have h_rm : rm.val < 5 := rm.isLt
  have h_rd : rd.val < 32 := rd.isLt
  have h_ra : ra.val < 32 := ra.isLt
  have h_rb : rb.val < 32 := rb.isLt
  have h_rc : rc.val < 32 := rc.isLt
  refine roundTrip_td rfl ?_ ?_ ?_ fun hw t hA hB hF hI => ?_
  · omega
  · omega
  · omega
  · simp [-Fin.ofNat_eq_cast, decFields, decFfma, pick, hA, hB, hF, hI, h_rm, h_rd, h_ra, h_rb, h_rc, regOf_add]

theorem feq (qd : Pred) (ra : Reg) (rb : Reg) : Statement (.feq qd ra rb) := by
  have h_qd : qd.val < 16 := qd.isLt
  have h_ra : ra.val < 32 := ra.isLt
  have h_rb : rb.val < 32 := rb.isLt
  refine roundTrip_tr rfl ?_ ?_ fun hw t hA hB hF => ?_
  · omega
  · omega
  · simp [-Fin.ofNat_eq_cast, decFields, decFcmp, pick, hA, hB, hF, h_qd, h_ra, h_rb]

theorem flt (qd : Pred) (ra : Reg) (rb : Reg) : Statement (.flt qd ra rb) := by
  have h_qd : qd.val < 16 := qd.isLt
  have h_ra : ra.val < 32 := ra.isLt
  have h_rb : rb.val < 32 := rb.isLt
  refine roundTrip_tr rfl ?_ ?_ fun hw t hA hB hF => ?_
  · omega
  · omega
  · simp [-Fin.ofNat_eq_cast, decFields, decFcmp, pick, hA, hB, hF, h_qd, h_ra, h_rb]

theorem fle (qd : Pred) (ra : Reg) (rb : Reg) : Statement (.fle qd ra rb) := by
  have h_qd : qd.val < 16 := qd.isLt
  have h_ra : ra.val < 32 := ra.isLt
  have h_rb : rb.val < 32 := rb.isLt
  refine roundTrip_tr rfl ?_ ?_ fun hw t hA hB hF => ?_
  · omega
  · omega
  · simp [-Fin.ofNat_eq_cast, decFields, decFcmp, pick, hA, hB, hF, h_qd, h_ra, h_rb]

theorem funo (qd : Pred) (ra : Reg) (rb : Reg) : Statement (.funo qd ra rb) := by
  have h_qd : qd.val < 16 := qd.isLt
  have h_ra : ra.val < 32 := ra.isLt
  have h_rb : rb.val < 32 := rb.isLt
  refine roundTrip_tr rfl ?_ ?_ fun hw t hA hB hF => ?_
  · omega
  · omega
  · simp [-Fin.ofNat_eq_cast, decFields, decFcmp, pick, hA, hB, hF, h_qd, h_ra, h_rb]

theorem cvtfi (rm : Fin 5) (rd : Reg) (ra : Reg) : Statement (.cvtfi rm rd ra) := by
  have h_rm : rm.val < 5 := rm.isLt
  have h_rd : rd.val < 32 := rd.isLt
  have h_ra : ra.val < 32 := ra.isLt
  refine roundTrip_tr rfl ?_ ?_ fun hw t hA hB hF => ?_
  · omega
  · omega
  · simp [-Fin.ofNat_eq_cast, decFields, decFcvt, pick, hA, hB, hF, h_rm, h_rd, h_ra]

theorem cvtif (rm : Fin 5) (rd : Reg) (ra : Reg) : Statement (.cvtif rm rd ra) := by
  have h_rm : rm.val < 5 := rm.isLt
  have h_rd : rd.val < 32 := rd.isLt
  have h_ra : ra.val < 32 := ra.isLt
  refine roundTrip_tr rfl ?_ ?_ fun hw t hA hB hF => ?_
  · omega
  · omega
  · simp [-Fin.ofNat_eq_cast, decFields, decFcvt, pick, hA, hB, hF, h_rm, h_rd, h_ra]

theorem cvtfb (rm : Fin 5) (rd : Reg) (ra : Reg) : Statement (.cvtfb rm rd ra) := by
  have h_rm : rm.val < 5 := rm.isLt
  have h_rd : rd.val < 32 := rd.isLt
  have h_ra : ra.val < 32 := ra.isLt
  refine roundTrip_tr rfl ?_ ?_ fun hw t hA hB hF => ?_
  · omega
  · omega
  · simp [-Fin.ofNat_eq_cast, decFields, decFcvt, pick, hA, hB, hF, h_rm, h_rd, h_ra]

theorem cvtbf (rm : Fin 5) (rd : Reg) (ra : Reg) : Statement (.cvtbf rm rd ra) := by
  have h_rm : rm.val < 5 := rm.isLt
  have h_rd : rd.val < 32 := rd.isLt
  have h_ra : ra.val < 32 := ra.isLt
  refine roundTrip_tr rfl ?_ ?_ fun hw t hA hB hF => ?_
  · omega
  · omega
  · simp [-Fin.ofNat_eq_cast, decFields, decFcvt, pick, hA, hB, hF, h_rm, h_rd, h_ra]

theorem cvtfh (rm : Fin 5) (rd : Reg) (ra : Reg) : Statement (.cvtfh rm rd ra) := by
  have h_rm : rm.val < 5 := rm.isLt
  have h_rd : rd.val < 32 := rd.isLt
  have h_ra : ra.val < 32 := ra.isLt
  refine roundTrip_tr rfl ?_ ?_ fun hw t hA hB hF => ?_
  · omega
  · omega
  · simp [-Fin.ofNat_eq_cast, decFields, decFcvt, pick, hA, hB, hF, h_rm, h_rd, h_ra]

theorem cvthf (rm : Fin 5) (rd : Reg) (ra : Reg) : Statement (.cvthf rm rd ra) := by
  have h_rm : rm.val < 5 := rm.isLt
  have h_rd : rd.val < 32 := rd.isLt
  have h_ra : ra.val < 32 := ra.isLt
  refine roundTrip_tr rfl ?_ ?_ fun hw t hA hB hF => ?_
  · omega
  · omega
  · simp [-Fin.ofNat_eq_cast, decFields, decFcvt, pick, hA, hB, hF, h_rm, h_rd, h_ra]

theorem fclass (rm : Fin 5) (rd : Reg) (ra : Reg) : Statement (.fclass rm rd ra) := by
  have h_rm : rm.val < 5 := rm.isLt
  have h_rd : rd.val < 32 := rd.isLt
  have h_ra : ra.val < 32 := ra.isLt
  refine roundTrip_tr rfl ?_ ?_ fun hw t hA hB hF => ?_
  · omega
  · omega
  · simp [-Fin.ofNat_eq_cast, decFields, decFcvt, pick, hA, hB, hF, h_rm, h_rd, h_ra]

theorem br (t : Target) : Statement (.br t) := by
  have h_t : t.bits < 65536 := bits_lt _
  refine roundTrip_half rfl ?_ ?_ fun hw  => ?_
  · omega
  · omega
  · simp [-Fin.ofNat_eq_cast, decFields, decBr, pick, h_t]

theorem bt (sel : Fin 32) (t : Target) : Statement (.bt sel t) := by
  have h_sel : sel.val < 32 := sel.isLt
  have h_t : t.bits < 65536 := bits_lt _
  refine roundTrip_half rfl ?_ ?_ fun hw  => ?_
  · omega
  · omega
  · simp [-Fin.ofNat_eq_cast, decFields, decBc, pick, h_sel, h_t]

theorem bf (sel : Fin 32) (t : Target) : Statement (.bf sel t) := by
  have h_sel : sel.val < 32 := sel.isLt
  have h_t : t.bits < 65536 := bits_lt _
  refine roundTrip_half rfl ?_ ?_ fun hw  => ?_
  · omega
  · omega
  · simp [-Fin.ofNat_eq_cast, decFields, decBc, pick, h_sel, h_t]

theorem call (t : Target) : Statement (.call t) := by
  have h_t : t.bits < 65536 := bits_lt _
  refine roundTrip_half rfl ?_ ?_ fun hw  => ?_
  · omega
  · omega
  · simp [-Fin.ofNat_eq_cast, decFields, decCall, pick, h_t]

theorem jr (r : Reg) : Statement (.jr r) := by
  have h_r : r.val < 32 := r.isLt
  refine roundTrip_head rfl ?_ fun hw  => ?_
  · omega
  · simp [-Fin.ofNat_eq_cast, decFields, decJump, pick, h_r]

theorem callr (r : Reg) : Statement (.callr r) := by
  have h_r : r.val < 32 := r.isLt
  refine roundTrip_head rfl ?_ fun hw  => ?_
  · omega
  · simp [-Fin.ofNat_eq_cast, decFields, decJump, pick, h_r]

theorem ret : Statement (.ret) := by
  refine roundTrip_head rfl ?_ fun hw  => ?_
  · omega
  · simp [-Fin.ofNat_eq_cast, decFields, decJump, pick]

theorem loop (ra : Reg) (t : Target) : Statement (.loop ra t) := by
  have h_ra : ra.val < 32 := ra.isLt
  have h_t : t.bits < 65536 := bits_lt _
  refine roundTrip_td rfl ?_ ?_ ?_ fun hw t hA hB hF hI => ?_
  · omega
  · omega
  · omega
  · simp [-Fin.ofNat_eq_cast, decFields, decLoop, pick, hA, hB, hF, hI, h_ra, h_t]

theorem loopi (n : BitVec 8) (t : Target) : Statement (.loopi n t) := by
  have h_n : n.toNat < 256 := n.isLt
  have h_t : t.bits < 65536 := bits_lt _
  refine roundTrip_half rfl ?_ ?_ fun hw  => ?_
  · omega
  · omega
  · simp [-Fin.ofNat_eq_cast, decFields, decLoopi, pick, h_n, h_t, loopi_count]

theorem lexit : Statement (.lexit) := by
  refine roundTrip_head rfl ?_ fun hw  => ?_
  · omega
  · simp [-Fin.ofNat_eq_cast, decFields, decLctl, pick]

theorem lidx (rd : Reg) : Statement (.lidx rd) := by
  have h_rd : rd.val < 32 := rd.isLt
  refine roundTrip_head rfl ?_ fun hw  => ?_
  · omega
  · simp [-Fin.ofNat_eq_cast, decFields, decLctl, pick, h_rd]

theorem ldep (rd : Reg) : Statement (.ldep rd) := by
  have h_rd : rd.val < 32 := rd.isLt
  refine roundTrip_head rfl ?_ fun hw  => ?_
  · omega
  · simp [-Fin.ofNat_eq_cast, decFields, decLctl, pick, h_rd]

theorem enter (n : BitVec 16) : Statement (.enter n) := by
  have h_n : n.toNat < 65536 := n.isLt
  refine roundTrip_half rfl ?_ ?_ fun hw  => ?_
  · omega
  · omega
  · simp [-Fin.ofNat_eq_cast, decFields, decFrame, pick, h_n]

theorem leave : Statement (.leave) := by
  refine roundTrip_head rfl ?_ fun hw  => ?_
  · omega
  · simp [-Fin.ofNat_eq_cast, decFields, decFrame, pick]

theorem csrr (rd : Reg) (csr : BitVec 11) : Statement (.csrr rd csr) := by
  have h_rd : rd.val < 32 := rd.isLt
  have h_csr : csr.toNat < 2048 := csr.isLt
  refine roundTrip_ti rfl ?_ ?_ fun hw t hA hI => ?_
  · omega
  · omega
  · simp [-Fin.ofNat_eq_cast, decFields, decCsr, pick, hA, hI, h_rd, h_csr]

theorem csrw (rd : Reg) (ra : Reg) (csr : BitVec 11) : Statement (.csrw rd ra csr) := by
  have h_rd : rd.val < 32 := rd.isLt
  have h_ra : ra.val < 32 := ra.isLt
  have h_csr : csr.toNat < 2048 := csr.isLt
  refine roundTrip_ti rfl ?_ ?_ fun hw t hA hI => ?_
  · omega
  · omega
  · simp [-Fin.ofNat_eq_cast, decFields, decCsr, pick, hA, hI, h_rd, h_ra, h_csr]

theorem csrs (rd : Reg) (ra : Reg) (csr : BitVec 11) : Statement (.csrs rd ra csr) := by
  have h_rd : rd.val < 32 := rd.isLt
  have h_ra : ra.val < 32 := ra.isLt
  have h_csr : csr.toNat < 2048 := csr.isLt
  refine roundTrip_ti rfl ?_ ?_ fun hw t hA hI => ?_
  · omega
  · omega
  · simp [-Fin.ofNat_eq_cast, decFields, decCsr, pick, hA, hI, h_rd, h_ra, h_csr]

theorem csrc (rd : Reg) (ra : Reg) (csr : BitVec 11) : Statement (.csrc rd ra csr) := by
  have h_rd : rd.val < 32 := rd.isLt
  have h_ra : ra.val < 32 := ra.isLt
  have h_csr : csr.toNat < 2048 := csr.isLt
  refine roundTrip_ti rfl ?_ ?_ fun hw t hA hI => ?_
  · omega
  · omega
  · simp [-Fin.ofNat_eq_cast, decFields, decCsr, pick, hA, hI, h_rd, h_ra, h_csr]

theorem ldBTi (rd : Reg) (ra : Reg) (imm : BitVec 11) : Statement (.ldBTi rd ra imm) := by
  have h_rd : rd.val < 32 := rd.isLt
  have h_ra : ra.val < 32 := ra.isLt
  have h_imm : imm.toNat < 2048 := imm.isLt
  refine roundTrip_ti rfl ?_ ?_ fun hw t hA hI => ?_
  · omega
  · omega
  · simp [-Fin.ofNat_eq_cast, decFields, decLd, pick, hA, hI, h_rd, h_ra, h_imm]

theorem ldBuTi (rd : Reg) (ra : Reg) (imm : BitVec 11) : Statement (.ldBuTi rd ra imm) := by
  have h_rd : rd.val < 32 := rd.isLt
  have h_ra : ra.val < 32 := ra.isLt
  have h_imm : imm.toNat < 2048 := imm.isLt
  refine roundTrip_ti rfl ?_ ?_ fun hw t hA hI => ?_
  · omega
  · omega
  · simp [-Fin.ofNat_eq_cast, decFields, decLd, pick, hA, hI, h_rd, h_ra, h_imm]

theorem ldHTi (rd : Reg) (ra : Reg) (imm : BitVec 11) : Statement (.ldHTi rd ra imm) := by
  have h_rd : rd.val < 32 := rd.isLt
  have h_ra : ra.val < 32 := ra.isLt
  have h_imm : imm.toNat < 2048 := imm.isLt
  refine roundTrip_ti rfl ?_ ?_ fun hw t hA hI => ?_
  · omega
  · omega
  · simp [-Fin.ofNat_eq_cast, decFields, decLd, pick, hA, hI, h_rd, h_ra, h_imm]

theorem ldHuTi (rd : Reg) (ra : Reg) (imm : BitVec 11) : Statement (.ldHuTi rd ra imm) := by
  have h_rd : rd.val < 32 := rd.isLt
  have h_ra : ra.val < 32 := ra.isLt
  have h_imm : imm.toNat < 2048 := imm.isLt
  refine roundTrip_ti rfl ?_ ?_ fun hw t hA hI => ?_
  · omega
  · omega
  · simp [-Fin.ofNat_eq_cast, decFields, decLd, pick, hA, hI, h_rd, h_ra, h_imm]

theorem ldWTi (rd : Reg) (ra : Reg) (imm : BitVec 11) : Statement (.ldWTi rd ra imm) := by
  have h_rd : rd.val < 32 := rd.isLt
  have h_ra : ra.val < 32 := ra.isLt
  have h_imm : imm.toNat < 2048 := imm.isLt
  refine roundTrip_ti rfl ?_ ?_ fun hw t hA hI => ?_
  · omega
  · omega
  · simp [-Fin.ofNat_eq_cast, decFields, decLd, pick, hA, hI, h_rd, h_ra, h_imm]

theorem ldWuTi (rd : Reg) (ra : Reg) (imm : BitVec 11) : Statement (.ldWuTi rd ra imm) := by
  have h_rd : rd.val < 32 := rd.isLt
  have h_ra : ra.val < 32 := ra.isLt
  have h_imm : imm.toNat < 2048 := imm.isLt
  refine roundTrip_ti rfl ?_ ?_ fun hw t hA hI => ?_
  · omega
  · omega
  · simp [-Fin.ofNat_eq_cast, decFields, decLd, pick, hA, hI, h_rd, h_ra, h_imm]

theorem ldDTi (rd : Reg) (ra : Reg) (imm : BitVec 11) : Statement (.ldDTi rd ra imm) := by
  have h_rd : rd.val < 32 := rd.isLt
  have h_ra : ra.val < 32 := ra.isLt
  have h_imm : imm.toNat < 2048 := imm.isLt
  refine roundTrip_ti rfl ?_ ?_ fun hw t hA hI => ?_
  · omega
  · omega
  · simp [-Fin.ofNat_eq_cast, decFields, decLd, pick, hA, hI, h_rd, h_ra, h_imm]

theorem ldBTd (rd : Reg) (ra : Reg) (rb : Reg) (imm : BitVec 16) : Statement (.ldBTd rd ra rb imm) := by
  have h_rd : rd.val < 32 := rd.isLt
  have h_ra : ra.val < 32 := ra.isLt
  have h_rb : rb.val < 32 := rb.isLt
  have h_imm : imm.toNat < 65536 := imm.isLt
  refine roundTrip_td rfl ?_ ?_ ?_ fun hw t hA hB hF hI => ?_
  · omega
  · omega
  · omega
  · simp [-Fin.ofNat_eq_cast, decFields, decLd, pick, hA, hB, hF, hI, h_rd, h_ra, h_rb, h_imm]

theorem ldBuTd (rd : Reg) (ra : Reg) (rb : Reg) (imm : BitVec 16) : Statement (.ldBuTd rd ra rb imm) := by
  have h_rd : rd.val < 32 := rd.isLt
  have h_ra : ra.val < 32 := ra.isLt
  have h_rb : rb.val < 32 := rb.isLt
  have h_imm : imm.toNat < 65536 := imm.isLt
  refine roundTrip_td rfl ?_ ?_ ?_ fun hw t hA hB hF hI => ?_
  · omega
  · omega
  · omega
  · simp [-Fin.ofNat_eq_cast, decFields, decLd, pick, hA, hB, hF, hI, h_rd, h_ra, h_rb, h_imm]

theorem ldHTd (rd : Reg) (ra : Reg) (rb : Reg) (imm : BitVec 16) : Statement (.ldHTd rd ra rb imm) := by
  have h_rd : rd.val < 32 := rd.isLt
  have h_ra : ra.val < 32 := ra.isLt
  have h_rb : rb.val < 32 := rb.isLt
  have h_imm : imm.toNat < 65536 := imm.isLt
  refine roundTrip_td rfl ?_ ?_ ?_ fun hw t hA hB hF hI => ?_
  · omega
  · omega
  · omega
  · simp [-Fin.ofNat_eq_cast, decFields, decLd, pick, hA, hB, hF, hI, h_rd, h_ra, h_rb, h_imm]

theorem ldHuTd (rd : Reg) (ra : Reg) (rb : Reg) (imm : BitVec 16) : Statement (.ldHuTd rd ra rb imm) := by
  have h_rd : rd.val < 32 := rd.isLt
  have h_ra : ra.val < 32 := ra.isLt
  have h_rb : rb.val < 32 := rb.isLt
  have h_imm : imm.toNat < 65536 := imm.isLt
  refine roundTrip_td rfl ?_ ?_ ?_ fun hw t hA hB hF hI => ?_
  · omega
  · omega
  · omega
  · simp [-Fin.ofNat_eq_cast, decFields, decLd, pick, hA, hB, hF, hI, h_rd, h_ra, h_rb, h_imm]

theorem ldWTd (rd : Reg) (ra : Reg) (rb : Reg) (imm : BitVec 16) : Statement (.ldWTd rd ra rb imm) := by
  have h_rd : rd.val < 32 := rd.isLt
  have h_ra : ra.val < 32 := ra.isLt
  have h_rb : rb.val < 32 := rb.isLt
  have h_imm : imm.toNat < 65536 := imm.isLt
  refine roundTrip_td rfl ?_ ?_ ?_ fun hw t hA hB hF hI => ?_
  · omega
  · omega
  · omega
  · simp [-Fin.ofNat_eq_cast, decFields, decLd, pick, hA, hB, hF, hI, h_rd, h_ra, h_rb, h_imm]

theorem ldWuTd (rd : Reg) (ra : Reg) (rb : Reg) (imm : BitVec 16) : Statement (.ldWuTd rd ra rb imm) := by
  have h_rd : rd.val < 32 := rd.isLt
  have h_ra : ra.val < 32 := ra.isLt
  have h_rb : rb.val < 32 := rb.isLt
  have h_imm : imm.toNat < 65536 := imm.isLt
  refine roundTrip_td rfl ?_ ?_ ?_ fun hw t hA hB hF hI => ?_
  · omega
  · omega
  · omega
  · simp [-Fin.ofNat_eq_cast, decFields, decLd, pick, hA, hB, hF, hI, h_rd, h_ra, h_rb, h_imm]

theorem ldDTd (rd : Reg) (ra : Reg) (rb : Reg) (imm : BitVec 16) : Statement (.ldDTd rd ra rb imm) := by
  have h_rd : rd.val < 32 := rd.isLt
  have h_ra : ra.val < 32 := ra.isLt
  have h_rb : rb.val < 32 := rb.isLt
  have h_imm : imm.toNat < 65536 := imm.isLt
  refine roundTrip_td rfl ?_ ?_ ?_ fun hw t hA hB hF hI => ?_
  · omega
  · omega
  · omega
  · simp [-Fin.ofNat_eq_cast, decFields, decLd, pick, hA, hB, hF, hI, h_rd, h_ra, h_rb, h_imm]

theorem stBTi (rs : Reg) (ra : Reg) (imm : BitVec 11) : Statement (.stBTi rs ra imm) := by
  have h_rs : rs.val < 32 := rs.isLt
  have h_ra : ra.val < 32 := ra.isLt
  have h_imm : imm.toNat < 2048 := imm.isLt
  refine roundTrip_ti rfl ?_ ?_ fun hw t hA hI => ?_
  · omega
  · omega
  · simp [-Fin.ofNat_eq_cast, decFields, decSt, pick, hA, hI, h_rs, h_ra, h_imm]

theorem stHTi (rs : Reg) (ra : Reg) (imm : BitVec 11) : Statement (.stHTi rs ra imm) := by
  have h_rs : rs.val < 32 := rs.isLt
  have h_ra : ra.val < 32 := ra.isLt
  have h_imm : imm.toNat < 2048 := imm.isLt
  refine roundTrip_ti rfl ?_ ?_ fun hw t hA hI => ?_
  · omega
  · omega
  · simp [-Fin.ofNat_eq_cast, decFields, decSt, pick, hA, hI, h_rs, h_ra, h_imm]

theorem stWTi (rs : Reg) (ra : Reg) (imm : BitVec 11) : Statement (.stWTi rs ra imm) := by
  have h_rs : rs.val < 32 := rs.isLt
  have h_ra : ra.val < 32 := ra.isLt
  have h_imm : imm.toNat < 2048 := imm.isLt
  refine roundTrip_ti rfl ?_ ?_ fun hw t hA hI => ?_
  · omega
  · omega
  · simp [-Fin.ofNat_eq_cast, decFields, decSt, pick, hA, hI, h_rs, h_ra, h_imm]

theorem stDTi (rs : Reg) (ra : Reg) (imm : BitVec 11) : Statement (.stDTi rs ra imm) := by
  have h_rs : rs.val < 32 := rs.isLt
  have h_ra : ra.val < 32 := ra.isLt
  have h_imm : imm.toNat < 2048 := imm.isLt
  refine roundTrip_ti rfl ?_ ?_ fun hw t hA hI => ?_
  · omega
  · omega
  · simp [-Fin.ofNat_eq_cast, decFields, decSt, pick, hA, hI, h_rs, h_ra, h_imm]

theorem stBTd (rs : Reg) (ra : Reg) (rb : Reg) (imm : BitVec 16) : Statement (.stBTd rs ra rb imm) := by
  have h_rs : rs.val < 32 := rs.isLt
  have h_ra : ra.val < 32 := ra.isLt
  have h_rb : rb.val < 32 := rb.isLt
  have h_imm : imm.toNat < 65536 := imm.isLt
  refine roundTrip_td rfl ?_ ?_ ?_ fun hw t hA hB hF hI => ?_
  · omega
  · omega
  · omega
  · simp [-Fin.ofNat_eq_cast, decFields, decSt, pick, hA, hB, hF, hI, h_rs, h_ra, h_rb, h_imm]

theorem stHTd (rs : Reg) (ra : Reg) (rb : Reg) (imm : BitVec 16) : Statement (.stHTd rs ra rb imm) := by
  have h_rs : rs.val < 32 := rs.isLt
  have h_ra : ra.val < 32 := ra.isLt
  have h_rb : rb.val < 32 := rb.isLt
  have h_imm : imm.toNat < 65536 := imm.isLt
  refine roundTrip_td rfl ?_ ?_ ?_ fun hw t hA hB hF hI => ?_
  · omega
  · omega
  · omega
  · simp [-Fin.ofNat_eq_cast, decFields, decSt, pick, hA, hB, hF, hI, h_rs, h_ra, h_rb, h_imm]

theorem stWTd (rs : Reg) (ra : Reg) (rb : Reg) (imm : BitVec 16) : Statement (.stWTd rs ra rb imm) := by
  have h_rs : rs.val < 32 := rs.isLt
  have h_ra : ra.val < 32 := ra.isLt
  have h_rb : rb.val < 32 := rb.isLt
  have h_imm : imm.toNat < 65536 := imm.isLt
  refine roundTrip_td rfl ?_ ?_ ?_ fun hw t hA hB hF hI => ?_
  · omega
  · omega
  · omega
  · simp [-Fin.ofNat_eq_cast, decFields, decSt, pick, hA, hB, hF, hI, h_rs, h_ra, h_rb, h_imm]

theorem stDTd (rs : Reg) (ra : Reg) (rb : Reg) (imm : BitVec 16) : Statement (.stDTd rs ra rb imm) := by
  have h_rs : rs.val < 32 := rs.isLt
  have h_ra : ra.val < 32 := ra.isLt
  have h_rb : rb.val < 32 := rb.isLt
  have h_imm : imm.toNat < 65536 := imm.isLt
  refine roundTrip_td rfl ?_ ?_ ?_ fun hw t hA hB hF hI => ?_
  · omega
  · omega
  · omega
  · simp [-Fin.ofNat_eq_cast, decFields, decSt, pick, hA, hB, hF, hI, h_rs, h_ra, h_rb, h_imm]

theorem ldc (rd : Reg) (ra : Reg) (imm : BitVec 11) : Statement (.ldc rd ra imm) := by
  have h_rd : rd.val < 32 := rd.isLt
  have h_ra : ra.val < 32 := ra.isLt
  have h_imm : imm.toNat < 2048 := imm.isLt
  refine roundTrip_ti rfl ?_ ?_ fun hw t hA hI => ?_
  · omega
  · omega
  · simp [-Fin.ofNat_eq_cast, decFields, decFemem, pick, hA, hI, h_rd, h_ra, h_imm]

theorem ldf (rd : Reg) (ra : Reg) (imm : BitVec 11) : Statement (.ldf rd ra imm) := by
  have h_rd : rd.val < 32 := rd.isLt
  have h_ra : ra.val < 32 := ra.isLt
  have h_imm : imm.toNat < 2048 := imm.isLt
  refine roundTrip_ti rfl ?_ ?_ fun hw t hA hI => ?_
  · omega
  · omega
  · simp [-Fin.ofNat_eq_cast, decFields, decFemem, pick, hA, hI, h_rd, h_ra, h_imm]

theorem stp (rd : Reg) (ra : Reg) (imm : BitVec 11) : Statement (.stp rd ra imm) := by
  have h_rd : rd.val < 32 := rd.isLt
  have h_ra : ra.val < 32 := ra.isLt
  have h_imm : imm.toNat < 2048 := imm.isLt
  refine roundTrip_ti rfl ?_ ?_ fun hw t hA hI => ?_
  · omega
  · omega
  · simp [-Fin.ofNat_eq_cast, decFields, decFemem, pick, hA, hI, h_rd, h_ra, h_imm]

theorem stf (rd : Reg) (ra : Reg) (imm : BitVec 11) : Statement (.stf rd ra imm) := by
  have h_rd : rd.val < 32 := rd.isLt
  have h_ra : ra.val < 32 := ra.isLt
  have h_imm : imm.toNat < 2048 := imm.isLt
  refine roundTrip_ti rfl ?_ ?_ fun hw t hA hI => ?_
  · omega
  · omega
  · simp [-Fin.ofNat_eq_cast, decFields, decFemem, pick, hA, hI, h_rd, h_ra, h_imm]

theorem femt (ra : Reg) (imm : BitVec 11) : Statement (.femt ra imm) := by
  have h_ra : ra.val < 32 := ra.isLt
  have h_imm : imm.toNat < 2048 := imm.isLt
  refine roundTrip_ti rfl ?_ ?_ fun hw t hA hI => ?_
  · omega
  · omega
  · simp [-Fin.ofNat_eq_cast, decFields, decFemem, pick, hA, hI, h_ra, h_imm]

theorem fest (rd : Reg) (ra : Reg) (imm : BitVec 11) : Statement (.fest rd ra imm) := by
  have h_rd : rd.val < 32 := rd.isLt
  have h_ra : ra.val < 32 := ra.isLt
  have h_imm : imm.toNat < 2048 := imm.isLt
  refine roundTrip_ti rfl ?_ ?_ fun hw t hA hI => ?_
  · omega
  · omega
  · simp [-Fin.ofNat_eq_cast, decFields, decFemem, pick, hA, hI, h_rd, h_ra, h_imm]

theorem amoadd (fl : AmoFlags) (rd : Reg) (ra : Reg) (rb : Reg) : Statement (.amoadd fl rd ra rb) := by
  have h_fld : fl.d.toNat ≤ 1 := Bool.toNat_le _
  have h_flaq : fl.aq.toNat ≤ 1 := Bool.toNat_le _
  have h_flrl : fl.rl.toNat ≤ 1 := Bool.toNat_le _
  have h_rd : rd.val < 32 := rd.isLt
  have h_ra : ra.val < 32 := ra.isLt
  have h_rb : rb.val < 32 := rb.isLt
  refine roundTrip_tr rfl ?_ ?_ fun hw t hA hB hF => ?_
  · omega
  · omega
  · obtain ⟨⟨⟩, ⟨⟩, ⟨⟩⟩ := fl <;> simp [-Fin.ofNat_eq_cast, decFields, decAmo, pick, hA, hB, hF, h_rd, h_ra, h_rb]

theorem amoand (fl : AmoFlags) (rd : Reg) (ra : Reg) (rb : Reg) : Statement (.amoand fl rd ra rb) := by
  have h_fld : fl.d.toNat ≤ 1 := Bool.toNat_le _
  have h_flaq : fl.aq.toNat ≤ 1 := Bool.toNat_le _
  have h_flrl : fl.rl.toNat ≤ 1 := Bool.toNat_le _
  have h_rd : rd.val < 32 := rd.isLt
  have h_ra : ra.val < 32 := ra.isLt
  have h_rb : rb.val < 32 := rb.isLt
  refine roundTrip_tr rfl ?_ ?_ fun hw t hA hB hF => ?_
  · omega
  · omega
  · obtain ⟨⟨⟩, ⟨⟩, ⟨⟩⟩ := fl <;> simp [-Fin.ofNat_eq_cast, decFields, decAmo, pick, hA, hB, hF, h_rd, h_ra, h_rb]

theorem amoor (fl : AmoFlags) (rd : Reg) (ra : Reg) (rb : Reg) : Statement (.amoor fl rd ra rb) := by
  have h_fld : fl.d.toNat ≤ 1 := Bool.toNat_le _
  have h_flaq : fl.aq.toNat ≤ 1 := Bool.toNat_le _
  have h_flrl : fl.rl.toNat ≤ 1 := Bool.toNat_le _
  have h_rd : rd.val < 32 := rd.isLt
  have h_ra : ra.val < 32 := ra.isLt
  have h_rb : rb.val < 32 := rb.isLt
  refine roundTrip_tr rfl ?_ ?_ fun hw t hA hB hF => ?_
  · omega
  · omega
  · obtain ⟨⟨⟩, ⟨⟩, ⟨⟩⟩ := fl <;> simp [-Fin.ofNat_eq_cast, decFields, decAmo, pick, hA, hB, hF, h_rd, h_ra, h_rb]

theorem amoxor (fl : AmoFlags) (rd : Reg) (ra : Reg) (rb : Reg) : Statement (.amoxor fl rd ra rb) := by
  have h_fld : fl.d.toNat ≤ 1 := Bool.toNat_le _
  have h_flaq : fl.aq.toNat ≤ 1 := Bool.toNat_le _
  have h_flrl : fl.rl.toNat ≤ 1 := Bool.toNat_le _
  have h_rd : rd.val < 32 := rd.isLt
  have h_ra : ra.val < 32 := ra.isLt
  have h_rb : rb.val < 32 := rb.isLt
  refine roundTrip_tr rfl ?_ ?_ fun hw t hA hB hF => ?_
  · omega
  · omega
  · obtain ⟨⟨⟩, ⟨⟩, ⟨⟩⟩ := fl <;> simp [-Fin.ofNat_eq_cast, decFields, decAmo, pick, hA, hB, hF, h_rd, h_ra, h_rb]

theorem amomin (fl : AmoFlags) (rd : Reg) (ra : Reg) (rb : Reg) : Statement (.amomin fl rd ra rb) := by
  have h_fld : fl.d.toNat ≤ 1 := Bool.toNat_le _
  have h_flaq : fl.aq.toNat ≤ 1 := Bool.toNat_le _
  have h_flrl : fl.rl.toNat ≤ 1 := Bool.toNat_le _
  have h_rd : rd.val < 32 := rd.isLt
  have h_ra : ra.val < 32 := ra.isLt
  have h_rb : rb.val < 32 := rb.isLt
  refine roundTrip_tr rfl ?_ ?_ fun hw t hA hB hF => ?_
  · omega
  · omega
  · obtain ⟨⟨⟩, ⟨⟩, ⟨⟩⟩ := fl <;> simp [-Fin.ofNat_eq_cast, decFields, decAmo, pick, hA, hB, hF, h_rd, h_ra, h_rb]

theorem amomax (fl : AmoFlags) (rd : Reg) (ra : Reg) (rb : Reg) : Statement (.amomax fl rd ra rb) := by
  have h_fld : fl.d.toNat ≤ 1 := Bool.toNat_le _
  have h_flaq : fl.aq.toNat ≤ 1 := Bool.toNat_le _
  have h_flrl : fl.rl.toNat ≤ 1 := Bool.toNat_le _
  have h_rd : rd.val < 32 := rd.isLt
  have h_ra : ra.val < 32 := ra.isLt
  have h_rb : rb.val < 32 := rb.isLt
  refine roundTrip_tr rfl ?_ ?_ fun hw t hA hB hF => ?_
  · omega
  · omega
  · obtain ⟨⟨⟩, ⟨⟩, ⟨⟩⟩ := fl <;> simp [-Fin.ofNat_eq_cast, decFields, decAmo, pick, hA, hB, hF, h_rd, h_ra, h_rb]

theorem amominu (fl : AmoFlags) (rd : Reg) (ra : Reg) (rb : Reg) : Statement (.amominu fl rd ra rb) := by
  have h_fld : fl.d.toNat ≤ 1 := Bool.toNat_le _
  have h_flaq : fl.aq.toNat ≤ 1 := Bool.toNat_le _
  have h_flrl : fl.rl.toNat ≤ 1 := Bool.toNat_le _
  have h_rd : rd.val < 32 := rd.isLt
  have h_ra : ra.val < 32 := ra.isLt
  have h_rb : rb.val < 32 := rb.isLt
  refine roundTrip_tr rfl ?_ ?_ fun hw t hA hB hF => ?_
  · omega
  · omega
  · obtain ⟨⟨⟩, ⟨⟩, ⟨⟩⟩ := fl <;> simp [-Fin.ofNat_eq_cast, decFields, decAmo, pick, hA, hB, hF, h_rd, h_ra, h_rb]

theorem amomaxu (fl : AmoFlags) (rd : Reg) (ra : Reg) (rb : Reg) : Statement (.amomaxu fl rd ra rb) := by
  have h_fld : fl.d.toNat ≤ 1 := Bool.toNat_le _
  have h_flaq : fl.aq.toNat ≤ 1 := Bool.toNat_le _
  have h_flrl : fl.rl.toNat ≤ 1 := Bool.toNat_le _
  have h_rd : rd.val < 32 := rd.isLt
  have h_ra : ra.val < 32 := ra.isLt
  have h_rb : rb.val < 32 := rb.isLt
  refine roundTrip_tr rfl ?_ ?_ fun hw t hA hB hF => ?_
  · omega
  · omega
  · obtain ⟨⟨⟩, ⟨⟩, ⟨⟩⟩ := fl <;> simp [-Fin.ofNat_eq_cast, decFields, decAmo, pick, hA, hB, hF, h_rd, h_ra, h_rb]

theorem amoswap (fl : AmoFlags) (rd : Reg) (ra : Reg) (rb : Reg) : Statement (.amoswap fl rd ra rb) := by
  have h_fld : fl.d.toNat ≤ 1 := Bool.toNat_le _
  have h_flaq : fl.aq.toNat ≤ 1 := Bool.toNat_le _
  have h_flrl : fl.rl.toNat ≤ 1 := Bool.toNat_le _
  have h_rd : rd.val < 32 := rd.isLt
  have h_ra : ra.val < 32 := ra.isLt
  have h_rb : rb.val < 32 := rb.isLt
  refine roundTrip_tr rfl ?_ ?_ fun hw t hA hB hF => ?_
  · omega
  · omega
  · obtain ⟨⟨⟩, ⟨⟩, ⟨⟩⟩ := fl <;> simp [-Fin.ofNat_eq_cast, decFields, decAmo, pick, hA, hB, hF, h_rd, h_ra, h_rb]

theorem amocas (fl : AmoFlags) (rd : Reg) (ra : Reg) (rb : Reg) : Statement (.amocas fl rd ra rb) := by
  have h_fld : fl.d.toNat ≤ 1 := Bool.toNat_le _
  have h_flaq : fl.aq.toNat ≤ 1 := Bool.toNat_le _
  have h_flrl : fl.rl.toNat ≤ 1 := Bool.toNat_le _
  have h_rd : rd.val < 32 := rd.isLt
  have h_ra : ra.val < 32 := ra.isLt
  have h_rb : rb.val < 32 := rb.isLt
  refine roundTrip_tr rfl ?_ ?_ fun hw t hA hB hF => ?_
  · omega
  · omega
  · obtain ⟨⟨⟩, ⟨⟩, ⟨⟩⟩ := fl <;> simp [-Fin.ofNat_eq_cast, decFields, decAmo, pick, hA, hB, hF, h_rd, h_ra, h_rb]

theorem fenceAcq (scope : Fin 4) : Statement (.fenceAcq scope) := by
  have h_scope : scope.val < 4 := scope.isLt
  refine roundTrip_head rfl ?_ fun hw  => ?_
  · omega
  · simp [-Fin.ofNat_eq_cast, decFields, decFence, pick, h_scope]

theorem fenceRel (scope : Fin 4) : Statement (.fenceRel scope) := by
  have h_scope : scope.val < 4 := scope.isLt
  refine roundTrip_head rfl ?_ fun hw  => ?_
  · omega
  · simp [-Fin.ofNat_eq_cast, decFields, decFence, pick, h_scope]

theorem fenceFull (scope : Fin 4) : Statement (.fenceFull scope) := by
  have h_scope : scope.val < 4 := scope.isLt
  refine roundTrip_head rfl ?_ fun hw  => ?_
  · omega
  · simp [-Fin.ofNat_eq_cast, decFields, decFence, pick, h_scope]

theorem drain (path : Fin 6) : Statement (.drain path) := by
  have h_path : path.val < 6 := path.isLt
  refine roundTrip_head rfl ?_ fun hw  => ?_
  · omega
  · simp [-Fin.ofNat_eq_cast, decFields, decDrain, pick, h_path]

theorem rfill (ra : Reg) (rb : Reg) (rt : Reg) : Statement (.rfill ra rb rt) := by
  have h_ra : ra.val < 32 := ra.isLt
  have h_rb : rb.val < 32 := rb.isLt
  have h_rt : rt.val < 32 := rt.isLt
  refine roundTrip_td rfl ?_ ?_ ?_ fun hw t hA hB hF hI => ?_
  · omega
  · omega
  · omega
  · simp [-Fin.ofNat_eq_cast, decFields, decRegfe, pick, hA, hB, hF, hI, h_ra, h_rb, h_rt]

theorem rempty (rd : Reg) : Statement (.rempty rd) := by
  have h_rd : rd.val < 32 := rd.isLt
  refine roundTrip_head rfl ?_ fun hw  => ?_
  · omega
  · simp [-Fin.ofNat_eq_cast, decFields, decRegfe, pick, h_rd]

theorem rstat (rd : Reg) : Statement (.rstat rd) := by
  have h_rd : rd.val < 32 := rd.isLt
  refine roundTrip_head rfl ?_ fun hw  => ?_
  · omega
  · simp [-Fin.ofNat_eq_cast, decFields, decRegfe, pick, h_rd]

theorem send (ra : Reg) (rb : Reg) (mbox : Fin 16) (tag : BitVec 16) : Statement (.send ra rb mbox tag) := by
  have h_ra : ra.val < 32 := ra.isLt
  have h_rb : rb.val < 32 := rb.isLt
  have h_mbox : mbox.val < 16 := mbox.isLt
  have h_tag : tag.toNat < 65536 := tag.isLt
  refine roundTrip_td rfl ?_ ?_ ?_ fun hw t hA hB hF hI => ?_
  · omega
  · omega
  · omega
  · simp [-Fin.ofNat_eq_cast, decFields, decSend, pick, hA, hB, hF, hI, h_ra, h_rb, h_mbox, h_tag]

theorem recv (rd : Reg) (ra : Reg) (rb : Reg) : Statement (.recv rd ra rb) := by
  have h_rd : rd.val < 32 := rd.isLt
  have h_ra : ra.val < 32 := ra.isLt
  have h_rb : rb.val < 32 := rb.isLt
  refine roundTrip_tr rfl ?_ ?_ fun hw t hA hB hF => ?_
  · omega
  · omega
  · simp [-Fin.ofNat_eq_cast, decFields, decRecv, pick, hA, hB, hF, h_rd, h_ra, h_rb]

theorem tryrecv (rd : Reg) (ra : Reg) (rb : Reg) : Statement (.tryrecv rd ra rb) := by
  have h_rd : rd.val < 32 := rd.isLt
  have h_ra : ra.val < 32 := ra.isLt
  have h_rb : rb.val < 32 := rb.isLt
  refine roundTrip_tr rfl ?_ ?_ fun hw t hA hB hF => ?_
  · omega
  · omega
  · simp [-Fin.ofNat_eq_cast, decFields, decRecv, pick, hA, hB, hF, h_rd, h_ra, h_rb]

theorem spawn (rd : Reg) (ra : Reg) (rb : Reg) : Statement (.spawn rd ra rb) := by
  have h_rd : rd.val < 32 := rd.isLt
  have h_ra : ra.val < 32 := ra.isLt
  have h_rb : rb.val < 32 := rb.isLt
  refine roundTrip_tr rfl ?_ ?_ fun hw t hA hB hF => ?_
  · omega
  · omega
  · simp [-Fin.ofNat_eq_cast, decFields, decThread, pick, hA, hB, hF, h_rd, h_ra, h_rb]

theorem gjoin (rd : Reg) (ra : Reg) : Statement (.gjoin rd ra) := by
  have h_rd : rd.val < 32 := rd.isLt
  have h_ra : ra.val < 32 := ra.isLt
  refine roundTrip_tr rfl ?_ ?_ fun hw t hA hB hF => ?_
  · omega
  · omega
  · simp [-Fin.ofNat_eq_cast, decFields, decThread, pick, hA, hB, hF, h_rd, h_ra]

theorem gleave (rd : Reg) (ra : Reg) : Statement (.gleave rd ra) := by
  have h_rd : rd.val < 32 := rd.isLt
  have h_ra : ra.val < 32 := ra.isLt
  refine roundTrip_tr rfl ?_ ?_ fun hw t hA hB hF => ?_
  · omega
  · omega
  · simp [-Fin.ofNat_eq_cast, decFields, decThread, pick, hA, hB, hF, h_rd, h_ra]

theorem gbar (rd : Reg) (ra : Reg) : Statement (.gbar rd ra) := by
  have h_rd : rd.val < 32 := rd.isLt
  have h_ra : ra.val < 32 := ra.isLt
  refine roundTrip_tr rfl ?_ ?_ fun hw t hA hB hF => ?_
  · omega
  · omega
  · simp [-Fin.ofNat_eq_cast, decFields, decThread, pick, hA, hB, hF, h_rd, h_ra]

theorem gsize (rd : Reg) (ra : Reg) : Statement (.gsize rd ra) := by
  have h_rd : rd.val < 32 := rd.isLt
  have h_ra : ra.val < 32 := ra.isLt
  refine roundTrip_tr rfl ?_ ?_ fun hw t hA hB hF => ?_
  · omega
  · omega
  · simp [-Fin.ofNat_eq_cast, decFields, decThread, pick, hA, hB, hF, h_rd, h_ra]

theorem task : Statement (.task) := by
  refine roundTrip_tr rfl ?_ ?_ fun hw t hA hB hF => ?_
  · omega
  · omega
  · simp [-Fin.ofNat_eq_cast, decFields, decThread, pick, hA, hB, hF]

theorem tdone : Statement (.tdone) := by
  refine roundTrip_tr rfl ?_ ?_ fun hw t hA hB hF => ?_
  · omega
  · omega
  · simp [-Fin.ofNat_eq_cast, decFields, decThread, pick, hA, hB, hF]

theorem mig (ra : Reg) : Statement (.mig ra) := by
  have h_ra : ra.val < 32 := ra.isLt
  refine roundTrip_tr rfl ?_ ?_ fun hw t hA hB hF => ?_
  · omega
  · omega
  · simp [-Fin.ofNat_eq_cast, decFields, decThread, pick, hA, hB, hF, h_ra]

theorem swapt (ra : Reg) (rb : Reg) : Statement (.swapt ra rb) := by
  have h_ra : ra.val < 32 := ra.isLt
  have h_rb : rb.val < 32 := rb.isLt
  refine roundTrip_tr rfl ?_ ?_ fun hw t hA hB hF => ?_
  · omega
  · omega
  · simp [-Fin.ofNat_eq_cast, decFields, decSwapt, pick, hA, hB, hF, h_ra, h_rb]

theorem ckpt (rd : Reg) : Statement (.ckpt rd) := by
  have h_rd : rd.val < 32 := rd.isLt
  refine roundTrip_td rfl ?_ ?_ ?_ fun hw t hA hB hF hI => ?_
  · omega
  · omega
  · omega
  · simp [-Fin.ofNat_eq_cast, decFields, decSys, pick, hA, hB, hF, hI, h_rd]

theorem siga (ra : Reg) : Statement (.siga ra) := by
  have h_ra : ra.val < 32 := ra.isLt
  refine roundTrip_td rfl ?_ ?_ ?_ fun hw t hA hB hF hI => ?_
  · omega
  · omega
  · omega
  · simp [-Fin.ofNat_eq_cast, decFields, decSys, pick, hA, hB, hF, hI, h_ra]

theorem qpost (rd : Reg) (ra : Reg) (rb : Reg) : Statement (.qpost rd ra rb) := by
  have h_rd : rd.val < 32 := rd.isLt
  have h_ra : ra.val < 32 := ra.isLt
  have h_rb : rb.val < 32 := rb.isLt
  refine roundTrip_td rfl ?_ ?_ ?_ fun hw t hA hB hF hI => ?_
  · omega
  · omega
  · omega
  · simp [-Fin.ofNat_eq_cast, decFields, decSys, pick, hA, hB, hF, hI, h_rd, h_ra, h_rb]

theorem vadd (o : VecOps) : Statement (.vadd o) := by
  have h_ts : o.ts.val < 8 := o.ts.isLt
  have h_td : o.td.val < 8 := o.td.isLt
  have h_rm : o.rm.val < 4 := o.rm.isLt
  have h_sc : o.sc.toNat ≤ 1 := Bool.toNat_le _
  have h_sat : o.sat.toNat ≤ 1 := Bool.toNat_le _
  refine roundTrip_tq rfl ?_ ?_ ?_ fun hw t hA hB hC hE hF hI => ?_
  · omega
  · omega
  · omega
  · simp [-Fin.ofNat_eq_cast, decFields, decVec, pick, hA, hB, hC, hE, hF, hI, h_ts, h_td, h_rm, vec_td, vec_ty, vec_sat, vec_sc, vec_lt, show vecOk _ o = true from hw]

theorem vsub (o : VecOps) : Statement (.vsub o) := by
  have h_ts : o.ts.val < 8 := o.ts.isLt
  have h_td : o.td.val < 8 := o.td.isLt
  have h_rm : o.rm.val < 4 := o.rm.isLt
  have h_sc : o.sc.toNat ≤ 1 := Bool.toNat_le _
  have h_sat : o.sat.toNat ≤ 1 := Bool.toNat_le _
  refine roundTrip_tq rfl ?_ ?_ ?_ fun hw t hA hB hC hE hF hI => ?_
  · omega
  · omega
  · omega
  · simp [-Fin.ofNat_eq_cast, decFields, decVec, pick, hA, hB, hC, hE, hF, hI, h_ts, h_td, h_rm, vec_td, vec_ty, vec_sat, vec_sc, vec_lt, show vecOk _ o = true from hw]

theorem vmul (o : VecOps) : Statement (.vmul o) := by
  have h_ts : o.ts.val < 8 := o.ts.isLt
  have h_td : o.td.val < 8 := o.td.isLt
  have h_rm : o.rm.val < 4 := o.rm.isLt
  have h_sc : o.sc.toNat ≤ 1 := Bool.toNat_le _
  have h_sat : o.sat.toNat ≤ 1 := Bool.toNat_le _
  refine roundTrip_tq rfl ?_ ?_ ?_ fun hw t hA hB hC hE hF hI => ?_
  · omega
  · omega
  · omega
  · simp [-Fin.ofNat_eq_cast, decFields, decVec, pick, hA, hB, hC, hE, hF, hI, h_ts, h_td, h_rm, vec_td, vec_ty, vec_sat, vec_sc, vec_lt, show vecOk _ o = true from hw]

theorem vmax (o : VecOps) : Statement (.vmax o) := by
  have h_ts : o.ts.val < 8 := o.ts.isLt
  have h_td : o.td.val < 8 := o.td.isLt
  have h_rm : o.rm.val < 4 := o.rm.isLt
  have h_sc : o.sc.toNat ≤ 1 := Bool.toNat_le _
  have h_sat : o.sat.toNat ≤ 1 := Bool.toNat_le _
  refine roundTrip_tq rfl ?_ ?_ ?_ fun hw t hA hB hC hE hF hI => ?_
  · omega
  · omega
  · omega
  · simp [-Fin.ofNat_eq_cast, decFields, decVec, pick, hA, hB, hC, hE, hF, hI, h_ts, h_td, h_rm, vec_td, vec_ty, vec_sat, vec_sc, vec_lt, show vecOk _ o = true from hw]

theorem vmin (o : VecOps) : Statement (.vmin o) := by
  have h_ts : o.ts.val < 8 := o.ts.isLt
  have h_td : o.td.val < 8 := o.td.isLt
  have h_rm : o.rm.val < 4 := o.rm.isLt
  have h_sc : o.sc.toNat ≤ 1 := Bool.toNat_le _
  have h_sat : o.sat.toNat ≤ 1 := Bool.toNat_le _
  refine roundTrip_tq rfl ?_ ?_ ?_ fun hw t hA hB hC hE hF hI => ?_
  · omega
  · omega
  · omega
  · simp [-Fin.ofNat_eq_cast, decFields, decVec, pick, hA, hB, hC, hE, hF, hI, h_ts, h_td, h_rm, vec_td, vec_ty, vec_sat, vec_sc, vec_lt, show vecOk _ o = true from hw]

theorem vabs (o : VecOps) : Statement (.vabs o) := by
  have h_ts : o.ts.val < 8 := o.ts.isLt
  have h_td : o.td.val < 8 := o.td.isLt
  have h_rm : o.rm.val < 4 := o.rm.isLt
  have h_sc : o.sc.toNat ≤ 1 := Bool.toNat_le _
  have h_sat : o.sat.toNat ≤ 1 := Bool.toNat_le _
  refine roundTrip_tq rfl ?_ ?_ ?_ fun hw t hA hB hC hE hF hI => ?_
  · omega
  · omega
  · omega
  · simp [-Fin.ofNat_eq_cast, decFields, decVec, pick, hA, hB, hC, hE, hF, hI, h_ts, h_td, h_rm, vec_td, vec_ty, vec_sat, vec_sc, vec_lt, show vecOk _ o = true from hw]

theorem vneg (o : VecOps) : Statement (.vneg o) := by
  have h_ts : o.ts.val < 8 := o.ts.isLt
  have h_td : o.td.val < 8 := o.td.isLt
  have h_rm : o.rm.val < 4 := o.rm.isLt
  have h_sc : o.sc.toNat ≤ 1 := Bool.toNat_le _
  have h_sat : o.sat.toNat ≤ 1 := Bool.toNat_le _
  refine roundTrip_tq rfl ?_ ?_ ?_ fun hw t hA hB hC hE hF hI => ?_
  · omega
  · omega
  · omega
  · simp [-Fin.ofNat_eq_cast, decFields, decVec, pick, hA, hB, hC, hE, hF, hI, h_ts, h_td, h_rm, vec_td, vec_ty, vec_sat, vec_sc, vec_lt, show vecOk _ o = true from hw]

theorem vfma (o : VecOps) : Statement (.vfma o) := by
  have h_ts : o.ts.val < 8 := o.ts.isLt
  have h_td : o.td.val < 8 := o.td.isLt
  have h_rm : o.rm.val < 4 := o.rm.isLt
  have h_sc : o.sc.toNat ≤ 1 := Bool.toNat_le _
  have h_sat : o.sat.toNat ≤ 1 := Bool.toNat_le _
  refine roundTrip_tq rfl ?_ ?_ ?_ fun hw t hA hB hC hE hF hI => ?_
  · omega
  · omega
  · omega
  · simp [-Fin.ofNat_eq_cast, decFields, decVec, pick, hA, hB, hC, hE, hF, hI, h_ts, h_td, h_rm, vec_td, vec_ty, vec_sat, vec_sc, vec_lt, show vecOk _ o = true from hw]

theorem vexp (o : VecOps) : Statement (.vexp o) := by
  have h_ts : o.ts.val < 8 := o.ts.isLt
  have h_td : o.td.val < 8 := o.td.isLt
  have h_rm : o.rm.val < 4 := o.rm.isLt
  have h_sc : o.sc.toNat ≤ 1 := Bool.toNat_le _
  have h_sat : o.sat.toNat ≤ 1 := Bool.toNat_le _
  refine roundTrip_tq rfl ?_ ?_ ?_ fun hw t hA hB hC hE hF hI => ?_
  · omega
  · omega
  · omega
  · simp [-Fin.ofNat_eq_cast, decFields, decVec, pick, hA, hB, hC, hE, hF, hI, h_ts, h_td, h_rm, vec_td, vec_ty, vec_sat, vec_sc, vec_lt, show vecOk _ o = true from hw]

theorem vrcp (o : VecOps) : Statement (.vrcp o) := by
  have h_ts : o.ts.val < 8 := o.ts.isLt
  have h_td : o.td.val < 8 := o.td.isLt
  have h_rm : o.rm.val < 4 := o.rm.isLt
  have h_sc : o.sc.toNat ≤ 1 := Bool.toNat_le _
  have h_sat : o.sat.toNat ≤ 1 := Bool.toNat_le _
  refine roundTrip_tq rfl ?_ ?_ ?_ fun hw t hA hB hC hE hF hI => ?_
  · omega
  · omega
  · omega
  · simp [-Fin.ofNat_eq_cast, decFields, decVec, pick, hA, hB, hC, hE, hF, hI, h_ts, h_td, h_rm, vec_td, vec_ty, vec_sat, vec_sc, vec_lt, show vecOk _ o = true from hw]

theorem vrsq (o : VecOps) : Statement (.vrsq o) := by
  have h_ts : o.ts.val < 8 := o.ts.isLt
  have h_td : o.td.val < 8 := o.td.isLt
  have h_rm : o.rm.val < 4 := o.rm.isLt
  have h_sc : o.sc.toNat ≤ 1 := Bool.toNat_le _
  have h_sat : o.sat.toNat ≤ 1 := Bool.toNat_le _
  refine roundTrip_tq rfl ?_ ?_ ?_ fun hw t hA hB hC hE hF hI => ?_
  · omega
  · omega
  · omega
  · simp [-Fin.ofNat_eq_cast, decFields, decVec, pick, hA, hB, hC, hE, hF, hI, h_ts, h_td, h_rm, vec_td, vec_ty, vec_sat, vec_sc, vec_lt, show vecOk _ o = true from hw]

theorem vsigm (o : VecOps) : Statement (.vsigm o) := by
  have h_ts : o.ts.val < 8 := o.ts.isLt
  have h_td : o.td.val < 8 := o.td.isLt
  have h_rm : o.rm.val < 4 := o.rm.isLt
  have h_sc : o.sc.toNat ≤ 1 := Bool.toNat_le _
  have h_sat : o.sat.toNat ≤ 1 := Bool.toNat_le _
  refine roundTrip_tq rfl ?_ ?_ ?_ fun hw t hA hB hC hE hF hI => ?_
  · omega
  · omega
  · omega
  · simp [-Fin.ofNat_eq_cast, decFields, decVec, pick, hA, hB, hC, hE, hF, hI, h_ts, h_td, h_rm, vec_td, vec_ty, vec_sat, vec_sc, vec_lt, show vecOk _ o = true from hw]

theorem vsilu (o : VecOps) : Statement (.vsilu o) := by
  have h_ts : o.ts.val < 8 := o.ts.isLt
  have h_td : o.td.val < 8 := o.td.isLt
  have h_rm : o.rm.val < 4 := o.rm.isLt
  have h_sc : o.sc.toNat ≤ 1 := Bool.toNat_le _
  have h_sat : o.sat.toNat ≤ 1 := Bool.toNat_le _
  refine roundTrip_tq rfl ?_ ?_ ?_ fun hw t hA hB hC hE hF hI => ?_
  · omega
  · omega
  · omega
  · simp [-Fin.ofNat_eq_cast, decFields, decVec, pick, hA, hB, hC, hE, hF, hI, h_ts, h_td, h_rm, vec_td, vec_ty, vec_sat, vec_sc, vec_lt, show vecOk _ o = true from hw]

theorem vcvt (o : VecOps) : Statement (.vcvt o) := by
  have h_ts : o.ts.val < 8 := o.ts.isLt
  have h_td : o.td.val < 8 := o.td.isLt
  have h_rm : o.rm.val < 4 := o.rm.isLt
  have h_sc : o.sc.toNat ≤ 1 := Bool.toNat_le _
  have h_sat : o.sat.toNat ≤ 1 := Bool.toNat_le _
  refine roundTrip_tq rfl ?_ ?_ ?_ fun hw t hA hB hC hE hF hI => ?_
  · omega
  · omega
  · omega
  · simp [-Fin.ofNat_eq_cast, decFields, decVec, pick, hA, hB, hC, hE, hF, hI, h_ts, h_td, h_rm, vec_td, vec_ty, vec_sat, vec_sc, vec_lt, show vecOk _ o = true from hw]

theorem vset (o : VecOps) : Statement (.vset o) := by
  have h_ts : o.ts.val < 8 := o.ts.isLt
  have h_td : o.td.val < 8 := o.td.isLt
  have h_rm : o.rm.val < 4 := o.rm.isLt
  have h_sc : o.sc.toNat ≤ 1 := Bool.toNat_le _
  have h_sat : o.sat.toNat ≤ 1 := Bool.toNat_le _
  refine roundTrip_tq rfl ?_ ?_ ?_ fun hw t hA hB hC hE hF hI => ?_
  · omega
  · omega
  · omega
  · simp [-Fin.ofNat_eq_cast, decFields, decVec, pick, hA, hB, hC, hE, hF, hI, h_ts, h_td, h_rm, vec_td, vec_ty, vec_sat, vec_sc, vec_lt, show vecOk _ o = true from hw]

theorem vcpy (o : VecOps) : Statement (.vcpy o) := by
  have h_ts : o.ts.val < 8 := o.ts.isLt
  have h_td : o.td.val < 8 := o.td.isLt
  have h_rm : o.rm.val < 4 := o.rm.isLt
  have h_sc : o.sc.toNat ≤ 1 := Bool.toNat_le _
  have h_sat : o.sat.toNat ≤ 1 := Bool.toNat_le _
  refine roundTrip_tq rfl ?_ ?_ ?_ fun hw t hA hB hC hE hF hI => ?_
  · omega
  · omega
  · omega
  · simp [-Fin.ofNat_eq_cast, decFields, decVec, pick, hA, hB, hC, hE, hF, hI, h_ts, h_td, h_rm, vec_td, vec_ty, vec_sat, vec_sc, vec_lt, show vecOk _ o = true from hw]

theorem viota (o : VecOps) : Statement (.viota o) := by
  have h_ts : o.ts.val < 8 := o.ts.isLt
  have h_td : o.td.val < 8 := o.td.isLt
  have h_rm : o.rm.val < 4 := o.rm.isLt
  have h_sc : o.sc.toNat ≤ 1 := Bool.toNat_le _
  have h_sat : o.sat.toNat ≤ 1 := Bool.toNat_le _
  refine roundTrip_tq rfl ?_ ?_ ?_ fun hw t hA hB hC hE hF hI => ?_
  · omega
  · omega
  · omega
  · simp [-Fin.ofNat_eq_cast, decFields, decVec, pick, hA, hB, hC, hE, hF, hI, h_ts, h_td, h_rm, vec_td, vec_ty, vec_sat, vec_sc, vec_lt, show vecOk _ o = true from hw]

theorem vsel (o : VecOps) : Statement (.vsel o) := by
  have h_ts : o.ts.val < 8 := o.ts.isLt
  have h_td : o.td.val < 8 := o.td.isLt
  have h_rm : o.rm.val < 4 := o.rm.isLt
  have h_sc : o.sc.toNat ≤ 1 := Bool.toNat_le _
  have h_sat : o.sat.toNat ≤ 1 := Bool.toNat_le _
  refine roundTrip_tq rfl ?_ ?_ ?_ fun hw t hA hB hC hE hF hI => ?_
  · omega
  · omega
  · omega
  · simp [-Fin.ofNat_eq_cast, decFields, decVec, pick, hA, hB, hC, hE, hF, hI, h_ts, h_td, h_rm, vec_td, vec_ty, vec_sat, vec_sc, vec_lt, show vecOk _ o = true from hw]

theorem vcmp (o : VecOps) : Statement (.vcmp o) := by
  have h_ts : o.ts.val < 8 := o.ts.isLt
  have h_td : o.td.val < 8 := o.td.isLt
  have h_rm : o.rm.val < 4 := o.rm.isLt
  have h_sc : o.sc.toNat ≤ 1 := Bool.toNat_le _
  have h_sat : o.sat.toNat ≤ 1 := Bool.toNat_le _
  refine roundTrip_tq rfl ?_ ?_ ?_ fun hw t hA hB hC hE hF hI => ?_
  · omega
  · omega
  · omega
  · simp [-Fin.ofNat_eq_cast, decFields, decVec, pick, hA, hB, hC, hE, hF, hI, h_ts, h_td, h_rm, vec_td, vec_ty, vec_sat, vec_sc, vec_lt, show vecOk _ o = true from hw]

theorem vscl (o : VecOps) : Statement (.vscl o) := by
  have h_ts : o.ts.val < 8 := o.ts.isLt
  have h_td : o.td.val < 8 := o.td.isLt
  have h_rm : o.rm.val < 4 := o.rm.isLt
  have h_sc : o.sc.toNat ≤ 1 := Bool.toNat_le _
  have h_sat : o.sat.toNat ≤ 1 := Bool.toNat_le _
  refine roundTrip_tq rfl ?_ ?_ ?_ fun hw t hA hB hC hE hF hI => ?_
  · omega
  · omega
  · omega
  · simp [-Fin.ofNat_eq_cast, decFields, decVec, pick, hA, hB, hC, hE, hF, hI, h_ts, h_td, h_rm, vec_td, vec_ty, vec_sat, vec_sc, vec_lt, show vecOk _ o = true from hw]

theorem vsum (ty : ETy) (rd : Reg) (ra : Reg) : Statement (.vsum ty rd ra) := by
  have h_ty : ty.val < 8 := ty.isLt
  have h_rd : rd.val < 32 := rd.isLt
  have h_ra : ra.val < 32 := ra.isLt
  refine roundTrip_tq rfl ?_ ?_ ?_ fun hw t hA hB hC hE hF hI => ?_
  · omega
  · omega
  · omega
  · simp [-Fin.ofNat_eq_cast, decFields, decVred, pick, hA, hB, hC, hE, hF, hI, h_ty, h_rd, h_ra, ety_lt hw]

theorem vssq (ty : ETy) (rd : Reg) (ra : Reg) : Statement (.vssq ty rd ra) := by
  have h_ty : ty.val < 8 := ty.isLt
  have h_rd : rd.val < 32 := rd.isLt
  have h_ra : ra.val < 32 := ra.isLt
  refine roundTrip_tq rfl ?_ ?_ ?_ fun hw t hA hB hC hE hF hI => ?_
  · omega
  · omega
  · omega
  · simp [-Fin.ofNat_eq_cast, decFields, decVred, pick, hA, hB, hC, hE, hF, hI, h_ty, h_rd, h_ra, ety_lt hw]

theorem vamax (ty : ETy) (rd : Reg) (ra : Reg) : Statement (.vamax ty rd ra) := by
  have h_ty : ty.val < 8 := ty.isLt
  have h_rd : rd.val < 32 := rd.isLt
  have h_ra : ra.val < 32 := ra.isLt
  refine roundTrip_tq rfl ?_ ?_ ?_ fun hw t hA hB hC hE hF hI => ?_
  · omega
  · omega
  · omega
  · simp [-Fin.ofNat_eq_cast, decFields, decVred, pick, hA, hB, hC, hE, hF, hI, h_ty, h_rd, h_ra, ety_lt hw]

theorem vmaxr (ty : ETy) (rd : Reg) (ra : Reg) : Statement (.vmaxr ty rd ra) := by
  have h_ty : ty.val < 8 := ty.isLt
  have h_rd : rd.val < 32 := rd.isLt
  have h_ra : ra.val < 32 := ra.isLt
  refine roundTrip_tq rfl ?_ ?_ ?_ fun hw t hA hB hC hE hF hI => ?_
  · omega
  · omega
  · omega
  · simp [-Fin.ofNat_eq_cast, decFields, decVred, pick, hA, hB, hC, hE, hF, hI, h_ty, h_rd, h_ra, ety_lt hw]

theorem vminr (ty : ETy) (rd : Reg) (ra : Reg) : Statement (.vminr ty rd ra) := by
  have h_ty : ty.val < 8 := ty.isLt
  have h_rd : rd.val < 32 := rd.isLt
  have h_ra : ra.val < 32 := ra.isLt
  refine roundTrip_tq rfl ?_ ?_ ?_ fun hw t hA hB hC hE hF hI => ?_
  · omega
  · omega
  · omega
  · simp [-Fin.ofNat_eq_cast, decFields, decVred, pick, hA, hB, hC, hE, hF, hI, h_ty, h_rd, h_ra, ety_lt hw]

theorem vdot (ty : ETy) (rd : Reg) (ra : Reg) (rb : Reg) : Statement (.vdot ty rd ra rb) := by
  have h_ty : ty.val < 8 := ty.isLt
  have h_rd : rd.val < 32 := rd.isLt
  have h_ra : ra.val < 32 := ra.isLt
  have h_rb : rb.val < 32 := rb.isLt
  refine roundTrip_tq rfl ?_ ?_ ?_ fun hw t hA hB hC hE hF hI => ?_
  · omega
  · omega
  · omega
  · simp [-Fin.ofNat_eq_cast, decFields, decVred, pick, hA, hB, hC, hE, hF, hI, h_ty, h_rd, h_ra, h_rb, ety_lt hw]

theorem vgath (o : GatOps) : Statement (.vgath o) := by
  have h_ty : o.ty.val < 8 := o.ty.isLt
  have h_x : o.x32.toNat ≤ 1 := Bool.toNat_le _
  refine roundTrip_tq rfl ?_ ?_ ?_ fun hw t hA hB hC hE hF hI => ?_
  · omega
  · omega
  · omega
  · obtain ⟨e1, e2, e3, e4, e5⟩ := gat_fields hI
    simp [-Fin.ofNat_eq_cast, decFields, decVgat, pick, hA, hB, hC, hE, hF, h_ty, e1, e2, e3, e4, e5]

theorem vscat (o : GatOps) : Statement (.vscat o) := by
  have h_ty : o.ty.val < 8 := o.ty.isLt
  have h_x : o.x32.toNat ≤ 1 := Bool.toNat_le _
  refine roundTrip_tq rfl ?_ ?_ ?_ fun hw t hA hB hC hE hF hI => ?_
  · omega
  · omega
  · omega
  · obtain ⟨e1, e2, e3, e4, e5⟩ := gat_fields hI
    simp [-Fin.ofNat_eq_cast, decFields, decVgat, pick, hA, hB, hC, hE, hF, h_ty, e1, e2, e3, e4, e5]

theorem vscadd (rm : Fin 4) (o : GatOps) : Statement (.vscadd rm o) := by
  have h_rm : rm.val < 4 := rm.isLt
  have h_ty : o.ty.val < 8 := o.ty.isLt
  have h_x : o.x32.toNat ≤ 1 := Bool.toNat_le _
  refine roundTrip_tq rfl ?_ ?_ ?_ fun hw t hA hB hC hE hF hI => ?_
  · omega
  · omega
  · omega
  · obtain ⟨e1, e2, e3, e4, e5⟩ := gat_fields hI
    simp [-Fin.ofNat_eq_cast, decFields, decVgat, pick, hA, hB, hC, hE, hF, h_rm, h_ty, e1, e2, e3, e4, e5, ety_ne hw]

theorem cpy (t : Fin 32) (ra : Reg) (rb : Reg) (z : Bool) : Statement (.cpy t ra rb z) := by
  have h_t : t.val < 32 := t.isLt
  have h_ra : ra.val < 32 := ra.isLt
  have h_rb : rb.val < 32 := rb.isLt
  have h_z : z.toNat ≤ 1 := Bool.toNat_le _
  refine roundTrip_td rfl ?_ ?_ ?_ fun hw t hA hB hF hI => ?_
  · omega
  · omega
  · omega
  · cases z <;> simp [-Fin.ofNat_eq_cast, decFields, decCopy, pick, hA, hB, hF, hI, h_t, h_ra, h_rb]

theorem cpys (t : Fin 32) (ra : Reg) (rb : Reg) (z : Bool) : Statement (.cpys t ra rb z) := by
  have h_t : t.val < 32 := t.isLt
  have h_ra : ra.val < 32 := ra.isLt
  have h_rb : rb.val < 32 := rb.isLt
  have h_z : z.toNat ≤ 1 := Bool.toNat_le _
  refine roundTrip_td rfl ?_ ?_ ?_ fun hw t hA hB hF hI => ?_
  · omega
  · omega
  · omega
  · cases z <;> simp [-Fin.ofNat_eq_cast, decFields, decCopy, pick, hA, hB, hF, hI, h_t, h_ra, h_rb]

theorem cpyx (t : Fin 32) (ra : Reg) (rb : Reg) (z : Bool) : Statement (.cpyx t ra rb z) := by
  have h_t : t.val < 32 := t.isLt
  have h_ra : ra.val < 32 := ra.isLt
  have h_rb : rb.val < 32 := rb.isLt
  have h_z : z.toNat ≤ 1 := Bool.toNat_le _
  refine roundTrip_td rfl ?_ ?_ ?_ fun hw t hA hB hF hI => ?_
  · omega
  · omega
  · omega
  · cases z <;> simp [-Fin.ofNat_eq_cast, decFields, decCopy, pick, hA, hB, hF, hI, h_t, h_ra, h_rb]

theorem accz (h : BitVec 7) (n1 : Fin 16) : Statement (.accz h n1) := by
  have h_h : h.toNat < 128 := h.isLt
  have h_n1 : n1.val < 16 := n1.isLt
  refine roundTrip_td rfl ?_ ?_ ?_ fun hw t hA hB hF hI => ?_
  · omega
  · omega
  · exact acc_lt _ _ _ (by omega)
  · obtain ⟨e1, e2, e3, e4, e5⟩ := acc_fields (by omega) hI
    simp [-Fin.ofNat_eq_cast, decFields, decAcc, pick, hA, hB, hF, h_h, h_n1, e1, e2, e3, e4, e5]

theorem accld (h : BitVec 7) (n1 : Fin 16) (ty : ETy) (ra : Reg) (rb : Reg) : Statement (.accld h n1 ty ra rb) := by
  have h_h : h.toNat < 128 := h.isLt
  have h_n1 : n1.val < 16 := n1.isLt
  have h_ty : ty.val < 8 := ty.isLt
  have h_ra : ra.val < 32 := ra.isLt
  have h_rb : rb.val < 32 := rb.isLt
  refine roundTrip_td rfl ?_ ?_ ?_ fun hw t hA hB hF hI => ?_
  · omega
  · omega
  · exact acc_lt _ _ _ (by omega)
  · obtain ⟨e1, e2, e3, e4, e5⟩ := acc_fields (by omega) hI
    simp [-Fin.ofNat_eq_cast, decFields, decAcc, pick, hA, hB, hF, h_h, h_n1, h_ty, h_ra, h_rb, e1, e2, e3, e4, e5, accld_lt hw, accld_ne hw]

theorem accst (h : BitVec 7) (n1 : Fin 16) (ty : ETy) (ra : Reg) (rb : Reg) : Statement (.accst h n1 ty ra rb) := by
  have h_h : h.toNat < 128 := h.isLt
  have h_n1 : n1.val < 16 := n1.isLt
  have h_ty : ty.val < 8 := ty.isLt
  have h_ra : ra.val < 32 := ra.isLt
  have h_rb : rb.val < 32 := rb.isLt
  refine roundTrip_td rfl ?_ ?_ ?_ fun hw t hA hB hF hI => ?_
  · omega
  · omega
  · exact acc_lt _ _ _ (by omega)
  · obtain ⟨e1, e2, e3, e4, e5⟩ := acc_fields (by omega) hI
    simp [-Fin.ofNat_eq_cast, decFields, decAcc, pick, hA, hB, hF, h_h, h_n1, h_ty, h_ra, h_rb, e1, e2, e3, e4, e5]

theorem accpin (qd : Pred) (h : BitVec 7) (n1 : Fin 16) (ra : Reg) (rb : Reg) : Statement (.accpin qd h n1 ra rb) := by
  have h_qd : qd.val < 16 := qd.isLt
  have h_h : h.toNat < 128 := h.isLt
  have h_n1 : n1.val < 16 := n1.isLt
  have h_ra : ra.val < 32 := ra.isLt
  have h_rb : rb.val < 32 := rb.isLt
  refine roundTrip_td rfl ?_ ?_ ?_ fun hw t hA hB hF hI => ?_
  · omega
  · omega
  · exact acc_lt _ _ _ (by omega)
  · obtain ⟨e1, e2, e3, e4, e5⟩ := acc_fields (by omega) hI
    simp [-Fin.ofNat_eq_cast, decFields, decAcc, pick, hA, hB, hF, h_qd, h_h, h_n1, h_ra, h_rb, e1, e2, e3, e4, e5]

theorem accatt (qd : Pred) (h : BitVec 7) (n1 : Fin 16) (ra : Reg) : Statement (.accatt qd h n1 ra) := by
  have h_qd : qd.val < 16 := qd.isLt
  have h_h : h.toNat < 128 := h.isLt
  have h_n1 : n1.val < 16 := n1.isLt
  have h_ra : ra.val < 32 := ra.isLt
  refine roundTrip_td rfl ?_ ?_ ?_ fun hw t hA hB hF hI => ?_
  · omega
  · omega
  · exact acc_lt _ _ _ (by omega)
  · obtain ⟨e1, e2, e3, e4, e5⟩ := acc_fields (by omega) hI
    simp [-Fin.ofNat_eq_cast, decFields, decAcc, pick, hA, hB, hF, h_qd, h_h, h_n1, h_ra, e1, e2, e3, e4, e5]

theorem accrel (h : BitVec 7) (n1 : Fin 16) : Statement (.accrel h n1) := by
  have h_h : h.toNat < 128 := h.isLt
  have h_n1 : n1.val < 16 := n1.isLt
  refine roundTrip_td rfl ?_ ?_ ?_ fun hw t hA hB hF hI => ?_
  · omega
  · omega
  · exact acc_lt _ _ _ (by omega)
  · obtain ⟨e1, e2, e3, e4, e5⟩ := acc_fields (by omega) hI
    simp [-Fin.ofNat_eq_cast, decFields, decAcc, pick, hA, hB, hF, h_h, h_n1, e1, e2, e3, e4, e5]

theorem accspl (h : BitVec 7) (n1 : Fin 16) : Statement (.accspl h n1) := by
  have h_h : h.toNat < 128 := h.isLt
  have h_n1 : n1.val < 16 := n1.isLt
  refine roundTrip_td rfl ?_ ?_ ?_ fun hw t hA hB hF hI => ?_
  · omega
  · omega
  · exact acc_lt _ _ _ (by omega)
  · obtain ⟨e1, e2, e3, e4, e5⟩ := acc_fields (by omega) hI
    simp [-Fin.ofNat_eq_cast, decFields, decAcc, pick, hA, hB, hF, h_h, h_n1, e1, e2, e3, e4, e5]

theorem accsta (rd : Reg) (h : BitVec 7) (clr : Bool) : Statement (.accsta rd h clr) := by
  have h_rd : rd.val < 32 := rd.isLt
  have h_h : h.toNat < 128 := h.isLt
  have h_clr : clr.toNat ≤ 1 := Bool.toNat_le _
  refine roundTrip_td rfl ?_ ?_ ?_ fun hw t hA hB hF hI => ?_
  · omega
  · omega
  · exact acc_lt _ _ _ (by omega)
  · obtain ⟨e1, e2, e3, e4, e5⟩ := acc_fields (by omega) hI
    cases clr <;> simp [-Fin.ofNat_eq_cast, decFields, decAcc, pick, hA, hB, hF, h_rd, h_h, e1, e2, e3, e4, e5]

theorem mma (o : MmaOps) : Statement (.mma o) := by
  have h_cb : o.comb.val < 5 := o.comb.isLt
  have h_acc : o.acc.toNat ≤ 1 := Bool.toNat_le _
  have h_col : o.col.toNat ≤ 1 := Bool.toNat_le _
  have h_h : o.h.toNat < 128 := o.h.isLt
  have h_pa : o.pa.toNat < 65536 := o.pa.isLt
  have h_pb : o.pb.toNat < 32768 := o.pb.isLt
  refine roundTrip_tq rfl ?_ ?_ ?_ fun hw t hA hB hC hE hF hI => ?_
  · omega
  · omega
  · omega
  · simp [-Fin.ofNat_eq_cast, decFields, decMma, pick, hA, hB, hC, hE, hF, hI, h_cb, h_h, h_pa, h_pb, mma_h, mma_pa, mma_pb, mma_acc, mma_acc', mma_col, mma_s]

theorem mmag (o : MmaOps) (rc : Reg) : Statement (.mmag o rc) := by
  have h_cb : o.comb.val < 5 := o.comb.isLt
  have h_acc : o.acc.toNat ≤ 1 := Bool.toNat_le _
  have h_col : o.col.toNat ≤ 1 := Bool.toNat_le _
  have h_h : o.h.toNat < 128 := o.h.isLt
  have h_pa : o.pa.toNat < 65536 := o.pa.isLt
  have h_pb : o.pb.toNat < 32768 := o.pb.isLt
  have h_rc : rc.val < 32 := rc.isLt
  refine roundTrip_tq rfl ?_ ?_ ?_ fun hw t hA hB hC hE hF hI => ?_
  · omega
  · omega
  · omega
  · simp [-Fin.ofNat_eq_cast, decFields, decMma, pick, hA, hB, hC, hE, hF, hI, h_cb, h_h, h_pa, h_pb, h_rc, mma_h, mma_pa, mma_pb, mma_acc, mma_acc', mma_col, mma_s, show ¬rc = 0 from bne_iff_ne.mp hw]

theorem tld (w : Bool) (ra : Reg) (rb : Reg) (pitch : BitVec 16) : Statement (.tld w ra rb pitch) := by
  have h_w : w.toNat ≤ 1 := Bool.toNat_le _
  have h_ra : ra.val < 32 := ra.isLt
  have h_rb : rb.val < 32 := rb.isLt
  have h_pitch : pitch.toNat < 65536 := pitch.isLt
  refine roundTrip_td rfl ?_ ?_ ?_ fun hw t hA hB hF hI => ?_
  · omega
  · omega
  · omega
  · cases w <;> simp [-Fin.ofNat_eq_cast, decFields, decTld, pick, hA, hB, hF, hI, h_ra, h_rb, h_pitch]

theorem delta (h : BitVec 7) (ra : Reg) : Statement (.delta h ra) := by
  have h_h : h.toNat < 128 := h.isLt
  have h_ra : ra.val < 32 := ra.isLt
  refine roundTrip_td rfl ?_ ?_ ?_ fun hw t hA hB hF hI => ?_
  · omega
  · omega
  · omega
  · simp [-Fin.ofNat_eq_cast, decFields, decDelta, pick, hA, hB, hF, hI, h_h, h_ra]

theorem dread (h : BitVec 7) (ra : Reg) : Statement (.dread h ra) := by
  have h_h : h.toNat < 128 := h.isLt
  have h_ra : ra.val < 32 := ra.isLt
  refine roundTrip_td rfl ?_ ?_ ?_ fun hw t hA hB hF hI => ?_
  · omega
  · omega
  · omega
  · simp [-Fin.ofNat_eq_cast, decFields, decDelta, pick, hA, hB, hF, hI, h_h, h_ra]

theorem dscl (h : BitVec 7) (ra : Reg) (rb : Reg) : Statement (.dscl h ra rb) := by
  have h_h : h.toNat < 128 := h.isLt
  have h_ra : ra.val < 32 := ra.isLt
  have h_rb : rb.val < 32 := rb.isLt
  refine roundTrip_td rfl ?_ ?_ ?_ fun hw t hA hB hF hI => ?_
  · omega
  · omega
  · omega
  · simp [-Fin.ofNat_eq_cast, decFields, decDelta, pick, hA, hB, hF, hI, h_h, h_ra, h_rb]

theorem bopen (rd : Reg) (h : BitVec 7) (n1 : Fin 16) (want : BitVec 5) (ra : Reg) (rb : Reg) : Statement (.bopen rd h n1 want ra rb) := by
  have h_rd : rd.val < 32 := rd.isLt
  have h_h : h.toNat < 128 := h.isLt
  have h_n1 : n1.val < 16 := n1.isLt
  have h_want : want.toNat < 32 := want.isLt
  have h_ra : ra.val < 32 := ra.isLt
  have h_rb : rb.val < 32 := rb.isLt
  refine roundTrip_td rfl ?_ ?_ ?_ fun hw t hA hB hF hI => ?_
  · omega
  · omega
  · omega
  · simp [-Fin.ofNat_eq_cast, decFields, decMerge, pick, hA, hB, hF, hI, h_rd, h_h, h_n1, h_want, h_ra, h_rb, bopen_h, bopen_n, bopen_w, show want.toNat ≤ 16 from of_decide_eq_true hw]

theorem bsend (rs : Reg) (ra : Reg) (rb : Reg) (n1 : Fin 16) : Statement (.bsend rs ra rb n1) := by
  have h_rs : rs.val < 32 := rs.isLt
  have h_ra : ra.val < 32 := ra.isLt
  have h_rb : rb.val < 32 := rb.isLt
  have h_n1 : n1.val < 16 := n1.isLt
  refine roundTrip_td rfl ?_ ?_ ?_ fun hw t hA hB hF hI => ?_
  · omega
  · omega
  · omega
  · simp [-Fin.ofNat_eq_cast, decFields, decMerge, pick, hA, hB, hF, hI, h_rs, h_ra, h_rb, h_n1]

theorem bwait (rd : Reg) : Statement (.bwait rd) := by
  have h_rd : rd.val < 32 := rd.isLt
  refine roundTrip_td rfl ?_ ?_ ?_ fun hw t hA hB hF hI => ?_
  · omega
  · omega
  · omega
  · simp [-Fin.ofNat_eq_cast, decFields, decMerge, pick, hA, hB, hF, hI, h_rd]

theorem bnorm (rd : Reg) (h : BitVec 7) : Statement (.bnorm rd h) := by
  have h_rd : rd.val < 32 := rd.isLt
  have h_h : h.toNat < 128 := h.isLt
  refine roundTrip_td rfl ?_ ?_ ?_ fun hw t hA hB hF hI => ?_
  · omega
  · omega
  · omega
  · simp [-Fin.ofNat_eq_cast, decFields, decMerge, pick, hA, hB, hF, hI, h_rd, h_h]

theorem bseal (rd : Reg) (h : BitVec 7) : Statement (.bseal rd h) := by
  have h_rd : rd.val < 32 := rd.isLt
  have h_h : h.toNat < 128 := h.isLt
  refine roundTrip_td rfl ?_ ?_ ?_ fun hw t hA hB hF hI => ?_
  · omega
  · omega
  · omega
  · simp [-Fin.ofNat_eq_cast, decFields, decMerge, pick, hA, hB, hF, hI, h_rd, h_h]

theorem babsent (ra : Reg) : Statement (.babsent ra) := by
  have h_ra : ra.val < 32 := ra.isLt
  refine roundTrip_td rfl ?_ ?_ ?_ fun hw t hA hB hF hI => ?_
  · omega
  · omega
  · omega
  · simp [-Fin.ofNat_eq_cast, decFields, decMerge, pick, hA, hB, hF, hI, h_ra]

theorem bclose (rd : Reg) : Statement (.bclose rd) := by
  have h_rd : rd.val < 32 := rd.isLt
  refine roundTrip_td rfl ?_ ?_ ?_ fun hw t hA hB hF hI => ?_
  · omega
  · omega
  · omega
  · simp [-Fin.ofNat_eq_cast, decFields, decMerge, pick, hA, hB, hF, hI, h_rd]

theorem bstat (rd : Reg) (dw : Fin 4) : Statement (.bstat rd dw) := by
  have h_rd : rd.val < 32 := rd.isLt
  have h_dw : dw.val < 4 := dw.isLt
  refine roundTrip_td rfl ?_ ?_ ?_ fun hw t hA hB hF hI => ?_
  · omega
  · omega
  · omega
  · simp [-Fin.ofNat_eq_cast, decFields, decMerge, pick, hA, hB, hF, hI, h_rd, h_dw]

theorem colld (rd : Reg) (ra : Reg) (rb : Reg) : Statement (.colld rd ra rb) := by
  have h_rd : rd.val < 32 := rd.isLt
  have h_ra : ra.val < 32 := ra.isLt
  have h_rb : rb.val < 32 := rb.isLt
  refine roundTrip_td rfl ?_ ?_ ?_ fun hw t hA hB hF hI => ?_
  · omega
  · omega
  · omega
  · simp [-Fin.ofNat_eq_cast, decFields, decColl, pick, hA, hB, hF, hI, h_rd, h_ra, h_rb]

theorem colrun (rd : Reg) (ra : Reg) (rb : Reg) : Statement (.colrun rd ra rb) := by
  have h_rd : rd.val < 32 := rd.isLt
  have h_ra : ra.val < 32 := ra.isLt
  have h_rb : rb.val < 32 := rb.isLt
  refine roundTrip_td rfl ?_ ?_ ?_ fun hw t hA hB hF hI => ?_
  · omega
  · omega
  · omega
  · simp [-Fin.ofNat_eq_cast, decFields, decColl, pick, hA, hB, hF, hI, h_rd, h_ra, h_rb]

theorem colwait (rd : Reg) : Statement (.colwait rd) := by
  have h_rd : rd.val < 32 := rd.isLt
  refine roundTrip_td rfl ?_ ?_ ?_ fun hw t hA hB hF hI => ?_
  · omega
  · omega
  · omega
  · simp [-Fin.ofNat_eq_cast, decFields, decColl, pick, hA, hB, hF, hI, h_rd]

theorem colabt : Statement (.colabt) := by
  refine roundTrip_td rfl ?_ ?_ ?_ fun hw t hA hB hF hI => ?_
  · omega
  · omega
  · omega
  · simp [-Fin.ofNat_eq_cast, decFields, decColl, pick, hA, hB, hF, hI]

theorem red (rd : Reg) (ra : Reg) (rb : Reg) (op : BitVec 3) (ty : BitVec 4) : Statement (.red rd ra rb op ty) := by
  have h_rd : rd.val < 32 := rd.isLt
  have h_ra : ra.val < 32 := ra.isLt
  have h_rb : rb.val < 32 := rb.isLt
  have h_op : op.toNat < 8 := op.isLt
  have h_ty : ty.toNat < 16 := ty.isLt
  refine roundTrip_td rfl ?_ ?_ ?_ fun hw t hA hB hF hI => ?_
  · omega
  · omega
  · omega
  · simp [-Fin.ofNat_eq_cast, decFields, decColl, pick, hA, hB, hF, hI, h_rd, h_ra, h_rb, h_op, h_ty, red_op, red_ty, red_gap, red_lt, show redOk op ty = true from hw]

theorem redg (rd : Reg) (ra : Reg) (qd : Pred) : Statement (.redg rd ra qd) := by
  have h_rd : rd.val < 32 := rd.isLt
  have h_ra : ra.val < 32 := ra.isLt
  have h_qd : qd.val < 16 := qd.isLt
  refine roundTrip_td rfl ?_ ?_ ?_ fun hw t hA hB hF hI => ?_
  · omega
  · omega
  · omega
  · simp [-Fin.ofNat_eq_cast, decFields, decColl, pick, hA, hB, hF, hI, h_rd, h_ra, h_qd]

theorem colst (rd : Reg) : Statement (.colst rd) := by
  have h_rd : rd.val < 32 := rd.isLt
  refine roundTrip_td rfl ?_ ?_ ?_ fun hw t hA hB hF hI => ?_
  · omega
  · omega
  · omega
  · simp [-Fin.ofNat_eq_cast, decFields, decColl, pick, hA, hB, hF, hI, h_rd]

theorem boot : Statement .boot := fun _ _ h => nomatch h
theorem bootReady : Statement .bootReady := fun _ _ h => nomatch h
theorem controlInterval : Statement .controlInterval := fun _ _ h => nomatch h
theorem operatingPointSettled : Statement .operatingPointSettled := fun _ _ h => nomatch h
theorem thermalThrottle : Statement .thermalThrottle := fun _ _ h => nomatch h
theorem throttleRelease : Statement .throttleRelease := fun _ _ h => nomatch h
theorem emergencySave : Statement .emergencySave := fun _ _ h => nomatch h
theorem hardTrip : Statement .hardTrip := fun _ _ h => nomatch h
theorem currentLimitTrip : Statement .currentLimitTrip := fun _ _ h => nomatch h
theorem maskChange : Statement .maskChange := fun _ _ h => nomatch h
theorem residencyStep : Statement .residencyStep := fun _ _ h => nomatch h
theorem telemetrySample : Statement .telemetrySample := fun _ _ h => nomatch h
theorem hostInboundRead : Statement .hostInboundRead := fun _ _ h => nomatch h
theorem hostInboundWrite : Statement .hostInboundWrite := fun _ _ h => nomatch h
theorem dmaWindowWrite : Statement .dmaWindowWrite := fun _ _ h => nomatch h
theorem peerTableWrite : Statement .peerTableWrite := fun _ _ h => nomatch h
theorem firmwareTableWrite : Statement .firmwareTableWrite := fun _ _ h => nomatch h
theorem configWrite : Statement .configWrite := fun _ _ h => nomatch h
theorem queueMap : Statement .queueMap := fun _ _ h => nomatch h
theorem queueUnmap : Statement .queueUnmap := fun _ _ h => nomatch h
theorem watchedLineInvalidate : Statement .watchedLineInvalidate := fun _ _ h => nomatch h
theorem watchedLineReread : Statement .watchedLineReread := fun _ _ h => nomatch h
theorem spanProbe : Statement .spanProbe := fun _ _ h => nomatch h
theorem spanPortDown : Statement .spanPortDown := fun _ _ h => nomatch h
theorem spanLaneFail : Statement .spanLaneFail := fun _ _ h => nomatch h
theorem spanCopyDataReceive : Statement .spanCopyDataReceive := fun _ _ h => nomatch h
theorem spanCopyAckReceive : Statement .spanCopyAckReceive := fun _ _ h => nomatch h
theorem spanChunkReceive : Statement .spanChunkReceive := fun _ _ h => nomatch h
theorem spanRoundAbortReceive : Statement .spanRoundAbortReceive := fun _ _ h => nomatch h
theorem spanProbeReceive : Statement .spanProbeReceive := fun _ _ h => nomatch h
theorem spanCopyTimeout : Statement .spanCopyTimeout := fun _ _ h => nomatch h
theorem queueWake : Statement .queueWake := fun _ _ h => nomatch h
theorem commandAccept : Statement .commandAccept := fun _ _ h => nomatch h
theorem lockstepMismatch : Statement .lockstepMismatch := fun _ _ h => nomatch h
theorem workerError : Statement .workerError := fun _ _ h => nomatch h
theorem commandComplete : Statement .commandComplete := fun _ _ h => nomatch h
theorem launch : Statement .launch := fun _ _ h => nomatch h
theorem copy : Statement .copy := fun _ _ h => nomatch h
theorem tasks : Statement .tasks := fun _ _ h => nomatch h
theorem tasksAppend : Statement .tasksAppend := fun _ _ h => nomatch h
theorem signal : Statement .signal := fun _ _ h => nomatch h
theorem wait : Statement .wait := fun _ _ h => nomatch h
theorem waitPoll : Statement .waitPoll := fun _ _ h => nomatch h
theorem waitLimit : Statement .waitLimit := fun _ _ h => nomatch h
theorem partitionCreate : Statement .partitionCreate := fun _ _ h => nomatch h
theorem partitionTeardown : Statement .partitionTeardown := fun _ _ h => nomatch h
theorem partitionSuspend : Statement .partitionSuspend := fun _ _ h => nomatch h
theorem partitionResume : Statement .partitionResume := fun _ _ h => nomatch h
theorem status : Statement .status := fun _ _ h => nomatch h
theorem statusAttest : Statement .statusAttest := fun _ _ h => nomatch h
theorem population : Statement .population := fun _ _ h => nomatch h
theorem launchEnd : Statement .launchEnd := fun _ _ h => nomatch h
theorem launchTimeLimit : Statement .launchTimeLimit := fun _ _ h => nomatch h
theorem packetGrant : Statement .packetGrant := fun _ _ h => nomatch h
theorem packetRetire : Statement .packetRetire := fun _ _ h => nomatch h
theorem qpostRequest : Statement .qpostRequest := fun _ _ h => nomatch h
theorem linkResend : Statement .linkResend := fun _ _ h => nomatch h
theorem rebindTableWrite : Statement .rebindTableWrite := fun _ _ h => nomatch h
theorem groupRequest : Statement .groupRequest := fun _ _ h => nomatch h
theorem barrierClusterArrival : Statement .barrierClusterArrival := fun _ _ h => nomatch h
theorem barrierDeparture : Statement .barrierDeparture := fun _ _ h => nomatch h
theorem reductionContribution : Statement .reductionContribution := fun _ _ h => nomatch h
theorem redlimitExpire : Statement .redlimitExpire := fun _ _ h => nomatch h
theorem reductionPartial : Statement .reductionPartial := fun _ _ h => nomatch h
theorem reductionResult : Statement .reductionResult := fun _ _ h => nomatch h
theorem messageDelivery : Statement .messageDelivery := fun _ _ h => nomatch h
theorem messageAcceptance : Statement .messageAcceptance := fun _ _ h => nomatch h
theorem messageBounce : Statement .messageBounce := fun _ _ h => nomatch h
theorem messageReinject : Statement .messageReinject := fun _ _ h => nomatch h
theorem errorDetect : Statement .errorDetect := fun _ _ h => nomatch h
theorem correctedError : Statement .correctedError := fun _ _ h => nomatch h
theorem cellarPoison : Statement .cellarPoison := fun _ _ h => nomatch h
theorem powerLoss : Statement .powerLoss := fun _ _ h => nomatch h
theorem watchdogFire : Statement .watchdogFire := fun _ _ h => nomatch h
theorem ivlenExpire : Statement .ivlenExpire := fun _ _ h => nomatch h
theorem deferredBoundary : Statement .deferredBoundary := fun _ _ h => nomatch h
theorem captureEntryFree : Statement .captureEntryFree := fun _ _ h => nomatch h
theorem mirrorLineReceive : Statement .mirrorLineReceive := fun _ _ h => nomatch h
theorem commitMarkerReceive : Statement .commitMarkerReceive := fun _ _ h => nomatch h
theorem boundaryCommit : Statement .boundaryCommit := fun _ _ h => nomatch h
theorem logAreaFull : Statement .logAreaFull := fun _ _ h => nomatch h
theorem recovery : Statement .recovery := fun _ _ h => nomatch h
theorem rebindWave : Statement .rebindWave := fun _ _ h => nomatch h
theorem rebindWaveComplete : Statement .rebindWaveComplete := fun _ _ h => nomatch h
theorem replay : Statement .replay := fun _ _ h => nomatch h
theorem recoveryRelease : Statement .recoveryRelease := fun _ _ h => nomatch h
theorem heldPacketDelivery : Statement .heldPacketDelivery := fun _ _ h => nomatch h
theorem stateLoss : Statement .stateLoss := fun _ _ h => nomatch h
theorem plannedMigration : Statement .plannedMigration := fun _ _ h => nomatch h
theorem incidentCapture : Statement .incidentCapture := fun _ _ h => nomatch h
theorem incidentReplay : Statement .incidentReplay := fun _ _ h => nomatch h
theorem gangPreempt : Statement .gangPreempt := fun _ _ h => nomatch h
theorem preemptSaveDone : Statement .preemptSaveDone := fun _ _ h => nomatch h
theorem restore : Statement .restore := fun _ _ h => nomatch h
theorem timeSliceExpire : Statement .timeSliceExpire := fun _ _ h => nomatch h
theorem coldeferExpire : Statement .coldeferExpire := fun _ _ h => nomatch h
theorem migrantArrival : Statement .migrantArrival := fun _ _ h => nomatch h
theorem migback : Statement .migback := fun _ _ h => nomatch h
theorem migbackResend : Statement .migbackResend := fun _ _ h => nomatch h
theorem locationNotice : Statement .locationNotice := fun _ _ h => nomatch h
theorem rfillDelivery : Statement .rfillDelivery := fun _ _ h => nomatch h
theorem exitNotice : Statement .exitNotice := fun _ _ h => nomatch h
theorem remoteAccess : Statement .remoteAccess := fun _ _ h => nomatch h
theorem portBounceRepresent : Statement .portBounceRepresent := fun _ _ h => nomatch h
theorem accessReply : Statement .accessReply := fun _ _ h => nomatch h
theorem loadReply : Statement .loadReply := fun _ _ h => nomatch h
theorem postedStorePerform : Statement .postedStorePerform := fun _ _ h => nomatch h
theorem translationWalk : Statement .translationWalk := fun _ _ h => nomatch h
theorem feWake : Statement .feWake := fun _ _ h => nomatch h
theorem feRefusalRepresent : Statement .feRefusalRepresent := fun _ _ h => nomatch h
theorem feTimeout : Statement .feTimeout := fun _ _ h => nomatch h
theorem rangeLockRequest : Statement .rangeLockRequest := fun _ _ h => nomatch h
theorem rangeLockRepresent : Statement .rangeLockRepresent := fun _ _ h => nomatch h
theorem engineOpStart : Statement .engineOpStart := fun _ _ h => nomatch h
theorem engineOpComplete : Statement .engineOpComplete := fun _ _ h => nomatch h
theorem copyComplete : Statement .copyComplete := fun _ _ h => nomatch h
theorem icacheFill : Statement .icacheFill := fun _ _ h => nomatch h
theorem bindRequest : Statement .bindRequest := fun _ _ h => nomatch h
theorem mergeData : Statement .mergeData := fun _ _ h => nomatch h
theorem mergeMarker : Statement .mergeMarker := fun _ _ h => nomatch h
theorem mergeCommit : Statement .mergeCommit := fun _ _ h => nomatch h
theorem bwaitTimeout : Statement .bwaitTimeout := fun _ _ h => nomatch h
theorem bcloseTimeout : Statement .bcloseTimeout := fun _ _ h => nomatch h
theorem chunkArrival : Statement .chunkArrival := fun _ _ h => nomatch h
theorem chunkAck : Statement .chunkAck := fun _ _ h => nomatch h
theorem chunkResend : Statement .chunkResend := fun _ _ h => nomatch h
theorem roundTimeout : Statement .roundTimeout := fun _ _ h => nomatch h
theorem roundAbort : Statement .roundAbort := fun _ _ h => nomatch h
theorem colrunHoldEnd : Statement .colrunHoldEnd := fun _ _ h => nomatch h
theorem firmwareRegisterWrite : Statement .firmwareRegisterWrite := fun _ _ h => nomatch h
theorem spareChipletPowered : Statement .spareChipletPowered := fun _ _ h => nomatch h
theorem copyDataArrival : Statement .copyDataArrival := fun _ _ h => nomatch h
theorem bindRequestRetry : Statement .bindRequestRetry := fun _ _ h => nomatch h
end Sys2Proof.Laws.RoundTrip
end

