-- ==== Sys2Proof/Machine/Source.lean ====
section
/-!
DEFINITION. The Brevon source language: tokens, expressions, operands and source lines (11 R220 to R225).
-/
namespace Sys2Proof.Asm

/-- Why `bvas` or `bvld` gives no output (11 R230). -/
inductive AsmError where
  /-- no token or no production of the grammar (R220, R221) -/
  | malformed
  /-- no such mnemonic, or operands, suffixes or an encoding it does not have (R222, R223, 12 R240) -/
  | instruction
  /-- a value outside the range its field or directive gives it (R226, R229) -/
  | range
  /-- a symbol that has no value (R230), or none yet -/
  | unresolved (name : String)
  /-- a division by zero or a shift count outside 0 to 63 (R225) -/
  | arithmetic
  /-- a directive or instruction in the wrong section or place (R224, R226) -/
  | place
  /-- two declarations that do not go together (R230) -/
  | conflict (name : String)
  /-- a label that no instruction follows (R224) -/
  | danglingLabel (name : String)
  /-- a branch target that is no head of the image (R229) -/
  | target
  deriving DecidableEq, Repr

abbrev Res (α : Type) := Except AsmError α

/-! ### Tokens (R221) -/

inductive Tok where
  | name (s : String)
  | int (n : Nat)
  /-- a float literal `m * 10 ^ e` -/
  | flt (m : Nat) (e : Int)
  | str
  | op (s : String)
  deriving DecidableEq, Repr

def lower (s : String) : String := String.ofList (s.toList.map Char.toLower)

def isStart (c : Char) : Bool := c.isAlpha || c == '_'
def isPart (c : Char) : Bool := c.isAlphanum || c == '_'

/-- The value of a digit; 16 for what is none. -/
def digitOf (c : Char) : Nat :=
  if '0' ≤ c ∧ c ≤ '9' then c.toNat - 48
  else if 'a' ≤ c.toLower ∧ c.toLower ≤ 'f' then c.toLower.toNat - 87 else 16

/-- The number that digits of a base spell, a `_` between two of them ignored; `after` says that a digit came before. -/
def digits (base : Nat) (cs : List Char) (acc : Nat) (after : Bool) : Option Nat :=
  match cs with
  | [] => if after then some acc else none
  | c :: cs =>
    if c == '_' then (if after && !cs.isEmpty then digits base cs acc false else none)
    else if digitOf c < base then digits base cs (acc * base + digitOf c) true else none

/-- An exponent `e5`, `e+5` or `e-5`, and what follows it. -/
def exponent (cs : List Char) : Option (Int × List Char) :=
  let go (neg : Bool) (cs : List Char) : Option (Int × List Char) :=
    (digits 10 (cs.takeWhile Char.isDigit) 0 false).map (fun n =>
      (if neg then -(n : Int) else (n : Int), cs.dropWhile Char.isDigit))
  match cs with
  | e :: '-' :: cs => if e.toLower == 'e' then go true cs else none
  | e :: '+' :: cs => if e.toLower == 'e' then go false cs else none
  | e :: cs => if e.toLower == 'e' then go false cs else none
  | [] => none

/-- A decimal number: an integer, or a float literal by its point or exponent. -/
def decimal (cs : List Char) : Option (Tok × List Char) :=
  let isNum (c : Char) : Bool := c.isDigit || c == '_'
  match digits 10 (cs.takeWhile isNum) 0 false with
  | none => none
  | some n =>
    match cs.dropWhile isNum with
    | '.' :: rest =>
      let fs := rest.takeWhile Char.isDigit
      let m := fs.foldl (fun a c => a * 10 + digitOf c) n
      let rest := rest.dropWhile Char.isDigit
      match exponent rest with
      | some x => some (.flt m (x.1 - fs.length), x.2)
      | none => some (.flt m (-(fs.length : Int)), rest)
    | rest =>
      match exponent rest with
      | some x => some (.flt n x.1, x.2)
      | none => some (.int n, rest)

/-- A number in any of its forms. A letter may not follow it. -/
def numberTok (cs : List Char) : Option (Tok × List Char) :=
  let based (base : Nat) (cs : List Char) : Option (Tok × List Char) :=
    (digits base (cs.takeWhile isPart) 0 false).map (fun n => (.int n, cs.dropWhile isPart))
  let x := match cs with
    | '0' :: 'x' :: cs => based 16 cs
    | '0' :: 'b' :: cs => based 2 cs
    | cs => decimal cs
  match x with
  | some (t, c :: rest) => if isPart c then none else some (t, c :: rest)
  | x => x

/-- One token off the front; a comment ends the line. -/
def oneTok (cs : List Char) : Option (Option Tok × List Char) :=
  match cs with
  | [] => some (none, [])
  | ';' :: _ => some (none, [])
  | '/' :: '/' :: _ => some (none, [])
  | '<' :: '<' :: cs => some (some (.op "<<"), cs)
  | '>' :: '>' :: cs => some (some (.op ">>"), cs)
  | '"' :: cs =>
    match cs.dropWhile (fun c => c != '"') with
    | [] => none
    | _ :: rest => some (some .str, rest)
  | c :: cs =>
    if c.isWhitespace then some (none, cs)
    else if isStart c then some (some (.name (String.ofList (c :: cs.takeWhile isPart))), cs.dropWhile isPart)
    else if c.isDigit then (numberTok (c :: cs)).map (fun x => (some x.1, x.2))
    else if ".:,[]()+-*/%~&^|=".toList.contains c then some (some (.op (String.singleton c)), cs)
    else none

/-- The tokens of a line; `fuel` is its length. -/
def tokens (fuel : Nat) (cs : List Char) : Option (List Tok) :=
  match fuel, cs with
  | _, [] => some []
  | 0, _ => none
  | fuel + 1, cs =>
    match oneTok cs with
    | none => none
    | some (t, rest) => (tokens fuel rest).map (fun ts => t.toList ++ ts)

/-! ### Names (R222) -/

/-- What an identifier names, whatever its case. -/
inductive Name where
  | g (r : Reg)
  | q (p : Pred)
  | k (n : Fin 16)
  | h (n : Fin 8)
  | a (n : BitVec 7)
  | keyword (s : String)
  | symbol
  deriving DecidableEq, Repr

def keywords : List String :=
  ["tile", "cluster", "partition", "system", "local", "remote", "cellar", "host", "span"]

/-- A number in decimal without a leading zero. -/
def plainNat (cs : List Char) : Option Nat :=
  match cs with
  | ['0'] => some 0
  | '0' :: _ => none
  | cs => if cs.all Char.isDigit then digits 10 cs 0 false else none

def nameOf (s : String) : Name :=
  let l := lower s
  if l == "gp" then .g 28 else if l == "sp" then .g 29 else if l == "lr" then .g 30 else if l == "tp" then .g 31
  else if keywords.contains l then .keyword l
  else
    match l.toList with
    | c :: ds =>
      match plainNat ds with
      | none => .symbol
      | some n =>
        if c == 'g' && n < 32 then .g (Fin.ofNat 32 n)
        else if c == 'q' && n < 16 then .q (Fin.ofNat 16 n)
        else if c == 'k' && n < 16 then .k (Fin.ofNat 16 n)
        else if c == 'h' && n < 8 then .h (Fin.ofNat 8 n)
        else if c == 'a' && n < 128 then .a (BitVec.ofNat 7 n)
        else .symbol
    | [] => .symbol

/-- The names of the CSRs (13 R269). -/
def csrNames : List (String × Nat) :=
  [("tid", 0x000), ("ivn", 0x001), ("time", 0x002), ("pix", 0x003), ("vlen", 0x004), ("frm", 0x005), ("fflags", 0x006),
   ("tfmt", 0x007), ("tscl", 0x008), ("gridw", 0x009), ("blim", 0x00A), ("bnext", 0x00B), ("splim", 0x00C), ("spov", 0x00D),
   ("spovlim", 0x00E), ("poolcfg", 0x00F), ("fetimeo", 0x010), ("feretry", 0x011), ("sndretry", 0x012), ("migretry", 0x013),
   ("coltimeo", 0x014), ("redlimit", 0x015), ("launch", 0x016), ("sig", 0x017), ("migback", 0x018), ("ivlen", 0x019),
   ("estat", 0x01A)]
  ++ [("xpc", 0x020), ("xcause", 0x021), ("xval", 0x022), ("xpix", 0x023), ("xpw", 0x024), ("xls", 0x025), ("xvec", 0x026),
   ("xlvl", 0x027), ("ypc", 0x030), ("ycause", 0x031), ("yval", 0x032), ("ypix", 0x033), ("ypw", 0x034), ("yls", 0x035)]

/-! ### Expressions (R225) -/

inductive BinOp where
  | mul | div | mod | add | sub | shl | shr | and | xor | or
  deriving DecidableEq, Repr

inductive Expr where
  | lit (v : Word)
  | sym (s : String)
  /-- `.`, the current head or address -/
  | here
  | line (e : Expr)
  | head (e : Expr)
  | neg (e : Expr)
  | not (e : Expr)
  | bin (o : BinOp) (a b : Expr)
  deriving DecidableEq, Repr

def BinOp.eval (o : BinOp) (a b : Word) : Res Word :=
  match o with
  | .mul => .ok (a * b)
  | .div => if b = 0 then .error .arithmetic else .ok (BitVec.ofInt 64 (a.toInt.tdiv b.toInt))
  | .mod => if b = 0 then .error .arithmetic else .ok (BitVec.ofInt 64 (a.toInt.tmod b.toInt))
  | .add => .ok (a + b)
  | .sub => .ok (a - b)
  | .shl => if 63 < b.toNat then .error .arithmetic else .ok (a <<< b.toNat)
  | .shr => if 63 < b.toNat then .error .arithmetic else .ok (a >>> b.toNat)
  | .and => .ok (a &&& b)
  | .xor => .ok (a ^^^ b)
  | .or => .ok (a ||| b)

/-- The value of an expression; `env` gives the symbols, the name "." the current head or address. -/
def Expr.eval (env : String → Res Word) (x : Expr) : Res Word :=
  match x with
  | .lit v => .ok v
  | .sym s => env s
  | .here => env "."
  | .line e => (e.eval env).map (fun (v : Word) => v &&& ~~~63#64)
  | .head e => (e.eval env).map (fun (v : Word) => (v >>> (1 : Nat)) &&& 31#64)
  | .neg e => (e.eval env).map (fun v => -v)
  | .not e => (e.eval env).map (fun v => ~~~v)
  | .bin o a b =>
    match a.eval env, b.eval env with
    | .ok x, .ok y => o.eval x y
    | .error e, _ => .error e
    | _, .error e => .error e

/-- Operators by level, the lowest precedence first. -/
def opsAt (lvl : Nat) : List (String × BinOp) :=
  match lvl with
  | 0 => [("|", .or)]
  | 1 => [("^", .xor)]
  | 2 => [("&", .and)]
  | 3 => [("<<", .shl), (">>", .shr)]
  | 4 => [("+", .add), ("-", .sub)]
  | 5 => [("*", .mul), ("/", .div), ("%", .mod)]
  | _ => []

/-- Precedence climbing. Without `acc` an operand of level `lvl` is read, with it the operators of that level that follow. The
rule names no parentheses but those of line and head; around an expression they group (log 70). -/
def parseExpr (fuel lvl : Nat) (acc : Option Expr) (ts : List Tok) : Option (Expr × List Tok) :=
  match fuel with
  | 0 => none
  | fuel + 1 =>
    let paren (f : Expr → Expr) (ts : List Tok) : Option (Expr × List Tok) :=
      match parseExpr fuel 0 none ts with
      | some (e, .op ")" :: rest) => some (f e, rest)
      | _ => none
    match acc with
    | some a =>
      match ts with
      | .op s :: rest =>
        match (opsAt lvl).lookup s with
        | some o =>
          match parseExpr fuel (lvl + 1) none rest with
          | some (b, rest) => parseExpr fuel lvl (some (.bin o a b)) rest
          | none => none
        | none => some (a, ts)
      | _ => some (a, ts)
    | none =>
      if lvl < 6 then
        match parseExpr fuel (lvl + 1) none ts with
        | some (a, rest) => parseExpr fuel lvl (some a) rest
        | none => none
      else
        match ts with
        | .op "-" :: rest => (parseExpr fuel 6 none rest).map (fun x => (.neg x.1, x.2))
        | .op "~" :: rest => (parseExpr fuel 6 none rest).map (fun x => (.not x.1, x.2))
        | .op "." :: rest => some (.here, rest)
        | .op "(" :: rest => paren id rest
        | .int n :: rest => some (.lit (BitVec.ofNat 64 n), rest)
        | .name s :: .op "(" :: rest =>
          if lower s == "line" then paren .line rest else if lower s == "head" then paren .head rest else none
        | .name s :: rest => if nameOf s = .symbol then some (.sym s, rest) else none
        | _ => none

def expr (ts : List Tok) : Option (Expr × List Tok) := parseExpr (16 * ts.length + 16) 0 none ts

/-! ### Operands and statements (R220) -/

inductive Opnd where
  | g (r : Reg)
  | q (p : Pred)
  | k (n : Fin 16)
  | a (h : BitVec 7)
  | keyword (s : String)
  | e (x : Expr)
  /-- `[g + e]` -/
  | mem (base : Reg) (x : Expr)
  /-- `[h + e]` -/
  | shared (n : Fin 8) (x : Expr)
  /-- `[gA, gB, e]` -/
  | idx (a b : Reg) (x : Expr)
  deriving DecidableEq, Repr

/-- The offset of a memory operand and the bracket that closes it. -/
def memTail (f : Expr → Opnd) (ts : List Tok) : Option (Opnd × List Tok) :=
  let close (g : Expr → Expr) (ts : List Tok) : Option (Opnd × List Tok) :=
    match expr ts with
    | some (x, .op "]" :: rest) => some (f (g x), rest)
    | _ => none
  match ts with
  | .op "]" :: rest => some (f (.lit 0), rest)
  | .op "+" :: rest => close id rest
  | .op "-" :: rest => close .neg rest
  | _ => none

def operand (ts : List Tok) : Option (Opnd × List Tok) :=
  let value (ts : List Tok) : Option (Opnd × List Tok) := (expr ts).map (fun x => (.e x.1, x.2))
  match ts with
  | .op "[" :: .name s :: .op "," :: .name t :: .op "," :: rest =>
    match nameOf s, nameOf t, expr rest with
    | .g a, .g b, some (x, .op "]" :: rest) => some (.idx a b x, rest)
    | _, _, _ => none
  | .op "[" :: .name s :: rest =>
    match nameOf s with
    | .g r => memTail (.mem r) rest
    | .h n => memTail (.shared n) rest
    | _ => none
  | .name s :: rest =>
    match nameOf s with
    | .g r => some (.g r, rest)
    | .q p => some (.q p, rest)
    | .k n => some (.k n, rest)
    | .a h => some (.a h, rest)
    | .keyword w => some (.keyword w, rest)
    | .h _ => none
    | .symbol => value ts
  | ts => value ts

/-- An argument of a directive: an expression, a float literal, or registers `lo` to `hi`. -/
inductive Arg where
  | e (x : Expr)
  | flt (neg : Bool) (m : Nat) (e : Int)
  | regs (lo hi : Reg)
  deriving DecidableEq, Repr

def argument (ts : List Tok) : Option (Arg × List Tok) :=
  let value (ts : List Tok) : Option (Arg × List Tok) := (expr ts).map (fun x => (.e x.1, x.2))
  match ts with
  | .flt m e :: rest => some (.flt false m e, rest)
  | .op "-" :: .flt m e :: rest => some (.flt true m e, rest)
  | .name s :: rest =>
    match nameOf s with
    | .g lo =>
      match rest with
      | .op "-" :: .name t :: rest' =>
        match nameOf t with
        | .g hi => some (.regs lo hi, rest')
        | _ => none
      | _ => some (.regs lo lo, rest)
    | _ => value ts
  | ts => value ts

inductive Stmt where
  | instr (mn : String) (suffixes : List String) (ops : List Opnd)
  | dir (name : String) (args : List Arg)
  /-- a field line of a layout or delta descriptor -/
  | field (name : String) (x : Expr)
  deriving DecidableEq, Repr

/-- Items with commas between them, to the end of the line. -/
def listOf {α : Type} (item : List Tok → Option (α × List Tok)) (fuel : Nat) (ts : List Tok) : Option (List α) :=
  match fuel with
  | 0 => none
  | fuel + 1 =>
    match item ts with
    | some (x, []) => some [x]
    | some (x, .op "," :: rest) => (listOf item fuel rest).map (fun xs => x :: xs)
    | _ => none

def itemsOf {α : Type} (item : List Tok → Option (α × List Tok)) (ts : List Tok) : Option (List α) :=
  if ts.isEmpty then some [] else listOf item (ts.length + 1) ts

/-- Suffixes after a mnemonic. -/
def suffixesOf (ts : List Tok) : List String × List Tok :=
  match ts with
  | .op "." :: .name s :: rest => let x := suffixesOf rest; (lower s :: x.1, x.2)
  | ts => ([], ts)

def statement (ts : List Tok) : Option (Option Stmt) :=
  match ts with
  | [] => some none
  | .op "." :: .name d :: rest => (itemsOf argument rest).map (fun xs => some (.dir (lower d) xs))
  | .name n :: .op "=" :: rest =>
    match expr rest with
    | some (x, []) => some (some (.field (lower n) x))
    | _ => none
  | .name m :: rest =>
    let x := suffixesOf rest
    (itemsOf operand x.2).map (fun xs => some (.instr (lower m) x.1 xs))
  | _ => none

structure SrcLine where
  label : Option String
  stmt : Option Stmt
  deriving DecidableEq, Repr

def srcLine (cs : List Char) : Res SrcLine :=
  match tokens (cs.length + 1) cs with
  | none => .error .malformed
  | some ts =>
    match ts with
    | .name l :: .op ":" :: rest =>
      match statement rest with
      | some s => if nameOf l = .symbol then .ok { label := some l, stmt := s } else .error .malformed
      | none => .error .malformed
    | ts =>
      match statement ts with
      | some s => .ok { label := none, stmt := s }
      | none => .error .malformed

/-- The lines of a source file. -/
def splitLines (cs : List Char) : List (List Char) :=
  match cs with
  | [] => [[]]
  | c :: cs =>
    if c == '\n' then [] :: splitLines cs
    else
      match splitLines cs with
      | l :: ls => (c :: l) :: ls
      | [] => [[c]]

/-- A source file, read (R220). -/
def parse (src : String) : Res (List SrcLine) := (splitLines src.toList).mapM srcLine

end Sys2Proof.Asm
end

