-- ==== Sys2Proof/Machine/Mnemonics.lean ====
section
/-!
DEFINITION. From a mnemonic, its suffixes and its operands to an instruction (11 R222, R223, R229 and the syntax lines of
chapters 13 to 17).
-/
namespace Sys2Proof.Asm

/-! ### Suffixes (R223) -/

structure Sfx where
  forms : List String
  types : List ETy
  rm : Option (Fin 4)
  sat : Bool
  deriving DecidableEq, Repr

def typeNames : List (String × ETy) :=
  [("i8", 0), ("i16", 1), ("i32", 2), ("i64", 3), ("f16", 4), ("bf16", 5), ("f32", 6), ("ds8", 7)]

def roundNames : List (String × Fin 4) := [("rne", 0), ("rtz", 1), ("rup", 2), ("rdn", 3)]

/-- The class of a suffix: 0 form, 1 type, 2 rounding, 3 saturation. -/
def suffixRank (s : String) : Nat :=
  if (typeNames.lookup s).isSome then 1 else if (roundNames.lookup s).isSome then 2 else if s == "sat" then 3 else 0

/-- Classes in their order, and one rounding at most. -/
def ranksOk (l : List Nat) : Bool :=
  match l with
  | a :: b :: rest => decide (a ≤ b) && !(a == 2 && b == 2) && ranksOk (b :: rest)
  | _ => true

def readSuffixes (ss : List String) : Res Sfx :=
  if ranksOk (ss.map suffixRank) && ss.dedup.length == ss.length then
    .ok { forms := ss.filter (fun s => suffixRank s == 0), types := ss.filterMap (fun s => typeNames.lookup s)
          rm := (ss.filterMap (fun s => roundNames.lookup s)).head?, sat := ss.contains "sat" }
  else .error .instruction

/-! ### Values -/

/-- Where an instruction is put together. In the first pass a value may still be unknown; `wide` says, in the second, that
it was (R229). -/
structure Env where
  sym : String → Res Word
  first : Bool
  wide : Bool
  heads : List Nat
  pc : Nat

/-- A value within bounds. In the first pass an unknown value is `lo`. -/
def Env.num (x : Env) (lo hi : Int) (e : Expr) : Res Int :=
  match e.eval x.sym with
  | .ok v => if lo ≤ v.toInt ∧ v.toInt ≤ hi then .ok v.toInt else .error .range
  | .error (.unresolved s) => if x.first then .ok lo else .error (.unresolved s)
  | .error r => .error r

/-- A value of the first pass, or a value that the first pass knew. -/
def Env.known (x : Env) (e : Expr) : Bool :=
  !x.wide && (match e.eval x.sym with | .error (.unresolved _) => !x.first | _ => true)

/-- A branch, call or loop target (R229): a head of the image within the range of L. -/
def Env.target (x : Env) (e : Expr) : Res Target :=
  if x.first then .ok { l := 0, h := 0 }
  else
    match e.eval x.sym with
    | .error r => .error r
    | .ok v =>
      let d : Int := (v.toNat / 64 : Nat) - (x.pc / 64 : Nat)
      if !x.heads.contains v.toNat then .error .target
      else if -1024 ≤ d ∧ d ≤ 1023 then .ok { l := BitVec.ofInt 11 d, h := BitVec.ofNat 5 (v.toNat / 2) }
      else .error .range

/-- LI (R229): the first form that holds the value. -/
def Env.li (x : Env) (d : Reg) (e : Expr) : Res Instr :=
  if !x.known e then (x.num (minInt64) (maxInt64) e).map (fun v => .li64 d (BitVec.ofInt 64 v))
  else
    (x.num minInt64 maxInt64 e).map (fun v =>
      if -32768 ≤ v ∧ v ≤ 32767 then .li16 false d (BitVec.ofInt 16 v)
      else if 0 ≤ v ∧ v ≤ 65535 then .li16 true d (BitVec.ofInt 16 v)
      else if -2147483648 ≤ v ∧ v ≤ 2147483647 then .li32 false d (BitVec.ofInt 32 v)
      else if 0 ≤ v ∧ v ≤ 4294967295 then .li32 true d (BitVec.ofInt 32 v)
      else .li64 d (BitVec.ofInt 64 v))
where
  minInt64 : Int := -9223372036854775808
  maxInt64 : Int := 9223372036854775807

/-- The base and the immediate of a memory operand in form TI (R229, 14 R275). -/
def Env.memTi (x : Env) (o : Opnd) : Res (Reg × BitVec 11) :=
  match o with
  | .mem b e =>
    match x.num (-1024) 1023 e with
    | .ok v => if b = 0 ∧ -64 ≤ v ∧ v ≤ -1 then .error .range else .ok (b, BitVec.ofInt 11 v)
    | .error r => .error r
  | .shared n e =>
    let at0 : Int := -64 + 8 * n.val
    (x.num (-64 - at0) (-1 - at0) e).map (fun v => (0, BitVec.ofInt 11 (at0 + v)))
  | _ => .error .instruction

/-- A load or store: TI where the offset is known to fit, else TD (R229). -/
def Env.ldst (x : Env) (r : Reg) (ti : Reg → Reg → BitVec 11 → Instr) (td : Reg → Reg → Reg → BitVec 16 → Instr) (o : Opnd) :
    Res Instr :=
  let narrow : Res Instr := (x.memTi o).map (fun m => ti r m.1 m.2)
  match o with
  | .mem b e =>
    if !x.known e then
      match x.num (-32768) 32767 e with
      | .ok v => if b = 0 ∧ -64 ≤ v ∧ v ≤ -1 ∧ !x.first then .error .range else .ok (td r b 0 (BitVec.ofInt 16 v))
      | .error r => .error r
    else
      match x.num (-32768) 32767 e with
      | .ok v => if -1024 ≤ v ∧ v ≤ 1023 then narrow else .ok (td r b 0 (BitVec.ofInt 16 v))
      | .error r => .error r
  | .idx a b e => (x.num (-32768) 32767 e).map (fun v => td r a b (BitVec.ofInt 16 v))
  | _ => narrow

/-! ### Mnemonics by operand shape -/

/-- What the syntax of a mnemonic is: suffixes and operands in, an instruction out. -/
abbrev Build := Env → Sfx → List Opnd → Res Instr

def bad {α : Type} : Res α := .error .instruction

/-- No suffix but, where `rounds`, one rounding suffix, and the forms given. -/
def Sfx.only (s : Sfx) (rounds : Bool) : Bool := s.types.isEmpty && (rounds || s.rm.isNone) && !s.sat

/-- The one suffix of a mnemonic that takes one form, or none. -/
def Sfx.form? (s : Sfx) : Option (Option String) :=
  if s.only false then
    match s.forms with
    | [] => some none
    | [f] => some (some f)
    | _ => none
  else none

def Sfx.plain (s : Sfx) : Bool := s.only false && s.forms.isEmpty

/-- Whether the one form that may stand does: `some true` with it, `some false` with none. -/
def Sfx.flag (s : Sfx) (f : String) : Option Bool :=
  match s.form? with
  | some none => some false
  | some (some g) => if g == f then some true else none
  | none => none

/-- The rounding field where it admits 4: none selects frm (R223). -/
def Sfx.mode (s : Sfx) : Option (Fin 5) :=
  if s.only true && s.forms.isEmpty then
    match s.rm with
    | some r => some r.castSucc
    | none => some 4
  else none

/-- The one type suffix of a mnemonic that takes one, and nothing else. -/
def Sfx.one (s : Sfx) : Option ETy :=
  match s.types with
  | [t] => if s.forms.isEmpty && s.rm.isNone && !s.sat then some t else none
  | _ => none

def regs0 (i : Instr) : List Opnd → Res Instr
  | [] => .ok i
  | _ => bad
def regs1 (f : Reg → Instr) : List Opnd → Res Instr
  | [.g a] => .ok (f a)
  | _ => bad
def regs2 (f : Reg → Reg → Instr) : List Opnd → Res Instr
  | [.g a, .g b] => .ok (f a b)
  | _ => bad
def regs3 (f : Reg → Reg → Reg → Instr) : List Opnd → Res Instr
  | [.g a, .g b, .g c] => .ok (f a b c)
  | _ => bad
def predRegs2 (f : Pred → Reg → Reg → Instr) : List Opnd → Res Instr
  | [.q p, .g a, .g b] => .ok (f p a b)
  | _ => bad
def preds2 (f : Pred → Pred → Instr) : List Opnd → Res Instr
  | [.q a, .q b] => .ok (f a b)
  | _ => bad
def preds3 (f : Pred → Pred → Pred → Instr) : List Opnd → Res Instr
  | [.q a, .q b, .q c] => .ok (f a b c)
  | _ => bad

def plain (f : List Opnd → Res Instr) : Build := fun _ s os => if s.plain then f os else bad
def plainEnv (f : Env → List Opnd → Res Instr) : Build := fun x s os => if s.plain then f x os else bad

/-- A value operand of `n` bits. -/
def Env.bits (x : Env) (n : Nat) (lo hi : Int) (e : Expr) : Res (BitVec n) := (x.num lo hi e).map (BitVec.ofInt n)
def Env.fin (x : Env) (n : Nat) [NeZero n] (lo hi : Int) (e : Expr) : Res (Fin n) :=
  (x.num lo hi e).map (fun v => Fin.ofNat n (v - lo).toNat)

/-! ### Chapter 13 -/

def aluOps : List (String × (Bool → Reg → Reg → Reg → Instr)) :=
  [("add", .add), ("sub", .sub), ("mul", .mul), ("mulh", .mulh), ("mulhu", .mulhu), ("div", .div), ("divu", .divu),
   ("rem", .rem), ("remu", .remu), ("and", .and), ("or", .or), ("xor", .xor), ("andn", .andn), ("shl", .shl),
   ("shr", .shr), ("sar", .sar), ("rot", .rot), ("min", .min), ("max", .max), ("minu", .minu), ("maxu", .maxu)]

def buildAlu (f : Bool → Reg → Reg → Reg → Instr) : Build := fun _ s os =>
  match s.flag "w" with
  | some w => regs3 (f w) os
  | none => bad

def immOps : List (String × (Reg → Reg → BitVec 11 → Instr)) :=
  [("addi", .addi), ("andi", .andi), ("ori", .ori), ("xori", .xori), ("muli", .muli)]

def buildImm (f : Reg → Reg → BitVec 11 → Instr) (x : Env) : List Opnd → Res Instr
  | [.g d, .g a, .e e] => (x.bits 11 (-1024) 1023 e).map (f d a)
  | _ => bad

def shiftOps : List (String × (Reg → Reg → BitVec 6 → Instr)) := [("shli", .shli), ("shri", .shri), ("sari", .sari)]

def buildShift (f : Reg → Reg → BitVec 6 → Instr) (x : Env) : List Opnd → Res Instr
  | [.g d, .g a, .e e] => (x.bits 6 0 63 e).map (f d a)
  | _ => bad

def unaryOps : List (String × (Reg → Reg → Instr)) :=
  [("mov", .mov), ("neg", .neg), ("not", .not), ("clz", .clz), ("ctz", .ctz), ("popc", .popc)]

def buildExtend (f : Fin 3 → Reg → Reg → Instr) : Build := fun _ s os =>
  match s.form? with
  | some (some "b") => regs2 (f 0) os
  | some (some "h") => regs2 (f 1) os
  | some (some "w") => regs2 (f 2) os
  | _ => bad

def fieldOps : List (String × (Reg → Reg → BitVec 6 → BitVec 6 → Instr)) := [("ext", .ext), ("extu", .extu), ("ins", .ins)]

/-- A length of 64 is written 0 (13 R252). -/
def buildField (f : Reg → Reg → BitVec 6 → BitVec 6 → Instr) (x : Env) : List Opnd → Res Instr
  | [.g d, .g a, .e p, .e n] =>
    match x.bits 6 0 63 p, x.bits 6 1 64 n with
    | .ok p, .ok n => .ok (f d a p n)
    | .error r, _ => .error r
    | _, .error r => .error r
  | _ => bad

def cmpOps : List (String × (Pred → Reg → Reg → Instr)) :=
  [("eq", .cmpEq), ("ne", .cmpNe), ("lt", .cmpLt), ("ge", .cmpGe), ("ltu", .cmpLtu), ("geu", .cmpGeu), ("tst", .cmpTst),
   ("ntst", .cmpNtst)]

def cmpiOps : List (String × (Pred → Reg → BitVec 11 → Instr)) :=
  [("eq", .cmpiEq), ("ne", .cmpiNe), ("lt", .cmpiLt), ("ge", .cmpiGe), ("ltu", .cmpiLtu), ("geu", .cmpiGeu),
   ("tst", .cmpiTst), ("ntst", .cmpiNtst)]

/-- The entry that the one form suffix selects. -/
def byForm {α : Type} (t : List (String × α)) (s : Sfx) : Option α :=
  match s.form? with
  | some (some f) => t.lookup f
  | _ => none

def buildCmp : Build := fun _ s os =>
  match byForm cmpOps s with
  | some f => predRegs2 f os
  | none => bad

def buildCmpi : Build := fun x s os =>
  match byForm cmpiOps s, os with
  | some f, [.q p, .g a, .e e] => (x.bits 11 (-1024) 1023 e).map (f p a)
  | _, _ => bad

def predOps3 : List (String × (Pred → Pred → Pred → Instr)) :=
  [("pand", .pand), ("por", .por), ("pxor", .pxor), ("pandn", .pandn)]

def falu3 : List (String × (Fin 5 → Reg → Reg → Reg → Instr)) :=
  [("fadd", .fadd), ("fsub", .fsub), ("fmul", .fmul), ("fdiv", .fdiv), ("fmin", .fmin), ("fmax", .fmax)]

def falu2 : List (String × (Fin 5 → Reg → Reg → Instr)) :=
  [("fsqrt", .fsqrt), ("fabs", .fabs), ("fneg", .fneg), ("cvtfi", .cvtfi), ("cvtif", .cvtif), ("cvtfb", .cvtfb),
   ("cvtbf", .cvtbf), ("cvtfh", .cvtfh), ("cvthf", .cvthf), ("fclass", .fclass)]

def falu4 : List (String × (Fin 5 → Reg → Reg → Reg → Reg → Instr)) := [("fma", .fma), ("fnma", .fnma)]

def buildFma (f : Fin 5 → Reg → Reg → Reg → Reg → Instr) : Build := fun _ s os =>
  match s.mode, os with
  | some m, [.g d, .g a, .g b, .g c] => .ok (f m d a b c)
  | _, _ => bad

def buildRounded {α : Type} (f : Fin 5 → α) (k : α → List Opnd → Res Instr) : Build := fun _ s os =>
  match s.mode with
  | some m => k (f m) os
  | none => bad

def fcmpOps : List (String × (Pred → Reg → Reg → Instr)) := [("feq", .feq), ("flt", .flt), ("fle", .fle), ("fun", .funo)]

def buildTarget (f : Target → Instr) (x : Env) : List Opnd → Res Instr
  | [.e t] => (x.target t).map f
  | _ => bad

/-- A branch selector: q0 to q15, then k0 to k15 (13 R262). -/
def buildBranch (f : Fin 32 → Target → Instr) (x : Env) : List Opnd → Res Instr
  | [.q p, .e t] => (x.target t).map (f (Fin.ofNat 32 p.val))
  | [.k n, .e t] => (x.target t).map (f (Fin.ofNat 32 (16 + n.val)))
  | _ => bad

/-- The end of a loop, which lies after the instruction: any other encoding is faulty (13 R264). -/
def Env.loopEnd (x : Env) (e : Expr) : Res Target :=
  match x.target e with
  | .error r => .error r
  | .ok t =>
    if x.first ∨ 0 < t.l.toInt ∨ (t.l = 0 ∧ x.pc / 2 % 32 < t.h.toNat) then .ok t else .error .range

def buildLoop (x : Env) : List Opnd → Res Instr
  | [.g a, .e t] => (x.loopEnd t).map (.loop a)
  | _ => bad

def buildLoopi (x : Env) : List Opnd → Res Instr
  | [.e n, .e t] =>
    match x.bits 8 1 256 n, x.loopEnd t with
    | .ok n, .ok t => .ok (.loopi n t)
    | .error r, _ => .error r
    | _, .error r => .error r
  | _ => bad

/-- A CSR by name or number (R222). -/
def Env.csr (x : Env) (e : Expr) : Res (BitVec 11) :=
  match e with
  | .sym s =>
    match csrNames.lookup (lower s) with
    | some n => .ok (BitVec.ofNat 11 n)
    | none => x.bits 11 0 0x7FF e
  | e => x.bits 11 0 0x7FF e

def buildCsr (f : Reg → Reg → BitVec 11 → Instr) (x : Env) : List Opnd → Res Instr
  | [.g d, .e n, .g a] => (x.csr n).map (f d a)
  | _ => bad

def buildCsrr (x : Env) : List Opnd → Res Instr
  | [.g d, .e n] => (x.csr n).map (.csrr d)
  | _ => bad

/-- The base of PPACK and PUNPACK, 0 or 8 (13 R256). -/
def Env.half (x : Env) (e : Expr) : Res Bool :=
  match x.num 0 8 e with
  | .ok v => if v = 0 ∨ v = 8 then .ok (v == 8) else .error .range
  | .error r => .error r

def buildEnter (x : Env) : List Opnd → Res Instr
  | [.e n] =>
    match x.num 16 65520 n with
    | .ok v => if v % 16 = 0 then .ok (.enter (BitVec.ofInt 16 v)) else .error .range
    | .error r => .error r
  | _ => bad

def scalarOp (m : String) : Option Build :=
  match m with
  | "nop" => some (plain (regs0 .nop))
  | "exit" => some (plain (regs0 .exit))
  | "yield" => some (plain (regs0 .yield))
  | "brk" => some (plain (regs0 .brk))
  | "rett" => some (plain (regs0 .rett))
  | "trap" => some (plainEnv fun x os => match os with | [.e n] => (x.fin 32 0 31 n).map .trap | _ => bad)
  | "li" => some (plainEnv fun x os => match os with | [.g d, .e e] => x.li d e | _ => bad)
  | "sext" => some (buildExtend .sext)
  | "zext" => some (buildExtend .zext)
  | "cmp" => some buildCmp
  | "cmpi" => some buildCmpi
  | "sel" => some (plain fun os => match os with | [.g d, .q p, .g a, .g b] => .ok (.sel d p a b) | _ => bad)
  | "pnot" => some (plain (preds2 .pnot))
  | "pmov" => some (plain (preds2 .pmov))
  | "pset" => some (plain fun os => match os with | [.q p] => .ok (.pset p) | _ => bad)
  | "pclr" => some (plain fun os => match os with | [.q p] => .ok (.pclr p) | _ => bad)
  | "ppack" => some (plainEnv fun x os => match os with | [.g d, .e e] => (x.half e).map (.ppack d) | _ => bad)
  | "punpack" => some (plainEnv fun x os => match os with | [.g a, .e e] => (x.half e).map (.punpack a) | _ => bad)
  | "prd" => some (plain (regs1 .prd))
  | "pwr" => some (plain (regs1 .pwr))
  | "br" => some (plainEnv (buildTarget .br))
  | "bt" => some (plainEnv (buildBranch .bt))
  | "bf" => some (plainEnv (buildBranch .bf))
  | "call" => some (plainEnv (buildTarget .call))
  | "jr" => some (plain (regs1 .jr))
  | "callr" => some (plain (regs1 .callr))
  | "ret" => some (plain (regs0 .ret))
  | "loop" => some (plainEnv buildLoop)
  | "loopi" => some (plainEnv buildLoopi)
  | "lexit" => some (plain (regs0 .lexit))
  | "lidx" => some (plain (regs1 .lidx))
  | "ldep" => some (plain (regs1 .ldep))
  | "enter" => some (plainEnv buildEnter)
  | "leave" => some (plain (regs0 .leave))
  | "csrr" => some (plainEnv buildCsrr)
  | "csrw" => some (plainEnv (buildCsr .csrw))
  | "csrs" => some (plainEnv (buildCsr .csrs))
  | "csrc" => some (plainEnv (buildCsr .csrc))
  | m =>
    ((aluOps.lookup m).map buildAlu).or <| ((immOps.lookup m).map (fun f => plainEnv (buildImm f))).or <|
    ((shiftOps.lookup m).map (fun f => plainEnv (buildShift f))).or <|
    ((unaryOps.lookup m).map (fun f => plain (regs2 f))).or <|
    ((fieldOps.lookup m).map (fun f => plainEnv (buildField f))).or <|
    ((predOps3.lookup m).map (fun f => plain (preds3 f))).or <|
    ((falu3.lookup m).map (fun f => buildRounded f regs3)).or <|
    ((falu2.lookup m).map (fun f => buildRounded f regs2)).or <|
    ((falu4.lookup m).map buildFma).or <| (fcmpOps.lookup m).map (fun f => plain (predRegs2 f))

/-! ### Chapter 14 -/

def loadOps : List (String × (Reg → Reg → BitVec 11 → Instr) × (Reg → Reg → Reg → BitVec 16 → Instr)) :=
  [("b", .ldBTi, .ldBTd), ("bu", .ldBuTi, .ldBuTd), ("h", .ldHTi, .ldHTd), ("hu", .ldHuTi, .ldHuTd), ("w", .ldWTi, .ldWTd),
   ("wu", .ldWuTi, .ldWuTd), ("d", .ldDTi, .ldDTd)]

def storeOps : List (String × (Reg → Reg → BitVec 11 → Instr) × (Reg → Reg → Reg → BitVec 16 → Instr)) :=
  [("b", .stBTi, .stBTd), ("h", .stHTi, .stHTd), ("w", .stWTi, .stWTd), ("d", .stDTi, .stDTd)]

def buildMem (t : List (String × (Reg → Reg → BitVec 11 → Instr) × (Reg → Reg → Reg → BitVec 16 → Instr))) : Build :=
  fun x s os =>
    match byForm t s, os with
    | some f, [.g r, o] => x.ldst r f.1 f.2 o
    | _, _ => bad

def feOps : List (String × (Reg → Reg → BitVec 11 → Instr)) :=
  [("ldc", .ldc), ("ldf", .ldf), ("stp", .stp), ("stf", .stf), ("fest", .fest)]

def buildFe (f : Reg → Reg → BitVec 11 → Instr) (x : Env) : List Opnd → Res Instr
  | [.g r, o] => (x.memTi o).map (fun m => f r m.1 m.2)
  | _ => bad

def amoOps : List (String × (AmoFlags → Reg → Reg → Reg → Instr)) :=
  [("amoadd", .amoadd), ("amoand", .amoand), ("amoor", .amoor), ("amoxor", .amoxor), ("amomin", .amomin), ("amomax", .amomax),
   ("amominu", .amominu), ("amomaxu", .amomaxu), ("amoswap", .amoswap), ("amocas", .amocas)]

/-- One of .w and .d, then .acq and .rel. -/
def buildAmo (f : AmoFlags → Reg → Reg → Reg → Instr) : Build := fun _ s os =>
  let has (x : String) : Bool := s.forms.contains x
  if s.only false && (has "w" != has "d") && s.forms.all (fun x => ["w", "d", "acq", "rel"].contains x) then
    match os with
    | [.g d, .mem a (.lit 0), .g b] => .ok (f { d := has "d", aq := has "acq", rl := has "rel" } d a b)
    | _ => bad
  else bad

def scopeNames : List (String × Fin 4) := [("tile", 0), ("cluster", 1), ("partition", 2), ("system", 3)]
def pathNames : List (String × Fin 6) :=
  [("local", 0), ("cluster", 1), ("remote", 2), ("cellar", 3), ("host", 4), ("span", 5)]

def fenceOps : List (String × (Fin 4 → Instr)) := [("acq", .fenceAcq), ("rel", .fenceRel), ("full", .fenceFull)]

def buildFence : Build := fun _ s os =>
  match byForm fenceOps s, os with
  | some f, [.keyword w] => match scopeNames.lookup w with | some n => .ok (f n) | none => bad
  | _, _ => bad

def buildDrain (x : Env) : List Opnd → Res Instr
  | [.keyword w] => match pathNames.lookup w with | some n => .ok (.drain n) | none => bad
  | [.e e] => (x.fin 6 0 5 e).map .drain
  | _ => bad

def buildSend (x : Env) : List Opnd → Res Instr
  | [.g a, .g b, .e m, .e t] =>
    match x.fin 16 0 15 m, x.bits 16 0 65535 t with
    | .ok m, .ok t => .ok (.send a b m t)
    | .error r, _ => .error r
    | _, .error r => .error r
  | _ => bad

def memoryOp (m : String) : Option Build :=
  match m with
  | "ld" => some (buildMem loadOps)
  | "st" => some (buildMem storeOps)
  | "femt" => some (plainEnv fun x os => match os with | [o] => (x.memTi o).map (fun m => .femt m.1 m.2) | _ => bad)
  | "fence" => some buildFence
  | "drain" => some (plainEnv buildDrain)
  | "rfill" => some (plain fun os => match os with
      | [.g a, .g n, .g b] => if n = 0 then .error .range else .ok (.rfill a b n)
      | _ => bad)
  | "rempty" => some (plain (regs1 .rempty))
  | "rstat" => some (plain (regs1 .rstat))
  | "send" => some (plainEnv buildSend)
  | "recv" => some (plain (regs3 .recv))
  | "tryrecv" => some (plain (regs3 .tryrecv))
  | "spawn" => some (plain (regs3 .spawn))
  | "gjoin" => some (plain (regs2 .gjoin))
  | "gleave" => some (plain (regs2 .gleave))
  | "gbar" => some (plain (regs2 .gbar))
  | "gsize" => some (plain (regs2 .gsize))
  | "task" => some (plain (regs0 .task))
  | "tdone" => some (plain (regs0 .tdone))
  | "mig" => some (plain (regs1 .mig))
  | "swapt" => some (plain (regs2 .swapt))
  | "ckpt" => some (plain (regs1 .ckpt))
  | "siga" => some (plain (regs1 .siga))
  | "qpost" => some (plain (regs3 .qpost))
  | m => ((feOps.lookup m).map (fun f => plainEnv (buildFe f))).or ((amoOps.lookup m).map buildAmo)

/-! ### Chapter 15 -/

def vecOps : List (String × Nat × (VecOps → Instr)) :=
  [("vadd", 0, .vadd), ("vsub", 1, .vsub), ("vmul", 2, .vmul), ("vmax", 3, .vmax), ("vmin", 4, .vmin), ("vabs", 5, .vabs),
   ("vneg", 6, .vneg), ("vfma", 7, .vfma), ("vexp", 8, .vexp), ("vrcp", 9, .vrcp), ("vrsq", 10, .vrsq), ("vsigm", 11, .vsigm),
   ("vsilu", 12, .vsilu), ("vcvt", 13, .vcvt), ("vset", 14, .vset), ("vcpy", 15, .vcpy), ("viota", 16, .viota),
   ("vsel", 17, .vsel), ("vcmp", 18, .vcmp), ("vscl", 19, .vscl)]

/-- The source registers a member uses, in the order B, C, E; those it does not use are omitted (15 R304). -/
def vecRegs (f : Nat) (os : List Opnd) : Option (Reg × Reg × Reg) :=
  match vecUsesB f, vecUsesC f, vecUsesE f, os with
  | true, true, true, [.g b, .g c, .g e] => some (b, c, e)
  | true, true, false, [.g b, .g c] => some (b, c, 0)
  | true, false, false, [.g b] => some (b, 0, 0)
  | false, true, false, [.g c] => some (0, c, 0)
  | _, _, _, _ => none

def vcmpConds : List (String × Fin 4) := [("eq", 0), ("ne", 1), ("lt", 2), ("le", 3)]

/-- Types: one suffix for both, or the destination's and then the source's. VCMP writes I8, has the source's type alone
and its condition in S. -/
def buildVec (f : Nat) (mk : VecOps → Instr) : Build := fun _ s os =>
  let sc := s.forms.contains "sc"
  let conds := s.forms.filter (fun x => x != "sc")
  let mode : Option (Fin 4) :=
    if f == 18 then (match conds, s.rm with | [c], none => vcmpConds.lookup c | _, _ => none)
    else if conds.isEmpty then some (s.rm.getD 0) else none
  let types : Option (ETy × ETy) :=
    match s.types with
    | [t] => some (if f == 18 then 0 else t, t)
    | [d, t] => if f == 18 then none else some (d, t)
    | _ => none
  match mode, types, os with
  | some rm, some (td, ts), .g a :: rest =>
    match vecRegs f rest with
    | some (b, c, e) => .ok (mk { ts := ts, td := td, rm := rm, a := a, b := b, c := c, e := e, sc := sc, sat := s.sat })
    | none => bad
  | _, _, _ => bad

def vredOps : List (String × (ETy → Reg → Reg → Instr)) :=
  [("vsum", .vsum), ("vssq", .vssq), ("vamax", .vamax), ("vmaxr", .vmaxr), ("vminr", .vminr)]

def buildTyped {α : Type} (f : ETy → α) (k : α → List Opnd → Res Instr) : Build := fun _ s os =>
  match s.one with
  | some t => k (f t) os
  | none => bad

def gatOps : List (String × (Fin 4 → GatOps → Instr)) :=
  [("vgath", fun _ o => .vgath o), ("vscat", fun _ o => .vscat o), ("vscadd", .vscadd)]

def buildGat (m : String) (mk : Fin 4 → GatOps → Instr) : Build := fun _ s os =>
  match s.types, os with
  | [t], [.g a, .g b, .g c] =>
    if !s.sat && (m == "vscadd" || s.rm.isNone) && (s.forms.isEmpty || s.forms == ["x32"]) then
      .ok (mk (s.rm.getD 0) { ty := t, x32 := !s.forms.isEmpty, a := a, b := b, c := c })
    else bad
  | _, _ => bad

def buildCopy (z : Bool) (f : Fin 32 → Reg → Reg → Bool → Instr) : Build := fun x s os =>
  match s.flag "z", os with
  | some w, [.e t, .g a, .g b] => if w && !z then bad else (x.fin 32 0 31 t).map (fun t => f t a b w)
  | _, _ => bad

/-! ### Chapters 16 and 17 -/

/-- The optional count of an ACC member, less one. -/
def Env.count (x : Env) (os : List Opnd) : Res (Fin 16) :=
  match os with
  | [] => .ok 0
  | [.e n] => x.fin 16 1 16 n
  | _ => bad

def buildHandles (f : BitVec 7 → Fin 16 → Instr) (x : Env) : List Opnd → Res Instr
  | .a h :: rest => (x.count rest).map (f h)
  | _ => bad

def mmaTypes : List (List ETy × Fin 5) := [([5], 0), ([5, 7], 1), ([0], 2), ([4], 3), ([6], 4)]

def buildMma (gathered : Bool) : Build := fun x s os =>
  let regs : Option (BitVec 7 × Reg × Reg × Reg × Reg × Expr × Expr) :=
    match gathered, os with
    | false, [.a h, .g a, .g b, .g k, .e p, .e r] => some (h, a, b, 0, k, p, r)
    | true, [.a h, .g a, .g b, .g c, .g k, .e p, .e r] => some (h, a, b, c, k, p, r)
    | _, _ => none
  match mmaTypes.lookup s.types, regs with
  | some comb, some (h, a, b, c, k, p, r) =>
    if s.rm.isNone && !s.sat && s.forms.all (fun f => ["acc", "cm"].contains f) then
      match x.bits 16 0 65535 p, x.bits 15 0 32767 r with
      | .ok pa, .ok pb =>
        let o : MmaOps := { comb := comb, acc := s.forms.contains "acc", col := s.forms.contains "cm"
                            a := a, b := b, k := k, h := h, pa := pa, pb := pb }
        .ok (if gathered then .mmag o c else .mma o)
      | .error r, _ => .error r
      | _, .error r => .error r
    else bad
  | _, _ => bad

def buildAccMem (f : BitVec 7 → Fin 16 → Reg → Reg → Instr) (store : Bool) (x : Env) (os : List Opnd) : Res Instr :=
  match store, os with
  | false, .a h :: .g a :: .g b :: rest => (x.count rest).map (fun n => f h n a b)
  | true, .g a :: .g b :: .a h :: rest => (x.count rest).map (fun n => f h n a b)
  | _, _ => bad

def buildAccTyped (f : BitVec 7 → Fin 16 → ETy → Reg → Reg → Instr) (store : Bool) : Build := fun x s os =>
  match s.one with
  | some t => buildAccMem (fun h n a b => f h n t a b) store x os
  | none => bad

def buildTld : Build := fun x s os =>
  match s.form?, os with
  | some (some w), [.g b, .g a, .e p] =>
    if w == "h" || w == "w" then (x.bits 16 0 65535 p).map (.tld (w == "w") a b) else bad
  | _, _ => bad

def buildBopen (x : Env) : List Opnd → Res Instr
  | [.g d, .a h, .e n, .e w, .g a, .g b] =>
    match x.fin 16 1 16 n, x.bits 5 0 16 w with
    | .ok n, .ok w => .ok (.bopen d h n w a b)
    | .error r, _ => .error r
    | _, .error r => .error r
  | _ => bad

def redOps : List (String × BitVec 3) := [("add", 0), ("min", 1), ("max", 2), ("and", 3), ("or", 4), ("xor", 5)]

def buildRed : Build := fun _ s os =>
  match s.forms, s.types, os with
  | [f], [t], [.g d, .g a, .g b] =>
    match redOps.lookup f with
    | some op => if s.rm.isNone && !s.sat then .ok (.red d a b op (BitVec.ofNat 4 t.val)) else bad
    | none => bad
  | _, _, _ => bad

def engineOp (m : String) : Option Build :=
  match m with
  | "vdot" => some (buildTyped .vdot regs3)
  | "cpy" => some (buildCopy true .cpy)
  | "cpys" => some (buildCopy true .cpys)
  | "cpyx" => some (buildCopy false .cpyx)
  | "accz" => some (plainEnv (buildHandles .accz))
  | "accrel" => some (plainEnv (buildHandles .accrel))
  | "accspl" => some (plainEnv (buildHandles .accspl))
  | "accld" => some (buildAccTyped .accld false)
  | "accst" => some (buildAccTyped .accst true)
  | "accpin" => some (plainEnv fun x os => match os with
      | .q p :: .a h :: .g a :: .g b :: rest => (x.count rest).map (fun n => .accpin p h n a b)
      | _ => bad)
  | "accatt" => some (plainEnv fun x os => match os with
      | .q p :: .a h :: .g a :: rest => (x.count rest).map (fun n => .accatt p h n a)
      | _ => bad)
  | "accsta" => some (fun _ s os => match s.flag "clr", os with
      | some c, [.g d, .a h] => .ok (.accsta d h c)
      | _, _ => bad)
  | "mma" => some (buildMma false)
  | "mmag" => some (buildMma true)
  | "tld" => some buildTld
  | "delta" => some (plain fun os => match os with | [.a h, .g a] => .ok (.delta h a) | _ => bad)
  | "dread" => some (plain fun os => match os with | [.a h, .g a] => .ok (.dread h a) | _ => bad)
  | "dscl" => some (plain fun os => match os with | [.a h, .g a, .g b] => .ok (.dscl h a b) | _ => bad)
  | "bopen" => some (plainEnv buildBopen)
  | "bsend" => some (plainEnv fun x os => match os with
      | [.g d, .g a, .g b, .e n] => (x.fin 16 1 16 n).map (.bsend d a b)
      | _ => bad)
  | "bwait" => some (plain (regs1 .bwait))
  | "bnorm" => some (plain fun os => match os with | [.g d, .a h] => .ok (.bnorm d h) | _ => bad)
  | "bseal" => some (plain fun os => match os with | [.g d, .a h] => .ok (.bseal d h) | _ => bad)
  | "babsent" => some (plain (regs1 .babsent))
  | "bclose" => some (plain (regs1 .bclose))
  | "bstat" => some (plainEnv fun x os => match os with | [.g d, .e n] => (x.fin 4 0 3 n).map (.bstat d) | _ => bad)
  | "colld" => some (plain (regs3 .colld))
  | "colrun" => some (plain (regs3 .colrun))
  | "colwait" => some (plain (regs1 .colwait))
  | "colabt" => some (plain (regs0 .colabt))
  | "red" => some buildRed
  | "redg" => some (plain fun os => match os with | [.g d, .q p, .g a] => .ok (.redg d a p) | _ => bad)
  | "colst" => some (plain (regs1 .colst))
  | m =>
    ((vecOps.lookup m).map (fun f => buildVec f.1 f.2)).or <| ((vredOps.lookup m).map (fun f => buildTyped f regs2)).or <|
    (gatOps.lookup m).map (buildGat m)

/-- The instruction that a statement spells. -/
def buildInstr (x : Env) (m : String) (ss : List String) (os : List Opnd) : Res Instr :=
  match ((scalarOp m).or (memoryOp m)).or (engineOp m) with
  | none => .error .instruction
  | some f =>
    match readSuffixes ss with
    | .ok s => f x s os
    | .error r => .error r

end Sys2Proof.Asm
end

