-- ==== Sys2Proof/Machine/Assembler.lean ====
section
/-!
DEFINITION. The tool chain of chapter 11: line packing (R228), the two passes of `bvas` (R224 to R230), the liveness table
(R227) and the image that `bvld` writes (R231). The objects of one image are assembled together, so that a code label has its
place in the image from the first pass on (log 70).
-/
namespace Sys2Proof.Asm
open Sys2Proof.Machine

/-! ### Code lines (R228) -/

/-- The halfwords of a tail, lowest first (12 R233). -/
def tailHalves (n t : Nat) : List (BitVec 16) :=
  match n with
  | 0 => []
  | n + 1 => BitVec.ofNat 16 t :: tailHalves n (t / 65536)

def codeTail (c : Code) : List (BitVec 16) := tailHalves (tailLen c.head) c.tail

/-- A packed line: the header, the heads, zeros, and the tails from the top down in head order. -/
def packLine (cs : List Code) : List (BitVec 16) :=
  let tails := cs.reverse.flatMap codeTail
  BitVec.ofNat 16 (cs.length * 2048) :: cs.map (fun c => BitVec.ofNat 16 c.head)
    ++ List.replicate (31 - cs.length - tails.length) 0 ++ tails

/-- The line that `.align` writes. -/
def nopLine : List (BitVec 16) := [0x0800#16, 0x0100#16] ++ List.replicate 30 0

/-! ### The first pass: where everything lies -/

/-- An instruction with its place; `known` says that the first pass knew its values. -/
structure Placed where
  obj : Nat
  line : Nat
  mn : String
  sfx : List String
  ops : List Opnd
  pc : Nat
  known : Bool
  deriving DecidableEq, Repr

/-- What the first pass knows of one object: its names, its code labels by offset in the image and its data labels by offset
in the object's data (the name ".n" stands for the current head or address of line `n`), and its constants. -/
structure Names where
  declared : List String := []
  text : List (String × Nat) := []
  data : List (String × Nat) := []
  consts : List (String × Nat × Expr) := []
  known : List (String × Word) := []
  exports : List String := []
  dlen : Nat := 0
  align : Nat := 64
  deriving DecidableEq, Repr

/-- The state of the first pass. Lines stand last first; an empty one is a NOP line. -/
structure First where
  lines : List (List Placed) := []
  cur : List Placed := []
  tails : Nat := 0
  names : Names := {}
  inData : Bool := false
  inProc : Bool := false
  /-- the directive that closes the open record -/
  record : Option String := none
  /-- labels that the next instruction takes -/
  pend : List String := []
  deriving DecidableEq, Repr

def dotKey (n : Nat) : String := "." ++ toString n

def Names.declare (n : Names) (s : String) : Res Names :=
  if n.declared.contains s then .error (.conflict s) else .ok { n with declared := s :: n.declared }

def First.closeLine (f : First) : First :=
  if f.cur.isEmpty then f else { f with lines := f.cur :: f.lines, cur := [], tails := 0 }

/-- Names an expression holds. -/
def Expr.syms (e : Expr) : List String :=
  match e with
  | .sym s => [s]
  | .line e | .head e | .neg e | .not e => e.syms
  | .bin _ a b => a.syms ++ b.syms
  | _ => []

def Opnd.expr? (o : Opnd) : Option Expr :=
  match o with
  | .e x | .mem _ x | .shared _ x | .idx _ _ x => some x
  | _ => none

/-- Symbols as the first pass knows them. -/
def Names.early (n : Names) (s : String) : Res Word :=
  match n.known.lookup s with
  | some v => .ok v
  | none => .error (.unresolved s)

/-- A value that the first pass needs. -/
def Names.now (n : Names) (e : Expr) : Res Nat :=
  match e.eval n.early with
  | .ok v => if v.toInt < 0 then .error .range else .ok v.toNat
  | .error r => .error r

/-- Placing an instruction (R228): a new line where heads or tails would pass the limit; waiting labels take its head. -/
def First.place (f : First) (obj line : Nat) (mn : String) (sfx : List String) (ops : List Opnd) : Res First :=
  let x : Env := { sym := f.names.early, first := true, wide := false, heads := [], pc := 0 }
  match buildInstr x mn sfx ops with
  | .error r => .error r
  | .ok i =>
    match encode i with
    | none => .error .instruction
    | some c =>
      let k := tailLen c.head
      let f := if f.cur.length = 31 ∨ 32 < 2 + f.cur.length + f.tails + k then f.closeLine else f
      let pc := 64 * f.lines.length + 2 * (f.cur.length + 1)
      let p : Placed := { obj := obj, line := line, mn := mn, sfx := sfx, ops := ops, pc := pc
                          known := (ops.filterMap Opnd.expr?).all (fun e => (e.eval f.names.early).toBool) }
      .ok { f with
        cur := f.cur ++ [p], tails := f.tails + k, pend := []
        names := { f.names with text := f.pend.map (fun l => (l, pc)) ++ f.names.text
                                known := f.pend.map (fun l => (l, BitVec.ofNat 64 pc)) ++ f.names.known } }

def padTo (n k : Nat) : Nat := (k + n - 1) / n * n

/-- NOP lines until the line offset is a multiple of `n` lines. -/
def First.nops (f : First) (n : Nat) : First :=
  { f with lines := List.replicate (padTo n f.lines.length - f.lines.length) [] ++ f.lines }

def First.grow (f : First) (n : Nat) : First := { f with names := { f.names with dlen := f.names.dlen + n } }

/-- A label of the current section. -/
def First.label (f : First) (s : String) : First :=
  if f.inData then { f with names := { f.names with data := (s, f.names.dlen) :: f.names.data } }
  else { f with pend := f.pend ++ [s] }

def intSizes : List (String × Nat) := [("byte", 1), ("half", 2), ("word", 4), ("dword", 8)]
def floatSizes : List (String × Nat) := [("f32", 4), ("f16", 2), ("bf16", 2), ("ds8", 1)]

/-- The sections a directive stands in (R224): `some true` data, `some false` code, `none` either. -/
def sectionOf (d : String) : Option Bool :=
  if ["byte", "half", "word", "dword", "f32", "f16", "bf16", "ds8", "space", "fill", "layout", "deltadesc"].contains d then some true
  else if ["line", "proc", "endproc", "live"].contains d then some false else none

def isPow2 (n : Nat) : Bool := n != 0 && n &&& (n - 1) == 0

/-- A record: its data label, 8-aligned or 64-aligned. -/
def First.openRecord (f : First) (name closer : String) (al len : Nat) : Res First :=
  let f := f.grow (padTo al f.names.dlen - f.names.dlen)
  (f.names.declare name).map (fun n =>
    { f with names := { n with data := (name, n.dlen) :: n.data, dlen := n.dlen + len }, record := some closer })

def First.directive (f : First) (line : Nat) (d : String) (args : List Arg) : Res First :=
  if (sectionOf d).any (fun x => x != f.inData) then .error .place
  else
    match d, args with
    | "text", [] => .ok { f with inData := false }
    | "data", [] => .ok { f with inData := true }
    | "line", [] => .ok f.closeLine
    | "align", [.e e] =>
      match f.names.now e with
      | .error r => .error r
      | .ok n =>
        if f.inData then
          if isPow2 n && decide (n ≤ 65536) then
            let f := f.grow (padTo n f.names.dlen - f.names.dlen)
            .ok { f with names := { f.names with align := max f.names.align n } }
          else .error .range
        else if isPow2 n && n % 64 == 0 then .ok (f.closeLine.nops (n / 64)) else .error .range
    | "proc", [.e (.sym s)] =>
      if f.inProc then .error .place
      else (f.names.declare s).map (fun n => { f.closeLine with names := n, inProc := true, pend := f.pend ++ [s] })
    | "endproc", [] => if f.inProc then .ok { f with inProc := false } else .error .place
    | "space", [.e e] => (f.names.now e).map f.grow
    | "fill", [.e c, .e z, .e _] =>
      match f.names.now c, f.names.now z with
      | .ok c, .ok z => if [1, 2, 4, 8].contains z then .ok (f.grow (c * z)) else .error .range
      | .error r, _ => .error r
      | _, .error r => .error r
    | "equ", [.e (.sym s), .e x] =>
      match (x.syms.find? (fun n => !f.names.declared.contains n)), f.names.declare s, x.eval f.names.early with
      | some n, _, _ => .error (.unresolved n)
      | _, .error r, _ => .error r
      | _, .ok n, .ok v => .ok { f with names := { n with consts := n.consts ++ [(s, line, x)], known := (s, v) :: n.known } }
      | _, .ok n, .error (.unresolved _) => .ok { f with names := { n with consts := n.consts ++ [(s, line, x)] } }
      | _, _, .error r => .error r
    | "global", [.e (.sym s)] => .ok { f with names := { f.names with exports := f.names.exports ++ [s] } }
    | "layout", [.e (.sym s)] => f.openRecord s "endlayout" 8 96
    | "deltadesc", [.e (.sym s)] => f.openRecord s "enddesc" 64 64
    | "entry", [.e (.sym _)] | "slots", [.e _] | "pool", [.e _, .e _, .e _, .e _] | "region", [.e _, .e _, .e _]
    | "region", [.e _, .e _, .e _, .e _] => .ok f
    | "live", .e _ :: .e _ :: _ :: _ => .ok f
    | d, args =>
      if args.isEmpty then .error .malformed
      else
        match (intSizes.lookup d).or (floatSizes.lookup d) with
        | some k => .ok (f.grow (k * args.length))
        | none => .error .malformed

/-- One source line of the first pass. In a record the current address is the record's. -/
def First.step (f : First) (obj line : Nat) (l : SrcLine) : Res First :=
  match f.record with
  | some closer =>
    match l.label, l.stmt with
    | none, none => .ok f
    | none, some (.field _ _) =>
      let start := f.names.dlen - (if closer == "endlayout" then 96 else 64)
      .ok { f with names := { f.names with data := (dotKey line, start) :: f.names.data } }
    | none, some (.dir d []) => if d == closer then .ok { f with record := none } else .error .place
    | _, _ => .error .place
  | none =>
    let named : Res First := match l.label with
      | none => .ok f
      | some s => (f.names.declare s).map (fun n => ({ f with names := n }).label s)
    match named, l.stmt with
    | .error r, _ => .error r
    | .ok f, none => .ok f
    | .ok f, some (.instr m ss os) => if f.inData then .error .place else (f.label (dotKey line)).place obj line m ss os
    | .ok f, some (.dir d args) => (f.label (dotKey line)).directive line d args
    | .ok _, some (.field _ _) => .error .place

/-- Numbered items. -/
def numbered {α : Type} (n : Nat) (xs : List α) : List (Nat × α) :=
  match xs with
  | [] => []
  | x :: xs => (n, x) :: numbered (n + 1) xs

/-- The end of an object: no label without an instruction, no procedure or record left open; its last line is closed. -/
def First.finish (f : First) : Res First :=
  match f.pend.find? (fun s => s.front != '.') with
  | some s => .error (.danglingLabel s)
  | none => if f.inProc || f.record.isSome then .error .place else .ok { f.closeLine with pend := [] }

/-- The first pass over one object, its code after the lines already there. -/
def firstPass (lines : List (List Placed)) (obj : Nat) (src : List SrcLine) : Res First :=
  match (numbered 1 src).foldlM (fun f l => First.step f obj l.1 l.2) ({ lines := lines } : First) with
  | .ok f => f.finish
  | .error r => .error r

/-! ### Literals (R226) -/

/-- `m * 10 ^ e` as a multiple of a power of two that is exact but for a last bit, which is set where anything was cut. -/
def scaled (m : Nat) (e : Int) : Nat × Int :=
  if 0 ≤ e then (m * 10 ^ e.toNat, 0)
  else
    let d := 10 ^ (-e).toNat
    let k := 4 * (-e).toNat + 64
    let q := m * 2 ^ k / d
    (2 * q + (if m * 2 ^ k % d = 0 then 0 else 1), -(k : Int) - 1)

/-- Whether `m * 10 ^ e` exceeds `n * 2 ^ k`. -/
def exceeds (m : Nat) (e : Int) (n : Nat) (k : Int) : Bool :=
  decide (n * 10 ^ (-e).toNat * 2 ^ k.toNat < m * 10 ^ e.toNat * 2 ^ (-k).toNat)

/-- The value of a literal argument: a float literal, `inf` or `nan`, with a sign. -/
inductive Literal where
  | fin (neg : Bool) (m : Nat) (e : Int)
  | inf (neg : Bool)
  | nan
  deriving DecidableEq, Repr

def literalOf (a : Arg) : Option Literal :=
  match a with
  | .flt n m e => some (.fin n m e)
  | .e (.sym s) => if lower s == "inf" then some (.inf false) else if lower s == "nan" then some .nan else none
  | .e (.neg (.sym s)) => if lower s == "inf" then some (.inf true) else if lower s == "nan" then some .nan else none
  | _ => none

def floatBits (f : Fmt) (l : Literal) : Res Nat :=
  match l with
  | .nan => .ok f.nanBits
  | .inf n => .ok (f.signed n f.infBits)
  | .fin n m e =>
    let top := match f.decode f.maxBits with | .num v k => (v.toNat, k) | _ => (0, 0)
    if exceeds m e top.1 top.2 then .error .range
    else if m = 0 then .ok (f.signed n 0)
    else
      let x := scaled m e
      .ok (f.signed n (f.round .rne n x.1 x.2 false).mag)

def ds8Bits (l : Literal) : Res Nat :=
  match l with
  | .fin n m e =>
    if exceeds m e 2 0 then .error .range
    else if m = 0 then .ok 0x77
    else
      let x := scaled m e
      .ok (ds8Quantise (.num (if n then -(x.1 : Int) else x.1) x.2)).bits
  | _ => .error .range

def floatDir (d : String) (a : Arg) : Res (List Byte) :=
  match literalOf a with
  | none => .error .malformed
  | some l =>
    match d with
    | "f32" => (floatBits f32 l).map (leBytes 4)
    | "f16" => (floatBits f16 l).map (leBytes 2)
    | "bf16" => (floatBits bf16 l).map (leBytes 2)
    | _ => (ds8Bits l).map (leBytes 1)

/-- A value in `k` bytes, which it must fit as signed or unsigned. -/
def intBytes (k : Nat) (v : Word) : Res (List Byte) :=
  if -(2 ^ (8 * k - 1) : Int) ≤ v.toInt ∧ v.toInt < 2 ^ (8 * k) then .ok (leBytes k (v.toNat % 2 ^ (8 * k))) else .error .range

/-! ### Records (R226) -/

/-- The fields of a record: first bit, width, signed. -/
def layoutFields : List (String × Nat × Nat × Bool) :=
  [("base", 0, 64, false), ("type", 64, 4, false), ("rank", 68, 3, false), ("ilv", 72, 4, false), ("granule", 76, 4, false),
   ("round", 80, 4, false), ("sat", 84, 1, false), ("fill", 85, 1, false), ("fillbits", 96, 32, false)]
  ++ (List.range 5).flatMap (fun d =>
    [("ext" ++ toString d, 128 + 64 * d, 20, false), ("win" ++ toString d, 148 + 64 * d, 16, false),
     ("org" ++ toString d, 164 + 64 * d, 20, true), ("str" ++ toString d, 448 + 36 * d, 36, true)])

def deltaFields : List (String × Nat × Nat × Bool) :=
  [("qbase", 0, 64, false), ("kbase", 64, 64, false), ("vbase", 128, 64, false), ("gbase", 192, 64, false), ("obase", 256, 64, false),
   ("dk", 320, 16, false), ("dv", 336, 16, false), ("c", 352, 16, false), ("intype", 368, 8, false), ("outtype", 376, 8, false),
   ("qpitch", 384, 16, false), ("kpitch", 400, 16, false), ("vpitch", 416, 16, false), ("opitch", 432, 16, false)]

/-- A field's contribution to its record; the value must fit its width. -/
def fieldValue (at0 w : Nat) (sg : Bool) (v : Word) : Res Nat :=
  let x : Int := if sg then v.toInt else v.toNat
  if sg && (x < -(2 ^ (w - 1) : Int) || (2 ^ (w - 1) : Int) ≤ x) then .error .range
  else if !sg && (2 ^ w : Int) ≤ x then .error .range
  else .ok (v.toNat % 2 ^ w * 2 ^ at0)

/-! ### The second pass: every value -/

/-- A live declaration, and a region. -/
structure Live where
  start : Nat
  stop : Nat
  mask : Nat
  deriving DecidableEq, Repr

structure Region where
  start : Nat
  len : Nat
  /-- the address of a reloadable extent's content -/
  src : Option Nat
  deriving DecidableEq, Repr

/-- The state of the second pass: what the image holds so far. -/
structure Second where
  data : List Byte := []
  inData : Bool := false
  entry : Option Nat := none
  pool : Option Nat := none
  slots : Option Nat := none
  live : List Live := []
  regions : List Region := []
  /-- the open record: its fields, the names seen, its bits and its bytes -/
  record : Option (List (String × Nat × Nat × Bool) × List String × Nat × Nat) := none
  deriving DecidableEq, Repr

/-- The symbols of an object with their values, the constants in their order. -/
def Names.values (n : Names) (data : Nat) : Res (List (String × Word)) :=
  let labels := n.text.map (fun x => (x.1, BitVec.ofNat 64 x.2)) ++ n.data.map (fun x => (x.1, BitVec.ofNat 64 (data + x.2)))
  n.consts.foldlM (fun vs c =>
    let env (s : String) : Res Word := match vs.lookup (if s == "." then dotKey c.2.1 else s) with
      | some v => .ok v
      | none => .error (.unresolved s)
    (c.2.2.eval env).map (fun v => vs ++ [(c.1, v)])) labels

/-- The values that one line of an object sees: its own symbols, then what the other objects export. -/
def valueAt (own globals : List (String × Word)) (line : Nat) (s : String) : Res Word :=
  match own.lookup (if s == "." then dotKey line else s) with
  | some v => .ok v
  | none =>
    match globals.lookup s with
    | some v => .ok v
    | none => .error (.unresolved s)

/-- A value given twice must be the same (R230). -/
def once (name : String) (old : Option Nat) (v : Nat) : Res (Option Nat) :=
  if old.all (fun o => o == v) then .ok (some v) else .error (.conflict name)

def poolValue (vs : List Nat) : Res Nat :=
  match vs with
  | [c, a, m, s] =>
    let v := c + a * 256 + m * 65536 + s * 16777216
    if [c, a, m, s].all (fun x => decide (x < 64)) && cfgGood (BitVec.ofNat 64 v) then .ok v else .error .range
  | _ => .error .malformed

/-- The end of the scratchpad below the spill carve-out. -/
def regionEnd (cfg : Nat) : Nat := (scrUnits (BitVec.ofNat 64 cfg) - bitsOf (BitVec.ofNat 64 cfg) 24 6) * 4096

def Second.region (s : Second) (start len : Nat) (src : Option Nat) : Res Second :=
  match s.pool with
  | none => .error .place
  | some cfg =>
    if start % 64 ≠ 0 ∨ len % 64 ≠ 0 ∨ regionEnd cfg < start + len then .error .range
    else if s.regions.any (fun r => decide (start < r.start + r.len) && decide (r.start < start + len)) then .error (.conflict "region")
    else .ok { s with regions := s.regions ++ [{ start := start, len := len, src := src }] }

/-- The registers of a reglist, g0 left out (R227). -/
def regMask (args : List Arg) : Res Nat :=
  match args with
  | [] => .ok 0
  | .regs lo hi :: rest =>
    if hi < lo then .error .range
    else (regMask rest).map (fun m => m ||| ((2 ^ (hi.val + 1) - 2 ^ lo.val) / 2 * 2))
  | _ => .error .malformed

/-- A directive of the second pass at `line`. `addr` is the address of the image's data, `clen` the code length, `heads` the
code labels of the image, `dlabels` the data labels that this object may name. -/
def Second.directive (s : Second) (val : String → Res Word) (addr clen : Nat) (heads dlabels : List String) (d : String)
    (args : List Arg) : Res Second :=
  let at0 := addr + s.data.length
  let nat (e : Expr) : Res Nat := match e.eval val with
    | .ok v => if v.toInt < 0 then .error .range else .ok v.toNat
    | .error r => .error r
  let put (bs : Res (List Byte)) : Res Second := bs.map (fun bs => { s with data := s.data ++ bs })
  let fill (n : Nat) (s : Second) : Second := { s with data := s.data ++ List.replicate (padTo n at0 - at0) 0 }
  match d, args with
  | "entry", [.e (.sym n)] =>
    if !heads.contains n then .error .place
    else
      match val n with
      | .error r => .error r
      | .ok v => if s.entry.isSome then .error (.conflict "entry") else .ok { s with entry := some v.toNat }
  | "slots", [.e e] =>
    match nat e with
    | .error r => .error r
    | .ok n => if 1 ≤ n ∧ n ≤ 16 then (once "slots" s.slots n).map (fun x => { s with slots := x }) else .error .range
  | "pool", [.e a, .e b, .e c, .e e] =>
    match [a, b, c, e].mapM nat with
    | .error r => .error r
    | .ok vs =>
      match poolValue vs with
      | .error r => .error r
      | .ok v => (once "pool" s.pool v).map (fun x => { s with pool := x })
  | "region", .e (.sym k) :: .e a :: .e l :: rest =>
    match nat a, nat l, rest with
    | .ok a, .ok l, [] => if lower k == "mutable" then s.region a l none else .error .malformed
    | .ok a, .ok l, [.e (.sym n)] =>
      if lower k == "reloadable" && dlabels.contains n then
        match val n with
        | .ok v => s.region a l (some v.toNat)
        | .error r => .error r
      else .error .malformed
    | .error r, _, _ => .error r
    | _, .error r, _ => .error r
    | _, _, _ => .error .malformed
  | "live", .e a :: .e b :: regs =>
    match nat a, nat b, regMask regs with
    | .ok a, .ok b, .ok m =>
      if a % 2 = 0 ∧ a < b ∧ b ≤ clen then .ok { s with live := s.live ++ [{ start := a, stop := b, mask := m }] } else .error .range
    | .error r, _, _ => .error r
    | _, .error r, _ => .error r
    | _, _, .error r => .error r
  | "space", [.e e] => put ((nat e).map (fun n => List.replicate n 0))
  | "fill", [.e c, .e z, .e v] =>
    match nat c, nat z, v.eval val with
    | .ok c, .ok z, .ok v => put ((intBytes z v).map (fun bs => (List.replicate c bs).flatten))
    | .error r, _, _ => .error r
    | _, .error r, _ => .error r
    | _, _, .error r => .error r
  | "text", _ => .ok { s with inData := false }
  | "data", _ => .ok { s with inData := true }
  | "align", [.e e] => if s.inData then (nat e).map (fun n => fill n s) else .ok s
  | "layout", _ => .ok { fill 8 s with record := some (layoutFields, [], 2 ^ 640, 96) }
  | "deltadesc", _ => .ok { fill 64 s with record := some (deltaFields, [], 0, 64) }
  | d, args =>
    match intSizes.lookup d with
    | some k =>
      put ((args.mapM (fun (a : Arg) => match a with
        | .e e => (match e.eval val with | .ok v => intBytes k v | .error r => .error r)
        | _ => .error .malformed)).map List.flatten)
    | none => if (floatSizes.lookup d).isSome then put ((args.mapM (floatDir d)).map List.flatten) else .ok s

/-- A line of the second pass that is no instruction. -/
def Second.step (s : Second) (val : String → Res Word) (addr clen : Nat) (heads dlabels : List String) (l : SrcLine) : Res Second :=
  match s.record, l.stmt with
  | none, some (.dir d args) => s.directive val addr clen heads dlabels d args
  | none, _ => .ok s
  | some (fields, seen, bits, len), some (.field n e) =>
    match fields.lookup n, e.eval val with
    | some f, .ok v =>
      if seen.contains n then .error (.conflict n)
      else (fieldValue f.1 f.2.1 f.2.2 v).map (fun x => { s with record := some (fields, n :: seen, bits + x, len) })
    | none, _ => .error .malformed
    | _, .error r => .error r
  | some (_, _, bits, len), some (.dir _ _) => .ok { s with data := s.data ++ leBytes len bits, record := none }
  | some _, _ => .ok s

/-! ### The image (R231) -/

/-- One object of the image after the first pass. -/
structure Object where
  src : List SrcLine
  names : Names
  /-- offset of its data from the link base -/
  doff : Nat
  values : List (String × Word)
  deriving DecidableEq, Repr

/-- The liveness table (R227): a mask at each boundary point from the first declaration on where it changes. -/
def liveTable (clen : Nat) (ds : List Live) : List (Nat × Nat) :=
  let points := (sortBy (fun a b => decide (a ≤ b)) (0 :: ds.flatMap (fun d => [d.start, d.stop]))).dedup
  let covered (p : Nat) : List Live := ds.filter (fun d => decide (d.start ≤ p) && decide (p < d.stop))
  let mask (p : Nat) : Nat :=
    if (covered p).isEmpty then 0xFFFFFFFE else (covered p).foldl (fun m d => m ||| d.mask) 0
  let from0 := points.filter (fun p => decide (p < clen) && ds.any (fun d => decide (d.start ≤ p)))
  from0.foldl (fun es p => if es.getLast?.any (fun e => e.2 == mask p) then es else es ++ [(p, mask p)]) []

def liveBytes (es : List (Nat × Nat)) : List Byte := es.flatMap (fun e => leBytes 8 (e.1 / 2 + e.2 * 2 ^ 32))

/-- A loaded image with what its file header says. -/
structure Image where
  base : Word
  clen : Nat
  entry : Nat
  nlive : Nat
  roff : Nat
  nreg : Nat
  doff : Nat
  dlen : Nat
  rooff : Nat
  rolen : Nat
  poolcfg : Nat
  quota : Nat
  bytes : List Byte
  deriving DecidableEq, Repr

def Image.header (i : Image) : List Byte :=
  let body := leBytes 4 0x31585642 ++ leBytes 2 1 ++ leBytes 2 i.quota ++ leBytes 4 i.clen ++ leBytes 4 i.entry ++ leBytes 4 i.clen
    ++ leBytes 4 i.nlive ++ leBytes 4 i.roff ++ leBytes 4 i.nreg ++ leBytes 4 i.doff ++ leBytes 4 i.dlen ++ leBytes 4 i.rooff
    ++ leBytes 4 i.rolen ++ leBytes 4 i.poolcfg ++ leBytes 4 0 ++ leBytes 4 (bitsOf i.base 16 32)
  body ++ leBytes 4 (crc32c body).toNat

/-- The `.bvx` file. -/
def Image.file (i : Image) : List Byte := i.header ++ i.bytes

/-- The first pass over the objects in command-line order. -/
def firstPasses (lines : List (List Placed)) (srcs : List (Nat × List SrcLine)) : Res (List (List Placed) × List Names) :=
  match srcs with
  | [] => .ok (lines, [])
  | (k, src) :: rest =>
    match firstPass lines k src with
    | .error r => .error r
    | .ok f => (firstPasses f.lines rest).map (fun x => (x.1, f.names :: x.2))

/-- Offsets of the objects' data from the link base, from `at0` on. -/
def dataOffsets (at0 : Nat) (ns : List Names) : List Nat :=
  match ns with
  | [] => []
  | n :: ns => let o := padTo n.align at0; o :: dataOffsets (o + n.dlen) ns

/-- The objects with the values of their symbols, their data from `at0` on. -/
def objects (base : Word) (at0 : Nat) (srcs : List (List SrcLine)) (ns : List Names) : Res (List Object) :=
  ((srcs.zip ns).zip (dataOffsets at0 ns)).mapM (fun x =>
    (x.1.2.values (base.toNat + x.2)).map (fun vs => { src := x.1.1, names := x.1.2, doff := x.2, values := vs }))

/-- Exported symbols: each declared, no two alike (R230). -/
def exportsOf (ns : List Names) : Res (List String) :=
  let all := ns.flatMap (fun n => n.exports.dedup)
  match (ns.flatMap (fun n => n.exports.filter (fun s => !n.declared.contains s))).head? with
  | some s => .error (.unresolved s)
  | none => match all.find? (fun s => decide (1 < all.count s)) with
    | some s => .error (.conflict s)
    | none => .ok all

def globalsOf (os : List Object) : List (String × Word) :=
  os.flatMap (fun o => o.names.exports.filterMap (fun s => (o.values.lookup s).map (fun v => (s, v))))

/-- Label names of one section that an object may name: its own and those exported elsewhere. -/
def visible (pick : Names → List (String × Nat)) (os : List Object) (o : Object) : List String :=
  (pick o.names).map Prod.fst
    ++ os.flatMap (fun p => ((pick p.names).map Prod.fst).filter (fun s => p.names.exports.contains s))

/-- The second pass over the lines that `keep` selects. -/
def secondPass (base : Word) (doff clen : Nat) (os : List Object) (keep : SrcLine → Bool) : Res Second :=
  os.foldlM (fun s o =>
    let s := { s with data := s.data ++ List.replicate (o.doff - doff - s.data.length) 0, inData := false }
    (numbered 1 o.src).foldlM (fun s l =>
      if keep l.2 then
        s.step (valueAt o.values (globalsOf os) l.1) (base.toNat + doff) clen (visible Names.text os o) (visible Names.data os o) l.2
      else .ok s) s) ({} : Second)

def isLive (l : SrcLine) : Bool := match l.stmt with | some (.dir "live" _) => true | _ => false
def isReloadable (l : SrcLine) : Bool := match l.stmt with | some (.dir "region" [_, _, _, _]) => true | _ => false

/-- The instruction of a placed statement, with every value known. -/
def codeOf (os : List Object) (heads : List Nat) (p : Placed) : Res Code :=
  match os[p.obj]? with
  | none => .error .instruction
  | some o =>
    let x : Env := { sym := valueAt o.values (globalsOf os) p.line, first := false, wide := !p.known, heads := heads, pc := p.pc }
    match buildInstr x p.mn p.sfx p.ops with
    | .error r => .error r
    | .ok i => if i.wf then (match encode i with | some c => .ok c | none => .error .instruction) else .error .instruction

def lineOf (os : List Object) (heads : List Nat) (l : List Placed) : Res (List (BitVec 16)) :=
  if l.isEmpty then .ok nopLine else (l.mapM (codeOf os heads)).map packLine

/-- Content and entry of each reloadable region, the read-only part from address `at0` on. -/
def regionBytes (data : List Byte) (daddr at0 : Nat) (rs : List Region) : Res (List Byte × List Byte) :=
  rs.foldlM (fun x r =>
    match r.src with
    | none => .ok x
    | some a =>
      let bs := (data.drop (a - daddr)).take r.len
      if a < daddr ∨ bs.length < r.len then .error .range
      else .ok (x.1 ++ leBytes 8 (r.start + r.len * 2 ^ 32) ++ leBytes 8 (at0 + x.2.length), x.2 ++ bs)) ([], [])

def padded (n : Nat) (bs : List Byte) : List Byte := bs ++ List.replicate (n - bs.length) 0

/-- `bvas` and `bvld`: the image of sources in command-line order, at a link base that is 64-KiB-aligned in space 0x4. -/
def link (base : Word) (texts : List String) : Res Image := do
  if base.toNat % 65536 ≠ 0 ∨ bitsOf base 48 16 ≠ 0x4000 then throw .range
  let srcs ← texts.mapM parse
  let placed ← firstPasses [] (numbered 0 srcs)
  let lines := placed.1.reverse
  let ns := placed.2
  let _ ← exportsOf ns
  let clen := 64 * lines.length
  let early ← objects base clen srcs ns
  let sized ← secondPass base clen clen early isLive
  let live := liveTable clen sized.live
  let nreg := (srcs.flatMap (fun s => s.filter isReloadable)).length
  let roff := clen + 8 * live.length
  let os ← objects base (roff + 8 + 16 * nreg) srcs ns
  let doff := (os.head?.map Object.doff).getD (padTo 64 (roff + 8 + 16 * nreg))
  let s ← secondPass base doff clen os (fun _ => true)
  if liveTable clen s.live ≠ live then throw .range
  let heads := lines.flatMap (fun l => l.map Placed.pc)
  let code ← lines.mapM (lineOf os heads)
  let rooff := if nreg = 0 then 0 else padTo 65536 (doff + s.data.length)
  let rs ← regionBytes s.data (base.toNat + doff) (base.toNat + rooff) s.regions
  let tables := code.flatten.flatMap (fun h => leBytes 2 h.toNat) ++ liveBytes live ++ leBytes 8 nreg ++ rs.1
  let loaded := padded doff tables ++ s.data
  match s.entry with
  | none => throw (.unresolved "entry")
  | some e =>
    return { base := base, clen := clen, entry := e, nlive := live.length, roff := roff, nreg := nreg, doff := doff,
             dlen := s.data.length, rooff := rooff, rolen := rs.2.length, poolcfg := s.pool.getD 0, quota := s.slots.getD 0,
             bytes := if nreg = 0 then loaded else padded rooff loaded ++ rs.2 }

end Sys2Proof.Asm
end

