-- ==== Sys2Proof/Safety.lean ====
section
/-!
DEFINITION. What a safe run is, and the vocabulary of the statements: runs, canonical memories, and what two states agree on.
-/
namespace Sys2Proof.Machine

/-! ### Runs -/

/-- `t` is reached from `s` in some number of steps, each with a next state. -/
inductive Reaches (s : State) : State → Prop where
  | refl : Reaches s s
  | step {t u : State} : Reaches s t → Machine.step t = .next u → Reaches s u

/-- A safe run: from `s` on, the machine never stops. -/
def Safe (s : State) : Prop := ∀ t, Reaches s t → ∃ u, Machine.step t = .next u

/-! ### Canonical memories -/

/-- A captured tile context whose pool is canonical. -/
def TileCtx.memWf (c : TileCtx) : Prop := c.pool.wf

/-- The cellar and the host memory are in canonical form. -/
def State.bulkWf (s : State) : Prop := s.cellar.wf ∧ s.host.wf

/-- Pool, cellar and host memory of the whole machine are in canonical form. -/
def State.memWf (s : State) : Prop := s.bulkWf ∧ ∀ x ∈ s.tiles, x.2.c.memWf

/-! ### What two states agree on -/

/-- One byte of the pool of tile `k`. -/
def State.poolByte (s : State) (k : TileId) (a : Nat) : Byte := (s.tile k).c.pool.get a

/-- Every byte of every memory reads alike: the pools, the cellar, the host. -/
def SameMemory (s t : State) : Prop :=
  (∀ k a, t.poolByte k a = s.poolByte k a) ∧ (∀ a, t.cellar.get a = s.cellar.get a) ∧ (∀ a, t.host.get a = s.host.get a)

/-- Every byte of every memory reads alike but for those of the pool of tile `k` from `a` on, `n` of them. -/
def SameMemoryBut (k : TileId) (a n : Nat) (s t : State) : Prop :=
  (∀ k' a', (k' ≠ k ∨ a' < a ∨ a + n ≤ a') → t.poolByte k' a' = s.poolByte k' a')
  ∧ (∀ a, t.cellar.get a = s.cellar.get a) ∧ (∀ a, t.host.get a = s.host.get a)

/-- Two threads differ at most in register `rd`. -/
def SameRegsBut (rd : Reg) (a b : Thread) : Prop :=
  ∀ r, r ≠ rd → b.reg r = a.reg r ∧ b.isFull r = a.isFull r

/-- The special registers of a thread (13 R271): all but the general registers, the predicates, fflags, the offset, the loop
stack and the park. -/
def SameSpecials (a b : Thread) : Prop :=
  b.home = a.home ∧ b.hslot = a.hslot ∧ b.lix = a.lix ∧ b.launch = a.launch ∧ b.pix = a.pix ∧ b.vlen = a.vlen ∧ b.frm = a.frm
  ∧ b.tfmt = a.tfmt ∧ b.tscl = a.tscl ∧ b.held = a.held ∧ b.pkslot = a.pkslot ∧ b.blim = a.blim ∧ b.sig = a.sig
  ∧ b.splim = a.splim ∧ b.spov = a.spov ∧ b.spovlim = a.spovlim ∧ b.fetimeo = a.fetimeo ∧ b.feretry = a.feretry
  ∧ b.sndretry = a.sndretry ∧ b.bankX = a.bankX ∧ b.bankY = a.bankY ∧ b.xvec = a.xvec ∧ b.xlvl = a.xlvl ∧ b.groups = a.groups

/-- Everything of the machine but the acting thread, its cursor and its tile's count of parks is as before. -/
def SameElsewhere (s t : State) : Prop :=
  t.now = s.now ∧ t.free = s.free ∧ t.agenda = s.agenda ∧ t.turns = s.turns ∧ t.cellar = s.cellar ∧ t.host = s.host
  ∧ t.clusters = s.clusters ∧ t.chiplets = s.chiplets ∧ t.dev = s.dev ∧ t.chans = s.chans
  ∧ ∀ k, (k ≠ s.cur.tile → t.tile k = s.tile k)
    ∧ t.tile k = { (s.tile k) with c := { (s.tile k).c with slots := (t.tile k).c.slots, tok := (t.tile k).c.tok } }
    ∧ ∀ j, (k, j) ≠ (s.cur.tile, s.cur.slot) → (t.tile k).slot j = (s.tile k).slot j

/-! ### How an instruction ends -/

/-- The instruction answers a next state, of which `P` holds. -/
def Completes (i : Instr) (s : State) (P : State → Prop) : Prop := ∃ t, exec i s = .next t ∧ P t

/-- Every source register of the acting thread is full (13 R246). -/
def State.Readable (s : State) (rs : List Reg) : Prop := ∀ r ∈ rs, s.me.isFull r = true

/-- The instruction completes: nothing changes but the acting thread, which becomes `th` after its end step. -/
def Retires (i : Instr) (s : State) (th : Thread) : Prop := exec i s = .next (s.setMe (th.retire s.cur.nh))

/-- The instruction completes, writing `v` to register `rd` and nothing else. -/
def Sets (i : Instr) (s : State) (rd : Reg) (v : Word) : Prop := Retires i s (s.me.setReg rd v)

/-- The instruction completes, writing `b` to predicate `qd` and nothing else. -/
def SetsPred (i : Instr) (s : State) (qd : Pred) (b : Bool) : Prop := Retires i s (s.me.setPred qd b)

/-- The instruction completes: a float result into `rd`, zero-extended, and its flags added to fflags. -/
def SetsFloat (i : Instr) (s : State) (rd : Reg) (r : FRes) : Prop :=
  Retires i s ((s.me.setReg rd (BitVec.ofNat 64 r.bits)).raise r.flags)

/-- The instruction raises a fault of its own: the acting thread takes the trap with xpc its offset (09 R180). -/
def Traps (i : Instr) (s : State) (code detail : Nat) (val : Word) : Prop :=
  exec i s = .next (s.trapAt s.cur.tile s.cur.slot s.me.pc (causeOf code detail false) val)

/-- The instruction parks its thread for `why` and does nothing else. -/
def Waits (i : Instr) (s : State) (why : ParkWhy) : Prop := exec i s = .next (s.park s.me why)

/-- The acting thread is parked for `why` and will retire when it wakes. -/
def State.ParkedFor (t : State) (why : ParkWhy) : Prop := ∃ p, t.me.park = some p ∧ p.why = why

/-- In `t` the operation that the acting thread of `s` issued stands in its tile's queue under the next number: its job, its
ranges, its progress point. With enough free entries of the range-lock table its ranges are in the table, else it waits in its
queue for them; the table's older entries stay (07 R164). -/
def Queued (s t : State) (job : Job) (rs : List Range) (pix : Nat) : Prop :=
  let room := s.here.c.lockRoom (usedRanges rs)
  t.here.c.nextOp = s.here.c.nextOp + 1
  ∧ (∃ o ∈ t.here.c.ops, o.id = s.here.c.nextOp ∧ o.job = job ∧ o.ranges = usedRanges rs ∧ o.pix = pix ∧ o.started = none
      ∧ o.listed = room)
  ∧ t.here.c.locks = s.here.c.locks ++ (if room then
      (usedRanges rs).map (fun r => { tile := s.cur.tile, op := s.here.c.nextOp, launch := s.me.launch, range := r, since := s.here.r.cyc })
      else [])
  ∧ t.here.c.pool = s.here.c.pool

/-- The operation is queued, and the acting thread waits for it, its result going to `rd`. -/
def QueuedFor (s t : State) (job : Job) (rs : List Range) (pix : Nat) (rd : Reg) : Prop :=
  Queued s t job rs pix ∧ t.ParkedFor (.op s.here.c.nextOp rd)

/-- Two operands and a result of the integer unit: at 64 bits, or at 32 with the result sign-extended (13 R248). -/
def AluGives (i : Bool → Instr) (s : State) (rd : Reg) (x y : Word)
    (P : (n : Nat) → BitVec n → BitVec n → BitVec n → Prop) : Prop :=
  (∃ r : BitVec 64, Sets (i false) s rd r ∧ P 64 x y r)
  ∧ ∃ r : BitVec 32, Sets (i true) s rd (r.signExtend 64) ∧ P 32 (x.setWidth 32) (y.setWidth 32) r

/-- A register result that `P` describes. -/
def Gives (i : Instr) (s : State) (rd : Reg) (P : Word → Prop) : Prop := ∃ r, Sets i s rd r ∧ P r

/-- The instruction transfers control: the acting thread becomes `th`, its offset `q`, with no end step (13 R263). -/
def Jumps (i : Instr) (s : State) (th : Thread) (q : Word) : Prop := exec i s = .next (s.setMe (th.jump q))

/-- target(L, H) at offset `p`, in signed arithmetic (12 R236). -/
def targetOf (p : Word) (t : Target) : Word :=
  BitVec.ofInt 64 (((p.toNat / 64 * 64 : Nat) : Int) + 64 * t.l.toInt + 2 * (t.h.toNat : Int))

/-- The loop stack after unwind(t): entries whose range does not hold `q` are popped (13 R265). -/
def unwound (q : Word) (loops : List LoopEntry) : List LoopEntry :=
  loops.dropWhile (fun e => !decide (e.start.toNat ≤ q.toNat ∧ q.toNat ≤ e.stop.toNat))

/-- An event with these operands is on the agenda: a packet on its way, a timer, a check. -/
def State.Pending (t : State) (ev : Instr) (arg : Payload) : Prop := ∃ x ∈ t.agenda, x.ev = ev ∧ x.arg = arg

/-- A packet or a request with these operands is in the buffer of the port of tile `k`, which injects it at the end of the cycle (04 R73). -/
def State.Leaving (t : State) (k : TileId) (ev : Instr) (arg : Payload) : Prop := ∃ p ∈ (t.tile k).r.out, p.ev = ev ∧ p.arg = arg

/-- The instruction is over and its thread has ended: its slot is free, and the command processor is told (06 R120, 03 R59). -/
def Ends (i : Instr) (s : State) : Prop :=
  Completes i s fun t =>
    (s.here.c.guests = [] → (t.tile s.cur.tile).slot s.cur.slot = none)
    ∧ ∃ th, t.Leaving s.cur.tile .launchEnd (.ended s.cur.tile th) ∧ th.tid = s.me.tid ∧ th.lix = s.me.lix ∧ th.launch = s.me.launch

/-! ### Accesses -/

/-- An access of `size` bytes at address `a` is performed in the acting thread's own pool, at offset `off`, and meets no entry of
the range-lock table (07 R148). -/
def State.LocalAt (s : State) (c : Class) (size : Nat) (fest : Bool) (a : Word) (off : Nat) : Prop :=
  s.place s.cur.tile c size fest a = .here off ∧ off < 0x40000 ∧ s.here.c.lockHit s.here.r.cyc off (off + size) = false

/-- The number the acting thread's tile holds in `n` bytes at offset `off`, little-endian. -/
def State.poolNat (s : State) (off n : Nat) : Nat := s.here.c.pool.read off n

/-- Nothing beyond the pool, the FE bits and the threads of the acting thread's tile changes, but for wakes on the agenda and the
counts of parks and free values: no other tile, no memory, no cluster, nothing of the device; of the tile itself neither its CSRs,
shared registers, mailboxes, locks, queues nor launches. -/
def SameBeyondPool (s t : State) : Prop :=
  t.now = s.now ∧ t.turns = s.turns ∧ t.cellar = s.cellar ∧ t.host = s.host ∧ t.clusters = s.clusters ∧ t.chiplets = s.chiplets
  ∧ t.dev = s.dev ∧ t.chans = s.chans ∧ (∀ k, k ≠ s.cur.tile → t.tile k = s.tile k)
  ∧ t.here.c = { s.here.c with pool := t.here.c.pool, emptyDw := t.here.c.emptyDw, dirty := t.here.c.dirty
                               stored := t.here.c.stored, waiters := t.here.c.waiters, slots := t.here.c.slots
                               tok := t.here.c.tok, draws := t.here.c.draws }

/-- A store of the acting thread completes in the pipeline: the low `size` bytes of `v` at offset `off`, every other byte of every
memory, every FE bit and everything else as before; the thread retires. -/
def StoresAt (i : Instr) (s : State) (off size : Nat) (v : Word) : Prop :=
  Completes i s fun t =>
    t.poolNat off size = v.toNat % 2 ^ (8 * size) ∧ SameMemoryBut s.cur.tile off size s t ∧ t.me = s.me.retire s.cur.nh
    ∧ t.here.c.emptyDw = s.here.c.emptyDw ∧ SameBeyondPool s t ∧ t.agenda = s.agenda

/-- The instruction parks its thread for `why` and sends the request `ev arg`, no memory changed. -/
def Asks (i : Instr) (s : State) (why : ParkWhy) (ev : Instr) (arg : Payload) : Prop :=
  Completes i s fun t => t.ParkedFor why ∧ t.Leaving s.cur.tile ev arg ∧ SameMemory s t

/-- The instruction parks its thread for `why` with the timer or check `ev arg` running, no memory changed. -/
def Arms (i : Instr) (s : State) (why : ParkWhy) (ev : Instr) (arg : Payload) : Prop :=
  Completes i s fun t => t.ParkedFor why ∧ t.Pending ev arg ∧ SameMemory s t

/-! ### Engine operands -/

/-- An engine operand of `len` bytes at address `a`: space 0x0 with bit 18 clear, a multiple of `algn`, inside the scratchpad (15
R299). -/
def State.Scratch (s : State) (a : Word) (algn len : Nat) : Prop :=
  spaceOf a = 0 ∧ a.getLsbD 18 = false ∧ a.toNat % algn = 0 ∧ rangeRegion s.here.c.poolcfg a.toNat (a.toNat + len) = 0

/-- The range of `n` bytes at address `a`, read or written. -/
def rangeAt (a : Word) (n : Nat) (w : Bool) : Range := { lo := a.toNat, hi := a.toNat + n, write := w }

/-- The issue of a long instruction with progress points up to `n` (15 R301, 07 R164): its operation is queued from the progress point
`p` on and its thread waits for it; at its end it completes with pix 0. -/
def Issues (i : Instr) (s : State) (job : Job) (rs : List Range) (rd : Reg) (n p : Nat) : Prop :=
  (s.me.pix.toNat < n → Completes i s fun t => QueuedFor s t job rs p rd)
  ∧ (n ≤ s.me.pix.toNat → Retires i s { s.me with pix := 0 })

/-- An engine operand that fails a check, each with its trap (15 R299). -/
def BadOperand (i : Instr) (s : State) (a : Word) (algn len : Nat) : Prop :=
  let r := rangeRegion s.here.c.poolcfg a.toNat (a.toNat + len)
  (spaceOf a ≠ 0 ∨ a.getLsbD 18 = true → Traps i s 0x08 3 a)
  ∧ (spaceOf a = 0 → a.getLsbD 18 = false → a.toNat % algn ≠ 0 → Traps i s 0x09 algn a)
  ∧ (spaceOf a = 0 → a.getLsbD 18 = false → a.toNat % algn = 0 → r ≠ 0 → Traps i s 0x0A r a)

/-! ### Events -/

/-- The event with these operands takes effect, leaving a state of which `P` holds. -/
def Happens (ev : Instr) (arg : Payload) (s : State) (P : State → Prop) : Prop := s.input = arg → Completes ev s P

/-- The event with these operands leaves exactly `t`. -/
def Becomes (ev : Instr) (arg : Payload) (s t : State) : Prop := s.input = arg → exec ev s = .next t

/-- Reference `r` names the parked thread in slot `j` of its tile. -/
def State.Names (s : State) (r : Ref) (j : Fin 16) : Prop := s.slotOf r = some j

/-- An event is due `n` cycles from now. -/
def State.DueIn (s t : State) (n : Nat) (ev : Instr) (arg : Payload) : Prop :=
  ∃ x ∈ t.agenda, x.due = s.now + n ∧ x.ev = ev ∧ x.arg = arg

/-! ### Families by what they write -/

/-- The instructions of the scalar core that write one general register and nothing else, with that register (13 R248 to R256,
R261, R266, 14 R284). -/
def regOnly (i : Instr) : Option Reg :=
  match i with
  | .add _ rd _ _ | .sub _ rd _ _ | .mul _ rd _ _ | .mulh _ rd _ _ | .mulhu _ rd _ _ | .div _ rd _ _ | .divu _ rd _ _
  | .rem _ rd _ _ | .remu _ rd _ _ | .and _ rd _ _ | .or _ rd _ _ | .xor _ rd _ _ | .andn _ rd _ _ | .shl _ rd _ _
  | .shr _ rd _ _ | .sar _ rd _ _ | .rot _ rd _ _ | .min _ rd _ _ | .max _ rd _ _ | .minu _ rd _ _ | .maxu _ rd _ _ => some rd
  | .addi rd _ _ | .andi rd _ _ | .ori rd _ _ | .xori rd _ _ | .muli rd _ _ | .shli rd _ _ | .shri rd _ _ | .sari rd _ _ => some rd
  | .li16 _ rd _ | .li32 _ rd _ | .li64 rd _ => some rd
  | .mov rd _ | .neg rd _ | .not rd _ | .clz rd _ | .ctz rd _ | .popc rd _ | .sext _ rd _ | .zext _ rd _ => some rd
  | .ext rd _ _ _ | .extu rd _ _ _ | .ins rd _ _ _ | .sel rd _ _ _ | .ppack rd _ | .prd rd | .fclass _ rd _ => some rd
  | .lidx rd | .ldep rd | .rstat rd => some rd
  | _ => none

/-- The instructions that write one predicate and nothing else (13 R253, R255). -/
def predOnly (i : Instr) : Option Pred :=
  match i with
  | .cmpEq qd _ _ | .cmpNe qd _ _ | .cmpLt qd _ _ | .cmpGe qd _ _ | .cmpLtu qd _ _ | .cmpGeu qd _ _ | .cmpTst qd _ _
  | .cmpNtst qd _ _ => some qd
  | .cmpiEq qd _ _ | .cmpiNe qd _ _ | .cmpiLt qd _ _ | .cmpiGe qd _ _ | .cmpiLtu qd _ _ | .cmpiGeu qd _ _ | .cmpiTst qd _ _
  | .cmpiNtst qd _ _ => some qd
  | .pand qd _ _ | .por qd _ _ | .pxor qd _ _ | .pandn qd _ _ | .pnot qd _ | .pmov qd _ | .pset qd | .pclr qd => some qd
  | _ => none

/-- The float instructions that write one general register and fflags (13 R258, R259, R261). -/
def floatReg (i : Instr) : Option Reg :=
  match i with
  | .fadd _ rd _ _ | .fsub _ rd _ _ | .fmul _ rd _ _ | .fdiv _ rd _ _ | .fmin _ rd _ _ | .fmax _ rd _ _ => some rd
  | .fsqrt _ rd _ | .fabs _ rd _ | .fneg _ rd _ | .fma _ rd _ _ _ | .fnma _ rd _ _ _ => some rd
  | .cvtfi _ rd _ | .cvtif _ rd _ | .cvtfb _ rd _ | .cvtbf _ rd _ | .cvtfh _ rd _ | .cvthf _ rd _ => some rd
  | _ => none

/-- The float compares, which write one predicate and fflags (13 R260). -/
def floatPred (i : Instr) : Option Pred :=
  match i with
  | .feq qd _ _ | .flt qd _ _ | .fle qd _ _ | .funo qd _ _ => some qd
  | _ => none

/-- Two threads have the same predicates but for `qd`. -/
def SamePredsBut (qd : Pred) (a b : Thread) : Prop := ∀ q, q ≠ qd → b.pred q = a.pred q

end Sys2Proof.Machine
end

