-- ==== Sys2Proof/Certificates/Slice0/Obligations.lean ====
section
/-!
DEFINITION. The statements for the provers: what the spec's rules say of encodings, instructions, traps, memory, engines
and events, as propositions about `exec`, `step` and `decode`.
-/
open Sys2Proof Sys2Proof.Machine

/-! ### Encoding and decoding (chapter 12) -/

/-- 12 R236, R238 to R242 and the members' tables: every well-formed instruction, with every operand at every value its encoding admits,
decodes back from its own head and tail. -/
def Obligations.DecodeOfEncode : Prop :=
  ∀ (i : Instr) (c : Code), i.wf = true → encode i = some c → decode c.head c.tail = .instr i
/-- 12 R240 to R242: decoding gives only well-formed instructions, and drops no bit of them: a head and a tail of its length that decode
to an instruction are exactly the ones that encode it, so no two words mean the same and no must-be-zero bit is let through. -/
def Obligations.EncodeOfDecode : Prop :=
  ∀ (head tail : Nat) (i : Instr), head < 2 ^ 16 → tail < 2 ^ (16 * tailLen head) → decode head tail = .instr i →
    i.wf = true ∧ ∃ c, encode i = some c ∧ c.head = head ∧ c.tail = tail
/-- 12 R238 to R244: the five words of the spec's worked example, words written out from the fields of a row of each tail format (TL, OP, D, S
of the head; A, B, C, E, F, I of the tail), and one word for each refusal of R240 in its order. -/
def Obligations.SpecWords : Prop :=
  let head (tl op d s : Nat) : Nat := tl * 2 ^ 14 + op * 2 ^ 8 + d * 2 ^ 3 + s
  let tr (a b f : Nat) : Nat := a * 2 ^ 11 + b * 2 ^ 6 + f
  let td (a b f i : Nat) : Nat := a * 2 ^ 27 + b * 2 ^ 22 + f * 2 ^ 16 + i
  let tq (a b c e f i : Nat) : Nat := a * 2 ^ 59 + b * 2 ^ 54 + c * 2 ^ 49 + e * 2 ^ 44 + f * 2 ^ 38 + i
  decode 0xC430 0x0000000123456789 = .instr (.li64 6 0x123456789) ∧ decode 0x604E 0x6010 = .instr (.ldDTi 9 12 16)
  ∧ decode 0xA14E 0x21400008 = .instr (.stDTd 9 4 5 8) ∧ decode 0x4712 0x49C0 = .instr (.cmpLt 2 9 7)
  ∧ decode 0x5110 0xFFE2 = .instr (.bt 2 { l := -1, h := 2 })
  ∧ decode (head 0 0x01 7 4) 0 = .instr (.trap 7) ∧ decode (head 1 0x02 3 1) (tr 4 5 1) = .instr (.sub true 3 4 5)
  ∧ decode (head 1 0x03 31 0) (9 * 2 ^ 11 + 0x7FF) = .instr (.addi 31 9 (-1))
  ∧ decode (head 1 0x23 8 5) (tr 9 10 9) = .instr (.amocas { d := true, aq := false, rl := true } 8 9 10)
  ∧ decode (head 2 0x28 0 0) (td 4 5 3 0xBEEF) = .instr (.send 4 5 3 0xBEEF)
  ∧ decode (head 3 0x30 4 1) (tq 1 2 3 0 0 0x25) = .instr (.vadd { ts := 4, td := 5, rm := 1, sc := true, sat := false, a := 1, b := 2, c := 3, e := 0 })
  ∧ decode 0 0 = .bad (.illegal 4) ∧ decode (head 0 0x19 0 0) 0 = .bad (.illegal 0) ∧ decode (head 0 0x01 0 7) 0 = .bad (.illegal 2)
  ∧ decode (head 3 0x20 9 6) 0 = .bad (.illegal 3) ∧ decode (head 1 0x02 3 2) (tr 4 5 21) = .bad (.illegal 1)
  ∧ decode 0x4712 0x49C1 = .bad .reserved ∧ decode 0xC431 0 = .bad .reserved
/-! ### Steps, reset and what every step keeps (chapters 6, 9, 12) -/

/-- 06 R117, 12 R240, 14 R273: in a turn of a tile whose thread can issue and holds no fault to take first, in a core that does not hang, `step` is `exec` of the instruction its fetch decoded, the line used
most recently and the cursor at the thread; a head that does not decode traps with xval its offset; a
turn that a YIELD gave up only passes. -/
def Obligations.StepRunsDecoded : Prop :=
  ∀ (s : State) (k : TileId) (ks : List TileId) (l : ICLine) (nh head tail : Nat),
    let j := (s.tile k).r.turnSlot
    let th := s.thr k j
    let s' : State := { s with turns := ks }
    let u := s'.atHead k j l nh
    let traps (code detail : Nat) : Prop := step s = .next (u.trapAt k j th.pc (causeOf code detail false) th.pc)
    s.dev.boot ≠ .halted → State.dueWith State.run s 0 = none → s.turns = k :: ks → (s.tile k).ready j = true →
    (s.tile k).r.hung = false → th.fault = none →
    (th.skip = true → step s = .next (s'.setThr k j { th with skip := false }))
    ∧ (th.skip = false → (s.tile k).fetch th.lix th.pc = .head l nh head tail →
        (∀ i, decode head tail = .instr i → i.wf = true → step s = exec i u)
        ∧ (∀ n, decode head tail = .bad (.illegal n) → traps 0x01 n) ∧ (decode head tail = .bad .reserved → traps 0x05 0xFF))
/-- 09 R182, R197, R198, 12 R232 to R237: the checks of a fetch in their order, each with its trap, xpc the offset fetched and xval the offset the
thread came from: CODE_BOUND, a miss that parks the thread and asks for the line, ILLEGAL_LINE 1 to 3, ILLEGAL_TARGET 1 to 3; a head that
passes them is its halfword of the line with the tail that its place gives. -/
def Obligations.FetchChecks : Prop :=
  ∀ (s : State) (k : TileId) (ks : List TileId),
    let j := (s.tile k).r.turnSlot
    let th := s.thr k j
    let s' : State := { s with turns := ks }
    let line := th.pc.toNat / 64 * 64
    let h := th.pc.toNat / 2 % 32
    let bound := (s.tile k).launchOf th.lix
    let faults (code detail : Nat) : Prop := step s = .next (s'.trapFrom k j th.pc (causeOf code detail false) th.via th.atHandler)
    s.dev.boot ≠ .halted → State.dueWith State.run s 0 = none → s.turns = k :: ks → (s.tile k).ready j = true →
    (s.tile k).r.hung = false → th.fault = none → th.skip = false →
    (bound.limit.toNat ≤ line → faults 0x04 0)
    ∧ (line < bound.limit.toNat → (s.tile k).cached th.lix.toNat line = none → ∃ t, step s = .next t
        ∧ (∃ p, (t.thr k j).park = some p ∧ p.why = .icache line) ∧ (th.lix.toNat, line) ∈ (t.tile k).c.fills
        ∧ ((th.lix.toNat, line) ∉ (s.tile k).c.fills → t.Leaving k .icacheFill (.line k th.lix.toNat line)))
    ∧ ∀ l, line < bound.limit.toNat → (s.tile k).cached th.lix.toNat line = some l →
        let half (i : Nat) : Nat := (l.halves.getD i 0).toNat
        let n := half 0 / 2048
        let tails (m : Nat) : Nat := ((List.range m).map (fun i => [0, 1, 2, 4].getD (half (i + 1) / 2 ^ 14) 0)).sum
        (n = 0 → faults 0x02 1) ∧ (n ≠ 0 → half 0 % 2048 ≠ 0 → faults 0x02 2)
        ∧ (n ≠ 0 → half 0 % 2048 = 0 → 32 < 1 + n + tails n → faults 0x02 3)
        ∧ (n ≠ 0 → half 0 % 2048 = 0 → 1 + n + tails n ≤ 32 →
            (h = 0 → faults 0x03 1) ∧ (n < h → faults 0x03 2) ∧ (h ≠ 0 → h ≤ n → th.pc.getLsbD 0 = true → faults 0x03 3)
            ∧ (h ≠ 0 → h ≤ n → th.pc.getLsbD 0 = false → ∃ tail, (s.tile k).fetch th.lix th.pc = .head l n (half h) tail
                ∧ ∀ i, i < [0, 1, 2, 4].getD (half h / 2 ^ 14) 0 → tail / 2 ^ (16 * i) % 2 ^ 16 = half (32 - tails h + i)))
/-- 01 R23, 09 R180, R201: the machine never stops but after a failed boot test: every step of a machine that boot has not halted leads to a
next state, whatever the instruction, its operands and its mode; a halted one does nothing more. -/
def Obligations.NeverStops : Prop :=
  ∀ s : State, (s.dev.boot ≠ .halted → ∃ t, step s = .next t) ∧ (s.dev.boot = .halted → step s = .fault .bootHalted)
/-- Every step keeps the canonical form of the cellar and the host memory (00 R2, log 2): addresses rising, no byte listed that an unlisted
address reads as, so that equal memories are equal lists. -/
def Obligations.StepKeepsMemoryForm : Prop := ∀ s t : State, s.bulkWf → step s = .next t → t.bulkWf
/-- 03 R57, 13 R271, 05 R93, 06 R132, 04 R85, 17 R366: what the machine holds at reset, and a thread at its launch: seeds in g1 to g6, ordinal, launch id,
stack pointer, every other register 0, all full; the CSRs at the values R271 gives. Values the spec gives no reset are the model's (log 1). -/
def Obligations.ResetState : Prop :=
  State.reset.memWf ∧ State.reset.dev.boot = .off ∧ State.reset.dev.coldefer = 10000000 ∧ State.reset.dev.reserve = 256
  ∧ (∀ k, let c := (State.reset.tile k).c
      (c.migretry, c.migback, c.coltimeo, c.redlimit, c.ivlen, c.ovf, c.inv) = (16, 256, 0x2000000, 4096, 0x200000, 0, false)
      ∧ (∀ j, (State.reset.tile k).slot j = none) ∧ ∀ a, State.reset.poolByte k a = 0)
  ∧ ∀ pc seeds ord lid sp lim home h lix, seeds.length = 6 →
      let th := launchThread pc seeds ord lid sp lim home h lix
      (∀ i, i < 6 → th.reg (Fin.ofNat 32 (i + 1)) = seeds.getD i 0)
      ∧ th.reg 7 = BitVec.ofNat 64 ord ∧ th.reg 8 = lid.setWidth 64 ∧ th.reg 29 = sp
      ∧ (∀ r : Reg, r.val = 0 ∨ 9 ≤ r.val ∧ r.val ≠ 29 → th.reg r = 0) ∧ (∀ r, th.isFull r = true) ∧ th.pc = pc ∧ th.splim = lim
      ∧ (th.pw, th.vlen, th.frm, th.fflags, th.xlvl, th.pix) = (0, 0, 0, 0, 0, 0)
      ∧ (th.blim, th.fetimeo, th.feretry, th.sndretry) = (0x7F800000, 0x1000000, 64, 256)
/-! ### The scalar core (chapter 13) -/

/-- 13 R248: each ALU member's result, at 64 bits and under .W, as integers. Counts are the low 6 bits of b, 5 under .W. -/
def Obligations.AluResults : Prop :=
  ∀ (s : State) (d a b : Reg), s.Readable [a, b] →
    AluGives (fun w => .add w d a b) s d (s.me.reg a) (s.me.reg b) (fun n x y r => r.toNat = (x.toNat + y.toNat) % 2 ^ n)
    ∧ AluGives (fun w => .sub w d a b) s d (s.me.reg a) (s.me.reg b) (fun n x y r => r.toNat = (2 ^ n + x.toNat - y.toNat) % 2 ^ n)
    ∧ AluGives (fun w => .mul w d a b) s d (s.me.reg a) (s.me.reg b) (fun n x y r => r.toNat = x.toNat * y.toNat % 2 ^ n)
    ∧ AluGives (fun w => .mulh w d a b) s d (s.me.reg a) (s.me.reg b) (fun n x y r => r.toInt = x.toInt * y.toInt / 2 ^ n)
    ∧ AluGives (fun w => .mulhu w d a b) s d (s.me.reg a) (s.me.reg b) (fun n x y r => r.toNat = x.toNat * y.toNat / 2 ^ n)
    ∧ AluGives (fun w => .div w d a b) s d (s.me.reg a) (s.me.reg b) (fun n x y r =>
        (y = 0 → r = BitVec.allOnes n) ∧ (x = BitVec.intMin n ∧ y.toInt = -1 → r = BitVec.intMin n)
        ∧ (y ≠ 0 ∧ ¬ (x = BitVec.intMin n ∧ y.toInt = -1) → r.toInt = x.toInt.tdiv y.toInt))
    ∧ AluGives (fun w => .divu w d a b) s d (s.me.reg a) (s.me.reg b) (fun n x y r =>
        (y = 0 → r = BitVec.allOnes n) ∧ (y ≠ 0 → r.toNat = x.toNat / y.toNat))
    ∧ AluGives (fun w => .rem w d a b) s d (s.me.reg a) (s.me.reg b) (fun n x y r =>
        (y = 0 → r = x) ∧ (x = BitVec.intMin n ∧ y.toInt = -1 → r = 0) ∧ (y ≠ 0 → r.toInt = x.toInt.tmod y.toInt))
    ∧ AluGives (fun w => .remu w d a b) s d (s.me.reg a) (s.me.reg b) (fun _ x y r =>
        (y = 0 → r = x) ∧ (y ≠ 0 → r.toNat = x.toNat % y.toNat))
    ∧ AluGives (fun w => .and w d a b) s d (s.me.reg a) (s.me.reg b) (fun n x y r =>
        ∀ i < n, r.getLsbD i = (x.getLsbD i && y.getLsbD i))
    ∧ AluGives (fun w => .or w d a b) s d (s.me.reg a) (s.me.reg b) (fun n x y r =>
        ∀ i < n, r.getLsbD i = (x.getLsbD i || y.getLsbD i))
    ∧ AluGives (fun w => .xor w d a b) s d (s.me.reg a) (s.me.reg b) (fun n x y r =>
        ∀ i < n, r.getLsbD i = (x.getLsbD i != y.getLsbD i))
    ∧ AluGives (fun w => .andn w d a b) s d (s.me.reg a) (s.me.reg b) (fun n x y r =>
        ∀ i < n, r.getLsbD i = (x.getLsbD i && !y.getLsbD i))
    ∧ AluGives (fun w => .shl w d a b) s d (s.me.reg a) (s.me.reg b) (fun n x y r => r.toNat = x.toNat * 2 ^ (y.toNat % n) % 2 ^ n)
    ∧ AluGives (fun w => .shr w d a b) s d (s.me.reg a) (s.me.reg b) (fun n x y r => r.toNat = x.toNat / 2 ^ (y.toNat % n))
    ∧ AluGives (fun w => .sar w d a b) s d (s.me.reg a) (s.me.reg b) (fun n x y r => r.toInt = x.toInt / 2 ^ (y.toNat % n))
    ∧ AluGives (fun w => .rot w d a b) s d (s.me.reg a) (s.me.reg b) (fun n x y r =>
        ∀ i < n, r.getLsbD i = x.getLsbD ((i + y.toNat % n) % n))
    ∧ AluGives (fun w => .min w d a b) s d (s.me.reg a) (s.me.reg b) (fun _ x y r => r.toInt = min x.toInt y.toInt)
    ∧ AluGives (fun w => .max w d a b) s d (s.me.reg a) (s.me.reg b) (fun _ x y r => r.toInt = max x.toInt y.toInt)
    ∧ AluGives (fun w => .minu w d a b) s d (s.me.reg a) (s.me.reg b) (fun _ x y r => r.toNat = min x.toNat y.toNat)
    ∧ AluGives (fun w => .maxu w d a b) s d (s.me.reg a) (s.me.reg b) (fun _ x y r => r.toNat = max x.toNat y.toNat)
/-- 13 R249, R250: ALUI with a sign-extended 11-bit immediate, the three shifts by a 6-bit count, and LI in its five
forms. -/
def Obligations.ImmediateResults : Prop :=
  ∀ (s : State) (d a : Reg) (i : BitVec 11) (n : BitVec 6) (i16 : BitVec 16) (i32 : BitVec 32) (i64 : BitVec 64),
    (s.Readable [a] →
      Gives (.addi d a i) s d (fun r => (r.toInt - ((s.me.reg a).toInt + i.toInt)) % 2 ^ 64 = 0)
      ∧ Gives (.andi d a i) s d (fun r => ∀ j < 64, r.getLsbD j = ((s.me.reg a).getLsbD j && i.getLsbD (min j 10)))
      ∧ Gives (.ori d a i) s d (fun r => ∀ j < 64, r.getLsbD j = ((s.me.reg a).getLsbD j || i.getLsbD (min j 10)))
      ∧ Gives (.xori d a i) s d (fun r => ∀ j < 64, r.getLsbD j = ((s.me.reg a).getLsbD j != i.getLsbD (min j 10)))
      ∧ Gives (.shli d a n) s d (fun r => r.toNat = (s.me.reg a).toNat * 2 ^ n.toNat % 2 ^ 64)
      ∧ Gives (.shri d a n) s d (fun r => r.toNat = (s.me.reg a).toNat / 2 ^ n.toNat)
      ∧ Gives (.sari d a n) s d (fun r => r.toInt = (s.me.reg a).toInt / 2 ^ n.toNat)
      ∧ Gives (.muli d a i) s d (fun r => (r.toInt - (s.me.reg a).toInt * i.toInt) % 2 ^ 64 = 0))
    ∧ Gives (.li16 false d i16) s d (fun r => r.toInt = i16.toInt)
    ∧ Gives (.li16 true d i16) s d (fun r => r.toNat = i16.toNat)
    ∧ Gives (.li32 false d i32) s d (fun r => r.toInt = i32.toInt)
    ∧ Gives (.li32 true d i32) s d (fun r => r.toNat = i32.toNat)
    ∧ Gives (.li64 d i64) s d (fun r => r = i64)
/-- 13 R251, R252: UNARY and BITF, bit by bit. -/
def Obligations.UnaryResults : Prop :=
  ∀ (s : State) (d a : Reg) (sz : Fin 3) (p l : BitVec 6), s.Readable [a] →
    Sets (.mov d a) s d (s.me.reg a)
    ∧ Gives (.neg d a) s d (fun r => (r.toNat + (s.me.reg a).toNat) % 2 ^ 64 = 0)
    ∧ Gives (.not d a) s d (fun r => ∀ i < 64, r.getLsbD i = !(s.me.reg a).getLsbD i)
    ∧ Gives (.clz d a) s d (fun r => r.toNat ≤ 64 ∧ (∀ i < 64, 64 ≤ i + r.toNat → (s.me.reg a).getLsbD i = false)
        ∧ (r.toNat < 64 → (s.me.reg a).getLsbD (63 - r.toNat) = true))
    ∧ Gives (.ctz d a) s d (fun r => r.toNat ≤ 64 ∧ (∀ i < r.toNat, (s.me.reg a).getLsbD i = false)
        ∧ (r.toNat < 64 → (s.me.reg a).getLsbD r.toNat = true))
    ∧ Gives (.popc d a) s d (fun r => r.toNat = ((List.range 64).filter (fun i => (s.me.reg a).getLsbD i)).length)
    ∧ Gives (.sext sz d a) s d (fun r => ∀ i < 64, r.getLsbD i = (s.me.reg a).getLsbD (min i (8 * 2 ^ sz.val - 1)))
    ∧ Gives (.zext sz d a) s d (fun r => r.toNat = (s.me.reg a).toNat % 2 ^ (8 * 2 ^ sz.val))
    ∧ (p.toNat + fieldLen l ≤ 64 →
        Gives (.ext d a p l) s d (fun r => ∀ i < 64, r.getLsbD i = (s.me.reg a).getLsbD (p.toNat + min i (fieldLen l - 1)))
        ∧ Gives (.extu d a p l) s d (fun r => r.toNat = (s.me.reg a).toNat / 2 ^ p.toNat % 2 ^ fieldLen l)
        ∧ (s.Readable [d] → Gives (.ins d a p l) s d (fun r => ∀ i < 64, r.getLsbD i =
            if p.toNat ≤ i ∧ i < p.toNat + fieldLen l then (s.me.reg a).getLsbD (i - p.toNat) else (s.me.reg d).getLsbD i)))
/-- 13 R253: CMP and CMPI write their condition, on integers. -/
def Obligations.CompareResults : Prop :=
  ∀ (s : State) (q : Pred) (a b : Reg) (i : BitVec 11), s.Readable [a] →
    let x := s.me.reg a
    let y := s.me.reg b
    let z : Word := i.signExtend 64
    (s.Readable [b] →
      SetsPred (.cmpEq q a b) s q (decide (x = y)) ∧ SetsPred (.cmpNe q a b) s q (decide (x ≠ y))
      ∧ SetsPred (.cmpLt q a b) s q (decide (x.toInt < y.toInt)) ∧ SetsPred (.cmpGe q a b) s q (decide (y.toInt ≤ x.toInt))
      ∧ SetsPred (.cmpLtu q a b) s q (decide (x.toNat < y.toNat)) ∧ SetsPred (.cmpGeu q a b) s q (decide (y.toNat ≤ x.toNat))
      ∧ SetsPred (.cmpTst q a b) s q (decide (x &&& y ≠ 0)) ∧ SetsPred (.cmpNtst q a b) s q (decide (x &&& y = 0)))
    ∧ SetsPred (.cmpiEq q a i) s q (decide (x.toInt = i.toInt)) ∧ SetsPred (.cmpiNe q a i) s q (decide (x.toInt ≠ i.toInt))
    ∧ SetsPred (.cmpiLt q a i) s q (decide (x.toInt < i.toInt)) ∧ SetsPred (.cmpiGe q a i) s q (decide (i.toInt ≤ x.toInt))
    ∧ SetsPred (.cmpiLtu q a i) s q (decide (x.toNat < z.toNat)) ∧ SetsPred (.cmpiGeu q a i) s q (decide (z.toNat ≤ x.toNat))
    ∧ SetsPred (.cmpiTst q a i) s q (decide (x &&& z ≠ 0)) ∧ SetsPred (.cmpiNtst q a i) s q (decide (x &&& z = 0))
/-- 13 R254, R255, R256: SEL, the predicate logic, and the predicate word. -/
def Obligations.PredicateResults : Prop :=
  ∀ (s : State) (d a b : Reg) (q qa qb : Pred) (hi : Bool),
    let base : Nat := if hi then 8 else 0
    (s.Readable [a, b] → Sets (.sel d q a b) s d (if s.me.pred q then s.me.reg a else s.me.reg b))
    ∧ SetsPred (.pand q qa qb) s q (s.me.pred qa && s.me.pred qb)
    ∧ SetsPred (.por q qa qb) s q (s.me.pred qa || s.me.pred qb)
    ∧ SetsPred (.pxor q qa qb) s q (s.me.pred qa != s.me.pred qb)
    ∧ SetsPred (.pandn q qa qb) s q (s.me.pred qa && !s.me.pred qb)
    ∧ SetsPred (.pnot q qa) s q (!s.me.pred qa) ∧ SetsPred (.pmov q qa) s q (s.me.pred qa)
    ∧ SetsPred (.pset q) s q true ∧ SetsPred (.pclr q) s q false
    ∧ Gives (.ppack d hi) s d (fun r => r.toNat = s.me.pw.toNat / 2 ^ base % 2 ^ 8)
    ∧ Gives (.prd d) s d (fun r => r.toNat = s.me.pw.toNat)
    ∧ (s.Readable [a] →
        (∃ pw : BitVec 16, Retires (.punpack a hi) s { s.me with pw := pw }
          ∧ ∀ i < 16, pw.getLsbD i =
              if base ≤ i ∧ i < base + 8 then (s.me.reg a).getLsbD (i - base) else s.me.pw.getLsbD i)
        ∧ ∃ pw : BitVec 16, Retires (.pwr a) s { s.me with pw := pw } ∧ pw.toNat = (s.me.reg a).toNat % 2 ^ 16)
/-- 13 R257 to R261: every float instruction completes with the model's result of its operands' low 32 bits, its flags added to
fflags and never cleared. S = 4 selects frm; FMIN, FMAX, FABS, FNEG, CVTBF, CVTHF and FCLASS ignore S. -/
def Obligations.FloatResults : Prop :=
  ∀ (s : State) (rm : Fin 5) (d a b c : Reg) (q : Pred),
    let md := Mode.of (if rm.val < 4 then rm.val else s.me.frm.toNat)
    let bits (r : Reg) : Nat := (s.me.reg r).toNat % 2 ^ 32
    let x := f32.decode (bits a)
    let y := f32.decode (bits b)
    let z := f32.decode (bits c)
    let test (i : Instr) (r : Bool × BitVec 5) : Prop := Retires i s ((s.me.setPred q r.1).raise r.2)
    (s.Readable [a, b] →
      SetsFloat (.fadd rm d a b) s d (fpAdd md x y) ∧ SetsFloat (.fsub rm d a b) s d (fpSub md x y)
      ∧ SetsFloat (.fmul rm d a b) s d (fpMul md x y) ∧ SetsFloat (.fdiv rm d a b) s d (fpDiv md x y)
      ∧ SetsFloat (.fmin rm d a b) s d (fpPick FVal.min (bits a) (bits b))
      ∧ SetsFloat (.fmax rm d a b) s d (fpPick FVal.max (bits a) (bits b))
      ∧ test (.feq q a b) (fpEq x y) ∧ test (.flt q a b) (fpLt x y) ∧ test (.fle q a b) (fpLe x y)
      ∧ test (.funo q a b) (fpUn x y))
    ∧ (s.Readable [a, b, c] →
      SetsFloat (.fma rm d a b c) s d (fpFma md false x y z) ∧ SetsFloat (.fnma rm d a b c) s d (fpFma md true x y z))
    ∧ (s.Readable [a] →
      SetsFloat (.fsqrt rm d a) s d (fpSqrt md x)
      ∧ SetsFloat (.fabs rm d a) s d (fpSign (fun v => v % 2 ^ 31) (bits a))
      ∧ SetsFloat (.fneg rm d a) s d (fpSign (fun v => (v + 2 ^ 31) % 2 ^ 32) (bits a))
      ∧ Retires (.cvtfi rm d a) s ((s.me.setReg d (fpToInt md x).1).raise (fpToInt md x).2)
      ∧ SetsFloat (.cvtif rm d a) s d (ieeeOf f32 md (FVal.ofInt (s.me.reg a).toInt 0))
      ∧ SetsFloat (.cvtfb rm d a) s d (fpConvert bf16 md x) ∧ SetsFloat (.cvtfh rm d a) s d (fpConvert f16 md x)
      ∧ SetsFloat (.cvtbf rm d a) s d (fpConvert f32 .rne (bf16.decode ((s.me.reg a).toNat % 2 ^ 16)))
      ∧ SetsFloat (.cvthf rm d a) s d (fpConvert f32 .rne (f16.decode ((s.me.reg a).toNat % 2 ^ 16)))
      ∧ Sets (.fclass rm d a) s d (BitVec.ofNat 64 (2 ^ fpClass (bits a))))
/-- 13 R257 to R260: NaN operands give 0x7FC00000 with nv for a signalling one; FMIN and FMAX give the other operand beside
one NaN; a finite non-zero value by zero is an infinity with dz; the root of a negative value and Inf · 0 are invalid; compares
of a NaN are false.

10 R206: the four modes. A magnitude m · 2^e cut to a multiple of 2^q, q above e, is rounded to the nearest multiple with
ties to even, toward zero, up or down; it is inexact exactly when something was cut off. -/
def Obligations.FloatSpecialCases : Prop :=
  (∀ (s : State) (rm : Fin 5) (d a b c : Reg) (q : Pred), s.Readable [a, b, c] →
     let bits (r : Reg) : Nat := (s.me.reg r).toNat % 2 ^ 32
     let x := f32.decode (bits a)
     let y := f32.decode (bits b)
     let nan (nv : Bool) : FRes := { bits := 0x7FC00000, flags := if nv then 16 else 0 }
     (x.isNan = true ∨ y.isNan = true →
       SetsFloat (.fadd rm d a b) s d (nan (x.isSig || y.isSig)) ∧ SetsFloat (.fsub rm d a b) s d (nan (x.isSig || y.isSig))
       ∧ SetsFloat (.fmul rm d a b) s d (nan (x.isSig || y.isSig)) ∧ SetsFloat (.fdiv rm d a b) s d (nan (x.isSig || y.isSig))
       ∧ Retires (.feq q a b) s ((s.me.setPred q false).raise (if x.isSig || y.isSig then 16 else 0))
       ∧ Retires (.flt q a b) s ((s.me.setPred q false).raise 16) ∧ Retires (.fle q a b) s ((s.me.setPred q false).raise 16)
       ∧ Retires (.funo q a b) s ((s.me.setPred q true).raise (if x.isSig || y.isSig then 16 else 0)))
     ∧ (x.isNan = true → y.isNan = false → ∀ r : FRes, r = { bits := bits b, flags := if x.isSig then 16 else 0 } →
       SetsFloat (.fmin rm d a b) s d r ∧ SetsFloat (.fmax rm d a b) s d r)
     ∧ (x.isNan = true →
       SetsFloat (.fsqrt rm d a) s d (nan x.isSig) ∧ SetsFloat (.fabs rm d a) s d (nan x.isSig)
       ∧ SetsFloat (.fneg rm d a) s d (nan x.isSig) ∧ Retires (.cvtfi rm d a) s ((s.me.setReg d 0).raise 16))
     ∧ (∀ n e neg, x = .num n e → y = .zero neg →
       SetsFloat (.fdiv rm d a b) s d { bits := if decide (n < 0) != neg then 0xFF800000 else 0x7F800000, flags := 8 })
     ∧ (∀ n e, x = .num n e → n < 0 → SetsFloat (.fsqrt rm d a) s d (nan true))
     ∧ (∀ neg neg', x = .inf neg → y = .zero neg' →
       SetsFloat (.fma rm d a b c) s d (nan true) ∧ SetsFloat (.fnma rm d a b c) s d (nan true)
       ∧ SetsFloat (.fmul rm d a b) s d (nan true)))
  ∧ (∀ (neg : Bool) (m k : Nat) (e : Int), 0 < k →
     let r (md : Mode) : Nat := (roundAt md neg m e (e + k) false).1
     (2 * r .rne * 2 ^ k ≤ 2 * m + 2 ^ k ∧ 2 * m ≤ 2 * r .rne * 2 ^ k + 2 ^ k)
     ∧ (2 * r .rne * 2 ^ k = 2 * m + 2 ^ k ∨ 2 * m = 2 * r .rne * 2 ^ k + 2 ^ k → r .rne % 2 = 0)
     ∧ r .rtz = m / 2 ^ k
     ∧ r .rup = (if neg then m / 2 ^ k else (m + 2 ^ k - 1) / 2 ^ k)
     ∧ r .rdn = (if neg then (m + 2 ^ k - 1) / 2 ^ k else m / 2 ^ k)
     ∧ ∀ md, (roundAt md neg m e (e + k) false).2 = decide (m % 2 ^ k ≠ 0))

/-! ### Control and status registers -/

/-- 13 R269, R270: a number from 0x400 on is PRIV 2, an unassigned one ILLEGAL 6, a write of a read-only or firmware register
PRIV 1, all before a source register is looked at; CSRS and CSRC with g0 write nothing. Otherwise rd gets the old value, and a
write leaves what the register keeps of the new one. A CSRR of time returns device time and leaves a record.

What a writable CSR reads after a write of v: pix, frm, fflags, blim and the stack limits keep their fields; vlen stops at
2^20 − 1; frm ignores 4 to 7; limits are brought into their range (log 18); estat's inv is cleared by writing one; xpc and xvec
have no bit 0. -/
def Obligations.CsrAccess : Prop :=
  (∀ (s : State) (d a : Reg) (csr : BitVec 11),
     let n := csr.toNat
     let old := s.here.csr s.cur.tile s.me n
     let readOnly := n ∈ [0x00, 0x01, 0x02, 0x07, 0x08, 0x09, 0x0B, 0x0F, 0x16, 0x17, 0x19, 0x27]
     let assigned := n ≤ 0x1A ∨ (0x20 ≤ n ∧ n ≤ 0x27) ∨ (0x30 ≤ n ∧ n ≤ 0x35)
     let all (P : Instr → Prop) := P (.csrr d csr) ∧ P (.csrw d a csr) ∧ P (.csrs d a csr) ∧ P (.csrc d a csr)
     let writes (i : Instr) (v : Word) := exec i s = .next ((s.setCtx s.cur.tile (s.here.c.csrWrite n v)).setMe
       (((s.me.csrWrite n v).setReg d old).retire s.cur.nh))
     (0x400 ≤ n → all (fun i => Traps i s 0x06 2 (csr.setWidth 64)))
     ∧ (n < 0x400 → ¬ assigned → all (fun i => Traps i s 0x01 6 s.me.pc))
     ∧ (assigned → readOnly → Traps (.csrw d a csr) s 0x06 1 (csr.setWidth 64)
         ∧ (a ≠ 0 → Traps (.csrs d a csr) s 0x06 1 (csr.setWidth 64) ∧ Traps (.csrc d a csr) s 0x06 1 (csr.setWidth 64)))
     ∧ (assigned → n ≠ 2 → Sets (.csrr d csr) s d old ∧ Sets (.csrs d 0 csr) s d old ∧ Sets (.csrc d 0 csr) s d old)
     ∧ (assigned → ¬ readOnly → s.Readable [a] →
         writes (.csrw d a csr) (s.me.reg a)
         ∧ (a ≠ 0 → writes (.csrs d a csr) (old ||| s.me.reg a) ∧ writes (.csrc d a csr) (old &&& ~~~(s.me.reg a))))
     ∧ (n = 2 → s.here.r.replay = false → s.here.r.logFull = false → Completes (.csrr d csr) s fun t =>
         t.me = (s.me.setReg d (BitVec.ofNat 64 s.ns)).retire s.cur.nh
         ∧ ∃ r, t.here.r.log = s.here.r.log ++ [r] ∧ r.kind = 0x15 ∧ r.val = BitVec.ofNat 64 s.ns))
  ∧ (∀ (s : State) (a : Reg) (csr : BitVec 11) (r : Nat), s.Readable [a] →
     let v := (s.me.reg a).toNat
     let old := (s.here.csr s.cur.tile s.me csr.toNat).toNat
     let within (lo hi x : Nat) : Nat := max lo (min hi x)
     (csr, r) ∈ ([(0x003, v % 2 ^ 20), (0x004, min v (2 ^ 20 - 1)), (0x005, if v % 8 < 4 then v % 8 else old), (0x006, v % 32),
       (0x00A, v % 2 ^ 32), (0x00C, v), (0x00D, v / 16 * 16 + v % 2), (0x00E, v / 16 * 16),
       (0x010, within (2 ^ 10) (2 ^ 32) (v % 2 ^ 33)), (0x011, within 1 255 (v % 2 ^ 8)), (0x012, within 1 65535 (v % 2 ^ 16)),
       (0x013, within 1 255 (v % 2 ^ 8)), (0x014, within (2 ^ 10) (2 ^ 32) (v % 2 ^ 33)), (0x015, within 16 (2 ^ 24) (v % 2 ^ 24)),
       (0x018, within 16 (2 ^ 16) (v % 2 ^ 17)), (0x01A, v % 2 ^ 16 + (if v / 2 ^ 16 % 2 = 1 then 0 else old / 2 ^ 16 * 2 ^ 16)),
       (0x020, v % 2 ^ 32 / 2 * 2), (0x021, v % 2 ^ 17), (0x022, v), (0x023, v % 2 ^ 20), (0x024, v % 2 ^ 16),
       (0x026, v % 2 ^ 32 / 2 * 2), (0x030, v % 2 ^ 32 / 2 * 2), (0x031, v % 2 ^ 17), (0x032, v), (0x033, v % 2 ^ 20),
       (0x034, v % 2 ^ 16)] : List (BitVec 11 × Nat)) →
     Completes (.csrw 0 a csr) s fun t => (t.here.csr t.cur.tile t.me csr.toNat).toNat = r)

/-! ### Control transfer, loops, traps (chapters 13, 9) -/

/-- 13 R262, R265: the transfers. A taken BR, BC or JR unwinds the loop stack; CALL and CALLR write the link and leave it
alone; RET to 0 ends the thread. A condition is a predicate, or for selectors 16 to 31 whether that mailbox less 16 of the
thread's tile holds a message.

13 R263: the end step, entry by entry. -/
def Obligations.ControlTransfers : Prop :=
  (∀ (s : State) (tg : Target) (sel : Fin 32) (r : Reg),
     let th := s.me
     let dest := targetOf th.pc tg
     let next := nextOf s.cur.nh th.pc
     Jumps (.br tg) s { th with loops := unwound dest th.loops } dest
     ∧ (s.condition th sel = true → Jumps (.bt sel tg) s { th with loops := unwound dest th.loops } dest
         ∧ Retires (.bf sel tg) s th)
     ∧ (s.condition th sel = false → Jumps (.bf sel tg) s { th with loops := unwound dest th.loops } dest
         ∧ Retires (.bt sel tg) s th)
     ∧ Jumps (.call tg) s (th.setReg 30 next) dest
     ∧ (s.Readable [r] →
         Jumps (.jr r) s { th with loops := unwound (th.reg r) th.loops } (th.reg r)
         ∧ Jumps (.callr r) s (th.setReg 30 next) (th.reg r))
     ∧ (s.Readable [30] →
         (th.reg 30 ≠ 0 → Jumps .ret s th (th.reg 30)) ∧ (th.reg 30 = 0 → Ends .ret s))
     ∧ ∀ n : Fin 16, s.condition th (Fin.ofNat 32 n.val) = th.pw.getLsbD n.val
         ∧ s.condition th (Fin.ofNat 32 (n.val + 16)) = !(s.here.c.mail[n]).isEmpty)
  ∧ (∀ (th : Thread) (nh : Nat),
     ((∀ e ∈ th.loops.head?, e.stop.setWidth 64 ≠ th.pc) →
       (th.retire nh).pc = nextOf nh th.pc ∧ (th.retire nh).loops = th.loops)
     ∧ ∀ e es, th.loops = e :: es → e.stop.setWidth 64 = th.pc →
         (e.count ≠ 1 → (th.retire nh).pc = e.start.setWidth 64
           ∧ (th.retire nh).loops = { e with count := e.count - 1 } :: es)
         ∧ (e.count = 1 → (th.retire nh).pc = (({ th with loops := es } : Thread).retire nh).pc
           ∧ (th.retire nh).loops = (({ th with loops := es } : Thread).retire nh).loops))

/-- 13 R264, R266, R386: LOOP and LOOPI push an entry, skip a body of count 0, or trap; LEXIT pops and continues after the
entry's end; LIDX and LDEP read the stack. `l` is the cached line that holds the end of the loop. -/
def Obligations.LoopInstructions : Prop :=
  ∀ (s : State) (a d : Reg) (n : BitVec 8) (tg : Target) (l : ICLine),
    let th := s.me
    let next := nextOf s.cur.nh th.pc
    let stop := targetOf th.pc tg
    let count : BitVec 32 := (th.reg a).setWidth 32
    let countI : BitVec 32 := if n = 0 then 256 else BitVec.ofNat 32 n.toNat
    let good := tg.h ≠ 0 ∧ next.toInt ≤ stop.toInt
    let entered (p : Word) := s.here.enterLine th.lix p = .line l ∧ headCheck (lineNH l.halves) p = none
    let entry (c : BitVec 32) : LoopEntry := { start := next.setWidth 32, stop := stop.setWidth 32, count := c }
    (good → th.loops.length < 4 →
      Retires (.loopi n tg) s { th with loops := entry countI :: th.loops }
      ∧ (s.Readable [a] → count ≠ 0 → Retires (.loop a tg) s { th with loops := entry count :: th.loops }))
    ∧ (good → 4 ≤ th.loops.length →
      Traps (.loopi n tg) s 0x12 0 th.pc ∧ (s.Readable [a] → count ≠ 0 → Traps (.loop a tg) s 0x12 0 th.pc))
    ∧ (¬ good → Traps (.loop a tg) s 0x05 0xFF th.pc ∧ Traps (.loopi n tg) s 0x05 0xFF th.pc)
    ∧ (good → s.Readable [a] → count = 0 → entered stop →
        exec (.loop a tg) s = .next ((s.touch s.cur.tile l).setMe (th.jump (nextOf (lineNH l.halves) stop))))
    ∧ (th.loops = [] → Retires .lexit s th)
    ∧ (∀ e es, th.loops = e :: es → entered (e.stop.setWidth 64) →
        exec .lexit s = .next ((s.touch s.cur.tile l).setMe
          (({ th with loops := es } : Thread).jump (nextOf (lineNH l.halves) (e.stop.setWidth 64)))))
    ∧ Sets (.lidx d) s d (match th.loops with | [] => 0 | e :: _ => e.count.setWidth 64)
    ∧ Sets (.ldep d) s d (BitVec.ofNat 64 th.loops.length)
/-- 13 R272, 09 R180, R185: NOP, YIELD, EXIT; BRK and TRAP retire first and then trap, xpc the next head in execution order;
RETT returns through the bank of its level, and is illegal at level 0.

13 R246, 09 R182: an instruction that would read an empty register parks its thread with nothing else changed: the
register forms of the integer unit, of the loads and of the stores as examples of each shape. -/
def Obligations.MiscInstructions : Prop :=
  (∀ (s : State) (n : Fin 32),
     let th := s.me.retire s.cur.nh
     Retires .nop s s.me ∧ Retires .yield s { s.me with skip := true } ∧ Ends .exit s
     ∧ exec .brk s = .next ((s.setMe th).trapAt s.cur.tile s.cur.slot th.pc (causeOf 0x21 0 false) 0)
     ∧ exec (.trap n) s = .next ((s.setMe th).trapAt s.cur.tile s.cur.slot th.pc (causeOf 0x20 n.val false) 0)
     ∧ (s.me.xlvl = 0 → Traps .rett s 0x01 0x05 s.me.pc)
     ∧ (s.me.xlvl ≠ 0 → exec .rett s = .next (s.setMe s.me.leaveTrap)))
  ∧ (∀ (s : State) (w : Bool) (d a b : Reg) (q : Pred) (i : BitVec 11) (i16 : BitVec 16),
     (s.me.isFull a = false ∨ s.me.isFull b = false) →
     let waits (j : Instr) := Waits j s (.empty (s.me.emptyMask [a, b]))
     waits (.add w d a b) ∧ waits (.sel d q a b) ∧ waits (.cmpEq q a b) ∧ waits (.fadd 4 d a b) ∧ waits (.stBTi a b i)
       ∧ waits (.ldDTd d a b i16) ∧ waits (.swapt a b) ∧ waits (.cpy 0 a b false) ∧ waits (.colrun d a b))
/-- 09 R183, R184: what trap entry saves and where it goes, at level 0 with a handler and at level 1; everything else of the
thread stays, and so does the rest of the machine. The saved offset's bit 0 reads 0; `sel` of the bank stays (log 37). cause holds the code, the detail from bit 8, and bit 16 for a deferred fault.

09 R183, R187, R188, R120: a trap at level 2, or at level 0 without a handler, ends its thread; its crash record leaves for the router, with its
causes, offsets and CRC; at the router the record joins the crash area, and its launch is aborted. -/
def Obligations.TrapEntry : Prop :=
  (∀ (s : State) (code detail : Nat) (def_ : Bool) (xpc val : Word),
     let th := s.me
     let t := s.trapAt s.cur.tile s.cur.slot xpc (causeOf code detail def_) val
     let saved (b : Bank) := b.pc = xpc.setWidth 32 &&& ~~~1#32 ∧ b.cause = causeOf code detail def_ ∧ b.val = val
       ∧ b.pix = th.pix ∧ b.pw = th.pw ∧ b.loops = th.loops
     (th.xlvl = 0 → th.xvec ≠ 0 → saved t.me.bankX ∧ t.me.bankY = th.bankY ∧ t.me.xlvl = 1 ∧ t.me.pc = th.xvec.setWidth 64)
     ∧ (th.xlvl = 1 → saved t.me.bankY ∧ t.me.bankX = th.bankX ∧ t.me.xlvl = 2 ∧ t.me.pc = th.xvec.setWidth 64 + 64)
     ∧ (th.atThird = false → t.me.pix = 0 ∧ t.me.loops = [] ∧ t.me.pw = th.pw ∧ t.me.regs = th.regs ∧ t.me.full = th.full
         ∧ t.me.fflags = th.fflags ∧ t.me.frm = th.frm ∧ t.me.vlen = th.vlen ∧ t.me.sig = th.sig ∧ t.me.held = th.held
         ∧ t.me.pkslot = th.pkslot ∧ t.me.xvec = th.xvec ∧ t.me.park = none ∧ SameElsewhere s t)
     ∧ (code < 256 → detail < 256 → (causeOf code detail def_).toNat = code + 256 * detail + 65536 * def_.toNat))
  ∧ ((∀ (s : State) (xpc : Word) (cause : BitVec 17) (val : Word),
     s.me.xlvl = 2 ∨ (s.me.xlvl = 0 ∧ s.me.xvec = 0) →
     let k := s.cur.tile
     let th := s.me
     let two := th.xlvl = 2
     let t := s.trapAt k s.cur.slot xpc cause val
     (s.here.c.guests = [] → (t.tile k).slot s.cur.slot = none)
     ∧ (∃ r : CrashRec, t.Leaving k .launchEnd (.crash (clusterOf k) r s.here.r.ctx) ∧ r.ltn = ltnOf k ∧ r.slot = s.cur.slot.val
         ∧ r.tid = th.tid ∧ r.lid = th.launch ∧ r.lix = th.lix.toNat ∧ r.val = val ∧ r.ivn = s.here.c.ivn ∧ r.nlev = (if two then 3 else 1)
         ∧ r.cause0 = (if two then th.bankX.cause else cause) ∧ r.cause1 = (if two then th.bankY.cause else 0)
         ∧ r.cause2 = (if two then cause else 0) ∧ r.pc0 = (if two then th.bankX.pc else xpc.setWidth 32)
         ∧ r.pc1 = (if two then th.bankY.pc else 0) ∧ r.pc2 = (if two then xpc.setWidth 32 else 0) ∧ r.crc = crc32c r.body)
     ∧ ∃ u, t.Leaving k .launchEnd (.ended k u) ∧ u.tid = th.tid)
   ∧ ∀ (s : State) (cl n : Nat) (r : CrashRec), Happens .launchEnd (.crash cl r n) s fun t =>
       r ∈ (t.cluster cl).crash
       ∧ ∀ l, s.launch? n r.lix = some l → l.lid = r.lid →
           ∃ l', t.launch? n r.lix = some l' ∧ l'.abort.isSome = true)
/-- 09 R183, R185: a RETT undoes the entry of a trap at its thread's offset: pix, predicates, loop stack, level and offset
are those before. -/
def Obligations.ReturnUndoesEntry : Prop :=
  ∀ (th : Thread) (cause : BitVec 17) (val : Word), th.atThird = false → th.xlvl.toNat < 2 →
    th.pc.toNat < 2 ^ 32 → th.pc.getLsbD 0 = false →
    let u := (th.enterTrap th.pc cause val).leaveTrap
    u.pc = th.pc ∧ u.pix = th.pix ∧ u.pw = th.pw ∧ u.loops = th.loops ∧ u.xlvl = th.xlvl ∧ u.regs = th.regs
      ∧ u.full = th.full ∧ u.fflags = th.fflags

/-! ### Memory and synchronisation (chapters 7, 8, 14) -/

/-- 07 R147, R148 checks 1 to 7: the first failing check decides the trap, xval the address; an access that passes goes to the
thread's own tile, a port of its cluster, a tile beyond it, or the gateway. `size` is the access size in bytes.

07 R144, R145: the regions of the pool, from the unit counts of poolcfg: ctx in bits 5 to 0, acc in 13 to 8, mir in 21 to
16, the scratchpad what they leave of 64 units of 4,096 bytes. Codes 0 scratchpad, 1 acc, 2 mir, 3 ctx. -/
def Obligations.AccessChecks : Prop :=
  (∀ (s : State) (k : TileId) (c : Machine.Class) (size : Nat) (a : Word), size ∈ [1, 2, 4, 8] →
     let sp := a.toNat / 2 ^ 60
     let shared := sp = 0 ∧ a.getLsbD 18 = true
     let off := a.toNat % 2 ^ 18
     let t := if sp = 0 then k else if sp = 1 then k / 32 * 32 + a.toNat / 2 ^ 18 % 32
       else k / 2 ^ 18 * 2 ^ 18 + a.toNat / 2 ^ 18 % 2 ^ 18
     let known := sp ∈ [0, 1, 2, 4, 8, 9, 15]
     let named := (shared ∧ a.toNat % 2 ^ 60 - 2 ^ 18 < 64) ∨ (sp = 0 ∧ a.toNat < 2 ^ 18) ∨ (sp = 1 ∧ a.toNat % 2 ^ 60 < 2 ^ 23)
       ∨ (sp = 2 ∧ a.toNat % 2 ^ 60 < 2 ^ 36) ∨ (sp ∈ [4, 8, 9] ∧ a.toNat % 2 ^ 60 < 2 ^ 48) ∨ sp = 15
     let aligned := a.toNat % size = 0 ∧ (shared → c = .amo ∨ size = 8)
     let admits := sp ≠ 9 ∧ (c = .plain ∨ sp ∈ [0, 1, 2, 15])
     let mine := (s.tile k).r.ctx ≠ 0 ∧ (s.tile t).r.ctx = (s.tile k).r.ctx
     let region := regionOf (s.tile k).c.poolcfg off
     let p := s.place k c size false a
     let trap (code detail : Nat) : Place := .trap { code := code, detail := detail, val := a }
     (¬ known → p = trap 0x08 0) ∧ (known → ¬ named → p = trap 0x08 1)
     ∧ (known → named → ¬ aligned → p = trap 0x09 size)
     ∧ (known → named → aligned → ¬ admits → p = trap 0x08 3)
     ∧ (known → named → aligned → admits → c = .amo → shared → p = trap 0x08 4)
     ∧ (known → named → aligned → admits → sp = 15 → p = trap 0x06 0)
     ∧ (known → named → aligned → admits → ¬ (c = .amo ∧ shared) →
         (sp = 4 → p = .gateway false (a.toNat % 2 ^ 48)) ∧ (sp = 8 → p = .gateway true (a.toNat % 2 ^ 48))
         ∧ (shared → p = .here (2 ^ 18 + a.toNat % 64))
         ∧ (sp ∈ [1, 2] → ¬ mine → p = trap 0x08 2)
         ∧ (sp ∈ [0, 1, 2] → ¬ shared → (sp = 0 ∨ mine) →
             (region ≠ 0 → p = trap 0x0A region)
             ∧ (region = 0 → p = if t = k then .here off else if t / 32 = k / 32 then .port t off else .beyond t))))
  ∧ (∀ (cfg : Word) (off : Nat),
     let field (lo : Nat) : Nat := cfg.toNat / 2 ^ lo % 64
     let scr := 64 - field 0 - field 8 - field 16
     field 0 + field 8 + field 16 ≤ 64 →
       (off < scr * 4096 ↔ regionOf cfg off = 0)
       ∧ (regionOf cfg off = 1 ↔ scr * 4096 ≤ off ∧ off < (scr + field 8) * 4096)
       ∧ (regionOf cfg off = 2 ↔ (scr + field 8) * 4096 ≤ off ∧ off < (64 - field 0) * 4096)
       ∧ (regionOf cfg off = 3 ↔ (64 - field 0) * 4096 ≤ off ∧ scr * 4096 ≤ off))

/-- 14 R275, R277: the fourteen loads from the thread's own pool: address of the TI or TD form, value sign- or zero-extended.

14 R278: the eight stores to the thread's own pool: the low bytes of the register land at the address of the form, and no
other byte of any memory changes.

14 R275: the operand's address. The TI form with A = 0 and I from −64 to −1 names byte I + 64 of the shared registers at
0x40000; any other is G[A] + I; the TD form shifts the index by the access size; sums wrap modulo 2^64. -/
def Obligations.PoolAccesses : Prop :=
  (∀ (s : State) (d a b : Reg) (i : BitVec 11) (j : BitVec 16) (off : Nat),
     let ti (n : Nat) (P : Prop) : Prop := s.Readable [a] → s.LocalAt .plain n false (addrTI s.me a i) off → P
     let td (log : Nat) (P : Prop) : Prop :=
       s.Readable [a, b] → s.LocalAt .plain (2 ^ log) false (addrTD s.me a b log j) off → P
     let sx (l : Instr) (n : Nat) : Prop := Gives l s d (fun r => r.toInt = (s.poolNat off n : Int).bmod (2 ^ (8 * n)))
     let zx (l : Instr) (n : Nat) : Prop := Gives l s d (fun r => r.toNat = s.poolNat off n)
     ti 1 (sx (.ldBTi d a i) 1 ∧ zx (.ldBuTi d a i) 1) ∧ ti 2 (sx (.ldHTi d a i) 2 ∧ zx (.ldHuTi d a i) 2)
     ∧ ti 4 (sx (.ldWTi d a i) 4 ∧ zx (.ldWuTi d a i) 4) ∧ ti 8 (zx (.ldDTi d a i) 8)
     ∧ td 0 (sx (.ldBTd d a b j) 1 ∧ zx (.ldBuTd d a b j) 1) ∧ td 1 (sx (.ldHTd d a b j) 2 ∧ zx (.ldHuTd d a b j) 2)
     ∧ td 2 (sx (.ldWTd d a b j) 4 ∧ zx (.ldWuTd d a b j) 4) ∧ td 3 (zx (.ldDTd d a b j) 8))
  ∧ (∀ (s : State) (d a b : Reg) (i : BitVec 11) (j : BitVec 16) (off : Nat), s.captureBusy (off / 64) = false →
     let ti (n : Nat) (l : Instr) : Prop :=
       s.Readable [d, a] → s.LocalAt .plain n false (addrTI s.me a i) off → StoresAt l s off n (s.me.reg d)
     let td (log : Nat) (l : Instr) : Prop :=
       s.Readable [d, a, b] → s.LocalAt .plain (2 ^ log) false (addrTD s.me a b log j) off → StoresAt l s off (2 ^ log) (s.me.reg d)
     ti 1 (.stBTi d a i) ∧ ti 2 (.stHTi d a i) ∧ ti 4 (.stWTi d a i) ∧ ti 8 (.stDTi d a i)
     ∧ td 0 (.stBTd d a b j) ∧ td 1 (.stHTd d a b j) ∧ td 2 (.stWTd d a b j) ∧ td 3 (.stDTd d a b j))
  ∧ (∀ (th : Thread) (a b : Reg) (i : BitVec 11) (j : BitVec 16) (log : Nat), log ≤ 3 →
     (a = 0 → -64 ≤ i.toInt → i.toInt < 0 → ((addrTI th a i).toNat : Int) = 0x40000 + (i.toInt + 64))
     ∧ (¬ (a = 0 ∧ -64 ≤ i.toInt ∧ i.toInt < 0) → ((addrTI th a i).toInt - ((th.reg a).toInt + i.toInt)) % 2 ^ 64 = 0)
     ∧ ((addrTD th a b log j).toInt - ((th.reg a).toInt + 2 ^ log * (th.reg b).toInt + j.toInt)) % 2 ^ 64 = 0)

/-- 14 R279, 07 R158: the synchronising accesses to a doubleword of the thread's own pool whose wait condition holds; STP and STF
store and set it full, LDC and FEMT set it empty, LDF and FEST change no FE bit, FEST reads the line's eight bits.

07 R159, 14 R279: a synchronising access whose wait condition fails parks its thread and joins the doubleword's waiters, behind
those already there; nothing else of the pool changes. -/
def Obligations.SyncAccesses : Prop :=
  (∀ (s : State) (d a : Reg) (i : BitVec 11) (off : Nat), s.Readable [a] →
     let full (u : State) (dw : Nat) : Bool := u.here.c.isFull dw
     let dw := off / 8
     let local8 := s.LocalAt .sync 8 false (addrTI s.me a i) off
     let others (t : State) : Prop := ∀ x, x ≠ dw → x < 32768 → full t x = full s x
     let quiet := s.storesPending s.cur.tile s.me = false ∧ s.captureBusy (off / 64) = false
     let loads (l : Instr) (after : Bool) : Prop := Completes l s fun t =>
       t.me = (s.me.setReg d (BitVec.ofNat 64 (s.poolNat off 8))).retire s.cur.nh ∧ full t dw = after ∧ others t
         ∧ SameMemory s t ∧ SameBeyondPool s t
     let stores (l : Instr) : Prop := Completes l s fun t =>
       t.me = s.me.retire s.cur.nh ∧ t.poolNat off 8 = (s.me.reg d).toNat ∧ full t dw = true ∧ others t
         ∧ SameMemoryBut s.cur.tile off 8 s t ∧ SameBeyondPool s t
     (local8 → full s dw = true → loads (.ldc d a i) false ∧ loads (.ldf d a i) true)
     ∧ (local8 → s.Readable [d] → quiet → stores (.stf d a i) ∧ (full s dw = false → stores (.stp d a i)))
     ∧ (local8 → Completes (.femt a i) s fun t =>
         t.me = s.me.retire s.cur.nh ∧ full t dw = false ∧ others t ∧ SameMemory s t ∧ SameBeyondPool s t)
     ∧ (s.LocalAt .sync 1 true (addrTI s.me a i) off → Gives (.fest d a i) s d (fun r =>
         ∀ n < 64, r.getLsbD n = (decide (n < 8) && full s (dw / 8 * 8 + n)))))
  ∧ (∀ (s : State) (d a : Reg) (i : BitVec 11) (off : Nat),
     let dw := off / 8
     let waits (l : Instr) : Prop := Completes l s fun t =>
       (∃ rd, t.ParkedFor (.fe rd)) ∧ SameMemory s t
         ∧ ∃ w, t.here.c.waiters = s.here.c.waiters ++ [w] ∧ w.dw = dw ∧ w.src = s.nextRef ∧ w.fails = 0
     s.LocalAt .sync 8 false (addrTI s.me a i) off → (s.here.c.waiters.filter (fun w => w.dw < 32768)).length < 32 →
     (s.Readable [a] → s.here.c.isFull dw = false → waits (.ldc d a i) ∧ waits (.ldf d a i))
     ∧ (s.Readable [d, a] → s.here.c.isFull dw = true → s.storesPending s.cur.tile s.me = false → waits (.stp d a i)))

/-- 14 R280: the AMOs at the thread's own pool, at 32 bits (.W, old value sign-extended) and 64 bits (.D). `new` relates the old
value, the operand, the comparand and what the location then holds. -/
def Obligations.AtomicOperations : Prop :=
  ∀ (s : State) (fl : AmoFlags) (d a b : Reg) (off : Nat), s.Readable [a, b, d] →
    let n := if fl.d then 8 else 4
    let m : Nat := 2 ^ (8 * n)
    let old := s.poolNat off n
    let sg (x : Nat) : Int := (x : Int).bmod m
    let opd := (s.me.reg b).toNat % m
    let cmp := (s.me.reg d).toNat % m
    s.LocalAt .amo n false (s.me.reg a) off → (fl.rl = true → s.storesPending s.cur.tile s.me = false) →
    s.captureBusy (off / 64) = false →
    let does (l : Instr) (new : Nat → Prop) : Prop := Completes l s fun t =>
      (∃ v, t.me = (s.me.setReg d v).retire s.cur.nh ∧ v.toInt = sg old) ∧ new (t.poolNat off n)
        ∧ SameMemoryBut s.cur.tile off n s t ∧ t.here.c.emptyDw = s.here.c.emptyDw ∧ SameBeyondPool s t
    does (.amoadd fl d a b) (fun x => x = (old + opd) % m)
    ∧ does (.amoand fl d a b) (fun x => x = old &&& opd) ∧ does (.amoor fl d a b) (fun x => x = old ||| opd)
    ∧ does (.amoxor fl d a b) (fun x => x = old ^^^ opd)
    ∧ does (.amomin fl d a b) (fun x => sg x = min (sg old) (sg opd)) ∧ does (.amomax fl d a b) (fun x => sg x = max (sg old) (sg opd))
    ∧ does (.amominu fl d a b) (fun x => x = min old opd) ∧ does (.amomaxu fl d a b) (fun x => x = max old opd)
    ∧ does (.amoswap fl d a b) (fun x => x = opd)
    ∧ does (.amocas fl d a b) (fun x => x = if old = cmp then opd else old)

/-- 07 R149, R155, 06 R130, 14 R277, R278: accesses that leave the tile. In the cluster the thread parks and its request stands in
its port's buffer; a load of the cellar or the host parks for the gateway; a store there is posted, and its thread goes on unless 16
are pending. -/
def Obligations.RemoteAccesses : Prop :=
  ∀ (s : State) (d a : Reg) (i : BitVec 11) (t : TileId) (off va : Nat) (host : Bool),
    let p := s.place s.cur.tile .plain 8 false (addrTI s.me a i)
    (p = .port t off → s.leavesShadow s.cur.tile t = false → s.Readable [d, a] → Completes (.stDTi d a i) s fun u =>
        u.ParkedFor (.reply 0) ∧ SameMemory s u
        ∧ ∃ acc, u.Leaving s.cur.tile .remoteAccess (.port t off acc s.nextRef 0 s.here.r.cyc) ∧ acc.kind = .store
            ∧ acc.data = s.me.reg d ∧ acc.size = 8)
    ∧ (p = .gateway host va → s.Readable [a] → Completes (.ldDTi d a i) s fun u =>
        u.ParkedFor (.reply d) ∧ SameMemory s u
        ∧ ∃ g, u.Leaving s.cur.tile .loadReply (.gate s.nextRef g) ∧ g.va = (addrTI s.me a i).toNat % 2 ^ 48 ∧ g.host = host
            ∧ g.size = 8 ∧ g.toReg = true ∧ g.ctx = s.here.r.ctx)
    ∧ (p = .gateway host va → s.Readable [d, a] → 16 ≤ s.here.c.outq.length → Waits (.stDTi d a i) s .outQueue)
    ∧ (p = .gateway host va → s.Readable [d, a] → s.here.c.outq.length < 16 → isShadow s.cur.tile = false →
        Completes (.stDTi d a i) s fun u =>
          SameMemory s u ∧ (∃ x, u.here.c.outq = s.here.c.outq ++ [x] ∧ u.Leaving s.cur.tile .postedStorePerform (.stored s.cur.tile x) ∧ x.addr = addrTI s.me a i ∧ x.data = s.me.reg d
            ∧ x.size = 8 ∧ x.host = host ∧ x.tid = s.me.tid)
          ∧ u.me.wrote = (s.me.wrote || !host) ∧ u.me.pc = (s.me.retire s.cur.nh).pc)
/-- 08 R171, 14 R281, R282: a fence that has nothing to wait for completes in its turn, ACQ and FULL of scope PARTITION or SYSTEM with
the cluster's read cache emptied; REL parks while posted stores of its scope are pending; DRAIN with nothing pending completes, and
parks otherwise.

07 R166, 09 R191: a DRAIN with nothing left to wait for traps on the oldest deferred fault of its thread on the path, which is
cleared; the trap's cause says deferred. -/
def Obligations.FencesAndDrains : Prop :=
  (∀ (s : State) (scope : Fin 4) (path : Fin 6),
     let k := s.cur.tile
     let flushed (l : Instr) : Prop :=
       if 2 ≤ scope.val then exec l s = .next ((s.flushCache (clusterOf k)).setMe (({ s.me with wrote := false } : Thread).retire s.cur.nh))
       else Retires l s s.me
     let pending := (scope = 2 ∧ s.cellarPending k s.me = true) ∨ (scope = 3 ∧ s.storesPending k s.me = true)
     flushed (.fenceAcq scope)
     ∧ (¬ pending → Retires (.fenceRel scope) s s.me ∧ flushed (.fenceFull scope))
     ∧ (scope = 2 → pending → Waits (.fenceRel scope) s .cellarStores ∧ Waits (.fenceFull scope) s .cellarStores)
     ∧ (scope = 3 → pending → Waits (.fenceRel scope) s .stores ∧ Waits (.fenceFull scope) s .stores)
     ∧ (s.here.drainWaits s.me path s.here.r.cyc = false → s.here.c.faultOf s.me path = none → Retires (.drain path) s s.me)
     ∧ (s.here.drainWaits s.me path s.here.r.cyc = true → Waits (.drain path) s (.drain path)))
  ∧ (∀ (s : State) (path : Fin 6) (d : Deferred), s.here.drainWaits s.me path s.here.r.cyc = false →
     s.here.c.faultOf s.me path = some d → s.me.atThird = false →
     d ∈ s.here.c.deferred ∧ d.launch = s.me.launch ∧ d.tid = s.me.tid ∧ d.path = path.val
     ∧ (∀ e ∈ s.here.c.deferred, e.launch = s.me.launch → e.tid = s.me.tid → e.path = path.val → d.issued ≤ e.issued)
     ∧ Completes (.drain path) s fun t =>
         t.here.c.deferred = s.here.c.deferred.erase d ∧ t.me = s.me.enterTrap s.me.pc (causeOf d.code d.detail true) d.val)

/-- 14 R283, R284: RFILL of another thread of the tile, and of the caller, writes the register and sets it full; to a thread
elsewhere it sends a packet and goes on. REMPTY empties a register and keeps its value, g0 stays full; RSTAT reads the bits.

06 R124: an ordinary load of a shared register reads it at once; an ordinary store, or a synchronising access, is queued with
its cycle of issue and takes effect at the register later; the register itself does not change in the turn.

14 R283, R284: RFILL, REMPTY and RSTAT complete: `exec` of each answers the next state the rule gives; RFILL of a thread of the tile is meant here,
the caller's own and another's. -/
def Obligations.RegisterSynchronisation : Prop :=
  (∀ (s : State) (a b n d : Reg) (j : Fin 16),
     let k := s.cur.tile
     let tid := (s.me.reg a).toNat % 2 ^ 22
     let home := k / 2 ^ 18 * 2 ^ 18 + tid % 2 ^ 18
     (n ≠ 0 → s.Readable [a, b] → s.inPartition k home = true → s.storesPending k s.me = false →
       (tid = s.me.tid → Retires (.rfill a b n) s (s.me.fillReg n (s.me.reg b)))
       ∧ (tid ≠ s.me.tid → s.here.slotOfTid tid s.me.launch = some j → j ≠ s.cur.slot → Completes (.rfill a b n) s fun t =>
           t.me = s.me.retire s.cur.nh ∧ t.thr k j = (s.thr k j).fillReg n (s.me.reg b) ∧ (t.thr k j).reg n = s.me.reg b
           ∧ (t.thr k j).isFull n = true)
       ∧ (tid ≠ s.me.tid → s.here.slotOfTid tid s.me.launch = none → s.leavesShadow k home = false →
           Completes (.rfill a b n) s fun t => t.me = s.me.retire s.cur.nh
             ∧ t.Leaving k .rfillDelivery (.fill home tid n (s.me.reg b) s.me.launch none)))
     ∧ (n = 0 → Traps (.rfill a b n) s 0x05 0xFF s.me.pc)
     ∧ (∃ f, Retires (.rempty d) s { s.me with full := f } ∧ ∀ r : Reg, r ≠ 0 → f.getLsbD r.val = (s.me.full.getLsbD r.val && decide (r ≠ d)))
     ∧ Gives (.rstat d) s d (fun r => ∀ i < 64, r.getLsbD i = (decide (i = 0) || (decide (i < 32) && s.me.full.getLsbD i))))
  ∧ (∀ (s : State) (d a : Reg) (i : BitVec 11) (n : Fin 8) (c : Machine.Class),
     s.place s.cur.tile c 8 false (addrTI s.me a i) = .here (0x40000 + 8 * n.val) →
     let queued (l : Instr) (op : HOp) (t : State) : Prop :=
       exec l s = .next t ∧ t.here.c.hOps = s.here.c.hOps ++ [op] ∧ t.here.c.h = s.here.c.h ∧ SameMemory s t
     (c = .plain → s.Readable [a] → Sets (.ldDTi d a i) s d (s.here.c.h[n]))
     ∧ (c = .plain → s.Readable [d, a] → ∃ t, queued (.stDTi d a i) (.store n (s.me.reg d) s.here.r.cyc) t
         ∧ t.me = s.me.retire s.cur.nh)
     ∧ (c = .sync → s.Readable [a] → ∃ t x, queued (.ldc d a i) (.sync x s.here.c.tok s.here.r.cyc) t ∧ x.kind = .ldc
         ∧ t.ParkedFor (.fe d)))
  ∧ (∀ (s : State) (a b n d : Reg),
     let k := s.cur.tile
     let th := s.me
     let tid := (th.reg a).toNat % 2 ^ 22
     let home := k / 2 ^ 18 * 2 ^ 18 + tid % 2 ^ 18
     (n ≠ 0 → s.Readable [a, b] → s.inPartition k home = true → s.storesPending k th = false → tid = th.tid →
       ∃ u, exec (.rfill a b n) s = .next u ∧ u = s.setMe ((th.fillReg n (th.reg b)).retire s.cur.nh))
     ∧ (∀ j, n ≠ 0 → s.Readable [a, b] → s.inPartition k home = true → s.storesPending k th = false → tid ≠ th.tid →
         s.here.slotOfTid tid th.launch = some j → j ≠ s.cur.slot →
         ∃ u, exec (.rfill a b n) s = .next u ∧ u.thr k j = (s.thr k j).fillReg n (th.reg b) ∧ u.me = th.retire s.cur.nh ∧ SameMemory s u)
     ∧ (∃ u, exec (.rempty d) s = .next u ∧ u = s.setMe (({ th with full := th.full &&& ~~~(regBit d) } : Thread).retire s.cur.nh))
     ∧ (∃ u, exec (.rstat d) s = .next u ∧ u = s.setMe ((th.setReg d ((th.full ||| 1).setWidth 64)).retire s.cur.nh)))
/-- 13 R267, R268, 07 R163: ENTER in the pool stores the caller's sp at the new sp and moves sp down by n; below splim with the
overflow segment enabled the frame moves to the cellar, where two doublewords and the frame's are posted; without it, STACK_LIMIT 0.
LEAVE loads sp from where it points. -/
def Obligations.StackFrames : Prop :=
  ∀ (s : State) (n : BitVec 16) (off : Nat), n.toNat % 16 = 0 → n ≠ 0 → s.Readable [29] →
    let sp := s.me.reg 29
    let t := sp - n.setWidth 64
    let room := s.here.c.outq.length ≤ 16
    s.me.atHome s.cur.tile = true →
    (sp.toNat % 16 = 0 → sp.toNat < 2 ^ 60 → s.me.splim.toNat + n.toNat ≤ sp.toNat → s.LocalAt .plain 8 false t off → room →
      s.captureBusy (off / 64) = false → Completes (.enter n) s fun u =>
        u.me = (s.me.setReg 29 t).retire s.cur.nh ∧ u.poolNat off 8 = sp.toNat ∧ SameMemoryBut s.cur.tile off 8 s u)
    ∧ (sp.toNat % 16 ≠ 0 → Traps (.enter n) s 0x09 16 sp)
    ∧ (sp.toNat % 16 = 0 → sp.toNat < 2 ^ 60 → sp.toNat < s.me.splim.toNat + n.toNat → s.me.spov.getLsbD 0 = false →
      Traps (.enter n) s 0x11 0 t)
    ∧ (sp.toNat % 16 = 0 → sp.toNat < 2 ^ 60 → sp.toNat < s.me.splim.toNat + n.toNat → s.me.spov.getLsbD 0 = true →
      s.here.c.outq.length ≤ 13 → isShadow s.cur.tile = false →
      let top := s.me.spov &&& ~~~15#64
      let floor := s.me.spovlim &&& ~~~15#64
      floor.toNat + 16 + n.toNat ≤ top.toNat → 2 ^ 62 + 16 + n.toNat ≤ top.toNat → top.toNat ≤ 2 ^ 62 + 2 ^ 48 →
      Completes (.enter n) s fun u =>
        u.me.reg 29 = top - 16 - n.setWidth 64 ∧ u.me.wrote = true ∧ SameMemory s u
        ∧ (u.here.c.outq.drop s.here.c.outq.length).map (fun p => (p.addr, p.data))
            = [(top - 16, sp), (top - 8, 0), (top - 16 - n.setWidth 64, sp)])
    ∧ (s.LocalAt .plain 8 false sp off → Sets .leave s 29 (BitVec.ofNat 64 (s.poolNat off 8)))
/-! ### Frames -/

/-- 13 R246: an instruction of the scalar core that writes one general register leaves every other register and its FE bit, the
predicates, fflags, the special registers, every byte of every memory and the rest of the machine alone; a result for g0 is
discarded, so that no register changes at all. It holds whether the instruction completes or parks.

13 R246, R253, R255, R257: instructions that write a predicate leave every register and every other predicate alone; the float
instructions write their one register or predicate and only set bits of fflags, never clear one. -/
def Obligations.RegisterFrames : Prop :=
  (∀ (i : Instr) (s t : State) (rd : Reg), regOnly i = some rd → exec i s = .next t →
     SameRegsBut rd s.me t.me ∧ (rd = 0 → ∀ r, t.me.reg r = s.me.reg r ∧ t.me.isFull r = s.me.isFull r)
     ∧ t.me.pw = s.me.pw ∧ t.me.fflags = s.me.fflags ∧ SameSpecials s.me t.me ∧ SameMemory s t ∧ SameElsewhere s t)
  ∧ (∀ (i : Instr) (s t : State), exec i s = .next t →
     let rest := SameSpecials s.me t.me ∧ SameMemory s t ∧ SameElsewhere s t
     let regs := ∀ r, t.me.reg r = s.me.reg r ∧ t.me.isFull r = s.me.isFull r
     let sticky := t.me.fflags &&& s.me.fflags = s.me.fflags
     (∀ qd, predOnly i = some qd → regs ∧ SamePredsBut qd s.me t.me ∧ t.me.fflags = s.me.fflags ∧ rest)
     ∧ (∀ rd, floatReg i = some rd → SameRegsBut rd s.me t.me ∧ t.me.pw = s.me.pw ∧ sticky ∧ rest)
     ∧ (∀ qd, floatPred i = some qd → regs ∧ SamePredsBut qd s.me t.me ∧ sticky ∧ rest))

/-- 13 R263: an instruction that retires with thread th changes the acting thread alone: it becomes th after the end step; no byte
of any memory and nothing else of the machine changes. The statements of results that say `Retires`, `Sets` or `Gives` carry this
frame. -/
def Obligations.RetirementFrame : Prop :=
  ∀ (i : Instr) (s : State) (th : Thread), Retires i s th →
    Completes i s fun t => t.me = th.retire s.cur.nh ∧ SameMemory s t ∧ SameElsewhere s t ∧ t.cur = s.cur ∧ t.tok = s.tok
      ∧ t.me.regs = th.regs ∧ t.me.full = th.full ∧ t.me.pw = th.pw ∧ t.me.fflags = th.fflags ∧ SameSpecials th t.me
/-! ### Messages, threads and groups (chapters 6, 14) -/

/-- 14 R285, R287: SEND takes 48 bytes at issue and parks with the message on its way; RECV and TRYRECV take the oldest message of
the lowest mailbox of the mask that holds one, write its payload and return its header; with none, TRYRECV and an empty mask give
0 and RECV parks.

14 R289, R298: SPAWN starts a thread in the lowest free slot that no population has reserved (the next one if a migrant enters in this
cycle) with the state R289 gives it, and returns its tid; with no slot, or with
threads in the box room, all ones; a stack that is not a multiple of 16 or leaves the scratchpad traps. -/
def Obligations.MessagesAndSpawn : Prop :=
  (∀ (s : State) (d a b : Reg) (mb n : Fin 16) (tag : BitVec 16) (m : Msg) (ms : List Msg),
     let k := s.cur.tile
     let x := s.me.reg a
     let off := (s.me.reg b).toNat % 2 ^ 18
     let mask : BitVec 16 := x.setWidth 16
     let dest := k / 2 ^ 18 * 2 ^ 18 + x.toNat
     s.Readable [a, b] → s.poolOperand (s.me.reg b) 8 48 1 = none →
     (x.toNat < 2 ^ 18 → s.inPartition k dest = true → s.leavesShadow k dest = false → s.storesPending k s.me = false →
       Completes (.send a b mb tag) s fun t =>
         t.ParkedFor .send ∧ SameMemory s t
         ∧ (∃ p, t.me.pend = some p ∧ p.ltn.toNat = x.toNat ∧ p.mbox = mb ∧ p.tag = tag ∧ p.bounces = 0
             ∧ p.payload = s.here.c.pool.bytes off 48)
         ∧ t.Leaving k .messageDelivery (.msg dest { src := BitVec.ofNat 18 (ltnOf k), mbox := mb, tag := tag
                                                     payload := s.here.c.pool.bytes off 48 } s.nextRef))
     ∧ (s.here.c.mail[n] = m :: ms → mask.getLsbD n.val = true →
         (∀ i : Fin 16, i < n → mask.getLsbD i.val = true → s.here.c.mail[i] = []) → s.captureFew off 48 = false →
         ∀ i ∈ [Instr.recv d a b, .tryrecv d a b], Completes i s fun t =>
           (∃ h : Word, t.me = (s.me.setReg d h).retire s.cur.nh
             ∧ h.toNat = 2 ^ 63 + m.tag.toNat * 2 ^ 22 + m.mbox.val * 2 ^ 18 + m.src.toNat)
           ∧ t.here.c.pool.bytes off m.payload.length = m.payload ∧ SameMemoryBut k off m.payload.length s t
           ∧ t.here.c.mail[n] = ms ∧ ∀ i : Fin 16, i ≠ n → t.here.c.mail[i] = s.here.c.mail[i])
     ∧ ((∀ i : Fin 16, mask.getLsbD i.val = true → s.here.c.mail[i] = []) →
         Sets (.tryrecv d a b) s d 0 ∧ (if mask = 0 then Sets (.recv d a b) s d 0 else Waits (.recv d a b) s (.recv mask))))
  ∧ (∀ (s : State) (d a b : Reg) (j : Fin 16), s.Readable [a, b] →
     let k := s.cur.tile
     let top := (s.me.reg b).toNat % 2 ^ 32
     let size := (s.me.reg b).toNat / 2 ^ 32
     let good := top % 16 = 0 ∧ size % 16 = 0 ∧ size ≤ top ∧ top ≤ scrBytes s.here.c.poolcfg
     let x := s.spawnSlot
     let free := (List.finRange 16).filter (fun j => s.here.unmasked j && (s.here.slot j).isNone
       && !(s.reservedSlots k).any (fun n => n % 2 ^ 64 == j.val))
     (s.here.r.replay = false → x.2 = free[if s.migrantDue k then 1 else 0]?)
     ∧ (good → x.2 = some j → j ≠ s.cur.slot → s.here.c.guests = [] → Completes (.spawn d a b) s fun t =>
       let u := t.thr k j
       (t.tile k).slot j = some u ∧ u.pc.toNat = (s.me.reg a).toNat % 2 ^ 32 ∧ (u.reg 1).toNat = s.me.tid
       ∧ (∀ r : Reg, 2 ≤ r.val → r.val ≤ 6 → u.reg r = 0) ∧ (u.reg 7).toNat = j.val ∧ (u.reg 29).toNat = top
       ∧ u.splim.toNat = top - size ∧ u.lix = s.me.lix ∧ u.launch = s.me.launch ∧ u.home.toNat = ltnOf k ∧ u.hslot.toNat = j.val
       ∧ u.park = none ∧ u.fault = none ∧ u.xlvl = 0 ∧ u.groups = [] ∧ u.held = false
       ∧ t.me = (s.me.setReg d (BitVec.ofNat 64 u.tid)).retire s.cur.nh ∧ SameMemory s t)
     ∧ (good → x.2 = none ∨ s.here.c.guests ≠ [] → exec (.spawn d a b) s = .next (x.1.setMe ((s.me.setReg d (BitVec.allOnes 64)).retire s.cur.nh))
         ∧ SameMemory s x.1)
     ∧ (¬ good → Traps (.spawn d a b) s 0x05 0xFF s.me.pc))

/-- 14 R290, 06 R125: at home, GJOIN, GLEAVE and GSIZE ask the group's home router and park for its reply; GBAR of a member sends
its arrival to the cluster's router and parks, of a non-member gives 1 at once. Kinds 4 to 6 carry the answers 0 to 2 that the thread's own
list decides (06 R125).

17 R370, R371: RED of a non-member gives 1; of a member it is a release that parks with its contribution, the operand's bits of the
type, on its way to the cluster's router. REDG with no reduction due writes 0 and sets its predicate; else it parks and looks for the
result of the oldest. -/
def Obligations.GroupInstructions : Prop :=
  (∀ (s : State) (d a : Reg), s.Readable [a] → s.me.atHome s.cur.tile = true →
     let k := s.cur.tile
     let g := (s.me.reg a).toNat % 2 ^ 16
     let cl := clusterOf k
     let reds := ((s.me.member? g).map Membership.reds).getD 0
     let home (what : Nat) : Nat := (s.park s.me (.group d what g)).groupHome k g
     let ask (i : Instr) (what kind : Nat) : Prop := s.leavesShadow k (home what * 32) = false →
       Asks i s (.group d what g) .groupRequest (.group (home what) s.here.r.ctx g kind cl reds s.me.tid s.nextRef)
     (s.me.member? g = none → s.me.groups.length < 4 → ask (.gjoin d a) 0 0)
     ∧ (s.me.member? g = none → 4 ≤ s.me.groups.length → ask (.gjoin d a) 0 6)
     ∧ ((s.me.member? g).isSome = true → ask (.gjoin d a) 0 4)
     ∧ ((s.me.member? g).isSome = true → ask (.gleave d a) 1 1) ∧ (s.me.member? g = none → ask (.gleave d a) 1 5)
     ∧ ask (.gsize d a) 2 2
     ∧ (s.me.member? g = none → Sets (.gbar d a) s d 1)
     ∧ ((s.me.member? g).isSome = true → s.storesPending k s.me = false → s.leavesShadow k (cl * 32) = false →
         Asks (.gbar d a) s (.group d 3 g) .barrierClusterArrival (.group cl s.here.r.ctx g 3 cl 0 s.me.tid s.nextRef)))
  ∧ (∀ (s : State) (d a b : Reg) (q : Pred) (op : BitVec 3) (ty : BitVec 4) (m : Membership) (num : Nat),
     let k := s.cur.tile
     let g := (s.me.reg a).toNat % 2 ^ 16
     s.me.atHome k = true → s.Readable [a] →
     (s.Readable [b] → s.me.member? g = none → Sets (.red d a b op ty) s d 1)
     ∧ (s.Readable [b] → s.me.member? g = some m → s.storesPending k s.me = false → isShadow k = false →
         Asks (.red d a b op ty) s (.red d g) .reductionContribution
           (.part (clusterOf k) { ctx := s.here.r.ctx, group := g, num := m.reds, op := op.toNat, ty := ty.toNat
                                  value := redOperand ty.toNat (s.me.reg b), count := 1, map := BitVec.ofNat 64 (2 ^ (k % 32))
                                  mismatch := false } 0 (some s.nextRef)))
     ∧ ((s.me.member? g).bind (fun m => m.due.head?) = none → Retires (.redg d a q) s ((s.me.setReg d 0).setPred q true))
     ∧ ((s.me.member? g).bind (fun m => m.due.head?) = some num →
         Arms (.redg d a q) s (.redg d q g num) .reductionResult (.ref s.nextRef)))
/-- 14 R291 to R296: TASK, TDONE, MIG, CKPT, SIGA, QPOST, each with the traps its rule names first. A MIG moves the thread, with the
registers its liveness entry names, to the target tile; to its own tile it is a NOP.

06 R130: what a migrant carries: the registers of its mask, the others 0; all full; predicates, loops, offset and the header's
fields; the stack registers and trap banks stay behind.

14 R291 to R296: TASK, TDONE, MIG, CKPT, SIGA and QPOST complete, each under the conditions its rule names:
`exec` of each answers the next state the rule gives. TASK, CKPT and QPOST have then sent their request, and their thread waits for the
answer; MIG has sent its thread away. -/
def Obligations.ThreadServices : Prop :=
  (∀ (s : State) (d a b : Reg),
     let k := s.cur.tile
     let th := s.me
     let e := s.here.launchOf th.lix
     let x := th.reg a
     let t := namedTile k x
     let ctx := s.here.r.ctx
     let ok := x.toNat / 2 ^ 60 = 2 ∧ x.toNat % 2 ^ 60 < 2 ^ 36 ∧ s.inPartition k t = true
     (th.held = true → Traps .task s 0x19 1 0) ∧ (th.held = false → e.pkq = 0 → Traps .task s 0x19 2 0)
     ∧ (th.held = false → e.pkq ≠ 0 → Asks .task s .task .packetGrant (.post s.nextRef ctx e.pkq.toNat []))
     ∧ (th.held = false → Traps .tdone s 0x19 3 0)
     ∧ (th.held = true → Completes .tdone s fun u => u.me = ({ th with held := false, tfmt := 0, tscl := 0 } : Thread).retire s.cur.nh
         ∧ u.Leaving k .packetRetire (.nums3 ctx e.pkq.toNat th.pkslot.toNat) ∧ SameMemory s u)
     ∧ (s.Readable [a] → ok → t = k → Retires (.mig a) s th)
     ∧ (s.Readable [a] → ok → t ≠ k → th.xlvl ≠ 0 → Traps (.mig a) s 0x10 0xFF x)
     ∧ (∀ m, s.Readable [a] → ok → t ≠ k → th.xlvl = 0 → th.search e.live (th.pc.toNat / 2) 0 e.nlive.toNat none 33 = .found (some m) →
         maskCount (m ||| regBit a) ≤ 10 → s.storesPending k th = false → (m ||| regBit a) &&& ~~~(th.full ||| 1) = 0 →
         s.leavesShadow k t = false →
         Completes (.mig a) s fun u => (s.here.c.guests = [] → (u.tile k).slot s.cur.slot = none)
           ∧ u.Leaving k .migrantArrival (.migrant t k (th.travel (m ||| regBit a)) x) ∧ SameMemory s u)
     ∧ (s.here.r.mode = .live → Completes (.ckpt d) s fun u => u.ParkedFor (.ckpt d) ∧ SameMemory s u
         ∧ (if s.here.r.ship.isSome then u.here.r.deferred else u.here.r.want) = true)
     ∧ (s.Readable [a] → Retires (.siga a) s { th with sig := fold64 th.sig (leBytes 8 x.toNat), sigLen := th.sigLen + 8 })
     ∧ (s.Readable [a, b] → s.poolOperand x 8 64 64 = none → isShadow k = false →
         Asks (.qpost d a b) s (.qpost d) .qpostRequest
           (.post s.nextRef ctx ((th.reg b).toNat % 64) (s.here.c.pool.bytes (x.toNat % 2 ^ 18) 64)))
     ∧ (s.Readable [a, b] → s.poolOperand x 8 64 64 = none → isShadow k = true → Sets (.qpost d a b) s d 0))
  ∧ (∀ (th : Thread) (live : BitVec 32) (r : Reg),
     let u := th.travel live
     u.reg r = (if live.getLsbD r.val then th.reg r else 0) ∧ u.isFull r = true ∧ u.pc = th.pc ∧ u.pw = th.pw ∧ u.loops = th.loops
     ∧ u.tid = th.tid ∧ u.lix = th.lix ∧ u.launch = th.launch ∧ u.pix = th.pix ∧ u.vlen = th.vlen ∧ u.frm = th.frm
     ∧ u.fflags = th.fflags ∧ u.held = th.held ∧ u.sig = th.sig ∧ u.xvec = th.xvec ∧ u.wrote = th.wrote ∧ u.groups = th.groups
     ∧ u.splim = 0 ∧ u.spov = 0 ∧ u.bankX = Bank.reset ∧ u.park = none)
  ∧ (∀ (s : State) (a b d : Reg),
     let k := s.cur.tile
     let th := s.me
     let x := th.reg a
     let t := namedTile k x
     let target := x.toNat / 2 ^ 60 = 2 ∧ x.toNat % 2 ^ 60 < 2 ^ 36 ∧ s.inPartition k t = true
     (th.held = false → (s.here.launchOf th.lix).pkq ≠ 0 → ∃ u, exec .task s = .next u ∧ u.ParkedFor .task
         ∧ u.Leaving k .packetGrant (.post s.nextRef s.here.r.ctx (s.here.launchOf th.lix).pkq.toNat []) ∧ SameMemory s u)
     ∧ (th.held = true → ∃ u, exec .tdone s = .next u ∧ u.me = ({ th with held := false, tfmt := 0, tscl := 0 } : Thread).retire s.cur.nh
         ∧ u.Leaving k .packetRetire (.nums3 s.here.r.ctx (s.here.launchOf th.lix).pkq.toNat th.pkslot.toNat) ∧ SameMemory s u)
     ∧ (s.Readable [a] → target → t = k → ∃ u, exec (.mig a) s = .next u ∧ u = s.setMe (th.retire s.cur.nh))
     ∧ (∀ m, s.Readable [a] → target → t ≠ k → th.xlvl = 0 →
         th.search (s.here.launchOf th.lix).live (th.pc.toNat / 2) 0 (s.here.launchOf th.lix).nlive.toNat none 33 = .found (some m) →
         maskCount (m ||| regBit a) ≤ 10 → s.storesPending k th = false → (m ||| regBit a) &&& ~~~(th.full ||| 1) = 0 →
         s.leavesShadow k t = false →
         ∃ u, exec (.mig a) s = .next u ∧ u.Leaving k .migrantArrival (.migrant t k (th.travel (m ||| regBit a)) x)
           ∧ (s.here.c.guests = [] → (u.tile k).slot s.cur.slot = none))
     ∧ (s.here.r.mode = .live → ∃ u, exec (.ckpt d) s = .next u ∧ u.ParkedFor (.ckpt d) ∧ SameMemory s u
         ∧ (if s.here.r.ship.isSome then u.here.r.deferred else u.here.r.want) = true)
     ∧ (s.Readable [a] → ∃ u, exec (.siga a) s = .next u
         ∧ u = s.setMe (({ th with sig := fold64 th.sig (leBytes 8 x.toNat), sigLen := th.sigLen + 8 } : Thread).retire s.cur.nh))
     ∧ (s.Readable [a, b] → s.poolOperand x 8 64 64 = none → isShadow k = false → ∃ u, exec (.qpost d a b) s = .next u ∧ u.ParkedFor (.qpost d)
         ∧ u.Leaving k .qpostRequest (.post s.nextRef s.here.r.ctx ((th.reg b).toNat % 64) (s.here.c.pool.bytes (x.toNat % 2 ^ 18) 64))
         ∧ SameMemory s u)
     ∧ (s.Readable [a, b] → s.poolOperand x 8 64 64 = none → isShadow k = true →
         ∃ u, exec (.qpost d a b) s = .next u ∧ u = s.setMe ((th.setReg d 0).retire s.cur.nh)))

/-! ### The engines (chapters 15, 16) -/

/-- 15 R299, R301, 07 R164: VEC, VRED and VGAT check each operand base in turn, then queue their operation with its ranges and park; an
empty vector or a progress point at the end completes at once. VRED of an empty vector writes its empty result.

15 R299, R301 to R307, 07 R164: VADD, VSUB, VMUL, VMAX, VMIN, VABS, VNEG, VFMA, VEXP, VRCP, VRSQ, VSIGM, VSILU, VCVT, VSET, VCPY, VIOTA, VSEL,
VCMP, VSCL, VSUM, VSSQ, VAMAX, VMAXR, VMINR, VDOT, VGATH, VSCAT and VSCADD complete with operands that pass R299's checks: `exec` of each answers
the next state with its operation in the tile's queue and its thread waiting for it; when the operation has run to the vector's end the
instruction retires with pix 0. The member's number, types and operands are the operation's. -/
def Obligations.VectorIssue : Prop :=
  (∀ (s : State), let n := s.me.vlen.toNat
     let p := s.me.pix.toNat
     (∀ (o : VecOps), s.Readable [o.a, o.b, o.c, o.e] →
       ∀ m ∈ [(0, Instr.vadd), (1, .vsub), (2, .vmul), (3, .vmax), (4, .vmin), (5, .vabs), (6, .vneg), (7, .vfma), (8, .vexp), (9, .vrcp),
           (10, .vrsq), (11, .vsigm), (12, .vsilu), (13, .vcvt), (14, .vset), (15, .vcpy), (16, .viota), (17, .vsel), (18, .vcmp),
           (19, .vscl)],
         let f := m.1
         let a := s.me.reg o.a
         let b := s.me.reg o.b
         let c := s.me.reg o.c
         let e := s.me.reg o.e
         let ss := ETy.size o.ts
         let sd := ETy.size o.td
         let se := if f = 17 then 1 else ss
         let usesC := vecUsesC f = true ∧ o.sc = false
         BadOperand (m.2 o) s a sd (n * sd)
         ∧ (s.Scratch a sd (n * sd) → (vecUsesB f = true → s.Scratch b ss (n * ss)) → (usesC → s.Scratch c ss (n * ss)) →
             (vecUsesE f = true → s.Scratch e se (n * se)) →
             Issues (m.2 o) s (.vec f o.ts o.td o.rm o.sc o.sat a.toNat b.toNat c.toNat e.toNat c n)
               ((if vecUsesB f then [rangeAt b (n * ss) false] else []) ++ (if usesC then [rangeAt c (n * ss) false] else [])
                 ++ (if vecUsesE f then [rangeAt e (n * se) false] else []) ++ [rangeAt a (n * sd) true]) 0 n p))
     ∧ (∀ (ty : ETy) (d a b : Reg), s.Readable [a, b] →
         let sz := ETy.size ty
         let x := s.me.reg a
         let y := s.me.reg b
         let one (f : Nat) (i : Instr) : Prop := BadOperand i s x sz (n * sz) ∧ (s.Scratch x sz (n * sz) →
           (0 < n → Issues i s (.red f ty x.toNat 0 n d) [rangeAt x (n * sz) false] d n (p / 16 * 16))
           ∧ (n = 0 → Retires i s { s.me.setReg d (BitVec.ofInt 64 (redInit f ty)) with pix := 0 }))
         one 0 (.vsum ty d a) ∧ one 1 (.vssq ty d a) ∧ one 2 (.vamax ty d a) ∧ one 3 (.vmaxr ty d a) ∧ one 4 (.vminr ty d a)
         ∧ (s.Scratch x sz (n * sz) → s.Scratch y sz (n * sz) →
             (0 < n → Issues (.vdot ty d a b) s (.red 5 ty x.toNat y.toNat n d)
               [rangeAt x (n * sz) false, rangeAt y (n * sz) false] d n (p / 16 * 16))
             ∧ (n = 0 → Retires (.vdot ty d a b) s { s.me.setReg d 0 with pix := 0 })))
     ∧ ∀ (o : GatOps) (rm : Fin 4), s.Readable [o.a, o.b, o.c] →
         let sz := ETy.size o.ty
         let w := if o.x32 then 4 else 2
         let a := s.me.reg o.a
         let b := s.me.reg o.b
         let c := s.me.reg o.c
         let table (t0 : Word) (wr : Bool) : Range :=
           { lo := t0.toNat, hi := min (t0.toNat + 2 ^ (8 * w) * sz) (scrBytes s.here.c.poolcfg), write := wr }
         let job (f r : Nat) (t0 lin : Word) : Job := .gat f o.ty o.x32 r t0.toNat lin.toNat c.toNat n
         (s.Scratch a sz (n * sz) → s.Scratch b sz 0 → s.Scratch c w (n * w) →
           Issues (.vgath o) s (job 0 0 b a) [rangeAt a (n * sz) true, rangeAt c (n * w) false, table b false] 0 n p)
         ∧ (s.Scratch a sz 0 → s.Scratch b sz (n * sz) → s.Scratch c w (n * w) →
           Issues (.vscat o) s (job 1 0 a b) [rangeAt b (n * sz) false, rangeAt c (n * w) false, table a true] 0 n p
           ∧ Issues (.vscadd rm o) s (job 2 rm a b) [rangeAt b (n * sz) false, rangeAt c (n * w) false, table a true] 0 n p))
  ∧ (∀ (s : State), let n := s.me.vlen.toNat
     let p := s.me.pix.toNat
     let queues (i : Instr) (job : Job) (rs : List Range) (rd : Reg) (from_ : Nat) : Prop :=
       (p < n → ∃ t, exec i s = .next t ∧ QueuedFor s t job rs from_ rd)
     let fin (i : Instr) : Prop := n ≤ p → ∃ t, exec i s = .next t ∧ t = s.setMe (({ s.me with pix := 0 } : Thread).retire s.cur.nh)
     (∀ (o : VecOps), s.Readable [o.a, o.b, o.c, o.e] →
         let a := s.me.reg o.a
         let b := s.me.reg o.b
         let c := s.me.reg o.c
         let e := s.me.reg o.e
         let ss := ETy.size o.ts
         let sd := ETy.size o.td
         let vec (f : Nat) (i : Instr) : Prop :=
           let se := if f = 17 then 1 else ss
           let usesC := vecUsesC f = true ∧ o.sc = false
           s.Scratch a sd (n * sd) → (vecUsesB f = true → s.Scratch b ss (n * ss)) → (usesC → s.Scratch c ss (n * ss)) →
             (vecUsesE f = true → s.Scratch e se (n * se)) →
             queues i (.vec f o.ts o.td o.rm o.sc o.sat a.toNat b.toNat c.toNat e.toNat c n)
               ((if vecUsesB f then [rangeAt b (n * ss) false] else []) ++ (if usesC then [rangeAt c (n * ss) false] else [])
                 ++ (if vecUsesE f then [rangeAt e (n * se) false] else []) ++ [rangeAt a (n * sd) true]) 0 p
             ∧ fin i
         vec 0 (.vadd o) ∧ vec 1 (.vsub o) ∧ vec 2 (.vmul o) ∧ vec 3 (.vmax o) ∧ vec 4 (.vmin o) ∧ vec 5 (.vabs o) ∧ vec 6 (.vneg o)
         ∧ vec 7 (.vfma o) ∧ vec 8 (.vexp o) ∧ vec 9 (.vrcp o) ∧ vec 10 (.vrsq o) ∧ vec 11 (.vsigm o) ∧ vec 12 (.vsilu o)
         ∧ vec 13 (.vcvt o) ∧ vec 14 (.vset o) ∧ vec 15 (.vcpy o) ∧ vec 16 (.viota o) ∧ vec 17 (.vsel o) ∧ vec 18 (.vcmp o)
         ∧ vec 19 (.vscl o))
     ∧ (∀ (ty : ETy) (d a b : Reg), s.Readable [a, b] → 0 < n →
         let sz := ETy.size ty
         let x := s.me.reg a
         let y := s.me.reg b
         let red (f : Nat) (i : Instr) : Prop := s.Scratch x sz (n * sz) →
           queues i (.red f ty x.toNat 0 n d) [rangeAt x (n * sz) false] d (p / 16 * 16) ∧ fin i
         red 0 (.vsum ty d a) ∧ red 1 (.vssq ty d a) ∧ red 2 (.vamax ty d a) ∧ red 3 (.vmaxr ty d a) ∧ red 4 (.vminr ty d a)
         ∧ (s.Scratch x sz (n * sz) → s.Scratch y sz (n * sz) →
             queues (.vdot ty d a b) (.red 5 ty x.toNat y.toNat n d) [rangeAt x (n * sz) false, rangeAt y (n * sz) false] d (p / 16 * 16)
             ∧ fin (.vdot ty d a b)))
     ∧ ∀ (o : GatOps) (rm : Fin 4), s.Readable [o.a, o.b, o.c] →
         let sz := ETy.size o.ty
         let w := if o.x32 then 4 else 2
         let a := s.me.reg o.a
         let b := s.me.reg o.b
         let c := s.me.reg o.c
         let table (t0 : Word) (wr : Bool) : Range :=
           { lo := t0.toNat, hi := min (t0.toNat + 2 ^ (8 * w) * sz) (scrBytes s.here.c.poolcfg), write := wr }
         let job (f r : Nat) (t0 lin : Word) : Job := .gat f o.ty o.x32 r t0.toNat lin.toNat c.toNat n
         (s.Scratch a sz (n * sz) → s.Scratch b sz 0 → s.Scratch c w (n * w) →
           queues (.vgath o) (job 0 0 b a) [rangeAt a (n * sz) true, rangeAt c (n * w) false, table b false] 0 p ∧ fin (.vgath o))
         ∧ (s.Scratch a sz 0 → s.Scratch b sz (n * sz) → s.Scratch c w (n * w) →
           queues (.vscat o) (job 1 0 a b) [rangeAt b (n * sz) false, rangeAt c (n * w) false, table a true] 0 p ∧ fin (.vscat o)
           ∧ queues (.vscadd rm o) (job 2 rm a b) [rangeAt b (n * sz) false, rangeAt c (n * w) false, table a true] 0 p
           ∧ fin (.vscadd rm o)))
/-- 15 R302, R304, R306, R307: element j of a VEC is the member's value of element j of its sources, if its destination overlaps none of
them; integer sums, differences and products are exact, then wrapped or, with .sat, cut to the type's range and counted; VSUM and VDOT of
integers are exact; VGATH takes the elements its indices name. -/
def Obligations.VectorElements : Prop :=
  (∀ (f : Nat) (ts td : ETy) (rm : Nat) (sc sat : Bool) (a b c e : Nat) (cv : Word) (n j : Nat) (g : Eng), j < n →
    let ss := ETy.size ts
    let sd := ETy.size td
    let se := vecSizeE f ts
    let apart (x w : Nat) : Prop := a + n * sd ≤ x ∨ x + n * w ≤ a
    (vecUsesB f = true → apart b ss) → (vecUsesC f = true → sc = false → apart c ss) → (vecUsesE f = true → apart e se) →
    let r := vecLoop f ts td rm sc sat a b c e cv 0 n g
    let vb := if vecUsesB f then g.pool.read (b + j * ss) ss else 0
    let vc := if sc then vecScalar f ts td cv else if vecUsesC f then g.pool.read (c + j * ss) ss else 0
    let ve := if vecUsesE f then g.pool.read (e + j * se) se else 0
    r.pool.read (a + j * sd) sd = (vecElem f ts td rm sat j vb vc ve cv).bits % 2 ^ (8 * sd)
    ∧ ∀ x, x < a ∨ a + n * sd ≤ x → r.pool.get x = g.pool.get x)
  ∧ (∀ (ts td : ETy) (rm i b c e : Nat) (cv : Word) (f : Fin 3), ts.isInt = true → td.isInt = true →
      let x := ETy.int ts b
      let y := ETy.int ts c
      let z : Int := if f = 0 then x + y else if f = 1 then x - y else x * y
      let v (sat : Bool) : EngVal := vecElem f ts td rm sat i b c e cv
      let lim : Int := 2 ^ (ETy.bits td - 1)
      (((v false).bits : Int) - z) % 2 ^ ETy.bits td = 0 ∧ (v false).ovf = 0
      ∧ ETy.int td (v true).bits = max (-lim) (min (lim - 1) z) ∧ ((v true).ovf = if -lim ≤ z ∧ z < lim then 0 else 1))
  ∧ (∀ (ty : ETy) (m : Memory) (a b n : Nat), ty.isFloat = false →
      let at_ (p j : Nat) : Int := ETy.int ty (m.read (p + j * ETy.size ty) (ETy.size ty))
      (redLoop 0 ty m a b n 0 ((n + 15) / 16) 0 0 false).1 = ((List.range n).map (at_ a)).sum
      ∧ (redLoop 5 ty m a b n 0 ((n + 15) / 16) 0 0 false).1 = ((List.range n).map (fun j => at_ a j * at_ b j)).sum)
  ∧ ∀ (cfg : Word) (ty : ETy) (x32 : Bool) (rm t0 lin x n j : Nat) (g : Eng), j < n →
      let sz := ETy.size ty
      let w := gatWidth x32
      let src (i : Nat) : Nat := t0 + g.pool.read (x + i * w) w * sz
      (∀ i < n, src i + sz ≤ scrBytes cfg ∧ (lin + n * sz ≤ src i ∨ src i + sz ≤ lin)) → lin + n * sz ≤ x ∨ x + n * w ≤ lin →
      let r := gatLoop cfg 0 ty x32 rm t0 lin x 0 n g
      r.2 = none ∧ r.1.pool.bytes (lin + j * sz) sz = g.pool.bytes (src j) sz
/-- 15 R313 to R317, 07 R164, 03 R64: CPY, CPYS and CPYX read and check both records and queue the copy; CPY and CPYX go on, or wait while their copy
has no range-lock entries, with the chain of a paired launch holding the place of the CRCs; CPYS parks. A record with a reserved bit or a code
traps; sixteen copies in flight make the next wait. A copy that a shadow tile would make outside its pool is not performed.

15 R313 to R317: CPY, CPYS and CPYX complete once both records pass their checks and a copy slot and the entries of their ranges are free:
`exec` of each answers the next state, with the copy in the tile's queue; CPY and CPYX retire, and the thread of a CPYS waits, or retires with pix
0 at the end. -/
def Obligations.CopyInstructions : Prop :=
  (∀ (s : State) (t : Fin 32) (ra rb : Reg) (z : Bool) (x y : List Word),
     let k := s.cur.tile
     let a := s.me.reg ra
     let b := s.me.reg rb
     let src := parseLayout (recordNat x)
     let dst := parseLayout (recordNat y)
     let path := max (pathOf k src.base) (pathOf k dst.base)
     let paired := (s.here.launchOf s.me.lix).paired
     s.Readable [ra, rb] → s.recordAddr a false = none → s.recordAddr b true = none → s.recordRegion a = none → s.recordRegion b = none →
     s.recordWords s.me a = some x → s.recordWords s.me b = some y →
     ∀ m ∈ [(0, Instr.cpy t ra rb z), (1, .cpys t ra rb z), (2, .cpyx t ra rb z)],
       let f := m.1
       let rs := ((copyRanges k f src dst).filter (fun r => r.1 == k)).map Prod.snd
       let start := if f = 1 then s.me.pix.toNat else 0
       let outs := outsides f src dst
       let th := if (paired && !outs.isEmpty) = true ∧ f ≠ 1 then s.me.oweCopy k s.here.c.nextOp outs else s.me
       let outside := 4 ≤ spaceOf dst.base ∨ (f = 2 ∧ 4 ≤ spaceOf src.base)
       (∀ u, recordFault (recordNat x) false a = some u → Traps m.2 s u.code u.detail u.val)
       ∧ (recordFault (recordNat x) false a = none → ∀ u, recordFault (recordNat y) true b = some u → Traps m.2 s u.code u.detail u.val)
       ∧ (s.recordsFault k f z a b (recordNat x) (recordNat y) = none → isShadow k = true → outside → paired = false →
           Retires m.2 s { s.me with pix := if f = 1 then 0 else s.me.pix })
       ∧ (s.recordsFault k f z a b (recordNat x) (recordNat y) = none → ¬ (isShadow k = true ∧ outside) →
           (f = 1 → dst.count ≤ s.me.pix.toNat → Retires m.2 s { s.me with pix := 0 })
           ∧ ((f = 1 → s.me.pix.toNat < dst.count) →
             (16 ≤ s.here.c.copies → Waits m.2 s .copySlots)
             ∧ (s.here.c.copies < 16 → Completes m.2 s fun u => Queued s u (.copy f t.val path src dst z) rs start
                 ∧ if f = 1 then u.ParkedFor (.op s.here.c.nextOp 0)
                   else if s.here.c.lockRoom rs = true then u.me = th.retire s.cur.nh else u.ParkedFor (.listed s.here.c.nextOp)))))
  ∧ (∀ (s : State) (tk : Fin 32) (ra rb : Reg) (z : Bool) (x y : List Word),
     let c := s.here.c
     let a := s.me.reg ra
     let b := s.me.reg rb
     let p := s.me.pix.toNat
     let src := parseLayout (recordNat x)
     let dst := parseLayout (recordNat y)
     let path := max (pathOf s.cur.tile src.base) (pathOf s.cur.tile dst.base)
     let mine (f : Nat) : List Range := ((copyRanges s.cur.tile f src dst).filter (fun r => r.1 == s.cur.tile)).map Prod.snd
     let good (f : Nat) : Prop := s.recordsFault s.cur.tile f z a b (recordNat x) (recordNat y) = none ∧ s.here.c.lockRoom (mine f) = true
     s.Readable [ra, rb] → s.recordAddr a false = none → s.recordAddr b true = none → s.recordRegion a = none → s.recordRegion b = none →
      s.recordWords s.me a = some x → s.recordWords s.me b = some y → isShadow s.cur.tile = false → (s.here.launchOf s.me.lix).paired = false →
      c.copies < 16 →
      (good 0 → ∃ t, exec (.cpy tk ra rb z) s = .next t ∧ Queued s t (.copy 0 tk.val path src dst z) (mine 0) 0 ∧ t.me = s.me.retire s.cur.nh)
      ∧ (good 1 → p < dst.count → ∃ t, exec (.cpys tk ra rb z) s = .next t ∧ Queued s t (.copy 1 tk.val path src dst z) (mine 1) p
          ∧ t.ParkedFor (.op c.nextOp 0))
      ∧ (good 1 → dst.count ≤ p → ∃ t, exec (.cpys tk ra rb z) s = .next t ∧ t = s.setMe (({ s.me with pix := 0 } : Thread).retire s.cur.nh))
      ∧ (good 2 → ∃ t, exec (.cpyx tk ra rb z) s = .next t ∧ Queued s t (.copy 2 tk.val path src dst z) (mine 2) 0 ∧ t.me = s.me.retire s.cur.nh))
/-- 15 R309, R310, 16 R339: the interleave gives every offset an address of its own within its block of 16 groups; TLD puts element
(i, j) of the source where (j, i) of the dense destination stands, whatever overlaps, and touches nothing else. -/
def Obligations.LayoutLaws : Prop :=
  (∀ (ilv gran : Nat) (o o' : Int), ilv ≤ 2 → swizzle ilv gran o = swizzle ilv gran o' → o = o')
  ∧ (∀ (ilv gran : Nat) (o : Int), ilv ≤ 2 →
      let blk : Int := 16 * 2 ^ gran
      swizzle ilv gran o / blk = o / blk ∧ swizzle ilv gran o % 2 ^ gran = o % 2 ^ gran)
  ∧ ∀ (sz a b pitch : Nat) (m : Memory), 0 < sz →
      let r := tldWork sz a b pitch m
      (∀ i < 16, ∀ j < 16, r.bytes (b + (16 * j + i) * sz) sz = m.bytes (a + i * pitch + j * sz) sz)
      ∧ ∀ x, x < b ∨ b + 256 * sz ≤ x → r.get x = m.get x
/-- 16 R326 to R334: the ACC instructions, each under its rule's ownership: ACCZ claims free handles and zeroes; ACCREL frees; ACCSTA
reads the entry and may clear its counts; ACCLD, ACCST, ACCSPL and an ACCATT that fills queue their operation; ACCPIN and ACCATT answer
in their predicate. Away from home ACC_OWNER is raised.

16 R326 to R334: ACCZ, ACCLD, ACCST, ACCPIN, ACCATT, ACCREL, ACCSPL and ACCSTA complete once their handles and operands pass their checks:
`exec` of each answers the next state, in which its effect on the ownership table stands and its operation, if it has one, is in the tile's
queue; the instruction retires, or its thread waits for the operation. -/
def Obligations.AccumulatorInstructions : Prop :=
  (∀ (s : State) (q : Pred) (d ra rb : Reg) (h : BitVec 7) (n1 : Fin 16) (ty : ETy),
     let n := n1.val + 1
     let c := s.here.c
     let off := accOff c.poolcfg h.toNat
     let rg : Range := { lo := off, hi := off + 1024 * n, write := true }
     let free := c.lockHit s.here.r.cyc off (off + 1024 * n) = false
     let en (t : State) (i : Nat) : OwnEntry := t.here.c.entry (h.toNat + i)
     let own := s.ownChecks s.me false h.toNat n = none
     let x := s.me.reg ra
     let key : BitVec 32 := x.setWidth 32
     h.toNat + n ≤ accHandles c.poolcfg → s.Readable [ra, rb] →
     (s.me.atHome s.cur.tile = false → ∀ i ∈ [Instr.accz h n1, .accrel h n1, .accspl h n1, .accatt q h n1 ra],
       Traps i s 0x14 h.toNat (0x8000000000000000 ||| (en s 0).owner.setWidth 64))
     ∧ (s.ownChecks s.me true h.toNat n = none → free → (s.latchMine (linesOf off (1024 * n))).2 = true → Completes (.accz h n1) s fun t =>
         t.me = s.me.retire s.cur.nh ∧ SameMemoryBut s.cur.tile off (1024 * n) s t
         ∧ (∀ a, off ≤ a → a < off + 1024 * n → t.poolByte s.cur.tile a = 0)
         ∧ ∀ i < n, (en t i).ovf = 0 ∧ (en t i).inv = false
             ∧ ((en s i).state = .free → (en t i).state = .owned ∧ (en t i).owner = s.me.hslot)
             ∧ ((en s i).state ≠ .free → (en t i).state = (en s i).state ∧ (en t i).owner = (en s i).owner))
     ∧ (own → free → (∀ i < n, (en s i).pin = 15) → Completes (.accrel h n1) s fun t =>
         t.me = s.me.retire s.cur.nh ∧ SameMemory s t ∧ ∀ i < n, (en t i).state = .free)
     ∧ ((en s 0).ovf < 2 ^ 16 → (en s 0).pin < 16 → Gives (.accsta d h false) s d fun r =>
         r = c.status h.toNat ∧ r.toNat % 2 ^ 16 = (en s 0).ovf ∧ r.getLsbD 16 = (en s 0).inv
         ∧ r.toNat / 2 ^ 17 % 8 = (en s 0).stateCode ∧ r.getLsbD 20 = (en s 0).att ∧ r.toNat / 2 ^ 21 % 16 = (en s 0).owner.toNat
         ∧ r.toNat / 2 ^ 25 % 2 ^ 7 = (en s 0).pin ∧ r.toNat / 2 ^ 32 = ((c.recordOf (en s 0)).map (fun r => r.tokens.toNat)).getD 0)
     ∧ (n = 1 → own → free → Completes (.accsta d h true) s fun t =>
         t.me = (s.me.setReg d (c.status h.toNat)).retire s.cur.nh ∧ (en t 0).ovf = 0 ∧ (en t 0).inv = false
         ∧ (en t 0).state = (en s 0).state)
     ∧ (let sz := ETy.size ty
        let p := if s.me.reg rb = 0 then 16 * sz else (s.me.reg rb).toNat
        (s.accOperand x p sz n 0 = none → s.ownChecks s.me true h.toNat n = none → s.me.pix.toNat < n →
           Completes (.accld h n1 ty ra rb) s fun t =>
             QueuedFor s t (.accLd h.toNat n ty x.toNat p) [rangeAt x (16 * n * p) false, rg] s.me.pix.toNat 0
             ∧ ∀ i < n, (en s i).state = .free → (en t i).state = .owned ∧ (en t i).owner = s.me.hslot)
        ∧ (s.accOperand x p sz n 16 = none → own →
             Issues (.accst h n1 ty ra rb) s (.accSt h.toNat n ty x.toNat p) [rangeAt x (16 * n * p + 16) true, rg] 0 n s.me.pix.toNat))
     ∧ (own → free → (∀ i < n, (en s i).state = .owned) → spaceOf (s.me.reg rb) = 4 → (s.me.reg rb).toNat % 64 = 0 →
         (key = 0 ∨ (c.findKey key).isSome = true ∨ c.freePin = none → SetsPred (.accpin q h n1 ra rb) s q true)
         ∧ ∀ i, key ≠ 0 → c.findKey key = none → c.freePin = some i → Completes (.accpin q h n1 ra rb) s fun t =>
             t.me = (s.me.setPred q false).retire s.cur.nh ∧ SameMemory s t
             ∧ (∀ j < n, (en t j).state = .pinned ∧ (en t j).att = true ∧ (en t j).pin = i)
             ∧ ∃ r, t.here.c.pins.get? i = some r ∧ r.key = key ∧ r.first = h.toNat ∧ r.cnt = n1.val ∧ r.bound = true ∧ r.tokens = 0)
     ∧ (s.me.atHome s.cur.tile = true → free →
         (c.attachOf s.me.hslot key h.toNat n = .refuse → SetsPred (.accatt q h n1 ra) s q true)
         ∧ (c.attachOf s.me.hslot key h.toNat n = .already → SetsPred (.accatt q h n1 ra) s q false)
         ∧ (c.attachOf s.me.hslot key h.toNat n = .attach → Completes (.accatt q h n1 ra) s fun t =>
             t.me = (s.me.setPred q false).retire s.cur.nh ∧ ∀ i < n, (en t i).att = true ∧ (en t i).owner = s.me.hslot)
         ∧ ∀ i, c.attachOf s.me.hslot key h.toNat n = .fill i → s.me.pix.toNat < n →
             Completes (.accatt q h n1 ra) s fun t => QueuedFor s t (.accAtt h.toNat n i q) [rg] s.me.pix.toNat 0
               ∧ ∀ j < n, (en t j).state = .spilled ∧ (en t j).att = true ∧ (en t j).owner = s.me.hslot ∧ (en t j).pin = i)
     ∧ (∀ r, own → (en s 0).state = .pinned → c.recordOf (en s 0) = some r → r.covers h.toNat n = true →
         Issues (.accspl h n1) s (.accSpl h.toNat n (en s 0).pin) [rg] 0 n 0))
  ∧ (∀ (s : State) (ra rb d : Reg) (q : Pred) (h : BitVec 7) (n1 : Fin 16) (ty : ETy),
     let c := s.here.c
     let cfg := c.poolcfg
     let a := s.me.reg ra
     let b := s.me.reg rb
     let p := s.me.pix.toNat
     let n := n1.val + 1
     let off := accOff cfg h.toNat
     let rg : Range := { lo := off, hi := off + 1024 * n, write := true }
     let free := c.lockHit s.here.r.cyc off (off + 1024 * n) = false
     let en (t : State) (i : Nat) : OwnEntry := t.here.c.entry (h.toNat + i)
     let own := s.ownChecks s.me false h.toNat n = none
     let queues (i : Instr) (job : Job) (rs : List Range) (at_ : Nat) : Prop := ∃ t, exec i s = .next t ∧ QueuedFor s t job rs at_ 0
     h.toNat + n ≤ accHandles cfg → s.Readable [ra, rb] →
       (s.ownChecks s.me true h.toNat n = none → free → (s.latchMine (linesOf off (1024 * n))).2 = true →
         ∃ t, exec (.accz h n1) s = .next t ∧ t.me = s.me.retire s.cur.nh ∧ (∀ a, off ≤ a → a < off + 1024 * n → t.poolByte s.cur.tile a = 0)
           ∧ ∀ i < n, (en t i).ovf = 0 ∧ (en t i).inv = false)
       ∧ (own → free → (∀ i < n, (en s i).pin = 15) →
           ∃ t, exec (.accrel h n1) s = .next t ∧ t.me = s.me.retire s.cur.nh ∧ ∀ i < n, (en t i).state = .free)
       ∧ (∃ t, exec (.accsta d h false) s = .next t ∧ t = s.setMe ((s.me.setReg d (c.status h.toNat)).retire s.cur.nh))
       ∧ (n = 1 → own → free → ∃ t, exec (.accsta d h true) s = .next t ∧ t.me = (s.me.setReg d (c.status h.toNat)).retire s.cur.nh
           ∧ (en t 0).ovf = 0 ∧ (en t 0).inv = false)
       ∧ (let sz := ETy.size ty
          let step := if b = 0 then 16 * sz else b.toNat
          (s.accOperand a step sz n 0 = none → s.ownChecks s.me true h.toNat n = none → p < n →
             queues (.accld h n1 ty ra rb) (.accLd h.toNat n ty a.toNat step) [rangeAt a (16 * n * step) false, rg] p)
          ∧ (s.accOperand a step sz n 16 = none → own → p < n →
             queues (.accst h n1 ty ra rb) (.accSt h.toNat n ty a.toNat step) [rangeAt a (16 * n * step + 16) true, rg] p))
       ∧ (∀ i, own → free → (∀ j < n, (en s j).state = .owned) → spaceOf b = 4 → b.toNat % 64 = 0 → a.setWidth 32 ≠ 0#32 →
           c.findKey (a.setWidth 32) = none → c.freePin = some i →
           ∃ t, exec (.accpin q h n1 ra rb) s = .next t ∧ t.me = (s.me.setPred q false).retire s.cur.nh ∧ ∀ j < n, (en t j).state = .pinned)
       ∧ (s.me.atHome s.cur.tile = true → free → c.attachOf s.me.hslot (a.setWidth 32) h.toNat n = .attach →
           ∃ t, exec (.accatt q h n1 ra) s = .next t ∧ t.me = (s.me.setPred q false).retire s.cur.nh ∧ ∀ i < n, (en t i).att = true)
       ∧ (∀ r, own → (en s 0).state = .pinned → c.recordOf (en s 0) = some r → r.covers h.toNat n = true → p < n →
           queues (.accspl h n1) (.accSpl h.toNat n (en s 0).pin) [rg] 0))
/-- 16 R336 to R344, 14 R293: MMA, MMAG, TLD, DELTA, DREAD, DSCL and SWAPT queue their operation once their checks pass; an MMA of K over
65,535 traps; SWAPT on the diagonal is over at once.

16 R336 to R343: MMA, MMAG, TLD, DELTA, DREAD and DSCL complete once their handles, operands and descriptors pass their checks: `exec` of each
answers the next state with its operation in the tile's queue and its thread waiting for it. -/
def Obligations.MatrixInstructions : Prop :=
  (∀ (s : State) (o : MmaOps) (ra rb rc : Reg) (w : Bool) (pitch : BitVec 16) (h : BitVec 7),
     let c := s.here.c
     let cfg := c.poolcfg
     let a := s.me.reg ra
     let b := s.me.reg rb
     let p := s.me.pix.toNat
     (∀ m ∈ [(none, Instr.mma o), (some rc, .mmag o rc)],
       let k := (s.me.reg o.k).toNat
       let xs := mmaRanges c.pool s.me o m.1 k
       o.h.toNat + 1 ≤ accHandles cfg → s.Readable [o.a, o.b, o.k, rc] → s.ownChecks s.me false o.h.toNat 1 = none →
       (65535 < k → Traps m.2 s 0x05 0xFF s.me.pc) ∧ (o.comb = 1 → ¬ (o.col = true ∧ o.pb = 0) → Traps m.2 s 0x05 0xFF s.me.pc)
       ∧ (k ≤ 65535 → (o.comb = 1 → o.col = true ∧ o.pb = 0) → (o.comb = 1 → bfdsCheck s.me o k = none) → baseCheck (s.me.reg o.a) (ETy.size (mmaTypes o.comb.val).1) = none →
           baseCheck (s.me.reg o.b) (ETy.size (mmaTypes o.comb.val).2) = none → (∀ r, m.1 = some r → baseCheck (s.me.reg r) 2 = none) →
           (∀ x ∈ xs, rangeCheck cfg x.1 x.2.1 x.2.2 = none) →
           let job : Job := .mma o.comb.val o.acc o.col o.h.toNat (s.me.reg o.a).toNat (s.me.reg o.b).toNat
             (m.1.map (fun r => (s.me.reg r).toNat)) o.pa.toNat o.pb.toNat k s.me.tfmt s.me.tscl
           let rs := xs.map (fun x => ({ lo := x.2.1, hi := x.2.2, write := false } : Range)) ++ [accRange cfg o.h.toNat 1]
           (0 < k → Issues m.2 s job rs 0 k p)
           ∧ (k = 0 → o.acc = true ∨ p ≠ 0 → Retires m.2 s { s.me with pix := 0 })
           ∧ (k = 0 → o.acc = false → p = 0 → Completes m.2 s fun t => QueuedFor s t job rs 0 0)))
     ∧ (let sz := if w then 4 else 2
        pitch.toNat % sz ≠ 0 → Traps (.tld w ra rb pitch) s 0x09 sz (pitch.setWidth 64))
     ∧ (s.Readable [ra, rb] →
         let sz := if w then 4 else 2
         let len := 15 * pitch.toNat + 16 * sz
         s.Scratch a sz len → s.Scratch b sz (256 * sz) → pitch.toNat % sz = 0 →
         Issues (.tld w ra rb pitch) s (.tld sz a.toNat b.toNat pitch.toNat) [rangeAt a len false, rangeAt b (256 * sz) true] 0 1 0)
     ∧ (s.Readable [ra, rb] → s.me.atHome s.cur.tile = true → s.Scratch a 64 64 →
         let d := parseDelta (c.pool.bytes a.toNat 64)
         let n := d.handles
         let ranges (f : Nat) : List Range := rangeAt a 64 false
           :: (d.spans f).map (fun x => ({ lo := x.base, hi := x.base + x.len, write := x.write } : Range)) ++ [accRange cfg h.toNat n]
         let ok (f : Nat) : Prop := ∀ x ∈ d.spans f, x.check cfg = none
         let all (P : Instr → Prop) : Prop := P (.delta h ra) ∧ P (.dread h ra) ∧ P (.dscl h ra rb)
         (∀ i, deltaFault (c.pool.bytes a.toNat 64) = some i → all (fun x => Traps x s 0x05 i a))
         ∧ (deltaFault (c.pool.bytes a.toNat 64) = none → h.toNat + n ≤ accHandles cfg → s.ownChecks s.me false h.toNat n = none →
             (ok 0 → Issues (.delta h ra) s (.delta h.toNat d) (ranges 0) 0 d.c p)
             ∧ (ok 1 → Issues (.dread h ra) s (.dread h.toNat d) (ranges 1) 0 d.c p)
             ∧ Issues (.dscl h ra rb) s (.dscl h.toNat n (b.toNat % 2 ^ 32)) (ranges 2) 0 n p))
     ∧ (s.Readable [ra, rb] → spaceOf a = 0 → a.toNat % 64 = 0 → b.toNat % 64 = 0 → rangeRegion cfg a.toNat (a.toNat + b.toNat) = 0 →
         (s.partner s.cur.tile = none → Retires (.swapt ra rb) s { s.me with pix := 0 })
         ∧ ∀ t, s.partner s.cur.tile = some t →
             Issues (.swapt ra rb) s (.swapt a.toNat b.toNat t) [rangeAt a b.toNat true] 0 (b.toNat / 64) p))
  ∧ (∀ (s : State) (ra rb rc : Reg) (h : BitVec 7) (o : MmaOps) (w : Bool) (pitch : BitVec 16),
     let c := s.here.c
     let cfg := c.poolcfg
     let a := s.me.reg ra
     let b := s.me.reg rb
     let p := s.me.pix.toNat
     let queues (i : Instr) (job : Job) (rs : List Range) (at_ : Nat) : Prop := ∃ t, exec i s = .next t ∧ QueuedFor s t job rs at_ 0
     (let k := (s.me.reg o.k).toNat
        let mma (i : Instr) (g : Option Reg) : Prop :=
          let xs := mmaRanges c.pool s.me o g k
          (∀ r, g = some r → baseCheck (s.me.reg r) 2 = none) → (∀ x ∈ xs, rangeCheck cfg x.1 x.2.1 x.2.2 = none) →
          queues i (.mma o.comb.val o.acc o.col o.h.toNat (s.me.reg o.a).toNat (s.me.reg o.b).toNat (g.map (fun r => (s.me.reg r).toNat))
            o.pa.toNat o.pb.toNat k s.me.tfmt s.me.tscl)
            (xs.map (fun x => ({ lo := x.2.1, hi := x.2.2, write := false } : Range)) ++ [accRange cfg o.h.toNat 1]) p
        o.h.toNat + 1 ≤ accHandles cfg → s.Readable [o.a, o.b, o.k, rc] → s.ownChecks s.me false o.h.toNat 1 = none →
          k ≤ 65535 → p < k → (o.comb = 1 → o.col = true ∧ o.pb = 0) → (o.comb = 1 → bfdsCheck s.me o k = none) →
          baseCheck (s.me.reg o.a) (ETy.size (mmaTypes o.comb.val).1) = none → baseCheck (s.me.reg o.b) (ETy.size (mmaTypes o.comb.val).2) = none →
          mma (.mma o) none ∧ mma (.mmag o rc) (some rc))
     ∧ (let sz := if w then 4 else 2
        let len := 15 * pitch.toNat + 16 * sz
        s.Readable [ra, rb] → s.Scratch a sz len → s.Scratch b sz (256 * sz) → pitch.toNat % sz = 0 → p = 0 →
         queues (.tld w ra rb pitch) (.tld sz a.toNat b.toNat pitch.toNat) [rangeAt a len false, rangeAt b (256 * sz) true] 0)
     ∧ (let e := parseDelta (c.pool.bytes a.toNat 64)
        let ranges (f : Nat) : List Range := rangeAt a 64 false
          :: (e.spans f).map (fun x => ({ lo := x.base, hi := x.base + x.len, write := x.write } : Range)) ++ [accRange cfg h.toNat e.handles]
        s.Readable [ra, rb] → s.me.atHome s.cur.tile = true → s.Scratch a 64 64 → deltaFault (c.pool.bytes a.toNat 64) = none →
         h.toNat + e.handles ≤ accHandles cfg → s.ownChecks s.me false h.toNat e.handles = none →
         (p < e.c → (∀ x ∈ e.spans 0, x.check cfg = none) → queues (.delta h ra) (.delta h.toNat e) (ranges 0) p)
         ∧ (p < e.c → (∀ x ∈ e.spans 1, x.check cfg = none) → queues (.dread h ra) (.dread h.toNat e) (ranges 1) p)
         ∧ (p < e.handles → queues (.dscl h ra rb) (.dscl h.toNat e.handles (b.toNat % 2 ^ 32)) (ranges 2) p)))
/-- 07 R164, R165, 05 R94, 15 R303, R315, R318, R320: a queued operation whose turn has come starts and is over 12 cycles and its steps later; at
its end its effect is there and it leaves the queue, unless its lines have to wait for the capture buffer, or it stops at a progress point
for a pre-emption; a range request registers at the
other tile, or is refused and presented again; copy data is written as it arrives; a copy to a peer that is not acknowledged in time ends
with TRANSLATION 4. -/
def Obligations.EngineEvents : Prop :=
  ∀ (s : State) (k t : TileId) (id : Nat) (launch : BitVec 32) (rs : List Range),
    let c := (s.tile k).c
    (∀ o, c.op? id = some o →
      (o.started = none → c.canStart o = true → (s.tile k).r.starts o = true → o.job.unit ≤ 2 → (∀ h n p q, o.job ≠ .accAtt h n p q) →
        (∀ h n p, o.job ≠ .accSpl h n p) →
        Happens .engineOpStart (.op k id) s fun u =>
          s.DueIn u (12 + (o.job.extent - o.pix + o.job.rate.1 - 1) / o.job.rate.1 * o.job.rate.2) .engineOpComplete (.op k id)
          ∧ ((u.tile k).c.op? id).map EngOp.started = some (some (s.tile k).r.cyc) ∧ SameMemory s u)
      ∧ (o.started = none → c.canStart o = false ∨ (s.tile k).r.starts o = false → Happens .engineOpStart (.op k id) s fun u =>
          u.agenda = s.agenda ∧ ((u.tile k).c.op? id).map EngOp.asked = some false)
      ∧ (let x := s.captureOp k id (o.writesNow c)
         let y := x.1.opWork k o o.job.extent
         o.started.isSome = true →
         (x.2 = false → Happens .engineOpComplete (.op k id) s fun u => s.DueIn u 1 .engineOpComplete (.op k id) ∧ SameMemory s u)
         ∧ (x.2 = true → s.stopsAt k o = none → o.job.unit ≤ 3 → (∀ h n p q, o.job ≠ .accAtt h n p q) → (∀ h n p, o.job ≠ .accSpl h n p) →
            Becomes .engineOpComplete (.op k id) s (y.1.endOp k o y.2.2))
         ∧ (∀ f ts td rm sc sat a b d e cv n, o.job = .vec f ts td rm sc sat a b d e cv n → x.2 = true → s.stopsAt k o = none →
            Happens .engineOpComplete (.op k id) s fun u =>
              (u.tile k).c.pool = (vecLoop f ts td rm sc sat a b d e cv o.pix (n - o.pix) (Eng.of c.pool)).pool
              ∧ ∀ x ∈ (u.tile k).c.ops, x.id ≠ id))
      ∧ (∀ f tk path a b z, o.job = .copy f tk path a b z →
          let x := s.captureOp k id (writeLines o.ranges)
          (isLocalCopy k a b = false → Becomes .copyComplete (.op k id) s (s.finishCopy k o))
          ∧ (∀ hi, isLocalCopy k a b = true → x.2 = true → s.stopsAt k o = some hi → Becomes .copyComplete (.op k id) s (x.1.pauseOp k o hi))
          ∧ (isLocalCopy k a b = true → x.2 = true → s.stopsAt k o = none → Becomes .copyComplete (.op k id) s ((x.1.localCopy k o b.count).finishCopy k o))
          ∧ (isLocalCopy k a b = true → x.2 = false → Happens .copyComplete (.op k id) s fun u =>
              s.DueIn u 1 .copyComplete (.op k id) ∧ SameMemory s u))
      ∧ (let done := o.spanOver o.spanRun = true ∨ o.spanRun % 2 ^ o.spanBlocks + 1 = 2 ^ o.spanBlocks
         (done → Becomes .spanCopyTimeout (.op k id) s s)
         ∧ (¬ done → o.fault = none → Happens .spanCopyTimeout (.op k id) s fun u =>
            ∃ o' f, (u.tile k).c.op? id = some o' ∧ o'.fault = some f ∧ f.detail = 4 ∧ f.elem = o.pix))
      ∧ (s.leavesShadow k t = false → ∀ ok, Happens .rangeLockRepresent (.grant k t id ok) s fun u =>
          u.Leaving k .rangeLockRequest
            (.range t k id o.launch ((o.far.filter (fun f => f.tile == t && !f.granted)).map FarRange.range))))
    ∧ ((s.tile t).c.lockRoom rs = true → Happens .rangeLockRequest (.range t k id launch rs) s fun u =>
        (u.tile t).c.locks = (s.tile t).c.locks ++ (usedRanges rs).map (fun r =>
          { tile := k, op := id, launch := launch, range := r, since := (s.tile t).r.cyc })
        ∧ (s.leavesShadow t k = false → u.Leaving t .rangeLockRequest (.grant k t id true)))
    ∧ ((s.tile t).c.lockRoom rs = false → (s.tile t).r.quiet = false → Happens .rangeLockRequest (.range t k id launch rs) s fun u =>
        u.Pending .rangeLockRequest (.grant k t id false))
    ∧ (Happens .rangeLockRequest (.grant k t id false) s fun u => s.DueIn u 64 .rangeLockRepresent (.grant k t id false))
    ∧ ∀ off bs, Happens .copyDataArrival (.bytes t off bs) s fun u =>
        (u.tile t).c.pool.bytes off bs.length = bs ∧ SameMemoryBut t off bs.length s u
/-! ### Merge rounds and collectives (chapter 17) -/

/-- 17 R349, R351, R352, R354 to R356, R358 to R360: the merge instructions of the round's owner, at home. BOPEN opens a round and writes
its record; BSEND parks with its bind request; BWAIT takes the oldest arrival; BNORM queues; BSEAL scales under blim; BABSENT counts an id
done; BCLOSE ends the round; BSTAT reads the record. Without a round of the thread's own, MERGE_STATE 0x08.

17 R349, R352, R354, R356, R358 to R360: BOPEN, BSEND, BWAIT, BNORM, BSEAL, BABSENT, BCLOSE and BSTAT complete: `exec` of each answers the next
state its rule gives, for a thread at home whose round stands as its rule asks. BSEND has then sent its bind request, BNORM has its operation in
the queue. -/
def Obligations.MergeInstructions : Prop :=
  (∀ (s : State) (d ra rb rs : Reg) (h : BitVec 7) (n1 : Fin 16) (want : BitVec 5) (dw : Fin 4),
     let k := s.cur.tile
     let c := s.here.c
     let n := n1.val + 1
     let a := s.me.reg ra
     let b := s.me.reg rb
     let x := s.me.reg rs
     let p := s.me.pix.toNat
     let group (t : State) (i : Nat) : Group := ((t.here.c.round.bind (fun r => r.groups[i]?))).getD (Group.open 0)
     s.me.atHome k = true →
     (let fs := c.larder h.toNat n (if want = 0 then 16 else want.toNat)
      s.Readable [ra, rb] → c.round = none → a.toNat % 2 ^ 32 ≠ 0 → 0 < a.toNat / 2 ^ 32 → a.toNat / 2 ^ 32 ≤ 4096 → s.Scratch b 64 1344 →
       h.toNat + n ≤ accHandles c.poolcfg → s.ownChecks s.me false h.toNat n = none → c.lockHit s.here.r.cyc b.toNat (b.toNat + 1344) = false →
       (fs = [] → Traps (.bopen d h n1 want ra rb) s 0x17 9 a)
       ∧ (fs ≠ [] → c.lockRoom [rangeAt b 1344 true] = true → s.captureFew b.toNat 1344 = false → Completes (.bopen d h n1 want ra rb) s fun t =>
           t.me = (s.me.setReg d (BitVec.ofNat 64 fs.length)).retire s.cur.nh ∧ SameMemoryBut k b.toNat 1344 s t
           ∧ (∃ r, t.here.c.round = some r ∧ r.round = a.toNat % 2 ^ 32 ∧ r.nids = a.toNat / 2 ^ 32 ∧ r.total = h.toNat ∧ r.n = n
               ∧ r.owner = s.me.hslot ∧ r.groups.map Group.first = fs ∧ r.seen = [] ∧ r.done = [] ∧ r.bnext = 0 ∧ r.committed = 0
               ∧ t.here.c.pool.bytes b.toNat 1344 = r.bytes)
           ∧ ∀ f ∈ fs, ∀ i < n, (t.here.c.entry (f + i)).state = .staged ∧ (t.here.c.entry (f + i)).owner = s.me.hslot))
     ∧ (let dest := shadowBase k + a.toNat
        s.Readable [rs, ra, rb] → x.toNat / 2 ^ 48 = 0 → x.toNat % 2 ^ 32 ≠ 0 → a.toNat < 2 ^ 18 → s.inPartition k dest = true →
         s.Scratch b 64 (1024 * n) →
         (n ≤ p → Retires (.bsend rs ra rb n1) s { s.me with pix := 0 })
         ∧ (p < n → c.lockRoom [rangeAt b (1024 * n) false] = true → s.storesPending k s.me = false → s.leavesShadow k dest = false →
             Asks (.bsend rs ra rb n1) s .bsend .bindRequest
               (.merge dest k s.nextRef.tok (x.toNat % 2 ^ 32) (x.toNat / 2 ^ 32) n p [])))
     ∧ Sets (.bstat d dw) s d (BitVec.ofNat 64 ((c.round.map (fun r => r.dword dw.val)).getD 0))
     ∧ (s.here.ownsRound k s.me = none → ∀ i ∈ [Instr.bwait d, .bclose d, .bnorm d h, .bseal d h], Traps i s 0x17 8 0)
     ∧ ∀ r, s.here.ownsRound k s.me = some r →
       (∀ i rest g, s.captureFew r.area 1344 = false → r.order = i :: rest → r.groups[i]? = some g → Completes (.bwait d) s fun t =>
         t.me = (s.me.setReg d (BitVec.ofNat 64 (2 ^ 63 + g.first * 2 ^ 16 + g.id))).retire s.cur.nh
         ∧ (t.here.c.round.map Round.order) = some rest ∧ (group t i).state = 3)
       ∧ (r.order = [] → r.seen.length = r.nids → r.groups.any (fun g => g.state == 1) = false → s.captureFew r.area 1344 = false →
           Completes (.bwait d) s fun t =>
           t.me = (s.me.setReg d 0).retire s.cur.nh)
       ∧ (r.order = [] → r.seen.length ≠ r.nids ∨ r.groups.any (fun g => g.state == 1) = true →
           Arms (.bwait d) s (.bwait d) .bwaitTimeout (.ref s.nextRef))
       ∧ (r.groupAt h.toNat (fun st => st == 3 || st == 4) = none → Traps (.bnorm d h) s 0x17 0x0A (h.setWidth 64))
       ∧ (∀ i, r.groupAt h.toNat (fun st => st == 3 || st == 4) = some i →
           Issues (.bnorm d h) s (.bnorm i r.n d) [accRange c.poolcfg h.toNat r.n] d r.n p)
       ∧ (∀ i g, r.groupAt h.toNat (fun st => st == 4) = some i → r.groups[i]? = some g → c.round = some r →
           let lim := s.me.blim.toNat
           let y := sealScale g.norm (if lim = 2 ^ 31 then 0 else lim)
           (limitBad lim = true → Traps (.bseal d h) s 0x17 7 0)
           ∧ (limitBad lim = false → s.captureFew r.area 1344 = false → Completes (.bseal d h) s fun t =>
               t.me = (s.me.setReg d (BitVec.ofNat 64 (y.1 + if y.2 then 2 ^ 63 else 0))).retire s.cur.nh
               ∧ (group t i).state = 5 ∧ (group t i).scale = y.1))
       ∧ (s.Readable [ra] →
           (2 ^ 16 ≤ a.toNat → Traps (.babsent ra) s 0x17 6 a)
           ∧ (a.toNat < 2 ^ 16 → r.nids ≤ a.toNat → Traps (.babsent ra) s 0x17 3 a)
           ∧ (a.toNat < r.nids → a.toNat < 2 ^ 16 → a.toNat ∈ r.seen → r.boundTo a.toNat = none → Traps (.babsent ra) s 0x17 2 a)
           ∧ (a.toNat < r.nids → a.toNat < 2 ^ 16 → a.toNat ∉ r.seen → r.boundTo a.toNat = none → s.captureFew r.area 1344 = false →
               Completes (.babsent ra) s fun t =>
               t.me = s.me.retire s.cur.nh ∧ ∃ r', t.here.c.round = some r' ∧ r'.absent = r.absent + 1 ∧ a.toNat ∈ r'.seen
                 ∧ a.toNat ∈ r'.done ∧ r'.bnext = r'.due ∧ r'.groups = r.groups)
           ∧ ∀ i, a.toNat < r.nids → a.toNat < 2 ^ 16 → r.boundTo a.toNat = some i → s.captureFew r.area 1344 = false →
               Completes (.babsent ra) s fun t =>
               t.me = s.me.retire s.cur.nh ∧ (group t i).state = 0 ∧ ∃ r', t.here.c.round = some r' ∧ a.toNat ∈ r'.done)
       ∧ (c.closing r = .arrived → Sets (.bclose d) s d 0x8000000000000000)
       ∧ (∀ f, c.closing r = .unsealed f → Traps (.bclose d) s 0x17 0x0B (BitVec.ofNat 64 f))
       ∧ (c.closing r = .closed → Completes (.bclose d) s fun t =>
           t.me = (s.me.setReg d (BitVec.ofNat 64 r.committed)).retire s.cur.nh ∧ t.here.c.round = none ∧ SameMemory s t)
       ∧ (c.closing r = .wait → Arms (.bclose d) s (.bclose d) .bcloseTimeout (.ref s.nextRef)))
  ∧ (∀ (s : State) (d ra rb rs : Reg) (h : BitVec 7) (n1 : Fin 16) (want : BitVec 5) (dw : Fin 4),
     let k := s.cur.tile
     let c := s.here.c
     let n := n1.val + 1
     let a := s.me.reg ra
     let b := s.me.reg rb
     let x := s.me.reg rs
     let p := s.me.pix.toNat
     let gives (i : Instr) (v : Word) : Prop := ∃ t, exec i s = .next t ∧ t.me = (s.me.setReg d v).retire s.cur.nh ∧ SameMemory s t
     s.me.atHome k = true →
     (let fs := c.larder h.toNat n (if want = 0 then 16 else want.toNat)
      s.Readable [ra, rb] → c.round = none → a.toNat % 2 ^ 32 ≠ 0 → 0 < a.toNat / 2 ^ 32 → a.toNat / 2 ^ 32 ≤ 4096 → s.Scratch b 64 1344 →
       h.toNat + n ≤ accHandles c.poolcfg → s.ownChecks s.me false h.toNat n = none → c.lockHit s.here.r.cyc b.toNat (b.toNat + 1344) = false →
       fs ≠ [] → c.lockRoom [rangeAt b 1344 true] = true → s.captureFew b.toNat 1344 = false →
       ∃ t, exec (.bopen d h n1 want ra rb) s = .next t ∧ t.me = (s.me.setReg d (BitVec.ofNat 64 fs.length)).retire s.cur.nh
         ∧ ∃ r, t.here.c.round = some r ∧ r.round = a.toNat % 2 ^ 32 ∧ r.nids = a.toNat / 2 ^ 32 ∧ r.groups.map Group.first = fs)
     ∧ (let dest := shadowBase k + a.toNat
        s.Readable [rs, ra, rb] → x.toNat / 2 ^ 48 = 0 → x.toNat % 2 ^ 32 ≠ 0 → a.toNat < 2 ^ 18 → s.inPartition k dest = true →
         s.Scratch b 64 (1024 * n) →
         (n ≤ p → ∃ t, exec (.bsend rs ra rb n1) s = .next t ∧ t = s.setMe (({ s.me with pix := 0 } : Thread).retire s.cur.nh))
         ∧ (p < n → c.lockRoom [rangeAt b (1024 * n) false] = true → s.storesPending k s.me = false → s.leavesShadow k dest = false →
             ∃ t, exec (.bsend rs ra rb n1) s = .next t ∧ t.ParkedFor .bsend ∧ SameMemory s t
               ∧ t.Leaving k .bindRequest (.merge dest k s.nextRef.tok (x.toNat % 2 ^ 32) (x.toNat / 2 ^ 32) n p [])))
     ∧ gives (.bstat d dw) (BitVec.ofNat 64 ((c.round.map (fun r => r.dword dw.val)).getD 0))
     ∧ (∀ r, s.here.ownsRound k s.me = some r →
         (∀ i rest g, r.order = i :: rest → r.groups[i]? = some g → s.captureFew r.area 1344 = false →
           ∃ t, exec (.bwait d) s = .next t ∧ t.me = (s.me.setReg d (BitVec.ofNat 64 (2 ^ 63 + g.first * 2 ^ 16 + g.id))).retire s.cur.nh
             ∧ (t.here.c.round.map Round.order) = some rest)
         ∧ (∀ i, r.groupAt h.toNat (fun st => st == 3 || st == 4) = some i → p < r.n →
             ∃ t, exec (.bnorm d h) s = .next t ∧ QueuedFor s t (.bnorm i r.n d) [accRange c.poolcfg h.toNat r.n] p d)
         ∧ (∀ i g, r.groupAt h.toNat (fun st => st == 4) = some i → r.groups[i]? = some g → c.round = some r → limitBad s.me.blim.toNat = false →
             s.captureFew r.area 1344 = false →
             let v := sealScale g.norm (if s.me.blim.toNat = 2 ^ 31 then 0 else s.me.blim.toNat)
             ∃ t, exec (.bseal d h) s = .next t ∧ t.me = (s.me.setReg d (BitVec.ofNat 64 (v.1 + if v.2 then 2 ^ 63 else 0))).retire s.cur.nh)
         ∧ (s.Readable [ra] → a.toNat < r.nids → a.toNat < 2 ^ 16 → a.toNat ∉ r.seen → r.boundTo a.toNat = none →
             s.captureFew r.area 1344 = false →
             ∃ t, exec (.babsent ra) s = .next t ∧ t.me = s.me.retire s.cur.nh ∧ ∃ r', t.here.c.round = some r' ∧ a.toNat ∈ r'.done)
         ∧ (c.closing r = .closed → gives (.bclose d) (BitVec.ofNat 64 r.committed))))
/-- 17 R365, R366, R369: COLLD queues the load of a graph in the scratchpad, or reads one from the cellar first; COLRUN answers a code, or
holds a round until the thread's stores are performed; COLWAIT waits while a round runs and then gives its outcome; COLABT ends a running
round aborted; COLST gives doubleword 0 of the work area.

17 R365, R366, R369: COLLD, COLRUN, COLWAIT, COLABT and COLST complete: `exec` of each answers the next state its rule gives, for a graph that
stands as its rule asks. COLLD has its operation in the queue, COLRUN holds its round. -/
def Obligations.CollectiveInstructions : Prop :=
  (∀ (s : State) (d ra rb : Reg),
     let k := s.cur.tile
     let cfg := s.here.c.poolcfg
     let a := s.me.reg ra
     let b := s.me.reg rb
     let code (i : Instr) (n : Nat) : Prop := Sets i s d (BitVec.ofNat 64 n)
     (s.Readable [ra, rb] →
       let h0 : Word := BitVec.ofNat 64 (s.poolNat a.toNat 8)
       let len := 16 + 16 * graphOps h0
       graphAddr a 16 true = none → s.Scratch b 64 64 →
       (ra ≠ 0 → s.Scratch a 16 len → s.Scratch b 64 (areaLen h0) →
         let rs := [rangeAt b (areaLen h0) true, rangeAt a len false]
         Completes (.colld d ra rb) s fun t => QueuedFor s t (.colld d a b.toNat) rs 0 d)
       ∧ (ra ≠ 0 → spaceOf a = 4 → s.me.readBuf a = none → Completes (.colld d ra rb) s fun t => t.ParkedFor .read ∧ SameMemory s t)
       ∧ (ra = 0 → Completes (.colld d ra rb) s fun t => QueuedFor s t (.colld d 0 b.toNat) [] 0 d))
     ∧ (s.Readable [ra, rb] → s.colBases a = none →
         let bases := (List.range 8).map (fun i => BitVec.ofNat 64 (s.poolNat (a.toNat + 8 * i) 8))
         let i := Instr.colrun d ra rb
         (s.here.c.coll = none → code i 1)
         ∧ ∀ c, s.here.c.coll = some c →
           (c.active = true → code i 2)
           ∧ (c.active = false → b.toNat % 2 ^ 16 = 0 ∨ 2 ^ 16 ≤ b.toNat → code i 3)
           ∧ (c.active = false → b ≠ 0 → b.toNat < 2 ^ 16 →
             (∀ j, c.badBase cfg bases = some j → code i (4 + 256 * j))
             ∧ (c.badBase cfg bases = none → s.here.c.lockRoom (c.baseRanges bases) = false → Waits i s .lockSpace)
             ∧ (c.badBase cfg bases = none → s.here.c.lockRoom (c.baseRanges bases) = true → Completes i s fun t =>
                 t.me = (s.me.setReg d 0).retire s.cur.nh ∧ SameMemory s t ∧ t.Pending .colrunHoldEnd (.tile k)
                 ∧ ∃ c', t.here.c.coll = some c' ∧ c'.held = some (b.toNat, s.me.tid, s.me.launch) ∧ c'.bases = bases ∧ c'.ops = c.ops)))
     ∧ (s.here.c.coll = none → code (.colwait d) 3 ∧ code (.colst d) 0 ∧ Retires .colabt s s.me)
     ∧ ∀ c, s.here.c.coll = some c →
       (c.active = true → Waits (.colwait d) s (.colwait d))
       ∧ (c.active = false → c.ran = false → code (.colwait d) 3)
       ∧ (c.active = false → c.ran = true →
           (c.state = 5 → Traps (.colwait d) s 0x18 c.mop (BitVec.ofNat 64 c.mhash))
           ∧ (c.state ≠ 5 → code (.colwait d) ((if c.state = 2 then 0 else if c.state = 4 then 2 else 1) + c.ndone * 2 ^ 8)))
       ∧ (c.state ≠ 1 → Retires .colabt s s.me)
       ∧ (c.state = 1 → s.captureFew c.area (areaLen c.h0) = false → Completes .colabt s fun t => t.me = s.me.retire s.cur.nh ∧ (t.here.c.coll.map Coll.state) = some 3)
       ∧ code (.colst d) (c.state + c.round * 2 ^ 16 + c.ndone * 2 ^ 32))
  ∧ (∀ (s : State) (d ra rb : Reg),
     let k := s.cur.tile
     let c := s.here.c
     let a := s.me.reg ra
     let b := s.me.reg rb
     let gives (i : Instr) (v : Word) : Prop := ∃ t, exec i s = .next t ∧ t.me = (s.me.setReg d v).retire s.cur.nh ∧ SameMemory s t
     (s.Readable [ra, rb] →
         let h0 : Word := BitVec.ofNat 64 (s.poolNat a.toNat 8)
         let len := 16 + 16 * graphOps h0
         graphAddr a 16 true = none → s.Scratch b 64 64 → ra ≠ 0 → s.Scratch a 16 len → s.Scratch b 64 (areaLen h0) →
         ∃ t, exec (.colld d ra rb) s = .next t ∧ QueuedFor s t (.colld d a b.toNat) [rangeAt b (areaLen h0) true, rangeAt a len false] 0 d)
     ∧ (∀ g, s.here.c.coll = some g →
         let bases := (List.range 8).map (fun i => BitVec.ofNat 64 (s.poolNat (a.toNat + 8 * i) 8))
         (s.Readable [ra, rb] → s.colBases a = none → g.active = false → b ≠ 0 → b.toNat < 2 ^ 16 → g.badBase c.poolcfg bases = none →
           c.lockRoom (g.baseRanges bases) = true →
           ∃ t, exec (.colrun d ra rb) s = .next t ∧ t.me = (s.me.setReg d 0).retire s.cur.nh ∧ t.Pending .colrunHoldEnd (.tile k))
         ∧ (g.active = false → g.ran = true → g.state ≠ 5 →
             gives (.colwait d) (BitVec.ofNat 64 ((if g.state = 2 then 0 else if g.state = 4 then 2 else 1) + g.ndone * 2 ^ 8)))
         ∧ (g.state = 1 → s.captureFew g.area (areaLen g.h0) = false →
             ∃ t, exec .colabt s = .next t ∧ t.me = s.me.retire s.cur.nh ∧ (t.here.c.coll.map Coll.state) = some 3)
         ∧ gives (.colst d) (BitVec.ofNat 64 (g.state + g.round * 2 ^ 16 + g.ndone * 2 ^ 32))))
/-- 17 R352 to R354, R357, R359, R372: a bind request is refused, bound to the lowest free group or bounced; data fills the bound group in
quarters of a tile, the marker of a complete one is acknowledged; a commit counts its id done; a reply reaches its parked thread; time-outs
answer 2^62. -/
def Obligations.MergeEvents : Prop :=
  ∀ (s : State) (t src k : TileId) (tok round cid n idx i : Nat) (data : List Byte) (r : Round),
    let arg := Payload.merge t src tok round cid n idx data
    let back := Payload.merge src t tok round cid n idx []
    let dest : Ref := { tile := src, tok := tok }
    let why (d : Nat) : TrapInfo := { code := 0x17, detail := d, val := BitVec.ofNat 64 (round + cid * 2 ^ 32) }
    let away := (s.tile t).r.mode = .stopping ∨ (s.tile t).r.mode = .saved
    let cfg := (s.tile t).c.poolcfg
    (away → (s.tile t).r.quiet = false → Happens .bindRequest arg s fun u => u.Pending .messageBounce back)
    ∧ (¬ away → s.leavesShadow t src = false →
        ((s.tile t).c.round = none → Happens .bindRequest arg s fun u => u.Leaving t .accessReply (.reply dest (.trap (why 1))))
        ∧ ((s.tile t).c.round = some r →
            (∀ d, Round.refusal (some r) round cid n = some d → Happens .bindRequest arg s fun u =>
              u.Leaving t .accessReply (.reply dest (.trap (why d))))
            ∧ (Round.refusal (some r) round cid n = none → r.freeGroup = none →
                Happens .bindRequest arg s fun u => u.Leaving t .messageBounce back)
            ∧ (Round.refusal (some r) round cid n = none → r.freeGroup = some i → Happens .bindRequest arg s fun u =>
                u.Leaving t .accessReply back
                ∧ ∃ r', (u.tile t).c.round = some r' ∧ cid ∈ r'.seen ∧ (r'.groups[i]?).map (fun g => (g.state, g.id)) = some (1, cid))))
    ∧ (s.leavesShadow src t = false → Happens .bindRequestRetry arg s fun u =>
        u.Leaving src .bindRequest (.merge t src tok round cid n idx []))
    ∧ (∀ g, (s.tile t).c.round = some r → r.round = round → r.boundTo cid = some i → r.groups[i]? = some g →
        (g.mark = false → r.area + 1344 ≤ accOff cfg g.first + 256 * idx → Happens .mergeData arg s fun u =>
          (u.tile t).c.pool.bytes (accOff cfg g.first + 256 * idx) data.length = data
          ∧ (u.tile t).c.round = some (r.setGroup i (fun g => { g with parts := g.parts + 1 })))
        ∧ (g.parts ≠ 4 * r.n → Happens .mergeMarker arg s fun u =>
            (u.tile t).c.round = some (r.setGroup i (fun g => { g with mark := true, src := some (src, tok) })))
        ∧ (g.parts = 4 * r.n → s.leavesShadow t src = false → Happens .mergeMarker arg s fun u =>
            u.Leaving t .accessReply (.reply dest .ack)))
    ∧ (s.packetGroup t round cid = none →
        (Happens .mergeData arg s fun u => (u.tile t).c = (s.tile t).c)
        ∧ (s.leavesShadow t src = false → Happens .mergeMarker arg s fun u => u.Leaving t .accessReply (.reply dest (.trap (why 2)))))
    ∧ (∀ id o g, (s.tile k).c.op? id = some o → o.job = .commit i r.n → (s.tile k).c.round = some r → r.groups[i]? = some g →
        let x := s.captureOp k id (writeLines [accRange (s.tile k).c.poolcfg r.total r.n] ++ linesOf r.area recordLen)
        (x.2 = true → s.stopsAt k o = none → Happens .mergeCommit (.op k id) s fun u => ∀ r', (u.tile k).c.round = some r' →
          g.id ∈ r'.done ∧ r'.committed = r.committed + (if g.rejected then 0 else 1)
          ∧ r'.rejected = r.rejected + (if g.rejected then 1 else 0))
        ∧ (∀ hi, x.2 = true → s.stopsAt k o = some hi → Becomes .mergeCommit (.op k id) s (x.1.pauseOp k o hi))
        ∧ (x.2 = false → Happens .mergeCommit (.op k id) s fun u => s.DueIn u 1 .mergeCommit (.op k id) ∧ (u.tile k).c = (s.tile k).c))
    ∧ ∀ j p, s.Names dest j → (s.thr src j).park = some p →
        let th := s.thr src j
        (∀ w, p.why ≠ .bsend → Happens .accessReply (.reply dest (.value w)) s fun u => u.thr src j = th.receive p w)
        ∧ (p.why ≠ .bsend → th.atThird = false → Happens .accessReply (.reply dest (.trap (why 1))) s fun u =>
            u.thr src j = th.enterTrap th.pc (causeOf 0x17 1 false) (why 1).val)
        ∧ (Happens .bwaitTimeout (.ref dest) s fun u => u.thr src j = th.receive p 0x4000000000000000)
        ∧ (Happens .bcloseTimeout (.ref dest) s fun u => u.thr src j = th.receive p 0x4000000000000000)
/-- 17 R366 to R368, R372, 06 R140: a held round runs once the thread's stores are performed, its time limit set; a chunk is refused, acknowledged
again, ends the round MISMATCH, or is taken and acknowledged; acknowledgements count; neither has an effect at a tile that has stopped for a pre-emption; a chunk not acknowledged is sent again; a time-out,
an abort and a pre-emption's limit end the round. -/
def Obligations.CollectiveEvents : Prop :=
  ∀ (s : State) (k : TileId) (x : Chunk) (i rn idx len ctx : Nat) (c : Coll) (o : CollOp),
    let coll (u : State) : Option Coll := (u.tile k).c.coll
    let t := shadowBase k + x.src
    let ack := Payload.chunkAck t x.round x.op x.idx x.data.length
    let now := (s.tile k).r.cyc
    let frozen := (s.tile k).r.mode.stops = true
    ((coll s) = some c →
      (∀ r tid lid, c.held = some (r, tid, lid) →
        let waits := (s.tile k).c.outq.any (fun p => p.launch == lid && p.tid == tid && decide (p.issued ≤ c.ends))
        (waits = true → Becomes .colrunHoldEnd (.tile k) s s)
        ∧ (waits = false → Happens .colrunHoldEnd (.tile k) s fun u =>
            s.DueIn u (s.tile k).c.coltimeo.toNat .roundTimeout (.tileNum k r)
            ∧ (coll u).map (fun c => (c.round, c.held)) = some (r, none)))
      ∧ (c.state = 1 → c.round = rn →
          (c.ends ≤ now → Happens .roundTimeout (.tileNum k rn) s fun u => (coll u).map Coll.state = some 4)
          ∧ (now < c.ends → Becomes .roundTimeout (.tileNum k rn) s s)
          ∧ Happens .roundAbort (.tileNum k rn) s fun u => (coll u).map Coll.state = some 3)
      ∧ (c.state ≠ 1 ∨ c.round ≠ rn → Becomes .roundTimeout (.tileNum k rn) s s
          ∧ Becomes .roundAbort (.tileNum k rn) s (s.log k kChunk 0 8 .roundAbort (.tileNum k rn) 0))
      ∧ (¬ frozen → chunkFate (some c) x = .mismatch → Happens .chunkArrival (.chunk k x) s fun u =>
          (coll u).map (fun c => (c.state, c.mop, c.mhash)) = some (5, x.op, x.hash))
      ∧ (∀ j, ¬ frozen → chunkFate (some c) x = .take j → c.ops[j]? = some o → opKind o = 2 → spaceOf (c.bases.getD (opBase o) 0) = 0 →
          spaceOf (c.bases.getD (opBase o) 0 + BitVec.ofNat 64 x.off) = 0 → x.span = false → s.leavesShadow k t = false →
          Happens .chunkArrival (.chunk k x) s fun u => u.Leaving k .chunkAck ack)
      ∧ (¬ frozen → c.ops[i]? = some o → c.state = 1 → c.round = rn → o.st = 1 → opKind o = 0 → o.acked.contains idx = false →
          o.bytes + chunkLen (opLen o) idx < opLen o → Happens .chunkAck (.chunkAck k rn i idx len) s fun u =>
            coll u = some (c.setOp i (fun _ => { o with bytes := o.bytes + chunkLen (opLen o) idx, acked := o.acked ++ [idx] })))
      ∧ (c.ops[x.op]? = some o → c.state = 1 → c.round = x.round → o.st = 1 → o.acked.contains x.idx = false → opSpan o = false →
          x.span = false → s.leavesShadow k (shadowBase k + opPeer o) = false → Happens .chunkResend (.chunk k x) s fun u =>
            u.Leaving k .chunkArrival (.chunk (shadowBase k + opPeer o) x) ∧ s.DueIn u 64 .chunkResend (.chunk k x))
      ∧ (c.ops[x.op]? = some o → c.state ≠ 1 ∨ c.round ≠ x.round ∨ o.acked.contains x.idx = true → Becomes .chunkResend (.chunk k x) s s))
    ∧ (frozen → Happens .chunkAck (.chunkAck k rn i idx len) s fun u => coll u = coll s)
    ∧ (frozen ∨ chunkFate (coll s) x = .refused →
        Becomes .chunkArrival (.chunk k x) s (s.log k kChunk 0 (8 + x.data.length) .chunkArrival (.chunk k x) 0))
    ∧ (¬ frozen → chunkFate (coll s) x = .repeated → x.span = false → s.leavesShadow k t = false → Happens .chunkArrival (.chunk k x) s fun u =>
        coll u = coll s ∧ SameMemory s u ∧ u.Leaving k .chunkAck ack)
    ∧ (∀ d, s.dev.ctx? ctx = some d →
        (d.deferred = true → d.res = .stopping → Happens .coldeferExpire (.num ctx) s fun u =>
          (u.dev.ctx? ctx).map Ctx.deferred = some false ∧ ∀ j ∈ s.tilesOf ctx, s.DueIn u 0 .coldeferExpire (.tile j))
        ∧ (d.deferred = false ∨ d.res ≠ .stopping → Becomes .coldeferExpire (.num ctx) s s))
    ∧ (coll s = some c → c.state = 1 → (s.tile k).c.preempt = true → Happens .coldeferExpire (.tile k) s fun u =>
        (coll u).map Coll.state = some 3)
/-- 02 R33 to R36, R39, 15 R318, R319, 17 R367, 23 R379, R380: a frame that does not pass its check is discarded and counted, whatever it is; one
that passes goes to the tile of its LTN, whose router logs it: a chunk, an abort of its round, an acknowledgement; or it is a block for the
cellar, acknowledged with a status, or a probe, which only resets the silence timer; an idle port probes, a silent one goes down, a failed
lane leaves four. -/
def Obligations.SpanEvents : Prop :=
  ∀ (s : State) (p addr : Nat) (bs : List Byte),
    let arg := Payload.data p addr bs
    let seen := s.setPort p { s.dev.port p with lastRx := s.now, up := true }
    let events := [Instr.spanCopyDataReceive, .spanCopyAckReceive, .spanChunkReceive, .spanRoundAbortReceive, .spanProbeReceive]
    let dropped (u : State) : Prop := (u.dev.port p).discards = (s.dev.port p).discards + 1 ∧ (u.dev.port p).lastRx = s.now ∧ SameMemory s u
    (openFrame bs = none → ∀ ev ∈ events, Happens ev arg s dropped)
    ∧ (∀ f, openFrame bs = some f →
        (f.type = 4 → Becomes .spanProbeReceive arg s seen)
        ∧ (s.dev.sourceOf f = none → ∀ ev, ev ∈ events.take 4 → f.type = events.idxOf ev → Happens ev arg s fun u =>
            (u.dev.port p).rejects = (s.dev.port p).rejects + 1 ∧ SameMemory s u)
        ∧ ∀ ctx e, s.dev.sourceOf f = some (ctx, e) →
            let peer := s.dev.peerNumber ctx e
            (∀ k, s.tileOf ctx (f.seq / 2 ^ 9 % 2 ^ 18) = some k →
              let goesOn (ev : Instr) : Prop := Happens ev arg s fun u =>
                s.DueIn u 0 ev (.frame k peer f.type f.seq f.round f.rest) ∧ u.dev = seen.dev ∧ SameMemory s u
              (f.type = 3 → f.seq < 2 ^ 27 → goesOn .spanRoundAbortReceive)
              ∧ (f.type = 2 → f.seq < 2 ^ 27 → blockReserved (f.rest.drop 16) = false → (unpackBlock (f.rest.drop 16)).isSome = true →
                  leNat (f.rest.take 16) / 2 ^ 40 % 2 ^ 24 = 0 → leNat (f.rest.take 16) / 2 ^ 96 = 0 → goesOn .spanChunkReceive)
              ∧ (f.type = 1 → blockReserved f.rest = false → (unpackBlock f.rest).isSome = true → goesOn .spanCopyAckReceive))
            ∧ (f.type = 2 → blockReserved (f.rest.drop 16) = true ∨ leNat (f.rest.take 16) / 2 ^ 96 ≠ 0 → Happens .spanChunkReceive arg s dropped)
            ∧ (f.type = 0 → blockReserved f.rest = true → Happens .spanCopyDataReceive arg s dropped)
            ∧ (f.type = 0 → blockReserved f.rest = false → ∀ d, unpackBlock f.rest = some d → Happens .spanCopyDataReceive arg s fun u =>
                ∃ a : Word, a.toNat = 4 * 2 ^ 60 + (addr + 4096 * (f.seq % 2 ^ 9)) % 2 ^ 40
                  ∧ u.cellar = (seen.fwWrite ctx a d).1.cellar ∧ (u.dev.port e.port).sent.length = (s.dev.port e.port).sent.length + 1))
    ∧ (∀ k peer type seq round rest,
        let here (ev : Instr) : State := s.log k kSpan 0 (16 + rest.length) ev (.frame k peer type seq round rest) 0
        (∀ d, unpackBlock (rest.drop 16) = some d → Becomes .spanChunkReceive (.frame k peer type seq round rest) s
          ((here .spanChunkReceive).chunkAt k (frameChunk peer seq round rest d)))
        ∧ (∀ c, (s.tile k).c.coll = some c → c.state = 1 → c.round = round →
            Happens .spanRoundAbortReceive (.frame k peer type seq round rest) s fun u => (u.tile k).c.coll.map Coll.state = some 3)
        ∧ (round = 0 → ∀ d, unpackBlock rest = some d → Becomes .spanCopyAckReceive (.frame k peer type seq round rest) s
            ((here .spanCopyAckReceive).copyAcked k (seq / 2 ^ 27) (seq % 2 ^ 9) (leNat d)))
        ∧ (round ≠ 0 → ∀ c i, (s.tile k).c.coll = some c → c.sendFor peer (seq % 2 ^ 9) = some i →
            Becomes .spanCopyAckReceive (.frame k peer type seq round rest) s
              ((s.log k kLreply 0 0 .spanCopyAckReceive (.frame k peer type seq round rest) 0).chunkAcked k round i (seq % 2 ^ 9))))
    ∧ (25000 ≤ s.now - (s.dev.port p).lastTx → Happens .spanProbe (.num p) s fun u => s.DueIn u 25000 .spanProbe (.num p)
        ∧ (u.dev.port p).sent = (s.dev.port p).sent ++ [sealFrame (frameHeader 4 s.dev.fuses.ident 0 0 0)] ∧ (u.dev.port p).lastTx = s.now)
    ∧ (s.now - (s.dev.port p).lastTx < 25000 → Happens .spanProbe (.num p) s fun u => u.dev = s.dev
        ∧ s.DueIn u (25000 - (s.now - (s.dev.port p).lastTx)) .spanProbe (.num p))
    ∧ (2500000 ≤ s.now - (s.dev.port p).lastRx → Happens .spanPortDown (.num p) s fun u => (u.dev.port p).up = false)
    ∧ (s.now - (s.dev.port p).lastRx < 2500000 → Happens .spanPortDown (.num p) s fun u => u.dev = s.dev)
    ∧ Happens .spanLaneFail (.num p) s fun u => (u.dev.port p).lanes = 4
/-! ### Where the instructions of registers, threads, engines and rounds complete (chapters 14 to 17) -/

/-! ### Events of threads, groups and memory (chapters 4 to 7, 14) -/

/-- 06 R128, R130, R132 to R134, 14 R283: a migrant takes the lowest free slot or a guest entry, or is bounced home by the router; home its
own thread always finds a place; one that holds a packet waits for its doublewords; a bounced one goes again until migretry, when it holds
MIGRATE_REFUSED; notices update the reservation; an RFILL fills, waits or follows the thread. -/
def Obligations.MigrantEvents : Prop :=
  ∀ (s : State) (t src k : TileId) (th : Thread) (va v : Word) (tid h : Nat) (r : Reg) (launch : BitVec 32) (j : Fin 16) (w : Resv)
    (back : Option TileId),
    let home := shadowBase t + th.home.toNat
    let arg := Payload.migrant t src th va
    let c := (s.tile t).c
    let placed (u : State) : Option Thread := (u.tile t).slot j
    let resv (u : State) (k : TileId) (h : Nat) : Option Resv := (u.tile k).c.resv.get? h
    let rested : Thread := { th with wrote := false }
    let entered : Thread := { rested with park := none, fault := none }
    (th.atHome t = false → s.leavesShadow t home = false →
      ((s.tile t).freeSlot = some j →
        (th.held = false → Happens .migrantArrival arg s fun u =>
          placed u = some entered ∧ u.Leaving t .locationNotice (.notice home th.hslot.toNat t))
        ∧ (th.held = true → Happens .migrantArrival arg s fun u =>
            (placed u).map (fun x => (x.held, x.park.map Park.why)) = some (true, some .packet)
            ∧ u.Leaving t .locationNotice (.notice home th.hslot.toNat t)))
      ∧ (∀ e, (s.tile t).freeSlot = none → c.freeEntry = some e → Happens .migrantArrival arg s fun u =>
          (u.tile t).c.guests = c.guests ++ [{ entry := e, thread := rested, refused := none }]
          ∧ u.Leaving t .locationNotice (.notice home th.hslot.toNat t))
      ∧ ((s.tile t).freeSlot = none → c.freeEntry = none → (s.tile t).r.quiet = false → Happens .migrantArrival arg s fun u =>
          u.Pending .migback (.migrant home t th va) ∧ (u.tile t).c = c))
    ∧ (th.atHome t = true → th.held = false → c.resv.get? th.hslot.toNat = some w → (s.tile t).freeSlot = some j →
        Happens .migrantArrival arg s fun u =>
          placed u = some { ((rested.comeHome w).fillAll w.fills) with park := none, fault := none } ∧ resv u t th.hslot.toNat = none)
    ∧ (resv s k th.hslot.toNat = some w →
        (w.bounces + 1 < (s.tile k).c.migretry.toNat → Happens .migback (.migrant k t th va) s fun u =>
          resv u k th.hslot.toNat = some { w with bounces := w.bounces + 1, transit := true }
          ∧ s.DueIn u (s.tile k).c.migback.toNat .migbackResend (.migrant k t th va))
        ∧ ((s.tile k).c.migretry.toNat ≤ w.bounces + 1 → (s.tile k).freeSlot = some j → Happens .migback (.migrant k t th va) s fun u =>
            (((u.tile k).slot j).bind Thread.fault) = some { code := 0x0F, detail := 0, val := va } ∧ resv u k th.hslot.toNat = none))
    ∧ (s.leavesShadow k t = false → Happens .migbackResend (.migrant k t th va) s fun u => u.Leaving k .migrantArrival (.migrant t k th va))
    ∧ (resv s k h = some w →
        (Happens .locationNotice (.notice k h t) s fun u =>
          resv u k h = some { w with away := t, transit := false, bounces := 0, fills := [] })
        ∧ Happens .exitNotice (.tileNum k h) s fun u => resv u k h = none)
    ∧ ((s.tile t).slotOfTid tid launch = some j → Happens .rfillDelivery (.fill t tid r v launch back) s fun u =>
        u.thr t j = (s.thr t j).fillReg r v)
    ∧ ((s.tile t).slotOfTid tid launch = none → (∀ g ∈ c.guests, ¬ (g.thread.tid = tid ∧ g.thread.launch = launch)) →
        (s.tile t).r.quiet = false →
        (t ≠ shadowBase t + tid % 2 ^ 18 → Happens .rfillDelivery (.fill t tid r v launch back) s fun u =>
          u.Pending .rfillDelivery (.fill (shadowBase t + tid % 2 ^ 18) tid r v launch (some t)))
        ∧ (t = shadowBase t + tid % 2 ^ 18 → resv s t (tid / 2 ^ 18) = some w → w.launch = launch →
            (w.transit = true ∨ back = some w.away → Happens .rfillDelivery (.fill t tid r v launch back) s fun u =>
              resv u t (tid / 2 ^ 18) = some { w with fills := w.fills ++ [(r, v)] })
            ∧ (w.transit = false → back ≠ some w.away → Happens .rfillDelivery (.fill t tid r v launch back) s fun u =>
                u.Pending .rfillDelivery (.fill w.away tid r v launch none))))
/-- 04 R86, 06 R135, 14 R285, R291, R296, 03 R62: a message enters a mailbox that holds fewer than four, or bounces; its sender completes, tries
again after 64 cycles or traps; the packet server grants the oldest waiting thread the packet at the position, which loads that thread; QPOST is
answered. -/
def Obligations.MessageEvents : Prop :=
  ∀ (s : State) (t : TileId) (m : Msg) (r : Ref) (ctx pkq q n : Nat) (bs : List Byte),
    let mail (u : State) : List Msg := (u.tile t).c.mail[m.mbox]
    let pk := BitVec.ofNat 64 pkq
    ((s.tile t).r.quiet = false →
      ((mail s).length < 4 → Happens .messageDelivery (.msg t m r) s fun u =>
        mail u = mail s ++ [m] ∧ u.Pending .messageAcceptance (.ref r))
      ∧ (4 ≤ (mail s).length → Happens .messageDelivery (.msg t m r) s fun u => mail u = mail s ∧ u.Pending .messageBounce (.ref r)))
    ∧ (∀ d, s.dev.ctx? ctx = some d →
        (Happens .packetRetire (.nums3 ctx pkq q) s fun u =>
          (u.dev.ctx? ctx).map Ctx.heldPos = some (d.heldPos.filter (fun x => x != (pk, q))))
        ∧ (Happens .packetGrant (.post r ctx pkq bs) s fun u =>
            (u.dev.ctx? ctx).map Ctx.tasks = some (d.tasks ++ [{ src := r, pkq := pk }]) ∧ s.DueIn u 0 .packetGrant (.nums ctx pkq))
        ∧ (let live := d.tasks.filter (fun x => x.pkq != pk || s.stillParked x.src)
           let s1 := s.setCtxRec ctx { d with tasks := live }
           let hd := s1.fwRead ctx pk 24
           let pos := (wordAt hd.2 1).toNat
           let plog := (wordAt hd.2 2).toNat % 32
           let packet := s1.fwRead ctx (packetAddr pk plog pos) 64
           ∀ w, d.res = .resident → live.find? (fun x => x.pkq == pk) = some w → hd.1 = 0 →
            (wordAt hd.2 0 = wordAt hd.2 1 → Happens .packetGrant (.nums ctx pkq) s fun u =>
              u.Pending .packetGrant (.nums ctx pkq) ∧ SameMemory s u)
            ∧ (wordAt hd.2 0 ≠ wordAt hd.2 1 → packet.1 = 0 → Happens .packetGrant (.nums ctx pkq) s fun u =>
                s.DueIn u 0 .packetGrant (.buffer w.src (pos % 2 ^ plog) packet.2)
                ∧ (u.dev.ctx? ctx).map Ctx.heldPos = some (d.heldPos ++ [(pk, pos % 2 ^ plog)]))))
    ∧ ∀ j p, s.Names r j → (s.thr r.tile j).park = some p →
        let th := s.thr r.tile j
        let now (u : State) : Thread := u.thr r.tile j
        (Happens .messageAcceptance (.ref r) s fun u => now u = ({ th with pend := none } : Thread).finish p)
        ∧ (Happens .packetGrant (.buffer r n bs) s fun u => now u = (th.grant bs n).finish p)
        ∧ (∀ x, th.pend = some x →
            (th.sndretry.toNat ≤ x.bounces + 1 → th.atThird = false → Happens .messageBounce (.ref r) s fun u =>
              now u = ({ th with pend := none } : Thread).enterTrap th.pc (causeOf 0x0E x.mbox.val false) (x.ltn.setWidth 64))
            ∧ (x.bounces + 1 < th.sndretry.toNat → Happens .messageBounce (.ref r) s fun u =>
                (now u).pend = some { x with bounces := x.bounces + 1 } ∧ s.DueIn u 64 .messageReinject (.ref r))
            ∧ (let dest := shadowBase r.tile + x.ltn.toNat
               s.leavesShadow r.tile dest = false → Happens .messageReinject (.ref r) s fun u =>
                u.Leaving r.tile .messageDelivery
                  (.msg dest { src := BitVec.ofNat 18 (ltnOf r.tile), mbox := x.mbox, tag := x.tag, payload := x.payload } r)))
        ∧ (let x := s.queue q
           let ev := Payload.post r ctx q bs
           (x.mapped = false ∨ x.ctx ≠ ctx ∨ x.dpost = false → Happens .qpostRequest ev s fun u => now u = th.receive p 2)
           ∧ (x.mapped = true → x.ctx = ctx → x.dpost = true → x.state ≠ 1 → Happens .qpostRequest ev s fun u => now u = th.receive p 3)
           ∧ (x.mapped = true → x.ctx = ctx → x.dpost = true → x.state = 1 →
                let tl := s.fwRead 0 (x.record + 64) 4
                let tail := leNat tl.2
                tl.1 = 0 →
                ((tail + 2 ^ 32 - x.head) % 2 ^ 32 = 2 ^ x.rlog → Happens .qpostRequest ev s fun u => now u = th.receive p 1)
                ∧ ((tail + 2 ^ 32 - x.head) % 2 ^ 32 ≠ 2 ^ x.rlog →
                    (s.fwWrite x.ctx (x.ring + BitVec.ofNat 64 (64 * (tail % 2 ^ x.rlog))) bs).2 = 0 →
                    Happens .qpostRequest ev s fun u => now u = th.receive p 0 ∧ (u.queue q).pending = true)))
/-- 04 R82 to R85, 17 R370, R371: joins, leaves and sizes are answered by the group's home router; a barrier's members wake when every member
cluster has arrived; contributions and partials combine, go early at redlimit, and the result reaches the thread that asks. -/
def Obligations.GroupEvents : Prop :=
  ∀ (s : State) (home ctx g cl reds n tid : Nat) (r : Ref) (p : Partial) (x : RedSlot),
    let key := groupKey ctx g
    let h := (s.cluster home).homeGroup key
    let members := (h.counts.filter (fun x => 0 < ((s.cluster x.1).localGroup key).members)).map Prod.fst
    let arrived := setAdd h.arrived cl
    let l := (s.cluster cl).localGroup key
    let ask (kind : Nat) : Payload := .group home ctx g kind cl reds tid r
    let heard (u : State) (v : Nat) : Prop := u.Pending .accessReply (.reply r (.value (BitVec.ofNat 64 v)))
    let counted (u : State) : Option Nat := ((u.cluster home).homeGroup key).counts.get? cl
    let taken (u : State) : Prop := u.Pending .accessReply (.reply r (.value 0))
    ((∃ m ∈ members, m ∉ arrived) → Happens .barrierClusterArrival (.cluster home ctx g cl) s fun u =>
      ((u.cluster home).homeGroup key).arrived = arrived)
    ∧ (members ≠ [] → (∀ m ∈ members, m ∈ arrived) → (s.tile (home * 32)).r.quiet = false →
        Happens .barrierClusterArrival (.cluster home ctx g cl) s fun u =>
          ((u.cluster home).homeGroup key).arrived = [] ∧ ∀ m ∈ h.counts.keys, u.Pending .barrierDeparture (.cluster m ctx g home))
    ∧ (tid ∈ l.late → Happens .barrierClusterArrival (.group cl ctx g 3 cl 0 tid r) s fun u =>
        ((u.cluster cl).localGroup key).early = l.early ++ [(tid, r)])
    ∧ (tid ∉ l.late → l.members ≠ l.waiting.length + 1 → Happens .barrierClusterArrival (.group cl ctx g 3 cl 0 tid r) s fun u =>
        ((u.cluster cl).localGroup key).waiting = l.waiting ++ [(tid, r)] ∧ u.agenda = s.agenda)
    ∧ (Happens .barrierDeparture (.cluster cl ctx g home) s fun u =>
        ((u.cluster cl).localGroup key).members = l.members + l.late.length ∧ ((u.cluster cl).localGroup key).waiting = l.early
        ∧ ∀ w ∈ l.waiting, s.DueIn u 0 .barrierDeparture (.reply w.2 (.value 0)))
    ∧ (∀ j q v, s.Names r j → (s.thr r.tile j).park = some q → Happens .barrierDeparture (.reply r (.value v)) s fun u =>
        u.thr r.tile j = (s.thr r.tile j).receive q v)
    ∧ (r ≠ noRef → (s.tile (home * 32)).r.quiet = false →
        (((s.cluster home).homes.get? key).isSome = true ∨ s.liveGroups ctx home < 4096 → Happens .groupRequest (ask 0) s fun u =>
          heard u 0 ∧ counted u = some ((h.counts.get? cl).getD 0 + 1))
        ∧ (((s.cluster home).homes.get? key).isNone = true → 4096 ≤ s.liveGroups ctx home → Happens .groupRequest (ask 0) s fun u =>
            heard u 1 ∧ u.clusters = s.clusters)
        ∧ (Happens .groupRequest (ask 1) s fun u => heard u 0 ∧
            (1 < (h.counts.get? cl).getD 0 → counted u = some ((h.counts.get? cl).getD 0 - 1)))
        ∧ (Happens .groupRequest (ask 2) s fun u => heard u (h.counts.map Prod.snd).sum ∧ u.clusters = s.clusters)
        ∧ ∀ kind, 4 ≤ kind → Happens .groupRequest (ask kind) s fun u => heard u (kind - 4) ∧ u.clusters = s.clusters)
    ∧ (∀ j q rd qd num, s.Names r j → (s.thr r.tile j).park = some q → q.why = .redg rd qd g num → p.group = g → p.num = num →
        Happens .reductionResult (.part cl p n (some r)) s fun u =>
          u.thr r.tile j = (s.thr r.tile j).takeRed rd qd g num q.nh (redValue p.ty p.value) p.mismatch)
    ∧ ((s.tile (cl * 32)).r.quiet = false → (s.cluster cl).red? false p.ctx p.group p.num = some x →
        Happens .reductionContribution (.part cl p n (some r)) s taken)
    ∧ ((s.tile (cl * 32)).r.quiet = false → (s.cluster cl).red? false p.ctx p.group p.num = none → (s.cluster cl).reds.length < 16 →
        Happens .reductionContribution (.part cl p n (some r)) s fun u => taken u
          ∧ s.DueIn u (s.tile r.tile).c.redlimit.toNat .redlimitExpire (.part cl p 0 none))
    ∧ ((s.tile (cl * 32)).r.quiet = false → (s.cluster cl).red? false p.ctx p.group p.num = none → 16 ≤ (s.cluster cl).reds.length →
        Happens .reductionContribution (.part cl p n (some r)) s fun u => u.Pending .messageBounce (.part cl p (n + 1) (some r)))
    ∧ ((s.tile (cl * 32)).r.quiet = false → (s.cluster cl).red? false p.ctx p.group p.num = some x → x.early = false →
        Happens .redlimitExpire (.part cl p n none) s fun u =>
          u.Pending .reductionPartial (.part (s.groupHome (cl * 32) x.group) x.partial_ cl none)
          ∧ ((u.cluster cl).red? false p.ctx p.group p.num).map RedSlot.early = some true)
    ∧ ((s.cluster home).red? true p.ctx p.group p.num = some x → (x.take p).count < x.expect →
        Happens .reductionPartial (.part home p n none) s fun u => (u.cluster home).red? true p.ctx p.group p.num = some (x.take p))
    ∧ ((s.tile (home * 32)).r.quiet = false → (s.cluster home).red? true p.ctx p.group p.num = some x → x.expect ≤ (x.take p).count →
        Happens .reductionPartial (.part home p n none) s fun u => (u.cluster home).red? true p.ctx p.group p.num = none
          ∧ ∀ m ∈ ((s.cluster home).homeGroup (groupKey x.ctx x.group)).counts,
              u.Pending .reductionResult (.part m.1 (x.take p).partial_ home none))
/-- 07 R149, R151 to R155, R159, R160, 14 R276, R277, 12 R237, 05 R94: a port performs eight requests a cycle and bounces the rest; the oldest
waiter whose condition holds is performed, others count a failed wake-up; reads return a value or TRANSLATION; a posted store is performed
where its address led, or faults for a DRAIN; a filled line is cached. -/
def Obligations.MemoryEvents : Prop :=
  ∀ (s : State) (k t : TileId) (off fails issued id dw lix line fault time at_ : Nat) (a : Access) (r : Ref) (g : GateRead) (bs : List Byte)
    (q : Posted),
    let here := (s.tile t).r
    let full := here.arrivals.1 = s.now ∧ 8 ≤ here.arrivals.2
    let c := (s.tile t).c
    let port := Payload.port t off a r fails issued
    let clear := c.lockHit here.cyc off (off + a.size) = false
    let val := extended a.signed a.size (c.pool.read off a.size)
    (here.quiet = false →
      (¬ full → a.kind = .load → clear → s.leavesShadow t r.tile = false → Happens .remoteAccess port s fun u =>
        u.Leaving t .accessReply (.reply r (.value val)) ∧ SameMemory s u)
      ∧ (¬ full → a.kind = .store → clear → here.captureFull (off / 64) = false →
          s.leavesShadow t r.tile = false → Happens .remoteAccess port s fun u => u.Leaving t .accessReply (.reply r .ack)
            ∧ SameMemoryBut t off a.size s u ∧ (u.tile t).c.pool.read off a.size = a.data.toNat % 2 ^ (8 * a.size))
      ∧ (¬ full → a.kind.writes = true → here.captureFull (off / 64) = true → Happens .remoteAccess port s fun u =>
          s.DueIn u 1 .remoteAccess port ∧ u.tiles = s.tiles)
      ∧ (full → a.kind.cls ≠ .sync → Happens .remoteAccess port s fun u => u.Pending .accessReply port ∧ SameMemory s u))
    ∧ (Happens .accessReply port s fun u => s.DueIn u 64 .portBounceRepresent port ∧ SameMemory s u)
    ∧ (s.leavesShadow r.tile t = false → Happens .portBounceRepresent port s fun u => u.Leaving r.tile .remoteAccess port)
    ∧ ((∀ w ∈ c.waiters, w.dw = dw → w.since < here.cyc → w.acc.kind.ready (c.isFull dw) = false ∧ w.fails + 1 < w.acc.retry) →
        (c.waiters.map Waiter.src).Nodup → ∀ other,
        Happens .feWake (.dword t dw other) s fun u => SameMemory s u
          ∧ (u.tile t).c.waiters = c.waiters.map (fun w => if w.dw = dw ∧ w.since < here.cyc then { w with fails := w.fails + 1 } else w))
    ∧ (∀ w, c.waiters = [w] → w.dw = dw → dw < 2 ^ 15 → w.src.tile = t → w.acc.kind = .ldf → c.isFull dw = true → w.since < here.cyc →
        c.lockHit here.cyc (dw * 8) (dw * 8 + w.acc.size) = false →
        ∀ j p, s.Names w.src j → (s.thr t j).park = some p → Happens .feWake (.dword t dw false) s fun u =>
          (u.tile t).c.waiters = [] ∧ u.thr t j = (s.thr t j).receive p (BitVec.ofNat 64 (c.pool.read (dw * 8) 8)))
    ∧ (Happens .translationWalk (.gate r g) s fun u => ∃ f, u.Pending .loadReply (.gate r { g with fault := f })
        ∧ f = (s.translate (clusterOf r.tile) g.ctx g.host false g.va).2.2)
    ∧ (∀ j p, s.Names r j → (s.thr r.tile j).park = some p →
        let th := s.thr r.tile j
        let x := s.gateRead r.tile (some th) g
        (g.toReg = true → x.2.1 = 0 → Happens .loadReply (.gate r g) s fun u =>
          u.thr r.tile j = th.receive p (extended g.signed g.size (leNat x.2.2)) ∧ SameMemory s u)
        ∧ (g.toReg = true → x.2.1 ≠ 0 → th.atThird = false → (∀ i rd, p.why ≠ .op i rd) → Happens .loadReply (.gate r g) s fun u =>
            u.thr r.tile j = th.enterTrap th.pc (causeOf 0x0B x.2.1 false) g.addr)
        ∧ (th.atThird = false → ∀ w : Word, s.waitsFor r = some w → Happens .feTimeout (.ref r) s fun u =>
            u.thr r.tile j = th.enterTrap th.pc (causeOf 0x0D 2 false) w)
        ∧ (r.tile = t → a.kind = .ldf → c.isFull (off / 8) = true → clear → Happens .feRefusalRepresent port s fun u =>
            u.thr t j = th.receive p (BitVec.ofNat 64 (c.pool.read off 8)))
        ∧ (Happens .captureEntryFree (.ref r) s fun u => (u.thr r.tile j).park = none)
        ∧ (p.why = .capture → (s.tile r.tile).r.replay = false → (s.tile r.tile).r.records + 16 ≤ 1984 →
            Happens .captureEntryFree (.tile r.tile) s fun u => (u.thr r.tile j).park = none))
    ∧ (a.kind.ready (c.isFull (off / 8)) = false → clear → (c.waiters.filter (fun w => w.dw < 2 ^ 15)).length < 32 →
        Happens .feRefusalRepresent port s fun u => (u.tile t).c.waiters
          = c.waiters ++ [{ dw := off / 8, acc := a, src := r, fails := fails, issued := issued, since := here.cyc }])
    ∧ (let word (f : Nat) (u : State) : Prop := s.DueIn u 0 .postedStorePerform (.posted k q.id f s.now)
       (q.fault = 0 → q.host = false → Happens .postedStorePerform (.stored k q) s fun u =>
          u.cellar = (s.cellarWrite q.pa (leBytes q.size q.data.toNat)).cellar ∧ u.host = s.host ∧ word 0 u)
        ∧ (∀ h, q.fault = 0 → q.host = true → s.dev.dmaCheck (s.tile k).r.ctx q.pa true = some h →
            Happens .postedStorePerform (.stored k q) s fun u =>
              u.host = (s.hostWrite h (leBytes q.size q.data.toNat)).host ∧ u.cellar = s.cellar ∧ word 0 u)
        ∧ (q.fault = 0 → q.host = true → s.dev.dmaCheck (s.tile k).r.ctx q.pa true = none →
            Happens .postedStorePerform (.stored k q) s fun u => SameMemory s u ∧ word 2 u)
        ∧ (q.fault ≠ 0 → Happens .postedStorePerform (.stored k q) s fun u => SameMemory s u ∧ word q.fault u))
    ∧ (∀ p, (s.tile k).c.outq.find? (fun p => p.id == id) = some p → Happens .postedStorePerform (.posted k id fault time) s fun u =>
        SameMemory s u ∧ (u.tile k).c.outq = (s.tile k).c.outq.filter (fun x => x.id != id))
    ∧ (let e := (s.tile k).launchOf (BitVec.ofNat 4 lix)
       let from_ := e.code + BitVec.ofNat 64 line
       let x := s.gateRead k none { ctx := (s.tile k).r.ctx, host := false, va := from_.toNat % 2 ^ 48, addr := from_, size := 64
                                    signed := false, toReg := false, cached := true, fault := 0 }
       ((s.tile k).c.fills.contains (lix, line) = true → x.2.1 = 0 → Happens .icacheFill (.line k lix line) s fun u =>
          s.DueIn u 0 .icacheFill (.bytes k (lix * 2 ^ 32 + line) x.2.2))
       ∧ ((s.tile k).c.fills.contains (lix, line) = false → Becomes .icacheFill (.line k lix line) s s))
    ∧ Happens .icacheFill (.bytes k at_ bs) s fun u =>
        (u.tile k).c.icache.head? = some { lix := at_ / 2 ^ 32, line := at_ % 2 ^ 32, halves := halvesOf bs }
        ∧ (u.tile k).c.icache.length ≤ 128 ∧ (u.tile k).c.fills.contains (at_ / 2 ^ 32, at_ % 2 ^ 32) = false
/-- 05 R93, R94, R98, R102, R112: a boundary asked for while one ships is deferred; lines travel to the buddy, which stages them; the marker with
the right count makes the buddy's mirror and is acknowledged; the acknowledgement is the commit, which frees the log and wakes the threads of
CKPT; a tile to be moved is moved there; a full log area stops delivery. -/
def Obligations.BoundaryEvents : Prop :=
  ∀ (s : State) (k : TileId) (base n ivn : Nat) (l : MirrorLine),
    let r := (s.tile k).r
    let b := buddyOf k
    let asked (ev : Instr) (arg : Payload) : Prop :=
      (r.mode = .live → r.ship = none → Happens ev arg s fun u => (u.tile k).r.want = true)
      ∧ (r.mode = .live → r.ship.isSome = true → Happens ev arg s fun u => (u.tile k).r.deferred = true ∧ (u.tile k).r.want = r.want)
      ∧ (r.mode = .fenced → Happens ev arg s fun u => (u.tile k).r.deferred = true ∧ (u.tile k).r.want = r.want)
      ∧ (r.mode = .saved → r.stopped ≠ r.cyc + 1 → Happens ev arg s fun u => (u.tile k).c.late = true ∧ (u.tile k).r = r)
    (r.base = base → (s.tile k).c.ivlen.toNat ≤ r.cyc - base → asked .ivlenExpire (.tileNum k base))
    ∧ (r.base = base → r.cyc - base < (s.tile k).c.ivlen.toNat → Happens .ivlenExpire (.tileNum k base) s fun u =>
        s.DueIn u ((s.tile k).c.ivlen.toNat - (r.cyc - base)) .ivlenExpire (.tileNum k base) ∧ u.tiles = s.tiles)
    ∧ (r.base ≠ base → Becomes .ivlenExpire (.tileNum k base) s s)
    ∧ asked .deferredBoundary (.tile k)
    ∧ (r.staged? ivn = none → Becomes .mirrorLineReceive (.tileNum k ivn) s s
        ∧ (buddyOf b = k → Becomes .mirrorLineReceive (.mirror b ivn l) s s ∧ Becomes .commitMarkerReceive (.nums3 b n ivn) s s))
    ∧ (∀ sh, r.staged? ivn = some sh →
        (s.leavesShadow k b = false →
          (∀ x rest, sh.latched = x :: rest → Happens .mirrorLineReceive (.tileNum k ivn) s fun u =>
            (u.tile k).r.ship = some { sh with latched := rest } ∧ u.Leaving k .mirrorLineReceive (.mirror b ivn x)
            ∧ s.DueIn u 2 .mirrorLineReceive (.tileNum k ivn) ∧ s.DueIn u 1 .captureEntryFree (.tile k))
          ∧ (∀ x rest, sh.latched = [] → sh.lines = x :: rest → Happens .mirrorLineReceive (.tileNum k ivn) s fun u =>
              (u.tile k).r.ship = some { sh with lines := rest } ∧ u.Leaving k .mirrorLineReceive (.mirror b ivn x)
              ∧ s.DueIn u 2 .mirrorLineReceive (.tileNum k ivn))
          ∧ (sh.latched = [] → sh.lines = [] → Happens .mirrorLineReceive (.tileNum k ivn) s fun u =>
              u.Leaving k .commitMarkerReceive (.nums3 b sh.count ivn)))
        ∧ (buddyOf b = k →
            let kept := (s.tile b).r
            let ls := match kept.staging with | some st => if st.ivn.toNat = ivn then st.lines else [] | none => []
            (Happens .mirrorLineReceive (.mirror b ivn l) s fun u =>
              (u.tile b).r.staging = some { ivn := BitVec.ofNat 48 ivn, lines := ls ++ [l] })
            ∧ (ls.length = n → kept.quiet = false → Happens .commitMarkerReceive (.nums3 b n ivn) s fun u =>
                (u.tile b).r.keeps = some (sh.merged kept.keeps ls) ∧ (u.tile b).r.staging = none
                ∧ u.Pending .boundaryCommit (.tileNum k ivn))
            ∧ (ls.length ≠ n → Becomes .commitMarkerReceive (.nums3 b n ivn) s s)))
    ∧ (r.ship = none → Becomes .boundaryCommit (.tileNum k ivn) s s)
    ∧ (∀ sh, r.ship = some sh →
        (sh.ivn.toNat ≠ ivn → Becomes .boundaryCommit (.tileNum k ivn) s s)
        ∧ (sh.ivn.toNat = ivn → r.moving = true → r.mode = .fenced → Happens .boundaryCommit (.tileNum k ivn) s fun u =>
            s.DueIn u 64 .recovery (.tileNum k r.chain) ∧ (u.tile k).r.ship = some sh)
        ∧ (sh.ivn.toNat = ivn → r.moving = false ∨ r.mode ≠ .fenced → Happens .boundaryCommit (.tileNum k ivn) s fun u =>
            (u.tile k).r.ship = none ∧ (u.tile k).r.prev = none ∧ (u.tile k).r.blocked = false
            ∧ (r.deferred = true → s.DueIn u 1 .deferredBoundary (.tile k))
            ∧ ∀ j rd tok nh since, (s.thr k j).park = some ⟨.ckpt rd, tok, nh, since⟩ → since < sh.cyc →
                s.Names { tile := k, tok := tok } j → u.thr k j = (s.thr k j).receive ⟨.ckpt rd, tok, nh, since⟩ (BitVec.ofNat 64 ivn)))
    ∧ Happens .logAreaFull (.tile k) s fun u => (u.tile k).r.blocked = (r.logFull || r.blocked)
/-! ### Events of recovery, power and pre-emption (chapters 1, 5, 6) -/

/-- 05 R88 to R91, R97, R103 to R116, 04 R69, R77, R78, 09 R188: a flagged tile is fenced, what it kept for its buddy is gone, and so is what its
port held; recovery takes the spare it finds and goes through load, rebind, replay and release, or the state is lost; tables, counters and
captures as the events say. -/
def Obligations.RecoveryEvents : Prop :=
  ∀ (s : State) (k t : TileId) (cause c pa n p : Nat) (cl i w : Word),
    let r := (s.tile k).r
    let b := buddyOf k
    let at_ (u : State) : Router := (u.tile k).r
    let fenced (u : State) (why : Nat) : Prop :=
      ((at_ u).mode, (at_ u).cause, (at_ u).keeps, (at_ u).out) = (.fenced, why, none, []) ∧ s.DueIn u 64 .recovery (.tileNum k (at_ u).chain)
    let lost (n : Nat) (u : State) : Prop := ∀ i, i < 32 → s.DueIn u 1 .stateLoss (.tileNum (n * 32 + i) 0xFE)
    let mine := s.inChain k n = true
    let step (ev : Instr) (P : State → Prop) : Prop := Happens ev (.tileNum k n) s P
    (cause ≠ 5 →
      (Happens .errorDetect (.tileNum k cause) s fun u => fenced u cause ∧ SameMemory s u)
      ∧ ((s.tiles.get? k).isSome = true → r.mode ≠ .fenced → r.replay = false → Happens .errorDetect (.tileNum k cause) s fun u =>
          (at_ u).fence = r.cyc ∧ ∀ m, (s.tile b).r.keeps = some m → (at_ u).source = (r.since m.cyc).1)
      ∧ ((s.tiles.get? k).isSome = true → r.replay = true → Happens .errorDetect (.tileNum k cause) s fun u =>
          ((at_ u).fence, (at_ u).tries) = (r.fence, r.tries + 1)))
    ∧ (Happens .errorDetect (.tileNum k 5) s fun u => (at_ u).hung = true)
    ∧ (Happens .errorDetect (.num n) s (lost n))
    ∧ (Completes .correctedError s fun u => u.dev.correctedErrors = s.dev.correctedErrors + 1 ∧ SameMemory s u)
    ∧ (Happens .correctedError (.nums n p) s fun u => ((u.cluster n).link p).corrected = ((s.cluster n).link p).corrected + 1)
    ∧ (Happens .cellarPoison (.num pa) s fun u => ∀ a,
        (a / 65536 = pa / 65536 → u.dev.poisoned a = true) ∧ (a / 65536 ≠ pa / 65536 → u.dev.poisoned a = s.dev.poisoned a))
    ∧ (∀ ev arg, (ev = .powerLoss ∧ arg = .num c ∨ ev = .hardTrip ∧ ∃ v : Int, (s.chiplet c).thTrip ≤ v ∧ arg = .reading c v) →
        Happens ev arg s fun u =>
          ((u.chiplet c).powered, (u.chiplet c).lost) = (false, true) ∧ ∀ t ∈ s.tilesOfChip c, (u.tile t).r.mode = .fenced)
    ∧ (∀ v : Int, v < (s.chiplet c).thTrip → Becomes .hardTrip (.reading c v) s s)
    ∧ (r.mode ≠ .fenced → r.missed ≠ 0 ∨ r.asked ≠ 0 → Happens .watchdogFire (.tile k) s (fenced · 5))
    ∧ (r.mode = .fenced ∨ r.missed = 0 ∧ r.asked = 0 → Becomes .watchdogFire (.tile k) s s)
    ∧ (r.mode = .stopping → r.stopped = n →
        (s.saveMoves k = false → step .watchdogFire (fenced · 5))
        ∧ (s.saveMoves k = true → step .watchdogFire fun u =>
            s.DueIn u (s.cluster (clusterOf k)).wdlimit .watchdogFire (.tileNum k n) ∧ u.tiles = s.tiles))
    ∧ (r.mode ≠ .stopping ∨ r.stopped ≠ n → Becomes .watchdogFire (.tileNum k n) s s)
    ∧ (¬ mine → ∀ ev ∈ [Instr.recovery, .rebindWaveComplete, .replay, .recoveryRelease], Becomes ev (.tileNum k n) s s)
    ∧ (mine →
        (3 ≤ r.tries → step .recovery fun u => s.DueIn u 1 .stateLoss (.tileNum k 0xFD))
        ∧ (r.tries < 3 → 64 ≤ (s.targets k).length → step .recovery fun u => s.DueIn u 1 .recovery (.tileNum k n))
        ∧ (r.tries < 3 → (s.targets k).length < 64 →
            (s.mirrorOf k = none ∨ s.extentPoisoned k = true → step .recovery fun u => s.DueIn u 1 .stateLoss (.tileNum k 0xFE))
            ∧ ((s.mirrorOf k).isSome = true → s.extentPoisoned k = false → r.target = none →
                (s.chooseSpare k = .none → step .recovery fun u => s.DueIn u 1 .stateLoss (.tileNum k 0xFE))
                ∧ (s.chooseSpare k = .slot p → step .recovery fun u => (at_ u).target = some (0, p)
                    ∧ s.DueIn u (s.loadCycles k) .rebindWave (.nums3 k n 0))
                ∧ (s.chooseSpare k = .tile p → step .recovery fun u => (at_ u).target = some (1, p)
                    ∧ s.DueIn u (s.loadCycles k) .rebindWave (.nums3 k n 0))
                ∧ (s.chooseSpare k = .dark c → step .recovery fun u => s.DueIn u 625000 .spareChipletPowered (.tileNum k c))
                ∧ (∀ y, s.chooseSpare k = .borrow c → s.dev.ctx? c = some y → y.res = .resident → step .recovery fun u =>
                    s.DueIn u 1024 .recovery (.tileNum k n) ∧ s.DueIn u 1 .partitionSuspend (.nums3 c 0 1))))
        ∧ (∀ m, s.mirrorOf k = some m →
            (r.target = some (0, p) → Happens .rebindWave (.nums3 k n 0) s fun u =>
              u.physSlot k = p ∧ (u.tile k).c = s.loaded k m ∧ s.DueIn u 0 .rebindWaveComplete (.tileNum k n))
            ∧ (r.target = some (1, p) → s.dev.waveEnd ≤ s.now → Happens .rebindWave (.nums3 k n 0) s fun u =>
                u.ptlOf k = p ∧ (u.tile k).c = s.loaded k m ∧ s.DueIn u (2 * s.dev.waveLinks * 3) .rebindWaveComplete (.tileNum k n))
            ∧ (r.target = some (1, p) → s.now < s.dev.waveEnd → Happens .rebindWave (.nums3 k n 0) s fun u =>
                s.DueIn u (s.dev.waveEnd - s.now) .rebindWave (.nums3 k n 1) ∧ u.dev = s.dev))
        ∧ (step .rebindWaveComplete fun u => s.DueIn u (2 * (r.source.map LogRec.size).sum) .replay (.tileNum k n))
        ∧ (∀ sh, r.ship = some sh →
            (r.fence < sh.cyc → step .replay fun u => s.DueIn u 1 .recoveryRelease (.tileNum k n))
            ∧ (sh.cyc ≤ r.fence → step .replay fun u => ((at_ u).mode, (at_ u).replay, (at_ u).cyc, (at_ u).fence) = (.live, true, sh.cyc, r.fence)
                ∧ (at_ u).script = r.source ∧ (at_ u).skip = r.total))
        ∧ (step .recoveryRelease fun u =>
            (at_ u).mode = (if r.stopped = 0 then .live else .stopping) ∧ (at_ u).tries = 0 ∧ (∃ x ∈ u.agenda, x.ev = .heldPacketDelivery ∧
              x.arg = .tileNum k n) ∧ SameMemory s u
            ∧ ((s.tile b).r.mode ≠ .fenced → (s.tile b).r.replay = false → ∀ l ∈ allLines (s.tile b).c.poolcfg, l ∈ (u.tile b).c.dirty)))
    ∧ (Happens .spareChipletPowered (.tileNum k c) s fun u => (u.chiplet c).powered = true
        ∧ (r.target = some (2, c) → s.DueIn u 1 .recovery (.tileNum k r.chain)))
    ∧ (∀ x rest, r.held = x :: rest → r.mode ≠ .fenced → r.replay = false → r.chain = n → x.1 ≠ .population → x.1 ≠ .gangPreempt →
        step .heldPacketDelivery fun u =>
          (at_ u).held = rest ∧ s.DueIn u 0 x.1 x.2 ∧ (rest ≠ [] → s.DueIn u 1 .heldPacketDelivery (.tileNum k n)))
    ∧ (r.held = [] → Becomes .heldPacketDelivery (.tileNum k n) s s)
    ∧ (s.isLost k = false → (s.tiles.get? k).isSome = true → Happens .stateLoss (.tileNum k p) s fun u =>
        ((u.cluster (clusterOf k)).slotMap.get? (ltnOf k % 32)).map SlotMap.lost = some true
        ∧ ∀ l j, s.launch? r.ctx j = some l → l.abort = none → (u.launch? r.ctx j).map Launch.abort = some (some (1, p)))
    ∧ (s.isLost k = true → Becomes .stateLoss (.tileNum k p) s s)
    ∧ (r.mode = .live → r.replay = false → Happens .plannedMigration (.tile k) s fun u =>
        (at_ u).moving = true ∧ (r.ship = none → (at_ u).want = true) ∧ (r.ship.isSome = true → (at_ u).deferred = true))
    ∧ (r.mode ≠ .live ∨ r.replay = true → Becomes .plannedMigration (.tile k) s s)
    ∧ (∀ m, r.mode = .fenced → r.moving = false → s.mirrorOf k = some m → Happens .incidentCapture (.tileNum k pa) s fun u =>
        ∃ x, u.dev.incidents = s.dev.incidents ++ [x]
          ∧ (x.tile, x.at_, x.cause, x.fence, x.mirror, x.source) = (k, pa, r.cause, r.fence, m, r.source))
    ∧ (∀ x rest, (s.cluster n).crash = x :: rest → Happens .incidentCapture (.nums n pa) s fun u =>
        (u.cluster n).crash = rest ∧ u.cellar = (s.cellarWrite pa (x.body ++ leBytes 4 x.crc.toNat)).cellar)
    ∧ (∀ x, s.dev.incidents[n]? = some x → s.freeTile t = true → Happens .incidentReplay (.nums n t) s fun u =>
        s.DueIn u (x.fence + 2 - x.mirror.cyc) .incidentReplay (.tileNum t n))
    ∧ (Happens .incidentReplay (.nums3 k n p) s fun u =>
        u.dev.replays = s.dev.replays ++ [(n, if p = 0 then none else some (p - 1))])
    ∧ (p < 3 → Happens .rebindTableWrite (.words p [cl, i, w]) s fun u =>
        s.DueIn u 1 .rebindTableWrite (.words (p + 4) [cl, i, w]) ∧ u.clusters = s.clusters)
    ∧ (i.toNat < 136 → Happens .rebindTableWrite (.words 4 [cl, i, w]) s fun u => (u.cluster cl.toNat).chipMap.get? i.toNat
        = some { pslot := w.toNat % 2 ^ 8, v := w.getLsbD 8, lost := w.getLsbD 9 })
    ∧ (i.toNat < 34 → Happens .rebindTableWrite (.words 5 [cl, i, w]) s fun u => (u.cluster cl.toNat).slotMap.get? i.toNat
        = some { pslot := w.toNat % 2 ^ 6, v := w.getLsbD 6, lost := w.getLsbD 7 })
    ∧ (i.toNat < 1024 → Happens .rebindTableWrite (.words 6 [cl, i, w]) s fun u => (u.cluster cl.toNat).exceptions.get? i.toNat
        = some { ltn := w.toNat % 2 ^ 18, ptl := w.toNat / 2 ^ 18 % 2 ^ 20, v := w.getLsbD 38, fwd := w.getLsbD 39, shd := w.getLsbD 40
                 since := s.now })
    ∧ (p ≠ 1 → Happens .linkResend (.nums3 n c p) s fun u =>
        (((u.cluster n).link c).resends, ((u.cluster n).link c).failing) = (((s.cluster n).link c).resends + 1, ((s.cluster n).link c).failing + 1)
        ∧ (2 ≤ ((s.cluster n).link c).failing → lost n u))
    ∧ Happens .linkResend (.nums3 n c 1) s fun u => ((u.cluster n).link c).failing = 0
/-- 01 R11, R12, R16 to R23, 03 R44, 05 R110: boot halts, waits in recovery, or clears the cellar and powers the chiplets; control intervals
set point and mask from thermal control, current limiter and firmware; thresholds, mask changes, residency steps, telemetry and the
firmware's registers. That thermal control asks for nothing once its throttle has gone, and what each interval asks for, is the model's choice
(log 36). -/
def Obligations.PowerEvents : Prop :=
  ∀ (s : State) (c n m amps : Nat) (k : TileId) (v : Int) (a b d : Word),
    let x := s.chiplet c
    let f := s.dev.fuses
    let image := if s.dev.staged.2 = 0 then s.dev.image else s.cellar.bytes s.dev.staged.1 s.dev.staged.2
    let ok := Config.verifies f.keyDigests.1 0 image && Config.verifies f.keyDigests.2 1 image
    let r := (s.tile k).r
    (f.ok = false → Happens .boot .none s fun u => u.dev.boot = .halted)
    ∧ (f.ok = true → ok = false → Happens .boot .none s fun u => u.dev.boot = .recovery)
    ∧ (f.ok = true → ok = true → Happens .boot .none s fun u =>
        u.dev.boot = .waitHost ∧ u.cellar = [] ∧ u.host = s.host ∧ u.dev.fuses = f ∧ u.dev.image = image ∧ s.DueIn u 25000 .controlInterval .none
        ∧ (∀ p, p < 136 → (u.chiplet p).powered = !f.spares.contains p) ∧ (∀ p, p < 64 → (u.dev.port p).up = true)
        ∧ ∀ y ∈ s.agenda, fromOutside y = true → y ∈ u.agenda)
    ∧ (s.dev.boot = .waitHost → s.dev.dmaWritten = true → s.dev.peersWritten = true → Completes .bootReady s fun u =>
        u.dev.boot = .ready ∧ s.DueIn u 250000 .telemetrySample .none)
    ∧ (s.dev.boot ≠ .waitHost ∨ s.dev.dmaWritten = false ∨ s.dev.peersWritten = false → Completes .bootReady s (· = s))
    ∧ (Completes .controlInterval s fun u => s.DueIn u 25000 .controlInterval .none
        ∧ (s.chiplets.keys.Nodup → (s.chiplets.get? c).isSome = true → x.powered = true →
            let th := if x.throttle then x.lower else 0
            let cu := if x.ilim then x.lower else 0
            let mk := max x.thermal.mask (max (if x.ilim then x.current.mask else 0) x.firmware.mask)
            (u.chiplet c).point = max th (max cu x.firmware.point) ∧ (u.chiplet c).mask = mk
            ∧ (u.chiplet c).boost = (x.boostReq && x.boostOn && !x.throttle && !x.ilim && x.firmware.point == 0)
            ∧ (mk ≠ x.mask → ∀ t ∈ s.tilesOfChip c, u.Pending .maskChange (.tileNum t mk))))
    ∧ (Happens .operatingPointSettled (.num c) s fun u => (u.chiplet c).changing = false)
    ∧ (x.thThrottle ≤ v → Happens .thermalThrottle (.reading c v) s fun u =>
        ((u.chiplet c).throttle, (u.chiplet c).throttled, (u.chiplet c).boost) = (true, true, false))
    ∧ (v < x.thThrottle → Becomes .thermalThrottle (.reading c v) s s)
    ∧ (v < 1600 → Happens .throttleRelease (.reading c v) s fun u => (u.chiplet c).throttle = false)
    ∧ (1600 ≤ v → Becomes .throttleRelease (.reading c v) s s)
    ∧ (x.thSave ≤ v → Happens .emergencySave (.reading c v) s fun u =>
        ∀ t ∈ s.tilesOfChip c, (s.tile t).r.mode = .live → (s.tile t).r.replay = false →
          (u.tile t).r.saving = (s.tile t).r.cyc + 1 ∧ ((s.tile t).r.ship = none → (u.tile t).r.want = true))
    ∧ (v < x.thSave → Becomes .emergencySave (.reading c v) s s)
    ∧ (x.thCurrent < amps → Happens .currentLimitTrip (.nums c amps) s fun u => (u.chiplet c).ilim = true
        ∧ (u.chiplet c).mask = (u.chiplet c).maskCount ∧ 1 ≤ (u.chiplet c).mask
        ∧ ∀ t ∈ s.tilesOfChip c, u.Pending .maskChange (.tileNum t (u.chiplet c).mask))
    ∧ (amps < x.thCurrent → Becomes .currentLimitTrip (.nums c amps) s s)
    ∧ (Happens .maskChange (.tileNum k m) s fun u => (u.tile k).r.mask = min m 15
        ∧ (m ≠ 0 → s.DueIn u 65536 .residencyStep (.tile k)) ∧ SameMemory s u)
    ∧ (r.mask = 0 → Becomes .residencyStep (.tile k) s s)
    ∧ (r.mask ≠ 0 → (s.tile k).waiting.length ≤ (s.tile k).movable.length → Happens .residencyStep (.tile k) s fun u =>
        ∀ y ∈ (s.tile k).waiting, ∃ j, (s.tile k).unmasked j = true ∧ (u.tile k).slot j = some { y.2 with waits := 0 })
    ∧ (Completes .telemetrySample s fun u => s.DueIn u 250000 .telemetrySample .none
        ∧ ∀ y, s.dev.contexts = [(n, y)] → y.holds = true → s.chipsOf n = [c] →
            let h := s.fwRead 0 (y.record + 40) 16
            let prod := wordAt h.2 0
            let at_ := y.tbase + 32 * (prod.toNat % 2 ^ y.tlog)
            (u.chiplet c).seq = (x.seq + 1) % 2 ^ 32
            ∧ (h.1 = 0 → 2 ^ y.tlog ≤ (prod - wordAt h.2 1).toNat → u.cellar = s.cellar
                ∧ (u.dev.ctx? n).map Ctx.dropped = some (setAdd y.dropped c))
            ∧ (h.1 = 0 → (prod - wordAt h.2 1).toNat < 2 ^ y.tlog →
                u.cellar = ((s.cellarWrite at_ (s.sampleBytes c (y.dropped.contains c))).fwWrite 0 (y.record + 40)
                  (leBytes 8 (prod.toNat + 1))).1.cellar))
    ∧ (Happens .firmwareRegisterWrite (.words 0 [a, b]) s fun u => (u.chiplet a.toNat).thThrottle = min b.toNat 1680)
    ∧ (Happens .firmwareRegisterWrite (.words 1 [a, b]) s fun u => (u.chiplet a.toNat).thSave = min b.toNat 1840)
    ∧ (Happens .firmwareRegisterWrite (.words 2 [a, b]) s fun u => (u.chiplet a.toNat).thCurrent = min b.toNat 4200)
    ∧ (Happens .firmwareRegisterWrite (.words 8 [a, b]) s fun u => (u.chiplet a.toNat).thTrip = min b.toNat 2000)
    ∧ (Happens .firmwareRegisterWrite (.words 3 [a, b]) s fun u => (u.cluster a.toNat).wdlimit = max 0x1000 (min b.toNat 0x1000000))
    ∧ (Happens .firmwareRegisterWrite (.words 4 [a, b]) s fun u =>
        (u.tile a.toNat).c.ivlen.toNat = max 0x10000 (min b.toNat 0x80000000))
    ∧ (Happens .firmwareRegisterWrite (.words 5 [a]) s fun u => u.dev.coldefer = min a.toNat 1000000000)
    ∧ (Happens .firmwareRegisterWrite (.words 6 [a, b]) s fun u =>
        ((u.chiplet a.toNat).boostOn, (u.chiplet a.toNat).boostReq) = (b.getLsbD 0, b.getLsbD 1))
    ∧ (Happens .firmwareRegisterWrite (.words 7 [a, b, d]) s fun u =>
        (u.chiplet a.toNat).firmware.point = min b.toNat 10 ∧ (u.chiplet a.toNat).firmware.mask = min d.toNat 15)
/-- 06 R136 to R141, 09 R194 to R196: a pre-emption waits for a boundary of its cycle or an open round that is deferred, else the tile stops
and its save begins; the last save parks the partition; a restore gives every tile its image back; a slice ends only if another
partition waits. -/
def Obligations.PreemptEvents : Prop :=
  ∀ (s : State) (k : TileId) (n m phase : Nat) (d : Ctx),
    let r := (s.tile k).r
    let x := s.selfRequest k
    let goes := (x.tile k).r.want && !(x.tile k).r.quiet
    let others := s.dev.contexts.filter (fun y => y.1 != n && y.2.holds && y.2.meets d)
    let waits := s.dev.contexts.any (fun y => y.1 != n && y.2.queued && y.2.meets d)
    let res (u : State) : Option Residency := (u.dev.ctx? n).map Ctx.res
    (r.mode ≠ .live → Becomes .gangPreempt (.tile k) s s)
    ∧ (r.mode = .live → goes = true → Happens .gangPreempt (.tile k) s fun u =>
        s.DueIn u 1 .gangPreempt (.tileNum k 1) ∧ (u.tile k).r.mode = .live)
    ∧ (r.mode = .live → goes = false → Happens .gangPreempt (.tile k) s fun u =>
        (u.tile k).r.mode = .stopping ∧ (u.tile k).r.stopped = r.cyc + 1
        ∧ (∃ t, (s.tile k).c.stopTime ≤ t ∧ s.DueIn u t .preemptSaveDone (.tileNum k 0))
        ∧ s.DueIn u (s.cluster (clusterOf k)).wdlimit .watchdogFire (.tileNum k (r.cyc + 1)))
    ∧ (r.mode = .live → (s.tile k).c.roundOpen = true → Happens .gangPreempt (.tileNum k 2) s fun u =>
        (u.tile k).c.preempt = true ∧ (u.tile k).r.mode = .live)
    ∧ (phase ≠ 2 → r.mode ≠ .stopping → Becomes .preemptSaveDone (.tileNum k phase) s s)
    ∧ (phase ≠ 2 → r.mode = .stopping → r.replay = true ∨ s.quiet k = false → Happens .preemptSaveDone (.tileNum k phase) s fun u =>
        s.DueIn u 1 .preemptSaveDone (.tileNum k phase) ∧ u.tiles = s.tiles)
    ∧ (r.mode = .stopping → r.replay = false → s.quiet k = true →
        (Happens .preemptSaveDone (.tileNum k 0) s fun u => s.DueIn u 1 .preemptSaveDone (.tileNum k 1))
        ∧ ((∃ t ∈ s.tilesOf r.ctx, t ≠ k ∧ (s.tile t).r.mode ≠ .saved ∧ s.isLost t = false) →
            Happens .preemptSaveDone (.tileNum k 1) s fun u =>
              (u.tile k).r.mode = .saved ∧ (u.tile k).c.slots.map (Option.map Thread.pc) = (s.tile k).c.slots.map (Option.map Thread.pc)))
    ∧ (r.ctx = n → n ≠ 0 → s.dev.ctx? n = some d → d.res = .stopping → r.mode = .saved → s.allSaved n = true → s.ctxQuiet n = true →
        Happens .preemptSaveDone (.tileNum k 2) s fun u => res u = some .parked
          ∧ (∀ t ∈ s.tilesOf n, (u.tile t).r.ctx = 0 ∧ (u.tile t).c.slots = TileCtx.reset.slots)
          ∧ ∀ q id, d.suspendCmd = some (q, id) → u.Pending .commandComplete (.words q [BitVec.ofNat 64 id, 0, 0, 0]))
    ∧ (s.dev.ctx? n = some d →
        (d.res ≠ .parked → Becomes .restore (.num n) s s)
        ∧ (d.res = .parked → others = [] → Happens .restore (.num n) s fun u =>
            res u = some .restoring ∧ s.DueIn u (s.restoreTime d) .restore (.nums n 0) ∧ u.tiles = s.tiles)
        ∧ (d.res = .parked → others ≠ [] → Happens .restore (.num n) s fun u =>
            (u.dev.ctx? n).map Ctx.queued = some true ∧ u.tiles = s.tiles ∧ ∀ y ∈ others, s.DueIn u 1 .timeSliceExpire (.num y.1))
        ∧ (let y := s.tilesRead d 0 d.image
           (d.res = .restoring → y.1 = 0 → Happens .restore (.nums n m) s fun u =>
              res u = some .resident ∧ (∀ x ∈ d.image, (u.tile x.1).r.ctx = n)
              ∧ ∀ q id, d.resumeCmd = some (q, id) → u.Pending .commandComplete (.words q [BitVec.ofNat 64 id, 0, 0, 0]))
           ∧ (d.res = .restoring → y.1 ≠ 0 → Happens .restore (.nums n m) s fun u => res u = some .parked ∧ u.tiles = s.tiles
              ∧ ∀ q id, d.resumeCmd = some (q, id) → u.Pending .commandComplete
                  (.words q [BitVec.ofNat 64 id, 1, BitVec.ofNat 64 (0x0B + 256 * y.1), 2]))
           ∧ (d.res ≠ .restoring → Becomes .restore (.nums n m) s s))
        ∧ (d.res = .resident → waits = true → d.since + s.slice d ≤ s.now → Happens .timeSliceExpire (.num n) s fun u =>
            res u = some .stopping ∧ ∀ t ∈ s.tilesOf n, u.Pending .gangPreempt (.tile t) ∨ u.Pending .gangPreempt (.tileNum t 2))
        ∧ (d.res = .resident → waits = true → s.now < d.since + s.slice d → Happens .timeSliceExpire (.num n) s fun u =>
            s.DueIn u (d.since + s.slice d - s.now) .timeSliceExpire (.num n) ∧ u.dev = s.dev)
        ∧ (d.res ≠ .resident ∨ waits = false → Becomes .timeSliceExpire (.num n) s s))
/-! ### Events of links, queues, commands, partitions and launches (chapters 2 and 3) -/

/-- 02 R24 to R32, R35, R382: host accesses through the inbound windows, configuration space as it reads and takes writes, the tables the
host writes, queue mapping, and the watched lines. A failed mapping's reason code is the model's (log 29), and so are the places of the
status bits in configuration space and the numbers of its registers (log 35). -/
def Obligations.LinkEvents : Prop :=
  ∀ (s : State) (l a n q i : Nat) (bs : List Byte) (w0 w1 w2 w3 w4 w5 rec : Word),
    let x := s.queue q
    let reads (v : Word) : Prop := Happens .hostInboundRead (.nums l n) s fun u =>
      u.dev.hostReads = s.dev.hostReads ++ [leBytes 8 v.toNat] ∧ SameMemory s u
    let puts (off : Word) (P : State → Prop) : Prop := Happens .configWrite (.words 5 [w0, off, w1]) s P
    let peer : PeerEntry := { v := w0.getLsbD 0, cp := w0.getLsbD 1, ch := w0.getLsbD 2, port := w0.toNat / 2 ^ 8 % 2 ^ 6
                              ptag := w0.toNat / 2 ^ 16 % 2 ^ 16, dev := w0.toNat / 2 ^ 32 % 2 ^ 32, rate := w1.toNat % 2 ^ 16 }
    (∀ pa, s.dev.inbound l a n = some pa → Happens .hostInboundRead (.nums3 l a n) s fun u =>
      u.dev.hostReads = s.dev.hostReads ++ [s.cellar.bytes pa n] ∧ SameMemory s u)
    ∧ (s.dev.inbound l a n = none → Happens .hostInboundRead (.nums3 l a n) s fun u =>
        u.dev.hostReads = s.dev.hostReads ++ [List.replicate n 0xFF] ∧ l ∈ u.dev.missed ∧ SameMemory s u)
    ∧ (∀ pa, s.dev.inbound l a bs.length = some pa → Happens .hostInboundWrite (.data l a bs) s fun u =>
        u.cellar = s.cellar.setBytes pa bs ∧ u.host = s.host ∧ u.tiles = s.tiles)
    ∧ (s.dev.inbound l a bs.length = none → Happens .hostInboundWrite (.data l a bs) s fun u => l ∈ u.dev.missed ∧ SameMemory s u)
    ∧ (s.dev.boot ≠ .ready → s.dev.boot ≠ .waitHost → s.dev.inbound l a n = none)
    ∧ (s.dev.boot = .off → reads (BitVec.allOnes 64))
    ∧ (s.dev.boot ≠ .off →
        (n = 0x1A00 → reads (BitVec.ofNat 64 s.dev.peerSelect))
        ∧ (n = 0x1A08 → reads (flagAt (s.dev.peers.get? s.dev.peerSelect).isSome 0 ||| flagAt s.dev.peerDiscard 1
            ||| BitVec.ofNat 64 s.dev.peers.length <<< 2))
        ∧ (s.dev.peers.get? s.dev.peerSelect = none → 0x4000 ≤ n → n < 0x5000 → reads 0)
        ∧ (s.dev.dma.get? i = none → i < 1024 → n = 0x8000 + 32 * i → reads 0)
        ∧ (0x5000 ≤ n → n < 0x8000 → reads 0)
        ∧ puts 0 (fun u => ∀ j, j ∈ u.dev.missed ↔ j ∈ s.dev.missed ∧ w1.getLsbD (8 + j) = false)
        ∧ puts 0x10 (fun u => u.dev.refusals = s.dev.refusals &&& ~~~(w1.setWidth 32))
        ∧ puts 0x18 (fun u => u.dev.reserve = min w1.toNat 4096)
        ∧ puts 0x1A00 (fun u => u.dev.peerSelect = w1.toNat % 2 ^ 16)
        ∧ puts 0x8000 (fun u => (u.dev.dma.get? 0).map (fun (e : DmaEntry) => (e.v, e.rd, e.wr, e.ctx))
            = some (w1.getLsbD 0, w1.getLsbD 1, w1.getLsbD 2, w1.toNat / 2 ^ 16 % 2 ^ 16)))
    ∧ (i < 1024 → Happens .dmaWindowWrite (.words i [w0, w1, w2, w3]) s fun u => u.dev.dmaWritten = true ∧ SameMemory s u
        ∧ u.dev.dma.get? i = some { v := w0.getLsbD 0, rd := w0.getLsbD 1, wr := w0.getLsbD 2, ctx := w0.toNat / 2 ^ 16 % 2 ^ 16
                                    devBase := w1.toNat / 2 ^ 12 % 2 ^ 36 * 4096, hostBase := w2.toNat / 2 ^ 12 % 2 ^ 52 * 4096
                                    pages := w3.toNat % 2 ^ 32 })
    ∧ (i < 256 →
        (∀ t, s.dev.peers.get? s.dev.peerSelect = some t → Happens .peerTableWrite (.words i [w0, w1]) s fun u =>
          u.dev.peers.get? s.dev.peerSelect = some (t.set i peer) ∧ u.dev.peerDiscard = false)
        ∧ (s.dev.peers.get? s.dev.peerSelect = none → w0.getLsbD 0 = false → Happens .peerTableWrite (.words i [w0, w1]) s fun u =>
            u.dev.peers = s.dev.peers ∧ u.dev.peerDiscard = false)
        ∧ (s.dev.peers.get? s.dev.peerSelect = none → w0.getLsbD 0 = true → s.dev.peers.length < 1024 →
            Happens .peerTableWrite (.words i [w0, w1]) s fun u => u.dev.peers.get? s.dev.peerSelect = some [(i, peer)] ∧ u.dev.peerDiscard = false)
        ∧ (s.dev.peers.get? s.dev.peerSelect = none → w0.getLsbD 0 = true → 1024 ≤ s.dev.peers.length →
            Happens .peerTableWrite (.words i [w0, w1]) s fun u => u.dev.peerDiscard = true ∧ u.dev.peers = s.dev.peers))
    ∧ (Completes .firmwareTableWrite s fun u => SameMemory s u ∧ u.dev.dma = s.dev.dma ∧ u.dev.peers = s.dev.peers
        ∧ u.dev.refusals.toNat = min (s.dev.refusals.toNat + 1) 0xFFFFFFFF)
    ∧ (w0.toNat < 2 → w1.toNat < 16 → 12 ≤ w4.toNat → w4.toNat ≤ 36 → Happens .configWrite (.words 0 [w0, w1, w2, w3, w4, w5]) s fun u =>
        u.dev.windows.get? (w0.toNat * 16 + w1.toNat) = some
          { v := w2.toNat % 2 == 1, base := w3.toNat / 2 ^ w4.toNat * 2 ^ w4.toNat, log := w4.toNat
            target := w5.toNat / 2 ^ w4.toNat * 2 ^ w4.toNat })
    ∧ (Happens .configWrite (.words 1 [w0]) s fun u => u.dev.peerSelect = w0.toNat % 2 ^ 16)
    ∧ (Happens .configWrite (.words 2 [w0]) s fun u => u.dev.reserve = min w0.toNat 4096)
    ∧ (Happens .configWrite (.words 3 [w0]) s fun u => u.dev.root0 = w0.toNat / 2 ^ 12 % 2 ^ 36 * 4096)
    ∧ (Happens .configWrite (.words 4 [w0]) s fun u => u.dev.refusals = s.dev.refusals &&& ~~~(w0.setWidth 32))
    ∧ (s.dev.boot = .ready → q < 64 → x.mapped = false →
        let ok := memSpace rec && rec.toNat % 64 == 0
        let rd := s.fwRead 0 rec 128
        let w (i : Nat) : Word := wordAt rd.2 i
        let ctx := (w 1).toNat / 2 ^ 8 % 2 ^ 16
        (ok = false ∨ rd.1 ≠ 0 ∨ recordGood (wordsOf rd.2 16) = false → Happens .queueMap (.words q [rec]) s fun u =>
          (u.queue q).mapped = false ∧ (u.queue q).reason = 1 ∧ SameMemory s u)
        ∧ (ok = true → rd.1 = 0 → recordGood (wordsOf rd.2 16) = true → ctx = 0 ∨ (s.dev.ctx? ctx).isSome = true →
            (w 1).getLsbD 24 = true ∨ (s.watched ctx (w 3).toNat).isSome = true → Happens .queueMap (.words q [rec]) s fun u =>
              let y := u.queue q
              (y.mapped, y.state, y.ring, y.ctx, y.prio, y.rlog, y.head) = (true, 1, w 0, ctx, (w 1).toNat / 2 ^ 5 % 2 ^ 3, (w 1).toNat % 2 ^ 5,
                (w 2).toNat % 2 ^ 32)
              ∧ u.cellar = (s.fwWrite 0 (rec + 16) (leBytes 4 y.head ++ leBytes 4 1)).1.cellar))
    ∧ (s.dev.boot ≠ .ready ∨ 64 ≤ q ∨ x.mapped = true → Becomes .queueMap (.words q [rec]) s s)
    ∧ (x.mapped = true → Happens .queueUnmap (.num q) s fun u => (u.queue q).mapped = false ∧ (u.queue q).head = x.head
        ∧ (u.queue q).commands = x.commands.map (fun (c : Command) => { c with orphan := true }))
    ∧ (x.mapped = false → Becomes .queueUnmap (.num q) s s)
    ∧ (x.mapped = true → x.dpost = false → x.rereading = false → Happens .watchedLineInvalidate (.num q) s fun u =>
        (u.queue q).rereading = true ∧ u.Pending .watchedLineReread (.num q))
    ∧ (x.mapped = true → x.rereading = true →
        (∀ line, s.watched x.ctx x.wline = some line → Happens .watchedLineReread (.num q) s fun u =>
          (u.queue q).held = line ∧ (u.queue q).pending = (x.pending || (line != x.held && x.state == 1)) ∧ SameMemory s u)
        ∧ (s.watched x.ctx x.wline = none → x.state = 1 → Happens .watchedLineReread (.num q) s fun u =>
            (u.queue q).state = 2 ∧ (u.queue q).reason = 0xFFFE))
/-- 03 R41 to R43, R50 to R53: an idle worker takes the first waiting slot and reads its tail; an accepted entry joins the queue's commands
and head advances; overruns and refused reads stop the queue; a failing worker or a restarting pair loses nothing; a completion writes
its record, and stops the queue unless its status or `cont` lets it go on. -/
def Obligations.QueueEvents : Prop :=
  ∀ (s : State) (q : Nat) (c : Command) (id st dt v : Word),
    let x := s.queue q
    let rd := s.fwRead 0 (x.record + 64) 4
    let tail := leNat rd.2
    let n := (tail + 2 ^ 32 - x.head) % 2 ^ 32
    let entry := s.fwRead x.ctx (x.ring + BitVec.ofNat 64 (64 * (x.head % 2 ^ x.rlog))) 64
    let done := Payload.words q [id, st, dt, v]
    let good := st.toNat = 0 ∨ st.toNat = 7 ∨ st.toNat = 10 ∨ c.header.getLsbD 9 = true
    let w := s.fwWrite c.ctx (c.dw 7) (leBytes 4 (c.header.toNat / 2 ^ 32 % 2 ^ 32) ++ leBytes 2 st.toNat ++ leBytes 2 dt.toNat ++ leBytes 8 v.toNat)
    (s.nextSlot = none ∨ s.dev.workers = 0 → Completes .queueWake s (· = s))
    ∧ (s.nextSlot = some q → x.waits = true → s.dev.workers ≠ 0 →
        (rd.1 ≠ 0 → Completes .queueWake s fun u => (u.queue q).reason = 0xFFFD ∧ (u.queue q).state = 2)
        ∧ (rd.1 = 0 → 2 ^ x.rlog < n → Completes .queueWake s fun u => (u.queue q).reason = 0xFFFF ∧ (u.queue q).state = 2)
        ∧ (rd.1 = 0 → n ≤ 2 ^ x.rlog → n ≠ 0 → Completes .queueWake s fun u => (u.queue q).accepting = true ∧ (u.queue q).tail = tail
            ∧ u.dev.workers = s.dev.workers - 1 ∧ u.Pending .commandAccept (.num q) ∧ SameMemory s u)
        ∧ (rd.1 = 0 → n = 0 → Completes .queueWake s fun u => (u.queue q).accepting = x.accepting ∧ u.dev.workers = s.dev.workers))
    ∧ (x.accepting = false → Becomes .commandAccept (.num q) s s ∧ Becomes .workerError (.num q) s s)
    ∧ (x.accepting = true →
        (x.state = 1 → entry.1 = 0 → Happens .commandAccept (.num q) s fun u =>
          (u.queue q).head = (x.head + 1) % 2 ^ 32 ∧ (u.queue q).accepting = false ∧ u.dev.workers = s.dev.workers + 1
          ∧ ∃ y ∈ (u.queue q).commands, y.ctx = x.ctx ∧ y.words = wordsOf entry.2 8)
        ∧ (x.state = 1 → x.mapped = true → entry.1 ≠ 0 → Happens .commandAccept (.num q) s fun u =>
            (u.queue q).state = 2 ∧ (u.queue q).reason = 0xFFFD ∧ (u.queue q).head = x.head)
        ∧ (x.state ≠ 1 → Happens .commandAccept (.num q) s fun u => (u.queue q).commands = x.commands ∧ SameMemory s u)
        ∧ (Happens .workerError (.num q) s fun u => (u.queue q).accepting = false ∧ u.dev.workers = s.dev.workers + 1
            ∧ (u.queue q).head = x.head ∧ ∀ y ∈ u.agenda, ¬ (y.ev = .commandAccept ∧ y.arg = .num q)))
    ∧ (Completes .lockstepMismatch s fun u => u.dev.restarts = s.dev.restarts + 1 ∧ SameMemory s u
        ∧ u.agenda.map (fun (y : Timed) => (y.ev, y.arg)) = s.agenda.map (fun (y : Timed) => (y.ev, y.arg)))
    ∧ (x.commands.find? (fun y => y.id == id.toNat) = some c →
        (c.dw 7 = 0 → Happens .commandComplete done s fun u => ∀ y ∈ (u.queue q).commands, y.id ≠ c.id)
        ∧ (c.dw 7 ≠ 0 → memSpace (c.dw 7) = true → c.orphan = true ∨ w.2 = 0 ∧ good → Happens .commandComplete done s fun u =>
            u.cellar = w.1.cellar ∧ u.host = w.1.host ∧ ∀ y ∈ (u.queue q).commands, y.id ≠ c.id)
        ∧ (c.dw 7 = 0 → c.orphan = false → ¬ good → x.mapped = true → x.state = 1 → Happens .commandComplete done s fun u =>
            (u.queue q).state = 2 ∧ (u.queue q).reason = x.reason)
        ∧ (c.dw 7 ≠ 0 → memSpace (c.dw 7) = false ∨ w.2 ≠ 0 → c.orphan = false → x.mapped = true → x.state = 1 ∨ x.state = 2 →
            Happens .commandComplete done s fun u => (u.queue q).state = 2 ∧ (u.queue q).reason = 0xFFFC))
    ∧ (x.commands.find? (fun y => y.id == id.toNat) = none → Becomes .commandComplete done s s)
/-- 03 R46, R51, R60, R61, R63, 02 R30, 07 R152: SIGNAL writes and wakes the WAITs of its address; a WAIT completes at its value or limit, else
looks again; TASKS appends one packet after another while entries are free; COPY enters a tile's copy engine; STATUS waits for host
accesses, drops the context's translations and writes the block. Which tile copies and the block's bytes are open (logs 30, 13). -/
def Obligations.CommandEvents : Prop :=
  ∀ (s : State) (q id : Nat) (c : Command), s.command? q id = some c →
    let cmd := Payload.cmd q id
    let ends (u : State) (st dt : Nat) (v : Word) : Prop :=
      u.Pending .commandComplete (.words q [BitVec.ofNat 64 id, BitVec.ofNat 64 st, BitVec.ofNat 64 dt, v])
    let refused (d : Nat) (i : Word) (u : State) : Prop := ends u 1 (0x0B + 256 * d) i
    (let w := s.fwWrite c.ctx (c.dw 1) (leBytes 8 (c.dw 2).toNat)
     (w.2 = 0 → Happens .signal cmd s fun u => u.cellar = w.1.cellar ∧ u.host = w.1.host ∧ ends u 0 0 0
        ∧ ∀ x ∈ s.waitsOn (s.wordPlace c.ctx (c.dw 1)), s.DueIn u 0 .waitPoll (.nums x.1 x.2))
     ∧ (w.2 ≠ 0 → Happens .signal cmd s fun u => SameMemory s u ∧ refused w.2 1 u))
    ∧ (let r := s.fwRead c.ctx (c.dw 1) 8
       let v := wordAt r.2 0
       let limit := (c.dw 3).toNat % 2 ^ 32
       (∀ x ∈ [(Instr.wait, cmd), (.waitPoll, cmd), (.waitPoll, .nums q id)],
          (r.1 ≠ 0 → Happens x.1 x.2 s (refused r.1 1))
          ∧ (r.1 = 0 → (c.dw 2).toNat ≤ v.toNat → Happens x.1 x.2 s fun u => ends u 0 0 v)
          ∧ (r.1 = 0 → v.toNat < (c.dw 2).toNat → Happens x.1 x.2 s fun u => (u.command? q id).map Command.value = some v
              ∧ (x.2 = cmd → s.DueIn u 5000 .waitPoll cmd)))
       ∧ (limit ≠ 0 → Happens .wait cmd s fun u => s.DueIn u (2500 * limit) .waitLimit cmd)
       ∧ Happens .waitLimit cmd s fun u => ends u 2 0 c.value)
    ∧ (Happens .tasks cmd s fun u => s.DueIn u 1 .tasksAppend cmd ∧ SameMemory s u)
    ∧ (let n := c.value
       let hd := s.fwRead c.ctx (c.dw 3) 24
       let prod := wordAt hd.2 0
       let free := s.entryFree c.ctx (c.dw 3) prod (wordAt hd.2 1) ((wordAt hd.2 2).toNat % 2 ^ 5)
       let p := s.fwRead c.ctx (c.dw 1 + 64 * n) 64
       let w := s.fwWrite c.ctx (packetAddr (c.dw 3) ((wordAt hd.2 2).toNat % 2 ^ 5) prod.toNat) p.2
       let v := w.1.fwWrite c.ctx (c.dw 3) (leBytes 8 (prod + 1).toNat)
       (n.toNat = (c.dw 2).toNat % 2 ^ 32 → Happens .tasksAppend cmd s fun u => ends u 0 0 n)
       ∧ (n.toNat ≠ (c.dw 2).toNat % 2 ^ 32 →
          (hd.1 ≠ 0 → Happens .tasksAppend cmd s (refused hd.1 3))
          ∧ (hd.1 = 0 → free = false → Happens .tasksAppend cmd s fun u => u.Pending .tasksAppend cmd ∧ SameMemory s u)
          ∧ (hd.1 = 0 → free = true → p.1 ≠ 0 → Happens .tasksAppend cmd s (refused p.1 1))
          ∧ (hd.1 = 0 → free = true → p.1 = 0 → w.2 ≠ 0 → Happens .tasksAppend cmd s (refused w.2 3))
          ∧ (hd.1 = 0 → free = true → p.1 = 0 → w.2 = 0 → v.2 = 0 → Happens .tasksAppend cmd s fun u =>
              u.cellar = v.1.cellar ∧ u.host = v.1.host ∧ (u.command? q id).map Command.value = some (n + 1)
              ∧ s.DueIn u 1 .tasksAppend cmd)))
    ∧ (let ks := (s.tilesOf c.ctx).filter (fun k => !isShadow k)
       let k := ks.getD (Config.choice s.free % ks.length) 0
       let x := s.commandRecord c.ctx (c.dw 1)
       let y := s.commandRecord c.ctx (c.dw 2)
       let z := (c.dw 3).getLsbD 0
       let fault := s.draw.recordsFault k 0 z (c.dw 1) (c.dw 2) x.2 y.2
       let away := ks = [] ∨ (s.dev.ctx? c.ctx).map Ctx.res ≠ some .resident
       (away → Happens .copy cmd s fun u => s.DueIn u 1024 .copy cmd)
       ∧ (¬ away →
          (x.1 ≠ 0 → Happens .copy cmd s (refused x.1 1))
          ∧ (x.1 = 0 → y.1 ≠ 0 → Happens .copy cmd s (refused y.1 2))
          ∧ (∀ f : TrapInfo, x.1 = 0 → y.1 = 0 → fault = some f → Happens .copy cmd s fun u =>
              ends u 1 (f.code + 256 * f.detail) (if f.val = c.dw 1 then 1 else 2))
          ∧ (x.1 = 0 → y.1 = 0 → fault = none → Happens .copy cmd s fun u =>
              u.Pending .copy (.xfer (some k) (commandXfer k c.ctx q id (parseLayout x.2) (parseLayout y.2) z)) ∧ SameMemory s u)))
    ∧ (∀ (k : TileId) (a b : Layout) (z : Bool),
        let m := Payload.xfer (some k) (commandXfer k c.ctx q id a b z)
        ((s.tile k).r.ctx ≠ c.ctx → Becomes .copy m s s)
        ∧ ((s.tile k).r.ctx = c.ctx → 16 ≤ (s.tile k).c.copies → (s.tile k).r.quiet = false → Happens .copy m s fun u => s.DueIn u 64 .copy m)
        ∧ ((s.tile k).r.ctx = c.ctx → (s.tile k).c.copies < 16 → Happens .copy m s fun u =>
            ∃ o ∈ (u.tile k).c.ops, o.id = (s.tile k).c.nextOp ∧ o.cmd = some (q, id) ∧ ∃ path, o.job = .copy 0 0 path a b z))
    ∧ (let w := s.fwWrite c.ctx (c.dw 1) (s.freeBytes 64)
       let n := s.fwRead c.ctx (c.dw 3) 32
       let dropped (u : State) : Prop := ∀ cl, ∀ e ∈ (u.cluster cl).tcache, e.ctx ≠ c.ctx
       (s.hostBusy c.ctx = true → Happens .status cmd s fun u => s.DueIn u 1 .status cmd ∧ SameMemory s u)
       ∧ (s.hostBusy c.ctx = false →
          (w.2 ≠ 0 → Happens .status cmd s fun u => dropped u ∧ refused w.2 1 u)
          ∧ (w.2 = 0 → (c.dw 2).getLsbD 0 = false → Happens .status cmd s fun u => dropped u ∧ u.cellar = w.1.cellar ∧ ends u 0 0 0)
          ∧ (w.2 = 0 → (c.dw 2).getLsbD 0 = true → Happens .status cmd s fun u =>
              dropped u ∧ u.cellar = w.1.cellar ∧ s.DueIn u 1 .statusAttest cmd))
       ∧ (n.1 ≠ 0 → Happens .statusAttest cmd s (refused n.1 3))
       ∧ (n.1 = 0 → w.2 ≠ 0 → Happens .statusAttest cmd s (refused w.2 1))
       ∧ (n.1 = 0 → w.2 = 0 → Happens .statusAttest cmd s fun u => u.cellar = w.1.cellar ∧ u.host = w.1.host ∧ ends u 0 0 0))
/-- 03 R47, R51, R54, 05 R111, 16 R323, 21 R376: the PARTITION commands; a command that has completed has no further effect. -/
def Obligations.PartitionEvents : Prop :=
  ∀ (s : State) (q id : Nat),
    let cmd := Payload.cmd q id
    let ends (u : State) (st dt : Nat) (v : Word) : Prop :=
      u.Pending .commandComplete (.words q [BitVec.ofNat 64 id, BitVec.ofNat 64 st, BitVec.ofNat 64 dt, v])
    let ok (u : State) : Prop := ends u 0 0 0
    let all := [Instr.partitionCreate, .partitionTeardown, .partitionSuspend, .partitionResume]
    let asked (n : Nat) (u : State) : Prop := ∀ k ∈ s.tilesOf n, u.Pending .gangPreempt (.tile k) ∨ u.Pending .gangPreempt (.tileNum k 2)
    (s.command? q id = none → ∀ ev ∈ all ++ [.launch, .copy, .tasks, .tasksAppend, .signal, .wait, .waitPoll, .waitLimit, .status, .statusAttest],
      Becomes ev cmd s s)
    ∧ (∀ n, Happens .partitionTeardown (.nums3 n q id) s fun u =>
        u.dev.ctx? n = none ∧ u.dev.peers.get? n = none ∧ n ∉ u.dev.parkedReports ∧ ok u)
    ∧ (∀ n d a b, s.dev.ctx? n = some d → d.res = .resident → Happens .partitionSuspend (.nums3 n a b) s fun u =>
        (u.dev.ctx? n).map Ctx.res = some .stopping ∧ n ∈ u.dev.parkedReports ∧ asked n u)
    ∧ ∀ c, s.command? q id = some c →
        let n := (c.dw 1).toNat / 2 ^ 16 % 2 ^ 16
        let x := s.fwRead c.ctx (c.dw 2) 128
        let ws := wordsOf x.2 16
        let y := Ctx.ofRecord ws (c.dw 2)
        let placed (d : Ctx) (u : State) : Prop := (u.dev.ctx? n).map Ctx.res = some .resident ∧ u.Pending .population (.num n)
          ∧ ∀ k ∈ s.dev.tilesIn d.region, (u.tile k).r.ctx = n ∧ (u.tile k).r.mode = (s.tile k).r.mode ∧ (u.tile k).c.zeroDue = true
            ∧ (∀ j, (u.tile k).slot j = none) ∧ (u.tile k).c.pool = (s.tile k).c.pool
        (s.dev.ctx? n = none →
          (∀ ev ∈ all.drop 1, Happens ev cmd s fun u => ends u 3 0 0)
          ∧ (x.1 ≠ 0 → Happens .partitionCreate cmd s fun u => ends u 1 (0x0B + 256 * x.1) 2)
          ∧ (∀ i, x.1 = 0 → s.dev.recordBad n ws = some i → Happens .partitionCreate cmd s fun u => ends u 4 i 0)
          ∧ (x.1 = 0 → s.dev.recordBad n ws = none → s.fits n y = true → Happens .partitionCreate cmd s fun u => placed y u ∧ ok u)
          ∧ (x.1 = 0 → s.dev.recordBad n ws = none → s.fits n y = false → Happens .partitionCreate cmd s fun u =>
              u.dev.ctx? n = some y ∧ y.res = .unplaced ∧ u.tiles = s.tiles ∧ ends u 10 0 0))
        ∧ ∀ d, s.dev.ctx? n = some d →
            (Happens .partitionCreate cmd s fun u => ends u 4 1 0)
            ∧ (n ≠ 0 → Happens .partitionTeardown cmd s fun u => s.DueIn u 2 .partitionTeardown (.nums3 n q id)
                ∧ (∀ k, (s.tile k).r.ctx = n →
                    (u.tile k).r.ctx = 0 ∧ (∀ j, (u.tile k).slot j = none) ∧ (u.tile k).c.pool = (s.tile k).c.pool)
                ∧ (u.dev.ctx? n).map Ctx.launches = some []
                ∧ ∀ q', ∀ y ∈ (s.queue q').commands, y.ctx = n → u.Pending .commandComplete
                    (.words q' [BitVec.ofNat 64 y.id, 3, 0, s.goneValue q' y]))
            ∧ (d.res = .resident → Happens .partitionSuspend cmd s fun u => (u.dev.ctx? n).map Ctx.res = some .stopping
                ∧ (u.dev.ctx? n).map Ctx.suspendCmd = some (some (q, id)) ∧ asked n u)
            ∧ (d.res = .restoring ∨ d.res = .stopping ∧ d.suspendCmd.isSome = true → Happens .partitionSuspend cmd s fun u =>
                s.DueIn u 1024 .partitionSuspend cmd)
            ∧ (d.res = .stopping → d.suspendCmd = none → Happens .partitionSuspend cmd s fun u =>
                (u.dev.ctx? n).map Ctx.suspendCmd = some (some (q, id)))
            ∧ (d.res = .parked ∨ d.res = .unplaced → Happens .partitionSuspend cmd s ok)
            ∧ (d.res ≠ .unplaced → memSpace (c.dw 2) = false → Happens .partitionResume cmd s fun u => ends u 4 2 0)
            ∧ (memSpace (c.dw 2) = true → d.res = .resident → Happens .partitionResume cmd s ok)
            ∧ (memSpace (c.dw 2) = true → d.res = .stopping ∨ d.res = .restoring → Happens .partitionResume cmd s fun u =>
                s.DueIn u 1024 .partitionResume cmd)
            ∧ (d.res = .unplaced →
                (s.dev.meets n d.region = true → Happens .partitionResume cmd s fun u => ends u 4 1 0)
                ∧ (s.dev.meets n d.region = false → d.shadow.any (s.dev.meets n) = true → Happens .partitionResume cmd s fun u => ends u 4 2 0)
                ∧ (s.dev.meets n d.region = false → d.shadow.any (s.dev.meets n) = false →
                    (s.fits n d = true → Happens .partitionResume cmd s fun u => placed d u ∧ ok u)
                    ∧ (s.fits n d = false → Happens .partitionResume cmd s fun u => ends u 10 0 0 ∧ u.tiles = s.tiles)))
            ∧ (memSpace (c.dw 2) = true → d.res = .parked → d.resumeCmd = none →
                (s.fits n d = true → Happens .partitionResume cmd s fun u => u.Pending .restore (.num n)
                  ∧ (u.dev.ctx? n).map Ctx.resumeCmd = some (some (q, id)) ∧ (u.dev.ctx? n).map Ctx.imageAt = some (some (c.dw 2))
                  ∧ n ∉ u.dev.parkedReports)
                ∧ (s.fits n d = false → Happens .partitionResume cmd s fun u => ends u 10 0 0 ∧ u.dev = s.dev))
/-- 03 R55 to R59, R64, R65, 05 R384: a launch is refused with the rule it breaks or waits for its population; a population sends every
tile its threads, and each enters its slot when its event arrives; a launch that is over completes with its outcome; a third copy runs
when the two differ; the time limit and a third-level trap end it. A launch that is turned away takes no launch id (log 60). -/
def Obligations.LaunchEvents : Prop :=
  ∀ (s : State) (q id n lix : Nat) (d : Ctx) (l : Launch),
    let ends (u : State) (q id st dt : Nat) (v : Word) : Prop :=
      u.Pending .commandComplete (.words q [BitVec.ofNat 64 id, BitVec.ofNat 64 st, BitVec.ofNat 64 dt, v])
    (∀ c, s.command? q id = some c →
      let x := s.fwRead c.ctx (c.dw 1) 128
      let ws := wordsOf x.2 16
      let l := Launch.ofDescriptor ws (BitVec.ofNat 32 (d.lids + 1)) q id
      let t := s.regionTable c.ctx l.live l.nlive.toNat
      (s.dev.ctx? c.ctx = none → Happens .launch (.cmd q id) s fun u => ends u q id 3 0 0)
      ∧ (s.dev.ctx? c.ctx = some d →
          (x.1 ≠ 0 → Happens .launch (.cmd q id) s fun u => ends u q id 1 (0x0B + 256 * x.1) 1)
          ∧ (∀ i, x.1 = 0 → s.launchBad c.ctx d ws = some i → Happens .launch (.cmd q id) s fun u => ends u q id 4 i 0)
          ∧ (x.1 = 0 → s.launchBad c.ctx d ws = none → t.1 ≠ 0 → Happens .launch (.cmd q id) s fun u => ends u q id 1 (0x0B + 256 * t.1) 1)
          ∧ (x.1 = 0 → s.launchBad c.ctx d ws = none → t.1 = 0 →
              (s.mirrorShort c.ctx d (l.poolcfg.setWidth 64) t.2 = true → Happens .launch (.cmd q id) s fun u => ends u q id 6 0 0)
              ∧ (s.mirrorShort c.ctx d (l.poolcfg.setWidth 64) t.2 = false → Happens .launch (.cmd q id) s fun u =>
                  s.DueIn u 1 .population (.num c.ctx) ∧ u.tiles = s.tiles
                  ∧ u.dev.ctx? c.ctx = some { d with lids := d.lids + 1, waiting := d.waiting ++ [{ l with extents := t.2 }] }))))
    ∧ (s.dev.ctx? n = some d → d.res = .resident → (∀ x ∈ d.launches, x.2.rerun = false) →
        let ks := s.launchTiles d l
        (d.waiting = [] → Becomes .population (.num n) s s)
        ∧ (d.waiting = [l] → d.freeLix = some lix → ks.Nodup → s.roomFor ks l.quota = true →
            (∀ k ∈ ks, s.recovering k = false ∧ s.evicting k = false ∧ (s.tile k).c.mustEvict (l.poolcfg.setWidth 64) = false) →
            Happens .population (.num n) s fun u =>
              (u.dev.ctx? n).map Ctx.waiting = some []
              ∧ u.launch? n lix = some { l with lix := lix, populated := true, since := s.now }
              ∧ (l.tlim ≠ 0 → s.DueIn u (2500 * l.tlim) .launchTimeLimit (.nums3 n lix l.lid.toNat))
              ∧ ∀ k ∈ ks, ∀ i j, i < l.quota → (s.openSlots k)[i]? = some j → u.Pending .population
                  (.populate k j.val lix l.tableEntry (l.thread lix k j.val i) (l.poolcfg.setWidth 64) ((s.tile k).c.zeroDue && i == 0)))
        ∧ (d.waiting = [l] → s.roomFor ks l.quota = false → Becomes .population (.num n) s s))
    ∧ (∀ (k : TileId) (j : Fin 16) (e : LaunchEntry) (th : Thread) (cfg : Word) (zero : Bool),
        let m := Payload.populate k j.val lix e th cfg zero
        Happens .population m s fun u =>
          (u.tile k).slot j = some th ∧ (∀ i, i ≠ j → (u.tile k).slot i = (s.tile k).slot i) ∧ (u.tile k).c.launches.get? lix = some e
          ∧ (u.tile k).c.poolcfg = cfg ∧ (zero = false → (u.tile k).c.pool = (s.tile k).c.pool ∧ (u.tile k).c.zeroDue = (s.tile k).c.zeroDue)
          ∧ (zero = true → (u.tile k).c.zeroDue = false ∧ (∀ a, a < (scrUnits cfg + accUnits cfg) * 4096 → u.poolByte k a = 0)
              ∧ ∀ w ∈ (u.tile k).c.emptyDw, scrBytes cfg ≤ 8 * w))
    ∧ (s.launch? n lix = some l →
        let left := s.leftFault n l.lid
        (l.populated = true → l.rerun = false → s.over n l = true →
          (∀ why, l.abort = some why → Happens .launchEnd (.nums n lix) s fun u =>
            u.launch? n lix = none ∧ ends u l.slot l.pos why.1 why.2 (l.lid.setWidth 64))
          ∧ (∀ code, l.abort = none → left = some code → Happens .launchEnd (.nums n lix) s fun u =>
              u.launch? n lix = none ∧ ends u l.slot l.pos 1 code (l.lid.setWidth 64))
          ∧ (l.abort = none → left = none → l.paired = false ∨ l.thirdSig = none ∧ l.sig = l.shadowSig → Happens .launchEnd (.nums n lix) s fun u =>
              u.launch? n lix = none ∧ ends u l.slot l.pos 0 0 (l.lid.setWidth 64))
          ∧ (l.abort = none → left = none → l.paired = true →
              (l.thirdSig = none → l.sig ≠ l.shadowSig → Happens .launchEnd (.nums n lix) s fun u =>
                (u.launch? n lix).map Launch.rerun = some true ∧ u.Pending .population (.num n))
              ∧ (∀ t, l.thirdSig = some t → Happens .launchEnd (.nums n lix) s fun u => u.launch? n lix = none
                  ∧ ends u l.slot l.pos (if t = l.sig then 7 else if t = l.shadowSig then 8 else 9) 0 (l.lid.setWidth 64))))
        ∧ (l.populated = false ∨ s.over n l = false → Becomes .launchEnd (.nums n lix) s s)
        ∧ (∀ k, Happens .launchEnd (.dropped k lix l.lid) s fun u =>
            ∀ j, (u.tile k).slot j = match (s.tile k).slot j with
              | some th => if th.lix = BitVec.ofNat 4 lix ∧ th.launch = l.lid then none else some th
              | none => none)
        ∧ (∀ k (th : Thread), (s.tile k).r.ctx = n → th.lix.toNat = lix → th.launch = l.lid → th.copies = [] →
            Happens .launchEnd (.ended k th) s fun u => u.Pending .launchEnd (.nums n lix)
              ∧ (l.paired = true → isShadow k = false → (u.launch? n lix).map Launch.sig = some (l.sig ^^^ th.sig)))
        ∧ (∀ cl (r : CrashRec), r.lix = lix → r.lid = l.lid → l.abort = none → Happens .launchEnd (.crash cl r n) s fun u =>
            r ∈ (u.cluster cl).crash ∧ (u.launch? n lix).map Launch.abort = some (some (1, r.cause0.toNat % 256)))
        ∧ (∀ d, s.dev.ctx? n = some d → d.res = .resident → l.abort = none →
            (2500 * l.tlim ≤ l.elapsed + (s.now - l.since) → Happens .launchTimeLimit (.nums3 n lix l.lid.toNat) s fun u =>
              (u.launch? n lix).map Launch.abort = some (some (2, 0)))
            ∧ (l.elapsed + (s.now - l.since) < 2500 * l.tlim → Becomes .launchTimeLimit (.nums3 n lix l.lid.toNat) s s)))
    ∧ (s.launch? n lix = none → Becomes .launchEnd (.nums n lix) s s)
/-! ### The tool chain -/

/-- R228, R233, R234: the assembler packs well-formed instructions, at most 31 of them with header, heads and tails within 32
halfwords, into a line of 32 halfwords that passes the header check, holds as many heads as there are instructions, and at whose
head `k + 1` the fetch reads and decodes instruction `k`. -/
def Obligations.PackedLines : Prop :=
  ∀ (is : List Instr) (cs : List Code), is ≠ [] → is.length ≤ 31 → (∀ i ∈ is, i.wf = true) → is.map encode = cs.map some →
    1 + cs.length + (cs.map (fun c => tailLen c.head)).sum ≤ 32 →
    let line := Sys2Proof.Asm.packLine cs
    line.length = 32 ∧ lineCheck line = none ∧ lineNH line = is.length
    ∧ ∀ (k : Nat) (h : k < is.length), decode (halfAt line (k + 1)) (tailOf line (k + 1)) = .instr is[k]
end

