-- ==== Sys2Proof/Laws/Assembler.lean ====
section
/-!
SUPPORT. The halfwords of a packed line: lengths, and a tail read back from where it stands (11 R228, 12 R233).
-/
namespace Sys2Proof.Asm
open Sys2Proof.Machine

@[simp] theorem tailHalves_length (n t : Nat) : (tailHalves n t).length = n := by
  induction n generalizing t with
  | zero => rfl
  | succ n ih => simp [tailHalves, ih]

@[simp] theorem codeTail_length (c : Code) : (codeTail c).length = tailLen c.head := tailHalves_length _ _

/-- The tails of a line take as many halfwords as their heads ask for. -/
theorem tails_length (cs : List Code) :
    (cs.reverse.flatMap codeTail).length = (cs.map (fun c => tailLen c.head)).sum := by
  simp [List.length_flatMap, List.map_reverse, List.sum_reverse]

theorem halfAt_append (pre post : List (BitVec 16)) : halfAt (pre ++ post) pre.length = halfAt post 0 := by
  rw [halfAt, halfAt, List.getD_append_right _ _ _ _ le_rfl, Nat.sub_self]

/-- A tail of `n` halfwords reads back from where it stands. -/
theorem tailBits_tailHalves (pre post : List (BitVec 16)) (n t : Nat) :
    tailBits (pre ++ tailHalves n t ++ post) pre.length n = t % 65536 ^ n := by
  induction n generalizing pre t with
  | zero => simp [tailBits, Nat.mod_one]
  | succ n ih =>
    have hd : halfAt (pre ++ tailHalves (n + 1) t ++ post) pre.length = t % 65536 := by
      rw [List.append_assoc, halfAt_append]
      simp [halfAt, tailHalves]
    have tl := ih (pre ++ [BitVec.ofNat 16 t]) (t / 65536)
    simp only [List.append_assoc, List.length_append, List.length_singleton, List.cons_append, List.nil_append] at tl
    rw [tailBits, hd]
    simp only [tailHalves, List.append_assoc, List.cons_append]
    rw [tl, pow_succ', Nat.mod_mul]

end Sys2Proof.Asm
end

