-- ==== Sys2Proof/Laws/Dispatch.lean ====
section
/-!
SUPPORT. What `exec` does with each constructor: its meaning, by one lemma per arm, so that no proof unfolds `exec`.
-/
namespace Sys2Proof.Machine
set_option Elab.async false

@[simp] theorem exec_nop (s : State) : exec .nop s = execNop s := rfl
@[simp] theorem exec_exit (s : State) : exec .exit s = execExit s := rfl
@[simp] theorem exec_yield (s : State) : exec .yield s = execYield s := rfl
@[simp] theorem exec_brk (s : State) : exec .brk s = execBrk s := rfl
@[simp] theorem exec_trap (n : Fin 32) (s : State) : exec (.trap n) s = execTrap n s := rfl
@[simp] theorem exec_rett (s : State) : exec .rett s = execRett s := rfl
@[simp] theorem exec_add (w : Bool) (rd ra rb : Reg) (s : State) : exec (.add w rd ra rb) s = execAdd w rd ra rb s := rfl
@[simp] theorem exec_sub (w : Bool) (rd ra rb : Reg) (s : State) : exec (.sub w rd ra rb) s = execSub w rd ra rb s := rfl
@[simp] theorem exec_mul (w : Bool) (rd ra rb : Reg) (s : State) : exec (.mul w rd ra rb) s = execMul w rd ra rb s := rfl
@[simp] theorem exec_mulh (w : Bool) (rd ra rb : Reg) (s : State) : exec (.mulh w rd ra rb) s = execMulh w rd ra rb s := rfl
@[simp] theorem exec_mulhu (w : Bool) (rd ra rb : Reg) (s : State) : exec (.mulhu w rd ra rb) s = execMulhu w rd ra rb s := rfl
@[simp] theorem exec_div (w : Bool) (rd ra rb : Reg) (s : State) : exec (.div w rd ra rb) s = execDiv w rd ra rb s := rfl
@[simp] theorem exec_divu (w : Bool) (rd ra rb : Reg) (s : State) : exec (.divu w rd ra rb) s = execDivu w rd ra rb s := rfl
@[simp] theorem exec_rem (w : Bool) (rd ra rb : Reg) (s : State) : exec (.rem w rd ra rb) s = execRem w rd ra rb s := rfl
@[simp] theorem exec_remu (w : Bool) (rd ra rb : Reg) (s : State) : exec (.remu w rd ra rb) s = execRemu w rd ra rb s := rfl
@[simp] theorem exec_and (w : Bool) (rd ra rb : Reg) (s : State) : exec (.and w rd ra rb) s = execAnd w rd ra rb s := rfl
@[simp] theorem exec_or (w : Bool) (rd ra rb : Reg) (s : State) : exec (.or w rd ra rb) s = execOr w rd ra rb s := rfl
@[simp] theorem exec_xor (w : Bool) (rd ra rb : Reg) (s : State) : exec (.xor w rd ra rb) s = execXor w rd ra rb s := rfl
@[simp] theorem exec_andn (w : Bool) (rd ra rb : Reg) (s : State) : exec (.andn w rd ra rb) s = execAndn w rd ra rb s := rfl
@[simp] theorem exec_shl (w : Bool) (rd ra rb : Reg) (s : State) : exec (.shl w rd ra rb) s = execShl w rd ra rb s := rfl
@[simp] theorem exec_shr (w : Bool) (rd ra rb : Reg) (s : State) : exec (.shr w rd ra rb) s = execShr w rd ra rb s := rfl
@[simp] theorem exec_sar (w : Bool) (rd ra rb : Reg) (s : State) : exec (.sar w rd ra rb) s = execSar w rd ra rb s := rfl
@[simp] theorem exec_rot (w : Bool) (rd ra rb : Reg) (s : State) : exec (.rot w rd ra rb) s = execRot w rd ra rb s := rfl
@[simp] theorem exec_min (w : Bool) (rd ra rb : Reg) (s : State) : exec (.min w rd ra rb) s = execMin w rd ra rb s := rfl
@[simp] theorem exec_max (w : Bool) (rd ra rb : Reg) (s : State) : exec (.max w rd ra rb) s = execMax w rd ra rb s := rfl
@[simp] theorem exec_minu (w : Bool) (rd ra rb : Reg) (s : State) : exec (.minu w rd ra rb) s = execMinu w rd ra rb s := rfl
@[simp] theorem exec_maxu (w : Bool) (rd ra rb : Reg) (s : State) : exec (.maxu w rd ra rb) s = execMaxu w rd ra rb s := rfl
@[simp] theorem exec_addi (rd ra : Reg) (imm : BitVec 11) (s : State) : exec (.addi rd ra imm) s = execAddi rd ra imm s := rfl
@[simp] theorem exec_andi (rd ra : Reg) (imm : BitVec 11) (s : State) : exec (.andi rd ra imm) s = execAndi rd ra imm s := rfl
@[simp] theorem exec_ori (rd ra : Reg) (imm : BitVec 11) (s : State) : exec (.ori rd ra imm) s = execOri rd ra imm s := rfl
@[simp] theorem exec_xori (rd ra : Reg) (imm : BitVec 11) (s : State) : exec (.xori rd ra imm) s = execXori rd ra imm s := rfl
@[simp] theorem exec_shli (rd ra : Reg) (n : BitVec 6) (s : State) : exec (.shli rd ra n) s = execShli rd ra n s := rfl
@[simp] theorem exec_shri (rd ra : Reg) (n : BitVec 6) (s : State) : exec (.shri rd ra n) s = execShri rd ra n s := rfl
@[simp] theorem exec_sari (rd ra : Reg) (n : BitVec 6) (s : State) : exec (.sari rd ra n) s = execSari rd ra n s := rfl
@[simp] theorem exec_muli (rd ra : Reg) (imm : BitVec 11) (s : State) : exec (.muli rd ra imm) s = execMuli rd ra imm s := rfl
@[simp] theorem exec_li16 (zx : Bool) (rd : Reg) (imm : BitVec 16) (s : State) : exec (.li16 zx rd imm) s = execLi16 zx rd imm s := rfl
@[simp] theorem exec_li32 (zx : Bool) (rd : Reg) (imm : BitVec 32) (s : State) : exec (.li32 zx rd imm) s = execLi32 zx rd imm s := rfl
@[simp] theorem exec_li64 (rd : Reg) (imm : BitVec 64) (s : State) : exec (.li64 rd imm) s = execLi64 rd imm s := rfl
@[simp] theorem exec_mov (rd ra : Reg) (s : State) : exec (.mov rd ra) s = execMov rd ra s := rfl
@[simp] theorem exec_neg (rd ra : Reg) (s : State) : exec (.neg rd ra) s = execNeg rd ra s := rfl
@[simp] theorem exec_not (rd ra : Reg) (s : State) : exec (.not rd ra) s = execNot rd ra s := rfl
@[simp] theorem exec_clz (rd ra : Reg) (s : State) : exec (.clz rd ra) s = execClz rd ra s := rfl
@[simp] theorem exec_ctz (rd ra : Reg) (s : State) : exec (.ctz rd ra) s = execCtz rd ra s := rfl
@[simp] theorem exec_popc (rd ra : Reg) (s : State) : exec (.popc rd ra) s = execPopc rd ra s := rfl
@[simp] theorem exec_sext (sz : Fin 3) (rd ra : Reg) (s : State) : exec (.sext sz rd ra) s = execSext sz rd ra s := rfl
@[simp] theorem exec_zext (sz : Fin 3) (rd ra : Reg) (s : State) : exec (.zext sz rd ra) s = execZext sz rd ra s := rfl
@[simp] theorem exec_ext (rd ra : Reg) (pos len : BitVec 6) (s : State) : exec (.ext rd ra pos len) s = execExt rd ra pos len s := rfl
@[simp] theorem exec_extu (rd ra : Reg) (pos len : BitVec 6) (s : State) : exec (.extu rd ra pos len) s = execExtu rd ra pos len s := rfl
@[simp] theorem exec_ins (rd ra : Reg) (pos len : BitVec 6) (s : State) : exec (.ins rd ra pos len) s = execIns rd ra pos len s := rfl
@[simp] theorem exec_cmpEq (qd : Pred) (ra rb : Reg) (s : State) : exec (.cmpEq qd ra rb) s = execCmpEq qd ra rb s := rfl
@[simp] theorem exec_cmpNe (qd : Pred) (ra rb : Reg) (s : State) : exec (.cmpNe qd ra rb) s = execCmpNe qd ra rb s := rfl
@[simp] theorem exec_cmpLt (qd : Pred) (ra rb : Reg) (s : State) : exec (.cmpLt qd ra rb) s = execCmpLt qd ra rb s := rfl
@[simp] theorem exec_cmpGe (qd : Pred) (ra rb : Reg) (s : State) : exec (.cmpGe qd ra rb) s = execCmpGe qd ra rb s := rfl
@[simp] theorem exec_cmpLtu (qd : Pred) (ra rb : Reg) (s : State) : exec (.cmpLtu qd ra rb) s = execCmpLtu qd ra rb s := rfl
@[simp] theorem exec_cmpGeu (qd : Pred) (ra rb : Reg) (s : State) : exec (.cmpGeu qd ra rb) s = execCmpGeu qd ra rb s := rfl
@[simp] theorem exec_cmpTst (qd : Pred) (ra rb : Reg) (s : State) : exec (.cmpTst qd ra rb) s = execCmpTst qd ra rb s := rfl
@[simp] theorem exec_cmpNtst (qd : Pred) (ra rb : Reg) (s : State) : exec (.cmpNtst qd ra rb) s = execCmpNtst qd ra rb s := rfl
@[simp] theorem exec_cmpiEq (qd : Pred) (ra : Reg) (imm : BitVec 11) (s : State) : exec (.cmpiEq qd ra imm) s = execCmpiEq qd ra imm s := rfl
@[simp] theorem exec_cmpiNe (qd : Pred) (ra : Reg) (imm : BitVec 11) (s : State) : exec (.cmpiNe qd ra imm) s = execCmpiNe qd ra imm s := rfl
@[simp] theorem exec_cmpiLt (qd : Pred) (ra : Reg) (imm : BitVec 11) (s : State) : exec (.cmpiLt qd ra imm) s = execCmpiLt qd ra imm s := rfl
@[simp] theorem exec_cmpiGe (qd : Pred) (ra : Reg) (imm : BitVec 11) (s : State) : exec (.cmpiGe qd ra imm) s = execCmpiGe qd ra imm s := rfl
@[simp] theorem exec_cmpiLtu (qd : Pred) (ra : Reg) (imm : BitVec 11) (s : State) : exec (.cmpiLtu qd ra imm) s = execCmpiLtu qd ra imm s := rfl
@[simp] theorem exec_cmpiGeu (qd : Pred) (ra : Reg) (imm : BitVec 11) (s : State) : exec (.cmpiGeu qd ra imm) s = execCmpiGeu qd ra imm s := rfl
@[simp] theorem exec_cmpiTst (qd : Pred) (ra : Reg) (imm : BitVec 11) (s : State) : exec (.cmpiTst qd ra imm) s = execCmpiTst qd ra imm s := rfl
@[simp] theorem exec_cmpiNtst (qd : Pred) (ra : Reg) (imm : BitVec 11) (s : State) : exec (.cmpiNtst qd ra imm) s = execCmpiNtst qd ra imm s := rfl
@[simp] theorem exec_sel (rd : Reg) (qn : Pred) (ra rb : Reg) (s : State) : exec (.sel rd qn ra rb) s = execSel rd qn ra rb s := rfl
@[simp] theorem exec_pand (qd qa qb : Pred) (s : State) : exec (.pand qd qa qb) s = execPand qd qa qb s := rfl
@[simp] theorem exec_por (qd qa qb : Pred) (s : State) : exec (.por qd qa qb) s = execPor qd qa qb s := rfl
@[simp] theorem exec_pxor (qd qa qb : Pred) (s : State) : exec (.pxor qd qa qb) s = execPxor qd qa qb s := rfl
@[simp] theorem exec_pandn (qd qa qb : Pred) (s : State) : exec (.pandn qd qa qb) s = execPandn qd qa qb s := rfl
@[simp] theorem exec_pnot (qd qa : Pred) (s : State) : exec (.pnot qd qa) s = execPnot qd qa s := rfl
@[simp] theorem exec_pmov (qd qa : Pred) (s : State) : exec (.pmov qd qa) s = execPmov qd qa s := rfl
@[simp] theorem exec_pset (qd : Pred) (s : State) : exec (.pset qd) s = execPset qd s := rfl
@[simp] theorem exec_pclr (qd : Pred) (s : State) : exec (.pclr qd) s = execPclr qd s := rfl
@[simp] theorem exec_ppack (rd : Reg) (hi : Bool) (s : State) : exec (.ppack rd hi) s = execPpack rd hi s := rfl
@[simp] theorem exec_punpack (ra : Reg) (hi : Bool) (s : State) : exec (.punpack ra hi) s = execPunpack ra hi s := rfl
@[simp] theorem exec_prd (rd : Reg) (s : State) : exec (.prd rd) s = execPrd rd s := rfl
@[simp] theorem exec_pwr (ra : Reg) (s : State) : exec (.pwr ra) s = execPwr ra s := rfl
@[simp] theorem exec_fadd (rm : Fin 5) (rd ra rb : Reg) (s : State) : exec (.fadd rm rd ra rb) s = execFadd rm rd ra rb s := rfl
@[simp] theorem exec_fsub (rm : Fin 5) (rd ra rb : Reg) (s : State) : exec (.fsub rm rd ra rb) s = execFsub rm rd ra rb s := rfl
@[simp] theorem exec_fmul (rm : Fin 5) (rd ra rb : Reg) (s : State) : exec (.fmul rm rd ra rb) s = execFmul rm rd ra rb s := rfl
@[simp] theorem exec_fdiv (rm : Fin 5) (rd ra rb : Reg) (s : State) : exec (.fdiv rm rd ra rb) s = execFdiv rm rd ra rb s := rfl
@[simp] theorem exec_fmin (rm : Fin 5) (rd ra rb : Reg) (s : State) : exec (.fmin rm rd ra rb) s = execFmin rm rd ra rb s := rfl
@[simp] theorem exec_fmax (rm : Fin 5) (rd ra rb : Reg) (s : State) : exec (.fmax rm rd ra rb) s = execFmax rm rd ra rb s := rfl
@[simp] theorem exec_fsqrt (rm : Fin 5) (rd ra : Reg) (s : State) : exec (.fsqrt rm rd ra) s = execFsqrt rm rd ra s := rfl
@[simp] theorem exec_fabs (rm : Fin 5) (rd ra : Reg) (s : State) : exec (.fabs rm rd ra) s = execFabs rm rd ra s := rfl
@[simp] theorem exec_fneg (rm : Fin 5) (rd ra : Reg) (s : State) : exec (.fneg rm rd ra) s = execFneg rm rd ra s := rfl
@[simp] theorem exec_fma (rm : Fin 5) (rd ra rb rc : Reg) (s : State) : exec (.fma rm rd ra rb rc) s = execFma rm rd ra rb rc s := rfl
@[simp] theorem exec_fnma (rm : Fin 5) (rd ra rb rc : Reg) (s : State) : exec (.fnma rm rd ra rb rc) s = execFnma rm rd ra rb rc s := rfl
@[simp] theorem exec_feq (qd : Pred) (ra rb : Reg) (s : State) : exec (.feq qd ra rb) s = execFeq qd ra rb s := rfl
@[simp] theorem exec_flt (qd : Pred) (ra rb : Reg) (s : State) : exec (.flt qd ra rb) s = execFlt qd ra rb s := rfl
@[simp] theorem exec_fle (qd : Pred) (ra rb : Reg) (s : State) : exec (.fle qd ra rb) s = execFle qd ra rb s := rfl
@[simp] theorem exec_funo (qd : Pred) (ra rb : Reg) (s : State) : exec (.funo qd ra rb) s = execFuno qd ra rb s := rfl
@[simp] theorem exec_cvtfi (rm : Fin 5) (rd ra : Reg) (s : State) : exec (.cvtfi rm rd ra) s = execCvtfi rm rd ra s := rfl
@[simp] theorem exec_cvtif (rm : Fin 5) (rd ra : Reg) (s : State) : exec (.cvtif rm rd ra) s = execCvtif rm rd ra s := rfl
@[simp] theorem exec_cvtfb (rm : Fin 5) (rd ra : Reg) (s : State) : exec (.cvtfb rm rd ra) s = execCvtfb rm rd ra s := rfl
@[simp] theorem exec_cvtbf (rm : Fin 5) (rd ra : Reg) (s : State) : exec (.cvtbf rm rd ra) s = execCvtbf rm rd ra s := rfl
@[simp] theorem exec_cvtfh (rm : Fin 5) (rd ra : Reg) (s : State) : exec (.cvtfh rm rd ra) s = execCvtfh rm rd ra s := rfl
@[simp] theorem exec_cvthf (rm : Fin 5) (rd ra : Reg) (s : State) : exec (.cvthf rm rd ra) s = execCvthf rm rd ra s := rfl
@[simp] theorem exec_fclass (rm : Fin 5) (rd ra : Reg) (s : State) : exec (.fclass rm rd ra) s = execFclass rm rd ra s := rfl
@[simp] theorem exec_br (t : Target) (s : State) : exec (.br t) s = execBr t s := rfl
@[simp] theorem exec_bt (sel : Fin 32) (t : Target) (s : State) : exec (.bt sel t) s = execBt sel t s := rfl
@[simp] theorem exec_bf (sel : Fin 32) (t : Target) (s : State) : exec (.bf sel t) s = execBf sel t s := rfl
@[simp] theorem exec_call (t : Target) (s : State) : exec (.call t) s = execCall t s := rfl
@[simp] theorem exec_jr (r : Reg) (s : State) : exec (.jr r) s = execJr r s := rfl
@[simp] theorem exec_callr (r : Reg) (s : State) : exec (.callr r) s = execCallr r s := rfl
@[simp] theorem exec_ret (s : State) : exec .ret s = execRet s := rfl
@[simp] theorem exec_loop (ra : Reg) (t : Target) (s : State) : exec (.loop ra t) s = execLoop ra t s := rfl
@[simp] theorem exec_loopi (n : BitVec 8) (t : Target) (s : State) : exec (.loopi n t) s = execLoopi n t s := rfl
@[simp] theorem exec_lexit (s : State) : exec .lexit s = execLexit s := rfl
@[simp] theorem exec_lidx (rd : Reg) (s : State) : exec (.lidx rd) s = execLidx rd s := rfl
@[simp] theorem exec_ldep (rd : Reg) (s : State) : exec (.ldep rd) s = execLdep rd s := rfl
@[simp] theorem exec_enter (n : BitVec 16) (s : State) : exec (.enter n) s = execEnter n s := rfl
@[simp] theorem exec_leave (s : State) : exec .leave s = execLeave s := rfl
@[simp] theorem exec_csrr (rd : Reg) (csr : BitVec 11) (s : State) : exec (.csrr rd csr) s = execCsrr rd csr s := rfl
@[simp] theorem exec_csrw (rd ra : Reg) (csr : BitVec 11) (s : State) : exec (.csrw rd ra csr) s = execCsrw rd ra csr s := rfl
@[simp] theorem exec_csrs (rd ra : Reg) (csr : BitVec 11) (s : State) : exec (.csrs rd ra csr) s = execCsrs rd ra csr s := rfl
@[simp] theorem exec_csrc (rd ra : Reg) (csr : BitVec 11) (s : State) : exec (.csrc rd ra csr) s = execCsrc rd ra csr s := rfl
@[simp] theorem exec_ldBTi (rd ra : Reg) (imm : BitVec 11) (s : State) : exec (.ldBTi rd ra imm) s = execLdBTi rd ra imm s := rfl
@[simp] theorem exec_ldBuTi (rd ra : Reg) (imm : BitVec 11) (s : State) : exec (.ldBuTi rd ra imm) s = execLdBuTi rd ra imm s := rfl
@[simp] theorem exec_ldHTi (rd ra : Reg) (imm : BitVec 11) (s : State) : exec (.ldHTi rd ra imm) s = execLdHTi rd ra imm s := rfl
@[simp] theorem exec_ldHuTi (rd ra : Reg) (imm : BitVec 11) (s : State) : exec (.ldHuTi rd ra imm) s = execLdHuTi rd ra imm s := rfl
@[simp] theorem exec_ldWTi (rd ra : Reg) (imm : BitVec 11) (s : State) : exec (.ldWTi rd ra imm) s = execLdWTi rd ra imm s := rfl
@[simp] theorem exec_ldWuTi (rd ra : Reg) (imm : BitVec 11) (s : State) : exec (.ldWuTi rd ra imm) s = execLdWuTi rd ra imm s := rfl
@[simp] theorem exec_ldDTi (rd ra : Reg) (imm : BitVec 11) (s : State) : exec (.ldDTi rd ra imm) s = execLdDTi rd ra imm s := rfl
@[simp] theorem exec_ldBTd (rd ra rb : Reg) (imm : BitVec 16) (s : State) : exec (.ldBTd rd ra rb imm) s = execLdBTd rd ra rb imm s := rfl
@[simp] theorem exec_ldBuTd (rd ra rb : Reg) (imm : BitVec 16) (s : State) : exec (.ldBuTd rd ra rb imm) s = execLdBuTd rd ra rb imm s := rfl
@[simp] theorem exec_ldHTd (rd ra rb : Reg) (imm : BitVec 16) (s : State) : exec (.ldHTd rd ra rb imm) s = execLdHTd rd ra rb imm s := rfl
@[simp] theorem exec_ldHuTd (rd ra rb : Reg) (imm : BitVec 16) (s : State) : exec (.ldHuTd rd ra rb imm) s = execLdHuTd rd ra rb imm s := rfl
@[simp] theorem exec_ldWTd (rd ra rb : Reg) (imm : BitVec 16) (s : State) : exec (.ldWTd rd ra rb imm) s = execLdWTd rd ra rb imm s := rfl
@[simp] theorem exec_ldWuTd (rd ra rb : Reg) (imm : BitVec 16) (s : State) : exec (.ldWuTd rd ra rb imm) s = execLdWuTd rd ra rb imm s := rfl
@[simp] theorem exec_ldDTd (rd ra rb : Reg) (imm : BitVec 16) (s : State) : exec (.ldDTd rd ra rb imm) s = execLdDTd rd ra rb imm s := rfl
@[simp] theorem exec_stBTi (rs ra : Reg) (imm : BitVec 11) (s : State) : exec (.stBTi rs ra imm) s = execStBTi rs ra imm s := rfl
@[simp] theorem exec_stHTi (rs ra : Reg) (imm : BitVec 11) (s : State) : exec (.stHTi rs ra imm) s = execStHTi rs ra imm s := rfl
@[simp] theorem exec_stWTi (rs ra : Reg) (imm : BitVec 11) (s : State) : exec (.stWTi rs ra imm) s = execStWTi rs ra imm s := rfl
@[simp] theorem exec_stDTi (rs ra : Reg) (imm : BitVec 11) (s : State) : exec (.stDTi rs ra imm) s = execStDTi rs ra imm s := rfl
@[simp] theorem exec_stBTd (rs ra rb : Reg) (imm : BitVec 16) (s : State) : exec (.stBTd rs ra rb imm) s = execStBTd rs ra rb imm s := rfl
@[simp] theorem exec_stHTd (rs ra rb : Reg) (imm : BitVec 16) (s : State) : exec (.stHTd rs ra rb imm) s = execStHTd rs ra rb imm s := rfl
@[simp] theorem exec_stWTd (rs ra rb : Reg) (imm : BitVec 16) (s : State) : exec (.stWTd rs ra rb imm) s = execStWTd rs ra rb imm s := rfl
@[simp] theorem exec_stDTd (rs ra rb : Reg) (imm : BitVec 16) (s : State) : exec (.stDTd rs ra rb imm) s = execStDTd rs ra rb imm s := rfl
@[simp] theorem exec_ldc (rd ra : Reg) (imm : BitVec 11) (s : State) : exec (.ldc rd ra imm) s = execLdc rd ra imm s := rfl
@[simp] theorem exec_ldf (rd ra : Reg) (imm : BitVec 11) (s : State) : exec (.ldf rd ra imm) s = execLdf rd ra imm s := rfl
@[simp] theorem exec_stp (rd ra : Reg) (imm : BitVec 11) (s : State) : exec (.stp rd ra imm) s = execStp rd ra imm s := rfl
@[simp] theorem exec_stf (rd ra : Reg) (imm : BitVec 11) (s : State) : exec (.stf rd ra imm) s = execStf rd ra imm s := rfl
@[simp] theorem exec_femt (ra : Reg) (imm : BitVec 11) (s : State) : exec (.femt ra imm) s = execFemt ra imm s := rfl
@[simp] theorem exec_fest (rd ra : Reg) (imm : BitVec 11) (s : State) : exec (.fest rd ra imm) s = execFest rd ra imm s := rfl
@[simp] theorem exec_amoadd (fl : AmoFlags) (rd ra rb : Reg) (s : State) : exec (.amoadd fl rd ra rb) s = execAmoadd fl rd ra rb s := rfl
@[simp] theorem exec_amoand (fl : AmoFlags) (rd ra rb : Reg) (s : State) : exec (.amoand fl rd ra rb) s = execAmoand fl rd ra rb s := rfl
@[simp] theorem exec_amoor (fl : AmoFlags) (rd ra rb : Reg) (s : State) : exec (.amoor fl rd ra rb) s = execAmoor fl rd ra rb s := rfl
@[simp] theorem exec_amoxor (fl : AmoFlags) (rd ra rb : Reg) (s : State) : exec (.amoxor fl rd ra rb) s = execAmoxor fl rd ra rb s := rfl
@[simp] theorem exec_amomin (fl : AmoFlags) (rd ra rb : Reg) (s : State) : exec (.amomin fl rd ra rb) s = execAmomin fl rd ra rb s := rfl
@[simp] theorem exec_amomax (fl : AmoFlags) (rd ra rb : Reg) (s : State) : exec (.amomax fl rd ra rb) s = execAmomax fl rd ra rb s := rfl
@[simp] theorem exec_amominu (fl : AmoFlags) (rd ra rb : Reg) (s : State) : exec (.amominu fl rd ra rb) s = execAmominu fl rd ra rb s := rfl
@[simp] theorem exec_amomaxu (fl : AmoFlags) (rd ra rb : Reg) (s : State) : exec (.amomaxu fl rd ra rb) s = execAmomaxu fl rd ra rb s := rfl
@[simp] theorem exec_amoswap (fl : AmoFlags) (rd ra rb : Reg) (s : State) : exec (.amoswap fl rd ra rb) s = execAmoswap fl rd ra rb s := rfl
@[simp] theorem exec_amocas (fl : AmoFlags) (rd ra rb : Reg) (s : State) : exec (.amocas fl rd ra rb) s = execAmocas fl rd ra rb s := rfl
@[simp] theorem exec_fenceAcq (scope : Fin 4) (s : State) : exec (.fenceAcq scope) s = execFenceAcq scope s := rfl
@[simp] theorem exec_fenceRel (scope : Fin 4) (s : State) : exec (.fenceRel scope) s = execFenceRel scope s := rfl
@[simp] theorem exec_fenceFull (scope : Fin 4) (s : State) : exec (.fenceFull scope) s = execFenceFull scope s := rfl
@[simp] theorem exec_drain (path : Fin 6) (s : State) : exec (.drain path) s = execDrain path s := rfl
@[simp] theorem exec_rfill (ra rb rt : Reg) (s : State) : exec (.rfill ra rb rt) s = execRfill ra rb rt s := rfl
@[simp] theorem exec_rempty (rd : Reg) (s : State) : exec (.rempty rd) s = execRempty rd s := rfl
@[simp] theorem exec_rstat (rd : Reg) (s : State) : exec (.rstat rd) s = execRstat rd s := rfl
@[simp] theorem exec_send (ra rb : Reg) (mbox : Fin 16) (tag : BitVec 16) (s : State) : exec (.send ra rb mbox tag) s = execSend ra rb mbox tag s := rfl
@[simp] theorem exec_recv (rd ra rb : Reg) (s : State) : exec (.recv rd ra rb) s = execRecv rd ra rb s := rfl
@[simp] theorem exec_tryrecv (rd ra rb : Reg) (s : State) : exec (.tryrecv rd ra rb) s = execTryrecv rd ra rb s := rfl
@[simp] theorem exec_spawn (rd ra rb : Reg) (s : State) : exec (.spawn rd ra rb) s = execSpawn rd ra rb s := rfl
@[simp] theorem exec_gjoin (rd ra : Reg) (s : State) : exec (.gjoin rd ra) s = execGjoin rd ra s := rfl
@[simp] theorem exec_gleave (rd ra : Reg) (s : State) : exec (.gleave rd ra) s = execGleave rd ra s := rfl
@[simp] theorem exec_gbar (rd ra : Reg) (s : State) : exec (.gbar rd ra) s = execGbar rd ra s := rfl
@[simp] theorem exec_gsize (rd ra : Reg) (s : State) : exec (.gsize rd ra) s = execGsize rd ra s := rfl
@[simp] theorem exec_task (s : State) : exec .task s = execTask s := rfl
@[simp] theorem exec_tdone (s : State) : exec .tdone s = execTdone s := rfl
@[simp] theorem exec_mig (ra : Reg) (s : State) : exec (.mig ra) s = execMig ra s := rfl
@[simp] theorem exec_swapt (ra rb : Reg) (s : State) : exec (.swapt ra rb) s = execSwapt ra rb s := rfl
@[simp] theorem exec_ckpt (rd : Reg) (s : State) : exec (.ckpt rd) s = execCkpt rd s := rfl
@[simp] theorem exec_siga (ra : Reg) (s : State) : exec (.siga ra) s = execSiga ra s := rfl
@[simp] theorem exec_qpost (rd ra rb : Reg) (s : State) : exec (.qpost rd ra rb) s = execQpost rd ra rb s := rfl
@[simp] theorem exec_vadd (o : VecOps) (s : State) : exec (.vadd o) s = execVadd o s := rfl
@[simp] theorem exec_vsub (o : VecOps) (s : State) : exec (.vsub o) s = execVsub o s := rfl
@[simp] theorem exec_vmul (o : VecOps) (s : State) : exec (.vmul o) s = execVmul o s := rfl
@[simp] theorem exec_vmax (o : VecOps) (s : State) : exec (.vmax o) s = execVmax o s := rfl
@[simp] theorem exec_vmin (o : VecOps) (s : State) : exec (.vmin o) s = execVmin o s := rfl
@[simp] theorem exec_vabs (o : VecOps) (s : State) : exec (.vabs o) s = execVabs o s := rfl
@[simp] theorem exec_vneg (o : VecOps) (s : State) : exec (.vneg o) s = execVneg o s := rfl
@[simp] theorem exec_vfma (o : VecOps) (s : State) : exec (.vfma o) s = execVfma o s := rfl
@[simp] theorem exec_vexp (o : VecOps) (s : State) : exec (.vexp o) s = execVexp o s := rfl
@[simp] theorem exec_vrcp (o : VecOps) (s : State) : exec (.vrcp o) s = execVrcp o s := rfl
@[simp] theorem exec_vrsq (o : VecOps) (s : State) : exec (.vrsq o) s = execVrsq o s := rfl
@[simp] theorem exec_vsigm (o : VecOps) (s : State) : exec (.vsigm o) s = execVsigm o s := rfl
@[simp] theorem exec_vsilu (o : VecOps) (s : State) : exec (.vsilu o) s = execVsilu o s := rfl
@[simp] theorem exec_vcvt (o : VecOps) (s : State) : exec (.vcvt o) s = execVcvt o s := rfl
@[simp] theorem exec_vset (o : VecOps) (s : State) : exec (.vset o) s = execVset o s := rfl
@[simp] theorem exec_vcpy (o : VecOps) (s : State) : exec (.vcpy o) s = execVcpy o s := rfl
@[simp] theorem exec_viota (o : VecOps) (s : State) : exec (.viota o) s = execViota o s := rfl
@[simp] theorem exec_vsel (o : VecOps) (s : State) : exec (.vsel o) s = execVsel o s := rfl
@[simp] theorem exec_vcmp (o : VecOps) (s : State) : exec (.vcmp o) s = execVcmp o s := rfl
@[simp] theorem exec_vscl (o : VecOps) (s : State) : exec (.vscl o) s = execVscl o s := rfl
@[simp] theorem exec_vsum (ty : ETy) (rd ra : Reg) (s : State) : exec (.vsum ty rd ra) s = execVsum ty rd ra s := rfl
@[simp] theorem exec_vssq (ty : ETy) (rd ra : Reg) (s : State) : exec (.vssq ty rd ra) s = execVssq ty rd ra s := rfl
@[simp] theorem exec_vamax (ty : ETy) (rd ra : Reg) (s : State) : exec (.vamax ty rd ra) s = execVamax ty rd ra s := rfl
@[simp] theorem exec_vmaxr (ty : ETy) (rd ra : Reg) (s : State) : exec (.vmaxr ty rd ra) s = execVmaxr ty rd ra s := rfl
@[simp] theorem exec_vminr (ty : ETy) (rd ra : Reg) (s : State) : exec (.vminr ty rd ra) s = execVminr ty rd ra s := rfl
@[simp] theorem exec_vdot (ty : ETy) (rd ra rb : Reg) (s : State) : exec (.vdot ty rd ra rb) s = execVdot ty rd ra rb s := rfl
@[simp] theorem exec_vgath (o : GatOps) (s : State) : exec (.vgath o) s = execVgath o s := rfl
@[simp] theorem exec_vscat (o : GatOps) (s : State) : exec (.vscat o) s = execVscat o s := rfl
@[simp] theorem exec_vscadd (rm : Fin 4) (o : GatOps) (s : State) : exec (.vscadd rm o) s = execVscadd rm o s := rfl
@[simp] theorem exec_cpy (t : Fin 32) (ra rb : Reg) (z : Bool) (s : State) : exec (.cpy t ra rb z) s = execCpy t ra rb z s := rfl
@[simp] theorem exec_cpys (t : Fin 32) (ra rb : Reg) (z : Bool) (s : State) : exec (.cpys t ra rb z) s = execCpys t ra rb z s := rfl
@[simp] theorem exec_cpyx (t : Fin 32) (ra rb : Reg) (z : Bool) (s : State) : exec (.cpyx t ra rb z) s = execCpyx t ra rb z s := rfl
@[simp] theorem exec_accz (h : BitVec 7) (n1 : Fin 16) (s : State) : exec (.accz h n1) s = execAccz h n1 s := rfl
@[simp] theorem exec_accld (h : BitVec 7) (n1 : Fin 16) (ty : ETy) (ra rb : Reg) (s : State) : exec (.accld h n1 ty ra rb) s = execAccld h n1 ty ra rb s := rfl
@[simp] theorem exec_accst (h : BitVec 7) (n1 : Fin 16) (ty : ETy) (ra rb : Reg) (s : State) : exec (.accst h n1 ty ra rb) s = execAccst h n1 ty ra rb s := rfl
@[simp] theorem exec_accpin (qd : Pred) (h : BitVec 7) (n1 : Fin 16) (ra rb : Reg) (s : State) : exec (.accpin qd h n1 ra rb) s = execAccpin qd h n1 ra rb s := rfl
@[simp] theorem exec_accatt (qd : Pred) (h : BitVec 7) (n1 : Fin 16) (ra : Reg) (s : State) : exec (.accatt qd h n1 ra) s = execAccatt qd h n1 ra s := rfl
@[simp] theorem exec_accrel (h : BitVec 7) (n1 : Fin 16) (s : State) : exec (.accrel h n1) s = execAccrel h n1 s := rfl
@[simp] theorem exec_accspl (h : BitVec 7) (n1 : Fin 16) (s : State) : exec (.accspl h n1) s = execAccspl h n1 s := rfl
@[simp] theorem exec_accsta (rd : Reg) (h : BitVec 7) (clr : Bool) (s : State) : exec (.accsta rd h clr) s = execAccsta rd h clr s := rfl
@[simp] theorem exec_mma (o : MmaOps) (s : State) : exec (.mma o) s = execMma o s := rfl
@[simp] theorem exec_mmag (o : MmaOps) (rc : Reg) (s : State) : exec (.mmag o rc) s = execMmag o rc s := rfl
@[simp] theorem exec_tld (w : Bool) (ra rb : Reg) (pitch : BitVec 16) (s : State) : exec (.tld w ra rb pitch) s = execTld w ra rb pitch s := rfl
@[simp] theorem exec_delta (h : BitVec 7) (ra : Reg) (s : State) : exec (.delta h ra) s = execDelta h ra s := rfl
@[simp] theorem exec_dread (h : BitVec 7) (ra : Reg) (s : State) : exec (.dread h ra) s = execDread h ra s := rfl
@[simp] theorem exec_dscl (h : BitVec 7) (ra rb : Reg) (s : State) : exec (.dscl h ra rb) s = execDscl h ra rb s := rfl
@[simp] theorem exec_bopen (rd : Reg) (h : BitVec 7) (n1 : Fin 16) (want : BitVec 5) (ra rb : Reg) (s : State) : exec (.bopen rd h n1 want ra rb) s = execBopen rd h n1 want ra rb s := rfl
@[simp] theorem exec_bsend (rs ra rb : Reg) (n1 : Fin 16) (s : State) : exec (.bsend rs ra rb n1) s = execBsend rs ra rb n1 s := rfl
@[simp] theorem exec_bwait (rd : Reg) (s : State) : exec (.bwait rd) s = execBwait rd s := rfl
@[simp] theorem exec_bnorm (rd : Reg) (h : BitVec 7) (s : State) : exec (.bnorm rd h) s = execBnorm rd h s := rfl
@[simp] theorem exec_bseal (rd : Reg) (h : BitVec 7) (s : State) : exec (.bseal rd h) s = execBseal rd h s := rfl
@[simp] theorem exec_babsent (ra : Reg) (s : State) : exec (.babsent ra) s = execBabsent ra s := rfl
@[simp] theorem exec_bclose (rd : Reg) (s : State) : exec (.bclose rd) s = execBclose rd s := rfl
@[simp] theorem exec_bstat (rd : Reg) (dw : Fin 4) (s : State) : exec (.bstat rd dw) s = execBstat rd dw s := rfl
@[simp] theorem exec_colld (rd ra rb : Reg) (s : State) : exec (.colld rd ra rb) s = execColld rd ra rb s := rfl
@[simp] theorem exec_colrun (rd ra rb : Reg) (s : State) : exec (.colrun rd ra rb) s = execColrun rd ra rb s := rfl
@[simp] theorem exec_colwait (rd : Reg) (s : State) : exec (.colwait rd) s = execColwait rd s := rfl
@[simp] theorem exec_colabt (s : State) : exec .colabt s = execColabt s := rfl
@[simp] theorem exec_red (rd ra rb : Reg) (op : BitVec 3) (ty : BitVec 4) (s : State) : exec (.red rd ra rb op ty) s = execRed rd ra rb op ty s := rfl
@[simp] theorem exec_redg (rd ra : Reg) (qd : Pred) (s : State) : exec (.redg rd ra qd) s = execRedg rd ra qd s := rfl
@[simp] theorem exec_colst (rd : Reg) (s : State) : exec (.colst rd) s = execColst rd s := rfl
@[simp] theorem exec_boot (s : State) : exec .boot s = execBoot s := rfl
@[simp] theorem exec_bootReady (s : State) : exec .bootReady s = execBootReady s := rfl
@[simp] theorem exec_controlInterval (s : State) : exec .controlInterval s = execControlInterval s := rfl
@[simp] theorem exec_operatingPointSettled (s : State) : exec .operatingPointSettled s = execOperatingPointSettled s := rfl
@[simp] theorem exec_thermalThrottle (s : State) : exec .thermalThrottle s = execThermalThrottle s := rfl
@[simp] theorem exec_throttleRelease (s : State) : exec .throttleRelease s = execThrottleRelease s := rfl
@[simp] theorem exec_emergencySave (s : State) : exec .emergencySave s = execEmergencySave s := rfl
@[simp] theorem exec_hardTrip (s : State) : exec .hardTrip s = execHardTrip s := rfl
@[simp] theorem exec_currentLimitTrip (s : State) : exec .currentLimitTrip s = execCurrentLimitTrip s := rfl
@[simp] theorem exec_maskChange (s : State) : exec .maskChange s = execMaskChange s := rfl
@[simp] theorem exec_residencyStep (s : State) : exec .residencyStep s = execResidencyStep s := rfl
@[simp] theorem exec_telemetrySample (s : State) : exec .telemetrySample s = execTelemetrySample s := rfl
@[simp] theorem exec_hostInboundRead (s : State) : exec .hostInboundRead s = execHostInboundRead s := rfl
@[simp] theorem exec_hostInboundWrite (s : State) : exec .hostInboundWrite s = execHostInboundWrite s := rfl
@[simp] theorem exec_dmaWindowWrite (s : State) : exec .dmaWindowWrite s = execDmaWindowWrite s := rfl
@[simp] theorem exec_peerTableWrite (s : State) : exec .peerTableWrite s = execPeerTableWrite s := rfl
@[simp] theorem exec_firmwareTableWrite (s : State) : exec .firmwareTableWrite s = execFirmwareTableWrite s := rfl
@[simp] theorem exec_configWrite (s : State) : exec .configWrite s = execConfigWrite s := rfl
@[simp] theorem exec_queueMap (s : State) : exec .queueMap s = execQueueMap s := rfl
@[simp] theorem exec_queueUnmap (s : State) : exec .queueUnmap s = execQueueUnmap s := rfl
@[simp] theorem exec_watchedLineInvalidate (s : State) : exec .watchedLineInvalidate s = execWatchedLineInvalidate s := rfl
@[simp] theorem exec_watchedLineReread (s : State) : exec .watchedLineReread s = execWatchedLineReread s := rfl
@[simp] theorem exec_spanProbe (s : State) : exec .spanProbe s = execSpanProbe s := rfl
@[simp] theorem exec_spanPortDown (s : State) : exec .spanPortDown s = execSpanPortDown s := rfl
@[simp] theorem exec_spanLaneFail (s : State) : exec .spanLaneFail s = execSpanLaneFail s := rfl
@[simp] theorem exec_spanCopyDataReceive (s : State) : exec .spanCopyDataReceive s = execSpanCopyDataReceive s := rfl
@[simp] theorem exec_spanCopyAckReceive (s : State) : exec .spanCopyAckReceive s = execSpanCopyAckReceive s := rfl
@[simp] theorem exec_spanChunkReceive (s : State) : exec .spanChunkReceive s = execSpanChunkReceive s := rfl
@[simp] theorem exec_spanRoundAbortReceive (s : State) : exec .spanRoundAbortReceive s = execSpanRoundAbortReceive s := rfl
@[simp] theorem exec_spanProbeReceive (s : State) : exec .spanProbeReceive s = execSpanProbeReceive s := rfl
@[simp] theorem exec_spanCopyTimeout (s : State) : exec .spanCopyTimeout s = execSpanCopyTimeout s := rfl
@[simp] theorem exec_queueWake (s : State) : exec .queueWake s = execQueueWake s := rfl
@[simp] theorem exec_commandAccept (s : State) : exec .commandAccept s = execCommandAccept s := rfl
@[simp] theorem exec_lockstepMismatch (s : State) : exec .lockstepMismatch s = execLockstepMismatch s := rfl
@[simp] theorem exec_workerError (s : State) : exec .workerError s = execWorkerError s := rfl
@[simp] theorem exec_commandComplete (s : State) : exec .commandComplete s = execCommandComplete s := rfl
@[simp] theorem exec_launch (s : State) : exec .launch s = execLaunch s := rfl
@[simp] theorem exec_copy (s : State) : exec .copy s = execCopy s := rfl
@[simp] theorem exec_tasks (s : State) : exec .tasks s = execTasks s := rfl
@[simp] theorem exec_tasksAppend (s : State) : exec .tasksAppend s = execTasksAppend s := rfl
@[simp] theorem exec_signal (s : State) : exec .signal s = execSignal s := rfl
@[simp] theorem exec_wait (s : State) : exec .wait s = execWait s := rfl
@[simp] theorem exec_waitPoll (s : State) : exec .waitPoll s = execWaitPoll s := rfl
@[simp] theorem exec_waitLimit (s : State) : exec .waitLimit s = execWaitLimit s := rfl
@[simp] theorem exec_partitionCreate (s : State) : exec .partitionCreate s = execPartitionCreate s := rfl
@[simp] theorem exec_partitionTeardown (s : State) : exec .partitionTeardown s = execPartitionTeardown s := rfl
@[simp] theorem exec_partitionSuspend (s : State) : exec .partitionSuspend s = execPartitionSuspend s := rfl
@[simp] theorem exec_partitionResume (s : State) : exec .partitionResume s = execPartitionResume s := rfl
@[simp] theorem exec_status (s : State) : exec .status s = execStatus s := rfl
@[simp] theorem exec_statusAttest (s : State) : exec .statusAttest s = execStatusAttest s := rfl
@[simp] theorem exec_population (s : State) : exec .population s = execPopulation s := rfl
@[simp] theorem exec_launchEnd (s : State) : exec .launchEnd s = execLaunchEnd s := rfl
@[simp] theorem exec_launchTimeLimit (s : State) : exec .launchTimeLimit s = execLaunchTimeLimit s := rfl
@[simp] theorem exec_packetGrant (s : State) : exec .packetGrant s = execPacketGrant s := rfl
@[simp] theorem exec_packetRetire (s : State) : exec .packetRetire s = execPacketRetire s := rfl
@[simp] theorem exec_qpostRequest (s : State) : exec .qpostRequest s = execQpostRequest s := rfl
@[simp] theorem exec_linkResend (s : State) : exec .linkResend s = execLinkResend s := rfl
@[simp] theorem exec_rebindTableWrite (s : State) : exec .rebindTableWrite s = execRebindTableWrite s := rfl
@[simp] theorem exec_groupRequest (s : State) : exec .groupRequest s = execGroupRequest s := rfl
@[simp] theorem exec_barrierClusterArrival (s : State) : exec .barrierClusterArrival s = execBarrierClusterArrival s := rfl
@[simp] theorem exec_barrierDeparture (s : State) : exec .barrierDeparture s = execBarrierDeparture s := rfl
@[simp] theorem exec_reductionContribution (s : State) : exec .reductionContribution s = execReductionContribution s := rfl
@[simp] theorem exec_redlimitExpire (s : State) : exec .redlimitExpire s = execRedlimitExpire s := rfl
@[simp] theorem exec_reductionPartial (s : State) : exec .reductionPartial s = execReductionPartial s := rfl
@[simp] theorem exec_reductionResult (s : State) : exec .reductionResult s = execReductionResult s := rfl
@[simp] theorem exec_messageDelivery (s : State) : exec .messageDelivery s = execMessageDelivery s := rfl
@[simp] theorem exec_messageAcceptance (s : State) : exec .messageAcceptance s = execMessageAcceptance s := rfl
@[simp] theorem exec_messageBounce (s : State) : exec .messageBounce s = execMessageBounce s := rfl
@[simp] theorem exec_messageReinject (s : State) : exec .messageReinject s = execMessageReinject s := rfl
@[simp] theorem exec_errorDetect (s : State) : exec .errorDetect s = execErrorDetect s := rfl
@[simp] theorem exec_correctedError (s : State) : exec .correctedError s = execCorrectedError s := rfl
@[simp] theorem exec_cellarPoison (s : State) : exec .cellarPoison s = execCellarPoison s := rfl
@[simp] theorem exec_powerLoss (s : State) : exec .powerLoss s = execPowerLoss s := rfl
@[simp] theorem exec_watchdogFire (s : State) : exec .watchdogFire s = execWatchdogFire s := rfl
@[simp] theorem exec_ivlenExpire (s : State) : exec .ivlenExpire s = execIvlenExpire s := rfl
@[simp] theorem exec_deferredBoundary (s : State) : exec .deferredBoundary s = execDeferredBoundary s := rfl
@[simp] theorem exec_captureEntryFree (s : State) : exec .captureEntryFree s = execCaptureEntryFree s := rfl
@[simp] theorem exec_mirrorLineReceive (s : State) : exec .mirrorLineReceive s = execMirrorLineReceive s := rfl
@[simp] theorem exec_commitMarkerReceive (s : State) : exec .commitMarkerReceive s = execCommitMarkerReceive s := rfl
@[simp] theorem exec_boundaryCommit (s : State) : exec .boundaryCommit s = execBoundaryCommit s := rfl
@[simp] theorem exec_logAreaFull (s : State) : exec .logAreaFull s = execLogAreaFull s := rfl
@[simp] theorem exec_recovery (s : State) : exec .recovery s = execRecovery s := rfl
@[simp] theorem exec_rebindWave (s : State) : exec .rebindWave s = execRebindWave s := rfl
@[simp] theorem exec_rebindWaveComplete (s : State) : exec .rebindWaveComplete s = execRebindWaveComplete s := rfl
@[simp] theorem exec_replay (s : State) : exec .replay s = execReplay s := rfl
@[simp] theorem exec_recoveryRelease (s : State) : exec .recoveryRelease s = execRecoveryRelease s := rfl
@[simp] theorem exec_heldPacketDelivery (s : State) : exec .heldPacketDelivery s = execHeldPacketDelivery s := rfl
@[simp] theorem exec_stateLoss (s : State) : exec .stateLoss s = execStateLoss s := rfl
@[simp] theorem exec_plannedMigration (s : State) : exec .plannedMigration s = execPlannedMigration s := rfl
@[simp] theorem exec_incidentCapture (s : State) : exec .incidentCapture s = execIncidentCapture s := rfl
@[simp] theorem exec_incidentReplay (s : State) : exec .incidentReplay s = execIncidentReplay s := rfl
@[simp] theorem exec_gangPreempt (s : State) : exec .gangPreempt s = execGangPreempt s := rfl
@[simp] theorem exec_preemptSaveDone (s : State) : exec .preemptSaveDone s = execPreemptSaveDone s := rfl
@[simp] theorem exec_restore (s : State) : exec .restore s = execRestore s := rfl
@[simp] theorem exec_timeSliceExpire (s : State) : exec .timeSliceExpire s = execTimeSliceExpire s := rfl
@[simp] theorem exec_coldeferExpire (s : State) : exec .coldeferExpire s = execColdeferExpire s := rfl
@[simp] theorem exec_migrantArrival (s : State) : exec .migrantArrival s = execMigrantArrival s := rfl
@[simp] theorem exec_migback (s : State) : exec .migback s = execMigback s := rfl
@[simp] theorem exec_migbackResend (s : State) : exec .migbackResend s = execMigbackResend s := rfl
@[simp] theorem exec_locationNotice (s : State) : exec .locationNotice s = execLocationNotice s := rfl
@[simp] theorem exec_rfillDelivery (s : State) : exec .rfillDelivery s = execRfillDelivery s := rfl
@[simp] theorem exec_exitNotice (s : State) : exec .exitNotice s = execExitNotice s := rfl
@[simp] theorem exec_remoteAccess (s : State) : exec .remoteAccess s = execRemoteAccess s := rfl
@[simp] theorem exec_portBounceRepresent (s : State) : exec .portBounceRepresent s = execPortBounceRepresent s := rfl
@[simp] theorem exec_accessReply (s : State) : exec .accessReply s = execAccessReply s := rfl
@[simp] theorem exec_loadReply (s : State) : exec .loadReply s = execLoadReply s := rfl
@[simp] theorem exec_postedStorePerform (s : State) : exec .postedStorePerform s = execPostedStorePerform s := rfl
@[simp] theorem exec_translationWalk (s : State) : exec .translationWalk s = execTranslationWalk s := rfl
@[simp] theorem exec_feWake (s : State) : exec .feWake s = execFeWake s := rfl
@[simp] theorem exec_feRefusalRepresent (s : State) : exec .feRefusalRepresent s = execFeRefusalRepresent s := rfl
@[simp] theorem exec_feTimeout (s : State) : exec .feTimeout s = execFeTimeout s := rfl
@[simp] theorem exec_rangeLockRequest (s : State) : exec .rangeLockRequest s = execRangeLockRequest s := rfl
@[simp] theorem exec_rangeLockRepresent (s : State) : exec .rangeLockRepresent s = execRangeLockRepresent s := rfl
@[simp] theorem exec_engineOpStart (s : State) : exec .engineOpStart s = execEngineOpStart s := rfl
@[simp] theorem exec_engineOpComplete (s : State) : exec .engineOpComplete s = execEngineOpComplete s := rfl
@[simp] theorem exec_copyComplete (s : State) : exec .copyComplete s = execCopyComplete s := rfl
@[simp] theorem exec_icacheFill (s : State) : exec .icacheFill s = execIcacheFill s := rfl
@[simp] theorem exec_bindRequest (s : State) : exec .bindRequest s = execBindRequest s := rfl
@[simp] theorem exec_mergeData (s : State) : exec .mergeData s = execMergeData s := rfl
@[simp] theorem exec_mergeMarker (s : State) : exec .mergeMarker s = execMergeMarker s := rfl
@[simp] theorem exec_mergeCommit (s : State) : exec .mergeCommit s = execMergeCommit s := rfl
@[simp] theorem exec_bwaitTimeout (s : State) : exec .bwaitTimeout s = execBwaitTimeout s := rfl
@[simp] theorem exec_bcloseTimeout (s : State) : exec .bcloseTimeout s = execBcloseTimeout s := rfl
@[simp] theorem exec_chunkArrival (s : State) : exec .chunkArrival s = execChunkArrival s := rfl
@[simp] theorem exec_chunkAck (s : State) : exec .chunkAck s = execChunkAck s := rfl
@[simp] theorem exec_chunkResend (s : State) : exec .chunkResend s = execChunkResend s := rfl
@[simp] theorem exec_roundTimeout (s : State) : exec .roundTimeout s = execRoundTimeout s := rfl
@[simp] theorem exec_roundAbort (s : State) : exec .roundAbort s = execRoundAbort s := rfl
@[simp] theorem exec_colrunHoldEnd (s : State) : exec .colrunHoldEnd s = execColrunHoldEnd s := rfl
@[simp] theorem exec_firmwareRegisterWrite (s : State) : exec .firmwareRegisterWrite s = execFirmwareRegisterWrite s := rfl
@[simp] theorem exec_spareChipletPowered (s : State) : exec .spareChipletPowered s = execSpareChipletPowered s := rfl
@[simp] theorem exec_copyDataArrival (s : State) : exec .copyDataArrival s = execCopyDataArrival s := rfl
@[simp] theorem exec_bindRequestRetry (s : State) : exec .bindRequestRetry s = execBindRequestRetry s := rfl

end Sys2Proof.Machine
end

