-- ==== Sys2Proof/Laws/State.lean ====
section
/-!
SUPPORT. What each small update of the state leaves alone and what it sets: one lemma per field, so that no proof unfolds a
record update; tables and slots read back what was put; the spec lemmas of reading registers, of completing and of parking.
-/
namespace Sys2Proof.Machine
set_option Elab.async false

/-! ### Tables -/

@[simp] theorem Table.get?_set_self {α : Type} (t : Table α) (k : Nat) (v : α) : (Table.set t k v).get? k = some v := by
  induction t with
  | nil => simp [Table.set, Table.get?]
  | cons c t ih =>
    unfold Table.set
    split
    · simp [Table.get?]
    · split
      · simp [Table.get?]
      · rename_i h; simp [Table.get?, h, ih]

theorem Table.get?_set_ne {α : Type} (t : Table α) {k j : Nat} (v : α) (h : j ≠ k) :
    (Table.set t k v).get? j = t.get? j := by
  induction t with
  | nil => simp [Table.set, Table.get?, h.symm]
  | cons c t ih =>
    unfold Table.set
    split
    · simp [Table.get?, h.symm]
    · split
      · rename_i hc; simp [Table.get?, hc, h.symm]
      · simp [Table.get?, ih]


/-! ### State: what an update leaves alone -/

@[simp] theorem State.setTile_now (s : State) (k : TileId) (t : Tile) : (s.setTile k t).now = s.now := rfl
@[simp] theorem State.setTile_free (s : State) (k : TileId) (t : Tile) : (s.setTile k t).free = s.free := rfl
@[simp] theorem State.setTile_tok (s : State) (k : TileId) (t : Tile) : (s.setTile k t).tok = s.tok := rfl
@[simp] theorem State.setTile_agenda (s : State) (k : TileId) (t : Tile) : (s.setTile k t).agenda = s.agenda := rfl
@[simp] theorem State.setTile_input (s : State) (k : TileId) (t : Tile) : (s.setTile k t).input = s.input := rfl
@[simp] theorem State.setTile_cur (s : State) (k : TileId) (t : Tile) : (s.setTile k t).cur = s.cur := rfl
@[simp] theorem State.setTile_turns (s : State) (k : TileId) (t : Tile) : (s.setTile k t).turns = s.turns := rfl
@[simp] theorem State.setTile_cellar (s : State) (k : TileId) (t : Tile) : (s.setTile k t).cellar = s.cellar := rfl
@[simp] theorem State.setTile_host (s : State) (k : TileId) (t : Tile) : (s.setTile k t).host = s.host := rfl
@[simp] theorem State.setTile_clusters (s : State) (k : TileId) (t : Tile) : (s.setTile k t).clusters = s.clusters := rfl
@[simp] theorem State.setTile_chiplets (s : State) (k : TileId) (t : Tile) : (s.setTile k t).chiplets = s.chiplets := rfl
@[simp] theorem State.setTile_dev (s : State) (k : TileId) (t : Tile) : (s.setTile k t).dev = s.dev := rfl
@[simp] theorem State.setTile_chans (s : State) (k : TileId) (t : Tile) : (s.setTile k t).chans = s.chans := rfl
@[simp] theorem State.setCtx_now (s : State) (k : TileId) (c : TileCtx) : (s.setCtx k c).now = s.now := rfl
@[simp] theorem State.setCtx_free (s : State) (k : TileId) (c : TileCtx) : (s.setCtx k c).free = s.free := rfl
@[simp] theorem State.setCtx_tok (s : State) (k : TileId) (c : TileCtx) : (s.setCtx k c).tok = s.tok := rfl
@[simp] theorem State.setCtx_agenda (s : State) (k : TileId) (c : TileCtx) : (s.setCtx k c).agenda = s.agenda := rfl
@[simp] theorem State.setCtx_input (s : State) (k : TileId) (c : TileCtx) : (s.setCtx k c).input = s.input := rfl
@[simp] theorem State.setCtx_cur (s : State) (k : TileId) (c : TileCtx) : (s.setCtx k c).cur = s.cur := rfl
@[simp] theorem State.setCtx_turns (s : State) (k : TileId) (c : TileCtx) : (s.setCtx k c).turns = s.turns := rfl
@[simp] theorem State.setCtx_cellar (s : State) (k : TileId) (c : TileCtx) : (s.setCtx k c).cellar = s.cellar := rfl
@[simp] theorem State.setCtx_host (s : State) (k : TileId) (c : TileCtx) : (s.setCtx k c).host = s.host := rfl
@[simp] theorem State.setCtx_clusters (s : State) (k : TileId) (c : TileCtx) : (s.setCtx k c).clusters = s.clusters := rfl
@[simp] theorem State.setCtx_chiplets (s : State) (k : TileId) (c : TileCtx) : (s.setCtx k c).chiplets = s.chiplets := rfl
@[simp] theorem State.setCtx_dev (s : State) (k : TileId) (c : TileCtx) : (s.setCtx k c).dev = s.dev := rfl
@[simp] theorem State.setCtx_chans (s : State) (k : TileId) (c : TileCtx) : (s.setCtx k c).chans = s.chans := rfl
@[simp] theorem State.setRouter_now (s : State) (k : TileId) (r : Router) : (s.setRouter k r).now = s.now := rfl
@[simp] theorem State.setRouter_free (s : State) (k : TileId) (r : Router) : (s.setRouter k r).free = s.free := rfl
@[simp] theorem State.setRouter_tok (s : State) (k : TileId) (r : Router) : (s.setRouter k r).tok = s.tok := rfl
@[simp] theorem State.setRouter_agenda (s : State) (k : TileId) (r : Router) : (s.setRouter k r).agenda = s.agenda := rfl
@[simp] theorem State.setRouter_input (s : State) (k : TileId) (r : Router) : (s.setRouter k r).input = s.input := rfl
@[simp] theorem State.setRouter_cur (s : State) (k : TileId) (r : Router) : (s.setRouter k r).cur = s.cur := rfl
@[simp] theorem State.setRouter_turns (s : State) (k : TileId) (r : Router) : (s.setRouter k r).turns = s.turns := rfl
@[simp] theorem State.setRouter_cellar (s : State) (k : TileId) (r : Router) : (s.setRouter k r).cellar = s.cellar := rfl
@[simp] theorem State.setRouter_host (s : State) (k : TileId) (r : Router) : (s.setRouter k r).host = s.host := rfl
@[simp] theorem State.setRouter_clusters (s : State) (k : TileId) (r : Router) : (s.setRouter k r).clusters = s.clusters := rfl
@[simp] theorem State.setRouter_chiplets (s : State) (k : TileId) (r : Router) : (s.setRouter k r).chiplets = s.chiplets := rfl
@[simp] theorem State.setRouter_dev (s : State) (k : TileId) (r : Router) : (s.setRouter k r).dev = s.dev := rfl
@[simp] theorem State.setRouter_chans (s : State) (k : TileId) (r : Router) : (s.setRouter k r).chans = s.chans := rfl
@[simp] theorem State.setThr_now (s : State) (k : TileId) (j : Fin 16) (th : Thread) : (s.setThr k j th).now = s.now := rfl
@[simp] theorem State.setThr_free (s : State) (k : TileId) (j : Fin 16) (th : Thread) : (s.setThr k j th).free = s.free := rfl
@[simp] theorem State.setThr_tok (s : State) (k : TileId) (j : Fin 16) (th : Thread) : (s.setThr k j th).tok = s.tok := rfl
@[simp] theorem State.setThr_agenda (s : State) (k : TileId) (j : Fin 16) (th : Thread) : (s.setThr k j th).agenda = s.agenda := rfl
@[simp] theorem State.setThr_input (s : State) (k : TileId) (j : Fin 16) (th : Thread) : (s.setThr k j th).input = s.input := rfl
@[simp] theorem State.setThr_cur (s : State) (k : TileId) (j : Fin 16) (th : Thread) : (s.setThr k j th).cur = s.cur := rfl
@[simp] theorem State.setThr_turns (s : State) (k : TileId) (j : Fin 16) (th : Thread) : (s.setThr k j th).turns = s.turns := rfl
@[simp] theorem State.setThr_cellar (s : State) (k : TileId) (j : Fin 16) (th : Thread) : (s.setThr k j th).cellar = s.cellar := rfl
@[simp] theorem State.setThr_host (s : State) (k : TileId) (j : Fin 16) (th : Thread) : (s.setThr k j th).host = s.host := rfl
@[simp] theorem State.setThr_clusters (s : State) (k : TileId) (j : Fin 16) (th : Thread) : (s.setThr k j th).clusters = s.clusters := rfl
@[simp] theorem State.setThr_chiplets (s : State) (k : TileId) (j : Fin 16) (th : Thread) : (s.setThr k j th).chiplets = s.chiplets := rfl
@[simp] theorem State.setThr_dev (s : State) (k : TileId) (j : Fin 16) (th : Thread) : (s.setThr k j th).dev = s.dev := rfl
@[simp] theorem State.setThr_chans (s : State) (k : TileId) (j : Fin 16) (th : Thread) : (s.setThr k j th).chans = s.chans := rfl
@[simp] theorem State.setMe_now (s : State) (th : Thread) : (s.setMe th).now = s.now := rfl
@[simp] theorem State.setMe_free (s : State) (th : Thread) : (s.setMe th).free = s.free := rfl
@[simp] theorem State.setMe_tok (s : State) (th : Thread) : (s.setMe th).tok = s.tok := rfl
@[simp] theorem State.setMe_agenda (s : State) (th : Thread) : (s.setMe th).agenda = s.agenda := rfl
@[simp] theorem State.setMe_input (s : State) (th : Thread) : (s.setMe th).input = s.input := rfl
@[simp] theorem State.setMe_cur (s : State) (th : Thread) : (s.setMe th).cur = s.cur := rfl
@[simp] theorem State.setMe_turns (s : State) (th : Thread) : (s.setMe th).turns = s.turns := rfl
@[simp] theorem State.setMe_cellar (s : State) (th : Thread) : (s.setMe th).cellar = s.cellar := rfl
@[simp] theorem State.setMe_host (s : State) (th : Thread) : (s.setMe th).host = s.host := rfl
@[simp] theorem State.setMe_clusters (s : State) (th : Thread) : (s.setMe th).clusters = s.clusters := rfl
@[simp] theorem State.setMe_chiplets (s : State) (th : Thread) : (s.setMe th).chiplets = s.chiplets := rfl
@[simp] theorem State.setMe_dev (s : State) (th : Thread) : (s.setMe th).dev = s.dev := rfl
@[simp] theorem State.setMe_chans (s : State) (th : Thread) : (s.setMe th).chans = s.chans := rfl
@[simp] theorem State.setCluster_now (s : State) (k : Nat) (c : Cluster) : (s.setCluster k c).now = s.now := rfl
@[simp] theorem State.setCluster_free (s : State) (k : Nat) (c : Cluster) : (s.setCluster k c).free = s.free := rfl
@[simp] theorem State.setCluster_tok (s : State) (k : Nat) (c : Cluster) : (s.setCluster k c).tok = s.tok := rfl
@[simp] theorem State.setCluster_agenda (s : State) (k : Nat) (c : Cluster) : (s.setCluster k c).agenda = s.agenda := rfl
@[simp] theorem State.setCluster_input (s : State) (k : Nat) (c : Cluster) : (s.setCluster k c).input = s.input := rfl
@[simp] theorem State.setCluster_cur (s : State) (k : Nat) (c : Cluster) : (s.setCluster k c).cur = s.cur := rfl
@[simp] theorem State.setCluster_turns (s : State) (k : Nat) (c : Cluster) : (s.setCluster k c).turns = s.turns := rfl
@[simp] theorem State.setCluster_cellar (s : State) (k : Nat) (c : Cluster) : (s.setCluster k c).cellar = s.cellar := rfl
@[simp] theorem State.setCluster_host (s : State) (k : Nat) (c : Cluster) : (s.setCluster k c).host = s.host := rfl
@[simp] theorem State.setCluster_tiles (s : State) (k : Nat) (c : Cluster) : (s.setCluster k c).tiles = s.tiles := rfl
@[simp] theorem State.setCluster_chiplets (s : State) (k : Nat) (c : Cluster) : (s.setCluster k c).chiplets = s.chiplets := rfl
@[simp] theorem State.setCluster_dev (s : State) (k : Nat) (c : Cluster) : (s.setCluster k c).dev = s.dev := rfl
@[simp] theorem State.setCluster_chans (s : State) (k : Nat) (c : Cluster) : (s.setCluster k c).chans = s.chans := rfl
@[simp] theorem State.after_now (s : State) (n : Nat) (ev : Instr) (arg : Payload) : (s.after n ev arg).now = s.now := rfl
@[simp] theorem State.after_free (s : State) (n : Nat) (ev : Instr) (arg : Payload) : (s.after n ev arg).free = s.free := rfl
@[simp] theorem State.after_tok (s : State) (n : Nat) (ev : Instr) (arg : Payload) : (s.after n ev arg).tok = s.tok := rfl
@[simp] theorem State.after_input (s : State) (n : Nat) (ev : Instr) (arg : Payload) : (s.after n ev arg).input = s.input := rfl
@[simp] theorem State.after_cur (s : State) (n : Nat) (ev : Instr) (arg : Payload) : (s.after n ev arg).cur = s.cur := rfl
@[simp] theorem State.after_turns (s : State) (n : Nat) (ev : Instr) (arg : Payload) : (s.after n ev arg).turns = s.turns := rfl
@[simp] theorem State.after_cellar (s : State) (n : Nat) (ev : Instr) (arg : Payload) : (s.after n ev arg).cellar = s.cellar := rfl
@[simp] theorem State.after_host (s : State) (n : Nat) (ev : Instr) (arg : Payload) : (s.after n ev arg).host = s.host := rfl
@[simp] theorem State.after_tiles (s : State) (n : Nat) (ev : Instr) (arg : Payload) : (s.after n ev arg).tiles = s.tiles := rfl
@[simp] theorem State.after_clusters (s : State) (n : Nat) (ev : Instr) (arg : Payload) : (s.after n ev arg).clusters = s.clusters := rfl
@[simp] theorem State.after_chiplets (s : State) (n : Nat) (ev : Instr) (arg : Payload) : (s.after n ev arg).chiplets = s.chiplets := rfl
@[simp] theorem State.after_dev (s : State) (n : Nat) (ev : Instr) (arg : Payload) : (s.after n ev arg).dev = s.dev := rfl
@[simp] theorem State.after_chans (s : State) (n : Nat) (ev : Instr) (arg : Payload) : (s.after n ev arg).chans = s.chans := rfl
@[simp] theorem State.draw_now (s : State) : (s.draw).now = s.now := rfl
@[simp] theorem State.draw_tok (s : State) : (s.draw).tok = s.tok := rfl
@[simp] theorem State.draw_agenda (s : State) : (s.draw).agenda = s.agenda := rfl
@[simp] theorem State.draw_input (s : State) : (s.draw).input = s.input := rfl
@[simp] theorem State.draw_cur (s : State) : (s.draw).cur = s.cur := rfl
@[simp] theorem State.draw_turns (s : State) : (s.draw).turns = s.turns := rfl
@[simp] theorem State.draw_cellar (s : State) : (s.draw).cellar = s.cellar := rfl
@[simp] theorem State.draw_host (s : State) : (s.draw).host = s.host := rfl
@[simp] theorem State.draw_tiles (s : State) : (s.draw).tiles = s.tiles := rfl
@[simp] theorem State.draw_clusters (s : State) : (s.draw).clusters = s.clusters := rfl
@[simp] theorem State.draw_chiplets (s : State) : (s.draw).chiplets = s.chiplets := rfl
@[simp] theorem State.draw_dev (s : State) : (s.draw).dev = s.dev := rfl
@[simp] theorem State.draw_chans (s : State) : (s.draw).chans = s.chans := rfl
@[simp] theorem State.park_now (s : State) (th : Thread) (w : ParkWhy) : (s.park th w).now = s.now := rfl
@[simp] theorem State.park_free (s : State) (th : Thread) (w : ParkWhy) : (s.park th w).free = s.free := rfl
@[simp] theorem State.park_tok (s : State) (th : Thread) (w : ParkWhy) : (s.park th w).tok = s.tok := rfl
@[simp] theorem State.park_agenda (s : State) (th : Thread) (w : ParkWhy) : (s.park th w).agenda = s.agenda := rfl
@[simp] theorem State.park_input (s : State) (th : Thread) (w : ParkWhy) : (s.park th w).input = s.input := rfl
@[simp] theorem State.park_cur (s : State) (th : Thread) (w : ParkWhy) : (s.park th w).cur = s.cur := rfl
@[simp] theorem State.park_turns (s : State) (th : Thread) (w : ParkWhy) : (s.park th w).turns = s.turns := rfl
@[simp] theorem State.park_cellar (s : State) (th : Thread) (w : ParkWhy) : (s.park th w).cellar = s.cellar := rfl
@[simp] theorem State.park_host (s : State) (th : Thread) (w : ParkWhy) : (s.park th w).host = s.host := rfl
@[simp] theorem State.park_clusters (s : State) (th : Thread) (w : ParkWhy) : (s.park th w).clusters = s.clusters := rfl
@[simp] theorem State.park_chiplets (s : State) (th : Thread) (w : ParkWhy) : (s.park th w).chiplets = s.chiplets := rfl
@[simp] theorem State.park_dev (s : State) (th : Thread) (w : ParkWhy) : (s.park th w).dev = s.dev := rfl
@[simp] theorem State.park_chans (s : State) (th : Thread) (w : ParkWhy) : (s.park th w).chans = s.chans := rfl
@[simp] theorem State.logRec_now (s : State) (k : TileId) (kind slot len : Nat) (ref : Bool) (ev : Instr) (arg : Payload) (val : Word) : (s.logRec k kind slot len ref ev arg val).now = s.now := by unfold State.logRec; dsimp only; split <;> rfl
@[simp] theorem State.logRec_free (s : State) (k : TileId) (kind slot len : Nat) (ref : Bool) (ev : Instr) (arg : Payload) (val : Word) : (s.logRec k kind slot len ref ev arg val).free = s.free := by unfold State.logRec; dsimp only; split <;> rfl
@[simp] theorem State.logRec_tok (s : State) (k : TileId) (kind slot len : Nat) (ref : Bool) (ev : Instr) (arg : Payload) (val : Word) : (s.logRec k kind slot len ref ev arg val).tok = s.tok := by unfold State.logRec; dsimp only; split <;> rfl
@[simp] theorem State.logRec_agenda (s : State) (k : TileId) (kind slot len : Nat) (ref : Bool) (ev : Instr) (arg : Payload) (val : Word) : (s.logRec k kind slot len ref ev arg val).agenda = s.agenda := by unfold State.logRec; dsimp only; split <;> rfl
@[simp] theorem State.logRec_input (s : State) (k : TileId) (kind slot len : Nat) (ref : Bool) (ev : Instr) (arg : Payload) (val : Word) : (s.logRec k kind slot len ref ev arg val).input = s.input := by unfold State.logRec; dsimp only; split <;> rfl
@[simp] theorem State.logRec_cur (s : State) (k : TileId) (kind slot len : Nat) (ref : Bool) (ev : Instr) (arg : Payload) (val : Word) : (s.logRec k kind slot len ref ev arg val).cur = s.cur := by unfold State.logRec; dsimp only; split <;> rfl
@[simp] theorem State.logRec_turns (s : State) (k : TileId) (kind slot len : Nat) (ref : Bool) (ev : Instr) (arg : Payload) (val : Word) : (s.logRec k kind slot len ref ev arg val).turns = s.turns := by unfold State.logRec; dsimp only; split <;> rfl
@[simp] theorem State.logRec_cellar (s : State) (k : TileId) (kind slot len : Nat) (ref : Bool) (ev : Instr) (arg : Payload) (val : Word) : (s.logRec k kind slot len ref ev arg val).cellar = s.cellar := by unfold State.logRec; dsimp only; split <;> rfl
@[simp] theorem State.logRec_host (s : State) (k : TileId) (kind slot len : Nat) (ref : Bool) (ev : Instr) (arg : Payload) (val : Word) : (s.logRec k kind slot len ref ev arg val).host = s.host := by unfold State.logRec; dsimp only; split <;> rfl
@[simp] theorem State.logRec_clusters (s : State) (k : TileId) (kind slot len : Nat) (ref : Bool) (ev : Instr) (arg : Payload) (val : Word) : (s.logRec k kind slot len ref ev arg val).clusters = s.clusters := by unfold State.logRec; dsimp only; split <;> rfl
@[simp] theorem State.logRec_chiplets (s : State) (k : TileId) (kind slot len : Nat) (ref : Bool) (ev : Instr) (arg : Payload) (val : Word) : (s.logRec k kind slot len ref ev arg val).chiplets = s.chiplets := by unfold State.logRec; dsimp only; split <;> rfl
@[simp] theorem State.logRec_dev (s : State) (k : TileId) (kind slot len : Nat) (ref : Bool) (ev : Instr) (arg : Payload) (val : Word) : (s.logRec k kind slot len ref ev arg val).dev = s.dev := by unfold State.logRec; dsimp only; split <;> rfl
@[simp] theorem State.logRec_chans (s : State) (k : TileId) (kind slot len : Nat) (ref : Bool) (ev : Instr) (arg : Payload) (val : Word) : (s.logRec k kind slot len ref ev arg val).chans = s.chans := by unfold State.logRec; dsimp only; split <;> rfl
@[simp] theorem State.log_now (s : State) (k : TileId) (kind slot len : Nat) (ev : Instr) (arg : Payload) (val : Word) : (s.log k kind slot len ev arg val).now = s.now := by simp [State.log]
@[simp] theorem State.log_free (s : State) (k : TileId) (kind slot len : Nat) (ev : Instr) (arg : Payload) (val : Word) : (s.log k kind slot len ev arg val).free = s.free := by simp [State.log]
@[simp] theorem State.log_tok (s : State) (k : TileId) (kind slot len : Nat) (ev : Instr) (arg : Payload) (val : Word) : (s.log k kind slot len ev arg val).tok = s.tok := by simp [State.log]
@[simp] theorem State.log_agenda (s : State) (k : TileId) (kind slot len : Nat) (ev : Instr) (arg : Payload) (val : Word) : (s.log k kind slot len ev arg val).agenda = s.agenda := by simp [State.log]
@[simp] theorem State.log_input (s : State) (k : TileId) (kind slot len : Nat) (ev : Instr) (arg : Payload) (val : Word) : (s.log k kind slot len ev arg val).input = s.input := by simp [State.log]
@[simp] theorem State.log_cur (s : State) (k : TileId) (kind slot len : Nat) (ev : Instr) (arg : Payload) (val : Word) : (s.log k kind slot len ev arg val).cur = s.cur := by simp [State.log]
@[simp] theorem State.log_turns (s : State) (k : TileId) (kind slot len : Nat) (ev : Instr) (arg : Payload) (val : Word) : (s.log k kind slot len ev arg val).turns = s.turns := by simp [State.log]
@[simp] theorem State.log_cellar (s : State) (k : TileId) (kind slot len : Nat) (ev : Instr) (arg : Payload) (val : Word) : (s.log k kind slot len ev arg val).cellar = s.cellar := by simp [State.log]
@[simp] theorem State.log_host (s : State) (k : TileId) (kind slot len : Nat) (ev : Instr) (arg : Payload) (val : Word) : (s.log k kind slot len ev arg val).host = s.host := by simp [State.log]
@[simp] theorem State.log_clusters (s : State) (k : TileId) (kind slot len : Nat) (ev : Instr) (arg : Payload) (val : Word) : (s.log k kind slot len ev arg val).clusters = s.clusters := by simp [State.log]
@[simp] theorem State.log_chiplets (s : State) (k : TileId) (kind slot len : Nat) (ev : Instr) (arg : Payload) (val : Word) : (s.log k kind slot len ev arg val).chiplets = s.chiplets := by simp [State.log]
@[simp] theorem State.log_dev (s : State) (k : TileId) (kind slot len : Nat) (ev : Instr) (arg : Payload) (val : Word) : (s.log k kind slot len ev arg val).dev = s.dev := by simp [State.log]
@[simp] theorem State.log_chans (s : State) (k : TileId) (kind slot len : Nat) (ev : Instr) (arg : Payload) (val : Word) : (s.log k kind slot len ev arg val).chans = s.chans := by simp [State.log]
@[simp] theorem State.note_now (s : State) (k : TileId) (ev : Instr) (arg : Payload) : (s.note k ev arg).now = s.now := by simp [State.note]
@[simp] theorem State.note_free (s : State) (k : TileId) (ev : Instr) (arg : Payload) : (s.note k ev arg).free = s.free := by simp [State.note]
@[simp] theorem State.note_tok (s : State) (k : TileId) (ev : Instr) (arg : Payload) : (s.note k ev arg).tok = s.tok := by simp [State.note]
@[simp] theorem State.note_agenda (s : State) (k : TileId) (ev : Instr) (arg : Payload) : (s.note k ev arg).agenda = s.agenda := by simp [State.note]
@[simp] theorem State.note_input (s : State) (k : TileId) (ev : Instr) (arg : Payload) : (s.note k ev arg).input = s.input := by simp [State.note]
@[simp] theorem State.note_cur (s : State) (k : TileId) (ev : Instr) (arg : Payload) : (s.note k ev arg).cur = s.cur := by simp [State.note]
@[simp] theorem State.note_turns (s : State) (k : TileId) (ev : Instr) (arg : Payload) : (s.note k ev arg).turns = s.turns := by simp [State.note]
@[simp] theorem State.note_cellar (s : State) (k : TileId) (ev : Instr) (arg : Payload) : (s.note k ev arg).cellar = s.cellar := by simp [State.note]
@[simp] theorem State.note_host (s : State) (k : TileId) (ev : Instr) (arg : Payload) : (s.note k ev arg).host = s.host := by simp [State.note]
@[simp] theorem State.note_clusters (s : State) (k : TileId) (ev : Instr) (arg : Payload) : (s.note k ev arg).clusters = s.clusters := by simp [State.note]
@[simp] theorem State.note_chiplets (s : State) (k : TileId) (ev : Instr) (arg : Payload) : (s.note k ev arg).chiplets = s.chiplets := by simp [State.note]
@[simp] theorem State.note_dev (s : State) (k : TileId) (ev : Instr) (arg : Payload) : (s.note k ev arg).dev = s.dev := by simp [State.note]
@[simp] theorem State.note_chans (s : State) (k : TileId) (ev : Instr) (arg : Payload) : (s.note k ev arg).chans = s.chans := by simp [State.note]
@[simp] theorem State.inject_now (s : State) (k : TileId) (p : Packet) : (s.inject k p).now = s.now := rfl
@[simp] theorem State.inject_free (s : State) (k : TileId) (p : Packet) : (s.inject k p).free = s.free := rfl
@[simp] theorem State.inject_tok (s : State) (k : TileId) (p : Packet) : (s.inject k p).tok = s.tok := rfl
@[simp] theorem State.inject_agenda (s : State) (k : TileId) (p : Packet) : (s.inject k p).agenda = s.agenda := rfl
@[simp] theorem State.inject_input (s : State) (k : TileId) (p : Packet) : (s.inject k p).input = s.input := rfl
@[simp] theorem State.inject_cur (s : State) (k : TileId) (p : Packet) : (s.inject k p).cur = s.cur := rfl
@[simp] theorem State.inject_turns (s : State) (k : TileId) (p : Packet) : (s.inject k p).turns = s.turns := rfl
@[simp] theorem State.inject_cellar (s : State) (k : TileId) (p : Packet) : (s.inject k p).cellar = s.cellar := rfl
@[simp] theorem State.inject_host (s : State) (k : TileId) (p : Packet) : (s.inject k p).host = s.host := rfl
@[simp] theorem State.inject_clusters (s : State) (k : TileId) (p : Packet) : (s.inject k p).clusters = s.clusters := rfl
@[simp] theorem State.inject_chiplets (s : State) (k : TileId) (p : Packet) : (s.inject k p).chiplets = s.chiplets := rfl
@[simp] theorem State.inject_dev (s : State) (k : TileId) (p : Packet) : (s.inject k p).dev = s.dev := rfl
@[simp] theorem State.inject_chans (s : State) (k : TileId) (p : Packet) : (s.inject k p).chans = s.chans := rfl
@[simp] theorem State.sendOn_now (s : State) (src dst cls n : Nat) (ev : Instr) (arg : Payload) : (s.sendOn src dst cls n ev arg).now = s.now := rfl
@[simp] theorem State.sendOn_free (s : State) (src dst cls n : Nat) (ev : Instr) (arg : Payload) : (s.sendOn src dst cls n ev arg).free = s.free := rfl
@[simp] theorem State.sendOn_tok (s : State) (src dst cls n : Nat) (ev : Instr) (arg : Payload) : (s.sendOn src dst cls n ev arg).tok = s.tok := rfl
@[simp] theorem State.sendOn_input (s : State) (src dst cls n : Nat) (ev : Instr) (arg : Payload) : (s.sendOn src dst cls n ev arg).input = s.input := rfl
@[simp] theorem State.sendOn_cur (s : State) (src dst cls n : Nat) (ev : Instr) (arg : Payload) : (s.sendOn src dst cls n ev arg).cur = s.cur := rfl
@[simp] theorem State.sendOn_turns (s : State) (src dst cls n : Nat) (ev : Instr) (arg : Payload) : (s.sendOn src dst cls n ev arg).turns = s.turns := rfl
@[simp] theorem State.sendOn_cellar (s : State) (src dst cls n : Nat) (ev : Instr) (arg : Payload) : (s.sendOn src dst cls n ev arg).cellar = s.cellar := rfl
@[simp] theorem State.sendOn_host (s : State) (src dst cls n : Nat) (ev : Instr) (arg : Payload) : (s.sendOn src dst cls n ev arg).host = s.host := rfl
@[simp] theorem State.sendOn_tiles (s : State) (src dst cls n : Nat) (ev : Instr) (arg : Payload) : (s.sendOn src dst cls n ev arg).tiles = s.tiles := rfl
@[simp] theorem State.sendOn_clusters (s : State) (src dst cls n : Nat) (ev : Instr) (arg : Payload) : (s.sendOn src dst cls n ev arg).clusters = s.clusters := rfl
@[simp] theorem State.sendOn_chiplets (s : State) (src dst cls n : Nat) (ev : Instr) (arg : Payload) : (s.sendOn src dst cls n ev arg).chiplets = s.chiplets := rfl
@[simp] theorem State.sendOn_dev (s : State) (src dst cls n : Nat) (ev : Instr) (arg : Payload) : (s.sendOn src dst cls n ev arg).dev = s.dev := rfl

@[simp] theorem State.after_agenda (s : State) (n : Nat) (ev : Instr) (arg : Payload) :
    (s.after n ev arg).agenda = s.agenda ++ [{ due := s.now + n, ev := ev, arg := arg }] := rfl
@[simp] theorem State.draw_free (s : State) : s.draw.free = s.free + 1 := rfl

/-! ### Tiles, slots and threads read back -/

@[simp] theorem State.tile_setTile_self (s : State) (k : TileId) (t : Tile) : (s.setTile k t).tile k = t := by
  simp [State.tile, State.setTile]

theorem State.tile_setTile_ne (s : State) {k j : TileId} (t : Tile) (h : j ≠ k) : (s.setTile k t).tile j = s.tile j := by
  simp [State.tile, State.setTile, Table.get?_set_ne _ _ h]

theorem State.tile_setTile (s : State) (k j : TileId) (t : Tile) :
    (s.setTile k t).tile j = if j = k then t else s.tile j := by
  split
  · subst_vars; simp
  · rename_i h; exact s.tile_setTile_ne t h

@[simp] theorem State.tile_setCtx_self (s : State) (k : TileId) (c : TileCtx) :
    (s.setCtx k c).tile k = { s.tile k with c := c } := s.tile_setTile_self k _
theorem State.tile_setCtx_ne (s : State) {k j : TileId} (c : TileCtx) (h : j ≠ k) :
    (s.setCtx k c).tile j = s.tile j := s.tile_setTile_ne _ h
@[simp] theorem State.tile_setRouter_self (s : State) (k : TileId) (r : Router) :
    (s.setRouter k r).tile k = { s.tile k with r := r } := s.tile_setTile_self k _
theorem State.tile_setRouter_ne (s : State) {k j : TileId} (r : Router) (h : j ≠ k) :
    (s.setRouter k r).tile j = s.tile j := s.tile_setTile_ne _ h
@[simp] theorem State.tile_inject_self (s : State) (k : TileId) (p : Packet) :
    (s.inject k p).tile k = { s.tile k with r := { (s.tile k).r with out := (s.tile k).r.out ++ [p] } } := s.tile_setRouter_self k _
theorem State.tile_inject_ne (s : State) {k j : TileId} (p : Packet) (h : j ≠ k) : (s.inject k p).tile j = s.tile j :=
  s.tile_setRouter_ne _ h
/-- A record changes of a tile its router alone. -/
@[simp] theorem State.tile_logRec_c (s : State) (k j : TileId) (kind slot len : Nat) (ref : Bool) (ev : Instr) (arg : Payload) (val : Word) :
    ((s.logRec k kind slot len ref ev arg val).tile j).c = (s.tile j).c := by
  unfold State.logRec
  dsimp only
  split
  · rfl
  · by_cases h : j = k
    · subst h; simp
    · rw [State.tile_setRouter_ne _ _ h]
@[simp] theorem State.tile_setThr_self (s : State) (k : TileId) (j : Fin 16) (th : Thread) :
    (s.setThr k j th).tile k = (s.tile k).setSlot j (some th) := s.tile_setTile_self k _
theorem State.tile_setThr_ne (s : State) {k k' : TileId} (j : Fin 16) (th : Thread) (h : k' ≠ k) :
    (s.setThr k j th).tile k' = s.tile k' := s.tile_setTile_ne _ h
theorem State.tile_setMe_ne (s : State) {k : TileId} (th : Thread) (h : k ≠ s.cur.tile) :
    (s.setMe th).tile k = s.tile k := s.tile_setTile_ne _ h

@[simp] theorem Tile.slot_setSlot_self (t : Tile) (j : Fin 16) (x : Option Thread) : (t.setSlot j x).slot j = x := by
  simp [Tile.slot, Tile.setSlot]
theorem Tile.slot_setSlot_ne (t : Tile) {j i : Fin 16} (x : Option Thread) (h : i ≠ j) :
    (t.setSlot j x).slot i = t.slot i := by
  have h' : j.val ≠ i.val := fun e => h (Fin.ext e.symm)
  simp [Tile.slot, Tile.setSlot, Vector.getElem_set_ne, h']
@[simp] theorem Tile.setSlot_r (t : Tile) (j : Fin 16) (x : Option Thread) : (t.setSlot j x).r = t.r := rfl

@[simp] theorem Tile.setSlot_c_resv (t : Tile) (j : Fin 16) (x : Option Thread) : (t.setSlot j x).c.resv = t.c.resv := rfl
@[simp] theorem Tile.setSlot_c_guests (t : Tile) (j : Fin 16) (x : Option Thread) : (t.setSlot j x).c.guests = t.c.guests := rfl
@[simp] theorem Tile.setSlot_c_pool (t : Tile) (j : Fin 16) (x : Option Thread) : (t.setSlot j x).c.pool = t.c.pool := rfl
@[simp] theorem Tile.setSlot_c_emptyDw (t : Tile) (j : Fin 16) (x : Option Thread) : (t.setSlot j x).c.emptyDw = t.c.emptyDw := rfl
@[simp] theorem Tile.setSlot_c_h (t : Tile) (j : Fin 16) (x : Option Thread) : (t.setSlot j x).c.h = t.c.h := rfl
@[simp] theorem Tile.setSlot_c_hEmpty (t : Tile) (j : Fin 16) (x : Option Thread) : (t.setSlot j x).c.hEmpty = t.c.hEmpty := rfl
@[simp] theorem Tile.setSlot_c_hOps (t : Tile) (j : Fin 16) (x : Option Thread) : (t.setSlot j x).c.hOps = t.c.hOps := rfl
@[simp] theorem Tile.setSlot_c_waiters (t : Tile) (j : Fin 16) (x : Option Thread) : (t.setSlot j x).c.waiters = t.c.waiters := rfl
@[simp] theorem Tile.setSlot_c_mail (t : Tile) (j : Fin 16) (x : Option Thread) : (t.setSlot j x).c.mail = t.c.mail := rfl
@[simp] theorem Tile.setSlot_c_poolcfg (t : Tile) (j : Fin 16) (x : Option Thread) : (t.setSlot j x).c.poolcfg = t.c.poolcfg := rfl
@[simp] theorem Tile.setSlot_c_ovf (t : Tile) (j : Fin 16) (x : Option Thread) : (t.setSlot j x).c.ovf = t.c.ovf := rfl
@[simp] theorem Tile.setSlot_c_inv (t : Tile) (j : Fin 16) (x : Option Thread) : (t.setSlot j x).c.inv = t.c.inv := rfl
@[simp] theorem Tile.setSlot_c_migretry (t : Tile) (j : Fin 16) (x : Option Thread) : (t.setSlot j x).c.migretry = t.c.migretry := rfl
@[simp] theorem Tile.setSlot_c_migback (t : Tile) (j : Fin 16) (x : Option Thread) : (t.setSlot j x).c.migback = t.c.migback := rfl
@[simp] theorem Tile.setSlot_c_coltimeo (t : Tile) (j : Fin 16) (x : Option Thread) : (t.setSlot j x).c.coltimeo = t.c.coltimeo := rfl
@[simp] theorem Tile.setSlot_c_redlimit (t : Tile) (j : Fin 16) (x : Option Thread) : (t.setSlot j x).c.redlimit = t.c.redlimit := rfl
@[simp] theorem Tile.setSlot_c_ivlen (t : Tile) (j : Fin 16) (x : Option Thread) : (t.setSlot j x).c.ivlen = t.c.ivlen := rfl
@[simp] theorem Tile.setSlot_c_gridw (t : Tile) (j : Fin 16) (x : Option Thread) : (t.setSlot j x).c.gridw = t.c.gridw := rfl
@[simp] theorem Tile.setSlot_c_ivn (t : Tile) (j : Fin 16) (x : Option Thread) : (t.setSlot j x).c.ivn = t.c.ivn := rfl
@[simp] theorem Tile.setSlot_c_launches (t : Tile) (j : Fin 16) (x : Option Thread) : (t.setSlot j x).c.launches = t.c.launches := rfl
@[simp] theorem Tile.setSlot_c_locks (t : Tile) (j : Fin 16) (x : Option Thread) : (t.setSlot j x).c.locks = t.c.locks := rfl
@[simp] theorem Tile.setSlot_c_outq (t : Tile) (j : Fin 16) (x : Option Thread) : (t.setSlot j x).c.outq = t.c.outq := rfl
@[simp] theorem Tile.setSlot_c_deferred (t : Tile) (j : Fin 16) (x : Option Thread) : (t.setSlot j x).c.deferred = t.c.deferred := rfl
@[simp] theorem Tile.setSlot_c_icache (t : Tile) (j : Fin 16) (x : Option Thread) : (t.setSlot j x).c.icache = t.c.icache := rfl
@[simp] theorem Tile.setSlot_c_fills (t : Tile) (j : Fin 16) (x : Option Thread) : (t.setSlot j x).c.fills = t.c.fills := rfl
@[simp] theorem Tile.setSlot_c_dirty (t : Tile) (j : Fin 16) (x : Option Thread) : (t.setSlot j x).c.dirty = t.c.dirty := rfl
@[simp] theorem Tile.setSlot_c_zeroDue (t : Tile) (j : Fin 16) (x : Option Thread) : (t.setSlot j x).c.zeroDue = t.c.zeroDue := rfl
@[simp] theorem Tile.setSlot_c_own (t : Tile) (j : Fin 16) (x : Option Thread) : (t.setSlot j x).c.own = t.c.own := rfl
@[simp] theorem Tile.setSlot_c_pins (t : Tile) (j : Fin 16) (x : Option Thread) : (t.setSlot j x).c.pins = t.c.pins := rfl
@[simp] theorem Tile.setSlot_c_ops (t : Tile) (j : Fin 16) (x : Option Thread) : (t.setSlot j x).c.ops = t.c.ops := rfl
@[simp] theorem Tile.setSlot_c_nextOp (t : Tile) (j : Fin 16) (x : Option Thread) : (t.setSlot j x).c.nextOp = t.c.nextOp := rfl
@[simp] theorem Tile.setSlot_c_round (t : Tile) (j : Fin 16) (x : Option Thread) : (t.setSlot j x).c.round = t.c.round := rfl
@[simp] theorem Tile.setSlot_c_coll (t : Tile) (j : Fin 16) (x : Option Thread) : (t.setSlot j x).c.coll = t.c.coll := rfl
@[simp] theorem Tile.setSlot_c_preempt (t : Tile) (j : Fin 16) (x : Option Thread) : (t.setSlot j x).c.preempt = t.c.preempt := rfl
@[simp] theorem Tile.setSlot_c_late (t : Tile) (j : Fin 16) (x : Option Thread) : (t.setSlot j x).c.late = t.c.late := rfl
@[simp] theorem Tile.setSlot_c_stored (t : Tile) (j : Fin 16) (x : Option Thread) : (t.setSlot j x).c.stored = t.c.stored := rfl
@[simp] theorem Tile.setSlot_c_frozen (t : Tile) (j : Fin 16) (x : Option Thread) : (t.setSlot j x).c.frozen = t.c.frozen := rfl
@[simp] theorem Tile.setSlot_c_tok (t : Tile) (j : Fin 16) (x : Option Thread) : (t.setSlot j x).c.tok = t.c.tok := rfl
@[simp] theorem Tile.setSlot_c_draws (t : Tile) (j : Fin 16) (x : Option Thread) : (t.setSlot j x).c.draws = t.c.draws := rfl
@[simp] theorem Tile.setSlot_c_swaps (t : Tile) (j : Fin 16) (x : Option Thread) : (t.setSlot j x).c.swaps = t.c.swaps := rfl

@[simp] theorem State.thr_setThr_self (s : State) (k : TileId) (j : Fin 16) (th : Thread) : (s.setThr k j th).thr k j = th := by
  simp [State.thr]
theorem State.thr_setThr_slot (s : State) (k : TileId) {j i : Fin 16} (th : Thread) (h : i ≠ j) :
    (s.setThr k j th).thr k i = s.thr k i := by
  simp [State.thr, Tile.slot_setSlot_ne _ _ h]
theorem State.thr_setThr_tile (s : State) {k k' : TileId} (j i : Fin 16) (th : Thread) (h : k' ≠ k) :
    (s.setThr k j th).thr k' i = s.thr k' i := by
  simp [State.thr, State.tile_setThr_ne _ _ _ h]
@[simp] theorem State.me_setMe (s : State) (th : Thread) : (s.setMe th).me = th := s.thr_setThr_self _ _ th

/-- Storing a thread changes no pool. -/
@[simp] theorem State.poolOf_setThr (s : State) (k k' : TileId) (j : Fin 16) (th : Thread) :
    ((s.setThr k j th).tile k').c.pool = (s.tile k').c.pool := by
  by_cases h : k' = k
  · subst h; simp
  · rw [s.tile_setThr_ne j th h]
@[simp] theorem State.poolOf_setMe (s : State) (k : TileId) (th : Thread) :
    ((s.setMe th).tile k).c.pool = (s.tile k).c.pool := s.poolOf_setThr _ _ _ th

/-! ### Threads: what an update leaves alone -/

@[simp] theorem Thread.setReg_pc (th : Thread) (r : Reg) (v : Word) : (th.setReg r v).pc = th.pc := by unfold Thread.setReg; split <;> rfl
@[simp] theorem Thread.setReg_via (th : Thread) (r : Reg) (v : Word) : (th.setReg r v).via = th.via := by unfold Thread.setReg; split <;> rfl
@[simp] theorem Thread.setReg_pw (th : Thread) (r : Reg) (v : Word) : (th.setReg r v).pw = th.pw := by unfold Thread.setReg; split <;> rfl
@[simp] theorem Thread.setReg_loops (th : Thread) (r : Reg) (v : Word) : (th.setReg r v).loops = th.loops := by unfold Thread.setReg; split <;> rfl
@[simp] theorem Thread.setReg_home (th : Thread) (r : Reg) (v : Word) : (th.setReg r v).home = th.home := by unfold Thread.setReg; split <;> rfl
@[simp] theorem Thread.setReg_hslot (th : Thread) (r : Reg) (v : Word) : (th.setReg r v).hslot = th.hslot := by unfold Thread.setReg; split <;> rfl
@[simp] theorem Thread.setReg_lix (th : Thread) (r : Reg) (v : Word) : (th.setReg r v).lix = th.lix := by unfold Thread.setReg; split <;> rfl
@[simp] theorem Thread.setReg_launch (th : Thread) (r : Reg) (v : Word) : (th.setReg r v).launch = th.launch := by unfold Thread.setReg; split <;> rfl
@[simp] theorem Thread.setReg_pix (th : Thread) (r : Reg) (v : Word) : (th.setReg r v).pix = th.pix := by unfold Thread.setReg; split <;> rfl
@[simp] theorem Thread.setReg_vlen (th : Thread) (r : Reg) (v : Word) : (th.setReg r v).vlen = th.vlen := by unfold Thread.setReg; split <;> rfl
@[simp] theorem Thread.setReg_frm (th : Thread) (r : Reg) (v : Word) : (th.setReg r v).frm = th.frm := by unfold Thread.setReg; split <;> rfl
@[simp] theorem Thread.setReg_fflags (th : Thread) (r : Reg) (v : Word) : (th.setReg r v).fflags = th.fflags := by unfold Thread.setReg; split <;> rfl
@[simp] theorem Thread.setReg_tfmt (th : Thread) (r : Reg) (v : Word) : (th.setReg r v).tfmt = th.tfmt := by unfold Thread.setReg; split <;> rfl
@[simp] theorem Thread.setReg_tscl (th : Thread) (r : Reg) (v : Word) : (th.setReg r v).tscl = th.tscl := by unfold Thread.setReg; split <;> rfl
@[simp] theorem Thread.setReg_held (th : Thread) (r : Reg) (v : Word) : (th.setReg r v).held = th.held := by unfold Thread.setReg; split <;> rfl
@[simp] theorem Thread.setReg_pkslot (th : Thread) (r : Reg) (v : Word) : (th.setReg r v).pkslot = th.pkslot := by unfold Thread.setReg; split <;> rfl
@[simp] theorem Thread.setReg_blim (th : Thread) (r : Reg) (v : Word) : (th.setReg r v).blim = th.blim := by unfold Thread.setReg; split <;> rfl
@[simp] theorem Thread.setReg_sig (th : Thread) (r : Reg) (v : Word) : (th.setReg r v).sig = th.sig := by unfold Thread.setReg; split <;> rfl
@[simp] theorem Thread.setReg_splim (th : Thread) (r : Reg) (v : Word) : (th.setReg r v).splim = th.splim := by unfold Thread.setReg; split <;> rfl
@[simp] theorem Thread.setReg_spov (th : Thread) (r : Reg) (v : Word) : (th.setReg r v).spov = th.spov := by unfold Thread.setReg; split <;> rfl
@[simp] theorem Thread.setReg_spovlim (th : Thread) (r : Reg) (v : Word) : (th.setReg r v).spovlim = th.spovlim := by unfold Thread.setReg; split <;> rfl
@[simp] theorem Thread.setReg_fetimeo (th : Thread) (r : Reg) (v : Word) : (th.setReg r v).fetimeo = th.fetimeo := by unfold Thread.setReg; split <;> rfl
@[simp] theorem Thread.setReg_feretry (th : Thread) (r : Reg) (v : Word) : (th.setReg r v).feretry = th.feretry := by unfold Thread.setReg; split <;> rfl
@[simp] theorem Thread.setReg_sndretry (th : Thread) (r : Reg) (v : Word) : (th.setReg r v).sndretry = th.sndretry := by unfold Thread.setReg; split <;> rfl
@[simp] theorem Thread.setReg_bankX (th : Thread) (r : Reg) (v : Word) : (th.setReg r v).bankX = th.bankX := by unfold Thread.setReg; split <;> rfl
@[simp] theorem Thread.setReg_bankY (th : Thread) (r : Reg) (v : Word) : (th.setReg r v).bankY = th.bankY := by unfold Thread.setReg; split <;> rfl
@[simp] theorem Thread.setReg_xvec (th : Thread) (r : Reg) (v : Word) : (th.setReg r v).xvec = th.xvec := by unfold Thread.setReg; split <;> rfl
@[simp] theorem Thread.setReg_xlvl (th : Thread) (r : Reg) (v : Word) : (th.setReg r v).xlvl = th.xlvl := by unfold Thread.setReg; split <;> rfl
@[simp] theorem Thread.setReg_wrote (th : Thread) (r : Reg) (v : Word) : (th.setReg r v).wrote = th.wrote := by unfold Thread.setReg; split <;> rfl
@[simp] theorem Thread.setReg_groups (th : Thread) (r : Reg) (v : Word) : (th.setReg r v).groups = th.groups := by unfold Thread.setReg; split <;> rfl
@[simp] theorem Thread.setReg_park (th : Thread) (r : Reg) (v : Word) : (th.setReg r v).park = th.park := by unfold Thread.setReg; split <;> rfl
@[simp] theorem Thread.setReg_pend (th : Thread) (r : Reg) (v : Word) : (th.setReg r v).pend = th.pend := by unfold Thread.setReg; split <;> rfl
@[simp] theorem Thread.setReg_skip (th : Thread) (r : Reg) (v : Word) : (th.setReg r v).skip = th.skip := by unfold Thread.setReg; split <;> rfl
@[simp] theorem Thread.setReg_rbuf (th : Thread) (r : Reg) (v : Word) : (th.setReg r v).rbuf = th.rbuf := by unfold Thread.setReg; split <;> rfl
@[simp] theorem Thread.setReg_arrived (th : Thread) (r : Reg) (v : Word) : (th.setReg r v).arrived = th.arrived := by unfold Thread.setReg; split <;> rfl
@[simp] theorem Thread.setReg_waits (th : Thread) (r : Reg) (v : Word) : (th.setReg r v).waits = th.waits := by unfold Thread.setReg; split <;> rfl
@[simp] theorem Thread.setReg_fault (th : Thread) (r : Reg) (v : Word) : (th.setReg r v).fault = th.fault := by unfold Thread.setReg; split <;> rfl
@[simp] theorem Thread.setReg_sigLen (th : Thread) (r : Reg) (v : Word) : (th.setReg r v).sigLen = th.sigLen := by unfold Thread.setReg; split <;> rfl
@[simp] theorem Thread.setReg_copies (th : Thread) (r : Reg) (v : Word) : (th.setReg r v).copies = th.copies := by unfold Thread.setReg; split <;> rfl
@[simp] theorem Thread.setReg_carried (th : Thread) (r : Reg) (v : Word) : (th.setReg r v).carried = th.carried := by unfold Thread.setReg; split <;> rfl
@[simp] theorem Thread.setPred_pc (th : Thread) (q : Pred) (b : Bool) : (th.setPred q b).pc = th.pc := rfl
@[simp] theorem Thread.setPred_via (th : Thread) (q : Pred) (b : Bool) : (th.setPred q b).via = th.via := rfl
@[simp] theorem Thread.setPred_regs (th : Thread) (q : Pred) (b : Bool) : (th.setPred q b).regs = th.regs := rfl
@[simp] theorem Thread.setPred_full (th : Thread) (q : Pred) (b : Bool) : (th.setPred q b).full = th.full := rfl
@[simp] theorem Thread.setPred_loops (th : Thread) (q : Pred) (b : Bool) : (th.setPred q b).loops = th.loops := rfl
@[simp] theorem Thread.setPred_home (th : Thread) (q : Pred) (b : Bool) : (th.setPred q b).home = th.home := rfl
@[simp] theorem Thread.setPred_hslot (th : Thread) (q : Pred) (b : Bool) : (th.setPred q b).hslot = th.hslot := rfl
@[simp] theorem Thread.setPred_lix (th : Thread) (q : Pred) (b : Bool) : (th.setPred q b).lix = th.lix := rfl
@[simp] theorem Thread.setPred_launch (th : Thread) (q : Pred) (b : Bool) : (th.setPred q b).launch = th.launch := rfl
@[simp] theorem Thread.setPred_pix (th : Thread) (q : Pred) (b : Bool) : (th.setPred q b).pix = th.pix := rfl
@[simp] theorem Thread.setPred_vlen (th : Thread) (q : Pred) (b : Bool) : (th.setPred q b).vlen = th.vlen := rfl
@[simp] theorem Thread.setPred_frm (th : Thread) (q : Pred) (b : Bool) : (th.setPred q b).frm = th.frm := rfl
@[simp] theorem Thread.setPred_fflags (th : Thread) (q : Pred) (b : Bool) : (th.setPred q b).fflags = th.fflags := rfl
@[simp] theorem Thread.setPred_tfmt (th : Thread) (q : Pred) (b : Bool) : (th.setPred q b).tfmt = th.tfmt := rfl
@[simp] theorem Thread.setPred_tscl (th : Thread) (q : Pred) (b : Bool) : (th.setPred q b).tscl = th.tscl := rfl
@[simp] theorem Thread.setPred_held (th : Thread) (q : Pred) (b : Bool) : (th.setPred q b).held = th.held := rfl
@[simp] theorem Thread.setPred_pkslot (th : Thread) (q : Pred) (b : Bool) : (th.setPred q b).pkslot = th.pkslot := rfl
@[simp] theorem Thread.setPred_blim (th : Thread) (q : Pred) (b : Bool) : (th.setPred q b).blim = th.blim := rfl
@[simp] theorem Thread.setPred_sig (th : Thread) (q : Pred) (b : Bool) : (th.setPred q b).sig = th.sig := rfl
@[simp] theorem Thread.setPred_splim (th : Thread) (q : Pred) (b : Bool) : (th.setPred q b).splim = th.splim := rfl
@[simp] theorem Thread.setPred_spov (th : Thread) (q : Pred) (b : Bool) : (th.setPred q b).spov = th.spov := rfl
@[simp] theorem Thread.setPred_spovlim (th : Thread) (q : Pred) (b : Bool) : (th.setPred q b).spovlim = th.spovlim := rfl
@[simp] theorem Thread.setPred_fetimeo (th : Thread) (q : Pred) (b : Bool) : (th.setPred q b).fetimeo = th.fetimeo := rfl
@[simp] theorem Thread.setPred_feretry (th : Thread) (q : Pred) (b : Bool) : (th.setPred q b).feretry = th.feretry := rfl
@[simp] theorem Thread.setPred_sndretry (th : Thread) (q : Pred) (b : Bool) : (th.setPred q b).sndretry = th.sndretry := rfl
@[simp] theorem Thread.setPred_bankX (th : Thread) (q : Pred) (b : Bool) : (th.setPred q b).bankX = th.bankX := rfl
@[simp] theorem Thread.setPred_bankY (th : Thread) (q : Pred) (b : Bool) : (th.setPred q b).bankY = th.bankY := rfl
@[simp] theorem Thread.setPred_xvec (th : Thread) (q : Pred) (b : Bool) : (th.setPred q b).xvec = th.xvec := rfl
@[simp] theorem Thread.setPred_xlvl (th : Thread) (q : Pred) (b : Bool) : (th.setPred q b).xlvl = th.xlvl := rfl
@[simp] theorem Thread.setPred_wrote (th : Thread) (q : Pred) (b : Bool) : (th.setPred q b).wrote = th.wrote := rfl
@[simp] theorem Thread.setPred_groups (th : Thread) (q : Pred) (b : Bool) : (th.setPred q b).groups = th.groups := rfl
@[simp] theorem Thread.setPred_park (th : Thread) (q : Pred) (b : Bool) : (th.setPred q b).park = th.park := rfl
@[simp] theorem Thread.setPred_pend (th : Thread) (q : Pred) (b : Bool) : (th.setPred q b).pend = th.pend := rfl
@[simp] theorem Thread.setPred_skip (th : Thread) (q : Pred) (b : Bool) : (th.setPred q b).skip = th.skip := rfl
@[simp] theorem Thread.setPred_rbuf (th : Thread) (q : Pred) (b : Bool) : (th.setPred q b).rbuf = th.rbuf := rfl
@[simp] theorem Thread.setPred_arrived (th : Thread) (q : Pred) (b : Bool) : (th.setPred q b).arrived = th.arrived := rfl
@[simp] theorem Thread.setPred_waits (th : Thread) (q : Pred) (b : Bool) : (th.setPred q b).waits = th.waits := rfl
@[simp] theorem Thread.setPred_fault (th : Thread) (q : Pred) (b : Bool) : (th.setPred q b).fault = th.fault := rfl
@[simp] theorem Thread.setPred_sigLen (th : Thread) (q : Pred) (b : Bool) : (th.setPred q b).sigLen = th.sigLen := rfl
@[simp] theorem Thread.setPred_copies (th : Thread) (q : Pred) (b : Bool) : (th.setPred q b).copies = th.copies := rfl
@[simp] theorem Thread.setPred_carried (th : Thread) (q : Pred) (b : Bool) : (th.setPred q b).carried = th.carried := rfl
@[simp] theorem Thread.stepEnd_regs (th : Thread) (n : Nat) : (th.stepEnd n).regs = th.regs := rfl
@[simp] theorem Thread.stepEnd_full (th : Thread) (n : Nat) : (th.stepEnd n).full = th.full := rfl
@[simp] theorem Thread.stepEnd_pw (th : Thread) (n : Nat) : (th.stepEnd n).pw = th.pw := rfl
@[simp] theorem Thread.stepEnd_home (th : Thread) (n : Nat) : (th.stepEnd n).home = th.home := rfl
@[simp] theorem Thread.stepEnd_hslot (th : Thread) (n : Nat) : (th.stepEnd n).hslot = th.hslot := rfl
@[simp] theorem Thread.stepEnd_lix (th : Thread) (n : Nat) : (th.stepEnd n).lix = th.lix := rfl
@[simp] theorem Thread.stepEnd_launch (th : Thread) (n : Nat) : (th.stepEnd n).launch = th.launch := rfl
@[simp] theorem Thread.stepEnd_pix (th : Thread) (n : Nat) : (th.stepEnd n).pix = th.pix := rfl
@[simp] theorem Thread.stepEnd_vlen (th : Thread) (n : Nat) : (th.stepEnd n).vlen = th.vlen := rfl
@[simp] theorem Thread.stepEnd_frm (th : Thread) (n : Nat) : (th.stepEnd n).frm = th.frm := rfl
@[simp] theorem Thread.stepEnd_fflags (th : Thread) (n : Nat) : (th.stepEnd n).fflags = th.fflags := rfl
@[simp] theorem Thread.stepEnd_tfmt (th : Thread) (n : Nat) : (th.stepEnd n).tfmt = th.tfmt := rfl
@[simp] theorem Thread.stepEnd_tscl (th : Thread) (n : Nat) : (th.stepEnd n).tscl = th.tscl := rfl
@[simp] theorem Thread.stepEnd_held (th : Thread) (n : Nat) : (th.stepEnd n).held = th.held := rfl
@[simp] theorem Thread.stepEnd_pkslot (th : Thread) (n : Nat) : (th.stepEnd n).pkslot = th.pkslot := rfl
@[simp] theorem Thread.stepEnd_blim (th : Thread) (n : Nat) : (th.stepEnd n).blim = th.blim := rfl
@[simp] theorem Thread.stepEnd_sig (th : Thread) (n : Nat) : (th.stepEnd n).sig = th.sig := rfl
@[simp] theorem Thread.stepEnd_splim (th : Thread) (n : Nat) : (th.stepEnd n).splim = th.splim := rfl
@[simp] theorem Thread.stepEnd_spov (th : Thread) (n : Nat) : (th.stepEnd n).spov = th.spov := rfl
@[simp] theorem Thread.stepEnd_spovlim (th : Thread) (n : Nat) : (th.stepEnd n).spovlim = th.spovlim := rfl
@[simp] theorem Thread.stepEnd_fetimeo (th : Thread) (n : Nat) : (th.stepEnd n).fetimeo = th.fetimeo := rfl
@[simp] theorem Thread.stepEnd_feretry (th : Thread) (n : Nat) : (th.stepEnd n).feretry = th.feretry := rfl
@[simp] theorem Thread.stepEnd_sndretry (th : Thread) (n : Nat) : (th.stepEnd n).sndretry = th.sndretry := rfl
@[simp] theorem Thread.stepEnd_bankX (th : Thread) (n : Nat) : (th.stepEnd n).bankX = th.bankX := rfl
@[simp] theorem Thread.stepEnd_bankY (th : Thread) (n : Nat) : (th.stepEnd n).bankY = th.bankY := rfl
@[simp] theorem Thread.stepEnd_xvec (th : Thread) (n : Nat) : (th.stepEnd n).xvec = th.xvec := rfl
@[simp] theorem Thread.stepEnd_xlvl (th : Thread) (n : Nat) : (th.stepEnd n).xlvl = th.xlvl := rfl
@[simp] theorem Thread.stepEnd_wrote (th : Thread) (n : Nat) : (th.stepEnd n).wrote = th.wrote := rfl
@[simp] theorem Thread.stepEnd_groups (th : Thread) (n : Nat) : (th.stepEnd n).groups = th.groups := rfl
@[simp] theorem Thread.stepEnd_park (th : Thread) (n : Nat) : (th.stepEnd n).park = th.park := rfl
@[simp] theorem Thread.stepEnd_pend (th : Thread) (n : Nat) : (th.stepEnd n).pend = th.pend := rfl
@[simp] theorem Thread.stepEnd_skip (th : Thread) (n : Nat) : (th.stepEnd n).skip = th.skip := rfl
@[simp] theorem Thread.stepEnd_rbuf (th : Thread) (n : Nat) : (th.stepEnd n).rbuf = th.rbuf := rfl
@[simp] theorem Thread.stepEnd_arrived (th : Thread) (n : Nat) : (th.stepEnd n).arrived = th.arrived := rfl
@[simp] theorem Thread.stepEnd_waits (th : Thread) (n : Nat) : (th.stepEnd n).waits = th.waits := rfl
@[simp] theorem Thread.stepEnd_fault (th : Thread) (n : Nat) : (th.stepEnd n).fault = th.fault := rfl
@[simp] theorem Thread.stepEnd_sigLen (th : Thread) (n : Nat) : (th.stepEnd n).sigLen = th.sigLen := rfl
@[simp] theorem Thread.stepEnd_copies (th : Thread) (n : Nat) : (th.stepEnd n).copies = th.copies := rfl
@[simp] theorem Thread.stepEnd_carried (th : Thread) (n : Nat) : (th.stepEnd n).carried = th.carried := rfl
@[simp] theorem Thread.retire_regs (th : Thread) (n : Nat) : (th.retire n).regs = th.regs := rfl
@[simp] theorem Thread.retire_full (th : Thread) (n : Nat) : (th.retire n).full = th.full := rfl
@[simp] theorem Thread.retire_pw (th : Thread) (n : Nat) : (th.retire n).pw = th.pw := rfl
@[simp] theorem Thread.retire_home (th : Thread) (n : Nat) : (th.retire n).home = th.home := rfl
@[simp] theorem Thread.retire_hslot (th : Thread) (n : Nat) : (th.retire n).hslot = th.hslot := rfl
@[simp] theorem Thread.retire_lix (th : Thread) (n : Nat) : (th.retire n).lix = th.lix := rfl
@[simp] theorem Thread.retire_launch (th : Thread) (n : Nat) : (th.retire n).launch = th.launch := rfl
@[simp] theorem Thread.retire_pix (th : Thread) (n : Nat) : (th.retire n).pix = th.pix := rfl
@[simp] theorem Thread.retire_vlen (th : Thread) (n : Nat) : (th.retire n).vlen = th.vlen := rfl
@[simp] theorem Thread.retire_frm (th : Thread) (n : Nat) : (th.retire n).frm = th.frm := rfl
@[simp] theorem Thread.retire_fflags (th : Thread) (n : Nat) : (th.retire n).fflags = th.fflags := rfl
@[simp] theorem Thread.retire_tfmt (th : Thread) (n : Nat) : (th.retire n).tfmt = th.tfmt := rfl
@[simp] theorem Thread.retire_tscl (th : Thread) (n : Nat) : (th.retire n).tscl = th.tscl := rfl
@[simp] theorem Thread.retire_held (th : Thread) (n : Nat) : (th.retire n).held = th.held := rfl
@[simp] theorem Thread.retire_pkslot (th : Thread) (n : Nat) : (th.retire n).pkslot = th.pkslot := rfl
@[simp] theorem Thread.retire_blim (th : Thread) (n : Nat) : (th.retire n).blim = th.blim := rfl
@[simp] theorem Thread.retire_sig (th : Thread) (n : Nat) : (th.retire n).sig = th.sig := rfl
@[simp] theorem Thread.retire_splim (th : Thread) (n : Nat) : (th.retire n).splim = th.splim := rfl
@[simp] theorem Thread.retire_spov (th : Thread) (n : Nat) : (th.retire n).spov = th.spov := rfl
@[simp] theorem Thread.retire_spovlim (th : Thread) (n : Nat) : (th.retire n).spovlim = th.spovlim := rfl
@[simp] theorem Thread.retire_fetimeo (th : Thread) (n : Nat) : (th.retire n).fetimeo = th.fetimeo := rfl
@[simp] theorem Thread.retire_feretry (th : Thread) (n : Nat) : (th.retire n).feretry = th.feretry := rfl
@[simp] theorem Thread.retire_sndretry (th : Thread) (n : Nat) : (th.retire n).sndretry = th.sndretry := rfl
@[simp] theorem Thread.retire_bankX (th : Thread) (n : Nat) : (th.retire n).bankX = th.bankX := rfl
@[simp] theorem Thread.retire_bankY (th : Thread) (n : Nat) : (th.retire n).bankY = th.bankY := rfl
@[simp] theorem Thread.retire_xvec (th : Thread) (n : Nat) : (th.retire n).xvec = th.xvec := rfl
@[simp] theorem Thread.retire_xlvl (th : Thread) (n : Nat) : (th.retire n).xlvl = th.xlvl := rfl
@[simp] theorem Thread.retire_wrote (th : Thread) (n : Nat) : (th.retire n).wrote = th.wrote := rfl
@[simp] theorem Thread.retire_groups (th : Thread) (n : Nat) : (th.retire n).groups = th.groups := rfl
@[simp] theorem Thread.retire_pend (th : Thread) (n : Nat) : (th.retire n).pend = th.pend := rfl
@[simp] theorem Thread.retire_skip (th : Thread) (n : Nat) : (th.retire n).skip = th.skip := rfl
@[simp] theorem Thread.retire_arrived (th : Thread) (n : Nat) : (th.retire n).arrived = th.arrived := rfl
@[simp] theorem Thread.retire_waits (th : Thread) (n : Nat) : (th.retire n).waits = th.waits := rfl
@[simp] theorem Thread.retire_fault (th : Thread) (n : Nat) : (th.retire n).fault = th.fault := rfl
@[simp] theorem Thread.retire_sigLen (th : Thread) (n : Nat) : (th.retire n).sigLen = th.sigLen := rfl
@[simp] theorem Thread.retire_copies (th : Thread) (n : Nat) : (th.retire n).copies = th.copies := rfl
@[simp] theorem Thread.retire_carried (th : Thread) (n : Nat) : (th.retire n).carried = th.carried := rfl
@[simp] theorem Thread.jump_regs (th : Thread) (t : Word) : (th.jump t).regs = th.regs := rfl
@[simp] theorem Thread.jump_full (th : Thread) (t : Word) : (th.jump t).full = th.full := rfl
@[simp] theorem Thread.jump_pw (th : Thread) (t : Word) : (th.jump t).pw = th.pw := rfl
@[simp] theorem Thread.jump_loops (th : Thread) (t : Word) : (th.jump t).loops = th.loops := rfl
@[simp] theorem Thread.jump_home (th : Thread) (t : Word) : (th.jump t).home = th.home := rfl
@[simp] theorem Thread.jump_hslot (th : Thread) (t : Word) : (th.jump t).hslot = th.hslot := rfl
@[simp] theorem Thread.jump_lix (th : Thread) (t : Word) : (th.jump t).lix = th.lix := rfl
@[simp] theorem Thread.jump_launch (th : Thread) (t : Word) : (th.jump t).launch = th.launch := rfl
@[simp] theorem Thread.jump_pix (th : Thread) (t : Word) : (th.jump t).pix = th.pix := rfl
@[simp] theorem Thread.jump_vlen (th : Thread) (t : Word) : (th.jump t).vlen = th.vlen := rfl
@[simp] theorem Thread.jump_frm (th : Thread) (t : Word) : (th.jump t).frm = th.frm := rfl
@[simp] theorem Thread.jump_fflags (th : Thread) (t : Word) : (th.jump t).fflags = th.fflags := rfl
@[simp] theorem Thread.jump_tfmt (th : Thread) (t : Word) : (th.jump t).tfmt = th.tfmt := rfl
@[simp] theorem Thread.jump_tscl (th : Thread) (t : Word) : (th.jump t).tscl = th.tscl := rfl
@[simp] theorem Thread.jump_held (th : Thread) (t : Word) : (th.jump t).held = th.held := rfl
@[simp] theorem Thread.jump_pkslot (th : Thread) (t : Word) : (th.jump t).pkslot = th.pkslot := rfl
@[simp] theorem Thread.jump_blim (th : Thread) (t : Word) : (th.jump t).blim = th.blim := rfl
@[simp] theorem Thread.jump_sig (th : Thread) (t : Word) : (th.jump t).sig = th.sig := rfl
@[simp] theorem Thread.jump_splim (th : Thread) (t : Word) : (th.jump t).splim = th.splim := rfl
@[simp] theorem Thread.jump_spov (th : Thread) (t : Word) : (th.jump t).spov = th.spov := rfl
@[simp] theorem Thread.jump_spovlim (th : Thread) (t : Word) : (th.jump t).spovlim = th.spovlim := rfl
@[simp] theorem Thread.jump_fetimeo (th : Thread) (t : Word) : (th.jump t).fetimeo = th.fetimeo := rfl
@[simp] theorem Thread.jump_feretry (th : Thread) (t : Word) : (th.jump t).feretry = th.feretry := rfl
@[simp] theorem Thread.jump_sndretry (th : Thread) (t : Word) : (th.jump t).sndretry = th.sndretry := rfl
@[simp] theorem Thread.jump_bankX (th : Thread) (t : Word) : (th.jump t).bankX = th.bankX := rfl
@[simp] theorem Thread.jump_bankY (th : Thread) (t : Word) : (th.jump t).bankY = th.bankY := rfl
@[simp] theorem Thread.jump_xvec (th : Thread) (t : Word) : (th.jump t).xvec = th.xvec := rfl
@[simp] theorem Thread.jump_xlvl (th : Thread) (t : Word) : (th.jump t).xlvl = th.xlvl := rfl
@[simp] theorem Thread.jump_wrote (th : Thread) (t : Word) : (th.jump t).wrote = th.wrote := rfl
@[simp] theorem Thread.jump_groups (th : Thread) (t : Word) : (th.jump t).groups = th.groups := rfl
@[simp] theorem Thread.jump_pend (th : Thread) (t : Word) : (th.jump t).pend = th.pend := rfl
@[simp] theorem Thread.jump_skip (th : Thread) (t : Word) : (th.jump t).skip = th.skip := rfl
@[simp] theorem Thread.jump_rbuf (th : Thread) (t : Word) : (th.jump t).rbuf = th.rbuf := rfl
@[simp] theorem Thread.jump_arrived (th : Thread) (t : Word) : (th.jump t).arrived = th.arrived := rfl
@[simp] theorem Thread.jump_waits (th : Thread) (t : Word) : (th.jump t).waits = th.waits := rfl
@[simp] theorem Thread.jump_fault (th : Thread) (t : Word) : (th.jump t).fault = th.fault := rfl
@[simp] theorem Thread.jump_sigLen (th : Thread) (t : Word) : (th.jump t).sigLen = th.sigLen := rfl
@[simp] theorem Thread.jump_copies (th : Thread) (t : Word) : (th.jump t).copies = th.copies := rfl
@[simp] theorem Thread.jump_carried (th : Thread) (t : Word) : (th.jump t).carried = th.carried := rfl
@[simp] theorem Thread.enterTrap_regs (th : Thread) (xpc : Word) (cause : BitVec 17) (val : Word) : (th.enterTrap xpc cause val).regs = th.regs := rfl
@[simp] theorem Thread.enterTrap_full (th : Thread) (xpc : Word) (cause : BitVec 17) (val : Word) : (th.enterTrap xpc cause val).full = th.full := rfl
@[simp] theorem Thread.enterTrap_pw (th : Thread) (xpc : Word) (cause : BitVec 17) (val : Word) : (th.enterTrap xpc cause val).pw = th.pw := rfl
@[simp] theorem Thread.enterTrap_home (th : Thread) (xpc : Word) (cause : BitVec 17) (val : Word) : (th.enterTrap xpc cause val).home = th.home := rfl
@[simp] theorem Thread.enterTrap_hslot (th : Thread) (xpc : Word) (cause : BitVec 17) (val : Word) : (th.enterTrap xpc cause val).hslot = th.hslot := rfl
@[simp] theorem Thread.enterTrap_lix (th : Thread) (xpc : Word) (cause : BitVec 17) (val : Word) : (th.enterTrap xpc cause val).lix = th.lix := rfl
@[simp] theorem Thread.enterTrap_launch (th : Thread) (xpc : Word) (cause : BitVec 17) (val : Word) : (th.enterTrap xpc cause val).launch = th.launch := rfl
@[simp] theorem Thread.enterTrap_vlen (th : Thread) (xpc : Word) (cause : BitVec 17) (val : Word) : (th.enterTrap xpc cause val).vlen = th.vlen := rfl
@[simp] theorem Thread.enterTrap_frm (th : Thread) (xpc : Word) (cause : BitVec 17) (val : Word) : (th.enterTrap xpc cause val).frm = th.frm := rfl
@[simp] theorem Thread.enterTrap_fflags (th : Thread) (xpc : Word) (cause : BitVec 17) (val : Word) : (th.enterTrap xpc cause val).fflags = th.fflags := rfl
@[simp] theorem Thread.enterTrap_tfmt (th : Thread) (xpc : Word) (cause : BitVec 17) (val : Word) : (th.enterTrap xpc cause val).tfmt = th.tfmt := rfl
@[simp] theorem Thread.enterTrap_tscl (th : Thread) (xpc : Word) (cause : BitVec 17) (val : Word) : (th.enterTrap xpc cause val).tscl = th.tscl := rfl
@[simp] theorem Thread.enterTrap_held (th : Thread) (xpc : Word) (cause : BitVec 17) (val : Word) : (th.enterTrap xpc cause val).held = th.held := rfl
@[simp] theorem Thread.enterTrap_pkslot (th : Thread) (xpc : Word) (cause : BitVec 17) (val : Word) : (th.enterTrap xpc cause val).pkslot = th.pkslot := rfl
@[simp] theorem Thread.enterTrap_blim (th : Thread) (xpc : Word) (cause : BitVec 17) (val : Word) : (th.enterTrap xpc cause val).blim = th.blim := rfl
@[simp] theorem Thread.enterTrap_sig (th : Thread) (xpc : Word) (cause : BitVec 17) (val : Word) : (th.enterTrap xpc cause val).sig = th.sig := rfl
@[simp] theorem Thread.enterTrap_splim (th : Thread) (xpc : Word) (cause : BitVec 17) (val : Word) : (th.enterTrap xpc cause val).splim = th.splim := rfl
@[simp] theorem Thread.enterTrap_spov (th : Thread) (xpc : Word) (cause : BitVec 17) (val : Word) : (th.enterTrap xpc cause val).spov = th.spov := rfl
@[simp] theorem Thread.enterTrap_spovlim (th : Thread) (xpc : Word) (cause : BitVec 17) (val : Word) : (th.enterTrap xpc cause val).spovlim = th.spovlim := rfl
@[simp] theorem Thread.enterTrap_fetimeo (th : Thread) (xpc : Word) (cause : BitVec 17) (val : Word) : (th.enterTrap xpc cause val).fetimeo = th.fetimeo := rfl
@[simp] theorem Thread.enterTrap_feretry (th : Thread) (xpc : Word) (cause : BitVec 17) (val : Word) : (th.enterTrap xpc cause val).feretry = th.feretry := rfl
@[simp] theorem Thread.enterTrap_sndretry (th : Thread) (xpc : Word) (cause : BitVec 17) (val : Word) : (th.enterTrap xpc cause val).sndretry = th.sndretry := rfl
@[simp] theorem Thread.enterTrap_xvec (th : Thread) (xpc : Word) (cause : BitVec 17) (val : Word) : (th.enterTrap xpc cause val).xvec = th.xvec := rfl
@[simp] theorem Thread.enterTrap_wrote (th : Thread) (xpc : Word) (cause : BitVec 17) (val : Word) : (th.enterTrap xpc cause val).wrote = th.wrote := rfl
@[simp] theorem Thread.enterTrap_groups (th : Thread) (xpc : Word) (cause : BitVec 17) (val : Word) : (th.enterTrap xpc cause val).groups = th.groups := rfl
@[simp] theorem Thread.enterTrap_pend (th : Thread) (xpc : Word) (cause : BitVec 17) (val : Word) : (th.enterTrap xpc cause val).pend = th.pend := rfl
@[simp] theorem Thread.enterTrap_skip (th : Thread) (xpc : Word) (cause : BitVec 17) (val : Word) : (th.enterTrap xpc cause val).skip = th.skip := rfl
@[simp] theorem Thread.enterTrap_arrived (th : Thread) (xpc : Word) (cause : BitVec 17) (val : Word) : (th.enterTrap xpc cause val).arrived = th.arrived := rfl
@[simp] theorem Thread.enterTrap_waits (th : Thread) (xpc : Word) (cause : BitVec 17) (val : Word) : (th.enterTrap xpc cause val).waits = th.waits := rfl
@[simp] theorem Thread.enterTrap_fault (th : Thread) (xpc : Word) (cause : BitVec 17) (val : Word) : (th.enterTrap xpc cause val).fault = th.fault := rfl
@[simp] theorem Thread.enterTrap_sigLen (th : Thread) (xpc : Word) (cause : BitVec 17) (val : Word) : (th.enterTrap xpc cause val).sigLen = th.sigLen := rfl
@[simp] theorem Thread.enterTrap_copies (th : Thread) (xpc : Word) (cause : BitVec 17) (val : Word) : (th.enterTrap xpc cause val).copies = th.copies := rfl
@[simp] theorem Thread.enterTrap_carried (th : Thread) (xpc : Word) (cause : BitVec 17) (val : Word) : (th.enterTrap xpc cause val).carried = th.carried := rfl
@[simp] theorem Thread.leaveTrap_regs (th : Thread) : (th.leaveTrap).regs = th.regs := rfl
@[simp] theorem Thread.leaveTrap_full (th : Thread) : (th.leaveTrap).full = th.full := rfl
@[simp] theorem Thread.leaveTrap_home (th : Thread) : (th.leaveTrap).home = th.home := rfl
@[simp] theorem Thread.leaveTrap_hslot (th : Thread) : (th.leaveTrap).hslot = th.hslot := rfl
@[simp] theorem Thread.leaveTrap_lix (th : Thread) : (th.leaveTrap).lix = th.lix := rfl
@[simp] theorem Thread.leaveTrap_launch (th : Thread) : (th.leaveTrap).launch = th.launch := rfl
@[simp] theorem Thread.leaveTrap_vlen (th : Thread) : (th.leaveTrap).vlen = th.vlen := rfl
@[simp] theorem Thread.leaveTrap_frm (th : Thread) : (th.leaveTrap).frm = th.frm := rfl
@[simp] theorem Thread.leaveTrap_fflags (th : Thread) : (th.leaveTrap).fflags = th.fflags := rfl
@[simp] theorem Thread.leaveTrap_tfmt (th : Thread) : (th.leaveTrap).tfmt = th.tfmt := rfl
@[simp] theorem Thread.leaveTrap_tscl (th : Thread) : (th.leaveTrap).tscl = th.tscl := rfl
@[simp] theorem Thread.leaveTrap_held (th : Thread) : (th.leaveTrap).held = th.held := rfl
@[simp] theorem Thread.leaveTrap_pkslot (th : Thread) : (th.leaveTrap).pkslot = th.pkslot := rfl
@[simp] theorem Thread.leaveTrap_blim (th : Thread) : (th.leaveTrap).blim = th.blim := rfl
@[simp] theorem Thread.leaveTrap_sig (th : Thread) : (th.leaveTrap).sig = th.sig := rfl
@[simp] theorem Thread.leaveTrap_splim (th : Thread) : (th.leaveTrap).splim = th.splim := rfl
@[simp] theorem Thread.leaveTrap_spov (th : Thread) : (th.leaveTrap).spov = th.spov := rfl
@[simp] theorem Thread.leaveTrap_spovlim (th : Thread) : (th.leaveTrap).spovlim = th.spovlim := rfl
@[simp] theorem Thread.leaveTrap_fetimeo (th : Thread) : (th.leaveTrap).fetimeo = th.fetimeo := rfl
@[simp] theorem Thread.leaveTrap_feretry (th : Thread) : (th.leaveTrap).feretry = th.feretry := rfl
@[simp] theorem Thread.leaveTrap_sndretry (th : Thread) : (th.leaveTrap).sndretry = th.sndretry := rfl
@[simp] theorem Thread.leaveTrap_bankX (th : Thread) : (th.leaveTrap).bankX = th.bankX := rfl
@[simp] theorem Thread.leaveTrap_bankY (th : Thread) : (th.leaveTrap).bankY = th.bankY := rfl
@[simp] theorem Thread.leaveTrap_xvec (th : Thread) : (th.leaveTrap).xvec = th.xvec := rfl
@[simp] theorem Thread.leaveTrap_wrote (th : Thread) : (th.leaveTrap).wrote = th.wrote := rfl
@[simp] theorem Thread.leaveTrap_groups (th : Thread) : (th.leaveTrap).groups = th.groups := rfl
@[simp] theorem Thread.leaveTrap_pend (th : Thread) : (th.leaveTrap).pend = th.pend := rfl
@[simp] theorem Thread.leaveTrap_skip (th : Thread) : (th.leaveTrap).skip = th.skip := rfl
@[simp] theorem Thread.leaveTrap_rbuf (th : Thread) : (th.leaveTrap).rbuf = th.rbuf := rfl
@[simp] theorem Thread.leaveTrap_arrived (th : Thread) : (th.leaveTrap).arrived = th.arrived := rfl
@[simp] theorem Thread.leaveTrap_waits (th : Thread) : (th.leaveTrap).waits = th.waits := rfl
@[simp] theorem Thread.leaveTrap_fault (th : Thread) : (th.leaveTrap).fault = th.fault := rfl
@[simp] theorem Thread.leaveTrap_sigLen (th : Thread) : (th.leaveTrap).sigLen = th.sigLen := rfl
@[simp] theorem Thread.leaveTrap_copies (th : Thread) : (th.leaveTrap).copies = th.copies := rfl
@[simp] theorem Thread.leaveTrap_carried (th : Thread) : (th.leaveTrap).carried = th.carried := rfl

@[simp] theorem Thread.retire_park (th : Thread) (n : Nat) : (th.retire n).park = none := rfl
@[simp] theorem Thread.jump_park (th : Thread) (t : Word) : (th.jump t).park = none := rfl
@[simp] theorem Thread.jump_pc (th : Thread) (t : Word) : (th.jump t).pc = t := rfl

/-! ### Registers and predicates read back -/

@[simp] theorem Thread.reg_zero (th : Thread) : th.reg 0 = 0 := rfl
@[simp] theorem Thread.isFull_zero (th : Thread) : th.isFull 0 = true := rfl
@[simp] theorem Thread.setReg_zero (th : Thread) (v : Word) : th.setReg 0 v = th := rfl

theorem Thread.reg_setReg_self (th : Thread) {r : Reg} (v : Word) (h : r ≠ 0) : (th.setReg r v).reg r = v := by
  simp [Thread.setReg, Thread.reg, h]
theorem Thread.reg_setReg_ne (th : Thread) {r q : Reg} (v : Word) (h : q ≠ r) : (th.setReg r v).reg q = th.reg q := by
  have h' : r.val ≠ q.val := fun e => h (Fin.ext e.symm)
  by_cases hr : r = 0 <;> simp [Thread.setReg, Thread.reg, hr, Vector.getElem_set_ne, h']

theorem regBit_getLsbD (r q : Reg) : (regBit r).getLsbD q.val = decide (q = r) := by
  revert r q; decide
theorem regBit_getElem (r q : Reg) : (regBit r)[q.val] = decide (q = r) := regBit_getLsbD r q

theorem Thread.isFull_setReg_self (th : Thread) (r : Reg) (v : Word) : (th.setReg r v).isFull r = true := by
  unfold Thread.setReg Thread.isFull
  split <;> simp_all [regBit_getElem]
theorem Thread.isFull_setReg_ne (th : Thread) {r q : Reg} (v : Word) (h : q ≠ r) :
    (th.setReg r v).isFull q = th.isFull q := by
  unfold Thread.setReg Thread.isFull
  split <;> simp_all [regBit_getElem]

@[simp] theorem Thread.reg_retire (th : Thread) (n : Nat) (r : Reg) : (th.retire n).reg r = th.reg r := rfl
@[simp] theorem Thread.isFull_retire (th : Thread) (n : Nat) (r : Reg) : (th.retire n).isFull r = th.isFull r := rfl
@[simp] theorem Thread.pred_retire (th : Thread) (n : Nat) (q : Pred) : (th.retire n).pred q = th.pred q := rfl
@[simp] theorem Thread.reg_setPred (th : Thread) (q : Pred) (b : Bool) (r : Reg) : (th.setPred q b).reg r = th.reg r := rfl
@[simp] theorem Thread.isFull_setPred (th : Thread) (q : Pred) (b : Bool) (r : Reg) :
    (th.setPred q b).isFull r = th.isFull r := rfl

theorem Thread.pred_setPred_self (th : Thread) (q : Pred) (b : Bool) : (th.setPred q b).pred q = b := by
  have h := q.isLt
  cases b <;> simp [Thread.setPred, Thread.pred]
theorem Thread.pred_setPred_ne (th : Thread) {q p : Pred} (b : Bool) (h : p ≠ q) : (th.setPred q b).pred p = th.pred p := by
  have hp := p.isLt
  have h' : p.val ≠ q.val := fun e => h (Fin.ext e)
  cases b <;> simp [Thread.setPred, Thread.pred] <;> omega

/-! ### Reading registers, completing, parking -/

/-- All source registers full: the instruction goes on with its thread (13 R246). -/
theorem State.withRegs_full (s : State) {rs : List Reg} (k : Thread → Out) (h : ∀ r ∈ rs, s.me.isFull r = true) :
    s.withRegs rs k = k s.me := by
  have : rs.all s.me.isFull = true := List.all_eq_true.mpr h
  simp [State.withRegs, this]

/-- An empty source register: the thread parks with nothing else done (13 R246). -/
theorem State.withRegs_empty (s : State) {rs : List Reg} (k : Thread → Out) (h : ∃ r ∈ rs, s.me.isFull r = false) :
    s.withRegs rs k = .next (s.park s.me (.empty (s.me.emptyMask rs))) := by
  have : rs.all s.me.isFull = false := List.all_eq_false.mpr (by obtain ⟨r, hr, e⟩ := h; exact ⟨r, hr, by simp [e]⟩)
  simp [State.withRegs, this]

/-- What reading registers can do: go on, or park. -/
theorem State.withRegs_cases (s : State) (rs : List Reg) (k : Thread → Out) :
    (∀ r ∈ rs, s.me.isFull r = true) ∧ s.withRegs rs k = k s.me
    ∨ s.withRegs rs k = .next (s.park s.me (.empty (s.me.emptyMask rs))) := by
  by_cases h : ∀ r ∈ rs, s.me.isFull r = true
  · exact .inl ⟨h, s.withRegs_full k h⟩
  · refine .inr (s.withRegs_empty k ?_)
    simpa using h

theorem State.regOp_full (s : State) {rs : List Reg} (rd : Reg) (f : Thread → Word) (h : ∀ r ∈ rs, s.me.isFull r = true) :
    s.regOp rs rd f = s.done (s.me.setReg rd (f s.me)) := s.withRegs_full _ h

theorem State.predOp_full (s : State) {rs : List Reg} (qd : Pred) (f : Thread → Bool)
    (h : ∀ r ∈ rs, s.me.isFull r = true) : s.predOp rs qd f = s.done (s.me.setPred qd (f s.me)) := s.withRegs_full _ h

/-- A register instruction completes or parks, nothing else. -/
theorem State.regOp_cases (s : State) (rs : List Reg) (rd : Reg) (f : Thread → Word) :
    s.regOp rs rd f = s.done (s.me.setReg rd (f s.me)) ∨ s.regOp rs rd f = .next (s.park s.me (.empty (s.me.emptyMask rs))) :=
  (s.withRegs_cases rs _).imp And.right id

theorem State.predOp_cases (s : State) (rs : List Reg) (qd : Pred) (f : Thread → Bool) :
    s.predOp rs qd f = s.done (s.me.setPred qd (f s.me))
    ∨ s.predOp rs qd f = .next (s.park s.me (.empty (s.me.emptyMask rs))) :=
  (s.withRegs_cases rs _).imp And.right id

end Sys2Proof.Machine
end

