-- ==== Sys2Proof/Laws/Memory.lean ====
section
/-!
SUPPORT. Memories: every operation keeps the canonical form, and a read after a write gives what was written or what was
there before.
-/
namespace Sys2Proof.Machine

/-! ### The canonical form -/

theorem Memory.wf_nil : Memory.wf [] := ⟨.nil, by simp⟩

/-- Leaving out entries keeps the form (Memory.set with an unlisted byte, the zero fill of a launch). -/
theorem Memory.wf_filter {m : Memory} (p : Host.Cell → Bool) (h : m.wf) : Memory.wf (m.filter p) :=
  ⟨h.1.filter p, fun c hc => h.2 c (List.mem_filter.mp hc).1⟩

theorem Memory.mem_insert {m : Memory} {a : Nat} {b : Byte} {c : Host.Cell} (h : c ∈ Memory.insert m a b) :
    c = (a, b) ∨ c ∈ m := by
  induction m with
  | nil => simpa [Memory.insert] using h
  | cons d m ih =>
    unfold Memory.insert at h
    split at h
    · simpa using h
    · split at h
      · simp only [List.mem_cons] at h ⊢; tauto
      · simp only [List.mem_cons] at h ⊢
        rcases h with h | h
        · exact .inr (.inl h)
        · exact (ih h).imp id .inr

theorem Memory.wf_insert {m : Memory} (a : Nat) {b : Byte} (hb : b ≠ Memory.unlisted) (h : m.wf) :
    Memory.wf (Memory.insert m a b) := by
  refine ⟨?_, fun c hc => ?_⟩
  · have h := h.1
    induction m with
    | nil => simp [Memory.insert]
    | cons d m ih =>
      have ⟨hd, hm⟩ := List.pairwise_cons.mp h
      unfold Memory.insert
      split
      · rename_i hlt
        refine List.pairwise_cons.mpr ⟨fun c hc => ?_, h⟩
        rcases List.mem_cons.mp hc with rfl | hc
        · exact hlt
        · exact Nat.lt_trans hlt (hd c hc)
      · split
        · rename_i he
          exact List.pairwise_cons.mpr ⟨fun c hc => by simpa [he] using hd c hc, hm⟩
        · refine List.pairwise_cons.mpr ⟨fun c hc => ?_, ih ⟨hm, fun c hc => ‹Memory.wf _›.2 c (.tail _ hc)⟩ hm⟩
          rcases Memory.mem_insert hc with rfl | hc
          · simp only; omega
          · exact hd c hc
  · rcases Memory.mem_insert hc with rfl | hc
    · exact hb
    · exact h.2 c hc

theorem Memory.wf_set {m : Memory} (a : Nat) (b : Byte) (h : m.wf) : Memory.wf (m.set a b) := by
  unfold Memory.set
  split
  · exact Memory.wf_filter _ h
  · exact Memory.wf_insert a ‹_› h

theorem Memory.wf_setBytes {m : Memory} (a : Nat) (bs : List Byte) (h : m.wf) : Memory.wf (m.setBytes a bs) := by
  induction bs generalizing m a with
  | nil => exact h
  | cons b bs ih => exact ih _ (Memory.wf_set a b h)

theorem Memory.wf_write {m : Memory} (a n v : Nat) (h : m.wf) : Memory.wf (m.write a n v) := Memory.wf_setBytes a _ h

/-! ### Reading back -/

theorem Memory.get_filter_self (m : Memory) (a : Nat) :
    Memory.get (m.filter (fun c => c.1 != a)) a = Memory.unlisted := by
  induction m with
  | nil => rfl
  | cons c m ih =>
    by_cases h : c.1 = a <;> simp [h, Memory.get, ih]

theorem Memory.get_filter_ne (m : Memory) {a x : Nat} (h : x ≠ a) :
    Memory.get (m.filter (fun c => c.1 != a)) x = m.get x := by
  induction m with
  | nil => rfl
  | cons c m ih =>
    by_cases hc : c.1 = a
    · simp [hc, Memory.get, ih, h.symm]
    · simp [hc, Memory.get, ih]

theorem Memory.get_insert_self (m : Memory) (a : Nat) (b : Byte) : (Memory.insert m a b).get a = b := by
  induction m with
  | nil => simp [Memory.insert, Memory.get]
  | cons c m ih =>
    unfold Memory.insert
    split
    · simp [Memory.get]
    · split
      · simp [Memory.get]
      · rename_i hc; simp [Memory.get, hc, ih]

theorem Memory.get_insert_ne (m : Memory) {a x : Nat} (b : Byte) (h : x ≠ a) : (Memory.insert m a b).get x = m.get x := by
  induction m with
  | nil => simp [Memory.insert, Memory.get, h.symm]
  | cons c m ih =>
    unfold Memory.insert
    split
    · simp [Memory.get, h.symm]
    · split
      · rename_i hc; simp [Memory.get, hc, h.symm]
      · simp [Memory.get, ih]

@[simp] theorem Memory.get_set_self (m : Memory) (a : Nat) (b : Byte) : (m.set a b).get a = b := by
  unfold Memory.set
  split
  · subst_vars; exact m.get_filter_self a
  · exact m.get_insert_self a b

theorem Memory.get_set_ne (m : Memory) {a x : Nat} (b : Byte) (h : x ≠ a) : (m.set a b).get x = m.get x := by
  unfold Memory.set
  split
  · exact m.get_filter_ne h
  · exact m.get_insert_ne b h

/-- A write leaves every byte outside it alone. -/
theorem Memory.get_setBytes_out (m : Memory) (a : Nat) (bs : List Byte) {x : Nat} (h : x < a ∨ a + bs.length ≤ x) :
    (m.setBytes a bs).get x = m.get x := by
  induction bs generalizing m a with
  | nil => rfl
  | cons b bs ih =>
    simp only [List.length_cons] at h
    rw [Memory.setBytes, ih _ (a + 1) (by omega), m.get_set_ne b (by omega)]

/-- A read after a write gives what was written. -/
theorem Memory.get_setBytes_in (m : Memory) (a : Nat) (bs : List Byte) {i : Nat} (h : i < bs.length) :
    (m.setBytes a bs).get (a + i) = bs[i] := by
  induction bs generalizing m a i with
  | nil => simp at h
  | cons b bs ih =>
    rw [Memory.setBytes]
    cases i with
    | zero => rw [Memory.get_setBytes_out _ _ _ (by omega)]; simp
    | succ i =>
      have := ih (m.set a b) (a + 1) (i := i) (by simpa using h)
      rw [show a + (i + 1) = a + 1 + i by omega, this, List.getElem_cons_succ]

theorem Memory.bytes_length (m : Memory) (a n : Nat) : (m.bytes a n).length = n := by
  induction n generalizing a with
  | zero => rfl
  | succ n ih => simp [Memory.bytes, ih]

theorem Memory.bytes_setBytes_before (m : Memory) (a : Nat) (bs : List Byte) {x n : Nat} (h : x + n ≤ a) :
    (m.setBytes a bs).bytes x n = m.bytes x n := by
  induction n generalizing x with
  | zero => rfl
  | succ n ih =>
    rw [Memory.bytes, Memory.bytes, ih (by omega), m.get_setBytes_out a bs (by omega)]

theorem Memory.bytes_setBytes (m : Memory) (a : Nat) (bs : List Byte) : (m.setBytes a bs).bytes a bs.length = bs := by
  induction bs generalizing m a with
  | nil => rfl
  | cons b bs ih =>
    rw [List.length_cons, Memory.bytes, Memory.setBytes, ih, Memory.get_setBytes_out _ _ _ (by omega), Memory.get_set_self]

theorem leBytes_length (n v : Nat) : (leBytes n v).length = n := by
  induction n generalizing v with
  | zero => rfl
  | succ n ih => simp [leBytes, ih]

/-- The bytes of a number spell the number, cut to their width. -/
theorem leNat_leBytes (n v : Nat) : leNat (leBytes n v) = v % 256 ^ n := by
  induction n generalizing v with
  | zero => simp [leBytes, leNat, Nat.mod_one]
  | succ n ih =>
    have : v % 256 ^ (n + 1) = v % 256 + 256 * (v / 256 % 256 ^ n) := by
      rw [Nat.pow_succ, Nat.mul_comm, Nat.mod_mul]
    simp [leBytes, leNat, ih, this]

/-- A number written is read back, cut to its width. -/
theorem Memory.read_write (m : Memory) (a n v : Nat) : (m.write a n v).read a n = v % 256 ^ n := by
  have := m.bytes_setBytes a (leBytes n v)
  rw [leBytes_length] at this
  rw [Memory.read, Memory.write, this, leNat_leBytes]

/-! ### The writes of pools, cellar and host -/

@[simp] theorem State.poolWrite_pool (s : State) (k : TileId) (off : Nat) (bs : List Byte) :
    ((s.poolWrite k off bs).tile k).c.pool = (s.tile k).c.pool.setBytes off bs := by
  simp [State.poolWrite]

@[simp] theorem State.threadWrite_pool (s : State) (k : TileId) (off : Nat) (bs : List Byte) :
    ((s.threadWrite k off bs).tile k).c.pool = (s.tile k).c.pool.setBytes off bs := by
  simp [State.threadWrite]

theorem State.poolWrite_tile_ne (s : State) {k k' : TileId} (off : Nat) (bs : List Byte) (h : k' ≠ k) :
    (s.poolWrite k off bs).tile k' = s.tile k' := by
  simp [State.poolWrite, s.tile_setTile_ne _ h]

theorem State.threadWrite_tile_ne (s : State) {k k' : TileId} (off : Nat) (bs : List Byte) (h : k' ≠ k) :
    (s.threadWrite k off bs).tile k' = s.tile k' := by
  simp [State.threadWrite, State.tile_setCtx_ne _ _ h, s.poolWrite_tile_ne off bs h]

@[simp] theorem State.threadWrite_cellar (s : State) (k : TileId) (off : Nat) (bs : List Byte) :
    (s.threadWrite k off bs).cellar = s.cellar := rfl
@[simp] theorem State.threadWrite_host (s : State) (k : TileId) (off : Nat) (bs : List Byte) :
    (s.threadWrite k off bs).host = s.host := rfl
@[simp] theorem State.threadWrite_cur (s : State) (k : TileId) (off : Nat) (bs : List Byte) :
    (s.threadWrite k off bs).cur = s.cur := rfl

/-- A write of bytes into a pool keeps the pool's canonical form. -/
theorem State.wf_poolWrite (s : State) (k : TileId) (off : Nat) (bs : List Byte) (h : (s.tile k).c.pool.wf) :
    Memory.wf ((s.poolWrite k off bs).tile k).c.pool := by
  rw [State.poolWrite_pool]; exact Memory.wf_setBytes off bs h

theorem State.wf_threadWrite (s : State) (k : TileId) (off : Nat) (bs : List Byte) (h : (s.tile k).c.pool.wf) :
    Memory.wf ((s.threadWrite k off bs).tile k).c.pool := by
  rw [State.threadWrite_pool]; exact Memory.wf_setBytes off bs h

theorem State.wf_cellarWrite (s : State) (pa : Nat) (bs : List Byte) (h : s.cellar.wf) :
    Memory.wf (s.cellarWrite pa bs).cellar := by
  unfold State.cellarWrite; exact Memory.wf_setBytes pa bs h

theorem State.wf_hostWrite (s : State) (a : Nat) (bs : List Byte) (h : s.host.wf) :
    Memory.wf (s.hostWrite a bs).host := Memory.wf_setBytes a bs h

/-- The memories after reset list nothing. -/
theorem reset_wf : Memory.wf State.reset.cellar ∧ Memory.wf State.reset.host ∧ State.reset.tiles = [] :=
  ⟨Memory.wf_nil, Memory.wf_nil, rfl⟩

/-! ### Sorting -/

theorem insertBy_perm {α : Type} (le : α → α → Bool) (x : α) (l : List α) : (insertBy le x l).Perm (x :: l) := by
  induction l with
  | nil => exact List.Perm.refl _
  | cons y ys ih =>
    unfold insertBy
    split
    · exact List.Perm.refl _
    · exact (ih.cons y).trans (List.Perm.swap x y ys)

/-- Sorting loses and invents nothing. -/
theorem sortBy_perm {α : Type} (le : α → α → Bool) (l : List α) : (sortBy le l).Perm l := by
  induction l with
  | nil => exact List.Perm.refl _
  | cons x xs ih => exact (insertBy_perm le x _).trans (ih.cons x)

@[simp] theorem mem_sortBy {α : Type} (le : α → α → Bool) (l : List α) (x : α) : x ∈ sortBy le l ↔ x ∈ l :=
  (sortBy_perm le l).mem_iff

@[simp] theorem length_sortBy {α : Type} (le : α → α → Bool) (l : List α) : (sortBy le l).length = l.length :=
  (sortBy_perm le l).length_eq

end Sys2Proof.Machine
end

