-- ==== Sys2Proof/Machine/Ordering.lean ====
section
/-!
DEFINITION. The memory ordering of chapter 8 (R168 to R177) as a check of candidate executions: events, scopes, preserved program order,
synchronises-with, happens-before and the axioms LC1 to LC4. The machine takes one allowed execution (log 7); this says which
executions of several threads are allowed at all. An engine operation stands as its issue, its accesses and its completion.
-/
namespace Sys2Proof.Order

/-- A location (R168): a byte by its one identity, or a word no part of which is named alone; registers; the full/empty bit beside it. -/
inductive Loc where
  | pool (tile off : Nat)
  | cellar (pa : Nat)
  | host (pa : Nat)
  | shared (tile n : Nat)
  | greg (thread r : Nat)
  | fe (of : Loc)
  deriving DecidableEq, Repr

/-- Who performs an event: a thread, an engine or merge unit or front end, the host, the command processor for a queue, a span peer. -/
inductive Agent where
  | thread (n : Nat)
  | unit
  | host
  | command (queue : Nat)
  | peer (n : Nat)
  deriving DecidableEq, Repr

inductive FenceKind where
  | acq | rel | full
  deriving DecidableEq, Repr

inductive Scope where
  | tile | cluster | partition | system
  deriving DecidableEq, Repr

/-- What an event is (R168). A number joins what belongs together: a message, a barrier episode, a reduction, a merge round with
a contributor, a collective round, an engine operation, a launch. -/
inductive Act where
  | load | store
  | ldc | ldf | stp | stf | femt | fest
  /-- a read of a filled register, RFILL, REMPTY -/
  | regRead | rfill | rempty
  | amo (acq rel : Bool)
  | fence (k : FenceKind) (scope : Scope)
  | issue (op : Nat) | engine (op : Nat) | complete (op : Nat)
  /-- DRAIN or another completion wait, with the operations that were pending at its issue -/
  | await (ops : List Nat)
  | send (m : Nat) | recv (m : Nat)
  | arrive (episode : Nat) | depart (episode : Nat)
  | red (n : Nat) | redg (n : Nat)
  | bsend (round id : Nat) | bwait (round id : Nat) | commit (round : Nat) | bclose (round : Nat)
  | chunk (round : Nat) | colwait (round : Nat) (aborted : Bool)
  | population (launch : Nat) | record (launch : Nat)
  /-- a host access through an inbound window (R27); a SIGNAL's write; the read that satisfies a WAIT (R63) -/
  | access (window : Nat) | signal | wait
  deriving DecidableEq, Repr

/-- An event: its agent, the cycle in which it is performed, its launch, and what it reads and writes. -/
structure Ev where
  agent : Agent
  act : Act
  reads : List (Loc × Nat) := []
  writes : List (Loc × Nat) := []
  launch : Nat := 0
  cycle : Nat := 0
  deriving DecidableEq, Repr

/-- Where a thread stands from a cycle on: its partition, tile and slot. -/
structure Stay where
  thread : Nat
  since : Nat
  part : Nat
  tile : Nat
  slot : Nat
  deriving DecidableEq, Repr

/-- A candidate execution. The events of one thread stand in program order (R169), those of one queue in queue order, the accesses of the host in
issue order. `stays` has the places of the threads, the latest first; `init` the initial writes of a launch, 0 where it has none; `rf` gives
the write a read takes its value from, none the initial write; `so` orders the synchronising events and AMOs of a word (R174). -/
structure Execution where
  evs : List Ev
  rf : List (Nat × Loc × Option Nat)
  so : List (Loc × List Nat) := []
  stays : List Stay := []
  init : List ((Nat × Loc) × Nat) := []
  deriving DecidableEq, Repr

def nothing : Ev := { agent := .unit, act := .load }

namespace Execution
variable (x : Execution)

def ev (i : Nat) : Ev := x.evs.getD i nothing

def all : List Nat := List.range x.evs.length

/-- Program order (R169). -/
def po (a b : Nat) : Bool :=
  decide (a < b) && (match (x.ev a).agent with | .thread n => (x.ev b).agent == .thread n | _ => false)

/-- The place of a thread in a cycle. -/
def place (n cycle : Nat) : Option Stay := x.stays.find? (fun s => s.thread == n && decide (s.since ≤ cycle))

/-- The scope of a fence of thread `n`, performed in that cycle, contains an agent (R171). -/
def contains (sc : Scope) (n cycle : Nat) (a : Agent) : Bool :=
  match x.place n cycle, a with
  | none, _ => false
  | some p, .thread m =>
    match x.place m cycle with
    | none => false
    | some q =>
      p.part == q.part && (match sc with
        | .tile => p.tile == q.tile
        | .cluster => p.tile / 32 == q.tile / 32
        | .partition => true
        | .system => true)
  | some _, .unit => false
  | some _, _ => sc == .system

/-- The scope of fence `f` contains the agents of events `a` and `b`. -/
def scopeHas (f a b : Nat) : Bool :=
  match (x.ev f).act, (x.ev f).agent with
  | .fence _ sc, .thread n => [a, b].all (fun e => x.contains sc n (x.ev f).cycle (x.ev e).agent)
  | _, _ => false

/-- The place of a fence in the fence order: its cycle, its LTN, its slot (R173). -/
def fenceKey (f : Nat) : Nat × Nat × Nat :=
  match (x.ev f).agent with
  | .thread n => match x.place n (x.ev f).cycle with
    | some p => ((x.ev f).cycle, p.tile, p.slot)
    | none => ((x.ev f).cycle, 0, 0)
  | _ => ((x.ev f).cycle, 0, 0)

end Execution

/-- Implicit releases (R170). -/
def Act.releases (a : Act) : Bool :=
  match a with
  | .stp | .stf | .rfill | .send _ | .arrive _ | .red _ | .bsend _ _ | .chunk _ | .issue _ => true
  | .amo _ rel => rel
  | _ => false

/-- Implicit acquires (R170). -/
def Act.acquires (a : Act) : Bool :=
  match a with
  | .ldc | .ldf | .regRead | .recv _ | .depart _ | .redg _ | .bwait _ _ | .bclose _ | .colwait _ _ | .await _ => true
  | .amo acq _ => acq
  | _ => false

def Act.fenceRel (a : Act) : Bool := match a with | .fence k _ => k != .acq | _ => false
def Act.fenceAcq (a : Act) : Bool := match a with | .fence k _ => k != .rel | _ => false
def Act.fenceFull (a : Act) : Bool := match a with | .fence k _ => k == .full | _ => false

/-- Synchronising events and AMOs: those that so orders (R168, R174). -/
def Act.syncs (a : Act) : Bool :=
  match a with
  | .ldc | .ldf | .stp | .stf | .femt | .fest | .regRead | .rfill | .rempty | .amo _ _ => true
  | _ => false

def Loc.isCellar (l : Loc) : Bool := match l with | .cellar _ => true | _ => false
def Loc.isFe (l : Loc) : Bool := match l with | .fe _ => true | _ => false

/-- The word beside a full/empty bit, or the location itself. -/
def Loc.word (l : Loc) : Loc := match l with | .fe l => l | l => l

/-- A space-0x4 load. -/
def Ev.cellarLoad (e : Ev) : Bool := e.act == .load && e.reads.any (fun r => r.1.isCellar)

def Ev.isStore (e : Ev) : Bool := match e.act with | .store | .stp | .stf => true | _ => false

/-- The event accesses word `l` or its full/empty bit. -/
def Ev.on (e : Ev) (l : Loc) : Bool := (e.reads ++ e.writes).any (fun r => r.1.word == l)

/-- A common location that one of them writes (R172 item 1). -/
def conflict (a b : Ev) : Bool :=
  a.writes.any (fun w => b.writes.any (fun v => v.1 == w.1) || b.reads.any (fun r => r.1 == w.1))
    || a.reads.any (fun r => b.writes.any (fun w => w.1 == r.1))

/-- Preserved program order (R172). -/
def Execution.ppo (x : Execution) (a b : Nat) : Bool :=
  let e := x.ev a
  let f := x.ev b
  x.po a b && (conflict e f || f.act.releases || f.act.fenceRel || e.act.fenceAcq
    || (e.act.acquires && (!f.cellarLoad || (match e.act with | .depart _ => true | _ => false)))
    || (e.isStore && (match f.act with | .issue _ => true | _ => false)))

/-- The order of the host's accesses through one window (02 R27), and of the commands of a queue about a SIGNAL or WAIT (03 R63). -/
def Execution.systemOrder (x : Execution) (a b : Nat) : Bool :=
  decide (a < b) && (match (x.ev a).act, (x.ev b).act with
    | .access v, .access w => v == w && (x.ev a).agent == .host && (x.ev b).agent == .host
    | .wait, _ => (match (x.ev a).agent with | .command _ => (x.ev a).agent == (x.ev b).agent | _ => false)
    | _, .signal => (match (x.ev a).agent with | .command _ => (x.ev a).agent == (x.ev b).agent | _ => false)
    | _, _ => false)

/-- The write that a read of a location takes its value from. -/
def Execution.from? (x : Execution) (r : Nat) (l : Loc) : Option (Option Nat) :=
  (x.rf.find? (fun e => e.1 == r && e.2.1 == l)).map (fun e => e.2.2)

/-- Event `b` reads something that event `a` wrote. -/
def Execution.readsFrom (x : Execution) (b a : Nat) : Bool :=
  x.rf.any (fun e => e.1 == b && e.2.2 == some a)

/-- Writes with a release of the command processor: completion records (03 R52) and SIGNALs (R63). -/
def Act.systemRelease (a : Act) : Bool := match a with | .record _ => true | .signal => true | _ => false

/-- Synchronises-with among the system events (R173, last row): who observes a completion record or a SIGNAL, and the release that a WAIT
reads from: a SIGNAL, a release store or AMO of a thread, a host write. A thread observes with an acquire of its own, or with a fence after
its read whose scope holds the command processor; a thread's plain store is released by such a fence before it (DEDUCED: log 7). -/
def Execution.systemSw (x : Execution) (a b : Nat) : Bool :=
  let e := x.ev a
  let f := x.ev b
  (e.act.systemRelease && x.readsFrom b a && (match f.agent with | .thread _ => f.act.acquires | _ => true))
    || (e.act.systemRelease && f.act.fenceAcq && x.scopeHas b a b && x.all.any (fun r => x.readsFrom r a && x.po r b))
    || (f.act == .wait && x.readsFrom b a && (match e.act with
        | .stp | .stf => true
        | .amo _ rel => rel
        | .access _ => true
        | _ => false))
    || (f.act == .wait && e.act.fenceRel && x.scopeHas a a b && x.all.any (fun w => x.po a w && x.readsFrom b w))

/-- Synchronises-with (R173). -/
def Execution.sw (x : Execution) (a b : Nat) : Bool :=
  let e := x.ev a
  let f := x.ev b
  (match e.act, f.act with
   | .stp, .ldc | .stp, .ldf | .stf, .ldc | .stf, .ldf | .stp, .amo true _ | .stf, .amo true _ | .amo _ true, .ldc
   | .amo _ true, .ldf | .amo _ true, .amo true _ => x.readsFrom b a
   | .send m, .recv k => m == k
   | .rfill, .regRead => x.readsFrom b a && !x.all.any (fun c => x.po c b && (x.ev c).act == .regRead && x.readsFrom c a)
   | .arrive m, .depart k => m == k
   | .red m, .redg k => m == k
   | .bsend r i, .bwait q j => r == q && i == j
   | .commit r, .bclose q => r == q
   | .chunk r, .colwait q aborted => r == q && !aborted
   | .complete op, .await ops => ops.contains op
   | .population l, _ => l == f.launch && (match f.agent with | .thread _ => true | _ => false) && !x.all.any (fun c => x.po c b)
   | _, .record l =>
     l == e.launch && (match e.act, e.agent with
       | .complete _, _ => true
       | _, .thread _ => !x.all.any (fun c => x.po a c)
       | _, _ => false)
   | _, _ => false)
  || (e.act.fenceRel && f.act.fenceAcq && x.scopeHas a a b && x.scopeHas b a b
      && x.all.any (fun w => x.po a w && x.all.any (fun r => x.readsFrom r w && x.po r b)))
  || (e.act.fenceFull && f.act.fenceFull && x.scopeHas a a b && x.scopeHas b a b
      && (let p := x.fenceKey a; let q := x.fenceKey b
          decide (p.1 < q.1) || p.1 == q.1 && (decide (p.2.1 < q.2.1) || p.2.1 == q.2.1 && decide (p.2.2 < q.2.2))))
  || x.systemSw a b

/-- What LC4 adds: an engine operation's accesses lie after everything before its issue, and before its completion. -/
def Execution.engineOrder (x : Execution) (a b : Nat) : Bool :=
  match (x.ev a).act, (x.ev b).act with
  | .engine p, .complete q => p == q
  | _, .engine p => x.all.any (fun i => (x.ev i).act == .issue p && (a == i || x.po a i))
  | _, _ => false

/-- One event before another in the order of one word; contained in hb (R174). -/
def Execution.soOrder (x : Execution) (a b : Nat) : Bool :=
  x.so.any (fun l => l.2.contains a && l.2.contains b && decide (l.2.idxOf a < l.2.idxOf b))

/-- The transitive closure of a relation on events below `n`, by intermediate events. -/
def closure (n : Nat) (r : Nat → Nat → Bool) : List (Nat × Nat) :=
  let pairs := (List.range n).flatMap (fun a => ((List.range n).filter (r a)).map (fun b => (a, b)))
  (List.range n).foldl (fun es k =>
    let into := (es.filter (fun e => e.2 == k)).map Prod.fst
    let out := (es.filter (fun e => e.1 == k)).map Prod.snd
    let new := into.flatMap (fun a => out.map (fun b => (a, b)))
    new.foldl (fun es e => if es.contains e then es else e :: es) es) pairs

/-- Happens-before (R174). -/
def Execution.hb (x : Execution) : List (Nat × Nat) :=
  closure x.evs.length (fun a b => x.ppo a b || x.sw a b || x.engineOrder a b || x.soOrder a b || x.systemOrder a b)

/-- The initial write of a location for an event: its content when the population of the event's launch completed (R174). -/
def Execution.initial (x : Execution) (launch : Nat) (l : Loc) : Nat := (x.init.lookup (launch, l)).getD 0

/-- Every read takes the value of the write it reads from or of the initial write; the order of each word holds every synchronising event and
AMO of it, once; no two fences have one place in the fence order. -/
def Execution.wellFormed (x : Execution) : Bool :=
  x.all.all (fun i => (x.ev i).reads.all (fun r =>
    match x.from? i r.1 with
    | some none => r.2 == x.initial (x.ev i).launch r.1
    | some (some w) => (x.ev w).writes.contains r
    | none => false))
  && x.so.all (fun o => o.2 == o.2.dedup && o.2.all (fun i => (x.ev i).act.syncs && (x.ev i).on o.1))
  && x.all.all (fun i => !(x.ev i).act.syncs || ((x.ev i).reads ++ (x.ev i).writes).all (fun r =>
    (x.so.filter (fun o => o.1 == r.1.word)).length == 1 && x.so.any (fun o => o.1 == r.1.word && o.2.contains i)))
  && x.all.all (fun i => x.all.all (fun j =>
    i == j || !(x.ev i).act.fenceFull || !(x.ev j).act.fenceFull || x.fenceKey i != x.fenceKey j))

/-- The initial write of event `r`'s launch is hb-before write `w`: it is hb-before every event of the launch (R174). -/
def Execution.initBefore (x : Execution) (hb : List (Nat × Nat)) (r w : Nat) : Bool :=
  let n := (x.ev r).launch
  (x.ev w).launch == n || hb.any (fun e => e.2 == w && (x.ev e.1).launch == n)

/-- Write `w` is hb-before the initial write of event `r`'s launch. -/
def Execution.beforeInit (x : Execution) (hb : List (Nat × Nat)) (r w : Nat) : Bool :=
  hb.any (fun e => e.1 == w && (x.ev e.2).act == .population (x.ev r).launch)

def Execution.writers (x : Execution) (l : Loc) : List Nat := x.all.filter (fun w => (x.ev w).writes.any (fun v => v.1 == l))

/-- The content of a location when the population of launch `n` completed is what a read then could return (R174). -/
def Execution.settled (x : Execution) (hb : List (Nat × Nat)) (n : Nat) (l : Loc) : Bool :=
  match x.all.find? (fun p => (x.ev p).act == .population n) with
  | none => true
  | some p =>
    let before := (x.writers l).filter (fun w => hb.contains (w, p))
    before.isEmpty || (x.writers l).any (fun w =>
      (x.ev w).writes.contains (l, x.initial n l) && !hb.contains (p, w) && !before.any (fun u => hb.contains (w, u)))

/-- LC1 (R175). -/
def Execution.lc1 (x : Execution) : Bool :=
  let hb := x.hb
  x.rf.all (fun e =>
    let writers := (x.writers e.2.1).filter (fun w => w != e.1)
    match e.2.2 with
    | none => x.settled hb (x.ev e.1).launch e.2.1 && !writers.any (fun w => hb.contains (w, e.1) && x.initBefore hb e.1 w)
    | some w => !hb.contains (e.1, w) && !x.beforeInit hb e.1 w && !writers.any (fun v => hb.contains (w, v) && hb.contains (v, e.1)))

/-- LC2 (R175) for one word: each event sees the FE state that the ones before it left, and takes the word's value from the last of them that
wrote it or the initial write, or from a plain write, which LC1 rules (DEDUCED: log 7). -/
def Execution.sees (x : Execution) (l : Loc) (order : List Nat) (last fe : Option Nat) : Bool :=
  match order with
  | [] => true
  | i :: rest =>
    let e := x.ev i
    let src (loc : Loc) (prev : Option Nat) (plain : Bool) : Bool :=
      !e.reads.any (fun r => r.1 == loc)
        || (match x.from? i loc with
            | some (some w) => some w == prev || (plain && !(x.ev w).act.syncs)
            | some none => prev == none
            | none => false)
    let next (loc : Loc) (prev : Option Nat) : Option Nat := if e.writes.any (fun w => w.1 == loc) then some i else prev
    src l last true && src (.fe l) fe false && x.sees l rest (next l last) (next (.fe l) fe)

def Execution.lc2 (x : Execution) : Bool := x.so.all (fun o => x.sees o.1 o.2 none none)

/-- LC3 (R175): rf and hb together have no cycle. -/
def Execution.lc3 (x : Execution) : Bool :=
  let hb := x.hb
  let c := closure x.evs.length (fun a b => hb.contains (a, b) || x.readsFrom b a)
  !x.all.any (fun i => c.contains (i, i))

/-- An execution that chapter 8 allows. LC4 is in `hb`. -/
def Execution.allowed (x : Execution) : Bool := x.wellFormed && x.lc1 && x.lc2 && x.lc3

end Sys2Proof.Order
end

