-- ==== Sys2Proof/Tests/Slice0.lean ====
section
/-!
SUPPORT. Tests of the model: ill-formed instructions are refused, words written out from the encoding tables decode, single steps
give the results the spec states, and witnesses: states and operands that meet the hypotheses of the obligations.
-/
namespace Sys2Proof.Tests
open Sys2Proof Sys2Proof.Machine
set_option Elab.async false
set_option maxRecDepth 20000
set_option exponentiation.threshold 1000

/-! ### Well-formedness: an ill-formed term for each check (chapters 12, 13, 15, 16, 17) -/

/-- A VEC with every field at 0 but those a check needs. -/
def vec (ts td : ETy) : VecOps := { ts := ts, td := td, rm := 0, a := 1, b := 0, c := 0, e := 0, sc := false, sat := false }

/-- R252: p + n > 64; length 0 is 64. -/
theorem wf_bitf : (Instr.ext 1 2 60 5).wf = false ∧ (Instr.extu 1 2 1 0).wf = false ∧ (Instr.ins 1 2 63 2).wf = false
    ∧ (Instr.ext 1 2 60 4).wf = true ∧ (Instr.extu 1 2 0 0).wf = true := by decide
/-- R304: the type pairs of each group of members. -/
theorem wf_vec_types : (Instr.vadd (vec 4 0)).wf = false ∧ (Instr.vadd (vec 6 5)).wf = true ∧ (Instr.vexp (vec 0 4)).wf = false
    ∧ (Instr.vcvt (vec 7 0)).wf = true
    ∧ (Instr.vset { vec 1 4 with sc := true }).wf = false ∧ (Instr.vset { vec 0 4 with sc := true }).wf = true
    ∧ (Instr.vcpy (vec 2 3)).wf = false ∧ (Instr.viota { vec 0 4 with sc := true }).wf = false
    ∧ (Instr.vsel (vec 7 7)).wf = false ∧ (Instr.vsel (vec 6 5)).wf = false ∧ (Instr.vcmp (vec 6 1)).wf = false
    ∧ (Instr.vscl { vec 2 6 with sc := true }).wf = false := by decide
/-- R304, R305: a rounding mode where S must be 0, .sat on a float destination, the scalar bit where the member does not take it or
needs it. -/
theorem wf_vec_modes : (Instr.vadd { vec 2 2 with rm := 1 }).wf = false ∧ (Instr.vadd { vec 4 4 with rm := 1 }).wf = true
    ∧ (Instr.vcpy { vec 6 6 with rm := 2 }).wf = false ∧ (Instr.vadd { vec 6 6 with sat := true }).wf = false
    ∧ (Instr.vadd { vec 2 2 with sat := true }).wf = true ∧ (Instr.vabs { vec 6 6 with sc := true }).wf = false
    ∧ (Instr.vset (vec 0 4)).wf = false ∧ (Instr.vscl (vec 6 6)).wf = false := by decide
/-- R304: a register field the member does not use. -/
theorem wf_vec_fields : (Instr.vset { vec 0 4 with sc := true, b := 1 }).wf = false ∧ (Instr.vabs { vec 6 6 with c := 1 }).wf = false
    ∧ (Instr.vadd { vec 6 6 with e := 1 }).wf = false ∧ (Instr.vfma { vec 6 6 with c := 1, e := 1 }).wf = true := by decide
/-- R306, R307, R328, R335, R349, R370: types and fields out of their range. -/
theorem wf_others : (Instr.vsum 7 1 2).wf = false ∧ (Instr.vdot 7 1 2 3).wf = false
    ∧ (Instr.vscadd 0 { ty := 7, x32 := false, a := 1, b := 2, c := 3 }).wf = false
    ∧ (Instr.accld 0 0 7 1 2).wf = false ∧ (Instr.accld 0 0 3 1 2).wf = false ∧ (Instr.accld 0 0 6 1 2).wf = true
    ∧ (Instr.mmag { comb := 0, acc := false, col := false, a := 1, b := 2, k := 3, h := 0, pa := 0, pb := 0 } 0).wf = false
    ∧ (Instr.bopen 1 0 0 17 2 3).wf = false ∧ (Instr.bopen 1 0 0 16 2 3).wf = true
    ∧ (Instr.red 1 2 3 0 5).wf = false ∧ (Instr.red 1 2 3 6 2).wf = false ∧ (Instr.red 1 2 3 1 5).wf = true := by decide
/-- R240: a word that decodes to such a term traps RESERVED_FIELD when it is issued. -/
theorem wf_refused_by_issue :
    State.reset.issue (.instr (.ext 1 2 60 5)) = State.reset.trap 0x05 0xFF 0 := rfl

/-! ### Words from the encoding tables (12 R238 to R242, and each member's table) -/

/-- A head from its fields. -/
def hd (tl op d s : Nat) : Nat := tl * 2 ^ 14 + op * 2 ^ 8 + d * 2 ^ 3 + s
/-- The tails of R239 from their fields. -/
def tr (a b f : Nat) : Nat := a * 2 ^ 11 + b * 2 ^ 6 + f
def ti (a i : Nat) : Nat := a * 2 ^ 11 + i
def tb (l h : Nat) : Nat := l * 2 ^ 5 + h
def td (a b f i : Nat) : Nat := a * 2 ^ 27 + b * 2 ^ 22 + f * 2 ^ 16 + i
def tq (a b c e f i : Nat) : Nat := a * 2 ^ 59 + b * 2 ^ 54 + c * 2 ^ 49 + e * 2 ^ 44 + f * 2 ^ 38 + i

/-- R248 to R252. -/
theorem decode_integer : decode (hd 1 0x02 3 0) (tr 4 5 20) = .instr (.maxu false 3 4 5)
    ∧ decode (hd 1 0x03 3 6) (ti 4 63) = .instr (.sari 3 4 63)
    ∧ decode (hd 1 0x04 9 1) 0xFFFF = .instr (.li16 true 9 0xFFFF) ∧ decode (hd 2 0x04 9 0) 0x80000001 = .instr (.li32 false 9 0x80000001)
    ∧ decode (hd 1 0x05 3 1) (tr 4 0 6) = .instr (.sext 1 3 4) ∧ decode (hd 1 0x05 3 0) (tr 4 0 5) = .instr (.popc 3 4)
    ∧ decode (hd 2 0x06 3 0) (td 4 0 2 (5 + 7 * 64)) = .instr (.ins 3 4 5 7) := by decide
/-- R253 to R256. -/
theorem decode_predicates : decode (hd 1 0x07 15 7) (tr 4 5 0) = .instr (.cmpNtst 15 4 5)
    ∧ decode (hd 1 0x08 2 4) (ti 4 0x7FF) = .instr (.cmpiLtu 2 4 0x7FF) ∧ decode (hd 1 0x09 3 0) (tr 4 5 9) = .instr (.sel 3 9 4 5)
    ∧ decode (hd 1 0x0A 1 3) (tr 2 3 0) = .instr (.pandn 1 2 3) ∧ decode (hd 1 0x0B 3 0) (tr 0 0 8) = .instr (.ppack 3 true)
    ∧ decode (hd 1 0x0B 0 1) (tr 4 0 0) = .instr (.punpack 4 false) := by decide
/-- R258 to R261. -/
theorem decode_float : decode (hd 1 0x0C 3 4) (tr 4 5 3) = .instr (.fdiv 4 3 4 5)
    ∧ decode (hd 2 0x0D 3 1) (td 4 5 (32 + 6) 0) = .instr (.fnma 1 3 4 5 6)
    ∧ decode (hd 1 0x0E 2 1) (tr 4 5 0) = .instr (.flt 2 4 5) ∧ decode (hd 1 0x0F 3 0) (tr 4 0 6) = .instr (.fclass 0 3 4) := by decide
/-- R262 to R271. -/
theorem decode_control : decode (hd 1 0x10 0 0) (tb 1023 5) = .instr (.br { l := 1023, h := 5 })
    ∧ decode (hd 1 0x11 19 1) (tb 2046 1) = .instr (.bf 19 { l := -2, h := 1 })
    ∧ decode (hd 1 0x12 0 0) (tb 1 2) = .instr (.call { l := 1, h := 2 }) ∧ decode (hd 0 0x13 7 1) 0 = .instr (.callr 7)
    ∧ decode (hd 0 0x13 30 2) 0 = .instr .ret ∧ decode (hd 0 0x13 29 2) 0 = .bad .reserved
    ∧ decode (hd 2 0x14 0 0) (td 4 0 0 (tb 2 3)) = .instr (.loop 4 { l := 2, h := 3 })
    ∧ decode (hd 1 0x15 31 7) (tb 0 9) = .instr (.loopi 255 { l := 0, h := 9 }) ∧ decode (hd 0 0x16 3 1) 0 = .instr (.lidx 3)
    ∧ decode (hd 1 0x17 0 0) 0xFFF0 = .instr (.enter 0xFFF0) ∧ decode (hd 0 0x17 0 1) 0 = .instr .leave
    ∧ decode (hd 1 0x18 3 1) (ti 4 0x020) = .instr (.csrw 3 4 0x020) := by decide
/-- R277 to R296. -/
theorem decode_memory : decode (hd 1 0x20 3 5) (ti 4 8) = .instr (.ldWuTi 3 4 8)
    ∧ decode (hd 2 0x20 3 2) (td 4 5 0 0xFFFE) = .instr (.ldHTd 3 4 5 0xFFFE) ∧ decode (hd 1 0x21 3 4) (ti 4 8) = .instr (.stWTi 3 4 8)
    ∧ decode (hd 1 0x21 3 1) (ti 4 8) = .bad (.illegal 2) ∧ decode (hd 1 0x22 3 2) (ti 4 8) = .instr (.stp 3 4 8)
    ∧ decode (hd 1 0x23 3 6) (tr 4 5 0) = .instr (.amoadd { d := false, aq := true, rl := true } 3 4 5)
    ∧ decode (hd 0 0x24 3 2) 0 = .instr (.fenceFull 3) ∧ decode (hd 0 0x25 5 0) 0 = .instr (.drain 5) := by decide
theorem decode_threads : decode (hd 2 0x26 0 0) (td 4 5 6 0) = .instr (.rfill 4 5 6) ∧ decode (hd 0 0x26 6 1) 0 = .instr (.rempty 6)
    ∧ decode (hd 1 0x29 3 1) (tr 4 5 0) = .instr (.tryrecv 3 4 5) ∧ decode (hd 1 0x2A 3 0) (tr 4 5 0) = .instr (.spawn 3 4 5)
    ∧ decode (hd 1 0x2A 0 5) 0 = .instr .task ∧ decode (hd 1 0x2A 0 7) (tr 4 0 0) = .instr (.mig 4)
    ∧ decode (hd 1 0x2B 0 0) (tr 4 5 0) = .instr (.swapt 4 5) ∧ decode (hd 2 0x3F 3 0) 0 = .instr (.ckpt 3)
    ∧ decode (hd 2 0x3F 3 0) (td 4 5 2 0) = .instr (.qpost 3 4 5) := by decide
/-- R304, R306, R307, R314. -/
theorem decode_vector : decode (hd 3 0x30 6 2) (tq 1 2 3 4 7 6) = .instr (.vfma { vec 6 6 with rm := 2, b := 2, c := 3, e := 4 })
    ∧ decode (hd 3 0x31 3 0) (tq 4 5 0 0 5 2) = .instr (.vdot 2 3 4 5)
    ∧ decode (hd 3 0x32 0 1) (tq 4 5 6 0 2 (6 + 16)) = .instr (.vscadd 1 { ty := 6, x32 := true, a := 4, b := 5, c := 6 })
    ∧ decode (hd 2 0x3D 31 0) (td 4 5 1 1) = .instr (.cpys 31 4 5 true) := by decide
/-- R328, R335, R339, R340, R349, R364. -/
theorem decode_engines : decode (hd 2 0x38 2 0) (td 4 5 3 (7 + 15 * 128)) = .instr (.accpin 2 7 15 4 5)
    ∧ decode (hd 2 0x38 3 0) (td 0 0 7 (127 + 32768)) = .instr (.accsta 3 127 true)
    ∧ decode (hd 3 0x39 2 3) (tq 4 5 0 6 0 (9 + 0xABCD * 128 + 0x1234 * 2 ^ 23))
        = .instr (.mma { comb := 2, acc := true, col := true, a := 4, b := 5, k := 6, h := 9, pa := 0xABCD, pb := 0x1234 })
    ∧ decode (hd 2 0x3A 1 0) (td 4 5 0 0xFFFF) = .instr (.tld true 4 5 0xFFFF) ∧ decode (hd 2 0x3B 0 0) (td 4 5 2 9) = .instr (.dscl 9 4 5)
    ∧ decode (hd 2 0x3C 3 0) (td 4 5 0 (9 + 2 * 128 + 16 * 2048)) = .instr (.bopen 3 9 2 16 4 5)
    ∧ decode (hd 2 0x3C 3 0) (td 0 0 7 3) = .instr (.bstat 3 3) ∧ decode (hd 2 0x3E 3 0) (td 4 5 4 (1 + 6 * 16)) = .instr (.red 3 4 5 1 6)
    ∧ decode (hd 2 0x3E 3 0) (td 4 0 5 15) = .instr (.redg 3 4 15) := by decide
/-- The table's own numbering (log 4): the head in the highest halfword. -/
theorem decode_table_words : decodeTableWord 32 0x42000000 = some (.add false 0 0 0) ∧ decodeTableWord 16 0x13F2 = some .ret
    ∧ decodeTableWord 32 0x6B000000 = some (.swapt 0 0) := by decide

/-! ### Small states -/

/-- A thread just launched, home in slot 0 of tile 0, with these registers. -/
def thr (rs : List (Reg × Word)) : Thread := rs.foldl (fun t x => t.setReg x.1 x.2) Thread.reset
/-- A tile of context 1 with this thread in slot 0. -/
def tileOf (c : TileCtx) (th : Thread) : Tile :=
  { c := { c with slots := c.slots.set 0 (some th) }, r := { Router.reset with ctx := 1 } }
/-- A machine past boot whose tile 0 is about to run that thread. -/
def mach (c : TileCtx) (th : Thread) : State :=
  { State.reset with agenda := [], tiles := [(0, tileOf c th)], cur := { tile := 0, slot := 0, nh := 1 }
                     dev := { Device.reset with boot := .ready } }
/-- A machine whose acting thread holds these registers. -/
def demo (rs : List (Reg × Word)) : State := mach TileCtx.reset (thr rs)
/-- The machine with these bytes in the pool of tile 0. -/
def demoAt (off : Nat) (bs : List Byte) (rs : List (Reg × Word)) : State :=
  mach { TileCtx.reset with pool := Memory.setBytes [] off bs } (thr rs)
/-- What a next state shows. -/
def look {α : Type} (o : Out) (f : State → α) : Option α := match o with | .next t => some (f t) | _ => none
/-- A register after the instruction. -/
def gives (i : Instr) (s : State) (r : Reg) : Option Word := look (exec i s) (fun t => t.me.reg r)
/-- A predicate after the instruction. -/
def givesP (i : Instr) (s : State) (q : Pred) : Option Bool := look (exec i s) (fun t => t.me.pred q)
/-- Cause, value and new offset of the trap the instruction takes. -/
def trapsAs (i : Instr) (s : State) : Option (BitVec 17 × Word × Word) :=
  look (exec i (s.setMe { s.me with xvec := 0x400 })) (fun t => (t.me.bankX.cause, t.me.bankX.val, t.me.pc))

/-! ### One step, results by hand from the rules -/

/-- R248: wrap, quotients by zero and at the corner, counts of 6 and 5 bits, .W results sign-extended. -/
theorem test_alu : gives (.add false 3 1 2) (demo [(1, BitVec.allOnes 64), (2, 1)]) 3 = some 0
    ∧ gives (.add true 3 1 2) (demo [(1, 0x7FFFFFFF), (2, 1)]) 3 = some 0xFFFFFFFF80000000
    ∧ gives (.div false 3 1 2) (demo [(1, BitVec.intMin 64), (2, BitVec.allOnes 64)]) 3 = some (BitVec.intMin 64)
    ∧ gives (.div true 3 1 2) (demo [(1, 5), (2, 0)]) 3 = some (BitVec.allOnes 64)
    ∧ gives (.rem false 3 1 2) (demo [(1, -7), (2, 2)]) 3 = some (-1)
    ∧ gives (.mulh false 3 1 2) (demo [(1, -1), (2, 1)]) 3 = some (-1)
    ∧ gives (.mulhu false 3 1 2) (demo [(1, -1), (2, 2)]) 3 = some 1
    ∧ gives (.rot false 3 1 2) (demo [(1, 1), (2, 65)]) 3 = some 0x8000000000000000
    ∧ gives (.sar true 3 1 2) (demo [(1, 0x80000000), (2, 33)]) 3 = some 0xFFFFFFFFC0000000 := by decide
/-- R246: a write of g0 is discarded; g0 reads 0. -/
theorem test_zero_register : gives (.add false 0 1 2) (demo [(1, 5), (2, 7)]) 0 = some 0
    ∧ gives (.sub false 3 0 2) (demo [(2, 1)]) 3 = some (BitVec.allOnes 64) := by decide
/-- R249 to R252. -/
theorem test_immediates : gives (.addi 3 1 0x7FF) (demo [(1, 0)]) 3 = some (-1) ∧ gives (.andi 3 1 0x400) (demo [(1, -1)]) 3 = some (-1024)
    ∧ gives (.li16 false 3 0x8000) (demo []) 3 = some (-32768) ∧ gives (.li16 true 3 0x8000) (demo []) 3 = some 0x8000
    ∧ gives (.clz 3 1) (demo [(1, 0)]) 3 = some 64 ∧ gives (.ctz 3 1) (demo [(1, 8)]) 3 = some 3
    ∧ gives (.ext 3 1 4 4) (demo [(1, 0x80)]) 3 = some (-8) ∧ gives (.ins 3 1 8 4) (demo [(1, 0xAB), (3, -1)]) 3 = some 0xFFFFFFFFFFFFFBFF
    := by decide
/-- R253 to R256. -/
theorem test_predicates : givesP (.cmpLt 2 1 4) (demo [(1, -1), (4, 0)]) 2 = some true ∧ givesP (.cmpLtu 2 1 4) (demo [(1, -1), (4, 0)]) 2 = some false
    ∧ givesP (.cmpiGeu 2 1 0x7FF) (demo [(1, -1)]) 2 = some true ∧ givesP (.pnot 1 0) (demo []) 1 = some true
    ∧ gives (.prd 3) ((demo []).setMe { (demo []).me with pw := 0xA5C3 }) 3 = some 0xA5C3
    ∧ gives (.ppack 3 true) ((demo []).setMe { (demo []).me with pw := 0xA5C3 }) 3 = some 0xA5 := by decide
/-- R257 to R261: 1 + 2 = 3; 1/0 = +Inf with dz; 1/3 inexact, rounded to nearest; −1 has no root; 2.5 converts to 2 by RNE. -/
theorem test_float : gives (.fadd 0 3 1 2) (demo [(1, 0x3F800000), (2, 0x40000000)]) 3 = some 0x40400000
    ∧ look (exec (.fdiv 0 3 1 2) (demo [(1, 0x3F800000), (2, 0)])) (fun t => (t.me.reg 3, t.me.fflags)) = some (0x7F800000, 8)
    ∧ look (exec (.fdiv 0 3 1 2) (demo [(1, 0x3F800000), (2, 0x40400000)])) (fun t => (t.me.reg 3, t.me.fflags)) = some (0x3EAAAAAB, 1)
    ∧ look (exec (.fsqrt 0 3 1) (demo [(1, 0xBF800000)])) (fun t => (t.me.reg 3, t.me.fflags)) = some (0x7FC00000, 16)
    ∧ gives (.cvtfi 0 3 1) (demo [(1, 0x40200000)]) 3 = some 2 ∧ gives (.cvtfi 2 3 1) (demo [(1, 0x40200000)]) 3 = some 3
    ∧ gives (.cvtif 0 3 1) (demo [(1, -2)]) 3 = some 0xC0000000 ∧ gives (.fclass 0 3 1) (demo [(1, 0)]) 3 = some 0x10 := by decide
/-- R262, R263: a branch two lines on; a link; the end head of a loop with two passes left, and with one. -/
def looping (n : BitVec 32) : State :=
  let s := demo [(30, 0x86)]
  s.setMe { s.me with pc := 0x42, loops := [{ start := 0x10, stop := 0x42, count := n }] }
theorem test_control : look (exec (.br { l := 2, h := 3 }) (demo [])) (fun t => t.me.pc) = some 0x86
    ∧ look (exec (.call { l := 1, h := 1 }) ((demo []).setMe { (demo []).me with pc := 2 })) (fun t => (t.me.pc, t.me.reg 30)) = some (0x42, 0x42)
    ∧ look (exec .ret (looping 2)) (fun t => (t.me.pc, t.me.loops.length)) = some (0x86, 1)
    ∧ look (exec .nop (looping 2)) (fun t => (t.me.pc, t.me.loops.length)) = some (0x10, 1)
    ∧ look (exec .nop (looping 1)) (fun t => (t.me.pc, t.me.loops.length)) = some (0x82, 0) := by decide
/-- R183, R185, R189, R272: code 0x20 with detail n; the saved offset is the next head's. -/
theorem test_traps : trapsAs (.trap 7) ((demo []).setMe { (demo []).me with pc := 2 }) = some (0x720, 0, 0x400)
    ∧ trapsAs .rett (demo []) = some (0x501, 0, 0x400)
    ∧ look (exec .rett ((demo []).setMe { (demo []).me with xlvl := 1, bankX := { (demo []).me.bankX with pc := 0x88, pix := 5, pw := 3 } }))
        (fun t => (t.me.pc, t.me.pix, t.me.pw, t.me.xlvl)) = some (0x88, 5, 3, 0) := by decide
/-- R270, R271. -/
theorem test_csr : gives (.csrr 3 0x017) (demo []) 3 = some 0 ∧ trapsAs (.csrr 3 0x400) (demo []) = some (0x206, 0x400, 0x400)
    ∧ trapsAs (.csrw 3 1 0x001) (demo []) = some (0x106, 1, 0x400) ∧ trapsAs (.csrr 3 0x01B) (demo []) = some (0x601, 0, 0x400)
    ∧ look (exec (.csrw 3 1 0x004) (demo [(1, 0x100000)])) (fun t => t.me.vlen) = some 0xFFFFF := by decide
/-- R275, R277: byte order, extension, the TD form's scaled index. -/
theorem test_loads : gives (.ldHTi 3 1 0) (demoAt 0x100 [0x34, 0x92] [(1, 0x100)]) 3 = some 0xFFFFFFFFFFFF9234
    ∧ gives (.ldHuTd 3 1 2 0xFFFE) (demoAt 0x100 [0x34, 0x92] [(1, 0xFE), (2, 2)]) 3 = some 0x9234
    ∧ trapsAs (.ldWTi 3 1 0) (demo [(1, 0x102)]) = some (0x409, 0x102, 0x400)
    ∧ trapsAs (.ldDTi 3 1 0) (demo [(1, 0x3000000000000000)]) = some (0x008, 0x3000000000000000, 0x400) := by decide
/-- R278, R279: a store and its neighbours; STP fills a doubleword, LDC takes it. -/
theorem test_stores :
    look (exec (.stHTi 3 1 0) (demoAt 0x100 [1, 2, 3, 4] [(1, 0x100), (3, 0xABCD)])) (fun t => t.here.c.pool.bytes 0x100 4) = some [0xCD, 0xAB, 3, 4]
    ∧ look (exec (.ldc 3 1 0) (demoAt 0x100 [9] [(1, 0x100)])) (fun t => (t.me.reg 3, t.here.c.isFull 0x20)) = some (9, false)
    ∧ look (exec (.stp 3 1 0) (demoAt 0x100 [9] [(1, 0x100), (3, 5)])) (fun t => t.me.park.isSome) = some true
    ∧ gives (.fest 3 1 0) (demo [(1, 0x100)]) 3 = some 0xFF := by decide
/-- R280. -/
theorem test_atomics :
    look (exec (.amoadd { d := false, aq := false, rl := false } 3 1 2) (demoAt 0x100 [0xFF, 0xFF, 0xFF, 0xFF, 7] [(1, 0x100), (2, 2)]))
        (fun t => (t.me.reg 3, t.here.c.pool.bytes 0x100 5)) = some (BitVec.allOnes 64, [1, 0, 0, 0, 7])
    ∧ look (exec (.amocas { d := false, aq := false, rl := false } 3 1 2) (demoAt 0x100 [5] [(1, 0x100), (2, 9), (3, 5)]))
        (fun t => (t.me.reg 3, t.poolNat 0x100 4)) = some (5, 9) := by decide
/-- R267, R268: the link word holds the caller's sp. -/
theorem test_frames :
    look (exec (.enter 32) (demo [(29, 0x200)])) (fun t => (t.me.reg 29, t.poolNat 0x1E0 8)) = some (0x1E0, 0x200)
    ∧ gives .leave (demoAt 0x1E0 [0x00, 0x02] [(29, 0x1E0)]) 29 = some 0x200
    ∧ trapsAs (.enter 32) (demo [(29, 0x208)]) = some (0x1009, 0x208, 0x400) := by decide
/-- R284, R287, R289, R296. -/
theorem test_threads : gives (.rstat 3) (demo []) 3 = some 0xFFFFFFFF
    ∧ look (exec (.rempty 5) (demo [(5, 9)])) (fun t => (t.me.reg 5, t.me.isFull 5)) = some (9, false)
    ∧ gives (.tryrecv 3 1 2) (demo [(1, 0xFFFF), (2, 0x100)]) 3 = some 0 := by decide
/-- R299, R301: an operation over two F32 elements is queued and its thread parks; an empty vector is over at once. -/
theorem test_vector :
    look (exec (.vadd { vec 6 6 with b := 2, c := 3 }) ((demo [(1, 0x100), (2, 0x200), (3, 0x300)]).setMe
        { (demo [(1, 0x100), (2, 0x200), (3, 0x300)]).me with vlen := 2 })) (fun t => (t.here.c.ops.length, t.here.c.locks.length, t.me.park.isSome))
      = some (1, 3, true)
    ∧ look (exec (.vadd { vec 6 6 with b := 2, c := 3 }) (demo [(1, 0x100), (2, 0x200), (3, 0x300)])) (fun t => t.me.park.isSome) = some false
    ∧ (vecElem 0 6 6 0 false 0 0x3F800000 0x40000000 0 0).bits = 0x40400000
    ∧ (vecElem 0 0 0 0 true 0 100 100 0 0).bits = 127 ∧ (vecElem 0 0 0 0 true 0 100 100 0 0).ovf = 1 := by decide
/-- R23: the boot order's failures. -/
theorem test_boot :
    look (exec .boot { State.reset with dev := { Device.reset with fuses := { Device.reset.fuses with ok := false } } }) (fun t => t.dev.boot)
      = some .halted := by decide

/-! ### Witnesses: states and operands that meet the hypotheses of the obligations, clause by clause -/

/-- The acting thread changed by `f`. -/
def with_ (s : State) (f : Thread → Thread) : State := s.setMe (f s.me)
/-- The context of tile 0 changed by `f`. -/
def ctxWith (s : State) (f : TileCtx → TileCtx) : State := s.setCtx 0 (f s.here.c)
/-- Router of tile 0 changed by `f`. -/
def routerWith (s : State) (f : Router → Router) : State := s.setRouter 0 (f s.here.r)
/-- The machine whose next step fetches the head at offset `pc` of a line with these halfwords, code limit 64. -/
def lineAt (halves : List (BitVec 16)) (pc : Word) : State :=
  let s := State.reset.withFetchWord 16 0x0100
  let t := s.tile 0
  { s with tiles := [(0, { t with c := { t.c with icache := [{ lix := 0, line := 0, halves := halves }]
                                                  slots := t.c.slots.set 0 (some { s.thr 0 0 with pc := pc }) } })] }
/-- NH, head and tail that a fetch finds. -/
def found (s : State) : Option (Nat × Nat × Nat) :=
  match (s.tile 0).fetch (s.thr 0 0).lix (s.thr 0 0).pc with | .head _ nh h t => some (nh, h, t) | _ => none

/-- A launch, and a context of one tile that runs it under launch index 0. -/
def launch0 : Launch :=
  { lix := 0, lid := 1, slot := 0, pos := 0, code := 0x4000000000000000, limit := 64, entry := 2, seeds := [0, 0, 0, 0, 0, 0], quota := 1
    paired := false, prio := 0, poolcfg := 0, live := 0, nlive := 0, pkq := 0, tlim := 1, slice := 0, populated := true, elapsed := 0
    since := 0, abort := none, abortAt := (0, 0, 0), owed := [], paid := [], sig := 0, shadowSig := 0, thirdSig := none, rerun := false, extents := [] }
def region0 : Region := { col0 := 16, row0 := 0, width := 1, height := 1, stitch := 0 }
def context0 : Machine.Ctx :=
  { xlroot := 0, region := region0, shadow := none, tbase := 0, tlog := 4, record := 0x4000000000001000, park := 0, parksz := 0
    res := .resident, lids := 1, launches := [(0, launch0)], waiting := [], tasks := [], heldPos := [], deferred := false
    suspendCmd := none, resumeCmd := none, image := [], sizes := [], imageAt := none, queued := false, since := 0, reqAt := 0
    switchFrom := none, dropped := [] }
/-- The device changed by `f`. -/
def devWith (s : State) (f : Device → Device) : State := { s with dev := f s.dev }
/-- The machine with context 1 as given. -/
def inContext (s : State) (d : Machine.Ctx) : State := devWith s (fun v => { v with contexts := [(1, d)] })

theorem witness_encoding : (Instr.add true 3 4 5).wf = true ∧ (encode (.add true 3 4 5)).isSome = true
    ∧ 0xC430 < 2 ^ 16 ∧ 0x123456789 < 2 ^ (16 * tailLen 0xC430) ∧ decode 0xC430 0x123456789 = .instr (.li64 6 0x123456789)
    ∧ (Instr.li64 6 0x123456789).wf = true := by decide

/-- A turn whose fetch finds a head: a well-formed instruction, a field out of range, an illegal word, a reserved field, a skipped turn. -/
theorem witness_StepRunsDecoded :
    let s := State.reset.withFetchWord 32 0x42194145
    s.dev.boot ≠ .halted ∧ State.dueWith State.run s 0 = none ∧ s.turns = [0] ∧ (s.tile 0).ready (s.tile 0).r.turnSlot = true
    ∧ (s.tile 0).r.hung = false ∧ (s.thr 0 (s.tile 0).r.turnSlot).fault = none ∧ (s.thr 0 (s.tile 0).r.turnSlot).skip = false ∧ found s = some (1, 0x4219, 0x4145) ∧ decode 0x4219 0x4145 = .instr (.div true 3 8 5) ∧ (Instr.div true 3 8 5).wf = true
    ∧ found (State.reset.withFetchWord 48 0x86180000003F) = some (1, 0x8618, 0x3F) ∧ decode 0x8618 0x3F = .bad .reserved
    ∧ found (State.reset.withFetchWord 16 0x1900) = some (1, 0x1900, 0) ∧ decode 0x1900 0 = .bad (.illegal 0)
    ∧ found (State.reset.withFetchWord 16 0x13EA) = some (1, 0x13EA, 0) ∧ decode 0x13EA 0 = .bad .reserved
    ∧ ((with_ s (fun th => { th with skip := true })).tile 0).ready 0 = true := by decide

/-- Each check of a fetch: the last offset below the limit and the first at it, a miss, each header and target check. -/
theorem witness_FetchChecks :
    let ok (s : State) : Prop := s.dev.boot ≠ .halted ∧ State.dueWith State.run s 0 = none ∧ s.turns = [0] ∧ (s.tile 0).ready (s.tile 0).r.turnSlot = true
      ∧ (s.tile 0).r.hung = false ∧ (s.thr 0 (s.tile 0).r.turnSlot).fault = none ∧ (s.thr 0 (s.tile 0).r.turnSlot).skip = false
    let n (s : State) : Option Nat := ((s.tile 0).cached 0 0).map (fun l => (l.halves.getD 0 0).toNat / 2048)
    let pc (s : State) : Nat := (s.thr 0 0).pc.toNat
    let limit (s : State) : Nat := ((s.tile 0).launchOf 0).limit.toNat
    (ok (lineAt [0x0800, 0x0100] 64) ∧ limit (lineAt [0x0800, 0x0100] 64) ≤ 64 ∧ pc (lineAt [0x0800, 0x0100] 63) / 64 * 64 < 64)
    ∧ ((lineAt [0x0800] 2).tile 0).cached 0 64 = none
    ∧ (ok (lineAt [0x0000] 2) ∧ n (lineAt [0x0000] 2) = some 0) ∧ n (lineAt [0x0801, 0x0100] 2) = some 1
    ∧ (n (lineAt [0x4800, 0xC000, 0xC000, 0xC000, 0xC000, 0xC000, 0xC000, 0x8000] 2) = some 9)
    ∧ (pc (lineAt [0x0800, 0x0100] 0) / 2 % 32 = 0 ∧ n (lineAt [0x0800, 0x0100] 0) = some 1)
    ∧ pc (lineAt [0x0800, 0x0100] 4) / 2 % 32 = 2
    ∧ (pc (lineAt [0x0800, 0x0100] 3) / 2 % 32 = 1 ∧ (lineAt [0x0800, 0x0100] 3 |>.thr 0 0).pc.getLsbD 0 = true)
    ∧ found (lineAt [0x0800, 0x0100] 2) = some (1, 0x0100, 0) := by decide

theorem witness_NeverStops : State.reset.dev.boot ≠ .halted
    ∧ { State.reset with dev := { Device.reset with boot := .halted } }.dev.boot = .halted := by decide
theorem witness_StepKeepsMemoryForm : State.reset.bulkWf ∧ (look (Machine.step (demo [])) (fun t => t.now)).isSome = true := by
  unfold State.bulkWf; decide
theorem witness_ResetState : [1, 2, 3, 4, 5, (6 : Word)].length = 6 := by decide

/-- Every register of a fresh thread is readable: the results' only hypothesis. `i.toNat + len ≤ 64` of BITF at its last value. -/
theorem witness_Readable : (demo []).Readable (List.finRange 32) ∧ (60 : BitVec 6).toNat + fieldLen 4 ≤ 64 ∧ (0 : BitVec 6).toNat + fieldLen 0 ≤ 64 := by
  unfold State.Readable; decide
theorem witness_FloatSpecialCases : (f32.decode 0x7FC00001).isNan = true ∧ (f32.decode 0x7F800001).isSig = true
    ∧ (f32.decode 0x3F800000).isNan = false ∧ f32.decode 0x3F800000 = .num 8388608 (-23) ∧ f32.decode 0x80000000 = .zero true
    ∧ f32.decode 0xBF800000 = .num (-8388608) (-23) ∧ (-8388608 : Int) < 0 ∧ f32.decode 0x7F800000 = .inf false ∧ 0 < 1 := by decide
theorem witness_CsrAccess : (0x400 : BitVec 11).toNat = 0x400 ∧ ¬ ((0x01B : BitVec 11).toNat ≤ 0x1A ∨ (0x20 ≤ (0x01B : BitVec 11).toNat
      ∧ (0x01B : BitVec 11).toNat ≤ 0x27) ∨ (0x30 ≤ (0x01B : BitVec 11).toNat ∧ (0x01B : BitVec 11).toNat ≤ 0x35))
    ∧ (0x035 : BitVec 11).toNat ≤ 0x35 ∧ (0x027 : BitVec 11).toNat ∈ [0x00, 0x01, 0x02, 0x07, 0x08, 0x09, 0x0B, 0x0F, 0x16, 0x17, 0x19, 0x27]
    ∧ (1 : Reg) ≠ 0 ∧ (demo []).here.r.logFull = false ∧ (demo []).here.r.replay = false
    ∧ (demo []).Readable [1] ∧ ((0x003 : BitVec 11), 5) ∈ [((0x003 : BitVec 11), (0x100005 : Nat) % 2 ^ 20)] := by
  unfold State.Readable; decide
/-- A condition from a predicate, true and false, and from a mailbox; a link of 0 and another; an end head with two passes, with one, none. -/
theorem witness_ControlTransfers :
    let s := demo [(30, 0x86)]
    s.condition (with_ s (fun th => { th with pw := 1 })).me 0 = true ∧ s.condition s.me 0 = false ∧ s.condition s.me 16 = false
    ∧ s.Readable [30] ∧ s.me.reg 30 ≠ 0 ∧ (demo []).me.reg 30 = 0
    ∧ (looping 2).me.loops = [{ start := 0x10, stop := 0x42, count := 2 }] ∧ (0x42 : BitVec 32).setWidth 64 = (looping 2).me.pc
    ∧ (looping 1).me.loops = [{ start := 0x10, stop := 0x42, count := 1 }] ∧ (∀ e ∈ s.me.loops.head?, e.stop.setWidth 64 ≠ s.me.pc) := by
  unfold State.Readable; decide
/-- A loop that goes on, one at depth 4, a bad end; a count of 0 whose end lies in the cached line; an empty stack and another. -/
theorem witness_LoopInstructions :
    let s := lineAt [0x1000, 0x0100, 0x0100] 2
    let th := s.me
    let good (tg : Target) : Prop := tg.h ≠ 0 ∧ (nextOf 2 th.pc).toInt ≤ (Machine.targetOf th.pc tg).toInt
    let e : LoopEntry := { start := 2, stop := 4, count := 1 }
    good { l := 0, h := 2 } ∧ ¬ good { l := 0, h := 0 } ∧ ¬ good { l := -1, h := 31 } ∧ th.loops.length < 4 ∧ s.Readable [1]
    ∧ 4 ≤ (with_ s (fun th => { th with loops := [e, e, e, e] })).me.loops.length
    ∧ (th.reg 1).setWidth 32 = (0 : BitVec 32) ∧ ((th.setReg 1 1).reg 1).setWidth 32 ≠ (0 : BitVec 32)
    ∧ s.here.enterLine th.lix 4 = .line { lix := 0, line := 0, halves := [0x1000, 0x0100, 0x0100] }
    ∧ headCheck (lineNH [0x1000, 0x0100, 0x0100]) 4 = none
    ∧ th.loops = [] ∧ (with_ s (fun th => { th with loops := [e] })).me.loops = [e] ∧ e.stop.setWidth 64 = (4 : Word) := by
  unfold State.Readable; decide
theorem witness_MiscInstructions : (demo []).me.xlvl = 0 ∧ (with_ (demo []) (fun th => { th with xlvl := 1 })).me.xlvl ≠ 0
    ∧ (with_ (demo []) (fun th => { th with full := 0xFFFFFFFD })).me.isFull 1 = false := by decide
theorem witness_TrapEntry :
    let a := with_ (demo []) (fun th => { th with xvec := 0x400 })
    a.me.xlvl = 0 ∧ a.me.xvec ≠ 0 ∧ a.me.atThird = false ∧ (with_ a (fun th => { th with xlvl := 1 })).me.xlvl = 1
    ∧ 255 < 256 ∧ (with_ a (fun th => { th with xlvl := 2 })).me.xlvl = 2 ∧ (demo []).me.xlvl = 0 ∧ (demo []).me.xvec = 0
    ∧ (demo []).here.c.guests = [] := by decide
theorem witness_TrapEntry_launch : ((inContext (demo []) context0).launch? (demo []).here.r.ctx (demo []).me.lix.toNat).isSome = true := by decide
theorem witness_ReturnUndoesEntry :
    let th := { thr [] with xvec := 0x400, pc := 0xFFFFFFFE }
    th.atThird = false ∧ th.xlvl.toNat < 2 ∧ th.pc.toNat < 2 ^ 32 ∧ th.pc.getLsbD 0 = false
    ∧ { th with xlvl := 1 }.atThird = false := by decide

/-! Memory, synchronisation, messages and threads. -/

/-- A posted store of the acting thread of `demo`, to the cellar or the host. -/
def posted (host : Bool) : Posted :=
  { id := 0, launch := 0, tid := 0, addr := 0x4000000000000000, host := host, pa := 0, fault := 0, size := 8, data := 0, issued := 0 }
def posting (host : Bool) (n : Nat) : State := ctxWith (demo []) (fun c => { c with outq := List.replicate n (posted host) })
/-- Tile 0 with these poolcfg fields: ctx, acc and mir units. -/
def pooled (cfg : Word) (rs : List (Reg × Word)) : State := ctxWith (demo rs) (fun c => { c with poolcfg := cfg })
/-- The machine with other tiles, of contexts. -/
def beside (s : State) (ts : List (TileId × Nat)) : State :=
  { s with tiles := s.tiles ++ ts.map (fun t => (t.1, { c := TileCtx.reset, r := { Router.reset with ctx := t.2 } })) }

/-- Each check of an access at the addresses where its outcome changes. -/
theorem witness_AccessChecks :
    let s := beside (pooled 0x00000001 []) [(1, 1), (32, 1), (33, 2)]
    let sp (a : Word) : Nat := a.toNat / 2 ^ 60
    sp 0x3000000000000000 = 3 ∧ ((0x80000 : Word).getLsbD 18 = false ∧ (0x80000 : Word).toNat ≥ 2 ^ 18)
    ∧ (0x3FFFF : Word).toNat < 2 ^ 18 ∧ ((0x40040 : Word).getLsbD 18 = true ∧ ¬ (0x40040 : Word).toNat % 2 ^ 60 - 2 ^ 18 < 64)
    ∧ (0x101 : Word).toNat % 8 ≠ 0 ∧ (0x4003C : Word).toNat % 2 ^ 60 - 2 ^ 18 < 64 ∧ sp 0x9000000000000000 = 9
    ∧ sp 0xF000000000000000 = 15 ∧ sp 0x4000000000000000 = 4 ∧ sp 0x8000000000000000 = 8
    ∧ ((s.tile 0).r.ctx ≠ 0 ∧ (s.tile 1).r.ctx = (s.tile 0).r.ctx ∧ (s.tile 33).r.ctx ≠ (s.tile 0).r.ctx)
    ∧ (regionOf (s.tile 0).c.poolcfg 0x3EFFF = 0 ∧ regionOf (s.tile 0).c.poolcfg 0x3F000 ≠ 0)
    ∧ s.place 0 .plain 8 false 0x1000000000040000 = .port 1 0 ∧ s.place 0 .plain 8 false 0x2000000000800000 = .beyond 32
    ∧ (63 + 1 + 0 ≤ 64 ∧ (0x000101 : Word).toNat / 2 ^ 0 % 64 + (0x000101 : Word).toNat / 2 ^ 8 % 64 ≤ 64) := by decide
/-- A local access of each class, at the first and last byte of the pool; a capture buffer with room; both address forms of R275. -/
theorem witness_PoolAccesses :
    let s := demo [(1, 0x3FFF8), (2, 1)]
    s.Readable [1, 2, 3] ∧ s.LocalAt .plain 8 false (addrTI s.me 1 0) 0x3FFF8 ∧ s.LocalAt .plain 1 false (addrTI s.me 0 0) 0
    ∧ s.LocalAt .plain (2 ^ 3) false (addrTD s.me 1 2 3 0xFFF8) 0x3FFF8 ∧ s.captureBusy (0x3FFF8 / 64) = false
    ∧ (-64 ≤ (0x7C0 : BitVec 11).toInt ∧ (0x7C0 : BitVec 11).toInt < 0) ∧ (-64 ≤ (0x7FF : BitVec 11).toInt ∧ (0x7FF : BitVec 11).toInt < 0)
    ∧ ¬ (-64 ≤ (0x7BF : BitVec 11).toInt) := by
  unfold State.Readable State.LocalAt; decide
theorem witness_SyncAccesses :
    let s := demo [(1, 0x100)]
    let e := ctxWith s (fun c => { c with emptyDw := [0x20] })
    s.Readable [2, 1] ∧ s.LocalAt .sync 8 false (addrTI s.me 1 0) 0x100 ∧ s.LocalAt .sync 1 true (addrTI s.me 1 1) 0x101
    ∧ s.here.c.isFull (0x100 / 8) = true ∧ e.here.c.isFull (0x100 / 8) = false ∧ e.LocalAt .sync 8 false (addrTI e.me 1 0) 0x100
    ∧ s.storesPending s.cur.tile s.me = false ∧ s.captureBusy (0x100 / 64) = false
    ∧ (s.here.c.waiters.filter (fun w => w.dw < 32768)).length < 32 := by
  unfold State.Readable State.LocalAt; decide
theorem witness_AtomicOperations :
    let s := demo [(1, 0x3FFFC), (2, 7), (3, 0)]
    s.Readable [1, 2, 3] ∧ s.LocalAt .amo 4 false (s.me.reg 1) 0x3FFFC ∧ (demo [(1, 0x3FFF8)]).LocalAt .amo 8 false 0x3FFF8 0x3FFF8
    ∧ s.storesPending s.cur.tile s.me = false ∧ s.captureBusy (0x3FFFC / 64) = false := by
  unfold State.Readable State.LocalAt; decide
/-- An address in the cluster, one in the cellar, one of the host; the outbound queue one short of full, and full. -/
theorem witness_RemoteAccesses :
    let s := beside (demo [(1, 0x1000000000040000), (2, 0x4000000000000000), (3, 0x8000000000000000)]) [(1, 1)]
    s.Readable [4, 1, 2, 3] ∧ s.place s.cur.tile .plain 8 false (addrTI s.me 1 0) = .port 1 0
    ∧ s.place s.cur.tile .plain 8 false (addrTI s.me 2 0) = .gateway false 0 ∧ s.place s.cur.tile .plain 8 false (addrTI s.me 3 0) = .gateway true 0
    ∧ s.leavesShadow s.cur.tile 1 = false ∧ isShadow s.cur.tile = false
    ∧ (posting false 15).here.c.outq.length < 16 ∧ 16 ≤ (posting false 16).here.c.outq.length := by
  unfold State.Readable; decide
def faulted : State :=
  ctxWith (demo []) (fun c => { c with deferred := [{ launch := 0, tid := 0, path := 3, issued := 0, code := 0x0B, detail := 1, val := 8, since := 0 }] })
theorem witness_FencesAndDrains :
    (posting false 1).cellarPending 0 (posting false 1).me = true ∧ (posting true 1).storesPending 0 (posting true 1).me = true
    ∧ (posting true 1).cellarPending 0 (posting true 1).me = false ∧ (demo []).storesPending 0 (demo []).me = false
    ∧ (demo []).here.drainWaits (demo []).me 3 (demo []).here.r.cyc = false
    ∧ (posting false 1).here.drainWaits (posting false 1).me 3 (posting false 1).here.r.cyc = true
    ∧ (demo []).here.c.faultOf (demo []).me 3 = none
    ∧ faulted.here.drainWaits faulted.me 3 faulted.here.r.cyc = false ∧ (faulted.here.c.faultOf faulted.me 3).isSome = true
    ∧ (with_ faulted (fun th => { th with xvec := 0x400 })).me.atThird = false := by decide
/-- Another thread of the tile, one elsewhere, the caller; the register window's first and last addresses. -/
theorem witness_RegisterSynchronisation :
    let s := beside (demo [(1, 1 * 2 ^ 18), (2, 32), (3, 0)]) [(32, 1)]
    let u := s.setThr 0 1 { Thread.reset with hslot := 1 }
    (3 : Reg) ≠ 0 ∧ s.Readable [1, 2] ∧ s.inPartition 0 0 = true ∧ s.inPartition 0 32 = true ∧ s.storesPending 0 s.me = false
    ∧ (s.me.reg 3).toNat % 2 ^ 22 = s.me.tid ∧ (s.me.reg 1).toNat % 2 ^ 22 ≠ s.me.tid
    ∧ u.here.slotOfTid (2 ^ 18) u.me.launch = some 1 ∧ (1 : Fin 16) ≠ u.cur.slot ∧ s.here.slotOfTid 32 s.me.launch = none
    ∧ s.leavesShadow 0 32 = false
    ∧ s.place s.cur.tile .plain 8 false (addrTI s.me 0 0x7C0) = .here 0x40000
    ∧ s.place s.cur.tile .sync 8 false (addrTI s.me 0 0x7F8) = .here (0x40000 + 8 * 7) := by
  unfold State.Readable; decide
/-- A frame that fits exactly, one that does not, without and with an overflow segment, a misaligned sp. -/
theorem witness_StackFrames :
    let s := with_ (demo [(29, 0x120)]) (fun th => { th with splim := 0x100 })
    let v := with_ (demo [(29, 0x110)]) (fun th => { th with splim := 0x100, spov := 0x4000000000000031, spovlim := 0x4000000000000000 })
    (0x20 : BitVec 16).toNat % 16 = 0 ∧ (0x20 : BitVec 16) ≠ 0 ∧ s.Readable [29] ∧ s.me.atHome s.cur.tile = true
    ∧ (s.me.reg 29).toNat % 16 = 0 ∧ (s.me.reg 29).toNat < 2 ^ 60 ∧ s.me.splim.toNat + 0x20 = (s.me.reg 29).toNat
    ∧ s.LocalAt .plain 8 false 0x100 0x100 ∧ s.here.c.outq.length ≤ 16 ∧ s.captureBusy (0x100 / 64) = false
    ∧ ((demo [(29, 0x128)]).me.reg 29).toNat % 16 ≠ 0
    ∧ ((with_ v (fun th => { th with spov := 0 })).me.reg 29).toNat < v.me.splim.toNat + 0x20
    ∧ (with_ v (fun th => { th with spov := 0 })).me.spov.getLsbD 0 = false
    ∧ (v.me.reg 29).toNat < v.me.splim.toNat + 0x20 ∧ v.me.spov.getLsbD 0 = true ∧ v.here.c.outq.length ≤ 13 ∧ isShadow v.cur.tile = false
    ∧ (v.me.spovlim &&& ~~~15#64).toNat + 16 + 0x20 = (v.me.spov &&& ~~~15#64).toNat
    ∧ 2 ^ 62 + 16 + 0x20 ≤ (v.me.spov &&& ~~~15#64).toNat ∧ (v.me.spov &&& ~~~15#64).toNat ≤ 2 ^ 62 + 2 ^ 48 := by
  unfold State.Readable State.LocalAt; decide
/-- Each shape of the frames: an instruction, its destination, and a next state. -/
theorem witness_RegisterFrames : regOnly (.add false 3 1 2) = some 3 ∧ regOnly (.add false 0 1 2) = some 0
    ∧ gives (.add false 3 1 2) (demo []) 3 = some 0 ∧ predOnly (.cmpEq 2 1 1) = some 2 ∧ givesP (.cmpEq 2 1 1) (demo []) 2 = some true
    ∧ floatReg (.fadd 0 3 1 2) = some 3 ∧ gives (.fadd 0 3 1 2) (demo []) 3 = some 0 ∧ floatPred (.feq 2 1 1) = some 2
    ∧ givesP (.feq 2 1 1) (demo []) 2 = some true := by decide
theorem witness_RetirementFrame : Retires .nop (demo []) (demo []).me := rfl

/-- A message for mailbox 3 of tile 0. -/
def msg3 : Msg := { src := 5, mbox := 3, tag := 9, payload := List.replicate 48 1 }
def mailed : State := ctxWith (beside (demo [(1, 0xFFFF), (2, 0x100), (3, 32), (4, 0x0000001000000100)]) [(32, 1)])
  (fun c => { c with mail := c.mail.set 3 [msg3] })
theorem witness_MessagesAndSpawn :
    let s := mailed
    let full := ctxWith s (fun c => { c with slots := Vector.replicate 16 (some Thread.reset) })
    s.Readable [1, 2, 3, 4] ∧ s.poolOperand (s.me.reg 2) 8 48 1 = none ∧ (s.me.reg 3).toNat < 2 ^ 18 ∧ s.inPartition 0 32 = true
    ∧ s.leavesShadow 0 32 = false ∧ s.storesPending 0 s.me = false ∧ s.here.c.mail[(3 : Fin 16)] = [msg3]
    ∧ (0xFFFF : BitVec 16).getLsbD 3 = true ∧ (∀ i : Fin 16, i < 3 → s.here.c.mail[i] = []) ∧ s.captureFew 0x100 48 = false
    ∧ (∀ i : Fin 16, (0x0007 : BitVec 16).getLsbD i.val = true → s.here.c.mail[i] = [])
    ∧ ((s.me.reg 4).toNat % 2 ^ 32 % 16 = 0 ∧ (s.me.reg 4).toNat / 2 ^ 32 = 16 ∧ 16 ≤ (s.me.reg 4).toNat % 2 ^ 32
        ∧ (s.me.reg 4).toNat % 2 ^ 32 ≤ scrBytes s.here.c.poolcfg)
    ∧ s.here.r.replay = false ∧ s.spawnSlot.2 = some 1 ∧ (1 : Fin 16) ≠ s.cur.slot ∧ s.here.c.guests = [] ∧ full.spawnSlot.2 = none
    ∧ ¬ ((0x108 : Nat) % 16 = 0) := by
  unfold State.Readable; decide
/-- A member and a non-member of group 5, at home; a reduction due. -/
theorem witness_GroupInstructions :
    let s := demo [(1, 5)]
    let m : Membership := { group := 5, reds := 1, due := [0] }
    let four := with_ s (fun th => { th with groups := List.replicate 4 { m with group := 6 } })
    let u := with_ s (fun th => { th with groups := [m] })
    s.Readable [1] ∧ s.me.atHome 0 = true ∧ s.leavesShadow 0 ((s.park s.me (.group 3 0 5)).groupHome 0 5 * 32) = false
    ∧ s.leavesShadow 0 (clusterOf 0 * 32) = false
    ∧ s.me.member? 5 = none ∧ s.me.groups.length < 4 ∧ four.me.member? 5 = none ∧ 4 ≤ four.me.groups.length ∧ u.me.member? 5 = some m ∧ s.storesPending 0 s.me = false ∧ isShadow 0 = false
    ∧ (s.me.member? 5).bind (fun m => m.due.head?) = none ∧ (u.me.member? 5).bind (fun m => m.due.head?) = some 0 := by
  unfold State.Readable; decide
/-- A thread that may migrate to tile 32: the liveness entry of its offset names g1 and g2. -/
def leaving : State :=
  let s := beside (demo [(1, 0x2000000000800000), (2, 0x100), (3, 0)]) [(32, 1)]
  with_ (ctxWith s (fun c => { c with launches := [(0, { LaunchEntry.reset with live := 0x4000000000000000, nlive := 1, pkq := 0x4000000000000100 })] }))
    (fun th => { th with rbuf := [(0x4000000000000000, 0x0000000600000000)] })
theorem witness_ThreadServices :
    let s := leaving
    let e := s.here.launchOf s.me.lix
    s.Readable [1, 2, 3] ∧ (with_ s (fun th => { th with held := true })).me.held = true ∧ s.me.held = false
    ∧ ((demo []).here.launchOf 0).pkq = 0 ∧ e.pkq ≠ 0
    ∧ ((s.me.reg 1).toNat / 2 ^ 60 = 2 ∧ (s.me.reg 1).toNat % 2 ^ 60 < 2 ^ 36 ∧ s.inPartition 0 (namedTile 0 (s.me.reg 1)) = true)
    ∧ namedTile 0 (s.me.reg 1) = 32 ∧ namedTile 0 0x2000000000000000 = 0 ∧ s.me.xlvl = 0 ∧ (with_ s (fun th => { th with xlvl := 1 })).me.xlvl ≠ 0
    ∧ s.me.search e.live (s.me.pc.toNat / 2) 0 e.nlive.toNat none 33 = .found (some 6) ∧ maskCount (6 ||| regBit 1) ≤ 10
    ∧ s.storesPending 0 s.me = false ∧ (6 ||| regBit 1) &&& ~~~(s.me.full ||| 1) = 0 ∧ s.leavesShadow 0 32 = false
    ∧ s.here.c.guests = [] ∧ s.here.r.mode = .live ∧ s.poolOperand (s.me.reg 2) 8 64 64 = none ∧ isShadow 0 = false
    ∧ isShadow (2 ^ 18) = true := by
  unfold State.Readable; decide

/-! The engines. -/

/-- Pins a thread's vector length and progress point. -/
def span (s : State) (n p : BitVec 20) : State := with_ s (fun th => { th with vlen := n, pix := p })
/-- A tile whose range-lock table is full. -/
def crowded (s : State) : State :=
  ctxWith s (fun c => { c with locks := List.replicate 32 { tile := 9, op := 0, launch := 0, range := { lo := 0x3F00, hi := 0x3F01, write := false }, since := 0 } })

/-- Operands of each kind, the vector not yet begun, over, and empty; room in the lock table and none; each bad operand. -/
theorem witness_VectorIssue :
    let s := span (demo [(1, 0x100), (2, 0x200), (3, 0x300), (4, 0x400)]) 2 0
    s.Readable [1, 2, 3, 4] ∧ s.Scratch 0x100 4 8 ∧ s.Scratch 0x200 4 8 ∧ s.Scratch 0x300 4 8 ∧ s.Scratch 0x400 1 2 ∧ s.Scratch 0x100 4 0
    ∧ vecUsesB 0 = true ∧ vecUsesC 0 = true ∧ vecUsesE 17 = true
    ∧ s.me.pix.toNat < 2 ∧ 2 ≤ (span s 2 2).me.pix.toNat ∧ (span s 0 0).me.vlen.toNat = 0
    ∧ s.here.c.lockRoom [rangeAt 0x100 8 true, rangeAt 0x200 8 false] = true ∧ (crowded s).here.c.lockRoom [rangeAt 0x100 8 true] = false
    ∧ (spaceOf 0x4000000000000000 ≠ 0 ∧ (0x40000 : Word).getLsbD 18 = true ∧ (0x102 : Word).toNat % 4 ≠ 0)
    ∧ rangeRegion (pooled 1 []).here.c.poolcfg 0x3F000 0x3F004 ≠ 0 ∧ spaceOf 0x3F000 = 0 ∧ (0x3F000 : Word).getLsbD 18 = false := by
  unfold State.Readable State.Scratch; decide
theorem witness_VectorElements :
    let g : Eng := Eng.of (Memory.setBytes [] 0x300 [1, 0, 2, 0])
    (1 < 2 ∧ (0x100 + 2 * 4 ≤ 0x200 ∨ 0x200 + 2 * 4 ≤ 0x100)) ∧ vecUsesB 0 = true ∧ ETy.isInt 0 = true ∧ ETy.isFloat 2 = false
    ∧ (∀ i < 2, 0x100 + g.pool.read (0x300 + i * 2) 2 * 4 + 4 ≤ scrBytes 0
        ∧ (0x200 + 2 * 4 ≤ 0x100 + g.pool.read (0x300 + i * 2) 2 * 4 ∨ 0x100 + g.pool.read (0x300 + i * 2) 2 * 4 + 4 ≤ 0x200))
    ∧ 0x200 + 2 * 4 ≤ 0x300 := by decide
/-- A record of four I32 at `base`, rank 1, stride one element, version 1. -/
def record (base : Nat) : List Byte := leBytes 8 base ++ leBytes 8 0x12 ++ leBytes 8 (4 + 4 * 2 ^ 20) ++ leBytes 32 0 ++ leBytes 8 1 ++ leBytes 16 0 ++ leBytes 8 1 ++ leBytes 8 0
/-- An operation at the head of an engine queue. -/
def opOf (id : Nat) (job : Job) : EngOp :=
  { EngOp.fresh (some 0) Thread.reset job [] [] 0 none with id := id, listed := true }
/-- The machine with these operations queued on tile 0. -/
def queued (ops : List EngOp) : State := ctxWith (demo []) (fun c => { c with ops := ops, nextOp := 99 })
def lay0 : Layout := parseLayout (leNat (record 0x400))
def copyOp (id : Nat) : EngOp := opOf id (.copy 0 0 2 lay0 lay0 false)
def records (src dst : List Byte) (n : Nat) : State :=
  ctxWith (demo [(1, 0x100), (2, 0x180)]) (fun c => { c with pool := (c.pool.setBytes 0x100 src).setBytes 0x180 dst
                                                             ops := (List.range n).map copyOp })
/-- The machine with its acting tile moved to the shadow side. -/
def shadowed (s : State) : State := { s with tiles := [(2 ^ 18, s.tile 0)], cur := { s.cur with tile := 2 ^ 18 } }
/-- Two good records in the pool, a bad source, a bad destination; fifteen and sixteen copies in flight; a progress point at the end. -/
theorem witness_CopyInstructions :
    let s := records (record 0x400) (record 0x500) 15
    let x (s : State) : Nat := recordNat ((s.recordWords s.me (s.me.reg 1)).getD [])
    let y (s : State) : Nat := recordNat ((s.recordWords s.me (s.me.reg 2)).getD [])
    let bad : List Byte := leBytes 8 0x400 ++ leBytes 8 0x8000000000000012
    s.Readable [1, 2] ∧ s.recordAddr (s.me.reg 1) false = none ∧ s.recordAddr (s.me.reg 2) true = none
    ∧ s.recordRegion (s.me.reg 1) = none ∧ s.recordRegion (s.me.reg 2) = none
    ∧ (s.recordWords s.me (s.me.reg 1)).isSome = true ∧ (s.recordWords s.me (s.me.reg 2)).isSome = true
    ∧ s.recordsFault 0 0 false (s.me.reg 1) (s.me.reg 2) (x s) (y s) = none ∧ recordFault (x s) false 0x100 = none ∧ isShadow 0 = false
    ∧ s.recordsFault 0 1 false (s.me.reg 1) (s.me.reg 2) (x s) (y s) = none ∧ s.recordsFault 0 2 false (s.me.reg 1) (s.me.reg 2) (x s) (y s) = none
    ∧ s.here.c.copies < 16 ∧ 16 ≤ (records (record 0x400) (record 0x500) 16).here.c.copies
    ∧ (parseLayout (y s)).count = 4 ∧ (4 : BitVec 20).toNat ≥ 4 ∧ s.me.pix.toNat < 4
    ∧ (∀ r ∈ copyRanges 0 0 (parseLayout (x s)) (parseLayout (y s)), r.1 = 0)
    ∧ s.here.c.lockRoom ((copyRanges 0 0 (parseLayout (x s)) (parseLayout (y s))).map Prod.snd) = true
    ∧ (let v := shadowed (records (record 0x400) (record 0x4000000000000500) 0)
       v.Readable [1, 2] ∧ v.recordAddr (v.me.reg 1) false = none ∧ v.recordAddr (v.me.reg 2) true = none ∧ v.recordRegion (v.me.reg 2) = none
       ∧ (v.recordWords v.me (v.me.reg 1)).isSome = true ∧ (v.recordWords v.me (v.me.reg 2)).isSome = true
       ∧ v.recordsFault v.cur.tile 0 false (v.me.reg 1) (v.me.reg 2) (x v) (y v) = none ∧ isShadow v.cur.tile = true
       ∧ 4 ≤ spaceOf (parseLayout (y v)).base ∧ (v.here.launchOf v.me.lix).paired = false)
    ∧ (recordFault (x (records bad (record 0x500) 0)) false 0x100).isSome = true
    ∧ (recordFault (y (records (record 0x400) bad 0)) true 0x180).isSome = true := by
  unfold State.Readable; decide
theorem witness_LayoutLaws : 2 ≤ 2 ∧ swizzle 2 0 5 = swizzle 2 0 5 ∧ 0 < 2 := by decide
/-- Tile 0 with one unit of accumulators, four handles, in these states. -/
def accs (es : List (Nat × OwnEntry)) (pins : List (Nat × PinRec)) (rs : List (Reg × Word)) : State :=
  ctxWith (pooled 0x100 rs) (fun c => { c with own := es, pins := pins })
def own0 (st : OwnState) (pin : Nat) : OwnEntry := { OwnEntry.reset with state := st, pin := pin }
def pin0 (first : Nat) (bound : Bool) : PinRec := { key := 5, tokens := 0, spill := 0, first := first, cnt := 0, bound := bound, bad := false, cfg := 0x100 }
/-- The last handles of the file; each state an ACC instruction looks for; away from home. -/
theorem witness_AccumulatorInstructions :
    let regs : List (Reg × Word) := [(1, 5), (2, 0x4000000000000040), (3, 0x200), (4, 0)]
    let f := accs [] [] regs
    let o := accs [(3, own0 .owned 15)] [] regs
    let p := accs [(3, own0 .pinned 2)] [(2, pin0 3 true)] regs
    let fill := accs [] [(2, pin0 0 false)] regs
    3 + 1 ≤ accHandles f.here.c.poolcfg ∧ f.Readable [1, 2, 3, 4] ∧ f.me.atHome f.cur.tile = true
    ∧ (with_ f (fun th => { th with home := 5 })).me.atHome f.cur.tile = false
    ∧ f.ownChecks f.me true 3 1 = none ∧ f.here.c.lockHit f.here.r.cyc (accOff 0x100 3) (accOff 0x100 3 + 1024) = false
    ∧ (f.latchMine (linesOf (accOff 0x100 3) 1024)).2 = true
    ∧ o.ownChecks o.me false 3 1 = none ∧ (∀ i < 1, (o.here.c.entry (3 + i)).pin = 15) ∧ (o.here.c.entry 3).ovf < 2 ^ 16
    ∧ (∀ i < 1, (o.here.c.entry (3 + i)).state = .owned)
    ∧ f.accOperand 0x200 64 4 1 0 = none ∧ f.accOperand 0x200 64 4 1 16 = none ∧ f.me.pix.toNat < 1
    ∧ f.here.c.lockRoom [rangeAt 0x200 (16 * 64) false, { lo := accOff 0x100 3, hi := accOff 0x100 3 + 1024, write := true }] = true
    ∧ spaceOf (o.me.reg 2) = 4 ∧ (o.me.reg 2).toNat % 64 = 0 ∧ (5 : BitVec 32) ≠ 0 ∧ o.here.c.findKey 5 = none ∧ o.here.c.freePin = some 0
    ∧ (p.here.c.findKey 5).isSome = true
    ∧ f.here.c.attachOf f.me.hslot 5 3 1 = .refuse ∧ p.here.c.attachOf p.me.hslot 5 3 1 = .attach
    ∧ (accs [(3, { own0 .pinned 2 with att := true })] [(2, pin0 3 true)] regs).here.c.attachOf 0 5 3 1 = .already
    ∧ fill.here.c.attachOf fill.me.hslot 5 3 1 = .fill 2
    ∧ (let q := accs [(3, { own0 .pinned 2 with att := true })] [(2, pin0 3 true)] regs
       q.ownChecks q.me false 3 1 = none ∧ (q.here.c.entry 3).state = .pinned ∧ q.here.c.recordOf (q.here.c.entry 3) = some (pin0 3 true)
       ∧ (pin0 3 true).covers 3 1 = true) := by
  unfold State.Readable; decide
def mma0 : MmaOps := { comb := 4, acc := false, col := false, a := 1, b := 2, k := 3, h := 0, pa := 64, pb := 64 }
/-- A delta descriptor of 16 by 16, one token, F32 out of BF16, and one with a bad dimension. -/
def deltaBytes (dk : Nat) : List Byte :=
  leBytes 8 0x400 ++ leBytes 8 0x440 ++ leBytes 8 0x480 ++ leBytes 8 0x4C0 ++ leBytes 8 0x500 ++ leBytes 2 dk ++ leBytes 2 16 ++ leBytes 2 1
    ++ leBytes 2 0x0605 ++ leBytes 2 32 ++ leBytes 2 32 ++ leBytes 2 32 ++ leBytes 2 64 ++ leBytes 8 0
theorem witness_MatrixInstructions :
    let s (k : Word) := accs [(0, own0 .owned 15)] [] [(1, 0x800), (2, 0x1000), (3, k), (4, 0x2000)]
    let d (dk : Nat) := ctxWith (s 1) (fun c => { c with pool := c.pool.setBytes 0x800 (deltaBytes dk) })
    let desc := parseDelta ((d 16).here.c.pool.bytes 0x800 64)
    (s 65535).Readable [1, 2, 3, 4] ∧ (s 1).ownChecks (s 1).me false 0 1 = none
    ∧ 65535 < ((s 65536).me.reg 3).toNat ∧ ((s 65535).me.reg 3).toNat ≤ 65535 ∧ ((s 0).me.reg 3).toNat = 0 ∧ 0 < ((s 1).me.reg 3).toNat
    ∧ baseCheck 0x800 4 = none ∧ baseCheck 0x1000 4 = none ∧ baseCheck 0x2000 2 = none
    ∧ (∀ x ∈ mmaRanges (s 1).here.c.pool (s 1).me mma0 none 1, rangeCheck 0x100 x.1 x.2.1 x.2.2 = none)
    ∧ (∀ x ∈ mmaRanges (s 1).here.c.pool (s 1).me mma0 (some 4) 1, rangeCheck 0x100 x.1 x.2.1 x.2.2 = none)
    ∧ (s 0).here.c.lockRoom [accRange 0x100 0 1] = true
    ∧ (s 1).Scratch 0x800 2 (15 * 32 + 16 * 2) ∧ (s 1).Scratch 0x1000 2 (256 * 2) ∧ (32 : BitVec 16).toNat % 2 = 0
    ∧ (d 16).Scratch 0x800 64 64 ∧ deltaFault ((d 16).here.c.pool.bytes 0x800 64) = none ∧ (deltaFault ((d 17).here.c.pool.bytes 0x800 64)) = some 5
    ∧ (∀ x ∈ desc.spans 0, x.check 0x100 = none) ∧ (∀ x ∈ desc.spans 1, x.check 0x100 = none) ∧ desc.handles = 1
    ∧ (0x40 : Nat) % 64 = 0 ∧ rangeRegion 0x100 0x800 0x840 = 0 ∧ (s 1).partner 0 = none
    ∧ (let g := beside (ctxWith (demo []) (fun c => { c with gridw := 2 })) [(1, 1), (2, 1), (3, 1)]
       g.partner 0 = none ∧ ({ g with cur := { g.cur with tile := 1 }, tiles := g.tiles.map (fun t => (t.1, { t.2 with c := { t.2.c with gridw := 2 } })) } : State).partner 1 = some 2) := by
  unfold State.Readable State.Scratch; decide
/-- Tile 0 ships eight latched lines, with these still to come. -/
def midShip (s : State) (lines : List Nat) (latched : Nat) : State :=
  routerWith s (fun r => { r with ship := some { ivn := 3, cyc := 0, base := 0, lines := lines.map (fun l => { line := l, bytes := [], empty := [] })
                                                 latched := List.replicate latched { line := 9, bytes := [], empty := [] }, count := 9
                                                 ctx := TileCtx.reset, mask := 0 } })
def vecOp : EngOp := opOf 7 (.vec 0 6 6 0 false false 0x100 0x200 0x300 0 0 2)
theorem witness_EngineEvents :
    let o := vecOp
    let w : EngOp := { o with ranges := [{ lo := 0x100, hi := 0x108, write := true }] }
    let s := queued [o]
    let r : EngOp := { w with started := some 0 }
    let far : EngOp := { copyOp 7 with far := [{ tile := 1, range := { lo := 0, hi := 8, write := true }, granted := false }] }
    let busy := midShip (queued [r]) [4] 8
    let wait : EngOp := { copyOp 7 with job := .copy 1 0 0 lay0 lay0 false, started := some 0 }
    let stopping := routerWith (queued [wait]) (fun r => { r with mode := .stopping })
    (s.tile 0).c.op? 7 = some o ∧ o.started = none ∧ (s.tile 0).c.canStart o = true ∧ (s.tile 0).r.starts o = true ∧ o.job.unit ≤ 2
    ∧ ((queued [r, o]).tile 0).c.canStart o = false ∧ ((queued [r]).tile 0).c.op? 7 = some r ∧ r.started.isSome = true
    ∧ ((routerWith s (fun r => { r with mode := .stopping })).tile 0).r.starts o = false
    ∧ (busy.captureOp 0 7 (r.writesNow (busy.tile 0).c)).2 = false ∧ ((queued [r]).captureOp 0 7 (r.writesNow ((queued [r]).tile 0).c)).2 = true ∧ (queued [r]).stopsAt 0 r = none
    ∧ ((queued [copyOp 7]).tile 0).c.op? 7 = some (copyOp 7) ∧ isLocalCopy 0 lay0 lay0 = true
    ∧ (stopping.tile 0).c.op? 7 = some wait ∧ stopping.stopsAt 0 wait = some 0 ∧ (queued [copyOp 7]).stopsAt 0 (copyOp 7) = none
    ∧ (stopping.captureOp 0 7 (writeLines wait.ranges)).2 = true
    ∧ isLocalCopy 0 lay0 { lay0 with base := 0x4000000000000000 } = false
    ∧ ((queued [copyOp 7]).captureOp 0 7 (writeLines (copyOp 7).ranges)).2 = true ∧ (busy.captureOp 0 7 (writeLines r.ranges)).2 = false
    ∧ (copyOp 7).spanOver (copyOp 7).spanRun = false ∧ (copyOp 7).spanRun % 2 ^ (copyOp 7).spanBlocks + 1 ≠ 2 ^ (copyOp 7).spanBlocks
    ∧ (copyOp 7).fault = none ∧ (let x : EngOp := { copyOp 7 with run := (2 : Int) ^ ((copyOp 7).spanBlocks + 1) - 1 }
       x.spanOver x.spanRun = true)
    ∧ ((queued [far]).tile 0).c.op? 7 = some far
    ∧ ((queued [far]).tile 1).c.lockRoom ((far.far.filter (fun f => f.tile == 1 && !f.granted)).map FarRange.range) = true
    ∧ ((crowded (queued [far])).tile 0).c.lockRoom [{ lo := 0, hi := 8, write := true }] = false
    ∧ ((crowded (queued [far])).tile 0).r.quiet = false
    ∧ (queued []).leavesShadow 0 1 = false ∧ ({ (queued []) with input := .op 0 7 } : State).input = .op 0 7 := by decide
/-- An operation of a vector is no attachment, spill or copy. -/
theorem witness_EngineEvents_plain : (∀ h n p q, vecOp.job ≠ .accAtt h n p q) ∧ (∀ h n p, vecOp.job ≠ .accSpl h n p) := by
  constructor <;> (intros; simp [vecOp, opOf, EngOp.fresh])

/-! Merge rounds, collectives and their events. -/

/-- A round of id 3 with one larder group of one handle, that group in the given state, for an id. -/
def group0 (st id : Nat) : Group := { Group.open 0 with state := st, id := id }
def round0 (gs : List Group) : Round :=
  { area := 0x1000, op := 0, round := 3, nids := 2, total := 3, n := 1, bnext := 0, committed := 0, absent := 0, rejected := 0, refused := 0
    owner := 0, ctiles := 0, groups := gs, seen := [], done := [], order := [], busy := false }
def inRound (r : Round) (rs : List (Reg × Word)) : State := ctxWith (accs [(3, own0 .owned 15)] [] rs) (fun c => { c with round := some r })
/-- Opening, sending, the traps and answers of each merge instruction, ids at the ends of their range. -/
theorem witness_MergeInstructions :
    let a : Word := 0x0000000200000003
    let s := accs [(3, own0 .owned 15)] [] [(1, a), (2, 0x1000), (3, 0x0000000100000003), (4, 32)]
    let none_ := ctxWith s (fun c => { c with own := (List.range 3).map (fun i => (i, own0 .owned 15)) ++ [(3, own0 .owned 15)] })
    let b := beside s [(32, 1)]
    s.me.atHome 0 = true ∧ s.Readable [1, 2, 3, 4] ∧ s.here.c.round = none ∧ a.toNat % 2 ^ 32 ≠ 0 ∧ 0 < a.toNat / 2 ^ 32 ∧ a.toNat / 2 ^ 32 ≤ 4096
    ∧ s.Scratch 0x1000 64 1344 ∧ 3 + 1 ≤ accHandles s.here.c.poolcfg ∧ s.ownChecks s.me false 3 1 = none
    ∧ s.here.c.lockHit s.here.r.cyc 0x1000 (0x1000 + 1344) = false ∧ s.captureFew 0x1000 1344 = false ∧ s.here.c.larder 3 1 1 = [0] ∧ none_.here.c.larder 3 1 1 = []
    ∧ s.here.c.lockRoom [rangeAt 0x1000 1344 true] = true
    ∧ (b.me.reg 3).toNat / 2 ^ 48 = 0 ∧ (b.me.reg 3).toNat % 2 ^ 32 ≠ 0 ∧ (b.me.reg 4).toNat < 2 ^ 18 ∧ b.inPartition 0 32 = true
    ∧ b.Scratch 0x1000 64 1024 ∧ b.me.pix.toNat < 1 ∧ 1 ≤ (span b 0 1).me.pix.toNat ∧ b.storesPending 0 b.me = false ∧ b.leavesShadow 0 32 = false
    := by
  unfold State.Readable State.Scratch; decide
theorem witness_MergeInstructions_round :
    let s := accs [(3, own0 .owned 15)] [] []
    let r := round0 [group0 0 0]
    let q (r : Round) : State := inRound r [(1, 1)]
    s.here.ownsRound 0 s.me = none ∧ (q r).here.ownsRound 0 (q r).me = some r
    ∧ ({ r with order := [0] }).order = 0 :: [] ∧ r.groups[0]? = some (group0 0 0)
    ∧ r.order = [] ∧ r.seen.length ≠ r.nids ∧ ({ r with seen := [0, 1] }).seen.length = r.nids ∧ r.groups.any (fun g => g.state == 1) = false
    ∧ r.groupAt 0 (fun st => st == 3 || st == 4) = none ∧ (round0 [group0 3 1]).groupAt 0 (fun st => st == 3 || st == 4) = some 0
    ∧ (round0 [group0 4 1]).groupAt 0 (fun st => st == 4) = some 0 ∧ limitBad 0x7F800000 = false ∧ limitBad 0xBF800000 = true ∧ limitBad 0x80000000 = false
    ∧ (2 ^ 16 ≤ (0x10000 : Word).toNat ∧ r.nids ≤ (2 : Word).toNat ∧ (1 : Word).toNat < r.nids ∧ (0 : Word).toNat < r.nids)
    ∧ 1 ∈ ({ r with seen := [1] }).seen ∧ r.boundTo 1 = none ∧ 1 ∉ r.seen ∧ (round0 [group0 1 1]).boundTo 1 = some 0
    ∧ s.here.c.closing (round0 [group0 2 1]) = .arrived ∧ s.here.c.closing (round0 [group0 3 1]) = .unsealed 0
    ∧ (q r).captureFew r.area 1344 = false ∧ s.here.c.closing { r with done := [0, 1] } = .closed ∧ s.here.c.closing r = .wait := by decide
/-- A graph of one receive from tile 1, or one SEND to it, and its round. -/
def collOp (kind st : Nat) (acked : List Nat) : CollOp :=
  { lo := BitVec.ofNat 64 (kind + 1 * 2 ^ 40), hi := 0x0000200000000000, deps := 0, st := st, bytes := 0, acked := acked }
def coll0 (state : Nat) (ops : List CollOp) : Coll :=
  { area := 0x2000, op := 0, launch := 0, h0 := 0, h1 := 0, hash := 7, ops := ops, state := state, round := 5, ndone := 0, left := 0, ends := 0
    mop := 0, mhash := 0, bases := [0x400], held := none, rangeOp := none, ran := false }
def inColl (c : Coll) (rs : List (Reg × Word)) : State := ctxWith (beside (demo rs) [(1, 1)]) (fun x => { x with coll := some c })
theorem witness_CollectiveInstructions :
    let s := demo [(1, 0x1000), (2, 0x2000), (3, 0x4000000000000000), (4, 0x800), (5, 0xFFFF), (6, 0x10000)]
    let idle := inColl (coll0 0 [collOp 2 0 []]) []
    let c := coll0 0 [collOp 2 0 []]
    s.Readable [1, 2, 3, 4, 5] ∧ graphAddr 0x1000 16 true = none ∧ s.Scratch 0x2000 64 64 ∧ (1 : Reg) ≠ 0 ∧ s.Scratch 0x1000 16 32
    ∧ s.Scratch 0x2000 64 (areaLen 0) ∧ s.here.c.lockRoom [rangeAt 0x2000 (areaLen 0) true, rangeAt 0x1000 32 false] = true
    ∧ graphAddr 0x4000000000000000 16 true = none ∧ spaceOf 0x4000000000000000 = 4 ∧ s.me.readBuf 0x4000000000000000 = none
    ∧ s.here.c.lockRoom [] = true ∧ s.poolOperand 0x800 8 64 8 = none ∧ s.here.c.coll = none ∧ idle.here.c.coll = some c
    ∧ c.active = false ∧ (coll0 1 []).active = true ∧ (0 : Word).toNat % 2 ^ 16 = 0 ∧ 2 ^ 16 ≤ (s.me.reg 6).toNat
    ∧ s.me.reg 5 ≠ 0 ∧ (s.me.reg 5).toNat < 2 ^ 16 ∧ c.badBase 0 [0x400] = none ∧ c.badBase 0 [0x3FFFF] = some 0
    ∧ s.here.c.lockRoom (c.baseRanges [0x400]) = true ∧ (crowded s).here.c.lockRoom (c.baseRanges [0x400]) = false
    ∧ c.ran = false ∧ ({ c with ran := true }).ran = true ∧ (coll0 5 []).state = 5 ∧ (coll0 4 []).state ≠ 5 ∧ (coll0 2 []).active = false
    ∧ (coll0 1 []).state = 1 ∧ (inColl (coll0 1 []) []).captureFew (coll0 1 []).area (areaLen (coll0 1 []).h0) = false
    ∧ (let z : Thread := (thr []); graphAddr (z.reg 0) 16 true = none ∧ z.reg 0 = 0) := by
  unfold State.Readable State.Scratch; decide
/-- A parked thread of tile 0, with the wake number 7. -/
def parked (why : ParkWhy) : State := with_ (demo []) (fun th => { th with park := some ⟨why, 7, 1, 0⟩, xvec := 0x400 })
def ref7 : Ref := { tile := 0, tok := 7 }
theorem witness_MergeEvents :
    let s := beside (inRound (round0 [group0 0 0]) []) [(1, 1)]
    let full := inRound (round0 [group0 1 1]) []
    let r := round0 [group0 1 1]
    let p := parked (.bwait 3)
    let c := ctxWith full (fun c => { c with ops := [opOf 9 (.commit 0 1)] })
    let cm : EngOp := { opOf 9 (.commit 0 1) with started := some 0 }
    let stopping := routerWith (ctxWith full (fun c => { c with ops := [cm] })) (fun r => { r with mode := .stopping })
    let ls := writeLines [accRange (c.tile 0).c.poolcfg r.total r.n] ++ linesOf r.area recordLen
    (routerWith s (fun r => { r with mode := .stopping }) |>.tile 0).r.mode = .stopping ∧ (s.tile 0).r.quiet = false
    ∧ ¬ ((s.tile 0).r.mode = .stopping ∨ (s.tile 0).r.mode = .saved) ∧ s.leavesShadow 0 1 = false ∧ s.leavesShadow 1 0 = false
    ∧ ((demo []).tile 0).c.round = none ∧ (s.tile 0).c.round = some (round0 [group0 0 0])
    ∧ Round.refusal (some r) 4 1 1 = some 1 ∧ Round.refusal (some r) 3 2 1 = some 3 ∧ Round.refusal (some r) 3 1 2 = some 4
    ∧ Round.refusal (some { r with seen := [1] }) 3 1 1 = some 2 ∧ Round.refusal (some r) 3 1 1 = none
    ∧ r.freeGroup = none ∧ (round0 [group0 0 0]).freeGroup = some 0
    ∧ (full.tile 0).c.round = some r ∧ r.boundTo 1 = some 0 ∧ r.groups[0]? = some (group0 1 1) ∧ (group0 1 1).mark = false
    ∧ r.area + 1344 ≤ accOff 0x100 (group0 1 1).first + 256 * 0 ∧ (group0 1 1).parts ≠ 4 * r.n
    ∧ ({ group0 1 1 with parts := 4 } : Group).parts = 4 * r.n
    ∧ s.packetGroup 0 3 1 = none
    ∧ (c.tile 0).c.op? 9 = some (opOf 9 (.commit 0 1)) ∧ (c.tile 0).c.round = some r
    ∧ c.stopsAt 0 (opOf 9 (.commit 0 1)) = none ∧ r.n = 1
    ∧ (stopping.tile 0).c.op? 9 = some cm ∧ stopping.stopsAt 0 cm = some 0 ∧ (stopping.captureOp 0 9 ls).2 = true
    ∧ (c.captureOp 0 9 ls).2 = true ∧ ((midShip c (ls.take 1) 8).captureOp 0 9 ls).2 = false
    ∧ p.Names ref7 0 ∧ (p.thr 0 0).park = some ⟨.bwait 3, 7, 1, 0⟩ ∧ (ParkWhy.bwait 3) ≠ .bsend ∧ (p.thr 0 0).atThird = false
    ∧ ({ s with input := .merge 0 1 7 3 1 1 0 [] } : State).input = .merge 0 1 7 3 1 1 0 [] := by
  unfold State.Names; decide
/-- A chunk for the receive of `coll0`. -/
def chunk0 : Chunk := { src := 1, span := false, round := 5, op := 0, hash := 7, off := 0, idx := 0, data := [1, 2, 3, 4] }
theorem witness_CollectiveEvents :
    let g (st : Nat) (acked : List Nat) := coll0 1 [collOp 2 st acked]
    let hold := { coll0 0 [] with held := some (6, 0, 0) }
    let send := collOp 0 1 []
    let sends := coll0 1 [send]
    let d := inContext (demo []) { context0 with deferred := true, res := .stopping }
    let pre := ctxWith (inColl (g 1 []) []) (fun x => { x with preempt := true })
    ((inColl (g 1 []) []).tile 0).r.mode.stops = false ∧ ((inColl sends []).tile 0).r.mode.stops = false
    ∧ (routerWith (inColl (g 1 []) []) (fun r => { r with mode := .stopping }) |>.tile 0).r.mode.stops = true
    ∧ (inColl (g 1 []) []).here.c.coll = some (g 1 []) ∧ hold.held = some (6, 0, 0)
    ∧ ((posting false 1).tile 0).c.outq.any (fun p => p.launch == 0 && p.tid == 0 && decide (p.issued ≤ hold.ends)) = true
    ∧ ((demo []).tile 0).c.outq.any (fun p => p.launch == 0 && p.tid == 0 && decide (p.issued ≤ hold.ends)) = false
    ∧ (g 1 []).state = 1 ∧ (g 1 []).round = 5 ∧ (g 1 []).ends ≤ ((demo []).tile 0).r.cyc ∧ ((demo []).tile 0).r.cyc < ({ g 1 [] with ends := 1 } : Coll).ends
    ∧ (coll0 2 []).state ≠ 1
    ∧ chunkFate (some (g 1 [])) { chunk0 with hash := 8 } = .mismatch ∧ chunkFate (some (g 1 [])) chunk0 = .take 0
    ∧ (g 1 []).ops[0]? = some (collOp 2 1 [])
    ∧ opKind (collOp 2 1 []) = 2 ∧ spaceOf ((g 1 []).bases.getD (opBase (collOp 2 1 [])) 0) = 0 ∧ spaceOf (0x400 + BitVec.ofNat 64 chunk0.off) = 0
    ∧ (inColl (g 1 []) []).leavesShadow 0 1 = false ∧ chunk0.span = false
    ∧ sends.ops[0]? = some send ∧ sends.state = 1 ∧ sends.round = 5
    ∧ send.st = 1 ∧ opKind send = 0 ∧ send.acked.contains 0 = false ∧ send.bytes + chunkLen (opLen send) 0 < opLen send ∧ opSpan send = false
    ∧ sends.round = chunk0.round ∧ (inColl sends []).leavesShadow 0 (shadowBase 0 + opPeer send) = false
    ∧ (collOp 0 1 [0]).acked.contains 0 = true
    ∧ chunkFate (some (g 1 [0])) chunk0 = .repeated ∧ chunkFate none chunk0 = .refused ∧ chunkFate (some (g 0 [])) chunk0 = .refused
    ∧ (d.dev.ctx? 1).isSome = true ∧ ({ context0 with deferred := true, res := .stopping } : Machine.Ctx).deferred = true
    ∧ (pre.tile 0).c.coll = some (g 1 []) ∧ (pre.tile 0).c.preempt = true
    ∧ context0.deferred = false ∧ ({ (demo []) with input := .tileNum 0 5 } : State).input = .tileNum 0 5 := by decide
/-- Frames with their CRC; a peer of context 1 at port 0; ports that have been silent, and not. -/
def frame (type seq round : Nat) (rest : List Byte) : List Byte := sealFrame (frameHeader type 7 9 seq round ++ rest)
def peered : State :=
  devWith (beside (demo []) []) (fun d => { d with peers := [(1, [(0, { v := true, cp := true, ch := true, port := 0, ptag := 9, dev := 7, rate := 0 })])] })
def frameOf (bs : List Byte) : Nat × Nat × Nat := match openFrame bs with | some f => (f.type, f.seq, f.round) | none => (99, 0, 0)
theorem witness_SpanEvents_frames : openFrame (frameHeader 4 7 9 0 0) = none ∧ frameOf (frame 4 0 0 []) = (4, 0, 0) ∧ frameOf (frame 3 0 5 []) = (3, 0, 5)
    ∧ frameOf (frame 1 (2 ^ 27) 0 (block 0 4 [0, 0, 0, 0])) = (1, 2 ^ 27, 0) ∧ frameOf (frame 0 0 0 (block 0 1 [5])) = (0, 0, 0)
    ∧ frameOf (frame 2 0 5 (chunkHeader 7 0 0 ++ block 0 1 [5])) = (2, 0, 5) := by decide
theorem witness_SpanEvents :
    ((openFrame (frame 3 0 5 [])).bind peered.dev.sourceOf).isSome = true ∧ ((openFrame (frame 3 0 5 [])).bind (demo []).dev.sourceOf) = none
    ∧ ((openFrame (frame 3 0 5 [])).bind peered.dev.sourceOf).map (fun x => (x.1, x.2.port)) = some (1, 0)
    ∧ blockReserved (block 0 1 [5]) = false ∧ blockReserved [0, 0, 0, 0x20, 5] = true
    ∧ (inColl (coll0 1 [collOp 0 1 []]) []).here.c.coll = some (coll0 1 [collOp 0 1 []])
    ∧ (coll0 1 [{ collOp 0 1 [] with lo := (collOp 0 1 []).lo ||| 4 }]).sendFor 1 0 = some 0
    ∧ peered.tileOf 1 0 = some 0 ∧ unpackBlock (block 0 1 [5]) = some [5] ∧ unpackBlock (block 0 4 [0, 0, 0, 0]) = some [0, 0, 0, 0]
    ∧ ((frame 2 0 5 (chunkHeader 7 0 0)).drop 16).length = 20 ∧ leNat (chunkHeader 7 0 0) / 2 ^ 40 % 2 ^ 24 = 0 ∧ leNat (chunkHeader 7 0 0) / 2 ^ 96 = 0
    ∧ (coll0 1 []).round = 5 ∧ 25000 ≤ ({ peered with now := 25000 } : State).now - (peered.dev.port 0).lastTx
    ∧ ({ peered with now := 24999 } : State).now - (peered.dev.port 0).lastTx < 25000
    ∧ 2500000 ≤ ({ peered with now := 2500000 } : State).now - (peered.dev.port 0).lastRx
    ∧ ({ peered with now := 2499999 } : State).now - (peered.dev.port 0).lastRx < 2500000 := by decide
/-- 02 R38: the worked example's block headers. -/
theorem test_blocks : leNat ((block 1 4096 (List.replicate 864 0)).take 4) = 0x03609000 ∧ leNat ((block 0 1808 (List.replicate 1808 0)).take 4) = 0x07100710
    := by decide

/-! Completion: the states above meet the conditions together. -/

theorem witness_ThreadServices_complete :
    let s := leaving
    let u := s.setThr 0 1 { Thread.reset with hslot := 1 }
    let home (x : Word) : Nat := 0 / 2 ^ 18 * 2 ^ 18 + x.toNat % 2 ^ 22 % 2 ^ 18
    (2 : Reg) ≠ 0 ∧ s.Readable [3, 2] ∧ s.inPartition 0 (home (s.me.reg 3)) = true ∧ s.storesPending 0 s.me = false
    ∧ (s.me.reg 3).toNat % 2 ^ 22 = s.me.tid ∧ (2 ^ 18 : Nat) % 2 ^ 22 ≠ u.me.tid ∧ u.here.slotOfTid (2 ^ 18) u.me.launch = some 1 ∧ (1 : Fin 16) ≠ u.cur.slot
    ∧ s.inPartition 0 (home (2 ^ 18)) = true
    ∧ s.me.held = false ∧ (s.here.launchOf s.me.lix).pkq ≠ 0 ∧ (with_ s (fun th => { th with held := true })).me.held = true
    ∧ ((s.me.reg 1).toNat / 2 ^ 60 = 2 ∧ (s.me.reg 1).toNat % 2 ^ 60 < 2 ^ 36 ∧ s.inPartition 0 (namedTile 0 (s.me.reg 1)) = true)
    ∧ namedTile 0 (s.me.reg 1) ≠ 0 ∧ namedTile 0 0x2000000000000000 = 0 ∧ s.me.xlvl = 0
    ∧ s.me.search (s.here.launchOf s.me.lix).live (s.me.pc.toNat / 2) 0 (s.here.launchOf s.me.lix).nlive.toNat none 33 = .found (some 6)
    ∧ maskCount (6 ||| regBit 1) ≤ 10 ∧ (6 ||| regBit 1) &&& ~~~(s.me.full ||| 1) = 0 ∧ s.leavesShadow 0 (namedTile 0 (s.me.reg 1)) = false
    ∧ s.here.r.mode = .live ∧ s.poolOperand (s.me.reg 2) 8 64 64 = none ∧ isShadow s.cur.tile = false
    ∧ (let v := shadowed s; v.poolOperand (v.me.reg 2) 8 64 64 = none ∧ isShadow v.cur.tile = true) := by
  unfold State.Readable; decide
/-- The operands of `witness_VectorIssue`, before the vector's end and at it; a table for the indexed members. -/
theorem witness_VectorIssue_complete :
    let s := span (demo [(1, 0x100), (2, 0x200), (3, 0x300), (4, 0x400)]) 2 0
    s.Readable [1, 2, 3, 4] ∧ s.Scratch (s.me.reg 1) 4 (2 * 4) ∧ s.Scratch (s.me.reg 2) 4 (2 * 4) ∧ s.Scratch (s.me.reg 3) 4 (2 * 4)
    ∧ s.Scratch (s.me.reg 4) 1 (2 * 1) ∧ s.Scratch (s.me.reg 2) 4 0 ∧ s.Scratch (s.me.reg 3) 2 (2 * 2) ∧ s.me.pix.toNat < s.me.vlen.toNat
    ∧ (span s 2 2).me.vlen.toNat ≤ (span s 2 2).me.pix.toNat ∧ 0 < s.me.vlen.toNat := by
  unfold State.Readable State.Scratch; decide
theorem witness_CopyInstructions_complete :
    let s := records (record 0x400) (record 0x500) 15
    let x : Nat := recordNat ((s.recordWords s.me (s.me.reg 1)).getD [])
    let y : Nat := recordNat ((s.recordWords s.me (s.me.reg 2)).getD [])
    let mine (f : Nat) : List Range := ((copyRanges 0 f (parseLayout x) (parseLayout y)).filter (fun r => r.1 == 0)).map Prod.snd
    let good (f : Nat) : Prop := s.recordsFault 0 f false (s.me.reg 1) (s.me.reg 2) x y = none ∧ s.here.c.lockRoom (mine f) = true
    let d := ctxWith (accs [(0, own0 .owned 15)] [] [(1, 0x800), (2, 5)]) (fun c => { c with pool := c.pool.setBytes 0x800 (deltaBytes 16) })
    let e := parseDelta (d.here.c.pool.bytes 0x800 64)
    s.Readable [1, 2] ∧ s.recordAddr (s.me.reg 1) false = none ∧ s.recordAddr (s.me.reg 2) true = none
    ∧ s.recordRegion (s.me.reg 1) = none ∧ s.recordRegion (s.me.reg 2) = none ∧ (s.recordWords s.me (s.me.reg 1)).isSome = true
    ∧ (s.recordWords s.me (s.me.reg 2)).isSome = true ∧ isShadow s.cur.tile = false ∧ (s.here.launchOf s.me.lix).paired = false ∧ s.here.c.copies < 16
    ∧ good 0 ∧ good 1 ∧ good 2 ∧ s.me.pix.toNat < (parseLayout y).count ∧ (parseLayout y).count ≤ (span s 0 4).me.pix.toNat
    ∧ d.me.pix.toNat < e.c ∧ d.me.pix.toNat < e.handles ∧ 0 + e.handles ≤ accHandles d.here.c.poolcfg
    ∧ d.ownChecks d.me false 0 e.handles = none := by
  unfold State.Readable; decide
/-- A sealed group's norm, a group to norm and an arrival, each in a round of the thread's own; a graph that has run. -/
theorem witness_MergeInstructions_complete :
    let q (g : Group) (order : List Nat) : State := inRound { round0 [g] with order := order } [(1, 1)]
    let w := q (group0 2 1) [0]
    let m := q (group0 3 1) []
    let g := coll0 2 [collOp 2 0 []]
    let c := inColl { g with ran := true } [(1, 0x400), (2, 5)]
    w.me.atHome 0 = true ∧ w.here.ownsRound 0 w.me = some { round0 [group0 2 1] with order := [0] } ∧ w.captureFew 0x1000 1344 = false
    ∧ m.here.ownsRound 0 m.me = some (round0 [group0 3 1]) ∧ m.me.pix.toNat < 1
    ∧ (q (group0 4 1) []).here.c.round = some (round0 [group0 4 1]) ∧ limitBad (q (group0 4 1) []).me.blim.toNat = false
    ∧ m.Readable [1] ∧ (m.me.reg 1).toNat < (round0 [group0 0 0]).nids ∧ (round0 [group0 0 0]).boundTo 1 = none
    ∧ c.here.c.coll = some { g with ran := true } ∧ c.Readable [1, 2] ∧ c.colBases (c.me.reg 1) = none ∧ g.active = false ∧ c.me.reg 2 ≠ 0
    ∧ (c.me.reg 2).toNat < 2 ^ 16
    ∧ g.badBase 0 ((List.range 8).map (fun i => BitVec.ofNat 64 (c.poolNat (0x400 + 8 * i) 8))) = none
    ∧ c.here.c.lockRoom (g.baseRanges ((List.range 8).map (fun i => BitVec.ofNat 64 (c.poolNat (0x400 + 8 * i) 8)))) = true ∧ g.state ≠ 5 := by
  unfold State.Readable; decide

/-! Events of threads, groups and memory. -/

/-- A migrant of a thread whose home is slot 1 of tile 0, and its reservation. -/
def far : Thread := { Thread.reset with hslot := 1, launch := 1 }
def resv0 (transit : Bool) (bounces : Nat) : Resv :=
  { away := 32, splim := 0, spov := 0, spovlim := 0, bounces := bounces, launch := 1, transit := transit, fills := [], waiting := none }
def homed (transit : Bool) (bounces : Nat) : State :=
  ctxWith (beside (demo []) [(32, 1)]) (fun c => { c with resv := [(1, resv0 transit bounces)] })
/-- Tile 32 with every slot taken, and with every guest entry taken too. -/
def crowdedTile (guests : List Guest) : State :=
  let s := homed false 0
  s.setCtx 32 { (s.tile 32).c with slots := Vector.replicate 16 (some Thread.reset), guests := guests }
theorem witness_MigrantEvents :
    let s := homed false 0
    let g := (List.range 16).map (fun i => ({ entry := 16 + i, thread := Thread.reset, refused := none } : Guest))
    far.atHome 32 = false ∧ s.leavesShadow 32 (shadowBase 32 + far.home.toNat) = false ∧ (s.tile 32).freeSlot = some 0
    ∧ ((crowdedTile []).tile 32).freeSlot = none ∧ ((crowdedTile []).tile 32).c.freeEntry = some 16 ∧ ((crowdedTile g).tile 32).c.freeEntry = none
    ∧ far.held = false ∧ ({ far with held := true } : Thread).held = true ∧ ((crowdedTile g).tile 32).r.quiet = false ∧ (s.tile 32).r.quiet = false
    ∧ (some 32 : Option TileId) = some (resv0 false 0).away ∧ (none : Option TileId) ≠ some (resv0 false 0).away
    ∧ (s.tile 0).c.guests = [] ∧ (s.tile 0).c.resv.get? (2 ^ 18 / 2 ^ 18) = some (resv0 false 0)
    ∧ far.atHome 0 = true ∧ (s.tile 0).c.resv.get? far.hslot.toNat = some (resv0 false 0) ∧ (s.tile 0).freeSlot = some 1
    ∧ 14 + 1 < (s.tile 0).c.migretry.toNat ∧ (s.tile 0).c.migretry.toNat ≤ 15 + 1 ∧ s.leavesShadow 0 32 = false
    ∧ (s.tile 0).slotOfTid 0 0 = some 0 ∧ (s.tile 32).slotOfTid (2 ^ 18) 1 = none ∧ (s.tile 0).slotOfTid (2 ^ 18) 1 = none
    ∧ (∀ g ∈ (s.tile 32).c.guests, ¬ (g.thread.tid = 2 ^ 18 ∧ g.thread.launch = 1)) ∧ 32 ≠ shadowBase 32 + 2 ^ 18 % 2 ^ 18
    ∧ 0 = shadowBase 0 + 2 ^ 18 % 2 ^ 18 ∧ 2 ^ 18 / 2 ^ 18 = 1 ∧ (resv0 true 0).transit = true ∧ (resv0 false 0).transit = false
    ∧ (resv0 false 0).launch = 1 ∧ ({ s with input := .migrant 32 0 far 0 } : State).input = .migrant 32 0 far 0 := by decide
/-- Page tables of context 1 that map its first 32 MiB to themselves; a packet queue at 0x4000 with one packet, or empty. -/
def tables (bytes : List (Nat × List Byte)) : Memory :=
  ([(0x10000, leBytes 8 0x20001), (0x20000, leBytes 8 0x30001), (0x30000, leBytes 8 0xF)] ++ bytes).foldl (fun (m : Memory) (x : Nat × List Byte) => m.setBytes x.1 x.2) []
def stored (s : State) (bytes : List (Nat × List Byte)) : State := { s with cellar := tables bytes }
def ctx1 : Machine.Ctx := { context0 with xlroot := 0x10000 }
def packets (prod : Nat) : State :=
  stored (inContext (parked .task) { ctx1 with tasks := [{ src := ref7, pkq := 0x4000000000004000 }] })
    [(0x4000, leBytes 8 prod ++ leBytes 8 0 ++ leBytes 8 4)]
/-- A queue slot mapped for DPOST by context 1, with its record at 0x5000 and a ring of sixteen entries at 0x6000. -/
def queue0 : Queue :=
  { Queue.reset with mapped := true, record := 0x4000000000005000, ring := 0x4000000000006000, rlog := 4, ctx := 1, dpost := true, state := 1 }
def queueing (q : Queue) (tail : Nat) : State :=
  stored (devWith (inContext (parked (.qpost 3)) ctx1) (fun d => { d with queues := [(0, q)] })) [(0x5040, leBytes 4 tail)]
theorem witness_MessageEvents :
    let s := parked .send
    let x : PendSend := { ltn := 32, mbox := 3, tag := 9, payload := [], bounces := 0 }
    let w (n : Nat) : PendSend := { x with bounces := n }
    (s.tile 0).r.quiet = false ∧ (s.tile 0).c.mail[(3 : Fin 16)].length < 4
    ∧ 4 ≤ ((ctxWith s (fun c => { c with mail := c.mail.set 3 [msg3, msg3, msg3, msg3] })).tile 0).c.mail[(3 : Fin 16)].length
    ∧ s.Names ref7 0 ∧ (s.thr 0 0).park.isSome = true ∧ (with_ s (fun th => { th with pend := some x })).me.pend = some x
    ∧ s.me.sndretry.toNat ≤ (w 255).bounces + 1 ∧ (w 254).bounces + 1 < s.me.sndretry.toNat ∧ s.me.atThird = false
    ∧ s.leavesShadow 0 (shadowBase 0 + x.ltn.toNat) = false
    ∧ ((packets 1).dev.ctx? 1).isSome = true := by
  unfold State.Names; decide
/-- A packet, and none, for the thread that waits. -/
theorem witness_MessageEvents_grant :
    let d : Machine.Ctx := { ctx1 with tasks := [{ src := ref7, pkq := 0x4000000000004000 }] }
    let live (s : State) := d.tasks.filter (fun x => x.pkq != 0x4000000000004000 || s.stillParked x.src)
    let s (n : Nat) : State := (packets n).setCtxRec 1 { d with tasks := live (packets n) }
    let hd (n : Nat) := (s n).fwRead 1 0x4000000000004000 24
    d.res = .resident ∧ (live (packets 1)).find? (fun x => x.pkq == 0x4000000000004000) = some { src := ref7, pkq := 0x4000000000004000 }
    ∧ (hd 1).1 = 0 ∧ wordAt (hd 1).2 0 ≠ wordAt (hd 1).2 1 ∧ wordAt (hd 0).2 0 = wordAt (hd 0).2 1
    ∧ ((s 1).fwRead 1 (packetAddr 0x4000000000004000 ((wordAt (hd 1).2 2).toNat % 32) (wordAt (hd 1).2 1).toNat) 64).1 = 0 := by decide
theorem witness_MessageEvents_qpost :
    let s := queueing queue0 5
    (queue0.mapped = true ∧ queue0.ctx = 1 ∧ queue0.dpost = true ∧ queue0.state = 1) ∧ Queue.reset.mapped = false
    ∧ ({ queue0 with state := 2 } : Queue).state ≠ 1 ∧ s.queue 0 = queue0 ∧ s.Names ref7 0
    ∧ s.fwRead 0 (queue0.record + 64) 4 = (0, leBytes 4 5) ∧ (16 + 2 ^ 32 - queue0.head) % 2 ^ 32 = 2 ^ queue0.rlog
    ∧ (15 + 2 ^ 32 - queue0.head) % 2 ^ 32 ≠ 2 ^ queue0.rlog
    ∧ (s.fwWrite 1 (queue0.ring + BitVec.ofNat 64 (64 * (5 % 2 ^ queue0.rlog))) (leBytes 64 0)).2 = 0 := by
  unfold State.Names; decide
/-- A group of context 1 at home cluster 0, members in clusters 0 and 1; reduction slots. -/
def gathering (arrived : List Nat) (late : List Nat) : State :=
  let s := parked (.group 3 0 5)
  let s := s.setHome 0 (groupKey 1 5) { counts := [(0, 2), (1, 1)], arrived := arrived }
  (s.setLocal 0 (groupKey 1 5) { GroupLocal.reset with members := 1, late := late, waiting := [(0, ref7)] }).setLocal 1 (groupKey 1 5)
    { GroupLocal.reset with members := 1 }
def partial0 : Partial := { ctx := 1, group := 5, num := 0, op := 0, ty := 3, value := 4, count := 1, map := 1, mismatch := false }
def slot0 (root : Bool) (expect : Nat) : RedSlot :=
  { ctx := 1, group := 5, num := 0, root := root, op := 0, ty := 3, value := 3, count := 1, map := 2, mismatch := false, expect := expect
    early := false, opened := 0, gone := 0 }
theorem witness_GroupEvents :
    let s := gathering [] []
    let h (s : State) := (s.cluster 0).homeGroup (groupKey 1 5)
    let l (s : State) := (s.cluster 0).localGroup (groupKey 1 5)
    let members (s : State) := ((h s).counts.filter (fun x => 0 < ((s.cluster x.1).localGroup (groupKey 1 5)).members)).map Prod.fst
    let red (x : RedSlot) : State := s.setRed 0 x.root 1 5 0 (some x)
    members s = [0, 1] ∧ 1 ∉ setAdd (h s).arrived 0 ∧ members s ≠ [] ∧ (s.tile (0 * 32)).r.quiet = false
    ∧ (∀ m ∈ members (gathering [1] []), m ∈ setAdd (h (gathering [1] [])).arrived 0)
    ∧ 9 ∈ (l (gathering [] [9])).late ∧ 9 ∉ (l s).late ∧ (l s).members ≠ (l s).waiting.length + 1
    ∧ (l s).waiting = [(0, ref7)] ∧ s.Names ref7 0 ∧ (s.thr 0 0).park.isSome = true ∧ ref7 ≠ noRef
    ∧ ((s.cluster 0).homes.get? (groupKey 1 5)).isSome = true ∧ s.liveGroups 1 0 < 4096
    ∧ (((demo []).cluster 0).homes.get? (groupKey 1 5)).isNone = true ∧ 1 < ((h s).counts.get? 0).getD 0
    ∧ (parked (.redg 3 2 5 0)).me.park = some ⟨.redg 3 2 5 0, 7, 1, 0⟩ ∧ (parked (.redg 3 2 5 0)).Names ref7 0 ∧ partial0.group = 5 ∧ partial0.num = 0
    ∧ (s.cluster 0).red? false 1 5 0 = none ∧ (s.cluster 0).reds.length < 16
    ∧ ((red (slot0 false 0)).cluster 0).red? false 1 5 0 = some (slot0 false 0) ∧ (slot0 false 0).early = false
    ∧ ((red (slot0 true 3)).cluster 0).red? true 1 5 0 = some (slot0 true 3) ∧ ((slot0 true 3).take partial0).count < (slot0 true 3).expect
    ∧ (slot0 true 2).expect ≤ ((slot0 true 2).take partial0).count := by
  unfold State.Names; decide
/-- 4,096 live groups; sixteen reduction slots in use. -/
theorem witness_GroupEvents_full :
    let s : State := { (demo []) with clusters := [(0, { Cluster.reset with homes := (List.range 4096).map (fun i => (groupKey 1 (i + 1), GroupHome.reset)) })] }
    4096 ≤ s.liveGroups 1 0 ∧ ((s.cluster 0).homes.get? (groupKey 1 0)).isNone = true := by
  decide
theorem witness_GroupEvents_slots :
    let s : State := { (demo []) with clusters := [(0, { Cluster.reset with reds := List.replicate 16 { slot0 false 0 with group := 6 } })] }
    (s.tile (0 * 32)).r.quiet = false ∧ (s.cluster 0).red? false 1 5 0 = none ∧ 16 ≤ (s.cluster 0).reds.length := by decide
/-- An access of a parked thread, and a waiter of its own doubleword. -/
def access0 (k : AccKind) : Access :=
  { kind := k, size := 8, signed := false, rd := 3, addr := 0x100, data := 5, cmp := 0, rl := false, timeo := 100, retry := 2 }
def waiter0 (fails since : Nat) : Waiter := { dw := 0x20, acc := access0 .ldf, src := ref7, fails := fails, issued := 0, since := since }
def waiting (empty : List Nat) (fails : Nat) : State :=
  routerWith (ctxWith (parked (.fe 3)) (fun c => { c with emptyDw := empty, waiters := [waiter0 fails 0] })) (fun r => { r with cyc := 1 })
theorem witness_MemoryEvents :
    let s := beside (parked (.reply 3)) [(1, 1)]
    let w := waiting [0x20] 0
    let f := waiting [] 0
    let busy := midShip s [4] 8
    (s.tile 0).r.quiet = false ∧ ¬ ((s.tile 0).r.arrivals.1 = s.now ∧ 8 ≤ (s.tile 0).r.arrivals.2)
    ∧ (let b := routerWith s (fun r => { r with arrivals := (0, 8) }); (b.tile 0).r.arrivals.1 = b.now ∧ 8 ≤ (b.tile 0).r.arrivals.2)
    ∧ ((access0 .load).kind = .load ∧ (s.tile 0).c.lockHit (s.tile 0).r.cyc 0x100 (0x100 + 8) = false) ∧ s.leavesShadow 0 0 = false ∧ s.leavesShadow 1 0 = false
    ∧ (access0 .store).kind = .store ∧ (s.tile 0).r.captureFull (0x100 / 64) = false ∧ (access0 .load).kind.cls ≠ .sync
    ∧ (access0 .store).kind.writes = true ∧ (busy.tile 0).r.captureFull (0x100 / 64) = true
    ∧ (∀ x ∈ (w.tile 0).c.waiters, x.dw = 0x20 → x.since < (w.tile 0).r.cyc →
        x.acc.kind.ready ((w.tile 0).c.isFull 0x20) = false ∧ x.fails + 1 < x.acc.retry)
    ∧ ((w.tile 0).c.waiters.map Waiter.src).Nodup
    ∧ (f.tile 0).c.waiters = [waiter0 0 0] ∧ 0x20 < 2 ^ 15 ∧ ref7.tile = 0 ∧ (waiter0 0 0).since < (f.tile 0).r.cyc
    ∧ (access0 .ldf).kind = .ldf ∧ (f.tile 0).c.isFull 0x20 = true ∧ (f.tile 0).c.lockHit (f.tile 0).r.cyc (0x20 * 8) (0x20 * 8 + 8) = false ∧ f.Names ref7 0
    ∧ f.waitsFor ref7 = some 0x100 ∧ (f.thr 0 0).atThird = false
    ∧ (access0 .ldf).kind.ready ((w.tile 0).c.isFull (0x100 / 8)) = false ∧ ((w.tile 0).c.waiters.filter (fun x => x.dw < 2 ^ 15)).length < 32
    ∧ (parked .capture).me.park = some ⟨.capture, 7, 1, 0⟩ ∧ (parked .capture).Names ref7 0 ∧ (parked .capture).here.r.replay = false
    ∧ (parked .capture).here.r.records + 16 ≤ 1984 := by
  unfold State.Names; decide
/-- Gateway reads that are granted and refused; posted stores to the cellar, to the host, and refused; a line fill. -/
def gate0 (va : Nat) : GateRead :=
  { ctx := 1, host := false, va := va, addr := 0x4000000000000000, size := 8, signed := false, toReg := true, cached := true, fault := 0 }
def window0 : DmaEntry := { v := true, rd := true, wr := true, ctx := 1, devBase := 0, hostBase := 0x9000, pages := 1 }
theorem witness_MemoryEvents_gateway :
    let s := stored (devWith (inContext (parked (.reply 3)) ctx1) (fun d => { d with dma := [(0, window0)] })) []
    let p (host : Bool) (fault : Nat) : State := ctxWith s (fun c => { c with outq := [{ posted host with fault := fault }] })
    let filling := ctxWith s (fun c => { c with fills := [(0, 0)], launches := [(0, { LaunchEntry.reset with code := 0x4000000000000000 })] })
    (s.gateRead 0 (some (s.thr 0 0)) (gate0 0)).2.1 = 0 ∧ (s.gateRead 0 (some (s.thr 0 0)) (gate0 0x4000000000)).2.1 = 1
    ∧ (s.thr 0 0).atThird = false ∧ (gate0 0).toReg = true ∧ (s.thr 0 0).park = some ⟨.reply 3, 7, 1, 0⟩
    ∧ s.Names ref7 0
    ∧ ((p false 0).tile 0).c.outq.find? (fun x => x.id == 0) = some (posted false) ∧ (posted false).fault = 0 ∧ (posted false).host = false
    ∧ (posted true).host = true
    ∧ s.dev.dmaCheck (s.tile 0).r.ctx (posted true).pa true = some (0x9000 + (posted true).pa) ∧ ({ posted false with fault := 1 } : Posted).fault ≠ 0
    ∧ s.dev.dmaCheck (s.tile 0).r.ctx ({ posted true with pa := 0x1000 } : Posted).pa true = none
    ∧ (filling.tile 0).c.fills.contains (0, 0) = true ∧ (s.tile 0).c.fills.contains (0, 0) = false
    ∧ (filling.gateRead 0 none { ctx := (filling.tile 0).r.ctx, host := false, va := 0, addr := 0x4000000000000000, size := 64, signed := false, toReg := false
                                 cached := true, fault := 0 }).2.1 = 0 := by
  unfold State.Names; decide
theorem witness_MemoryEvents_why : ∀ i rd, ParkWhy.reply 3 ≠ .op i rd := nofun
/-- A boundary of tile 0 in flight with these lines to ship and latched; what its buddy has staged of it. -/
def ship0 (lines latched : List MirrorLine) : Ship :=
  { ivn := 4, cyc := 1, base := 0, lines := lines, latched := latched, count := 1, ctx := TileCtx.reset, mask := 0 }
def shipping (sh : Ship) (staged : List MirrorLine) : State :=
  let s := routerWith (beside (parked (.ckpt 3)) [(buddyOf 0, 1)]) (fun r => { r with ship := some sh })
  s.setRouter (buddyOf 0) { (s.tile (buddyOf 0)).r with staging := some { ivn := 4, lines := staged } }
def line5 : MirrorLine := { line := 5, bytes := [], empty := [] }
theorem witness_BoundaryEvents :
    let l := line5
    let s := shipping (ship0 [l] []) []
    let b := buddyOf 0
    let ls (s : State) := match (s.tile b).r.staging with | some st => if st.ivn.toNat = 4 then st.lines else [] | none => []
    (demo []).here.r.mode = .live ∧ (demo []).here.r.ship = none ∧ s.here.r.ship.isSome = true ∧ s.here.r.mode = .live
    ∧ (routerWith (demo []) (fun r => { r with mode := .fenced })).here.r.mode = .fenced
    ∧ (routerWith (demo []) (fun r => { r with mode := .saved })).here.r.mode = .saved
    ∧ (routerWith (demo []) (fun r => { r with mode := .saved })).here.r.stopped ≠ (demo []).here.r.cyc + 1
    ∧ (demo []).here.r.base = 0 ∧ (demo []).here.r.base ≠ 1
    ∧ (ctxWith (demo []) (fun c => { c with ivlen := 0 })).here.c.ivlen.toNat ≤ (demo []).here.r.cyc - 0
    ∧ (demo []).here.r.cyc - 0 < (demo []).here.c.ivlen.toNat
    ∧ (demo []).here.r.staged? 4 = none ∧ buddyOf b = 0 ∧ s.here.r.staged? 4 = some (ship0 [l] []) ∧ s.leavesShadow 0 b = false
    ∧ (ship0 [l] []).latched = [] ∧ (ship0 [l] []).lines = l :: [] ∧ (ship0 [] [l]).latched = l :: [] ∧ (ship0 [] []).lines = []
    ∧ (shipping (ship0 [] []) [l]).here.r.staged? 4 = some (ship0 [] []) ∧ (ls (shipping (ship0 [] []) [l])).length = 1
    ∧ (ls (shipping (ship0 [] []) [])).length ≠ 1 ∧ (s.tile b).r.quiet = false
    ∧ s.here.r.ship = some (ship0 [l] []) ∧ (ship0 [l] []).ivn.toNat = 4 ∧ (ship0 [l] []).ivn.toNat ≠ 5
    ∧ (routerWith s (fun r => { r with moving := true, mode := .fenced })).here.r.moving = true
    ∧ (routerWith s (fun r => { r with moving := true, mode := .fenced })).here.r.mode = .fenced ∧ s.here.r.moving = false
    ∧ (s.thr 0 0).park = some ⟨.ckpt 3, 7, 1, 0⟩ ∧ 0 < (ship0 [l] []).cyc ∧ s.Names { tile := 0, tok := 7 } 0
    ∧ (routerWith s (fun r => { r with deferred := true })).here.r.deferred = true := by
  unfold State.Names; decide

/-! Events of recovery, power, pre-emption, links, queues, commands, partitions and launches. -/

/-- A fenced tile whose buddy keeps its checkpoint, tried `n` times; its cluster's local spares in use or not. -/
def mirror0 : Mirror := { ctx := TileCtx.reset, cyc := 0, base := 0, mask := 0 }
def fencedTile (n : Nat) : State :=
  let s := routerWith (beside (inContext (demo []) context0) [(buddyOf 0, 1)]) (fun r => { r with mode := .fenced, tries := n, cause := 5, fence := 2 })
  s.setRouter (buddyOf 0) { (s.tile (buddyOf 0)).r with keeps := some mirror0 }
def spent (s : State) : State := s.setCluster 0 { s.cluster 0 with failed := [32, 33] }
def powering (s : State) : State := { s with chiplets := [(128, { Chiplet.reset with powered := true })] }
def aimed (kind p : Nat) : State := routerWith (fencedTile 0) (fun r => { r with target := some (kind, p) })
def incident0 : Incident :=
  { tile := 0, ctx := 1, peers := [], at_ := 0x8000, cause := 5, fence := 2, icrc := 0, mirror := mirror0, source := [], sent := [] }
def crash0 : CrashRec := (demo []).crashOf 0 0 2 1 0 false
theorem witness_RecoveryEvents :
    let s := fencedTile 0
    let live := inContext (demo []) context0
    let replaying := routerWith s (fun r => { r with mode := .live, replay := true })
    let victim := devWith (spent s) (fun d => { d with
      fuses := { d.fuses with spares := [] }, contexts := [(1, { context0 with launches := [(0, { launch0 with prio := 7 })] }), (2, context0)] })
    let stop (due : Nat) : State := { routerWith live (fun r => { r with mode := .stopping, stopped := 9 }) with
      agenda := [{ due := due, ev := .preemptSaveDone, arg := .tileNum 0 0 }] }
    let full := { s with tiles := s.tiles ++ (List.range 64).map (fun i => (100 + i, { Tile.reset with r := { Router.reset with target := some (1, i) } })) }
    (live.tiles.get? 0).isSome = true ∧ (live.tile 0).r.mode ≠ .fenced ∧ (live.tile 0).r.replay = false ∧ (s.tile (buddyOf 0)).r.keeps = some mirror0
    ∧ (replaying.tiles.get? 0).isSome = true ∧ (replaying.tile 0).r.replay = true ∧ (2000 : Int) ≤ 2000 ∧ (1999 : Int) < 2000
    ∧ (live.chiplet 0).thTrip = 2000 ∧ (3 : Nat) ≠ 5
    ∧ (routerWith live (fun r => { r with missed := 1 }) |>.tile 0).r.missed ≠ 0 ∧ (live.tile 0).r.missed = 0 ∧ (live.tile 0).r.asked = 0
    ∧ ((stop 0).tile 0).r.mode = .stopping ∧ ((stop 0).tile 0).r.stopped = 9 ∧ (stop 0).saveMoves 0 = false ∧ (stop 100).saveMoves 0 = true
    ∧ (live.tile 0).r.mode ≠ .stopping ∧ (s.tile 0).r.mode = .fenced ∧ s.inChain 0 0 = true ∧ ¬ s.inChain 0 1 = true
    ∧ 3 ≤ ((fencedTile 3).tile 0).r.tries ∧ ((fencedTile 2).tile 0).r.tries < 3 ∧ s.mirrorOf 0 = some mirror0 ∧ s.extentPoisoned 0 = false
    ∧ 64 ≤ (full.targets 0).length ∧ (s.targets 0).length < 64 ∧ (s.tile 0).r.target = none
    ∧ (s.setRouter (buddyOf 0) { (s.tile (buddyOf 0)).r with keeps := none }).mirrorOf 0 = none
    ∧ s.chooseSpare 0 = .slot 32 ∧ (powering (spent s)).chooseSpare 0 = .tile (128 * 2 ^ 12) ∧ (spent s).chooseSpare 0 = .dark 128
    ∧ victim.chooseSpare 0 = .borrow 2 ∧ (victim.dev.ctx? 2).map Ctx.res = some .resident
    ∧ (devWith (spent s) (fun d => { d with fuses := { d.fuses with spares := [] } })).chooseSpare 0 = .none
    ∧ ((aimed 0 32).tile 0).r.target = some (0, 32) ∧ ((aimed 1 7).tile 0).r.target = some (1, 7) ∧ (aimed 1 7).mirrorOf 0 = some mirror0
    ∧ (aimed 1 7).dev.waveEnd ≤ (aimed 1 7).now ∧ (let b := devWith (aimed 1 7) (fun d => { d with waveEnd := 5 }); b.now < b.dev.waveEnd)
    ∧ (routerWith s (fun r => { r with ship := some (ship0 [] []) }) |>.tile 0).r.fence ≥ (ship0 [] []).cyc
    ∧ 2 < ({ ship0 [] [] with cyc := 3 } : Ship).cyc
    ∧ (s.tile (buddyOf 0)).r.mode ≠ .fenced ∧ (s.tile (buddyOf 0)).r.replay = false := by decide
theorem witness_RecoveryEvents_after :
    let s := fencedTile 0
    let live := inContext (demo []) context0
    let holds := routerWith live (fun r => { r with held := [(.accessReply, .reply ref7 .ack)] })
    let gone := live.setCluster 0 { live.cluster 0 with slotMap := [(0, { pslot := 0, v := true, lost := true })] }
    let crashed := live.setCluster 0 { live.cluster 0 with crash := [crash0] }
    (holds.tile 0).r.held = [(.accessReply, .reply ref7 .ack)] ∧ (holds.tile 0).r.mode ≠ .fenced ∧ (holds.tile 0).r.replay = false ∧ (holds.tile 0).r.chain = 0
    ∧ Instr.accessReply ≠ .population ∧ Instr.accessReply ≠ .gangPreempt ∧ (live.tile 0).r.held = []
    ∧ live.isLost 0 = false ∧ (live.tiles.get? 0).isSome = true ∧ gone.isLost 0 = true
    ∧ ((live.launch? (live.tile 0).r.ctx 0).bind Launch.abort) = none ∧ (live.launch? (live.tile 0).r.ctx 0).isSome = true
    ∧ (live.tile 0).r.mode = .live ∧ (live.tile 0).r.replay = false ∧ (live.tile 0).r.ship = none
    ∧ (routerWith live (fun r => { r with ship := some (ship0 [] []) }) |>.tile 0).r.ship.isSome = true
    ∧ (s.tile 0).r.moving = false ∧ s.mirrorOf 0 = some mirror0 ∧ (s.tile 0).r.mode = .fenced
    ∧ (crashed.cluster 0).crash ≠ []
    ∧ (devWith live (fun d => { d with incidents := [incident0] })).dev.incidents[0]? = some incident0 ∧ live.freeTile 5 = true
    ∧ (135 : Word).toNat < 136 ∧ (33 : Word).toNat < 34 ∧ (1023 : Word).toNat < 1024 ∧ 2 < 3
    ∧ 2 ≤ ((live.setCluster 0 { live.cluster 0 with links := [(1, { corrected := 0, resends := 2, failing := 2 })] }).cluster 0 |>.link 1).failing := by decide
theorem witness_PowerEvents :
    let s := { (inContext (demo []) context0) with chiplets := [(0, { Chiplet.reset with powered := true })] }
    let w := devWith s (fun d => { d with boot := .waitHost, dmaWritten := true, peersWritten := true })
    let m := routerWith s (fun r => { r with mask := 1 })
    (({ Device.reset.fuses with ok := false } : Fuses).ok = false ∧ Device.reset.fuses.ok = true)
    ∧ w.dev.boot = .waitHost ∧ w.dev.dmaWritten = true ∧ w.dev.peersWritten = true ∧ s.dev.boot ≠ .waitHost
    ∧ s.chiplets.keys.Nodup ∧ (s.chiplets.get? 0).isSome = true ∧ (s.chiplet 0).powered = true
    ∧ (s.chiplet 0).thThrottle ≤ 1680 ∧ (1679 : Int) < (s.chiplet 0).thThrottle ∧ (1599 : Int) < 1600 ∧ (1600 : Int) ≤ 1600
    ∧ (s.chiplet 0).thSave ≤ 1840 ∧ (1839 : Int) < (s.chiplet 0).thSave ∧ (s.chiplet 0).thCurrent < 4201 ∧ 4199 < (s.chiplet 0).thCurrent
    ∧ s.tilesOfChip 0 = [0] ∧ (s.tile 0).r.mode = .live ∧ (s.tile 0).r.replay = false ∧ (s.tile 0).r.ship = none
    ∧ (s.tile 0).r.mask = 0 ∧ (m.tile 0).r.mask ≠ 0 ∧ (m.tile 0).waiting.length ≤ (m.tile 0).movable.length
    ∧ s.dev.contexts = [(1, context0)] ∧ context0.holds = true ∧ s.chipsOf 1 = [0]
    ∧ (s.fwRead 0 (context0.record + 40) 16).1 = 0
    ∧ (let h := (s.fwRead 0 (context0.record + 40) 16).2; (wordAt h 0 - wordAt h 1).toNat < 2 ^ context0.tlog)
    ∧ (let h := ({ s with cellar := Memory.setBytes [] 0x1028 [16] }.fwRead 0 (context0.record + 40) 16).2
       2 ^ context0.tlog ≤ (wordAt h 0 - wordAt h 1).toNat) := by decide
/-- The signatures verify or not, whatever the open predicate answers: either case of boot has its witness in one of the two. -/
theorem witness_PowerEvents_boot :
    let image := if Device.reset.staged.2 = 0 then Device.reset.image else State.reset.cellar.bytes Device.reset.staged.1 Device.reset.staged.2
    let ok := Config.verifies Device.reset.fuses.keyDigests.1 0 image && Config.verifies Device.reset.fuses.keyDigests.2 1 image
    ok = true ∨ ok = false := by
  intro _ ok; cases ok <;> simp
theorem witness_PreemptEvents :
    let s := inContext (demo []) context0
    let goes (s : State) := let x := s.selfRequest 0; (x.tile 0).r.want && !(x.tile 0).r.quiet
    let hold := ctxWith s (fun c => { c with coll := some (coll0 1 []) })
    let stop := routerWith s (fun r => { r with mode := .stopping })
    let two := beside stop [(5, 1)]
    let saved := inContext (routerWith s (fun r => { r with mode := .saved })) { context0 with res := .stopping }
    let parkedCtx : Machine.Ctx := { context0 with res := .parked }
    let other : Machine.Ctx := { context0 with region := { region0 with width := 2 } }
    let others (cs : List (Nat × Machine.Ctx)) (d : Machine.Ctx) := cs.filter (fun y => y.1 != 1 && y.2.holds && y.2.meets d)
    let waits (cs : List (Nat × Machine.Ctx)) (d : Machine.Ctx) := cs.any (fun y => y.1 != 1 && y.2.queued && y.2.meets d)
    (s.tile 0).r.mode = .live ∧ goes s = false ∧ goes (routerWith s (fun r => { r with want := true })) = true
    ∧ (saved.tile 0).r.mode ≠ .live ∧ (hold.tile 0).r.mode = .live ∧ (hold.tile 0).c.roundOpen = true
    ∧ (stop.tile 0).r.mode = .stopping ∧ (stop.tile 0).r.replay = false ∧ stop.quiet 0 = true
    ∧ (ctxWith stop (fun c => { c with outq := [posted false] })).quiet 0 = false
    ∧ (∃ t ∈ two.tilesOf (two.tile 0).r.ctx, t ≠ 0 ∧ (two.tile t).r.mode ≠ .saved ∧ two.isLost t = false)
    ∧ (saved.tile 0).r.ctx = 1 ∧ (saved.dev.ctx? 1).map Machine.Ctx.res = some .stopping ∧ (saved.tile 0).r.mode = .saved ∧ saved.allSaved 1 = true
    ∧ saved.ctxQuiet 1 = true
    ∧ context0.res ≠ .parked ∧ parkedCtx.res = .parked ∧ others [(1, parkedCtx)] parkedCtx = [] ∧ others [(1, parkedCtx), (2, other)] parkedCtx = [(2, other)]
    ∧ ({ parkedCtx with res := .restoring } : Machine.Ctx).res = .restoring ∧ (s.tilesRead { parkedCtx with res := .restoring } 0 []).1 = 0
    ∧ (s.tilesRead { parkedCtx with res := .restoring, imageAt := some 0x8000000000000000 } 0 [(0, TileCtx.reset)]).1 ≠ 0
    ∧ context0.res = .resident ∧ waits [(1, context0), (2, { other with queued := true })] context0 = true ∧ waits [(1, context0)] context0 = false
    ∧ s.now < context0.since + s.slice context0
    ∧ context0.since + s.slice context0 ≤ ({ s with now := 10000000 } : State).now := by decide
/-- A queue record of context 1 at 0x5000 that DPOST feeds, and one with a bad ring. -/
def queueRecord (ring : Nat) : List Byte := leBytes 8 ring ++ leBytes 8 (4 + 1 * 2 ^ 8 + 2 ^ 24) ++ leBytes 112 0
def linked (ring : Nat) : State := stored (inContext (demo []) ctx1) [(0x5000, queueRecord ring)]
theorem witness_LinkEvents :
    let s := devWith (inContext (demo []) ctx1) (fun d => { d with windows := [(0, { v := true, base := 0x1000, log := 12, target := 0x8000 })] })
    let rec_ : Word := 0x4000000000005000
    let full := devWith (demo []) (fun d => { d with peers := (List.range 1024).map (fun i => (i + 1, [])) })
    let watch := devWith (queueing { queue0 with dpost := false, rereading := true } 0) (fun d => { d with dma := [(0, window0)] })
    let off := devWith (demo []) (fun d => { d with boot := .off })
    off.dev.boot = .off ∧ off.dev.inbound 0 0x1FF8 8 = none ∧ s.dev.boot ≠ .off ∧ (0x5000 ≤ 0x5000 ∧ 0x7FF8 < 0x8000) ∧ s.dev.dma.get? 1023 = none
    ∧ s.dev.inbound 0 0x1FF8 8 = some 0x8FF8 ∧ s.dev.inbound 0 0x1FF9 8 = none ∧ 1023 < 1024 ∧ 255 < 256
    ∧ (devWith s (fun d => { d with peers := [(0, [])] })).dev.peers.get? 0 = some [] ∧ s.dev.peers.get? 0 = none ∧ (1 : Word).getLsbD 0 = true
    ∧ s.dev.peers.length < 1024 ∧ full.dev.peers.get? full.dev.peerSelect = none ∧ 1024 ≤ full.dev.peers.length
    ∧ (1 : Word).toNat < 2 ∧ (15 : Word).toNat < 16 ∧ 12 ≤ (12 : Word).toNat ∧ (36 : Word).toNat ≤ 36
    ∧ s.dev.boot = .ready ∧ 63 < 64 ∧ (s.queue 0).mapped = false ∧ (memSpace rec_ && rec_.toNat % 64 == 0) = true
    ∧ (memSpace 0x4000000000005020 && (0x4000000000005020 : Word).toNat % 64 == 0) = false
    ∧ ((linked 0x4000000000006000).fwRead 0 rec_ 128).1 = 0
    ∧ recordGood (wordsOf ((linked 0x4000000000006000).fwRead 0 rec_ 128).2 16) = true
    ∧ recordGood (wordsOf ((linked 0x6000).fwRead 0 rec_ 128).2 16) = false
    ∧ (wordAt ((linked 0x4000000000006000).fwRead 0 rec_ 128).2 1).getLsbD 24 = true ∧ ((linked 0).dev.ctx? 1).isSome = true
    ∧ State.reset.dev.boot ≠ .ready ∧ (queueing queue0 0).queue 0 = queue0 ∧ queue0.mapped = true
    ∧ ({ queue0 with dpost := false } : Queue).rereading = false ∧ (watch.queue 0).rereading = true ∧ (watch.queue 0).dpost = false
    ∧ (watch.watched 1 0).isSome = true ∧ (queueing queue0 0).watched 1 0 = none ∧ queue0.state = 1 := by decide
/-- A mapped queue with a changed line, a command of context 0 whose completion record is at `dw7`. -/
def command0 (ctx : Nat) (ws : List Word) : Command := { id := 0, ctx := ctx, words := ws, started := true, orphan := false, value := 0 }
def queueOf (tail : Nat) : State := queueing { queue0 with ctx := 0, pending := true } tail
def commanded (c : Command) (bytes : List (Nat × List Byte)) : State :=
  stored (devWith (inContext (demo []) ctx1) (fun d => { d with queues := [(0, { queue0 with ctx := 0, commands := [c] })] })) bytes
theorem witness_QueueEvents :
    let s := queueOf 5
    let acc := devWith s (fun d => { d with queues := [(0, { queue0 with ctx := 0, accepting := true })] })
    let c (dw7 : Word) := command0 0 [0, 0, 0, 0, 0, 0, 0, dw7]
    let refused := devWith s (fun d => { d with root0 := 0x100000 })
    (demo []).nextSlot = none ∧ (devWith s (fun d => { d with workers := 0 })).dev.workers = 0 ∧ s.nextSlot = some 0 ∧ (s.queue 0).waits = true
    ∧ s.dev.workers ≠ 0 ∧ (refused.fwRead 0 (queue0.record + 64) 4).1 ≠ 0 ∧ s.fwRead 0 (queue0.record + 64) 4 = (0, leBytes 4 5)
    ∧ 2 ^ queue0.rlog < (leNat (leBytes 4 17) + 2 ^ 32 - queue0.head) % 2 ^ 32 ∧ (16 + 2 ^ 32 - queue0.head) % 2 ^ 32 ≤ 2 ^ queue0.rlog
    ∧ (16 + 2 ^ 32 - queue0.head) % 2 ^ 32 ≠ 0 ∧ ((queueOf 0).fwRead 0 (queue0.record + 64) 4).1 = 0 ∧ (0 + 2 ^ 32 - queue0.head) % 2 ^ 32 = 0
    ∧ (s.queue 0).accepting = false ∧ (acc.queue 0).accepting = true ∧ (acc.queue 0).state = 1 ∧ (acc.fwRead 0 queue0.ring 64).1 = 0
    ∧ ({ queue0 with state := 2 } : Queue).state ≠ 1 ∧ queue0.mapped = true ∧ (refused.fwRead 0 queue0.ring 64).1 ≠ 0
    ∧ ((commanded (c 0) []).queue 0).commands.find? (fun y => y.id == 0) = some (c 0) ∧ (c 0).dw 7 = 0
    ∧ (c 0x4000000000007000).dw 7 ≠ 0 ∧ memSpace ((c 0x4000000000007000).dw 7) = true
    ∧ ((commanded (c 0) []).fwWrite 0 0x4000000000007000 (leBytes 16 0)).2 = 0 ∧ (refused.fwWrite 0 0x4000000000007000 (leBytes 16 0)).2 ≠ 0
    ∧ (∃ x ∈ [1, 2], x = ({ queue0 with state := 2 } : Queue).state) ∧ memSpace ((c 0x7000).dw 7) = false
    ∧ ({ c 0 with orphan := true } : Command).orphan = true
    ∧ (c 0).orphan = false ∧ ¬ ((1 : Word).toNat = 0 ∨ (1 : Word).toNat = 7 ∨ (1 : Word).toNat = 10 ∨ (c 0).header.getLsbD 9 = true)
    ∧ (s.queue 0).commands.find? (fun y => y.id == 0) = none := by decide
theorem witness_CommandEvents :
    let c := command0 0 [0, 0x4000000000007000, 5, 0x4000000000004000]
    let s := commanded c [(0x7000, leBytes 8 5), (0x4000, leBytes 8 0 ++ leBytes 8 0 ++ leBytes 8 4)]
    let low := commanded c [(0x7000, leBytes 8 4), (0x4000, leBytes 8 16 ++ leBytes 8 0 ++ leBytes 8 4)]
    let no := devWith s (fun d => { d with root0 := 0x100000 })
    let r (s : State) := s.fwRead 0 0x4000000000007000 8
    let hd (s : State) := s.fwRead 0 0x4000000000004000 24
    s.command? 0 0 = some c ∧ (s.fwWrite 0 (c.dw 1) (leBytes 8 5)).2 = 0 ∧ (no.fwWrite 0 (c.dw 1) (leBytes 8 5)).2 ≠ 0
    ∧ (r no).1 ≠ 0 ∧ (r s).1 = 0 ∧ (c.dw 2).toNat ≤ (wordAt (r s).2 0).toNat ∧ (wordAt (r low).2 0).toNat < (c.dw 2).toNat
    ∧ (c.dw 3).toNat % 2 ^ 32 ≠ 0 ∧ c.value.toNat ≠ (c.dw 2).toNat % 2 ^ 32 ∧ (5 : Word).toNat = (c.dw 2).toNat % 2 ^ 32
    ∧ (hd no).1 ≠ 0 ∧ (hd s).1 = 0
    ∧ s.entryFree 0 (c.dw 3) (wordAt (hd s).2 0) (wordAt (hd s).2 1) ((wordAt (hd s).2 2).toNat % 2 ^ 5) = true
    ∧ low.entryFree 0 (c.dw 3) (wordAt (hd low).2 0) (wordAt (hd low).2 1) ((wordAt (hd low).2 2).toNat % 2 ^ 5) = false
    ∧ (s.fwRead 0 (c.dw 1 + 64 * c.value) 64).1 = 0
    ∧ (s.fwWrite 0 (packetAddr (c.dw 3) 4 0) (leBytes 64 0)).2 = 0
    ∧ s.hostBusy 0 = false ∧ (ctxWith s (fun c => { c with outq := [posted true] })).hostBusy 1 = true
    ∧ (5 : Word).getLsbD 0 = true ∧ (4 : Word).getLsbD 0 = false := by decide
/-- A packet to append that cannot be read, or whose entry cannot be written: context 1, whose tables end at 32 MiB. -/
theorem witness_CommandEvents_refused :
    let c (a b : Word) := command0 1 [0, a, 5, b]
    let s (a b : Word) := commanded (c a b) [(0x4000, leBytes 8 0 ++ leBytes 8 0 ++ leBytes 8 4), (0x1FFFFC0, leBytes 8 0 ++ leBytes 8 0 ++ leBytes 8 4)]
    let u := s 0x4000000002000000 0x4000000000004000
    let v := s 0x4000000000007000 0x4000000001FFFFC0
    (u.fwRead 1 0x4000000000004000 24).1 = 0 ∧ (u.fwRead 1 0x4000000002000000 64).1 ≠ 0
    ∧ (v.fwRead 1 0x4000000001FFFFC0 24).1 = 0 ∧ (v.fwRead 1 0x4000000000007000 64).1 = 0
    ∧ (v.fwWrite 1 (packetAddr 0x4000000001FFFFC0 4 0) (leBytes 64 0)).2 ≠ 0 := by decide
/-- COPY commands of context 1, whose one tile is tile 0 whatever the open choice is: good records, a record that cannot be read, a bad
one, and copies in flight. -/
theorem witness_CommandEvents_copy :
    let c (a b : Word) := command0 1 [0, a, b, 0]
    let s := commanded (c 0x4000000000008000 0x4000000000008060) [(0x8000, record 0x400), (0x8060, record 0x500), (0x80C0, leBytes 8 0x400)]
    let x (a : Word) := s.commandRecord 1 a
    let t := (s.tile 0).c
    (s.tilesOf 1).filter (fun k => !isShadow k) = [0] ∧ (s.tilesOf 2).filter (fun k => !isShadow k) = [] ∧ (s.dev.ctx? 1).map Machine.Ctx.res = some .resident
    ∧ (s.tile 0).r.ctx = 1 ∧ (s.tile 5).r.ctx ≠ 1 ∧ (s.tile 0).r.quiet = false
    ∧ (x 0x4000000000008000).1 = 0 ∧ (x 0x4000000002000000).1 ≠ 0
    ∧ s.draw.recordsFault 0 0 false 0x4000000000008000 0x4000000000008060 (x 0x4000000000008000).2 (x 0x4000000000008060).2 = none
    ∧ (s.draw.recordsFault 0 0 false 0x40000000000080C0 0x4000000000008060 (x 0x40000000000080C0).2 (x 0x4000000000008060).2).isSome = true
    ∧ t.copies < 16 ∧ 16 ≤ (queued ((List.range 16).map copyOp)).here.c.copies
    ∧ t.lockRoom (((copyRanges 0 0 (parseLayout (x 0x4000000000008000).2) (parseLayout (x 0x4000000000008060).2)).filter (fun r => r.1 == 0)).map Prod.snd)
        = true := by decide
/-- A good context record at 0x8000: one cluster, eight telemetry entries; and one with a bad page-table root. -/
def contextRecord (root : Nat) : List Byte :=
  leBytes 8 root ++ leBytes 8 (16 + 1 * 2 ^ 16 + 1 * 2 ^ 24) ++ leBytes 8 0 ++ leBytes 8 0 ++ leBytes 8 8 ++ leBytes 88 0
def creating (n : Nat) (record : List Byte) : State := commanded (command0 0 [0, BitVec.ofNat 64 (n * 2 ^ 16), 0x4000000000008000]) [(0x8000, record)]
theorem witness_PartitionEvents :
    let s := devWith (creating 2 (contextRecord 0x10000)) (fun d => { d with contexts := [] })
    let x (s : State) := s.fwRead 0 0x4000000000008000 128
    let ws (s : State) := wordsOf (x s).2 16
    let bad := devWith (creating 2 (contextRecord 0x10001)) (fun d => { d with contexts := [] })
    let y := Ctx.ofRecord (ws s) 0x4000000000008000
    let scarce := devWith s (fun d => { d with reserve := 8192 * 32 })
    let u : Machine.Ctx := { ctx1 with res := .unplaced }
    let p : Machine.Ctx := { ctx1 with res := .parked }
    let meeting := devWith (creating 1 []) (fun d => { d with contexts := [(1, u), (2, ctx1)] })
    s.command? 0 1 = none ∧ s.dev.ctx? 2 = none ∧ (s.command? 0 0).isSome = true ∧ (x s).1 = 0
    ∧ (x (devWith s (fun d => { d with root0 := 0x100000 }))).1 ≠ 0 ∧ s.dev.recordBad 2 (ws s) = none ∧ bad.dev.recordBad 2 (ws bad) = some 0
    ∧ s.fits 2 y = true ∧ scarce.fits 2 y = false
    ∧ (creating 1 []).dev.ctx? 1 = some ctx1 ∧ ctx1.res = .resident ∧ 1 ≠ 0
    ∧ ({ ctx1 with res := .stopping, suspendCmd := none } : Machine.Ctx).res = .stopping ∧ p.res = .parked ∧ p.resumeCmd = none ∧ u.res = .unplaced
    ∧ ({ ctx1 with res := .restoring } : Machine.Ctx).res = .restoring ∧ ({ ctx1 with res := .stopping, suspendCmd := some (0, 0) } : Machine.Ctx).suspendCmd.isSome = true
    ∧ memSpace 0x4000000000009000 = true ∧ memSpace 0x9000 = false
    ∧ meeting.dev.meets 1 u.region = true ∧ (inContext (demo []) u).dev.meets 1 u.region = false ∧ u.shadow.any ((demo []).dev.meets 1) = false
    ∧ (inContext (demo []) u).fits 1 u = true ∧ (devWith (inContext (demo []) p) (fun d => { d with reserve := 8192 * 32 })).fits 1 p = false := by decide
/-- A launch descriptor at 0x8000: a code of 64 bytes, quota 1, this pool configuration; a launch waiting for its population. -/
def descriptor (quota cfg : Nat) : List Byte :=
  leBytes 8 0x4000000000000000 ++ leBytes 8 (64 + 2 * 2 ^ 32) ++ leBytes 48 0 ++ leBytes 8 (quota + cfg * 2 ^ 32) ++ leBytes 56 0
def launching (d : Machine.Ctx) (quota cfg : Nat) : State :=
  devWith (commanded (command0 1 [0, 0x4000000000008000]) [(0x8000, descriptor quota cfg)]) (fun v => { v with contexts := [(1, d)] })
theorem witness_LaunchEvents :
    let d : Machine.Ctx := { ctx1 with launches := [], waiting := [] }
    let s := launching d 1 0x210004
    let x (s : State) := s.fwRead 1 0x4000000000008000 128
    let ws (s : State) := wordsOf (x s).2 16
    let l (s : State) := Launch.ofDescriptor (ws s) 2 0 0
    (s.command? 0 0).isSome = true ∧ (demo []).dev.ctx? 1 = none ∧ s.dev.ctx? 1 = some d
    ∧ (s.fwRead 1 0x4000000002000000 128).1 ≠ 0 ∧ (x s).1 = 0
    ∧ (launching d 17 0x210004).launchBad 1 d (ws (launching d 17 0x210004)) = some 8 ∧ s.launchBad 1 d (ws s) = none
    ∧ (s.regionTable 1 (l s).live (l s).nlive.toNat) = (0, [])
    ∧ s.mirrorShort 1 d ((l s).poolcfg.setWidth 64) [] = false
    ∧ (launching d 1 0x200004).mirrorShort 1 d ((l (launching d 1 0x200004)).poolcfg.setWidth 64) [] = true := by decide
theorem witness_LaunchEvents_population :
    let l : Launch := { launch0 with populated := false }
    let d : Machine.Ctx := { context0 with launches := [], waiting := [l] }
    let s := inContext (demo []) d
    let full := { s with tiles := [(0, { (s.tile 0) with c := { (s.tile 0).c with slots := Vector.replicate 16 (some Thread.reset) } })] }
    s.dev.ctx? 1 = some d ∧ d.res = .resident ∧ (∀ x ∈ d.launches, x.2.rerun = false) ∧ ({ d with waiting := [] } : Machine.Ctx).waiting = []
    ∧ d.waiting = [l] ∧ d.freeLix = some 0 ∧ (s.launchTiles d l).Nodup
    ∧ (∀ k ∈ s.launchTiles d l, s.recovering k = false ∧ s.evicting k = false ∧ (s.tile k).c.mustEvict (l.poolcfg.setWidth 64) = false)
    ∧ s.roomFor (s.launchTiles d l) l.quota = true ∧ full.roomFor (full.launchTiles d l) l.quota = false
    ∧ (s.openSlots 0)[0]? = some 1 ∧ ({ launch0 with tlim := 1 } : Launch).tlim ≠ 0 := by decide
theorem witness_LaunchEvents_end :
    let run (l : Launch) : State := inContext { (demo []) with tiles := [(0, tileOf TileCtx.reset Thread.reset)] } { context0 with launches := [(0, l)] }
    let s := run launch0
    let def0 : Deferred := { launch := 1, tid := 0, path := 1, issued := 0, since := 0, code := 0x0B, detail := 2, val := 0 }
    let left (ds : List Deferred) : State := ctxWith s (fun c => { c with deferred := ds })
    let pair : Launch := { launch0 with paired := true, shadowSig := 1 }
    s.launch? 1 0 = some launch0 ∧ launch0.populated = true ∧ launch0.rerun = false ∧ s.over 1 launch0 = true
    ∧ (run { launch0 with lid := 0 }).over 1 { launch0 with lid := 0 } = false
    ∧ ({ launch0 with abort := some (2, 0) } : Launch).abort = some (2, 0) ∧ (left [def0]).leftFault 1 launch0.lid = some 0x0B
    ∧ launch0.abort = none ∧ (left []).leftFault 1 launch0.lid = none ∧ launch0.paired = false ∧ pair.paired = true ∧ pair.sig ≠ pair.shadowSig ∧ pair.thirdSig = none
    ∧ ({ pair with thirdSig := some 1 } : Launch).thirdSig = some 1 ∧ s.launch? 1 5 = none
    ∧ (s.tile 0).r.ctx = 1 ∧ (s.tile 0).slot 0 = some Thread.reset
    ∧ Thread.reset.lix.toNat = 0 ∧ ({ Thread.reset with launch := 1 } : Thread).launch = launch0.lid ∧ Thread.reset.copies = []
    ∧ crash0.lix = 0 ∧ ({ crash0 with lid := 1 } : CrashRec).lid = launch0.lid ∧ isShadow 0 = false
    ∧ s.dev.ctx? 1 = some { context0 with launches := [(0, launch0)] } ∧ context0.res = .resident
    ∧ 2500 * launch0.tlim ≤ launch0.elapsed + (2500 - launch0.since) ∧ launch0.elapsed + (2499 - launch0.since) < 2500 * launch0.tlim := by decide

theorem witness_PackedLines :
    let is : List Instr := [.li16 false 5 0, .exit]
    let cs : List Code := [⟨1, 0x04, 5, 0, 0⟩, ⟨0, 0x01, 0, 1, 0⟩]
    is ≠ [] ∧ is.length ≤ 31 ∧ (∀ i ∈ is, i.wf = true) ∧ is.map encode = cs.map some
    ∧ 1 + cs.length + (cs.map (fun c => tailLen c.head)).sum ≤ 32 := by decide

/-! ### The assembler (chapter 11) -/

/-- The worked example of chapter 11: header fields, the five halfwords of its heads, its tails and the liveness entry. -/
theorem test_asm_worked_example :
    (match Asm.link 0x4000001200000000
      [" .text\n .entry start\n .pool 8, 8, 16, 4\n .slots 1\n .live start, 0x40, g5\nstart: li g5, 0\n loopi 3, last // count 3\nlast: addi g5, g5, 7\n exit\n"] with
    | .ok i => [i.clen, i.entry, i.roff, i.nlive, i.poolcfg, i.quota] == [64, 2, 0x48, 1, 0x04100808, 1]
      && i.bytes.take 10 == [0x00, 0x20, 0x28, 0x44, 0x03, 0x55, 0x28, 0x43, 0x01, 0x01]
      && (i.bytes.drop 58).take 14 == [0x07, 0x28, 0x03, 0x00, 0x00, 0x00, 0x01, 0x00, 0x00, 0x00, 0x20, 0x00, 0x00, 0x00]
    | .error _ => false) = true := by decide
/-- R230: a branch to a data label is an error; R224: so is a label that no instruction follows. -/
theorem test_asm_errors :
    (Asm.link 0x4000001200000000 [".entry a\na: br d\n.data\nd: .byte 1"]).toBool = false
    ∧ (Asm.link 0x4000001200000000 [".entry a\na: nop\nb:"]) = .error (.danglingLabel "b") := by decide
/-- R229: the first form of LI that holds the value. -/
theorem test_asm_li :
    let x : Asm.Env := { sym := fun s => .error (.unresolved s), first := true, wide := false, heads := [], pc := 0 }
    x.li 1 (.lit 0x8000) = .ok (.li16 true 1 0x8000) ∧ x.li 1 (.neg (.lit 1)) = .ok (.li16 false 1 0xFFFF)
    ∧ x.li 1 (.lit 0x80000000) = .ok (.li32 true 1 0x80000000) ∧ ((x.li 1 (.sym "later")).toOption.bind encode).map Code.tl = some 3 := by decide

/-! ### Memory ordering (chapter 8, the tests of R177's section) -/

namespace Litmus
open Sys2Proof.Order

def x0 : Loc := .pool 9 0
def y0 : Loc := .pool 9 8
def f0 : Loc := .pool 9 16
def xc : Loc := .cellar 0
def yc : Loc := .cellar 64
/-- Threads 0 to 3 on tiles of distinct clusters of one partition. -/
def apart : List Stay := (List.range 4).map (fun t => { thread := t, since := 0, part := 1, tile := 32 * t, slot := 0 })
def st (t : Nat) (l : Loc) (v : Nat) : Ev := { agent := .thread t, act := .store, writes := [(l, v)] }
def ld (t : Nat) (l : Loc) (v : Nat) : Ev := { agent := .thread t, act := .load, reads := [(l, v)] }
def stf (t : Nat) : Ev := { agent := .thread t, act := .stf, writes := [(f0, 1), (.fe f0, 1)] }
def ldc (t : Nat) : Ev := { agent := .thread t, act := .ldc, reads := [(f0, 1), (.fe f0, 1)], writes := [(.fe f0, 0)] }
def fence (t : Nat) (k : FenceKind) (scope : Scope) : Ev := { agent := .thread t, act := .fence k scope }
/-- LDC as event `r` takes what STF, event `w`, left. -/
def fes (r w : Nat) : List (Nat × Loc × Option Nat) := [(r, f0, some w), (r, .fe f0, some w)]

/-- Message passing with what stands between the two accesses of each thread. -/
def mp (x y : Loc) (k0 k1 : List Ev) : Execution :=
  let n := 2 + k0.length
  { evs := [st 0 x 1] ++ k0 ++ [st 0 y 1, ld 1 y 1] ++ k1 ++ [ld 1 x 0]
    stays := apart
    rf := [(n, y, some (n - 1)), (n + 1 + k1.length, x, none)] }
def fe (x : Loc) (k : List Ev) : Execution :=
  { evs := [st 0 x 1, stf 0, ldc 1] ++ k ++ [ld 1 x 0], rf := fes 2 1 ++ [(3 + k.length, x, none)], so := [(f0, [1, 2])], stays := apart }
def forbidden (e : Execution) : Bool := e.wellFormed && !e.allowed

/-- Tests 1 to 8. -/
theorem test_message_passing :
    (mp x0 y0 [] []).allowed ∧ (mp xc yc [] []).allowed ∧ forbidden (fe x0 []) ∧ (fe xc []).allowed
    ∧ forbidden (fe xc [fence 1 .acq .partition])
    ∧ forbidden (mp x0 y0 [fence 0 .rel .partition] [fence 1 .acq .partition])
    ∧ (mp x0 y0 [fence 0 .rel .cluster] [fence 1 .acq .cluster]).allowed
    ∧ forbidden { evs := [st 0 xc 1, { agent := .thread 0, act := .arrive 1 }, { agent := .thread 1, act := .arrive 1 },
                         { agent := .thread 0, act := .depart 1 }, { agent := .thread 1, act := .depart 1 }, ld 1 xc 0],
                  rf := [(5, xc, none)], stays := apart } := by decide

def sb (k : Nat → List Ev) : Execution :=
  let n := 2 + (k 0).length
  { evs := [st 0 x0 1] ++ k 0 ++ [ld 0 y0 0, st 1 y0 1] ++ k 1 ++ [ld 1 x0 0]
    rf := [(n - 1, y0, none), (n + 1 + (k 1).length, x0, none)], stays := apart }

/-- Tests 9 to 11; in test 10 one cycle, ordered by LTN, and the other order by cycles (08 R173). -/
theorem test_buffering :
    (sb (fun _ => [])).allowed
    ∧ forbidden (sb (fun t => [fence t .full .partition]))
    ∧ forbidden (sb (fun t => [{ fence t .full .partition with cycle := 5 - t }]))
    ∧ ({ evs := [ld 0 x0 1, st 0 y0 1, ld 1 y0 1, st 1 x0 1], rf := [(0, x0, some 3), (2, y0, some 1)] } : Execution).allowed := by decide

/-- Tests 12 to 14, with and without the acquire fence, and the exclusion of test 14 that the rule describes. -/
theorem test_read_read :
    ({ evs := [st 0 xc 1, ld 1 xc 1, ld 1 xc 0], rf := [(1, xc, some 0), (2, xc, none)] } : Execution).allowed
    ∧ ({ evs := [st 0 xc 1, ld 1 xc 1, fence 1 .acq .partition, ld 1 xc 0], rf := [(1, xc, some 0), (3, xc, none)], stays := apart } : Execution).allowed
    ∧ forbidden { evs := [st 0 xc 1, stf 0, ldc 1, fence 1 .acq .partition, ld 1 xc 0], rf := fes 2 1 ++ [(4, xc, none)], so := [(f0, [1, 2])], stays := apart } := by
  decide

/-- Tests 15 and 16. -/
theorem test_independent_reads :
    let run (k : Nat → List Ev) : Execution :=
      let n := (k 2).length
      { evs := [st 0 xc 1, st 1 yc 1, ld 2 xc 1] ++ k 2 ++ [ld 2 yc 0, ld 3 yc 1] ++ k 3 ++ [ld 3 xc 0]
        rf := [(2, xc, some 0), (3 + n, yc, none), (4 + n, yc, some 1), (5 + n + (k 3).length, xc, none)], stays := apart }
    (run (fun _ => [])).allowed ∧ (run (fun t => [fence t .acq .partition])).allowed := by decide

/-- Tests 17 and 18: a copy with and without DRAIN before the STF. -/
theorem test_copy :
    let run (k : List Ev) : Execution :=
      { evs := [{ agent := .thread 0, act := .issue 1 }, { agent := .unit, act := .engine 1, writes := [(x0, 7)] },
               { agent := .unit, act := .complete 1 }] ++ k ++ [stf 0, ldc 1, ld 1 x0 0]
        rf := fes (4 + k.length) (3 + k.length) ++ [(5 + k.length, x0, none)], so := [(f0, [3 + k.length, 4 + k.length])] }
    forbidden (run [{ agent := .thread 0, act := .await [1] }]) ∧ (run []).allowed := by decide

/-- Test 19: a register fill. -/
theorem test_register_fill :
    let g : Loc := .greg 1 5
    let run (v : Nat) (w : Option Nat) : Execution :=
      { evs := [st 0 x0 1, { agent := .thread 1, act := .rempty, writes := [(.fe g, 0)] },
               { agent := .thread 0, act := .rfill, writes := [(g, 7), (.fe g, 1)] },
               { agent := .thread 1, act := .regRead, reads := [(g, 7), (.fe g, 1)] }, ld 1 x0 v]
        rf := [(3, g, some 2), (3, .fe g, some 2), (4, x0, w)], so := [(g, [1, 2, 3])] }
    forbidden (run 0 none) ∧ (run 1 (some 0)).allowed := by decide

/-- Tests 20 and 21: two copies to the cellar, read without and with DRAIN. -/
theorem test_later_completion :
    let copies : List Ev :=
      [{ agent := .thread 0, act := .issue 1 }, { agent := .unit, act := .engine 1, writes := [(xc, 7)] }, { agent := .unit, act := .complete 1 },
       { agent := .thread 0, act := .issue 2 }, { agent := .unit, act := .engine 2, writes := [(yc, 7)] }, { agent := .unit, act := .complete 2 }]
    ({ evs := copies ++ [ld 1 yc 7, fence 1 .acq .partition, ld 1 xc 0], rf := [(6, yc, some 4), (8, xc, none)], stays := apart } : Execution).allowed
    ∧ forbidden { evs := copies ++ [{ agent := .thread 0, act := .await [1, 2] }, stf 0, ldc 1, fence 1 .acq .partition, ld 1 xc 0],
                  rf := fes 8 7 ++ [(10, xc, none)], so := [(f0, [7, 8])], stays := apart } := by decide

/-- Two AMOs of one word do not both see its initial value (R175, LC2); the example of 03 R63: a launch after a WAIT for the SIGNAL that follows
another launch sees what that one wrote. -/
theorem test_so_and_system :
    let amo (t v : Nat) : Ev := { agent := .thread t, act := .amo false false, reads := [(x0, v)], writes := [(x0, v + 1)] }
    let m : Loc := .host 0
    forbidden { evs := [amo 0 0, amo 1 0], rf := [(0, x0, none), (1, x0, none)], so := [(x0, [0, 1])] }
    ∧ !({ evs := [amo 0 0, amo 1 0], rf := [(0, x0, none), (1, x0, none)] } : Execution).wellFormed
    ∧ ({ evs := [amo 0 0, amo 1 1], rf := [(0, x0, none), (1, x0, some 0)], so := [(x0, [0, 1])] } : Execution).allowed
    ∧ forbidden { evs := [{ st 0 xc 1 with launch := 1 }, { agent := .command 0, act := .record 1 },
                         { agent := .command 0, act := .signal, writes := [(m, 1)] }, { agent := .command 1, act := .wait, reads := [(m, 1)] },
                         { agent := .command 1, act := .population 2 }, { ld 1 xc 0 with launch := 2 }]
                  rf := [(3, m, some 2), (5, xc, none)] } := by decide

end Litmus

end Sys2Proof.Tests
end

section
/-!
PROOFS. The canonical form of the cellar and the host memory (00 R2, log 2). Nearly every operation leaves both memories as they
are: one lemma per operation says so (`_bulk`), or, of one that answers an `Out`, that its next state meets whatever the memories
it began with meet (`_ends`). The few that write go through `cellarWrite` and `hostWrite`, which keep the form
(`_canonical`). `exec`, a delivery and a turn put these together, and the step is one of them.
-/
namespace Sys2Proof.Machine

/-- The memories whose form is at stake: the cellar and the host memory. -/
def State.bulk (s : State) : Memory × Memory := (s.cellar, s.host)

/-! Where an update is one of records the lemma ends in `by rfl`: a `rfl` lemma proper would be applied by unfolding, and `simp` could
not discharge the hypothesis of `State.foldl_bulk` with it. -/

@[simp] theorem State.bulk_mk (now free tok agenda input cur turns cellar host tiles clusters chiplets dev chans) :
    State.bulk ⟨now, free, tok, agenda, input, cur, turns, cellar, host, tiles, clusters, chiplets, dev, chans⟩ =
      (cellar, host) := by rfl
@[simp] theorem State.cellar_host (s : State) : (s.cellar, s.host) = s.bulk := by rfl

@[simp] theorem State.bulk_ite (p : Prop) [Decidable p] (s t : State) :
    (if p then s else t).bulk = if p then s.bulk else t.bulk := apply_ite ..

@[simp] theorem State.bulk_fst_ite {α : Type} (p : Prop) [Decidable p] (x y : State × α) :
    (if p then x else y).1.bulk = if p then x.1.bulk else y.1.bulk := by split <;> rfl

/-- A fold of operations each of which leaves the memories as they are. -/
@[simp] theorem State.foldl_bulk {α : Type} (f : State → α → State) (hf : ∀ s x, (f s x).bulk = s.bulk) (l : List α)
    (s : State) : (l.foldl f s).bulk = s.bulk := by
  induction l generalizing s with
  | nil => rfl
  | cons x l ih => simp [ih, hf]

@[simp] theorem State.foldl_fst_bulk {α β : Type} (f : State × β → α → State × β)
    (hf : ∀ p x, (f p x).1.bulk = p.1.bulk) (l : List α) (p : State × β) : (l.foldl f p).1.bulk = p.1.bulk := by
  induction l generalizing p with
  | nil => rfl
  | cons x l ih => simp [ih, hf]

variable {P : Memory × Memory → Prop}

/-- The cellar and the host memory of the next state, if there is one, meet `P`. -/
def Out.Ends (P : Memory × Memory → Prop) (o : Out) : Prop := match o with | .next t => P t.bulk | _ => True

@[simp] theorem Out.ends_next (t : State) : Out.Ends P (.next t) ↔ P t.bulk := .rfl
@[simp] theorem Out.ends_ite (p : Prop) [Decidable p] (o o' : Out) :
    Out.Ends P (if p then o else o') ↔ if p then Out.Ends P o else Out.Ends P o' := by split <;> rfl

/-! ### Tiles, threads, packets and traps (Machine/Ops.lean) -/

@[simp] theorem State.setTile_bulk (s : State) (k t) : (s.setTile k t).bulk = s.bulk := by rfl
@[simp] theorem State.setCtx_bulk (s : State) (k c) : (s.setCtx k c).bulk = s.bulk := by rfl
@[simp] theorem State.setRouter_bulk (s : State) (k r) : (s.setRouter k r).bulk = s.bulk := by rfl
@[simp] theorem State.setThr_bulk (s : State) (k j th) : (s.setThr k j th).bulk = s.bulk := by rfl
@[simp] theorem State.setMe_bulk (s : State) (th) : (s.setMe th).bulk = s.bulk := by rfl
@[simp] theorem State.done_ends (s : State) (th) (h : P s.bulk) : Out.Ends P (s.done th) := by simp [State.done, h]
@[simp] theorem State.park_bulk (s : State) (th why) : (s.park th why).bulk = s.bulk := by rfl
@[simp] theorem State.withRegs_ends (s : State) (rs k) (h : P s.bulk) (hk : ∀ x, Out.Ends P (k x)) :
    Out.Ends P (s.withRegs rs k) := by simp [State.withRegs, h, hk]
@[simp] theorem State.after_bulk (s : State) (n ev arg) : (s.after n ev arg).bulk = s.bulk := by rfl
@[simp] theorem State.draw_bulk (s : State) : s.draw.bulk = s.bulk := by rfl
@[simp] theorem State.drawn_bulk (s : State) (k) : (s.drawn k).bulk = s.bulk := by rfl
@[simp] theorem State.logRec_bulk (s : State) (k kind slot len ref ev arg val) :
    (s.logRec k kind slot len ref ev arg val).bulk = s.bulk := by simp [State.logRec]
@[simp] theorem State.log_bulk (s : State) (k kind slot len ev arg val) :
    (s.log k kind slot len ev arg val).bulk = s.bulk := by simp [State.log]
@[simp] theorem State.note_bulk (s : State) (k ev arg) : (s.note k ev arg).bulk = s.bulk := by simp [State.note]
theorem State.outside_keeps (s : State) (k ev j look) (h : P s.bulk) (hl : P (look s).1.bulk) :
    P (s.outside k ev j look).1.bulk := by
  unfold State.outside
  dsimp only
  split <;> simp [h, hl]
@[simp] theorem State.outside_bulk (s : State) (k ev j look) (hl : (look s).1.bulk = s.bulk) :
    (s.outside k ev j look).1.bulk = s.bulk := @State.outside_keeps (· = s.bulk) _ _ _ _ _ rfl hl
@[simp] theorem State.setCluster_bulk (s : State) (k c) : (s.setCluster k c).bulk = s.bulk := by rfl
@[simp] theorem State.setDark_bulk (s : State) (chip dark) : (s.setDark chip dark).bulk = s.bulk := by rfl
@[simp] theorem State.sendOn_bulk (s : State) (src dst cls n ev arg) : (s.sendOn src dst cls n ev arg).bulk = s.bulk := by rfl
@[simp] theorem State.inject_bulk (s : State) (k p) : (s.inject k p).bulk = s.bulk := by rfl
@[simp] theorem State.packet_bulk (s : State) (a b cls fl ev arg) :
    (s.packet a b cls fl ev arg).bulk = s.bulk := by simp [State.packet]
@[simp] theorem State.askMemory_bulk (s : State) (a cls ev arg) : (s.askMemory a cls ev arg).bulk = s.bulk := by rfl
@[simp] theorem State.walkNext_bulk (s : State) (cl arg) : (s.walkNext cl arg).bulk = s.bulk := by rfl
@[simp] theorem State.ask_bulk (s : State) (r g) : (s.ask r g).bulk = s.bulk := by rfl
@[simp] theorem State.relay_bulk (s : State) (a b cls fl ev arg) :
    (s.relay a b cls fl ev arg).bulk = s.bulk := by simp [State.relay]
@[simp] theorem State.withLaunch_bulk (s : State) (ctx lix f) :
    (s.withLaunch ctx lix f).bulk = s.bulk := by fun_cases State.withLaunch <;> simp
@[simp] theorem State.lookAt_bulk (s : State) (ctx lix) : (s.lookAt ctx lix).bulk = s.bulk := by rfl
@[simp] theorem State.enterSlot_bulk (s : State) (k j th refused) :
    (s.enterSlot k j th refused).bulk = s.bulk := by simp [State.enterSlot]
@[simp] theorem State.refill_bulk (s : State) (k fuel) : (s.refill k fuel).bulk = s.bulk := by
  induction fuel generalizing s with
  | zero => rfl
  | succ n ih => unfold State.refill; dsimp only; (repeat' split) <;> simp [ih]
@[simp] theorem State.askGroup_bulk (s : State) (k th g kind reds src) :
    (s.askGroup k th g kind reds src).bulk = s.bulk := by simp [State.askGroup]
@[simp] theorem State.endEffects_bulk (s : State) (k th) : (s.endEffects k th).bulk = s.bulk := by simp [State.endEffects]
@[simp] theorem State.endThread_bulk (s : State) (k j) : (s.endThread k j).bulk = s.bulk := by simp [State.endThread]
@[simp] theorem State.dropOn_bulk (s : State) (k lix launch) : (s.dropOn k lix launch).bulk = s.bulk := by simp [State.dropOn]
@[simp] theorem State.discard_bulk (s : State) (ctx launch) : (s.discard ctx launch).bulk = s.bulk := by rfl
@[simp] theorem State.dropAll_bulk (s : State) (ctx lix launch) :
    (s.dropAll ctx lix launch).bulk = s.bulk := by simp [State.dropAll]
@[simp] theorem State.stopLaunch_bulk (s : State) (ctx lix launch why) :
    (s.stopLaunch ctx lix launch why).bulk = s.bulk := by simp [State.stopLaunch]
@[simp] theorem State.addCrash_bulk (s : State) (cl r) : (s.addCrash cl r).bulk = s.bulk := by simp [State.addCrash]
@[simp] theorem State.thirdLevel_bulk (s : State) (k j xpc cause val entry) :
    (s.thirdLevel k j xpc cause val entry).bulk = s.bulk := by simp [State.thirdLevel]
@[simp] theorem State.trapFrom_bulk (s : State) (k j xpc cause val entry) :
    (s.trapFrom k j xpc cause val entry).bulk = s.bulk := by simp [State.trapFrom]
@[simp] theorem State.trapAt_bulk (s : State) (k j xpc cause val) :
    (s.trapAt k j xpc cause val).bulk = s.bulk := by simp [State.trapAt]
@[simp] theorem State.trap_ends (s : State) (code detail val) (h : P s.bulk) :
    Out.Ends P (s.trap code detail val) := by simp [State.trap, h]
@[simp] theorem State.takeFault_bulk (s : State) (k j) :
    (s.takeFault k j).bulk = s.bulk := by unfold State.takeFault; split <;> simp

/-! ### Operands of the scalar core (Machine/Operands.lean) -/

@[simp] theorem State.regOp_ends (s : State) (rs rd f) (h : P s.bulk) : Out.Ends P (s.regOp rs rd f) := by simp [State.regOp, h]
@[simp] theorem State.predOp_ends (s : State) (rs qd f) (h : P s.bulk) : Out.Ends P (s.predOp rs qd f) := by simp [State.predOp, h]
@[simp] theorem State.alu_ends (s : State) (f w rd ra rb) (h : P s.bulk) : Out.Ends P (s.alu f w rd ra rb) := by simp [State.alu, h]
@[simp] theorem State.alui_ends (s : State) (f rd ra imm) (h : P s.bulk) :
    Out.Ends P (s.alui f rd ra imm) := by simp [State.alui, h]
@[simp] theorem State.unary_ends (s : State) (f rd ra) (h : P s.bulk) : Out.Ends P (s.unary f rd ra) := by simp [State.unary, h]
@[simp] theorem State.cmp_ends (s : State) (f qd ra rb) (h : P s.bulk) : Out.Ends P (s.cmp f qd ra rb) := by simp [State.cmp, h]
@[simp] theorem State.cmpi_ends (s : State) (f qd ra imm) (h : P s.bulk) :
    Out.Ends P (s.cmpi f qd ra imm) := by simp [State.cmpi, h]

/-! ### The gateway (Machine/Gateway.lean) -/

@[simp] theorem State.translate_bulk (s : State) (cl ctx host write va) :
    (s.translate cl ctx host write va).1.bulk = s.bulk := by fun_cases State.translate <;> simp
@[simp] theorem State.cacheRead_bulk (s : State) (k th pa n) : (s.cacheRead k th pa n).1.bulk = s.bulk := by rfl
@[simp] theorem State.flushCache_bulk (s : State) (cl) : (s.flushCache cl).bulk = s.bulk := by rfl
@[simp] theorem State.clean_bulk (s : State) (lines) : (s.clean lines).bulk = s.bulk := by rfl

/-! ### Fetch (Machine/Fetch.lean) -/

@[simp] theorem State.touch_bulk (s : State) (k l) : (s.touch k l).bulk = s.bulk := by rfl
@[simp] theorem State.askLine_bulk (s : State) (k lix line) : (s.askLine k lix line).bulk = s.bulk := by rfl
@[simp] theorem State.missLine_bulk (s : State) (line) : (s.missLine line).bulk = s.bulk := by simp [State.missLine]
@[simp] theorem State.continueAfter_ends (s : State) (stop th) (h : P s.bulk) :
    Out.Ends P (s.continueAfter stop th) := by fun_cases State.continueAfter <;> simp [h]

/-! ### Accesses at issue, at a port and through the gateway (Machine/Access.lean) -/

@[simp] theorem State.latchLines_bulk (s : State) (k ls) :
    (s.latchLines k ls).1.bulk = s.bulk := by fun_cases State.latchLines <;> simp
@[simp] theorem State.latchMine_bulk (s : State) (ls) : (s.latchMine ls).1.bulk = s.bulk := by simp [State.latchMine]
@[simp] theorem State.poolWrite_bulk (s : State) (k off bs) : (s.poolWrite k off bs).bulk = s.bulk := by rfl
@[simp] theorem State.poolUpdate_bulk (s : State) (k off bs n) : (s.poolUpdate k off bs n).bulk = s.bulk := by
  induction n generalizing s off bs with
  | zero => rfl
  | succ n ih => simp [State.poolUpdate, ih]
@[simp] theorem State.threadWrite_bulk (s : State) (k off bs) : (s.threadWrite k off bs).bulk = s.bulk := by rfl
@[simp] theorem State.setFe_bulk (s : State) (k dw full other) : (s.setFe k dw full other).bulk = s.bulk := by simp [State.setFe]
@[simp] theorem State.amoAt_bulk (s : State) (k off op a) : (s.amoAt k off op a).1.bulk = s.bulk := by
  unfold State.amoAt
  dsimp only
  split <;> simp
@[simp] theorem State.portPerform_bulk (s : State) (k off a busy other) :
    (s.portPerform k off a busy other).1.bulk = s.bulk := by fun_cases State.portPerform <;> simp
@[simp] theorem State.unpark_bulk (s : State) (k j) : (s.unpark k j).bulk = s.bulk := by rfl
@[simp] theorem State.deliver_bulk (s : State) (r v) : (s.deliver r v).bulk = s.bulk := by fun_cases State.deliver <;> simp
@[simp] theorem State.mark_bulk (s : State) (k kind slot len val) :
    (s.mark k kind slot len val).bulk = s.bulk := by simp [State.mark]
@[simp] theorem State.noteFull_bulk (s : State) (k j) : (s.noteFull k j).bulk = s.bulk := by simp [State.noteFull]
@[simp] theorem State.wakeAll_bulk (s : State) (k kind f) : (s.wakeAll k kind f).bulk = s.bulk := by
  unfold State.wakeAll
  refine State.foldl_bulk _ (fun s x => ?_) _ _
  (repeat' split) <;> simp
@[simp] theorem State.wakeOuter_bulk (s : State) (k f) : (s.wakeOuter k f).bulk = s.bulk := by
  unfold State.wakeOuter
  refine State.foldl_bulk _ (fun s x => ?_) _ _
  (repeat' split) <;> simp
@[simp] theorem State.release_ends (s : State) (th go) (h : P s.bulk) (hgo : Out.Ends P go) :
    Out.Ends P (s.release th go) := by simp [State.release, h, hgo]
@[simp] theorem State.passGateway_bulk (s : State) (k p) : (s.passGateway k p).1.bulk = s.bulk := by simp [State.passGateway]
@[simp] theorem State.launchPacket_bulk (s : State) (p) :
    (s.launchPacket p).bulk = s.bulk := by unfold State.launchPacket; split <;> simp
@[simp] theorem State.flush_bulk (s : State) (k) : (s.flush k).bulk = s.bulk := by simp [State.flush]
@[simp] theorem State.post_bulk (s : State) (k th host a size v) : (s.post k th host a size v).bulk = s.bulk := by simp [State.post]
@[simp] theorem State.postStore_ends (s : State) (th host a size v) (h : P s.bulk) :
    Out.Ends P (s.postStore th host a size v) := by simp [State.postStore, h]
@[simp] theorem State.gateLoad_ends (s : State) (th host a) (h : P s.bulk) :
    Out.Ends P (s.gateLoad th host a) := by simp [State.gateLoad, h]
@[simp] theorem State.readFor_ends (s : State) (th a size cached) (h : P s.bulk) :
    Out.Ends P (s.readFor th a size cached) := by simp [State.readFor, h]
@[simp] theorem State.sendMigrant_bulk (s : State) (k j th live t va) :
    (s.sendMigrant k j th live t va).bulk = s.bulk := by simp [State.sendMigrant]
@[simp] theorem State.migrate_ends (s : State) (th rs t va) (h : P s.bulk) :
    Out.Ends P (s.migrate th rs t va) := by fun_cases State.migrate <;> simp [h]
@[simp] theorem State.atHome_ends (s : State) (th rs go) (h : P s.bulk) (hgo : Out.Ends P go) :
    Out.Ends P (s.atHome th rs go) := by simp [State.atHome, h, hgo]
@[simp] theorem State.armTimeout_bulk (s : State) (r a) : (s.armTimeout r a).bulk = s.bulk := by simp [State.armTimeout]
@[simp] theorem State.sharedAccess_ends (s : State) (th n a) (h : P s.bulk) :
    Out.Ends P (s.sharedAccess th n a) := by unfold State.sharedAccess; split <;> simp [h]
@[simp] theorem State.joinWaiters_bulk (s : State) (k off a src fails issued) :
    (s.joinWaiters k off a src fails issued).bulk = s.bulk := by simp [State.joinWaiters]
@[simp] theorem State.parkCapture_bulk (s : State) (th) : (s.parkCapture th).bulk = s.bulk := by simp [State.parkCapture]
@[simp] theorem State.localAccess_ends (s : State) (th off a) (h : P s.bulk) : Out.Ends P (s.localAccess th off a) := by
  have hb := s.portPerform_bulk s.cur.tile off a (s.captureBusy (off / 64)) false
  rcases hp : s.portPerform s.cur.tile off a (s.captureBusy (off / 64)) false with ⟨s', r | _ | _⟩ <;> rw [hp] at hb
  · cases r <;> simp [State.localAccess, hp, h, hb]
  · simp [State.localAccess, hp, h]
  · simp [State.localAccess, hp, h]
@[simp] theorem State.portAccess_ends (s : State) (th t off a) (h : P s.bulk) :
    Out.Ends P (s.portAccess th t off a) := by simp [State.portAccess, h]
@[simp] theorem State.access_ends (s : State) (th rs a) (h : P s.bulk) :
    Out.Ends P (s.access th rs a) := by fun_cases State.access <;> simp [h]

/-! ### Loads, stores, fences and the stack (Machine/Loads.lean) -/

@[simp] theorem State.loadTI_ends (s : State) (log signed rd ra imm) (h : P s.bulk) :
    Out.Ends P (s.loadTI log signed rd ra imm) := by simp [State.loadTI, h]
@[simp] theorem State.loadTD_ends (s : State) (log signed rd ra rb imm) (h : P s.bulk) :
    Out.Ends P (s.loadTD log signed rd ra rb imm) := by simp [State.loadTD, h]
@[simp] theorem State.storeTI_ends (s : State) (log rs ra imm) (h : P s.bulk) :
    Out.Ends P (s.storeTI log rs ra imm) := by simp [State.storeTI, h]
@[simp] theorem State.storeTD_ends (s : State) (log rs ra rb imm) (h : P s.bulk) :
    Out.Ends P (s.storeTD log rs ra rb imm) := by simp [State.storeTD, h]
@[simp] theorem execLdc_ends (s : State) (rd ra imm) (h : P s.bulk) : Out.Ends P (execLdc rd ra imm s) := by simp [execLdc, h]
@[simp] theorem execLdf_ends (s : State) (rd ra imm) (h : P s.bulk) : Out.Ends P (execLdf rd ra imm s) := by simp [execLdf, h]
@[simp] theorem execStp_ends (s : State) (rd ra imm) (h : P s.bulk) : Out.Ends P (execStp rd ra imm s) := by simp [execStp, h]
@[simp] theorem execStf_ends (s : State) (rd ra imm) (h : P s.bulk) : Out.Ends P (execStf rd ra imm s) := by simp [execStf, h]
@[simp] theorem execFemt_ends (s : State) (ra imm) (h : P s.bulk) : Out.Ends P (execFemt ra imm s) := by simp [execFemt, h]
@[simp] theorem execFest_ends (s : State) (rd ra imm) (h : P s.bulk) : Out.Ends P (execFest rd ra imm s) := by simp [execFest, h]
@[simp] theorem State.amo_ends (s : State) (op fl rd ra rb) (h : P s.bulk) :
    Out.Ends P (s.amo op fl rd ra rb) := by simp [State.amo, h]
@[simp] theorem State.fenceRel_ends (s : State) (scope go) (h : P s.bulk) (hgo : Out.Ends P go) :
    Out.Ends P (s.fenceRel scope go) := by simp [State.fenceRel, h, hgo]
@[simp] theorem State.fenceAcq_ends (s : State) (scope) (h : P s.bulk) :
    Out.Ends P (s.fenceAcq scope) := by simp [State.fenceAcq, h]
@[simp] theorem execFenceRel_ends (s : State) (scope) (h : P s.bulk) :
    Out.Ends P (execFenceRel scope s) := by simp [execFenceRel, h]
@[simp] theorem execFenceFull_ends (s : State) (scope) (h : P s.bulk) :
    Out.Ends P (execFenceFull scope s) := by simp [execFenceFull, h]
@[simp] theorem State.drainEnd_bulk (s : State) (k j nh p) : (s.drainEnd k j nh p).bulk = s.bulk := by
  unfold State.drainEnd
  dsimp only
  split <;> simp
@[simp] theorem execDrain_ends (s : State) (path) (h : P s.bulk) : Out.Ends P (execDrain path s) := by simp [execDrain, h]
@[simp] theorem State.endDrains_bulk (s : State) (k) : (s.endDrains k).bulk = s.bulk := by
  unfold State.endDrains
  refine State.foldl_bulk _ (fun s x => ?_) _ _
  (repeat' split) <;> simp
@[simp] theorem execRfill_ends (s : State) (ra rb rt) (h : P s.bulk) : Out.Ends P (execRfill ra rb rt s) := by
  unfold execRfill
  split
  · simp [h]
  · refine s.withRegs_ends _ _ h fun th => ?_
    dsimp only
    split
    · simp [h]
    · refine s.release_ends _ _ h ?_
      (repeat' split) <;> simp [h]
@[simp] theorem execRempty_ends (s : State) (rd) (h : P s.bulk) : Out.Ends P (execRempty rd s) := by simp [execRempty, h]
@[simp] theorem execRstat_ends (s : State) (rd) (h : P s.bulk) : Out.Ends P (execRstat rd s) := by simp [execRstat, h]
@[simp] theorem frameStore_bulk (k x w) : (frameStore k x w).1.bulk = x.1.bulk := by unfold frameStore; split <;> simp
@[simp] theorem execEnter_ends (s : State) (n) (h : P s.bulk) : Out.Ends P (execEnter n s) := by
  unfold execEnter
  split
  · simp [h]
  · refine s.withRegs_ends _ _ h fun th => ?_
    dsimp only
    (repeat' split) <;> simp [h]
@[simp] theorem execLeave_ends (s : State) (h : P s.bulk) : Out.Ends P (execLeave s) := by simp [execLeave, h]
@[simp] theorem execExit_ends (s : State) (h : P s.bulk) : Out.Ends P (execExit s) := by simp [execExit, h]
@[simp] theorem execRet_ends (s : State) (h : P s.bulk) : Out.Ends P (execRet s) := by simp [execRet, h]

/-! ### Ports, waiters and replies (Machine/Ports.lean) -/

@[simp] theorem State.arrive_bulk (s : State) (t) : (s.arrive t).1.bulk = s.bulk := by rfl
theorem State.portPerform_next {s s' : State} {k off a busy other v} (h : s.portPerform k off a busy other = (s', v)) :
    s'.bulk = s.bulk := by rw [← s.portPerform_bulk k off a busy other, h]
@[simp] theorem State.portRequest_bulk (s : State) (t off a src fails issued) :
    (s.portRequest t off a src fails issued).bulk = s.bulk := by
  unfold State.portRequest
  split <;> (next e => simp [State.portPerform_next e])
@[simp] theorem execRemoteAccess_ends (s : State) (h : P s.bulk) :
    Out.Ends P (execRemoteAccess s) := by unfold execRemoteAccess; split <;> simp [h]
@[simp] theorem execPortBounceRepresent_ends (s : State) (h : P s.bulk) :
    Out.Ends P (execPortBounceRepresent s) := by unfold execPortBounceRepresent; split <;> simp [h]
@[simp] theorem State.logReply_bulk (s : State) (r v ev) :
    (s.logReply r v ev).bulk = s.bulk := by unfold State.logReply; split <;> simp
@[simp] theorem State.bounced_bulk (s : State) (src arg) : (s.bounced src arg).bulk = s.bulk := by simp [State.bounced]
@[simp] theorem execFeRefusalRepresent_ends (s : State) (h : P s.bulk) : Out.Ends P (execFeRefusalRepresent s) := by
  unfold execFeRefusalRepresent
  split
  · split <;> (next e => simp [State.portPerform_next e, h])
  · simp [h]
@[simp] theorem State.answerWaiter_bulk (s : State) (k w v) : (s.answerWaiter k w v).bulk = s.bulk := by simp [State.answerWaiter]
@[simp] theorem State.passOver_bulk (s : State) (k w) : (s.passOver k w).bulk = s.bulk := by simp [State.passOver]
@[simp] theorem State.performWaiter_bulk (s : State) (k w other) : (s.performWaiter k w other).bulk = s.bulk := by
  unfold State.performWaiter
  dsimp only
  split
  · split
    · next e => simp [State.portPerform_next e]
    · simp
  · simp
@[simp] theorem execFeWake_ends (s : State) (h : P s.bulk) : Out.Ends P (execFeWake s) := by
  unfold execFeWake
  dsimp only
  (repeat' split) <;> simp [h]
@[simp] theorem State.removeWaiter_bulk (s : State) (k r) : (s.removeWaiter k r).bulk = s.bulk := by rfl
@[simp] theorem State.withdraw_bulk (s : State) (r) : (s.withdraw r).bulk = s.bulk := by simp [State.withdraw]
@[simp] theorem execFeTimeout_ends (s : State) (h : P s.bulk) :
    Out.Ends P (execFeTimeout s) := by fun_cases execFeTimeout <;> simp [h]
@[simp] theorem State.gateRead_bulk (s : State) (k th g) : (s.gateRead k th g).1.bulk = s.bulk := by
  unfold State.gateRead
  dsimp only
  (repeat' split) <;> simp
@[simp] theorem State.intoBuffer_bulk (s : State) (r ws) :
    (s.intoBuffer r ws).bulk = s.bulk := by fun_cases State.intoBuffer <;> simp
@[simp] theorem State.gateReads_bulk (s : State) (k th g n) : (s.gateReads k th g n).1.bulk = s.bulk := by
  induction n generalizing s g with
  | zero => rfl
  | succ n ih => simp [State.gateReads, ih]
@[simp] theorem execLoadReply_ends (s : State) (h : P s.bulk) : Out.Ends P (execLoadReply s) := by
  unfold execLoadReply
  dsimp only
  (repeat' split) <;> simp [h]
@[simp] theorem State.wakeWaits_bulk (s : State) (k) : (s.wakeWaits k).bulk = s.bulk := by simp [State.wakeWaits]
@[simp] theorem State.wakeStores_bulk (s : State) (k) : (s.wakeStores k).bulk = s.bulk := by simp [State.wakeStores]
@[simp] theorem execCaptureEntryFree_ends (s : State) (h : P s.bulk) :
    Out.Ends P (execCaptureEntryFree s) := by unfold execCaptureEntryFree; (repeat' split) <;> simp [h]
@[simp] theorem execIcacheFill_ends (s : State) (h : P s.bulk) :
    Out.Ends P (execIcacheFill s) := by unfold execIcacheFill; split <;> simp [h]

/-! ### Migrants, register fills and messages (Machine/Moves.lean) -/

@[simp] theorem State.returnHome_bulk (s : State) (k th refused) :
    (s.returnHome k th refused).bulk = s.bulk := by fun_cases State.returnHome <;> simp
@[simp] theorem State.settle_bulk (s : State) (k th) : (s.settle k th).1.bulk = s.bulk := by simp [State.settle]
@[simp] theorem execMigrantArrival_ends (s : State) (h : P s.bulk) : Out.Ends P (execMigrantArrival s) := by
  unfold execMigrantArrival
  dsimp only
  split
  · split
    · simp [h]
    · split
      · simp [h]
      · split <;> simp [h]
  · simp [h]
@[simp] theorem execMigback_ends (s : State) (h : P s.bulk) : Out.Ends P (execMigback s) := by
  unfold execMigback
  dsimp only
  (repeat' split) <;> simp [h]
@[simp] theorem execMigbackResend_ends (s : State) (h : P s.bulk) :
    Out.Ends P (execMigbackResend s) := by unfold execMigbackResend; split <;> simp [h]
@[simp] theorem execLocationNotice_ends (s : State) (h : P s.bulk) :
    Out.Ends P (execLocationNotice s) := by unfold execLocationNotice; (repeat' split) <;> simp [h]
@[simp] theorem execExitNotice_ends (s : State) (h : P s.bulk) :
    Out.Ends P (execExitNotice s) := by unfold execExitNotice; (repeat' split) <;> simp [h]
@[simp] theorem execRfillDelivery_ends (s : State) (h : P s.bulk) : Out.Ends P (execRfillDelivery s) := by
  unfold execRfillDelivery
  dsimp only
  (repeat' split) <;> simp [h]
@[simp] theorem State.sendMessage_bulk (s : State) (r p) : (s.sendMessage r p).bulk = s.bulk := by simp [State.sendMessage]
@[simp] theorem execSend_ends (s : State) (ra rb mbox tag) (h : P s.bulk) : Out.Ends P (execSend ra rb mbox tag s) := by
  unfold execSend
  refine s.withRegs_ends _ _ h fun th => ?_
  dsimp only
  (repeat' split) <;> simp [h]
@[simp] theorem execMessageDelivery_ends (s : State) (h : P s.bulk) :
    Out.Ends P (execMessageDelivery s) := by unfold execMessageDelivery; split <;> simp [h]
@[simp] theorem execMessageAcceptance_ends (s : State) (h : P s.bulk) :
    Out.Ends P (execMessageAcceptance s) := by unfold execMessageAcceptance; (repeat' split) <;> simp [h]
@[simp] theorem execMessageBounce_ends (s : State) (h : P s.bulk) : Out.Ends P (execMessageBounce s) := by
  unfold execMessageBounce
  dsimp only
  (repeat' split) <;> simp [h]
@[simp] theorem execMessageReinject_ends (s : State) (h : P s.bulk) :
    Out.Ends P (execMessageReinject s) := by fun_cases execMessageReinject <;> simp [h]
@[simp] theorem State.recv_ends (s : State) (try_ rd ra rb) (h : P s.bulk) : Out.Ends P (s.recv try_ rd ra rb) := by
  unfold State.recv
  refine s.withRegs_ends _ _ h fun th => ?_
  dsimp only
  (repeat' split) <;> simp [h]
@[simp] theorem execMig_ends (s : State) (ra) (h : P s.bulk) : Out.Ends P (execMig ra s) := by simp [execMig, h]

/-! ### Groups and reductions (Machine/Reduction.lean) -/

@[simp] theorem State.setLocal_bulk (s : State) (cl key g) : (s.setLocal cl key g).bulk = s.bulk := by rfl
@[simp] theorem State.setHome_bulk (s : State) (cl key g) : (s.setHome cl key g).bulk = s.bulk := by rfl
@[simp] theorem State.setRed_bulk (s : State) (cl root ctx g num r) : (s.setRed cl root ctx g num r).bulk = s.bulk := by rfl
@[simp] theorem State.sendPartial_bulk (s : State) (cl p) : (s.sendPartial cl p).bulk = s.bulk := by simp [State.sendPartial]
@[simp] theorem State.tryForward_bulk (s : State) (cl r) : (s.tryForward cl r).bulk = s.bulk := by simp [State.tryForward]
@[simp] theorem State.tryResult_bulk (s : State) (home r) : (s.tryResult home r).bulk = s.bulk := by simp [State.tryResult]
@[simp] theorem State.redLeave_bulk (s : State) (home ctx g cl reds) :
    (s.redLeave home ctx g cl reds).bulk = s.bulk := by simp [State.redLeave]
@[simp] theorem State.sendRed_bulk (s : State) (r p n) : (s.sendRed r p n).bulk = s.bulk := by simp [State.sendRed]
@[simp] theorem execRed_ends (s : State) (rd ra rb op ty) (h : P s.bulk) : Out.Ends P (execRed rd ra rb op ty s) := by
  unfold execRed
  refine s.withRegs_ends _ _ h fun th => ?_
  dsimp only
  split <;> simp [h]
@[simp] theorem State.acceptRed_bulk (s : State) (cl r) : (s.acceptRed cl r).bulk = s.bulk := by simp [State.acceptRed]
@[simp] theorem execReductionContribution_ends (s : State) (h : P s.bulk) : Out.Ends P (execReductionContribution s) := by
  unfold execReductionContribution
  dsimp only
  (repeat' split) <;> simp [h]
@[simp] theorem execRedlimitExpire_ends (s : State) (h : P s.bulk) :
    Out.Ends P (execRedlimitExpire s) := by fun_cases execRedlimitExpire <;> simp [h]
@[simp] theorem execReductionPartial_ends (s : State) (h : P s.bulk) :
    Out.Ends P (execReductionPartial s) := by fun_cases execReductionPartial <;> simp [h]
@[simp] theorem State.deliverRed_bulk (s : State) (r p) : (s.deliverRed r p).bulk = s.bulk := by fun_cases State.deliverRed <;> simp
@[simp] theorem State.keepResult_bulk (s : State) (cl p takers) : (s.keepResult cl p takers).bulk = s.bulk := by rfl
@[simp] theorem execReductionResult_ends (s : State) (h : P s.bulk) : Out.Ends P (execReductionResult s) := by
  unfold execReductionResult
  dsimp only
  (repeat' split) <;> simp [h]
@[simp] theorem execRedg_ends (s : State) (rd ra qd) (h : P s.bulk) : Out.Ends P (execRedg rd ra qd s) := by
  unfold execRedg
  refine s.withRegs_ends _ _ h fun th => ?_
  dsimp only
  split <;> simp [h]

/-! ### Threads, tasks and control (Machine/Threads.lean) -/

@[simp] theorem State.spawnSlot_bulk (s : State) : s.spawnSlot.1.bulk = s.bulk := by
  unfold State.spawnSlot
  dsimp only
  split <;> simp
@[simp] theorem execSpawn_ends (s : State) (rd ra rb) (h : P s.bulk) : Out.Ends P (execSpawn rd ra rb s) := by
  unfold execSpawn
  refine s.withRegs_ends _ _ h fun th => ?_
  dsimp only
  (repeat' split) <;> simp [h]
@[simp] theorem State.groupAsk_ends (s : State) (rd ra what kind) (h : P s.bulk) :
    Out.Ends P (s.groupAsk rd ra what kind) := by simp [State.groupAsk, h]
@[simp] theorem State.tryArrive_bulk (s : State) (cl home ctx g) :
    (s.tryArrive cl home ctx g).bulk = s.bulk := by simp [State.tryArrive]
@[simp] theorem State.tryDepart_bulk (s : State) (home ctx g) : (s.tryDepart home ctx g).bulk = s.bulk := by simp [State.tryDepart]
@[simp] theorem State.joinGroup_bulk (s : State) (home ctx g cl tid) : (s.joinGroup home ctx g cl tid).bulk = s.bulk := by rfl
@[simp] theorem State.leaveGroup_bulk (s : State) (home ctx g cl tid) :
    (s.leaveGroup home ctx g cl tid).bulk = s.bulk := by simp [State.leaveGroup]
@[simp] theorem State.groupReply_bulk (s : State) (home r v) : (s.groupReply home r v).bulk = s.bulk := by simp [State.groupReply]
@[simp] theorem execGroupRequest_ends (s : State) (h : P s.bulk) :
    Out.Ends P (execGroupRequest s) := by fun_cases execGroupRequest <;> simp [h]
@[simp] theorem execGbar_ends (s : State) (rd ra) (h : P s.bulk) : Out.Ends P (execGbar rd ra s) := by
  unfold execGbar
  refine s.withRegs_ends _ _ h fun th => ?_
  simp [h]
@[simp] theorem State.arriveLocal_bulk (s : State) (cl ctx g tid r) :
    (s.arriveLocal cl ctx g tid r).bulk = s.bulk := by simp [State.arriveLocal]
@[simp] theorem execBarrierClusterArrival_ends (s : State) (h : P s.bulk) :
    Out.Ends P (execBarrierClusterArrival s) := by unfold execBarrierClusterArrival; split <;> simp [h]
@[simp] theorem execBarrierDeparture_ends (s : State) (h : P s.bulk) : Out.Ends P (execBarrierDeparture s) := by
  unfold execBarrierDeparture
  dsimp only
  (repeat' split) <;> simp [h]
@[simp] theorem State.setCtxRec_bulk (s : State) (n c) : (s.setCtxRec n c).bulk = s.bulk := by rfl
@[simp] theorem execTask_ends (s : State) (h : P s.bulk) : Out.Ends P (execTask s) := by simp [execTask, h]
@[simp] theorem execTdone_ends (s : State) (h : P s.bulk) : Out.Ends P (execTdone s) := by simp [execTdone, h]
@[simp] theorem State.granted_bulk (s : State) (r pos bs) :
    (s.granted r pos bs).bulk = s.bulk := by unfold State.granted; split <;> simp
@[simp] theorem execPacketRetire_ends (s : State) (h : P s.bulk) :
    Out.Ends P (execPacketRetire s) := by fun_cases execPacketRetire <;> simp [h]
@[simp] theorem execSiga_ends (s : State) (ra) (h : P s.bulk) : Out.Ends P (execSiga ra s) := by simp [execSiga, h]
@[simp] theorem execQpost_ends (s : State) (rd ra rb) (h : P s.bulk) : Out.Ends P (execQpost rd ra rb s) := by
  unfold execQpost
  refine s.withRegs_ends _ _ h fun th => ?_
  dsimp only
  (repeat' split) <;> simp [h]

/-! ### CSRs (Machine/Csr.lean) -/

@[simp] theorem State.readTime_bulk (s : State) : s.readTime.1.bulk = s.bulk := by simp [State.readTime]
@[simp] theorem State.csrOp_ends (s : State) (rd csr writes rs f) (h : P s.bulk) :
    Out.Ends P (s.csrOp rd csr writes rs f) := by simp [State.csrOp, h]

/-! ### Engine queues and range locks (Machine/Engine.lean) -/

@[simp] theorem State.kick_bulk (s : State) (k) : (s.kick k).bulk = s.bulk := by simp [State.kick]
@[simp] theorem State.askRanges_bulk (s : State) (k o) : (s.askRanges k o).bulk = s.bulk := by simp [State.askRanges]
@[simp] theorem State.enqueue_bulk (s : State) (k o) : (s.enqueue k o).bulk = s.bulk := by simp [State.enqueue]
@[simp] theorem State.issueOp_ends (s : State) (th job rs far parks pix sigAt) (h : P s.bulk) :
    Out.Ends P (s.issueOp th job rs far parks pix sigAt) := by unfold State.issueOp; split <;> simp [h]
@[simp] theorem State.nothingLeft_ends (s : State) (th) (h : P s.bulk) :
    Out.Ends P (s.nothingLeft th) := by simp [State.nothingLeft, h]
@[simp] theorem State.endListed_bulk (s : State) (k) : (s.endListed k).bulk = s.bulk := by
  unfold State.endListed
  refine State.foldl_bulk _ (fun s x => ?_) _ _
  (repeat' split) <;> simp
@[simp] theorem State.afterRelease_bulk (s : State) (k) : (s.afterRelease k).bulk = s.bulk := by simp [State.afterRelease]
@[simp] theorem State.releaseOp_bulk (s : State) (k o) : (s.releaseOp k o).bulk = s.bulk := by simp [State.releaseOp]
@[simp] theorem State.wakeOp_bulk (s : State) (r v) : (s.wakeOp r v).bulk = s.bulk := by unfold State.wakeOp; split <;> simp
@[simp] theorem State.reach_bulk (s : State) (k o hi) : (s.reach k o hi).bulk = s.bulk := by unfold State.reach; split <;> simp
@[simp] theorem State.pauseAt_bulk (s : State) (k o hi) : (s.pauseAt k o hi).bulk = s.bulk := by simp [State.pauseAt]
@[simp] theorem State.endOp_bulk (s : State) (k o v) : (s.endOp k o v).bulk = s.bulk := by
  unfold State.endOp
  dsimp only
  split <;> simp
@[simp] theorem State.markLines_bulk (s : State) (k ls) : (s.markLines k ls).bulk = s.bulk := by rfl
@[simp] theorem State.captureOp_bulk (s : State) (k id ls) : (s.captureOp k id ls).1.bulk = s.bulk := by simp [State.captureOp]
@[simp] theorem State.engDone_bulk (s : State) (k e ranges) : (s.engDone k e ranges).bulk = s.bulk := by rfl
@[simp] theorem State.trapInfo_ends (s : State) (t) (h : P s.bulk) : Out.Ends P (s.trapInfo t) := by simp [State.trapInfo, h]

/-! ### The vector unit (Machine/Vector.lean) -/

@[simp] theorem State.vec_ends (s : State) (f o) (h : P s.bulk) : Out.Ends P (s.vec f o) := by
  unfold State.vec
  refine s.withRegs_ends _ _ h fun th => ?_
  dsimp only
  split <;> simp [h]
@[simp] theorem State.red_ends (s : State) (f ty rd ra rb) (h : P s.bulk) : Out.Ends P (s.red f ty rd ra rb) := by
  unfold State.red
  refine s.withRegs_ends _ _ h fun th => ?_
  dsimp only
  split <;> simp [h]
@[simp] theorem State.gat_ends (s : State) (f rm o) (h : P s.bulk) : Out.Ends P (s.gat f rm o) := by
  unfold State.gat
  refine s.withRegs_ends _ _ h fun th => ?_
  dsimp only
  split <;> simp [h]

/-! ### Copies (Machine/Copy.lean) -/

@[simp] theorem State.poolPuts_bulk (s : State) (t base ps) : (s.poolPuts t base ps).bulk = s.bulk := by simp [State.poolPuts]
@[simp] theorem State.cleanCopied_bulk (s : State) (x l hi) : (s.cleanCopied x l hi).bulk = s.bulk := by simp [State.cleanCopied]
@[simp] theorem State.countEstat_bulk (s : State) (k ovf inv) : (s.countEstat k ovf inv).bulk = s.bulk := by rfl
@[simp] theorem State.shadowCrcs_bulk (s : State) (k f a b) : (s.shadowCrcs k f a b).1.bulk = s.bulk := by simp [State.shadowCrcs]
@[simp] theorem State.copyInstr_ends (s : State) (f ticket ra rb z) (h : P s.bulk) : Out.Ends P (s.copyInstr f ticket ra rb z) := by
  unfold State.copyInstr
  refine s.withRegs_ends _ _ h fun th => ?_
  dsimp only
  (repeat' split) <;> simp [h]
@[simp] theorem State.payCopy_bulk (s : State) (k o f a b) :
    (s.payCopy k o f a b).bulk = s.bulk := by fun_cases State.payCopy <;> simp
@[simp] theorem State.foldCopy_bulk (s : State) (k o f a b) :
    (s.foldCopy k o f a b).bulk = s.bulk := by fun_cases State.foldCopy <;> simp
@[simp] theorem State.finishCopy_bulk (s : State) (k o) :
    (s.finishCopy k o).bulk = s.bulk := by unfold State.finishCopy; (repeat' split) <;> simp
@[simp] theorem State.carry_bulk (s : State) (fr own x) : (s.carry fr own x).bulk = s.bulk := by unfold State.carry; split <;> simp
@[simp] theorem State.drawnFor_bulk (s : State) (k x) : (s.drawnFor k x).bulk = s.bulk := by simp [State.drawnFor]
@[simp] theorem State.sendPart_bulk (s : State) (k o lo) :
    (s.sendPart k o lo).bulk = s.bulk := by unfold State.sendPart; split <;> simp
@[simp] theorem State.partDone_bulk (s : State) (k x) : (s.partDone k x).bulk = s.bulk := by unfold State.partDone; split <;> simp
@[simp] theorem State.freeRanges_bulk (s : State) (t x) : (s.freeRanges t x).bulk = s.bulk := by simp [State.freeRanges]
@[simp] theorem State.partAt_bulk (s : State) (t x) : (s.partAt t x).bulk = s.bulk := by simp [State.partAt]
@[simp] theorem State.pageWalked_bulk (s : State) (x p) : (s.pageWalked x p).bulk = s.bulk := by simp [State.pageWalked]
@[simp] theorem State.localCopy_bulk (s : State) (k o hi) :
    (s.localCopy k o hi).bulk = s.bulk := by unfold State.localCopy; split <;> simp
@[simp] theorem State.startCopy_bulk (s : State) (k o) :
    (s.startCopy k o).bulk = s.bulk := by unfold State.startCopy; split <;> simp
@[simp] theorem execRangeLockRequest_ends (s : State) (h : P s.bulk) :
    Out.Ends P (execRangeLockRequest s) := by unfold execRangeLockRequest; split <;> simp [h]
@[simp] theorem execRangeLockRepresent_ends (s : State) (h : P s.bulk) :
    Out.Ends P (execRangeLockRepresent s) := by fun_cases execRangeLockRepresent <;> simp [h]

/-! ### Accumulators (Machine/Accum.lean) -/

@[simp] theorem State.withHandles_ends (s : State) (h n k) (hm : P s.bulk) (hk : Out.Ends P k) :
    Out.Ends P (s.withHandles h n k) := by simp [State.withHandles, hm, hk]
@[simp] theorem State.accLock_ends (s : State) (h n k) (hm : P s.bulk) (hk : Out.Ends P k) :
    Out.Ends P (s.accLock h n k) := by simp [State.accLock, hm, hk]
@[simp] theorem execAccz_ends (s : State) (h n1) (hm : P s.bulk) : Out.Ends P (execAccz h n1 s) := by
  unfold execAccz
  refine s.withHandles_ends _ _ _ hm ?_
  split
  · simp [hm]
  · exact s.accLock_ends _ _ _ hm (by simp [hm])
@[simp] theorem execAccrel_ends (s : State) (h n1) (hm : P s.bulk) : Out.Ends P (execAccrel h n1 s) := by
  unfold execAccrel
  refine s.withHandles_ends _ _ _ hm ?_
  (repeat' split) <;> simp [hm]
@[simp] theorem execAccsta_ends (s : State) (rd h clr) (hm : P s.bulk) : Out.Ends P (execAccsta rd h clr s) := by
  unfold execAccsta
  refine s.withHandles_ends _ _ _ hm ?_
  (repeat' split) <;> simp [hm]
@[simp] theorem State.accMove_ends (s : State) (load h n ty ra rb) (hm : P s.bulk) : Out.Ends P (s.accMove load h n ty ra rb) := by
  unfold State.accMove
  refine s.withHandles_ends _ _ _ hm (s.withRegs_ends _ _ hm fun th => ?_)
  dsimp only
  (repeat' split) <;> simp [hm]
@[simp] theorem State.accLdWork_bulk (s : State) (k o h ty a p lo hi) : (s.accLdWork k o h ty a p lo hi).bulk = s.bulk := by rfl
@[simp] theorem State.accStWork_bulk (s : State) (k o h n ty a p lo hi) :
    (s.accStWork k o h n ty a p lo hi).bulk = s.bulk := by simp [State.accStWork]
@[simp] theorem execAccpin_ends (s : State) (qd h n1 ra rb) (hm : P s.bulk) : Out.Ends P (execAccpin qd h n1 ra rb s) := by
  unfold execAccpin
  refine s.withHandles_ends _ _ _ hm (s.withRegs_ends _ _ hm fun th => ?_)
  dsimp only
  (repeat' split) <;> simp [hm]
@[simp] theorem execAccatt_ends (s : State) (qd h n1 ra) (hm : P s.bulk) : Out.Ends P (execAccatt qd h n1 ra s) := by
  unfold execAccatt
  refine s.withHandles_ends _ _ _ hm (s.withRegs_ends _ _ hm fun th => ?_)
  dsimp only
  (repeat' split) <;> simp [hm]
@[simp] theorem execAccspl_ends (s : State) (h n1) (hm : P s.bulk) : Out.Ends P (execAccspl h n1 s) := by
  unfold execAccspl
  dsimp only
  split <;> simp [hm]
@[simp] theorem State.spill_bulk (s : State) (k id pin) : (s.spill k id pin).bulk = s.bulk := by unfold State.spill; split <;> simp
@[simp] theorem State.foldSpill_bulk (s : State) (k o r) :
    (s.foldSpill k o r).bulk = s.bulk := by unfold State.foldSpill; split <;> simp
@[simp] theorem State.endSpl_bulk (s : State) (k o h n r fault) : (s.endSpl k o h n r fault).bulk = s.bulk := by simp [State.endSpl]
@[simp] theorem State.splWork_bulk (s : State) (k o h n pin) :
    (s.splWork k o h n pin).bulk = s.bulk := by unfold State.splWork; split <;> simp
@[simp] theorem State.spillDone_bulk (s : State) (k id pin fault) : (s.spillDone k id pin fault).bulk = s.bulk := by
  unfold State.spillDone
  dsimp only
  (repeat' split) <;> simp
@[simp] theorem State.unattach_bulk (s : State) (k h n pin) : (s.unattach k h n pin).bulk = s.bulk := by rfl
@[simp] theorem State.attachFrom_bulk (s : State) (k h n pin hd) : (s.attachFrom k h n pin hd).bulk = s.bulk := by rfl
@[simp] theorem State.askSpill_bulk (s : State) (k o a len) :
    (s.askSpill k o a len).bulk = s.bulk := by unfold State.askSpill; split <;> simp
@[simp] theorem State.attFill_bulk (s : State) (k o h n pin qd r a bs) :
    (s.attFill k o h n pin qd r a bs).bulk = s.bulk := by simp [State.attFill]
@[simp] theorem State.spillArrive_bulk (s : State) (k id a bs fault arg) :
    (s.spillArrive k id a bs fault arg).bulk = s.bulk := by unfold State.spillArrive; (repeat' split) <;> simp
@[simp] theorem State.spillAll_bulk (s : State) (k) : (s.spillAll k).bulk = s.bulk := by simp [State.spillAll]
@[simp] theorem State.evict_bulk (s : State) (k cfg) : (s.evict k cfg).bulk = s.bulk := by simp [State.evict]

/-! ### The matrix unit (Machine/Matrix.lean) -/

@[simp] theorem State.mmaWork_bulk (s : State) (k o h comb acc col a b pa pb c tfmt tscl kk p hi) :
    (s.mmaWork k o h comb acc col a b pa pb c tfmt tscl kk p hi).bulk = s.bulk := by rfl
@[simp] theorem State.mma_ends (s : State) (o c) (h : P s.bulk) : Out.Ends P (s.mma o c) := by
  unfold State.mma
  dsimp only
  split
  · simp [h]
  · refine s.withHandles_ends _ _ _ h (s.withRegs_ends _ _ h fun th => ?_)
    (repeat' split) <;> simp [h]
@[simp] theorem execTld_ends (s : State) (w ra rb pitch) (h : P s.bulk) : Out.Ends P (execTld w ra rb pitch s) := by
  by_cases hp : pitch.toNat % (if w then 4 else 2) ≠ 0
  · simp [execTld, hp, h]
  · rw [execTld, if_neg hp]
    refine s.withRegs_ends _ _ h fun th => ?_
    dsimp only
    (repeat' split) <;> simp [h]

/-! ### The delta unit (Machine/Delta.lean) -/

@[simp] theorem State.deltaIssue_ends (s : State) (f h ra rs job) (hm : P s.bulk) : Out.Ends P (s.deltaIssue f h ra rs job) := by
  unfold State.deltaIssue
  refine s.withRegs_ends _ _ hm fun th => ?_
  dsimp only
  (repeat' split) <;> simp [hm]
@[simp] theorem State.deltaDone_bulk (s : State) (k o g) : (s.deltaDone k o g).bulk = s.bulk := by rfl
@[simp] theorem State.deltaWork_bulk (s : State) (k o h d upd p hi) : (s.deltaWork k o h d upd p hi).bulk = s.bulk := by
  unfold State.deltaWork
  dsimp only
  split <;> simp
@[simp] theorem State.dsclWork_bulk (s : State) (k o h alpha p hi) : (s.dsclWork k o h alpha p hi).bulk = s.bulk := by rfl

/-! ### Sticky flags (Machine/Flags.lean) -/

@[simp] theorem State.fpOp_ends (s : State) (rs rd f) (h : P s.bulk) : Out.Ends P (s.fpOp rs rd f) := by simp [State.fpOp, h]
@[simp] theorem State.fpPred_ends (s : State) (qd ra rb f) (h : P s.bulk) :
    Out.Ends P (s.fpPred qd ra rb f) := by simp [State.fpPred, h]

/-! ### Merge rounds (Machine/Merge.lean) -/

@[simp] theorem State.setRound_bulk (s : State) (k r) : (s.setRound k r).bulk = s.bulk := by simp [State.setRound]
@[simp] theorem State.withRound_ends (s : State) (th away v go) (h : P s.bulk) (hgo : ∀ x, Out.Ends P (go x)) :
    Out.Ends P (s.withRound th away v go) := by fun_cases State.withRound <;> simp [h, hgo]
@[simp] theorem State.withRecord_ends (s : State) (th area go) (h : P s.bulk) (hgo : Out.Ends P go) :
    Out.Ends P (s.withRecord th area go) := by simp [State.withRecord, h, hgo]
@[simp] theorem State.holdOp_bulk (s : State) (th slot rs) : (s.holdOp th slot rs).bulk = s.bulk := by rfl
@[simp] theorem execBopen_ends (s : State) (rd h n1 want ra rb) (hm : P s.bulk) : Out.Ends P (execBopen rd h n1 want ra rb s) := by
  unfold execBopen
  refine s.withRegs_ends _ _ hm fun th => ?_
  dsimp only
  (repeat' split) <;> simp [hm]
@[simp] theorem State.sendBind_bulk (s : State) (t src tok round cid n idx) :
    (s.sendBind t src tok round cid n idx).bulk = s.bulk := by simp [State.sendBind]
@[simp] theorem execBsend_ends (s : State) (rs ra rb n1) (h : P s.bulk) : Out.Ends P (execBsend rs ra rb n1 s) := by
  unfold execBsend
  refine s.withRegs_ends _ _ h fun th => ?_
  dsimp only
  (repeat' split) <;> simp [h]
@[simp] theorem execBindRequest_ends (s : State) (h : P s.bulk) : Out.Ends P (execBindRequest s) := by
  unfold execBindRequest
  dsimp only
  (repeat' split) <;> simp [h]
@[simp] theorem execBindRequestRetry_ends (s : State) (h : P s.bulk) :
    Out.Ends P (execBindRequestRetry s) := by unfold execBindRequestRetry; split <;> simp [h]
@[simp] theorem State.sendTiles_bulk (s : State) (t src j tok round cid n idx) :
    (s.sendTiles t src j tok round cid n idx).bulk = s.bulk := by simp [State.sendTiles]
@[simp] theorem State.endBsend_bulk (s : State) (r) : (s.endBsend r).bulk = s.bulk := by fun_cases State.endBsend <;> simp
@[simp] theorem execAccessReply_ends (s : State) (h : P s.bulk) :
    Out.Ends P (execAccessReply s) := by fun_cases execAccessReply <;> simp [h]
@[simp] theorem State.closeRound_bulk (s : State) (k r) : (s.closeRound k r).bulk = s.bulk := by
  unfold State.closeRound
  dsimp only
  split <;> simp
@[simp] theorem State.mergeLook_bulk (s : State) (k) : (s.mergeLook k).bulk = s.bulk := by fun_cases State.mergeLook <;> simp
@[simp] theorem execBwait_ends (s : State) (rd) (h : P s.bulk) : Out.Ends P (execBwait rd s) := by
  unfold execBwait
  refine s.withRound_ends _ _ _ _ h fun r => ?_
  dsimp only
  split <;> simp [h]
@[simp] theorem execBclose_ends (s : State) (rd) (h : P s.bulk) : Out.Ends P (execBclose rd s) := by
  unfold execBclose
  refine s.withRound_ends _ _ _ _ h fun r => ?_
  dsimp only
  split <;> simp [h]
@[simp] theorem execBwaitTimeout_ends (s : State) (h : P s.bulk) :
    Out.Ends P (execBwaitTimeout s) := by unfold execBwaitTimeout; split <;> simp [h]
@[simp] theorem execBcloseTimeout_ends (s : State) (h : P s.bulk) :
    Out.Ends P (execBcloseTimeout s) := by unfold execBcloseTimeout; split <;> simp [h]
@[simp] theorem State.tryArrived_bulk (s : State) (t r i) :
    (s.tryArrived t r i).bulk = s.bulk := by unfold State.tryArrived; (repeat' split) <;> simp
@[simp] theorem execMergeData_ends (s : State) (h : P s.bulk) : Out.Ends P (execMergeData s) := by
  unfold execMergeData
  dsimp only
  (repeat' split) <;> simp [h]
@[simp] theorem execMergeMarker_ends (s : State) (h : P s.bulk) : Out.Ends P (execMergeMarker s) := by
  unfold execMergeMarker
  dsimp only
  (repeat' split) <;> simp [h]
@[simp] theorem execBnorm_ends (s : State) (rd h) (hm : P s.bulk) : Out.Ends P (execBnorm rd h s) := by
  unfold execBnorm
  refine s.withRound_ends _ _ _ _ hm fun r => ?_
  (repeat' split) <;> simp [hm]
@[simp] theorem State.bnormWork_bulk (s : State) (k i p hi) :
    (s.bnormWork k i p hi).1.bulk = s.bulk := by unfold State.bnormWork; split <;> simp
@[simp] theorem State.tryCommit_bulk (s : State) (k) : (s.tryCommit k).bulk = s.bulk := by fun_cases State.tryCommit <;> simp
@[simp] theorem execBseal_ends (s : State) (rd h) (hm : P s.bulk) : Out.Ends P (execBseal rd h s) := by
  unfold execBseal
  refine s.withRound_ends _ _ _ _ hm fun r => ?_
  dsimp only
  split <;> simp [hm]
@[simp] theorem State.commitWork_bulk (s : State) (k i hi) :
    (s.commitWork k i hi).bulk = s.bulk := by unfold State.commitWork; split <;> simp
@[simp] theorem State.endCommit_bulk (s : State) (k o r i) : (s.endCommit k o r i).bulk = s.bulk := by simp [State.endCommit]
@[simp] theorem execBabsent_ends (s : State) (ra) (h : P s.bulk) : Out.Ends P (execBabsent ra s) := by
  unfold execBabsent
  refine s.withRegs_ends _ _ h fun th => s.withRound_ends _ _ _ _ h fun r => ?_
  dsimp only
  (repeat' split) <;> simp [h]
@[simp] theorem execBstat_ends (s : State) (rd dw) (h : P s.bulk) : Out.Ends P (execBstat rd dw s) := by simp [execBstat, h]

/-! ### Span ports (Machine/Span.lean) -/

@[simp] theorem State.setPort_bulk (s : State) (p x) : (s.setPort p x).bulk = s.bulk := by rfl
@[simp] theorem State.sendFrame_bulk (s : State) (p bs) : (s.sendFrame p bs).bulk = s.bulk := by rfl
@[simp] theorem State.tileFrame_bulk (s : State) (k peer type seq round rest) :
    (s.tileFrame k peer type seq round rest).bulk = s.bulk := by rfl
@[simp] theorem State.frameOut_bulk (s : State) (k peer type seq round rest) :
    (s.frameOut k peer type seq round rest).bulk = s.bulk := by fun_cases State.frameOut <;> simp
@[simp] theorem State.sendBlock_bulk (s : State) (x) : (s.sendBlock x).bulk = s.bulk := by fun_cases State.sendBlock <;> simp
@[simp] theorem State.spanFault_bulk (s : State) (k o detail) : (s.spanFault k o detail).bulk = s.bulk := by simp [State.spanFault]
@[simp] theorem execSpanCopyTimeout_ends (s : State) (h : P s.bulk) :
    Out.Ends P (execSpanCopyTimeout s) := by fun_cases execSpanCopyTimeout <;> simp [h]
@[simp] theorem State.copyAcked_bulk (s : State) (k ticket i status) :
    (s.copyAcked k ticket i status).bulk = s.bulk := by unfold State.copyAcked; split <;> simp

/-! ### Collectives (Machine/Collective.lean) -/

@[simp] theorem State.setColl_bulk (s : State) (k c) : (s.setColl k c).bulk = s.bulk := by simp [State.setColl]
@[simp] theorem State.sendAborts_bulk (s : State) (k c) : (s.sendAborts k c).bulk = s.bulk := by simp [State.sendAborts]
@[simp] theorem State.wakeColwait_bulk (s : State) (k v) : (s.wakeColwait k v).bulk = s.bulk := by
  unfold State.wakeColwait
  refine State.foldl_bulk _ (fun s x => ?_) _ _
  (repeat' split) <;> simp
@[simp] theorem State.endRound_bulk (s : State) (k c state) : (s.endRound k c state).bulk = s.bulk := by
  unfold State.endRound
  dsimp only
  split <;> simp
@[simp] theorem State.pagesRead_bulk (s : State) (k a n fuel) : (s.pagesRead k a n fuel).1.bulk = s.bulk := by
  induction fuel generalizing s a n with
  | zero => rfl
  | succ n ih => simp [State.pagesRead, ih]
@[simp] theorem State.baseRead_bulk (s : State) (k slot a n) : (s.baseRead k slot a n).1.bulk = s.bulk := by simp [State.baseRead]
@[simp] theorem State.sendChunk_bulk (s : State) (k c peer) : (s.sendChunk k c peer).bulk = s.bulk := by simp [State.sendChunk]
@[simp] theorem State.peerOpen_bulk (s : State) (k i o) : (s.peerOpen k i o).1.bulk = s.bulk := by simp [State.peerOpen]
@[simp] theorem State.fire_bulk (s : State) (k i) : (s.fire k i).bulk = s.bulk := by
  unfold State.fire
  dsimp only
  (repeat' split) <;> simp
@[simp] theorem State.fireReady_bulk (s : State) (k) : (s.fireReady k).bulk = s.bulk := by
  unfold State.fireReady
  split
  · rfl
  · refine State.foldl_bulk _ (fun s i => ?_) _ _
    split <;> simp
@[simp] theorem State.opDone_bulk (s : State) (k c i) : (s.opDone k c i).bulk = s.bulk := by unfold State.opDone; split <;> simp
@[simp] theorem execColld_ends (s : State) (rd ra rb) (h : P s.bulk) : Out.Ends P (execColld rd ra rb s) := by
  unfold execColld
  refine s.withRegs_ends _ _ h fun th => ?_
  dsimp only
  (repeat' split) <;> simp [h]
@[simp] theorem State.unload_bulk (s : State) (k) : (s.unload k).bulk = s.bulk := by
  unfold State.unload
  dsimp only
  (repeat' split) <;> simp
@[simp] theorem State.colldWork_bulk (s : State) (k o th ga wa) :
    (s.colldWork k o th ga wa).1.bulk = s.bulk := by fun_cases State.colldWork <;> simp
@[simp] theorem execColrun_ends (s : State) (rd ra rb) (h : P s.bulk) : Out.Ends P (execColrun rd ra rb s) := by
  unfold execColrun
  refine s.withRegs_ends _ _ h fun th => ?_
  dsimp only
  (repeat' split) <;> simp [h]
@[simp] theorem execColrunHoldEnd_ends (s : State) (h : P s.bulk) :
    Out.Ends P (execColrunHoldEnd s) := by fun_cases execColrunHoldEnd <;> simp [h]
@[simp] theorem State.ackChunk_bulk (s : State) (k x) : (s.ackChunk k x).bulk = s.bulk := by simp [State.ackChunk]
@[simp] theorem State.chunkAcked_bulk (s : State) (k round i idx) :
    (s.chunkAcked k round i idx).bulk = s.bulk := by fun_cases State.chunkAcked <;> simp
@[simp] theorem execChunkAck_ends (s : State) (h : P s.bulk) :
    Out.Ends P (execChunkAck s) := by unfold execChunkAck; split <;> simp [h]
@[simp] theorem execChunkResend_ends (s : State) (h : P s.bulk) :
    Out.Ends P (execChunkResend s) := by unfold execChunkResend; (repeat' split) <;> simp [h]
@[simp] theorem execRoundTimeout_ends (s : State) (h : P s.bulk) :
    Out.Ends P (execRoundTimeout s) := by fun_cases execRoundTimeout <;> simp [h]
@[simp] theorem State.abortAt_bulk (s : State) (k r) : (s.abortAt k r).bulk = s.bulk := by unfold State.abortAt; split <;> simp
@[simp] theorem execRoundAbort_ends (s : State) (h : P s.bulk) :
    Out.Ends P (execRoundAbort s) := by unfold execRoundAbort; split <;> simp [h]
@[simp] theorem execColwait_ends (s : State) (rd) (h : P s.bulk) :
    Out.Ends P (execColwait rd s) := by fun_cases execColwait <;> simp [h]
@[simp] theorem execColabt_ends (s : State) (h : P s.bulk) : Out.Ends P (execColabt s) := by unfold execColabt; split <;> simp [h]
@[simp] theorem execColst_ends (s : State) (rd) (h : P s.bulk) : Out.Ends P (execColst rd s) := by simp [execColst, h]
@[simp] theorem State.discardFrame_bulk (s : State) (p reject) : (s.discardFrame p reject).bulk = s.bulk := by rfl
theorem State.takeFrame_keeps (s : State) (p type bs k) (h : P s.bulk) (hk : ∀ s f n e, P s.bulk → P (k s f n e).bulk) :
    P (s.takeFrame p type bs k).bulk := by
  unfold State.takeFrame
  dsimp only
  (repeat' split) <;> simp [h, hk]
@[simp] theorem State.takeFrame_bulk (s : State) (p type bs k) (hk : ∀ s f n e, (k s f n e).bulk = s.bulk) :
    (s.takeFrame p type bs k).bulk = s.bulk :=
  @State.takeFrame_keeps (· = s.bulk) _ _ _ _ _ rfl fun t f n e ht => (hk t f n e).trans ht
@[simp] theorem State.passFrame_bulk (s : State) (p f ctx e ev) :
    (s.passFrame p f ctx e ev).bulk = s.bulk := by unfold State.passFrame; split <;> simp
@[simp] theorem State.logFrame_bulk (s : State) (k ev rest) : (s.logFrame k ev rest).bulk = s.bulk := by simp [State.logFrame]
@[simp] theorem execSpanRoundAbortReceive_ends (s : State) (h : P s.bulk) :
    Out.Ends P (execSpanRoundAbortReceive s) := by unfold execSpanRoundAbortReceive; split <;> simp [h]
@[simp] theorem execSpanProbeReceive_ends (s : State) (h : P s.bulk) :
    Out.Ends P (execSpanProbeReceive s) := by unfold execSpanProbeReceive; (repeat' split) <;> simp [h]
@[simp] theorem execSpanCopyAckReceive_ends (s : State) (h : P s.bulk) : Out.Ends P (execSpanCopyAckReceive s) := by
  unfold execSpanCopyAckReceive
  dsimp only
  (repeat' split) <;> simp [h]
@[simp] theorem execSpanProbe_ends (s : State) (h : P s.bulk) :
    Out.Ends P (execSpanProbe s) := by unfold execSpanProbe; split <;> simp [h]
@[simp] theorem execSpanPortDown_ends (s : State) (h : P s.bulk) :
    Out.Ends P (execSpanPortDown s) := by unfold execSpanPortDown; split <;> simp [h]
@[simp] theorem execSpanLaneFail_ends (s : State) (h : P s.bulk) :
    Out.Ends P (execSpanLaneFail s) := by unfold execSpanLaneFail; split <;> simp [h]

/-! ### Engine operations (Machine/EngineRun.lean) -/

@[simp] theorem execSwapt_ends (s : State) (ra rb) (h : P s.bulk) :
    Out.Ends P (execSwapt ra rb s) := by unfold execSwapt; split <;> simp [h]
@[simp] theorem State.swapLines_bulk (s : State) (k p o start) :
    (s.swapLines k p o start).bulk = s.bulk := by simp [State.swapLines]
@[simp] theorem State.startSwap_bulk (s : State) (k o a len p) : (s.startSwap k o a len p).bulk = s.bulk := by
  unfold State.startSwap
  dsimp only
  split <;> simp
@[simp] theorem State.swapSide_bulk (s : State) (k o side) : (s.swapSide k o side).bulk = s.bulk := by simp [State.swapSide]
@[simp] theorem State.swapTake_bulk (s : State) (k p n idx bs) : (s.swapTake k p n idx bs).bulk = s.bulk := by
  unfold State.swapTake
  dsimp only
  (repeat' split) <;> simp
@[simp] theorem State.swapArrive_bulk (s : State) (k p n idx bs) : (s.swapArrive k p n idx bs).bulk = s.bulk := by
  unfold State.swapArrive
  dsimp only
  (repeat' split) <;> simp
@[simp] theorem State.vectorWork_bulk (s : State) (k o hi) :
    (s.vectorWork k o hi).1.bulk = s.bulk := by unfold State.vectorWork; split <;> simp
@[simp] theorem State.opWork_bulk (s : State) (k o hi) : (s.opWork k o hi).1.bulk = s.bulk := by unfold State.opWork; split <;> simp
@[simp] theorem State.startOp_bulk (s : State) (k o) : (s.startOp k o).bulk = s.bulk := by unfold State.startOp; split <;> simp
@[simp] theorem execEngineOpStart_ends (s : State) (h : P s.bulk) :
    Out.Ends P (execEngineOpStart s) := by fun_cases execEngineOpStart <;> simp [h]
@[simp] theorem State.endColld_bulk (s : State) (k o ga wa) : (s.endColld k o ga wa).bulk = s.bulk := by
  unfold State.endColld
  dsimp only
  (repeat' split) <;> simp
@[simp] theorem State.pauseOp_bulk (s : State) (k o hi) : (s.pauseOp k o hi).bulk = s.bulk := by
  unfold State.pauseOp
  dsimp only
  split <;> simp
@[simp] theorem State.completeOp_bulk (s : State) (k o) :
    (s.completeOp k o).bulk = s.bulk := by unfold State.completeOp; split <;> simp
@[simp] theorem execEngineOpComplete_ends (s : State) (h : P s.bulk) :
    Out.Ends P (execEngineOpComplete s) := by unfold execEngineOpComplete; (repeat' split) <;> simp [h]
@[simp] theorem execCopyComplete_ends (s : State) (h : P s.bulk) :
    Out.Ends P (execCopyComplete s) := by unfold execCopyComplete; (repeat' split) <;> simp [h]
@[simp] theorem execMergeCommit_ends (s : State) (h : P s.bulk) :
    Out.Ends P (execMergeCommit s) := by unfold execMergeCommit; (repeat' split) <;> simp [h]
@[simp] theorem execTranslationWalk_ends (s : State) (h : P s.bulk) :
    Out.Ends P (execTranslationWalk s) := by unfold execTranslationWalk; (repeat' split) <;> simp [h]

/-! ### Boundaries (Machine/Boundary.lean) -/

@[simp] theorem State.stopTimers_bulk (s : State) (k keep) : (s.stopTimers k keep).bulk = s.bulk := by rfl
@[simp] theorem State.freezeBut_bulk (s : State) (k keep) : (s.freezeBut k keep).bulk = s.bulk := by rfl
@[simp] theorem State.freeze_bulk (s : State) (k) : (s.freeze k).bulk = s.bulk := by rfl
@[simp] theorem State.thaw_bulk (s : State) (k) : (s.thaw k).bulk = s.bulk := by rfl
@[simp] theorem State.listTile_bulk (s : State) (k) : (s.listTile k).bulk = s.bulk := by
  fun_cases State.listTile
  · rfl
  · rw [State.after_bulk, State.setTile_bulk]
@[simp] theorem State.requestBoundary_bulk (s : State) (k) : (s.requestBoundary k).bulk = s.bulk := by simp [State.requestBoundary]
@[simp] theorem State.takeBoundary_bulk (s : State) (k) : (s.takeBoundary k).bulk = s.bulk := by simp [State.takeBoundary]
@[simp] theorem State.selfRequest_bulk (s : State) (k) : (s.selfRequest k).bulk = s.bulk := by simp [State.selfRequest]
@[simp] theorem execCkpt_ends (s : State) (rd) (h : P s.bulk) : Out.Ends P (execCkpt rd s) := by simp [execCkpt, h]
@[simp] theorem execIvlenExpire_ends (s : State) (h : P s.bulk) :
    Out.Ends P (execIvlenExpire s) := by unfold execIvlenExpire; split <;> simp [h]
@[simp] theorem State.shipNext_bulk (s : State) (k ivn sh) :
    (s.shipNext k ivn sh).bulk = s.bulk := by unfold State.shipNext; split <;> simp
@[simp] theorem execMirrorLineReceive_ends (s : State) (h : P s.bulk) :
    Out.Ends P (execMirrorLineReceive s) := by unfold execMirrorLineReceive; (repeat' split) <;> simp [h]
@[simp] theorem execCommitMarkerReceive_ends (s : State) (h : P s.bulk) :
    Out.Ends P (execCommitMarkerReceive s) := by fun_cases execCommitMarkerReceive <;> simp [h]
@[simp] theorem execBoundaryCommit_ends (s : State) (h : P s.bulk) :
    Out.Ends P (execBoundaryCommit s) := by unfold execBoundaryCommit; (repeat' split) <;> simp [h]
@[simp] theorem execLogAreaFull_ends (s : State) (h : P s.bulk) :
    Out.Ends P (execLogAreaFull s) := by unfold execLogAreaFull; split <;> simp [h]

/-! ### Recovery (Machine/Recovery.lean) -/

@[simp] theorem State.condemn_bulk (s : State) (k) : (s.condemn k).bulk = s.bulk := by unfold State.condemn; split <;> simp
@[simp] theorem State.fence_bulk (s : State) (k cause) : (s.fence k cause).bulk = s.bulk := by rfl
@[simp] theorem State.flag_bulk (s : State) (k cause) : (s.flag k cause).bulk = s.bulk := by simp [State.flag]
@[simp] theorem State.routerLost_bulk (s : State) (cl) : (s.routerLost cl).bulk = s.bulk := by simp [State.routerLost]
@[simp] theorem execErrorDetect_ends (s : State) (h : P s.bulk) :
    Out.Ends P (execErrorDetect s) := by unfold execErrorDetect; split <;> simp [h]
@[simp] theorem State.setLink_bulk (s : State) (cl i l) : (s.setLink cl i l).bulk = s.bulk := by rfl
@[simp] theorem execCorrectedError_ends (s : State) (h : P s.bulk) : Out.Ends P (execCorrectedError s) := by
  unfold execCorrectedError
  dsimp only
  split <;> simp [h]
@[simp] theorem execCellarPoison_ends (s : State) (h : P s.bulk) :
    Out.Ends P (execCellarPoison s) := by unfold execCellarPoison; split <;> simp [h]
@[simp] theorem State.cutPower_bulk (s : State) (c) : (s.cutPower c).bulk = s.bulk := by simp [State.cutPower]
@[simp] theorem execPowerLoss_ends (s : State) (h : P s.bulk) :
    Out.Ends P (execPowerLoss s) := by unfold execPowerLoss; split <;> simp [h]
@[simp] theorem execWatchdogFire_ends (s : State) (h : P s.bulk) :
    Out.Ends P (execWatchdogFire s) := by unfold execWatchdogFire; split <;> simp [h]
@[simp] theorem State.stopContext_bulk (s : State) (ctx detail) :
    (s.stopContext ctx detail).bulk = s.bulk := by unfold State.stopContext; split <;> simp
@[simp] theorem execStateLoss_ends (s : State) (h : P s.bulk) :
    Out.Ends P (execStateLoss s) := by unfold execStateLoss; split <;> simp [h]
@[simp] theorem State.aim_bulk (s : State) (k kind p) : (s.aim k kind p).bulk = s.bulk := by rfl
@[simp] theorem execRecovery_ends (s : State) (h : P s.bulk) :
    Out.Ends P (execRecovery s) := by unfold execRecovery; (repeat' split) <;> simp [h]
@[simp] theorem execSpareChipletPowered_ends (s : State) (h : P s.bulk) :
    Out.Ends P (execSpareChipletPowered s) := by unfold execSpareChipletPowered; split <;> simp [h]
@[simp] theorem State.rebind_bulk (s : State) (k kind p) :
    (s.rebind k kind p).bulk = s.bulk := by unfold State.rebind; split <;> simp
@[simp] theorem execRebindWave_ends (s : State) (h : P s.bulk) : Out.Ends P (execRebindWave s) := by
  unfold execRebindWave
  dsimp only
  (repeat' split) <;> simp [h]
@[simp] theorem execRebindWaveComplete_ends (s : State) (h : P s.bulk) :
    Out.Ends P (execRebindWaveComplete s) := by unfold execRebindWaveComplete; split <;> simp [h]
@[simp] theorem State.joinTurns_bulk (s : State) (k) : (s.joinTurns k).bulk = s.bulk := by simp [State.joinTurns]
@[simp] theorem State.startReplay_bulk (s : State) (k m f xs n) :
    (s.startReplay k m f xs n).bulk = s.bulk := by simp [State.startReplay]
@[simp] theorem execReplay_ends (s : State) (h : P s.bulk) : Out.Ends P (execReplay s) := by fun_cases execReplay <;> simp [h]
@[simp] theorem State.endReplay_bulk (s : State) (k) : (s.endReplay k).bulk = s.bulk := by simp [State.endReplay]
@[simp] theorem State.reprotect_bulk (s : State) (b) : (s.reprotect b).bulk = s.bulk := by simp [State.reprotect]
@[simp] theorem State.orderBoundary_bulk (s : State) (k kind) :
    (s.orderBoundary k kind).bulk = s.bulk := by simp [State.orderBoundary]
@[simp] theorem execDeferredBoundary_ends (s : State) (h : P s.bulk) :
    Out.Ends P (execDeferredBoundary s) := by unfold execDeferredBoundary; split <;> simp [h]
@[simp] theorem execRecoveryRelease_ends (s : State) (h : P s.bulk) : Out.Ends P (execRecoveryRelease s) := by
  unfold execRecoveryRelease
  split
  · rw [Out.ends_ite]
    split
    · simp [h]
    · simp only [Out.ends_next, State.orderBoundary_bulk, State.bulk_ite, State.sendOn_bulk, State.after_bulk, ite_self]
      rw [State.foldl_bulk _ fun s l => s.lookAt_bulk _ _, State.foldl_bulk _ fun s j => ?_]
      · simp [h]
      · split <;> simp
  · simp [h]
@[simp] theorem execHeldPacketDelivery_ends (s : State) (h : P s.bulk) : Out.Ends P (execHeldPacketDelivery s) := by
  unfold execHeldPacketDelivery
  dsimp only
  (repeat' split) <;> simp [h]
@[simp] theorem execPlannedMigration_ends (s : State) (h : P s.bulk) :
    Out.Ends P (execPlannedMigration s) := by unfold execPlannedMigration; split <;> simp [h]
@[simp] theorem execRebindTableWrite_ends (s : State) (h : P s.bulk) :
    Out.Ends P (execRebindTableWrite s) := by fun_cases execRebindTableWrite <;> simp [h]
@[simp] theorem execLinkResend_ends (s : State) (h : P s.bulk) :
    Out.Ends P (execLinkResend s) := by unfold execLinkResend; split <;> simp [h]

/-! ### Images and the search for live registers (Machine/Image.lean) -/

@[simp] theorem State.liveSearch_bulk (s : State) (k base h lo hi n e fuel) :
    (s.liveSearch k base h lo hi n e fuel).1.bulk = s.bulk := by
  induction fuel generalizing s lo hi n e with
  | zero => rfl
  | succ n ih => simp [State.liveSearch, ih]
@[simp] theorem State.liveAt_bulk (s : State) (k th) : (s.liveAt k th).1.bulk = s.bulk := by simp [State.liveAt]
@[simp] theorem State.searchLive_bulk (s : State) (k j) :
    (s.searchLive k j).bulk = s.bulk := by unfold State.searchLive; split <;> simp

/-! ### Pre-emption (Machine/Preempt.lean) -/

@[simp] theorem State.stopAtPoint_bulk (s : State) (k o) :
    (s.stopAtPoint k o).bulk = s.bulk := by unfold State.stopAtPoint; split <;> simp
@[simp] theorem State.stopTile_bulk (s : State) (k) : (s.stopTile k).bulk = s.bulk := by simp [State.stopTile]
@[simp] theorem State.preempt_bulk (s : State) (ctx) : (s.preempt ctx).bulk = s.bulk := by unfold State.preempt; split <;> simp
@[simp] theorem State.abortHeld_bulk (s : State) (k) : (s.abortHeld k).bulk = s.bulk := by unfold State.abortHeld; split <;> simp
@[simp] theorem State.preemptTile_bulk (s : State) (k arg) : (s.preemptTile k arg).bulk = s.bulk := by simp [State.preemptTile]
@[simp] theorem execGangPreempt_ends (s : State) (h : P s.bulk) :
    Out.Ends P (execGangPreempt s) := by unfold execGangPreempt; split <;> simp [h]
@[simp] theorem execColdeferExpire_ends (s : State) (h : P s.bulk) : Out.Ends P (execColdeferExpire s) := by
  unfold execColdeferExpire
  dsimp only
  (repeat' split) <;> simp [h]
@[simp] theorem execTimeSliceExpire_ends (s : State) (h : P s.bulk) :
    Out.Ends P (execTimeSliceExpire s) := by fun_cases execTimeSliceExpire <;> simp [h]
@[simp] theorem State.complete_bulk (s : State) (q pos status detail value) :
    (s.complete q pos status detail value).bulk = s.bulk := by rfl
@[simp] theorem State.vacate_bulk (s : State) (k) : (s.vacate k).bulk = s.bulk := by simp [State.vacate]
@[simp] theorem State.wakeQueued_bulk (s : State) (ctx reqAt) : (s.wakeQueued ctx reqAt).bulk = s.bulk := by simp [State.wakeQueued]
@[simp] theorem State.rereadPacket_bulk (s : State) (k j) :
    (s.rereadPacket k j).bulk = s.bulk := by unfold State.rereadPacket; split <;> simp
@[simp] theorem State.seat_bulk (s : State) (k n c) : (s.seat k n c).bulk = s.bulk := by simp [State.seat]
@[simp] theorem State.lookRed_bulk (s : State) (k) : (s.lookRed k).bulk = s.bulk := by
  unfold State.lookRed
  refine State.foldl_bulk _ (fun s x => ?_) _ _
  split <;> simp
@[simp] theorem State.restoreTile_bulk (s : State) (n k c) : (s.restoreTile n k c).bulk = s.bulk := by simp [State.restoreTile]
@[simp] theorem State.resident_bulk (s : State) (n c) : (s.resident n c).bulk = s.bulk := by
  unfold State.resident
  dsimp only
  split <;> simp
@[simp] theorem execRestore_ends (s : State) (h : P s.bulk) : Out.Ends P (execRestore s) := by
  unfold execRestore
  dsimp only
  (repeat' split) <;> simp [h]

/-! ### Incidents (Machine/Incidents.lean) -/

@[simp] theorem execIncidentReplay_ends (s : State) (h : P s.bulk) :
    Out.Ends P (execIncidentReplay s) := by fun_cases execIncidentReplay <;> simp [h]

/-! ### Command queues (Machine/Queues.lean) -/

@[simp] theorem State.setQueue_bulk (s : State) (q x) : (s.setQueue q x).bulk = s.bulk := by rfl
@[simp] theorem State.dispatch_bulk (s : State) : s.dispatch.bulk = s.bulk := by simp [State.dispatch]
@[simp] theorem State.startOne_bulk (s : State) (q c) : (s.startOne q c).bulk = s.bulk := by fun_cases State.startOne <;> simp
@[simp] theorem State.startCommands_bulk (s : State) (q fuel) : (s.startCommands q fuel).bulk = s.bulk := by
  induction fuel generalizing s with
  | zero => rfl
  | succ n ih => unfold State.startCommands; dsimp only; (repeat' split) <;> simp [ih]
@[simp] theorem State.startAll_bulk (s : State) (q) : (s.startAll q).bulk = s.bulk := by simp [State.startAll]
@[simp] theorem execWatchedLineInvalidate_ends (s : State) (h : P s.bulk) :
    Out.Ends P (execWatchedLineInvalidate s) := by unfold execWatchedLineInvalidate; split <;> simp [h]
@[simp] theorem execWorkerError_ends (s : State) (h : P s.bulk) :
    Out.Ends P (execWorkerError s) := by unfold execWorkerError; split <;> simp [h]
@[simp] theorem execLockstepMismatch_ends (s : State) (h : P s.bulk) :
    Out.Ends P (execLockstepMismatch s) := by simp [execLockstepMismatch, h]
@[simp] theorem State.refuse_bulk (s : State) (q id d i) : (s.refuse q id d i).bulk = s.bulk := by rfl

/-! ### Commands (Machine/Commands.lean) -/

@[simp] theorem State.lookWait_bulk (s : State) (q id again) :
    (s.lookWait q id again).bulk = s.bulk := by unfold State.lookWait; split <;> simp
@[simp] theorem execWait_ends (s : State) (h : P s.bulk) :
    Out.Ends P (execWait s) := by unfold execWait; (repeat' split) <;> simp [h]
@[simp] theorem execWaitPoll_ends (s : State) (h : P s.bulk) :
    Out.Ends P (execWaitPoll s) := by unfold execWaitPoll; split <;> simp [h]
@[simp] theorem execWaitLimit_ends (s : State) (h : P s.bulk) :
    Out.Ends P (execWaitLimit s) := by fun_cases execWaitLimit <;> simp [h]
@[simp] theorem execTasks_ends (s : State) (h : P s.bulk) : Out.Ends P (execTasks s) := by unfold execTasks; split <;> simp [h]
@[simp] theorem State.enqueueCopy_bulk (s : State) (k x) : (s.enqueueCopy k x).bulk = s.bulk := by simp [State.enqueueCopy]
@[simp] theorem execCopy_ends (s : State) (h : P s.bulk) : Out.Ends P (execCopy s) := by
  unfold execCopy
  dsimp only
  (repeat' split) <;> simp [h]

/-! ### Control transfers (Machine/Control.lean) -/

@[simp] theorem State.branch_ends (s : State) (th t) (h : P s.bulk) : Out.Ends P (s.branch th t) := by simp [State.branch, h]
@[simp] theorem execBt_ends (s : State) (sel t) (h : P s.bulk) : Out.Ends P (execBt sel t s) := by simp [execBt, h]
@[simp] theorem execBf_ends (s : State) (sel t) (h : P s.bulk) : Out.Ends P (execBf sel t s) := by simp [execBf, h]
@[simp] theorem execCall_ends (s : State) (t) (h : P s.bulk) : Out.Ends P (execCall t s) := by simp [execCall, h]
@[simp] theorem execJr_ends (s : State) (r) (h : P s.bulk) : Out.Ends P (execJr r s) := by simp [execJr, h]
@[simp] theorem execCallr_ends (s : State) (r) (h : P s.bulk) : Out.Ends P (execCallr r s) := by simp [execCallr, h]
@[simp] theorem State.openLoop_ends (s : State) (rs t count) (h : P s.bulk) :
    Out.Ends P (s.openLoop rs t count) := by simp [State.openLoop, h]
@[simp] theorem execLexit_ends (s : State) (h : P s.bulk) : Out.Ends P (execLexit s) := by unfold execLexit; split <;> simp [h]
@[simp] theorem execLidx_ends (s : State) (rd) (h : P s.bulk) : Out.Ends P (execLidx rd s) := by simp [execLidx, h]
@[simp] theorem execNop_ends (s : State) (h : P s.bulk) : Out.Ends P (execNop s) := by simp [execNop, h]
@[simp] theorem execYield_ends (s : State) (h : P s.bulk) : Out.Ends P (execYield s) := by simp [execYield, h]
@[simp] theorem State.softTrap_ends (s : State) (code detail) (h : P s.bulk) :
    Out.Ends P (s.softTrap code detail) := by simp [State.softTrap, h]
@[simp] theorem execRett_ends (s : State) (h : P s.bulk) : Out.Ends P (execRett s) := by simp [execRett, h]

/-! ### Floating point (Machine/Float.lean) -/

@[simp] theorem execCvtfi_ends (s : State) (rm rd ra) (h : P s.bulk) : Out.Ends P (execCvtfi rm rd ra s) := by simp [execCvtfi, h]

/-! ### Partitions (Machine/Partition.lean) -/

@[simp] theorem State.placeTile_bulk (s : State) (n grid k) : (s.placeTile n grid k).bulk = s.bulk := by simp [State.placeTile]
@[simp] theorem State.placeShadow_bulk (s : State) (c) :
    (s.placeShadow c).bulk = s.bulk := by unfold State.placeShadow; split <;> simp
@[simp] theorem State.placeCtx_bulk (s : State) (n c) : (s.placeCtx n c).bulk = s.bulk := by simp [State.placeCtx]
@[simp] theorem execPartitionCreate_ends (s : State) (h : P s.bulk) :
    Out.Ends P (execPartitionCreate s) := by fun_cases execPartitionCreate <;> simp [h]
@[simp] theorem State.dropKept_bulk (s : State) (n q) : (s.dropKept n q).bulk = s.bulk := by simp [State.dropKept]
@[simp] theorem State.clearShadow_bulk (s : State) (c) :
    (s.clearShadow c).bulk = s.bulk := by unfold State.clearShadow; split <;> simp
@[simp] theorem State.clearTiles_bulk (s : State) (n) : (s.clearTiles n).bulk = s.bulk := by simp [State.clearTiles]
@[simp] theorem execPartitionSuspend_ends (s : State) (h : P s.bulk) : Out.Ends P (execPartitionSuspend s) := by
  unfold execPartitionSuspend
  dsimp only
  (repeat' split) <;> simp [h]
@[simp] theorem execPartitionResume_ends (s : State) (h : P s.bulk) : Out.Ends P (execPartitionResume s) := by
  unfold execPartitionResume
  dsimp only
  (repeat' split) <;> simp [h]

/-! ### Launches (Machine/Launch.lean) -/

@[simp] theorem execLaunch_ends (s : State) (h : P s.bulk) : Out.Ends P (execLaunch s) := by fun_cases execLaunch <;> simp [h]
@[simp] theorem State.populateTile_bulk (s : State) (lix l k) :
    (s.populateTile lix l k).bulk = s.bulk := by simp [State.populateTile]
@[simp] theorem State.takeContext_bulk (s : State) (k j lix e th cfg zero) :
    (s.takeContext k j lix e th cfg zero).bulk = s.bulk := by simp [State.takeContext]
@[simp] theorem State.evictFor_bulk (s : State) (ks cfg) : (s.evictFor ks cfg).1.bulk = s.bulk := by simp [State.evictFor]
@[simp] theorem State.start_bulk (s : State) (n c lix l ks) : (s.start n c lix l ks).bulk = s.bulk := by simp [State.start]
@[simp] theorem State.populate_bulk (s : State) (n fuel) : (s.populate n fuel).bulk = s.bulk := by
  induction fuel generalizing s with
  | zero => rfl
  | succ n ih => unfold State.populate; dsimp only; (repeat' split) <;> simp [ih]
@[simp] theorem State.rerun_bulk (s : State) (n) : (s.rerun n).bulk = s.bulk := by unfold State.rerun; split <;> simp
@[simp] theorem execPopulation_ends (s : State) (h : P s.bulk) :
    Out.Ends P (execPopulation s) := by unfold execPopulation; split <;> simp [h]
@[simp] theorem State.closeLaunch_bulk (s : State) (n lix l out) : (s.closeLaunch n lix l out).bulk = s.bulk := by
  unfold State.closeLaunch
  dsimp only
  split <;> simp
@[simp] theorem State.crash_bulk (s : State) (cl r n) : (s.crash cl r n).bulk = s.bulk := by
  unfold State.crash
  dsimp only
  split <;> simp
@[simp] theorem execLaunchEnd_ends (s : State) (h : P s.bulk) :
    Out.Ends P (execLaunchEnd s) := by fun_cases execLaunchEnd <;> simp [h]
@[simp] theorem execLaunchTimeLimit_ends (s : State) (h : P s.bulk) :
    Out.Ends P (execLaunchTimeLimit s) := by fun_cases execLaunchTimeLimit <;> simp [h]

/-! ### Links and inbound windows (Machine/Links.lean) -/

@[simp] theorem State.missed_bulk (s : State) (link) : (s.missed link).bulk = s.bulk := by rfl
@[simp] theorem execHostInboundRead_ends (s : State) (h : P s.bulk) :
    Out.Ends P (execHostInboundRead s) := by unfold execHostInboundRead; (repeat' split) <;> simp [h]
@[simp] theorem State.hostWrote_bulk (s : State) : s.hostWrote.bulk = s.bulk := by simp [State.hostWrote]
@[simp] theorem State.putDma_bulk (s : State) (i ws) : (s.putDma i ws).bulk = s.bulk := by simp [State.putDma]
@[simp] theorem execDmaWindowWrite_ends (s : State) (h : P s.bulk) :
    Out.Ends P (execDmaWindowWrite s) := by unfold execDmaWindowWrite; split <;> simp [h]
@[simp] theorem State.putPeer_bulk (s : State) (p ws) :
    (s.putPeer p ws).bulk = s.bulk := by unfold State.putPeer; (repeat' split) <;> simp
@[simp] theorem execPeerTableWrite_ends (s : State) (h : P s.bulk) :
    Out.Ends P (execPeerTableWrite s) := by unfold execPeerTableWrite; split <;> simp [h]
@[simp] theorem execFirmwareTableWrite_ends (s : State) (h : P s.bulk) :
    Out.Ends P (execFirmwareTableWrite s) := by simp [execFirmwareTableWrite, h]
@[simp] theorem State.putWindow_bulk (s : State) (link i v base log target) :
    (s.putWindow link i v base log target).bulk = s.bulk := by simp [State.putWindow]
@[simp] theorem State.putStatus_bulk (s : State) (i w) :
    (s.putStatus i w).bulk = s.bulk := by unfold State.putStatus; split <;> simp
@[simp] theorem State.putQueueWord_bulk (s : State) (q i w) :
    (s.putQueueWord q i w).bulk = s.bulk := by unfold State.putQueueWord; split <;> simp
@[simp] theorem State.configWrite_bulk (s : State) (link off w) :
    (s.configWrite link off w).bulk = s.bulk := by simp [State.configWrite]
@[simp] theorem execConfigWrite_ends (s : State) (h : P s.bulk) :
    Out.Ends P (execConfigWrite s) := by unfold execConfigWrite; split <;> simp [h]

/-! ### Power and boot (Machine/Power.lean) -/

@[simp] theorem State.setChiplet_bulk (s : State) (c x) : (s.setChiplet c x).bulk = s.bulk := by rfl
@[simp] theorem State.bootFailure_bulk (s : State) (w) : (s.bootFailure w).bulk = s.bulk := by
  unfold State.bootFailure
  dsimp only
  (repeat' split) <;> simp
@[simp] theorem execBootReady_ends (s : State) (h : P s.bulk) : Out.Ends P (execBootReady s) := by simp [execBootReady, h]
@[simp] theorem State.sendMask_bulk (s : State) (c m) : (s.sendMask c m).bulk = s.bulk := by simp [State.sendMask]
@[simp] theorem State.changePoint_bulk (s : State) (c) : (s.changePoint c).bulk = s.bulk := by rfl
@[simp] theorem State.intervalOf_bulk (s : State) (c) : (s.intervalOf c).bulk = s.bulk := by simp [State.intervalOf]
@[simp] theorem execControlInterval_ends (s : State) (h : P s.bulk) :
    Out.Ends P (execControlInterval s) := by simp [execControlInterval, h]
@[simp] theorem execOperatingPointSettled_ends (s : State) (h : P s.bulk) :
    Out.Ends P (execOperatingPointSettled s) := by unfold execOperatingPointSettled; split <;> simp [h]
@[simp] theorem execThermalThrottle_ends (s : State) (h : P s.bulk) :
    Out.Ends P (execThermalThrottle s) := by unfold execThermalThrottle; split <;> simp [h]
@[simp] theorem execThrottleRelease_ends (s : State) (h : P s.bulk) :
    Out.Ends P (execThrottleRelease s) := by unfold execThrottleRelease; split <;> simp [h]
@[simp] theorem execEmergencySave_ends (s : State) (h : P s.bulk) :
    Out.Ends P (execEmergencySave s) := by unfold execEmergencySave; split <;> simp [h]
@[simp] theorem execHardTrip_ends (s : State) (h : P s.bulk) :
    Out.Ends P (execHardTrip s) := by unfold execHardTrip; split <;> simp [h]
@[simp] theorem execCurrentLimitTrip_ends (s : State) (h : P s.bulk) :
    Out.Ends P (execCurrentLimitTrip s) := by unfold execCurrentLimitTrip; split <;> simp [h]
@[simp] theorem execMaskChange_ends (s : State) (h : P s.bulk) :
    Out.Ends P (execMaskChange s) := by unfold execMaskChange; split <;> simp [h]
@[simp] theorem execResidencyStep_ends (s : State) (h : P s.bulk) :
    Out.Ends P (execResidencyStep s) := by unfold execResidencyStep; split <;> simp [h]
@[simp] theorem execFirmwareRegisterWrite_ends (s : State) (h : P s.bulk) :
    Out.Ends P (execFirmwareRegisterWrite s) := by unfold execFirmwareRegisterWrite; split <;> simp [h]

/-! ### The scalar core (Machine/Scalar.lean) -/

@[simp] theorem execLi16_ends (s : State) (zx rd imm) (h : P s.bulk) : Out.Ends P (execLi16 zx rd imm s) := by simp [execLi16, h]
@[simp] theorem execLi32_ends (s : State) (zx rd imm) (h : P s.bulk) : Out.Ends P (execLi32 zx rd imm s) := by simp [execLi32, h]
@[simp] theorem execLi64_ends (s : State) (rd imm) (h : P s.bulk) : Out.Ends P (execLi64 rd imm s) := by simp [execLi64, h]
@[simp] theorem execPunpack_ends (s : State) (ra hi) (h : P s.bulk) : Out.Ends P (execPunpack ra hi s) := by simp [execPunpack, h]
@[simp] theorem execPwr_ends (s : State) (ra) (h : P s.bulk) : Out.Ends P (execPwr ra s) := by simp [execPwr, h]

/-! ### The cycle (Machine/Cycle.lean) -/

@[simp] theorem State.postpone_bulk (s : State) (x) : (s.postpone x).bulk = s.bulk := by rfl
@[simp] theorem State.holdFor_bulk (s : State) (x k) : (s.holdFor x k).bulk = s.bulk := by rfl
@[simp] theorem State.atHead_bulk (s : State) (k j l nh) : (s.atHead k j l nh).bulk = s.bulk := by rfl
@[simp] theorem State.putShared_bulk (s : State) (k n v) : (s.putShared k n v).bulk = s.bulk := by rfl
@[simp] theorem State.sharedOne_bulk (s : State) (k o) :
    (s.sharedOne k o).bulk = s.bulk := by unfold State.sharedOne; split <;> simp
@[simp] theorem State.sharedEnd_bulk (s : State) (k) : (s.sharedEnd k).bulk = s.bulk := by simp [State.sharedEnd]
@[simp] theorem State.watch_bulk (s : State) (k) : (s.watch k).bulk = s.bulk := by simp [State.watch]
@[simp] theorem State.nextCycle_bulk (s : State) (k) : (s.nextCycle k).bulk = s.bulk := by rfl
@[simp] theorem State.endCycle_bulk (s : State) (k) : (s.endCycle k).bulk = s.bulk := by simp [State.endCycle]
@[simp] theorem State.standStill_bulk (s : State) : s.standStill.bulk = s.bulk := by rfl
@[simp] theorem State.tick_bulk (s : State) : s.tick.bulk = s.bulk := by simp [State.tick]
@[simp] theorem State.trialOf_bulk (s : State) (i x) : (s.trialOf i x).bulk = s.bulk := by simp [State.trialOf]

/-! ### What is written -/

theorem State.cellarWrite_bulk (s : State) (pa bs) : (s.cellarWrite pa bs).bulk = (s.cellar.setBytes pa bs, s.host) := by
  simp [State.cellarWrite]
theorem State.hostWrite_bulk (s : State) (a bs) : (s.hostWrite a bs).bulk = (s.cellar, s.host.setBytes a bs) := by rfl

/-- Both memories are in canonical form: `State.bulkWf` as a property of the memories alone. -/
def Canonical (m : Memory × Memory) : Prop := m.1.wf ∧ m.2.wf

theorem State.bulkWf_iff (s : State) : s.bulkWf ↔ Canonical s.bulk := Iff.rfl

@[simp] theorem State.cellarWrite_canonical (s : State) (pa bs) (h : Canonical s.bulk) : Canonical (s.cellarWrite pa bs).bulk := by
  rw [State.cellarWrite_bulk]; exact ⟨Memory.wf_setBytes pa bs h.1, h.2⟩
@[simp] theorem State.hostWrite_canonical (s : State) (a bs) (h : Canonical s.bulk) : Canonical (s.hostWrite a bs).bulk := by
  rw [State.hostWrite_bulk]; exact ⟨h.1, Memory.wf_setBytes a bs h.2⟩

/-- A property that every step of a fold keeps. -/
theorem State.foldl_keeps {α : Type} (f : State → α → State) (hf : ∀ s x, P s.bulk → P (f s x).bulk) (l : List α)
    (s : State) (h : P s.bulk) : P (l.foldl f s).bulk := by
  induction l generalizing s with
  | nil => exact h
  | cons x l ih => exact ih _ (hf s x h)

/-! ### Firmware, spills and copies -/

@[simp] theorem State.writePlaces_canonical (s : State) (host ps bs) (h : Canonical s.bulk) :
    Canonical (s.writePlaces host ps bs).bulk := by
  induction ps generalizing s bs with
  | nil => exact h
  | cons p ps ih => cases host <;> simp [State.writePlaces, ih, h]

@[simp] theorem State.fwWrite_canonical (s : State) (ctx a bs) (h : Canonical s.bulk) : Canonical (s.fwWrite ctx a bs).1.bulk := by
  unfold State.fwWrite
  dsimp only
  split <;> simp [h]

@[simp] theorem State.putState_canonical (s : State) (q) (h : Canonical s.bulk) : Canonical (s.putState q).bulk := by
  simp [State.putState, h]

@[simp] theorem State.stopQueue_canonical (s : State) (q reason) (h : Canonical s.bulk) :
    Canonical (s.stopQueue q reason).bulk := by
  unfold State.stopQueue
  dsimp only
  (repeat' split) <;> simp [h]

@[simp] theorem State.writeLines_canonical (s : State) (k a bs n) (h : Canonical s.bulk) :
    Canonical (s.writeLines k a bs n).1.bulk := by
  induction n generalizing s a bs with
  | zero => exact h
  | succ n ih =>
    unfold State.writeLines
    dsimp only
    split <;> simp [ih, h]

@[simp] theorem State.spillWrite_canonical (s : State) (k id pin va bs) (h : Canonical s.bulk) :
    Canonical (s.spillWrite k id pin va bs).bulk := by
  simp [State.spillWrite, h]

@[simp] theorem State.outPuts_canonical (s : State) (x l gen side ps fault) (h : Canonical s.bulk) :
    Canonical (s.outPuts x l gen side ps fault).1.bulk := by
  induction ps generalizing s fault with
  | nil => exact h
  | cons p ps ih =>
    unfold State.outPuts
    dsimp only
    (repeat' split) <;> simp [ih, h]

@[simp] theorem State.blurOverlap_canonical (s : State) (x) (h : Canonical s.bulk) : Canonical (s.blurOverlap x).bulk := by
  unfold State.blurOverlap
  split
  · exact h
  · exact State.foldl_keeps _ (fun s i hs => s.cellarWrite_canonical _ _ hs) _ _ h

@[simp] theorem State.writeStage_canonical (s : State) (x) (h : Canonical s.bulk) : Canonical (s.writeStage x).1.bulk := by
  unfold State.writeStage
  dsimp only
  (repeat' split) <;> simp [h]

@[simp] theorem State.partOut_canonical (s : State) (x) (h : Canonical s.bulk) : Canonical (s.partOut x).bulk := by
  unfold State.partOut
  dsimp only
  (repeat' split) <;> simp [h]

/-! ### Chunks of a collective -/

@[simp] theorem State.pagesWrite_canonical (s : State) (k a bs fuel) (h : Canonical s.bulk) :
    Canonical (s.pagesWrite k a bs fuel).1.bulk := by
  induction fuel generalizing s a bs with
  | zero => exact h
  | succ n ih =>
    unfold State.pagesWrite
    dsimp only
    (repeat' split) <;> simp [ih, h]

@[simp] theorem State.baseWrite_canonical (s : State) (k a bs) (h : Canonical s.bulk) : Canonical (s.baseWrite k a bs).1.bulk := by
  unfold State.baseWrite
  split
  · simp [h]
  · exact s.outside_keeps _ _ _ _ h (s.pagesWrite_canonical _ _ _ _ h)

@[simp] theorem State.applyChunk_canonical (s : State) (k c o x) (h : Canonical s.bulk) :
    Canonical (s.applyChunk k c o x).1.bulk := by
  unfold State.applyChunk
  dsimp only
  (repeat' split) <;> simp [h]

@[simp] theorem State.chunkAt_canonical (s : State) (k x) (h : Canonical s.bulk) : Canonical (s.chunkAt k x).bulk := by
  unfold State.chunkAt
  dsimp only
  (repeat' split) <;> simp [h]

/-! ### Images, incidents, queues and samples -/

@[simp] theorem State.writeImages_canonical (s : State) (a ks) (h : Canonical s.bulk) : Canonical (s.writeImages a ks).bulk := by
  induction ks generalizing s a with
  | nil => exact h
  | cons k ks ih => exact ih _ _ (by simp [h])

@[simp] theorem State.parkCtx_canonical (s : State) (ctx c) (h : Canonical s.bulk) : Canonical (s.parkCtx ctx c).bulk := by
  unfold State.parkCtx
  dsimp only
  split <;> simp [h]

@[simp] theorem State.tryPark_canonical (s : State) (k) (h : Canonical s.bulk) : Canonical (s.tryPark k).bulk := by
  unfold State.tryPark
  dsimp only
  (repeat' split) <;> simp [h]

@[simp] theorem State.captureIncident_canonical (s : State) (k a) (h : Canonical s.bulk) :
    Canonical (s.captureIncident k a).bulk := by
  unfold State.captureIncident
  dsimp only
  split <;> simp [h]

@[simp] theorem State.saveCrash_canonical (s : State) (cl a) (h : Canonical s.bulk) : Canonical (s.saveCrash cl a).bulk := by
  unfold State.saveCrash
  split <;> simp [h]

@[simp] theorem State.dropQueue_canonical (s : State) (q) (h : Canonical s.bulk) : Canonical (s.dropQueue q).bulk := by
  simp [State.dropQueue, h]

@[simp] theorem State.sampleFor_canonical (s : State) (n c) (h : Canonical s.bulk) : Canonical (s.sampleFor n c).bulk := by
  unfold State.sampleFor
  dsimp only
  (repeat' split) <;> simp [h]

/-! ### The events that write -/

/-- Boot starts with an empty cellar and keeps the host memory (01 R23). -/
@[simp] theorem execBoot_ends (s : State) (h : Canonical s.bulk) : Out.Ends Canonical (execBoot s) := by
  have hb : Canonical ([], s.host) := ⟨Memory.wf_nil, h.2⟩
  unfold execBoot
  dsimp only
  (repeat' split) <;> simp [State.reset, hb]

@[simp] theorem execPacketGrant_ends (s : State) (h : Canonical s.bulk) : Out.Ends Canonical (execPacketGrant s) := by
  unfold execPacketGrant
  dsimp only
  (repeat' split) <;> simp [h]
@[simp] theorem execCopyDataArrival_ends (s : State) (h : Canonical s.bulk) : Out.Ends Canonical (execCopyDataArrival s) := by
  unfold execCopyDataArrival
  (repeat' split) <;> simp [h]
@[simp] theorem execChunkArrival_ends (s : State) (h : Canonical s.bulk) : Out.Ends Canonical (execChunkArrival s) := by
  unfold execChunkArrival
  split <;> simp [h]
@[simp] theorem execSpanChunkReceive_ends (s : State) (h : Canonical s.bulk) : Out.Ends Canonical (execSpanChunkReceive s) := by
  unfold execSpanChunkReceive
  (repeat' split) <;> simp [h]
@[simp] theorem execSpanCopyDataReceive_ends (s : State) (h : Canonical s.bulk) :
    Out.Ends Canonical (execSpanCopyDataReceive s) := by
  unfold execSpanCopyDataReceive
  split
  · rw [Out.ends_next]
    refine s.takeFrame_keeps _ _ _ _ h fun s f ctx e hs => ?_
    dsimp only
    (repeat' split) <;> simp [hs]
  · simp [h]
@[simp] theorem execPostedStorePerform_ends (s : State) (h : Canonical s.bulk) : Out.Ends Canonical (execPostedStorePerform s) := by
  unfold execPostedStorePerform
  dsimp only
  (repeat' split) <;> simp [h]
@[simp] theorem execPreemptSaveDone_ends (s : State) (h : Canonical s.bulk) : Out.Ends Canonical (execPreemptSaveDone s) := by
  unfold execPreemptSaveDone
  dsimp only
  (repeat' split) <;> simp [h]
@[simp] theorem execIncidentCapture_ends (s : State) (h : Canonical s.bulk) : Out.Ends Canonical (execIncidentCapture s) := by
  unfold execIncidentCapture
  (repeat' split) <;> simp [h]
@[simp] theorem execQueueMap_ends (s : State) (h : Canonical s.bulk) : Out.Ends Canonical (execQueueMap s) := by
  unfold execQueueMap
  dsimp only
  (repeat' split) <;> simp [h]
@[simp] theorem execQueueUnmap_ends (s : State) (h : Canonical s.bulk) : Out.Ends Canonical (execQueueUnmap s) := by
  unfold execQueueUnmap
  dsimp only
  (repeat' split) <;> simp [h]
@[simp] theorem execWatchedLineReread_ends (s : State) (h : Canonical s.bulk) : Out.Ends Canonical (execWatchedLineReread s) := by
  unfold execWatchedLineReread
  dsimp only
  (repeat' split) <;> simp [h]
@[simp] theorem execQueueWake_ends (s : State) (h : Canonical s.bulk) : Out.Ends Canonical (execQueueWake s) := by
  unfold execQueueWake
  dsimp only
  (repeat' split) <;> simp [h]
@[simp] theorem execCommandAccept_ends (s : State) (h : Canonical s.bulk) : Out.Ends Canonical (execCommandAccept s) := by
  unfold execCommandAccept
  dsimp only
  (repeat' split) <;> simp [h]
@[simp] theorem execCommandComplete_ends (s : State) (h : Canonical s.bulk) : Out.Ends Canonical (execCommandComplete s) := by
  unfold execCommandComplete
  dsimp only
  (repeat' split) <;> simp [h]
@[simp] theorem execQpostRequest_ends (s : State) (h : Canonical s.bulk) : Out.Ends Canonical (execQpostRequest s) := by
  unfold execQpostRequest
  dsimp only
  (repeat' split) <;> simp [h]
@[simp] theorem execSignal_ends (s : State) (h : Canonical s.bulk) : Out.Ends Canonical (execSignal s) := by
  unfold execSignal
  dsimp only
  (repeat' split) <;> simp [h]
@[simp] theorem execTasksAppend_ends (s : State) (h : Canonical s.bulk) : Out.Ends Canonical (execTasksAppend s) := by
  unfold execTasksAppend
  dsimp only
  (repeat' split) <;> simp [h]
@[simp] theorem execStatus_ends (s : State) (h : Canonical s.bulk) : Out.Ends Canonical (execStatus s) := by
  unfold execStatus
  dsimp only
  (repeat' split) <;> simp [h]
@[simp] theorem execStatusAttest_ends (s : State) (h : Canonical s.bulk) : Out.Ends Canonical (execStatusAttest s) := by
  unfold execStatusAttest
  dsimp only
  (repeat' split) <;> simp [h]
@[simp] theorem State.foldl_dropQueue_canonical (s : State) (qs) (h : Canonical s.bulk) :
    Canonical (List.foldl State.dropQueue s qs).bulk := State.foldl_keeps _ State.dropQueue_canonical _ _ h
@[simp] theorem execPartitionTeardown_ends (s : State) (h : Canonical s.bulk) : Out.Ends Canonical (execPartitionTeardown s) := by
  unfold execPartitionTeardown
  split
  · split
    · simp [h]
    · dsimp only
      split
      · simp [h]
      · rw [Out.ends_next, State.after_bulk]
        split
        · rw [State.setCtxRec_bulk, State.foldl_bulk _ fun s x => s.complete_bulk _ _ _ _ _]
          split <;> simp [h]
        · simp [h]
  · simp [h]
  · simp [h]
@[simp] theorem execHostInboundWrite_ends (s : State) (h : Canonical s.bulk) : Out.Ends Canonical (execHostInboundWrite s) := by
  unfold execHostInboundWrite
  (repeat' split) <;> simp [h]
@[simp] theorem execTelemetrySample_ends (s : State) (h : Canonical s.bulk) : Out.Ends Canonical (execTelemetrySample s) := by
  simp only [execTelemetrySample, Out.ends_next, State.after_bulk]
  rw [State.foldl_bulk _ fun s c => s.setChiplet_bulk _ _]
  exact State.foldl_keeps _ (fun s n hs => State.foldl_keeps _ (fun s c hs => s.sampleFor_canonical _ _ hs) _ _ hs) _ _ h

/-! ### Every instruction and event -/

/-- The instructions named apart are those whose meaning is one call of an operation that a family shares. -/
theorem exec_ends (s : State) (h : Canonical s.bulk) (i : Instr) : Out.Ends Canonical (exec i s) := by
  cases i with
  | brk | trap => simp [execBrk, execTrap, h]
  | add | sub | mul | mulh | mulhu | div | divu | rem | remu | and | or | xor | andn | shl | shr | sar | rot | min |
  max | minu | maxu =>
    simp [execAdd, execSub, execMul, execMulh, execMulhu, execDiv, execDivu, execRem, execRemu, execAnd, execOr,
      execXor, execAndn, execShl, execShr, execSar, execRot, execMin, execMax, execMinu, execMaxu, h]
  | addi | andi | ori | xori | shli | shri | sari | muli =>
    simp [execAddi, execAndi, execOri, execXori, execShli, execShri, execSari, execMuli, h]
  | mov | neg | not | clz | ctz | popc | sext | zext | ext | extu =>
    simp [execMov, execNeg, execNot, execClz, execCtz, execPopc, execSext, execZext, execExt, execExtu, h]
  | ins | sel | ppack | prd | fclass | ldep => simp [execIns, execSel, execPpack, execPrd, execFclass, execLdep, h]
  | cmpEq | cmpNe | cmpLt | cmpGe | cmpLtu | cmpGeu | cmpTst | cmpNtst =>
    simp [execCmpEq, execCmpNe, execCmpLt, execCmpGe, execCmpLtu, execCmpGeu, execCmpTst, execCmpNtst, h]
  | cmpiEq | cmpiNe | cmpiLt | cmpiGe | cmpiLtu | cmpiGeu | cmpiTst | cmpiNtst =>
    simp [execCmpiEq, execCmpiNe, execCmpiLt, execCmpiGe, execCmpiLtu, execCmpiGeu, execCmpiTst, execCmpiNtst, h]
  | pand | por | pxor | pandn | pnot | pmov | pset | pclr =>
    simp [execPand, execPor, execPxor, execPandn, execPnot, execPmov, execPset, execPclr, h]
  | fadd | fsub | fmul | fdiv | fmin | fmax | fsqrt | fabs | fneg | fma | fnma | cvtif | cvtfb | cvtbf | cvtfh | cvthf =>
    simp [execFadd, execFsub, execFmul, execFdiv, execFmin, execFmax, execFsqrt, execFabs, execFneg, execFma,
      execFnma, execCvtif, execCvtfb, execCvtbf, execCvtfh, execCvthf, h]
  | feq | flt | fle | funo => simp [execFeq, execFlt, execFle, execFuno, h]
  | br => simp [execBr, h]
  | loop | loopi => simp [execLoop, execLoopi, h]
  | csrr | csrw | csrs | csrc => simp [execCsrr, execCsrw, execCsrs, execCsrc, h]
  | ldBTi | ldBuTi | ldHTi | ldHuTi | ldWTi | ldWuTi | ldDTi =>
    simp [execLdBTi, execLdBuTi, execLdHTi, execLdHuTi, execLdWTi, execLdWuTi, execLdDTi, h]
  | ldBTd | ldBuTd | ldHTd | ldHuTd | ldWTd | ldWuTd | ldDTd =>
    simp [execLdBTd, execLdBuTd, execLdHTd, execLdHuTd, execLdWTd, execLdWuTd, execLdDTd, h]
  | stBTi | stHTi | stWTi | stDTi => simp [execStBTi, execStHTi, execStWTi, execStDTi, h]
  | stBTd | stHTd | stWTd | stDTd => simp [execStBTd, execStHTd, execStWTd, execStDTd, h]
  | amoadd | amoand | amoor | amoxor | amomin | amomax | amominu | amomaxu | amoswap | amocas =>
    simp [execAmoadd, execAmoand, execAmoor, execAmoxor, execAmomin, execAmomax, execAmominu, execAmomaxu,
      execAmoswap, execAmocas, h]
  | fenceAcq => simp [execFenceAcq, h]
  | recv | tryrecv => simp [execRecv, execTryrecv, h]
  | gjoin | gleave | gsize => simp [execGjoin, execGleave, execGsize, h]
  | vadd | vsub | vmul | vmax | vmin | vabs | vneg | vfma | vexp | vrcp | vrsq | vsigm | vsilu | vcvt | vset | vcpy |
  viota | vsel | vcmp | vscl =>
    simp [execVadd, execVsub, execVmul, execVmax, execVmin, execVabs, execVneg, execVfma, execVexp, execVrcp,
      execVrsq, execVsigm, execVsilu, execVcvt, execVset, execVcpy, execViota, execVsel, execVcmp, execVscl, h]
  | vsum | vssq | vamax | vmaxr | vminr | vdot =>
    simp [execVsum, execVssq, execVamax, execVmaxr, execVminr, execVdot, h]
  | vgath | vscat | vscadd => simp [execVgath, execVscat, execVscadd, h]
  | cpy | cpys | cpyx => simp [execCpy, execCpys, execCpyx, h]
  | accld | accst => simp [execAccld, execAccst, h]
  | mma | mmag => simp [execMma, execMmag, h]
  | delta | dread | dscl => simp [execDelta, execDread, execDscl, h]
  | _ => simp [h]

theorem State.runPlain_ends (s : State) (x) (h : Canonical s.bulk) : Out.Ends Canonical (s.runPlain x) :=
  exec_ends _ (by simp [h]) _

theorem State.run_ends (s : State) (x) (h : Canonical s.bulk) : Out.Ends Canonical (s.run x) := by
  unfold State.run
  split
  · exact exec_ends _ (by simp [h]) _
  · exact s.runPlain_ends x h

theorem State.deliverRecord_ends (s : State) (k x) (h : Canonical s.bulk) : Out.Ends Canonical (s.deliverRecord k x) := by
  unfold State.deliverRecord
  dsimp only
  split
  · next s' e =>
    have hs : Out.Ends Canonical (.next s') := by rw [← e]; exact exec_ends _ (by simp [h]) _
    simpa using hs
  · exact exec_ends _ (by simp [h]) _

theorem State.issue_ends (s : State) (d) (h : Canonical s.bulk) : Out.Ends Canonical (s.issue d) := by
  unfold State.issue
  split
  · simp [h]
  · simp [h]
  · split
    · exact exec_ends s h _
    · simp [h]

theorem State.issueAt_ends (s : State) (k j) (h : Canonical s.bulk) : Out.Ends Canonical (s.issueAt k j) := by
  unfold State.issueAt
  dsimp only
  split
  · simp [h]
  · simp [h]
  · exact State.issue_ends _ _ (by simp [h])

theorem State.turn_ends (s : State) (k) (h : Canonical s.bulk) : Out.Ends Canonical (s.turn k) := by
  unfold State.turn
  dsimp only
  split
  · simp [h]
  · split
    · simp [h]
    · split
      · split
        · simp [h]
        · exact State.issueAt_ends _ _ _ (by simp [h])
      · exact s.issueAt_ends _ _ h

/-! ### A delivery, and what happens next -/

theorem State.idle_bulk {s t : State} {x k} (h : s.idle x k = some t) : t.bulk = s.bulk := by
  unfold State.idle at h
  dsimp only at h
  (repeat' split at h) <;> cases h <;> simp

@[simp] theorem State.conclude_ends (s : State) (x k reserve o) (h : P s.bulk) (ho : Out.Ends P o) :
    Out.Ends P (s.conclude x k reserve o) := by
  unfold State.conclude
  split
  · dsimp only
    (repeat' split) <;> simp_all
  · exact ho

theorem State.atPort_ends (s : State) (run x k reserve) (h : P s.bulk) (hr : Out.Ends P (run s x)) :
    Out.Ends P (s.atPort run x k reserve) := by
  unfold State.atPort
  dsimp only
  (repeat' split) <;> simp [h, hr]

theorem State.handleWith_ends (run) (s : State) (x) (h : P s.bulk) (hr : Out.Ends P (run s x)) :
    Out.Ends P (State.handleWith run s x) := by
  unfold State.handleWith
  split
  · next e =>
    obtain ⟨k, -, hk⟩ := Option.bind_eq_some_iff.1 e
    rwa [Out.ends_next, State.idle_bulk hk]
  · split
    · exact hr
    · exact s.atPort_ends _ _ _ _ h hr

theorem State.dueWith_ends {run} {s : State} {n o} (hr : ∀ x, Out.Ends Canonical (run s x)) (h : Canonical s.bulk)
    (e : State.dueWith run s n = some o) : Out.Ends Canonical o := by
  unfold State.dueWith at e
  split at e
  · cases e; exact s.deliverRecord_ends _ _ h
  · obtain ⟨x, -, rfl⟩ := Option.map_eq_some_iff.1 e
    exact State.handleWith_ends _ _ _ h (hr x)

theorem State.advanceWith_ends (run) (s : State) (hr : ∀ x, Out.Ends Canonical (run s x)) (h : Canonical s.bulk) :
    Out.Ends Canonical (State.advanceWith run s) := by
  unfold State.advanceWith
  split
  · next e => exact State.dueWith_ends hr h e
  · split
    · exact State.turn_ends _ _ (by simp [h])
    · split
      · next e =>
        obtain ⟨n, -, hn⟩ := List.exists_of_findSome?_eq_some e
        exact State.dueWith_ends hr h hn
      · simp [h]

theorem step_ends (s : State) (h : Canonical s.bulk) : Out.Ends Canonical (step s) := by
  unfold step
  split
  · trivial
  · exact State.advanceWith_ends _ s (fun x => s.run_ends x h) h

/-- Settles O7: a step's next state has memories that meet `Canonical`, whichever event or turn the step takes. -/
theorem stepKeepsMemoryForm : Obligations.StepKeepsMemoryForm := by
  intro s t hs e
  rw [State.bulkWf_iff] at hs ⊢
  simpa [e] using step_ends s hs

end Sys2Proof.Machine
end

section
/-!
PROOFS. The machine goes on (01 R23, 09 R180): a fault, a miss and a refused operand are next states too, so that every meaning answers
one (`_goes`). The operations that instructions share come first, those that take the rest of the instruction as an argument under
the hypothesis that it goes on; then the instructions with a case tree of their own, the events, `exec`, and what a cycle makes of it.
-/
namespace Sys2Proof.Machine

/-- The machine goes on: the answer is a next state. -/
def Out.Goes (o : Out) : Prop := ∃ t, o = .next t

@[simp] theorem Out.goes_next (t : State) : Out.Goes (.next t) := ⟨t, rfl⟩
@[simp] theorem Out.goes_ite (p : Prop) [Decidable p] {o o' : Out} :
    Out.Goes (if p then o else o') ↔ if p then Out.Goes o else Out.Goes o' := by split <;> rfl
theorem Out.Goes.ite {p : Prop} [Decidable p] {o o' : Out} (h : Out.Goes o) (h' : Out.Goes o') :
    Out.Goes (if p then o else o') := by split <;> assumption

/-! ### Completing, trapping, reading registers (Machine/Ops.lean, Machine/Operands.lean, Machine/Float.lean) -/

@[simp] theorem State.done_goes (s : State) (th) : Out.Goes (s.done th) := ⟨_, rfl⟩
@[simp] theorem State.trap_goes (s : State) (code detail val) : Out.Goes (s.trap code detail val) := ⟨_, rfl⟩
@[simp] theorem State.withRegs_goes (s : State) (rs k) (hk : ∀ th, Out.Goes (k th)) : Out.Goes (s.withRegs rs k) := by
  simp [State.withRegs, hk]
@[simp] theorem State.regOp_goes (s : State) (rs rd f) : Out.Goes (s.regOp rs rd f) := by simp [State.regOp]
@[simp] theorem State.predOp_goes (s : State) (rs qd f) : Out.Goes (s.predOp rs qd f) := by simp [State.predOp]
@[simp] theorem State.alu_goes (s : State) (f w rd ra rb) : Out.Goes (s.alu f w rd ra rb) := s.regOp_goes ..
@[simp] theorem State.alui_goes (s : State) (f rd ra imm) : Out.Goes (s.alui f rd ra imm) := s.regOp_goes ..
@[simp] theorem State.unary_goes (s : State) (f rd ra) : Out.Goes (s.unary f rd ra) := s.regOp_goes ..
@[simp] theorem State.cmp_goes (s : State) (f qd ra rb) : Out.Goes (s.cmp f qd ra rb) := s.predOp_goes ..
@[simp] theorem State.cmpi_goes (s : State) (f qd ra imm) : Out.Goes (s.cmpi f qd ra imm) := s.predOp_goes ..
@[simp] theorem State.fpOp_goes (s : State) (rs rd f) : Out.Goes (s.fpOp rs rd f) := by simp [State.fpOp]
@[simp] theorem State.fpPred_goes (s : State) (qd ra rb f) : Out.Goes (s.fpPred qd ra rb f) := by simp [State.fpPred]

/-! ### Control transfers and CSRs (Machine/Fetch.lean, Machine/Control.lean, Machine/Csr.lean) -/

@[simp] theorem State.continueAfter_goes (s : State) (stop th) : Out.Goes (s.continueAfter stop th) := by
  fun_cases State.continueAfter <;> simp
@[simp] theorem State.branch_goes (s : State) (th t) : Out.Goes (s.branch th t) := by simp [State.branch]
@[simp] theorem State.openLoop_goes (s : State) (rs t count) : Out.Goes (s.openLoop rs t count) := by simp [State.openLoop]
@[simp] theorem State.softTrap_goes (s : State) (code detail) : Out.Goes (s.softTrap code detail) := by simp [State.softTrap]
@[simp] theorem State.csrOp_goes (s : State) (rd csr writes rs f) : Out.Goes (s.csrOp rd csr writes rs f) := by
  simp [State.csrOp]

/-! ### Accesses, loads, stores and fences (Machine/Access.lean, Machine/Loads.lean) -/

@[simp] theorem State.release_goes (s : State) (th) {go} (hgo : Out.Goes go) : Out.Goes (s.release th go) := by
  simp [State.release, hgo]
@[simp] theorem State.postStore_goes (s : State) (th host a size v) : Out.Goes (s.postStore th host a size v) := by
  simp [State.postStore]
@[simp] theorem State.gateLoad_goes (s : State) (th host a) : Out.Goes (s.gateLoad th host a) := ⟨_, rfl⟩
@[simp] theorem State.readFor_goes (s : State) (th a size cached) : Out.Goes (s.readFor th a size cached) := ⟨_, rfl⟩
@[simp] theorem State.migrate_goes (s : State) (th rs t va) : Out.Goes (s.migrate th rs t va) := by
  fun_cases State.migrate <;> simp
@[simp] theorem State.atHome_goes (s : State) (th rs) {go} (hgo : Out.Goes go) : Out.Goes (s.atHome th rs go) := by
  simp [State.atHome, hgo]
@[simp] theorem State.sharedAccess_goes (s : State) (th n a) : Out.Goes (s.sharedAccess th n a) := by
  fun_cases State.sharedAccess <;> simp
@[simp] theorem State.localAccess_goes (s : State) (th off a) : Out.Goes (s.localAccess th off a) := by
  rcases hp : s.portPerform s.cur.tile off a (s.captureBusy (off / 64)) false with ⟨s', r | _ | _⟩
  · cases r <;> simp [State.localAccess, hp]
  · simp [State.localAccess, hp]
  · simp [State.localAccess, hp]
@[simp] theorem State.portAccess_goes (s : State) (th t off a) : Out.Goes (s.portAccess th t off a) := ⟨_, rfl⟩
@[simp] theorem State.access_goes (s : State) (th rs a) : Out.Goes (s.access th rs a) := by
  fun_cases State.access <;> simp
@[simp] theorem State.loadTI_goes (s : State) (log signed rd ra imm) : Out.Goes (s.loadTI log signed rd ra imm) := by
  simp [State.loadTI]
@[simp] theorem State.loadTD_goes (s : State) (log signed rd ra rb imm) : Out.Goes (s.loadTD log signed rd ra rb imm) := by
  simp [State.loadTD]
@[simp] theorem State.storeTI_goes (s : State) (log rs ra imm) : Out.Goes (s.storeTI log rs ra imm) := by
  simp [State.storeTI]
@[simp] theorem State.storeTD_goes (s : State) (log rs ra rb imm) : Out.Goes (s.storeTD log rs ra rb imm) := by
  simp [State.storeTD]
@[simp] theorem State.amo_goes (s : State) (op fl rd ra rb) : Out.Goes (s.amo op fl rd ra rb) := by simp [State.amo]
@[simp] theorem State.fenceRel_goes (s : State) (scope) {go} (hgo : Out.Goes go) : Out.Goes (s.fenceRel scope go) := by
  simp [State.fenceRel, hgo]
@[simp] theorem State.fenceAcq_goes (s : State) (scope) : Out.Goes (s.fenceAcq scope) := by simp [State.fenceAcq]

/-! ### Messages, groups and the issue of engine operations (Machine/Moves.lean, Machine/Threads.lean, Machine/Engine.lean) -/

@[simp] theorem State.recv_goes (s : State) (try_ rd ra rb) : Out.Goes (s.recv try_ rd ra rb) := by
  refine s.withRegs_goes _ _ fun th => ?_
  dsimp only
  (repeat' split) <;> simp
@[simp] theorem State.groupAsk_goes (s : State) (rd ra what kind) : Out.Goes (s.groupAsk rd ra what kind) := by
  simp [State.groupAsk]
@[simp] theorem State.issueOp_goes (s : State) (th job rs far parks pix sigAt) :
    Out.Goes (s.issueOp th job rs far parks pix sigAt) := by cases parks <;> simp [State.issueOp]
@[simp] theorem State.nothingLeft_goes (s : State) (th) : Out.Goes (s.nothingLeft th) := ⟨_, rfl⟩
@[simp] theorem State.trapInfo_goes (s : State) (t) : Out.Goes (s.trapInfo t) := ⟨_, rfl⟩

/-! ### Engines and rounds (chapters 15 to 17) -/

@[simp] theorem State.vec_goes (s : State) (f o) : Out.Goes (s.vec f o) := by
  unfold State.vec
  refine s.withRegs_goes _ _ fun th => ?_
  dsimp only
  (repeat' split) <;> simp
@[simp] theorem State.red_goes (s : State) (f ty rd ra rb) : Out.Goes (s.red f ty rd ra rb) := by
  refine s.withRegs_goes _ _ fun th => ?_
  dsimp only
  (repeat' split) <;> simp
@[simp] theorem State.gat_goes (s : State) (f rm o) : Out.Goes (s.gat f rm o) := by
  refine s.withRegs_goes _ _ fun th => ?_
  dsimp only
  (repeat' split) <;> simp
@[simp] theorem State.copyInstr_goes (s : State) (f ticket ra rb z) : Out.Goes (s.copyInstr f ticket ra rb z) := by
  refine s.withRegs_goes _ _ fun th => ?_
  dsimp only
  (repeat' split) <;> simp
@[simp] theorem State.withHandles_goes (s : State) (h n) {k} (hk : Out.Goes k) : Out.Goes (s.withHandles h n k) := by
  simp [State.withHandles, hk]
@[simp] theorem State.accLock_goes (s : State) (h n) {k} (hk : Out.Goes k) : Out.Goes (s.accLock h n k) := by
  simp [State.accLock, hk]
@[simp] theorem State.accMove_goes (s : State) (load h n ty ra rb) : Out.Goes (s.accMove load h n ty ra rb) := by
  refine s.withHandles_goes _ _ (s.withRegs_goes _ _ fun th => ?_)
  dsimp only
  (repeat' split) <;> simp
@[simp] theorem State.mma_goes (s : State) (o c) : Out.Goes (s.mma o c) := by
  refine .ite (s.trap_goes ..) (s.withHandles_goes _ _ (s.withRegs_goes _ _ fun th => ?_))
  dsimp only
  (repeat' split) <;> simp
@[simp] theorem State.deltaIssue_goes (s : State) (f h ra rs job) : Out.Goes (s.deltaIssue f h ra rs job) := by
  refine s.withRegs_goes _ _ fun th => ?_
  refine .ite (s.trapInfo_goes _) (.ite (s.trap_goes ..) (.ite (s.trap_goes ..) (.ite (s.trap_goes ..) ?_)))
  dsimp only
  split
  · simp
  · refine s.withHandles_goes _ _ ?_
    (repeat' split) <;> simp
@[simp] theorem State.withRound_goes (s : State) (th away v) {go} (hgo : ∀ r, Out.Goes (go r)) :
    Out.Goes (s.withRound th away v go) := by
  fun_cases State.withRound <;> simp [hgo]
@[simp] theorem State.withRecord_goes (s : State) (th area) {go} (hgo : Out.Goes go) :
    Out.Goes (s.withRecord th area go) := by simp [State.withRecord, hgo]

/-! ### Instructions with checks of their own -/

@[simp] theorem execRfill_goes (s : State) (ra rb rt) : Out.Goes (execRfill ra rb rt s) := by
  refine .ite (s.trap_goes ..) (s.withRegs_goes _ _ fun th => .ite (s.trap_goes ..) (s.release_goes _ ?_))
  (repeat' split) <;> simp
@[simp] theorem execEnter_goes (s : State) (n) : Out.Goes (execEnter n s) := by
  refine .ite (s.trap_goes ..) (s.withRegs_goes _ _ fun th => .ite (s.trap_goes ..) ?_)
  dsimp only
  (repeat' split) <;> simp
@[simp] theorem execAccpin_goes (s : State) (qd h n1 ra rb) : Out.Goes (execAccpin qd h n1 ra rb s) := by
  refine s.withHandles_goes _ _ (s.withRegs_goes _ _ fun th => ?_)
  dsimp only
  split
  · simp
  · refine .ite (s.trap_goes ..) (.ite (s.trap_goes ..) (s.accLock_goes _ _ ?_))
    split <;> simp
@[simp] theorem execAccatt_goes (s : State) (qd h n1 ra) : Out.Goes (execAccatt qd h n1 ra s) := by
  refine s.withHandles_goes _ _ (s.withRegs_goes _ _ fun th => .ite (s.trapInfo_goes _) (s.accLock_goes _ _ ?_))
  (repeat' split) <;> simp
@[simp] theorem execTld_goes (s : State) (w ra rb pitch) : Out.Goes (execTld w ra rb pitch s) := by
  refine .ite (s.trap_goes ..) (s.withRegs_goes _ _ fun th => ?_)
  dsimp only
  split
  · simp
  · exact .ite (s.nothingLeft_goes _) (s.issueOp_goes ..)
@[simp] theorem execBwait_goes (s : State) (rd) : Out.Goes (execBwait rd s) := by
  refine s.withRound_goes _ _ _ fun r => ?_
  split <;> simp
@[simp] theorem execBclose_goes (s : State) (rd) : Out.Goes (execBclose rd s) := by
  refine s.withRound_goes _ _ _ fun r => ?_
  split <;> simp
@[simp] theorem execBnorm_goes (s : State) (rd h) : Out.Goes (execBnorm rd h s) := by
  refine s.withRound_goes _ _ _ fun r => ?_
  (repeat' split) <;> simp
@[simp] theorem execBseal_goes (s : State) (rd h) : Out.Goes (execBseal rd h s) := by
  refine s.withRound_goes _ _ _ fun r => ?_
  dsimp only
  (repeat' split) <;> simp
@[simp] theorem execSend_goes (s : State) (ra rb mbox tag) : Out.Goes (execSend ra rb mbox tag s) := by
  refine s.withRegs_goes _ _ fun th => ?_
  dsimp only
  (repeat' split) <;> simp
@[simp] theorem execRed_goes (s : State) (rd ra rb op ty) : Out.Goes (execRed rd ra rb op ty s) := by
  refine s.withRegs_goes _ _ fun th => ?_
  dsimp only
  split <;> simp
@[simp] theorem execRedg_goes (s : State) (rd ra qd) : Out.Goes (execRedg rd ra qd s) := by
  refine s.withRegs_goes _ _ fun th => ?_
  dsimp only
  split <;> simp
@[simp] theorem execGbar_goes (s : State) (rd ra) : Out.Goes (execGbar rd ra s) := by
  refine s.withRegs_goes _ _ fun th => ?_
  simp
@[simp] theorem execQpost_goes (s : State) (rd ra rb) : Out.Goes (execQpost rd ra rb s) := by
  refine s.withRegs_goes _ _ fun th => ?_
  dsimp only
  (repeat' split) <;> simp
@[simp] theorem execBopen_goes (s : State) (rd h n1 want ra rb) : Out.Goes (execBopen rd h n1 want ra rb s) := by
  refine s.withRegs_goes _ _ fun th => ?_
  dsimp only
  (repeat' split) <;> simp
@[simp] theorem execBsend_goes (s : State) (rs ra rb n1) : Out.Goes (execBsend rs ra rb n1 s) := by
  refine s.withRegs_goes _ _ fun th => ?_
  dsimp only
  (repeat' split) <;> simp
@[simp] theorem execBabsent_goes (s : State) (ra) : Out.Goes (execBabsent ra s) := by
  refine s.withRegs_goes _ _ fun th => ?_
  dsimp only
  (repeat' split) <;> simp
@[simp] theorem execColld_goes (s : State) (rd ra rb) : Out.Goes (execColld rd ra rb s) := by
  refine s.withRegs_goes _ _ fun th => ?_
  dsimp only
  (repeat' split) <;> simp
@[simp] theorem execColrun_goes (s : State) (rd ra rb) : Out.Goes (execColrun rd ra rb s) := by
  refine s.withRegs_goes _ _ fun th => ?_
  dsimp only
  (repeat' split) <;> simp
@[simp] theorem execSpawn_goes (s : State) (rd ra rb) : Out.Goes (execSpawn rd ra rb s) := by
  refine s.withRegs_goes _ _ fun th => ?_
  dsimp only
  (repeat' split) <;> simp
@[simp] theorem execAccz_goes (s : State) (h n1) : Out.Goes (execAccz h n1 s) := by
  refine s.withHandles_goes _ _ ?_
  dsimp only
  (repeat' split) <;> simp
@[simp] theorem execAccrel_goes (s : State) (h n1) : Out.Goes (execAccrel h n1 s) := by
  refine s.withHandles_goes _ _ ?_
  dsimp only
  (repeat' split) <;> simp
@[simp] theorem execAccsta_goes (s : State) (rd h clr) : Out.Goes (execAccsta rd h clr s) := by
  refine s.withHandles_goes _ _ ?_
  (repeat' split) <;> simp
@[simp] theorem execAccspl_goes (s : State) (h n1) : Out.Goes (execAccspl h n1 s) := by
  refine s.withHandles_goes _ _ ?_
  dsimp only
  (repeat' split) <;> simp
@[simp] theorem execLexit_goes (s : State) : Out.Goes (execLexit s) := by fun_cases execLexit <;> simp
@[simp] theorem execColabt_goes (s : State) : Out.Goes (execColabt s) := by fun_cases execColabt <;> simp
@[simp] theorem execSwapt_goes (s : State) (ra rb) : Out.Goes (execSwapt ra rb s) := by unfold execSwapt; split <;> simp
@[simp] theorem execColwait_goes (s : State) (rd) : Out.Goes (execColwait rd s) := by fun_cases execColwait <;> simp

/-! ### Boot and power (chapter 1) -/

@[simp] theorem execBoot_goes (s : State) : Out.Goes (execBoot s) := by fun_cases execBoot <;> simp
@[simp] theorem execBootReady_goes (s : State) : Out.Goes (execBootReady s) := by fun_cases execBootReady <;> simp
@[simp] theorem execControlInterval_goes (s : State) : Out.Goes (execControlInterval s) := ⟨_, rfl⟩
@[simp] theorem execOperatingPointSettled_goes (s : State) : Out.Goes (execOperatingPointSettled s) := by
  fun_cases execOperatingPointSettled <;> simp
@[simp] theorem execThermalThrottle_goes (s : State) : Out.Goes (execThermalThrottle s) := by
  fun_cases execThermalThrottle <;> simp
@[simp] theorem execThrottleRelease_goes (s : State) : Out.Goes (execThrottleRelease s) := by
  fun_cases execThrottleRelease <;> simp
@[simp] theorem execEmergencySave_goes (s : State) : Out.Goes (execEmergencySave s) := by fun_cases execEmergencySave <;> simp
@[simp] theorem execHardTrip_goes (s : State) : Out.Goes (execHardTrip s) := by fun_cases execHardTrip <;> simp
@[simp] theorem execCurrentLimitTrip_goes (s : State) : Out.Goes (execCurrentLimitTrip s) := by
  fun_cases execCurrentLimitTrip <;> simp
@[simp] theorem execMaskChange_goes (s : State) : Out.Goes (execMaskChange s) := by fun_cases execMaskChange <;> simp
@[simp] theorem execResidencyStep_goes (s : State) : Out.Goes (execResidencyStep s) := by fun_cases execResidencyStep <;> simp
@[simp] theorem execTelemetrySample_goes (s : State) : Out.Goes (execTelemetrySample s) := ⟨_, rfl⟩
@[simp] theorem execFirmwareRegisterWrite_goes (s : State) : Out.Goes (execFirmwareRegisterWrite s) := by
  fun_cases execFirmwareRegisterWrite <;> simp

/-! ### Links and span ports (chapter 2) -/

@[simp] theorem execHostInboundRead_goes (s : State) : Out.Goes (execHostInboundRead s) := by
  fun_cases execHostInboundRead <;> simp
@[simp] theorem execHostInboundWrite_goes (s : State) : Out.Goes (execHostInboundWrite s) := by
  fun_cases execHostInboundWrite <;> simp
@[simp] theorem execDmaWindowWrite_goes (s : State) : Out.Goes (execDmaWindowWrite s) := by
  fun_cases execDmaWindowWrite <;> simp
@[simp] theorem execPeerTableWrite_goes (s : State) : Out.Goes (execPeerTableWrite s) := by
  fun_cases execPeerTableWrite <;> simp
@[simp] theorem execFirmwareTableWrite_goes (s : State) : Out.Goes (execFirmwareTableWrite s) := ⟨_, rfl⟩
@[simp] theorem execConfigWrite_goes (s : State) : Out.Goes (execConfigWrite s) := by fun_cases execConfigWrite <;> simp
@[simp] theorem execWatchedLineInvalidate_goes (s : State) : Out.Goes (execWatchedLineInvalidate s) := by
  fun_cases execWatchedLineInvalidate <;> simp
@[simp] theorem execWatchedLineReread_goes (s : State) : Out.Goes (execWatchedLineReread s) := by
  fun_cases execWatchedLineReread <;> simp
@[simp] theorem execSpanProbe_goes (s : State) : Out.Goes (execSpanProbe s) := by fun_cases execSpanProbe <;> simp
@[simp] theorem execSpanPortDown_goes (s : State) : Out.Goes (execSpanPortDown s) := by fun_cases execSpanPortDown <;> simp
@[simp] theorem execSpanLaneFail_goes (s : State) : Out.Goes (execSpanLaneFail s) := by fun_cases execSpanLaneFail <;> simp
@[simp] theorem execSpanCopyDataReceive_goes (s : State) : Out.Goes (execSpanCopyDataReceive s) := by
  fun_cases execSpanCopyDataReceive <;> simp
@[simp] theorem execSpanCopyAckReceive_goes (s : State) : Out.Goes (execSpanCopyAckReceive s) := by
  fun_cases execSpanCopyAckReceive <;> simp
@[simp] theorem execSpanChunkReceive_goes (s : State) : Out.Goes (execSpanChunkReceive s) := by
  fun_cases execSpanChunkReceive <;> simp
@[simp] theorem execSpanRoundAbortReceive_goes (s : State) : Out.Goes (execSpanRoundAbortReceive s) := by
  fun_cases execSpanRoundAbortReceive <;> simp
@[simp] theorem execSpanProbeReceive_goes (s : State) : Out.Goes (execSpanProbeReceive s) := by
  fun_cases execSpanProbeReceive <;> simp
@[simp] theorem execSpanCopyTimeout_goes (s : State) : Out.Goes (execSpanCopyTimeout s) := by
  fun_cases execSpanCopyTimeout <;> simp

/-! ### Queues, commands, partitions and launches (chapter 3) -/

@[simp] theorem execQueueMap_goes (s : State) : Out.Goes (execQueueMap s) := by unfold execQueueMap; split <;> simp
@[simp] theorem execQueueUnmap_goes (s : State) : Out.Goes (execQueueUnmap s) := by fun_cases execQueueUnmap <;> simp
@[simp] theorem execQueueWake_goes (s : State) : Out.Goes (execQueueWake s) := by fun_cases execQueueWake <;> simp
@[simp] theorem execCommandAccept_goes (s : State) : Out.Goes (execCommandAccept s) := by fun_cases execCommandAccept <;> simp
@[simp] theorem execLockstepMismatch_goes (s : State) : Out.Goes (execLockstepMismatch s) := ⟨_, rfl⟩
@[simp] theorem execWorkerError_goes (s : State) : Out.Goes (execWorkerError s) := by fun_cases execWorkerError <;> simp
@[simp] theorem execCommandComplete_goes (s : State) : Out.Goes (execCommandComplete s) := by
  fun_cases execCommandComplete <;> simp
@[simp] theorem execQpostRequest_goes (s : State) : Out.Goes (execQpostRequest s) := by unfold execQpostRequest; split <;> simp
@[simp] theorem execLaunch_goes (s : State) : Out.Goes (execLaunch s) := by fun_cases execLaunch <;> simp
@[simp] theorem execCopy_goes (s : State) : Out.Goes (execCopy s) := by fun_cases execCopy <;> simp
@[simp] theorem execTasks_goes (s : State) : Out.Goes (execTasks s) := by fun_cases execTasks <;> simp
@[simp] theorem execTasksAppend_goes (s : State) : Out.Goes (execTasksAppend s) := by fun_cases execTasksAppend <;> simp
@[simp] theorem execSignal_goes (s : State) : Out.Goes (execSignal s) := by fun_cases execSignal <;> simp
@[simp] theorem execWait_goes (s : State) : Out.Goes (execWait s) := by fun_cases execWait <;> simp
@[simp] theorem execWaitPoll_goes (s : State) : Out.Goes (execWaitPoll s) := by fun_cases execWaitPoll <;> simp
@[simp] theorem execWaitLimit_goes (s : State) : Out.Goes (execWaitLimit s) := by fun_cases execWaitLimit <;> simp
@[simp] theorem execPartitionCreate_goes (s : State) : Out.Goes (execPartitionCreate s) := by
  fun_cases execPartitionCreate <;> simp
@[simp] theorem execPartitionTeardown_goes (s : State) : Out.Goes (execPartitionTeardown s) := by
  fun_cases execPartitionTeardown <;> simp
@[simp] theorem execPartitionSuspend_goes (s : State) : Out.Goes (execPartitionSuspend s) := by
  fun_cases execPartitionSuspend <;> simp
@[simp] theorem execPartitionResume_goes (s : State) : Out.Goes (execPartitionResume s) := by
  fun_cases execPartitionResume <;> simp
@[simp] theorem execStatus_goes (s : State) : Out.Goes (execStatus s) := by fun_cases execStatus <;> simp
@[simp] theorem execStatusAttest_goes (s : State) : Out.Goes (execStatusAttest s) := by fun_cases execStatusAttest <;> simp
@[simp] theorem execPopulation_goes (s : State) : Out.Goes (execPopulation s) := by fun_cases execPopulation <;> simp
@[simp] theorem execLaunchEnd_goes (s : State) : Out.Goes (execLaunchEnd s) := by fun_cases execLaunchEnd <;> simp
@[simp] theorem execLaunchTimeLimit_goes (s : State) : Out.Goes (execLaunchTimeLimit s) := by
  fun_cases execLaunchTimeLimit <;> simp
@[simp] theorem execPacketGrant_goes (s : State) : Out.Goes (execPacketGrant s) := by fun_cases execPacketGrant <;> simp
@[simp] theorem execPacketRetire_goes (s : State) : Out.Goes (execPacketRetire s) := by fun_cases execPacketRetire <;> simp

/-! ### Network, groups, reductions and messages (chapters 4 and 6) -/

@[simp] theorem execLinkResend_goes (s : State) : Out.Goes (execLinkResend s) := by fun_cases execLinkResend <;> simp
@[simp] theorem execRebindTableWrite_goes (s : State) : Out.Goes (execRebindTableWrite s) := by
  fun_cases execRebindTableWrite <;> simp
@[simp] theorem execGroupRequest_goes (s : State) : Out.Goes (execGroupRequest s) := by fun_cases execGroupRequest <;> simp
@[simp] theorem execBarrierClusterArrival_goes (s : State) : Out.Goes (execBarrierClusterArrival s) := by
  fun_cases execBarrierClusterArrival <;> simp
@[simp] theorem execBarrierDeparture_goes (s : State) : Out.Goes (execBarrierDeparture s) := by
  fun_cases execBarrierDeparture <;> simp
@[simp] theorem execReductionContribution_goes (s : State) : Out.Goes (execReductionContribution s) := by
  fun_cases execReductionContribution <;> simp
@[simp] theorem execRedlimitExpire_goes (s : State) : Out.Goes (execRedlimitExpire s) := by
  fun_cases execRedlimitExpire <;> simp
@[simp] theorem execReductionPartial_goes (s : State) : Out.Goes (execReductionPartial s) := by
  fun_cases execReductionPartial <;> simp
@[simp] theorem execReductionResult_goes (s : State) : Out.Goes (execReductionResult s) := by
  fun_cases execReductionResult <;> simp
@[simp] theorem execMessageDelivery_goes (s : State) : Out.Goes (execMessageDelivery s) := by
  fun_cases execMessageDelivery <;> simp
@[simp] theorem execMessageAcceptance_goes (s : State) : Out.Goes (execMessageAcceptance s) := by
  fun_cases execMessageAcceptance <;> simp
@[simp] theorem execMessageBounce_goes (s : State) : Out.Goes (execMessageBounce s) := by fun_cases execMessageBounce <;> simp
@[simp] theorem execMessageReinject_goes (s : State) : Out.Goes (execMessageReinject s) := by
  fun_cases execMessageReinject <;> simp

/-! ### Recovery (chapter 5) -/

@[simp] theorem execErrorDetect_goes (s : State) : Out.Goes (execErrorDetect s) := by fun_cases execErrorDetect <;> simp
@[simp] theorem execCorrectedError_goes (s : State) : Out.Goes (execCorrectedError s) := by
  fun_cases execCorrectedError <;> simp
@[simp] theorem execCellarPoison_goes (s : State) : Out.Goes (execCellarPoison s) := by fun_cases execCellarPoison <;> simp
@[simp] theorem execPowerLoss_goes (s : State) : Out.Goes (execPowerLoss s) := by fun_cases execPowerLoss <;> simp
@[simp] theorem execWatchdogFire_goes (s : State) : Out.Goes (execWatchdogFire s) := by fun_cases execWatchdogFire <;> simp
@[simp] theorem execIvlenExpire_goes (s : State) : Out.Goes (execIvlenExpire s) := by fun_cases execIvlenExpire <;> simp
@[simp] theorem execDeferredBoundary_goes (s : State) : Out.Goes (execDeferredBoundary s) := by
  fun_cases execDeferredBoundary <;> simp
@[simp] theorem execCaptureEntryFree_goes (s : State) : Out.Goes (execCaptureEntryFree s) := by
  fun_cases execCaptureEntryFree <;> simp
@[simp] theorem execMirrorLineReceive_goes (s : State) : Out.Goes (execMirrorLineReceive s) := by
  fun_cases execMirrorLineReceive <;> simp
@[simp] theorem execCommitMarkerReceive_goes (s : State) : Out.Goes (execCommitMarkerReceive s) := by
  fun_cases execCommitMarkerReceive <;> simp
@[simp] theorem execBoundaryCommit_goes (s : State) : Out.Goes (execBoundaryCommit s) := by
  fun_cases execBoundaryCommit <;> simp
@[simp] theorem execLogAreaFull_goes (s : State) : Out.Goes (execLogAreaFull s) := by fun_cases execLogAreaFull <;> simp
@[simp] theorem execRecovery_goes (s : State) : Out.Goes (execRecovery s) := by fun_cases execRecovery <;> simp
@[simp] theorem execRebindWave_goes (s : State) : Out.Goes (execRebindWave s) := by fun_cases execRebindWave <;> simp
@[simp] theorem execRebindWaveComplete_goes (s : State) : Out.Goes (execRebindWaveComplete s) := by
  fun_cases execRebindWaveComplete <;> simp
@[simp] theorem execReplay_goes (s : State) : Out.Goes (execReplay s) := by fun_cases execReplay <;> simp
@[simp] theorem execRecoveryRelease_goes (s : State) : Out.Goes (execRecoveryRelease s) := by
  fun_cases execRecoveryRelease <;> simp
@[simp] theorem execHeldPacketDelivery_goes (s : State) : Out.Goes (execHeldPacketDelivery s) := by
  fun_cases execHeldPacketDelivery <;> simp
@[simp] theorem execStateLoss_goes (s : State) : Out.Goes (execStateLoss s) := by fun_cases execStateLoss <;> simp
@[simp] theorem execPlannedMigration_goes (s : State) : Out.Goes (execPlannedMigration s) := by
  fun_cases execPlannedMigration <;> simp
@[simp] theorem execIncidentCapture_goes (s : State) : Out.Goes (execIncidentCapture s) := by
  fun_cases execIncidentCapture <;> simp
@[simp] theorem execIncidentReplay_goes (s : State) : Out.Goes (execIncidentReplay s) := by
  fun_cases execIncidentReplay <;> simp
@[simp] theorem execSpareChipletPowered_goes (s : State) : Out.Goes (execSpareChipletPowered s) := by
  fun_cases execSpareChipletPowered <;> simp

/-! ### Threads, migration and pre-emption (chapter 6) -/

@[simp] theorem execGangPreempt_goes (s : State) : Out.Goes (execGangPreempt s) := by fun_cases execGangPreempt <;> simp
@[simp] theorem execPreemptSaveDone_goes (s : State) : Out.Goes (execPreemptSaveDone s) := by
  fun_cases execPreemptSaveDone <;> simp
@[simp] theorem execRestore_goes (s : State) : Out.Goes (execRestore s) := by fun_cases execRestore <;> simp
@[simp] theorem execTimeSliceExpire_goes (s : State) : Out.Goes (execTimeSliceExpire s) := by
  fun_cases execTimeSliceExpire <;> simp
@[simp] theorem execColdeferExpire_goes (s : State) : Out.Goes (execColdeferExpire s) := by
  fun_cases execColdeferExpire <;> simp
@[simp] theorem execMigrantArrival_goes (s : State) : Out.Goes (execMigrantArrival s) := by
  fun_cases execMigrantArrival <;> simp
@[simp] theorem execMigback_goes (s : State) : Out.Goes (execMigback s) := by fun_cases execMigback <;> simp
@[simp] theorem execMigbackResend_goes (s : State) : Out.Goes (execMigbackResend s) := by fun_cases execMigbackResend <;> simp
@[simp] theorem execLocationNotice_goes (s : State) : Out.Goes (execLocationNotice s) := by
  fun_cases execLocationNotice <;> simp
@[simp] theorem execRfillDelivery_goes (s : State) : Out.Goes (execRfillDelivery s) := by fun_cases execRfillDelivery <;> simp
@[simp] theorem execExitNotice_goes (s : State) : Out.Goes (execExitNotice s) := by fun_cases execExitNotice <;> simp

/-! ### Memory and the engines (chapters 7 and 12 to 16) -/

@[simp] theorem execRemoteAccess_goes (s : State) : Out.Goes (execRemoteAccess s) := by fun_cases execRemoteAccess <;> simp
@[simp] theorem execPortBounceRepresent_goes (s : State) : Out.Goes (execPortBounceRepresent s) := by
  fun_cases execPortBounceRepresent <;> simp
@[simp] theorem execAccessReply_goes (s : State) : Out.Goes (execAccessReply s) := by fun_cases execAccessReply <;> simp
@[simp] theorem execLoadReply_goes (s : State) : Out.Goes (execLoadReply s) := by fun_cases execLoadReply <;> simp
@[simp] theorem execPostedStorePerform_goes (s : State) : Out.Goes (execPostedStorePerform s) := by
  fun_cases execPostedStorePerform <;> simp
@[simp] theorem execTranslationWalk_goes (s : State) : Out.Goes (execTranslationWalk s) := by
  fun_cases execTranslationWalk <;> simp
@[simp] theorem execFeWake_goes (s : State) : Out.Goes (execFeWake s) := by fun_cases execFeWake <;> simp
@[simp] theorem execFeRefusalRepresent_goes (s : State) : Out.Goes (execFeRefusalRepresent s) := by
  fun_cases execFeRefusalRepresent <;> simp
@[simp] theorem execFeTimeout_goes (s : State) : Out.Goes (execFeTimeout s) := by fun_cases execFeTimeout <;> simp
@[simp] theorem execIcacheFill_goes (s : State) : Out.Goes (execIcacheFill s) := by fun_cases execIcacheFill <;> simp
@[simp] theorem execRangeLockRequest_goes (s : State) : Out.Goes (execRangeLockRequest s) := by
  fun_cases execRangeLockRequest <;> simp
@[simp] theorem execRangeLockRepresent_goes (s : State) : Out.Goes (execRangeLockRepresent s) := by
  fun_cases execRangeLockRepresent <;> simp
@[simp] theorem execEngineOpStart_goes (s : State) : Out.Goes (execEngineOpStart s) := by fun_cases execEngineOpStart <;> simp
@[simp] theorem execEngineOpComplete_goes (s : State) : Out.Goes (execEngineOpComplete s) := by
  fun_cases execEngineOpComplete <;> simp
@[simp] theorem execCopyComplete_goes (s : State) : Out.Goes (execCopyComplete s) := by fun_cases execCopyComplete <;> simp
@[simp] theorem execCopyDataArrival_goes (s : State) : Out.Goes (execCopyDataArrival s) := by
  fun_cases execCopyDataArrival <;> simp

/-! ### Merge rounds and collectives (chapter 17) -/

@[simp] theorem execBindRequest_goes (s : State) : Out.Goes (execBindRequest s) := by fun_cases execBindRequest <;> simp
@[simp] theorem execBindRequestRetry_goes (s : State) : Out.Goes (execBindRequestRetry s) := by
  fun_cases execBindRequestRetry <;> simp
@[simp] theorem execMergeData_goes (s : State) : Out.Goes (execMergeData s) := by fun_cases execMergeData <;> simp
@[simp] theorem execMergeMarker_goes (s : State) : Out.Goes (execMergeMarker s) := by fun_cases execMergeMarker <;> simp
@[simp] theorem execMergeCommit_goes (s : State) : Out.Goes (execMergeCommit s) := by fun_cases execMergeCommit <;> simp
@[simp] theorem execBwaitTimeout_goes (s : State) : Out.Goes (execBwaitTimeout s) := by fun_cases execBwaitTimeout <;> simp
@[simp] theorem execBcloseTimeout_goes (s : State) : Out.Goes (execBcloseTimeout s) := by fun_cases execBcloseTimeout <;> simp
@[simp] theorem execChunkArrival_goes (s : State) : Out.Goes (execChunkArrival s) := by fun_cases execChunkArrival <;> simp
@[simp] theorem execChunkAck_goes (s : State) : Out.Goes (execChunkAck s) := by fun_cases execChunkAck <;> simp
@[simp] theorem execChunkResend_goes (s : State) : Out.Goes (execChunkResend s) := by fun_cases execChunkResend <;> simp
@[simp] theorem execRoundTimeout_goes (s : State) : Out.Goes (execRoundTimeout s) := by fun_cases execRoundTimeout <;> simp
@[simp] theorem execRoundAbort_goes (s : State) : Out.Goes (execRoundAbort s) := by fun_cases execRoundAbort <;> simp
@[simp] theorem execColrunHoldEnd_goes (s : State) : Out.Goes (execColrunHoldEnd s) := by fun_cases execColrunHoldEnd <;> simp

/-! ### Every instruction and event -/

theorem exec_goes (s : State) (i : Instr) : Out.Goes (exec i s) := by
  cases i with
  | add | sub | mul | mulh | mulhu | div | divu | rem | remu | and | or | xor | andn | shl | shr | sar | rot | min |
  max | minu | maxu => exact s.alu_goes ..
  | addi | andi | ori | xori | shli | shri | sari | muli => exact s.alui_goes ..
  | mov | neg | not | clz | ctz | popc | sext | zext | ext | extu =>
    simp [execMov, execNeg, execNot, execClz, execCtz, execPopc, execSext, execZext, execExt, execExtu]
  | li16 | li32 | li64 | ins | sel | ppack | prd | fclass | ldep | lidx =>
    simp [execLi16, execLi32, execLi64, execIns, execSel, execPpack, execPrd, execFclass, execLdep, execLidx]
  | cmpEq | cmpNe | cmpLt | cmpGe | cmpLtu | cmpGeu | cmpTst | cmpNtst => exact s.cmp_goes ..
  | cmpiEq | cmpiNe | cmpiLt | cmpiGe | cmpiLtu | cmpiGeu | cmpiTst | cmpiNtst => exact s.cmpi_goes ..
  | pand | por | pxor | pandn | pnot | pmov | pset | pclr =>
    simp [execPand, execPor, execPxor, execPandn, execPnot, execPmov, execPset, execPclr]
  | fadd | fsub | fmul | fdiv | fmin | fmax | fsqrt | fabs | fneg | fma | fnma | cvtif | cvtfb | cvtbf | cvtfh | cvthf =>
    simp [execFadd, execFsub, execFmul, execFdiv, execFmin, execFmax, execFsqrt, execFabs, execFneg, execFma, execFnma,
      execCvtif, execCvtfb, execCvtbf, execCvtfh, execCvthf]
  | feq | flt | fle | funo => exact s.fpPred_goes ..
  | br => exact s.branch_goes ..
  | brk | trap => exact s.softTrap_goes ..
  | loop | loopi => exact s.openLoop_goes ..
  | csrr | csrw | csrs | csrc => simp [execCsrr, execCsrw, execCsrs, execCsrc]
  | ldBTi | ldBuTi | ldHTi | ldHuTi | ldWTi | ldWuTi | ldDTi => exact s.loadTI_goes ..
  | ldBTd | ldBuTd | ldHTd | ldHuTd | ldWTd | ldWuTd | ldDTd => exact s.loadTD_goes ..
  | stBTi | stHTi | stWTi | stDTi => exact s.storeTI_goes ..
  | stBTd | stHTd | stWTd | stDTd => exact s.storeTD_goes ..
  | amoadd | amoand | amoor | amoxor | amomin | amomax | amominu | amomaxu | amoswap | amocas => exact s.amo_goes ..
  | fenceAcq => exact s.fenceAcq_goes ..
  | recv | tryrecv => exact s.recv_goes ..
  | gjoin | gleave | gsize => simp [execGjoin, execGleave, execGsize]
  | vadd | vsub | vmul | vmax | vmin | vabs | vneg | vfma | vexp | vrcp | vrsq | vsigm | vsilu | vcvt | vset | vcpy |
  viota | vsel | vcmp | vscl => exact s.vec_goes ..
  | vsum | vssq | vamax | vmaxr | vminr | vdot => exact s.red_goes ..
  | vgath | vscat | vscadd => exact s.gat_goes ..
  | cpy | cpys | cpyx => exact s.copyInstr_goes ..
  | accld | accst => exact s.accMove_goes ..
  | mma | mmag => exact s.mma_goes ..
  | delta | dread | dscl => simp [execDelta, execDread, execDscl]
  | nop | yield | rempty | rstat | colst => exact s.done_goes _
  | exit | call | ckpt => exact ⟨_, rfl⟩
  | bt | bf => simp [execBt, execBf]
  | jr | callr => simp [execJr, execCallr]
  | rett | ret | leave => simp [execRett, execRet, execLeave]
  | punpack | pwr => simp [execPunpack, execPwr]
  | cvtfi => simp [execCvtfi]
  | ldc | ldf | stp | stf | femt | fest => simp [execLdc, execLdf, execStp, execStf, execFemt, execFest]
  | fenceRel | fenceFull | drain => simp [execFenceRel, execFenceFull, execDrain]
  | mig | task | tdone | siga | bstat => simp [execMig, execTask, execTdone, execSiga, execBstat]
  | _ => simp

theorem State.run_goes (s : State) (x) : Out.Goes (s.run x) := by
  unfold State.run
  split <;> exact exec_goes _ _

/-! ### A delivery, a turn, and what happens next -/

theorem State.deliverRecord_goes (s : State) (k x) : Out.Goes (s.deliverRecord k x) := by
  unfold State.deliverRecord
  dsimp only
  split
  · simp
  · exact exec_goes _ _

theorem State.conclude_goes (s : State) (x k reserve) {o} (ho : Out.Goes o) : Out.Goes (s.conclude x k reserve o) := by
  obtain ⟨t, rfl⟩ := ho
  simp [State.conclude]

theorem State.atPort_goes (s : State) {run x} (k reserve) (hr : Out.Goes (run s x)) :
    Out.Goes (s.atPort run x k reserve) := by
  fun_cases State.atPort <;> simp [State.conclude_goes, hr]

theorem State.handleWith_goes (s : State) {run x} (hr : Out.Goes (run s x)) : Out.Goes (State.handleWith run s x) := by
  fun_cases State.handleWith
  · simp
  · exact hr
  · exact s.atPort_goes _ _ hr

theorem State.dueWith_goes {run} {s : State} {n o} (hr : ∀ x, Out.Goes (run s x)) (e : State.dueWith run s n = some o) :
    Out.Goes o := by
  unfold State.dueWith at e
  split at e
  · cases e
    exact s.deliverRecord_goes _ _
  · obtain ⟨x, -, rfl⟩ := Option.map_eq_some_iff.1 e
    exact s.handleWith_goes (hr x)

theorem State.issue_goes (s : State) (d) : Out.Goes (s.issue d) := by
  unfold State.issue
  split
  · simp
  · simp
  · simp [exec_goes]

theorem State.issueAt_goes (s : State) (k j) : Out.Goes (s.issueAt k j) := by
  unfold State.issueAt
  dsimp only
  split
  · simp
  · simp
  · exact State.issue_goes _ _

theorem State.turn_goes (s : State) (k) : Out.Goes (s.turn k) := by
  simp [State.turn, State.issueAt_goes]

theorem State.advance_goes (s : State) : Out.Goes s.advance := by
  unfold State.advance State.advanceWith
  split
  · next e => exact State.dueWith_goes s.run_goes e
  · split
    · exact State.turn_goes _ _
    · split
      · next e =>
        obtain ⟨n, -, hn⟩ := List.exists_of_findSome?_eq_some e
        exact State.dueWith_goes s.run_goes hn
      · simp

/-- Settles O6: whatever happens next in a cycle, an event, a turn or its end, answers a next state, `exec` having a meaning for
every instruction; `step` answers a fault only where boot has halted. -/
theorem neverStops : Obligations.NeverStops := by
  intro s
  constructor
  · intro hb
    rw [step, if_neg hb]
    exact s.advance_goes
  · intro hb
    exact if_pos hb

end Sys2Proof.Machine
end

section
/-!
PROOFS. Boot, control intervals, thresholds, masks, residency, telemetry and the firmware's registers (01 R11, R12, R16 to R23, 03 R44,
05 R110). An operation that only schedules events and lists tiles makes the machine grow (`State.Grows`): time, device and the tiles there
were stay. So do the parts of each event but the one its clause speaks of; the folds over chiplets, ports, tiles and contexts are inductions
that keep this.
-/
namespace Sys2Proof.Machine

/-! ### Tables (Laws/State.lean has their reads after a write) -/

theorem Table.mem_keys_iff {α : Type} (t : Table α) (k : Nat) : k ∈ t.keys ↔ (t.get? k).isSome = true := by
  induction t with
  | nil => simp [Table.keys, Table.get?]
  | cons c t ih =>
    by_cases h : c.1 = k
    · simp [Table.keys, Table.get?, h]
    · simpa [Table.keys, Table.get?, h, Ne.symm h] using ih

theorem Table.mem_of_get? {α : Type} {t : Table α} {k : Nat} {v : α} (h : t.get? k = some v) : (k, v) ∈ t := by
  induction t with
  | nil => simp [Table.get?] at h
  | cons c t ih =>
    by_cases hc : c.1 = k
    · simp only [Table.get?, hc, if_true, Option.some.injEq] at h
      exact List.mem_cons.2 (.inl (by rw [← hc, ← h]))
    · exact .tail _ (ih (by simpa [Table.get?, hc] using h))

/-- A table that lists for each number of `l` what a function gives of it. -/
theorem Table.get?_map_of_mem {α : Type} (f : Nat → α) {l : List Nat} {k : Nat} (h : k ∈ l) :
    Table.get? (l.map fun i => (i, f i)) k = some (f k) := by
  induction l with
  | nil => simp at h
  | cons i l ih =>
    by_cases hi : i = k
    · simp [Table.get?, hi]
    · simpa [Table.get?, hi] using ih ((List.mem_cons.1 h).resolve_left (Ne.symm hi))

/-! ### Chiplets read back -/

@[simp] theorem State.chiplet_setChiplet_self (s : State) (c x) : (s.setChiplet c x).chiplet c = x := by
  simp [State.chiplet, State.setChiplet]
theorem State.chiplet_setChiplet_ne (s : State) {c c' : Nat} (x) (h : c' ≠ c) :
    (s.setChiplet c x).chiplet c' = s.chiplet c' := by
  simp [State.chiplet, State.setChiplet, Table.get?_set_ne _ _ h]

theorem State.chiplet_eq_of_chiplets {s u : State} (h : u.chiplets = s.chiplets) (c : Nat) : u.chiplet c = s.chiplet c := by
  simp [State.chiplet, h]

/-- A fold of operations each of which leaves the chiplets as they are. -/
theorem State.foldl_chiplets {α : Type} {f : State → α → State} (hf : ∀ s x, (f s x).chiplets = s.chiplets) (l : List α) (s : State) :
    (l.foldl f s).chiplets = s.chiplets :=
  List.foldlRecOn (motive := fun u : State => u.chiplets = s.chiplets) l f rfl fun u h x _ => (hf u x).trans h

/-! ### What a broadcast to a chiplet's tiles leaves alone -/

/-- `u` comes from `s` by listing tiles and putting events on the agenda: the tiles that `s` lists stand as they were. -/
structure State.Grows (s u : State) : Prop where
  now : u.now = s.now
  dev : u.dev = s.dev
  clusters : u.clusters = s.clusters
  tiles : ∀ k, (s.tiles.get? k).isSome = true → u.tiles.get? k = s.tiles.get? k
  agenda : ∀ x ∈ s.agenda, x ∈ u.agenda

namespace State.Grows

theorem refl (s : State) : s.Grows s := ⟨rfl, rfl, rfl, fun _ _ => rfl, fun _ h => h⟩

theorem trans {s t u : State} (h : s.Grows t) (h' : t.Grows u) : s.Grows u where
  now := h'.now.trans h.now
  dev := h'.dev.trans h.dev
  clusters := h'.clusters.trans h.clusters
  tiles k hk := by rw [h'.tiles k (by rw [h.tiles k hk, hk]), h.tiles k hk]
  agenda x hx := h'.agenda x (h.agenda x hx)

theorem foldl {α : Type} {f : State → α → State} (hf : ∀ (s : State) x, s.Grows (f s x)) (l : List α) (s : State) :
    s.Grows (l.foldl f s) :=
  List.foldlRecOn l f (refl s) fun _ h x _ => h.trans (hf _ x)

theorem tile {s u : State} (h : s.Grows u) {k : TileId} (hk : (s.tiles.get? k).isSome = true) : u.tile k = s.tile k := by
  simp [State.tile, h.tiles k hk]

theorem pending {s u : State} (h : s.Grows u) {ev arg} (hp : s.Pending ev arg) : u.Pending ev arg := by
  obtain ⟨x, hx, e⟩ := hp
  exact ⟨x, h.agenda x hx, e⟩

theorem chipOf {s u : State} (h : s.Grows u) {k : TileId} (hk : (s.tiles.get? k).isSome = true) : u.chipOf k = s.chipOf k := by
  simp only [State.chipOf, State.ptlOf, State.exceptionOf, State.gridOf, State.chipOn, State.physSlot, State.cluster, h.dev,
    h.clusters, h.tile hk]

theorem tilesOfChip {s u : State} (h : s.Grows u) {c : Nat} {k : TileId} (hk : k ∈ s.tilesOfChip c) : k ∈ u.tilesOfChip c := by
  simp only [State.tilesOfChip, List.mem_filter, Table.mem_keys_iff] at hk ⊢
  rw [h.tiles k hk.1, h.chipOf hk.1]
  exact hk

end State.Grows

theorem State.after_grows (s : State) (n ev arg) : s.Grows (s.after n ev arg) :=
  ⟨rfl, rfl, rfl, fun _ _ => rfl, by simp +contextual⟩
/-- What is put on the agenda is due from the cycle of the state that the event came to. -/
theorem State.after_dueIn {s u : State} (h : u.now = s.now) (n ev arg) : s.DueIn (u.after n ev arg) n ev arg :=
  ⟨_, List.mem_append_right _ (List.mem_singleton.2 rfl), by rw [h], rfl, rfl⟩
theorem State.setChiplet_grows (s : State) (c x) : s.Grows (s.setChiplet c x) := ⟨rfl, rfl, rfl, fun _ _ => rfl, fun _ h => h⟩
theorem State.draw_grows (s : State) : s.Grows s.draw := ⟨rfl, rfl, rfl, fun _ _ => rfl, fun _ h => h⟩
theorem State.sendOn_grows (s : State) (src dst cls n ev arg) : s.Grows (s.sendOn src dst cls n ev arg) :=
  ⟨rfl, rfl, rfl, fun _ _ => rfl, fun _ h => List.mem_append_left _ h⟩
theorem State.changePoint_grows (s : State) (c) : s.Grows (s.changePoint c) :=
  ⟨rfl, rfl, rfl, fun _ _ => rfl, fun _ h => List.mem_append_left _ h⟩

theorem State.listTile_of_listed {s : State} {k : TileId} (h : (s.tiles.get? k).isSome = true) : s.listTile k = s := if_pos h

theorem State.listTile_grows (s : State) (k) : s.Grows (s.listTile k) := by
  by_cases h : (s.tiles.get? k).isSome = true
  · rw [State.listTile_of_listed h]
    exact .refl s
  · rw [State.listTile, if_neg h]
    exact ⟨rfl, rfl, rfl, fun j hj => Table.get?_set_ne _ _ (by rintro rfl; exact h hj), fun _ h => List.mem_append_left _ h⟩
@[simp] theorem State.listTile_chiplets (s : State) (k) : (s.listTile k).chiplets = s.chiplets := by
  unfold State.listTile; split <;> rfl

/-! ### A new mask count goes out (01 R19) -/

theorem State.mem_everyTileOf {s : State} {c : Nat} {k : TileId} (h : k ∈ s.tilesOfChip c) : k ∈ s.everyTileOf c :=
  List.mem_append_left _ h

theorem State.sendMask_grows (s : State) (c m) : s.Grows (s.sendMask c m) :=
  .foldl (fun s k => (s.listTile_grows k).trans (State.sendOn_grows ..)) _ s
@[simp] theorem State.sendMask_chiplets (s : State) (c m) : (s.sendMask c m).chiplets = s.chiplets :=
  State.foldl_chiplets (fun s k => by simp) _ s

/-- A tile of the list over which a broadcast goes has its packet in the agenda. -/
theorem State.pending_foldl {f : State → TileId → State} {ev} {arg : TileId → Payload} (hf : ∀ (s : State) k, s.Grows (f s k))
    (hp : ∀ (s : State) k, (f s k).Pending ev (arg k)) {l : List TileId} {k : TileId} (hk : k ∈ l) (s : State) :
    (l.foldl f s).Pending ev (arg k) := by
  induction l generalizing s with
  | nil => simp at hk
  | cons i l ih =>
    rcases List.mem_cons.1 hk with rfl | hk
    · exact (State.Grows.foldl hf l _).pending (hp s k)
    · exact ih hk _

theorem State.sendMask_pending {s : State} {c : Nat} {k : TileId} (m) (hk : k ∈ s.tilesOfChip c) :
    (s.sendMask c m).Pending .maskChange (.tileNum k m) :=
  State.pending_foldl (arg := fun k => .tileNum k m) (fun s k => (s.listTile_grows k).trans (State.sendOn_grows ..))
    (fun _ _ => ⟨_, List.mem_append_right _ (List.mem_singleton.2 rfl), rfl, rfl⟩) (State.mem_everyTileOf hk) s

/-! ### Control intervals (01 R12, R16, R17) -/

theorem State.chiplet_changePoint (s : State) (c) :
    (s.changePoint c).chiplet c = { s.chiplet c with changing := true } := by
  rw [State.changePoint, State.draw, State.after]
  exact State.chiplet_setChiplet_self ..
theorem State.chiplet_changePoint_ne (s : State) {c c' : Nat} (h : c' ≠ c) : (s.changePoint c).chiplet c' = s.chiplet c' :=
  State.chiplet_setChiplet_ne _ _ h

/-- At the boundary of a control interval a chiplet becomes what `Chiplet.interval` makes of it, which may be changing its point; then a
new mask count goes out. -/
theorem State.intervalOf_eq (s : State) (c) :
    ∃ t b, s.Grows t ∧ t.chiplet c = { (s.chiplet c).interval with changing := b } ∧ (∀ c', c' ≠ c → t.chiplet c' = s.chiplet c') ∧
      s.intervalOf c = if (s.chiplet c).interval.mask = (s.chiplet c).mask then t else t.sendMask c (s.chiplet c).interval.mask := by
  have hg := s.setChiplet_grows c (s.chiplet c).interval
  by_cases h : ((s.chiplet c).interval.point != (s.chiplet c).point || (s.chiplet c).interval.boost != (s.chiplet c).boost) = true
  · refine ⟨_, true, hg.trans (State.changePoint_grows _ c), ?_, fun c' hc => ?_, ?_⟩
    · rw [State.chiplet_changePoint, State.chiplet_setChiplet_self]
    · rw [State.chiplet_changePoint_ne _ hc, State.chiplet_setChiplet_ne _ _ hc]
    · rw [State.intervalOf, if_pos h]
  · refine ⟨_, (s.chiplet c).interval.changing, hg, ?_, fun c' hc => ?_, ?_⟩
    · rw [State.chiplet_setChiplet_self]
    · rw [State.chiplet_setChiplet_ne _ _ hc]
    · rw [State.intervalOf, if_neg h]

theorem State.intervalOf_grows (s : State) (c) : s.Grows (s.intervalOf c) := by
  obtain ⟨t, b, hg, -, -, e⟩ := s.intervalOf_eq c
  rw [e]
  split
  · exact hg
  · exact hg.trans (t.sendMask_grows ..)

theorem State.chiplet_intervalOf (s : State) (c) :
    ∃ b, (s.intervalOf c).chiplet c = { (s.chiplet c).interval with changing := b } := by
  obtain ⟨t, b, -, h, -, e⟩ := s.intervalOf_eq c
  refine ⟨b, ?_⟩
  rw [e, ← h]
  split
  · rfl
  · exact State.chiplet_eq_of_chiplets (t.sendMask_chiplets ..) c
theorem State.chiplet_intervalOf_ne (s : State) {c c' : Nat} (hc : c' ≠ c) : (s.intervalOf c).chiplet c' = s.chiplet c' := by
  obtain ⟨t, b, -, -, h, e⟩ := s.intervalOf_eq c
  rw [e, ← h c' hc]
  split
  · rfl
  · exact State.chiplet_eq_of_chiplets (t.sendMask_chiplets ..) c'

theorem State.intervalOf_pending {s : State} {c : Nat} {k : TileId} (hm : (s.chiplet c).interval.mask ≠ (s.chiplet c).mask)
    (hk : k ∈ s.tilesOfChip c) : (s.intervalOf c).Pending .maskChange (.tileNum k (s.chiplet c).interval.mask) := by
  obtain ⟨t, b, hg, -, -, e⟩ := s.intervalOf_eq c
  rw [e, if_neg hm]
  exact State.sendMask_pending _ (hg.tilesOfChip hk)

theorem State.foldl_intervalOf_grows (l : List (Nat × Chiplet)) (s : State) :
    s.Grows (l.foldl (fun s x => s.intervalOf x.1) s) := .foldl (fun s x => s.intervalOf_grows x.1) l s

/-- The control interval goes over a chiplet once: before it only other chiplets have changed. -/
theorem State.foldl_intervalOf {l : List (Nat × Chiplet)} {c : Nat} (hn : (l.map Prod.fst).Nodup) (hc : c ∈ l.map Prod.fst) (s : State) :
    ∃ t, s.Grows t ∧ t.chiplet c = s.chiplet c ∧ (t.intervalOf c).Grows (l.foldl (fun s x => s.intervalOf x.1) s)
      ∧ (l.foldl (fun s x => s.intervalOf x.1) s).chiplet c = (t.intervalOf c).chiplet c := by
  induction l generalizing s with
  | nil => simp at hc
  | cons x l ih =>
    obtain ⟨hx, hn⟩ := List.nodup_cons.1 hn
    rcases List.mem_cons.1 hc with rfl | hc
    · refine ⟨s, .refl s, rfl, State.foldl_intervalOf_grows l _, ?_⟩
      refine List.foldlRecOn (motive := fun u : State => u.chiplet x.1 = (s.intervalOf x.1).chiplet x.1) l _ rfl fun u h y hy => ?_
      rw [State.chiplet_intervalOf_ne u fun e => hx (by rw [e]; exact List.mem_map_of_mem hy), h]
    · obtain ⟨t, hg, hs, hu⟩ := ih hn hc (s.intervalOf x.1)
      exact ⟨t, (s.intervalOf_grows x.1).trans hg, hs.trans (s.chiplet_intervalOf_ne (by rintro rfl; exact hx hc)), hu⟩

theorem Chiplet.interval_point (x : Chiplet) :
    x.interval.point = max (if x.throttle then x.lower else 0) (max (if x.ilim then x.lower else 0) x.firmware.point) := by
  unfold Chiplet.interval Chiplet.lowest
  cases x.ilim <;> rfl
theorem Chiplet.interval_mask (x : Chiplet) :
    x.interval.mask = max x.thermal.mask (max (if x.ilim then x.current.mask else 0) x.firmware.mask) := by
  unfold Chiplet.interval Chiplet.maskCount
  cases x.ilim <;> rfl
theorem Chiplet.interval_boost (x : Chiplet) :
    x.interval.boost = (x.boostReq && x.boostOn && !x.throttle && !x.ilim && x.firmware.point == 0) := by
  unfold Chiplet.interval Chiplet.lowest
  cases ht : x.throttle <;> cases hi : x.ilim <;> simp

theorem controlInterval_completes (s : State) (c) :
    Completes .controlInterval s fun u => s.DueIn u 25000 .controlInterval .none
      ∧ (s.chiplets.keys.Nodup → (s.chiplets.get? c).isSome = true → (s.chiplet c).powered = true →
          (∃ b, u.chiplet c = { (s.chiplet c).interval with changing := b })
          ∧ ((s.chiplet c).interval.mask ≠ (s.chiplet c).mask →
              ∀ t ∈ s.tilesOfChip c, u.Pending .maskChange (.tileNum t (s.chiplet c).interval.mask))) := by
  refine ⟨_, rfl, State.after_dueIn (State.foldl_intervalOf_grows _ s).now 25000 .controlInterval .none, fun hn hs hp => ?_⟩
  · obtain ⟨x, hx⟩ := Option.isSome_iff_exists.1 hs
    rw [State.chiplet, hx, Option.getD_some] at hp
    have hc : c ∈ (s.chiplets.filter fun x => x.2.powered).map Prod.fst :=
      List.mem_map.2 ⟨(c, x), List.mem_filter.2 ⟨Table.mem_of_get? hx, hp⟩, rfl⟩
    obtain ⟨t, hg, ht, hu, e⟩ := State.foldl_intervalOf (hn.sublist (List.filter_sublist.map _)) hc s
    refine ⟨?_, fun hm k hk => ?_⟩
    · obtain ⟨b, hb⟩ := t.chiplet_intervalOf c
      exact ⟨b, by rw [← ht, ← hb, ← e]; rfl⟩
    · rw [← ht] at hm ⊢
      exact (State.after_grows ..).pending (hu.pending (State.intervalOf_pending hm (hg.tilesOfChip hk)))

/-! ### Boot (01 R23, 03 R44) -/

theorem Happens.mono {ev arg} {s : State} {P Q : State → Prop} (h : Happens ev arg s P) (hpq : ∀ u, P u → Q u) :
    Happens ev arg s Q := fun hi => (h hi).imp fun u hu => ⟨hu.1, hpq u hu.2⟩

theorem boot_halts {s : State} (hf : s.dev.fuses.ok = false) : Happens .boot .none s fun u => u.dev.boot = .halted := by
  intro h
  simp [Completes, execBoot, h, hf]

/-- The firmware image that boot checks: the one the host has staged in the cellar first. -/
def State.bootImage (s : State) : List Byte :=
  if s.dev.staged.2 = 0 then s.dev.image else s.cellar.bytes s.dev.staged.1 s.dev.staged.2

/-- Both signatures of the image hold (03 R44). -/
def State.imageVerifies (s : State) : Bool :=
  Config.verifies s.dev.fuses.keyDigests.1 0 s.bootImage && Config.verifies s.dev.fuses.keyDigests.2 1 s.bootImage

theorem boot_recovers {s : State} (hf : s.dev.fuses.ok = true) (hv : s.imageVerifies = false) :
    Happens .boot .none s fun u => u.dev.boot = .recovery := by
  intro h
  simp only [State.imageVerifies, State.bootImage] at hv
  simp [Completes, execBoot, h, hf, hv]

/-- The probes and time-outs of the span ports. -/
def State.startPorts (s : State) : State :=
  (List.range 64).foldl (fun s p => (s.after 25000 .spanProbe (.num p)).after 2500000 .spanPortDown (.num p)) s

theorem State.startPorts_grows (s : State) : s.Grows s.startPorts :=
  .foldl (fun s _ => (s.after_grows ..).trans (State.after_grows ..)) _ s
@[simp] theorem State.startPorts_bulk (s : State) : s.startPorts.bulk = s.bulk := by simp [State.startPorts]
@[simp] theorem State.startPorts_chiplets (s : State) : s.startPorts.chiplets = s.chiplets :=
  State.foldl_chiplets (fun s p => by simp) _ s

/-- What boot makes of `s` when nothing fails. -/
structure State.Booted (s t : State) : Prop where
  now : t.now = s.now
  boot : t.dev.boot = .waitHost
  cellar : t.cellar = []
  host : t.host = s.host
  fuses : t.dev.fuses = s.dev.fuses
  image : t.dev.image = s.bootImage
  powered : ∀ p, p < 136 → (t.chiplet p).powered = !s.dev.fuses.spares.contains p
  up : ∀ p, p < 64 → (t.dev.port p).up = true
  agenda : ∀ y ∈ s.agenda, fromOutside y = true → y ∈ t.agenda

theorem State.Booted.grow {s t u : State} (h : s.Booted t) (hg : t.Grows u) (hb : u.bulk = t.bulk) (hc : u.chiplets = t.chiplets) :
    s.Booted u where
  now := hg.now.trans h.now
  boot := by rw [hg.dev, h.boot]
  cellar := (congrArg Prod.fst hb).trans h.cellar
  host := (congrArg Prod.snd hb).trans h.host
  fuses := by rw [hg.dev, h.fuses]
  image := by rw [hg.dev, h.image]
  powered p hp := by rw [State.chiplet_eq_of_chiplets hc, h.powered p hp]
  up p hp := by rw [hg.dev, h.up p hp]
  agenda y hy ho := hg.agenda y (h.agenda y hy ho)

theorem boot_eq {s : State} (hf : s.dev.fuses.ok = true) (hv : s.imageVerifies = true) (hi : s.input = .none) :
    ∃ t : State, exec .boot s = .next (t.startPorts.after 25000 .controlInterval .none) ∧ s.Booted t := by
  simp only [State.imageVerifies, State.bootImage] at hv
  constructor
  constructor
  · simp only [exec_boot, execBoot, hi, hf, hv, Bool.not_true, Bool.false_eq_true, if_false]
    rfl
  · refine ⟨rfl, rfl, rfl, rfl, rfl, rfl, fun p hp => ?_, fun p hp => ?_, fun y hy ho => List.mem_filter.2 ⟨hy, ho⟩⟩
    · simp [State.chiplet, Table.get?_map_of_mem _ (List.mem_range.2 hp)]
    · simp [Device.port, Table.get?_map_of_mem _ (List.mem_range.2 hp)]

theorem boot_waits {s : State} (hf : s.dev.fuses.ok = true) (hv : s.imageVerifies = true) :
    Happens .boot .none s fun u => s.Booted u ∧ s.DueIn u 25000 .controlInterval .none := by
  intro hi
  obtain ⟨t, e, ht⟩ := boot_eq hf hv hi
  have hu := ht.grow t.startPorts_grows t.startPorts_bulk t.startPorts_chiplets
  exact ⟨_, e, hu.grow (State.after_grows ..) (State.after_bulk ..) (State.after_chiplets ..), State.after_dueIn hu.now ..⟩

theorem bootReady_completes {s : State} (hb : s.dev.boot = .waitHost) (hd : s.dev.dmaWritten = true) (hp : s.dev.peersWritten = true) :
    Completes .bootReady s fun u => u.dev.boot = .ready ∧ s.DueIn u 250000 .telemetrySample .none := by
  simp [Completes, execBootReady, hb, hd, hp, State.DueIn]

theorem bootReady_waits {s : State} (h : s.dev.boot ≠ .waitHost ∨ s.dev.dmaWritten = false ∨ s.dev.peersWritten = false) :
    Completes .bootReady s (· = s) := by
  refine ⟨s, if_pos ?_, rfl⟩
  simpa using h

/-! ### Thresholds of a chiplet (01 R12, R16 to R18) -/

@[simp] theorem State.joinTurns_chiplets (s : State) (k) : (s.joinTurns k).chiplets = s.chiplets := by
  unfold State.joinTurns; split <;> rfl

theorem operatingPointSettled_happens (s : State) (c) :
    Happens .operatingPointSettled (.num c) s fun u => (u.chiplet c).changing = false := by
  intro hi
  refine ⟨_, by rw [exec_operatingPointSettled, execOperatingPointSettled, hi], ?_⟩
  dsimp only
  rw [State.chiplet_eq_of_chiplets (State.foldl_chiplets State.joinTurns_chiplets ..), State.chiplet_setChiplet_self]

theorem thermalThrottle_happens {s : State} {c} {v : Int} (hv : (s.chiplet c).thThrottle ≤ v) :
    Happens .thermalThrottle (.reading c v) s fun u =>
      ((u.chiplet c).throttle, (u.chiplet c).throttled, (u.chiplet c).boost) = (true, true, false) := by
  intro hi
  refine ⟨_, by rw [exec_thermalThrottle, execThermalThrottle, hi], ?_⟩
  dsimp only
  rw [if_neg (by omega)]
  split
  · rw [State.chiplet_changePoint, State.chiplet_setChiplet_self]
  · rw [State.chiplet_setChiplet_self]

theorem thermalThrottle_below {s : State} {c} {v : Int} (hv : v < (s.chiplet c).thThrottle) :
    Becomes .thermalThrottle (.reading c v) s s := by
  intro hi
  simp [execThermalThrottle, hi, hv]

theorem throttleRelease_happens (s : State) (c) {v : Int} (hv : v < 1600) :
    Happens .throttleRelease (.reading c v) s fun u => (u.chiplet c).throttle = false := by
  intro hi
  simp [Completes, execThrottleRelease, hi, hv]
theorem throttleRelease_above (s : State) (c) {v : Int} (hv : 1600 ≤ v) : Becomes .throttleRelease (.reading c v) s s := by
  intro hi
  simp [execThrottleRelease, hi, hv]

/-- The chiplet's record after the current limiter has tripped, with its mask count `m`. -/
def Chiplet.tripped (x : Chiplet) (m : Nat) : Chiplet :=
  let x := { x with ilim := true, sampleIlim := true, current := { x.current with mask := max x.current.mask m } }
  { x with mask := x.maskCount }

theorem currentLimitTrip_happens {s : State} {c amps} (ha : (s.chiplet c).thCurrent < amps) :
    Happens .currentLimitTrip (.nums c amps) s fun u => (u.chiplet c).ilim = true
      ∧ (u.chiplet c).mask = (u.chiplet c).maskCount ∧ 1 ≤ (u.chiplet c).mask
      ∧ ∀ t ∈ s.tilesOfChip c, u.Pending .maskChange (.tileNum t (u.chiplet c).mask) := by
  intro hi
  let y := (s.chiplet c).tripped (1 + Config.choice s.free % 15)
  have e : exec .currentLimitTrip s = .next ((s.setChiplet c y).draw.sendMask c y.mask) := by
    rw [exec_currentLimitTrip, execCurrentLimitTrip, hi]
    dsimp only
    rw [if_neg (by omega), if_neg (by omega)]
    rfl
  have hy : ((s.setChiplet c y).draw.sendMask c y.mask).chiplet c = y := by
    rw [State.chiplet_eq_of_chiplets (State.sendMask_chiplets ..)]
    exact s.chiplet_setChiplet_self c y
  refine ⟨_, e, ?_⟩
  simp only [hy]
  refine ⟨rfl, rfl, ?_, fun t ht => ?_⟩
  · have : 1 + Config.choice s.free % 15 ≤ y.mask :=
      le_trans (le_max_right _ _) (le_trans (le_max_left _ _) (le_max_right _ _))
    omega
  · exact State.sendMask_pending _ (((s.setChiplet_grows c y).trans (State.draw_grows _)).tilesOfChip ht)

theorem currentLimitTrip_below {s : State} {c amps} (ha : amps < (s.chiplet c).thCurrent) :
    Becomes .currentLimitTrip (.nums c amps) s s := by
  intro hi
  simp [execCurrentLimitTrip, hi, ha]

/-! ### Emergency saves (05 R110) -/

theorem emergencySave_below {s : State} {c} {v : Int} (hv : v < (s.chiplet c).thSave) :
    Becomes .emergencySave (.reading c v) s s := by
  intro hi
  simp [execEmergencySave, hi, hv]

/-- A record in the log leaves of a router all but its log. -/
theorem State.note_router (s : State) (k ev arg) : ∃ l, ((s.note k ev arg).tile k).r = { (s.tile k).r with log := l } := by
  unfold State.note State.logRec
  dsimp only
  split
  · exact ⟨_, rfl⟩
  · exact ⟨_, by rw [State.tile_setRouter_self]⟩
@[simp] theorem State.note_get?_ne (s : State) {k j : TileId} (ev arg) (h : j ≠ k) :
    (s.note k ev arg).tiles.get? j = s.tiles.get? j := by
  unfold State.note State.logRec
  dsimp only
  split
  · rfl
  · exact Table.get?_set_ne _ _ h

theorem State.requestBoundary_get?_ne (s : State) {k j : TileId} (h : j ≠ k) :
    (s.requestBoundary k).tiles.get? j = s.tiles.get? j := by
  unfold State.requestBoundary
  dsimp only
  (repeat' split) <;> exact Table.get?_set_ne _ _ h

theorem State.requestBoundary_listed (s : State) (k) : ((s.requestBoundary k).tiles.get? k).isSome = true := by
  unfold State.requestBoundary
  dsimp only
  (repeat' split) <;> simp [State.setCtx, State.setRouter, State.setTile]

/-- A live tile that is ordered to save notes the order and the cycle, and requests a boundary (05 R110). -/
theorem State.orderBoundary_live {s : State} {k : TileId} (hm : (s.tile k).r.mode = .live) (hr : (s.tile k).r.replay = false) :
    s.orderBoundary k 2 = ((s.note k .deferredBoundary (.tileNum k 2)).setRouter k
      { ((s.note k .deferredBoundary (.tileNum k 2)).tile k).r with saving := (s.tile k).r.cyc + 1 }).requestBoundary k := by
  simp [State.orderBoundary, hm, hr]

/-- A tile that is ordered to save changes no other. -/
theorem State.orderSave_get?_ne (s : State) {k j : TileId} (h : j ≠ k) :
    (s.orderBoundary k 2).tiles.get? j = s.tiles.get? j := by
  unfold State.orderBoundary
  dsimp only
  split
  · exact Table.get?_set_ne _ _ h
  · simp only [OfNat.ofNat_ne_one, if_false, if_true]
    rw [State.requestBoundary_get?_ne _ h]
    exact (Table.get?_set_ne _ _ h).trans (State.note_get?_ne _ _ _ h)

theorem State.listed_of_get?_eq {s u : State} {k : TileId} (h : u.tiles.get? k = s.tiles.get? k) : u.tile k = s.tile k := by
  simp [State.tile, h]

/-- Router `r'` of a live tile runs the cycle of `r`, with the boundary being shipped that `r` has. -/
def Router.OnCourse (r r' : Router) : Prop := r'.mode = .live ∧ r'.replay = false ∧ r'.cyc = r.cyc ∧ r'.ship = r.ship

/-- Router `r'` saves from the cycle of `r` on: it has asked for a boundary, unless one was being shipped. -/
def Router.Saves (r r' : Router) : Prop := r'.saving = r.cyc + 1 ∧ (r.ship = none → r'.want = true)

theorem State.orderSave_router {s : State} {k : TileId} {r : Router} (h : r.OnCourse (s.tile k).r) :
    r.OnCourse ((s.orderBoundary k 2).tile k).r ∧ r.Saves ((s.orderBoundary k 2).tile k).r := by
  obtain ⟨hm, hr, hc, hs⟩ := h
  obtain ⟨l, hl⟩ := s.note_router k .deferredBoundary (.tileNum k 2)
  rw [State.orderBoundary_live hm hr, hl, Router.OnCourse, Router.Saves, ← hc, ← hs]
  cases hs : (s.tile k).r.ship <;> simp [State.requestBoundary, hm, hr, hs]

/-- A tile that the machine does not list is listed first. -/
def State.orderSave (s : State) (k : TileId) : State := (s.listTile k).orderBoundary k 2

/-- Of the orders to the tiles of a list, tile `k` follows its own, and no other changes it. -/
theorem State.foldl_orderSave {k : TileId} {r : Router} (l : List TileId) {s : State} (hl : (s.tiles.get? k).isSome = true)
    (hc : r.OnCourse (s.tile k).r) (hs : k ∈ l ∨ r.Saves (s.tile k).r) : r.Saves ((l.foldl State.orderSave s).tile k).r := by
  induction l generalizing s with
  | nil => exact hs.resolve_left (by simp)
  | cons j l ih =>
    by_cases hj : j = k
    · subst hj
      have h : s.orderSave j = s.orderBoundary j 2 := by rw [State.orderSave, State.listTile_of_listed hl]
      obtain ⟨hc', hs'⟩ := State.orderSave_router hc
      exact ih (by rw [h, State.orderBoundary_live hc.1 hc.2.1]; exact State.requestBoundary_listed ..) (h ▸ hc') (.inr (h ▸ hs'))
    · have h : (s.orderSave j).tiles.get? k = s.tiles.get? k := by
        rw [State.orderSave, State.orderSave_get?_ne _ (Ne.symm hj), (s.listTile_grows j).tiles k hl]
      have ht := State.listed_of_get?_eq h
      exact ih (h ▸ hl) (ht ▸ hc) (ht ▸ hs.imp_left fun hm => (List.mem_cons.1 hm).resolve_left (Ne.symm hj))

theorem emergencySave_happens {s : State} {c} {v : Int} (hv : (s.chiplet c).thSave ≤ v) :
    Happens .emergencySave (.reading c v) s fun u => ∀ t ∈ s.tilesOfChip c, (s.tile t).r.mode = .live → (s.tile t).r.replay = false →
      (s.tile t).r.Saves (u.tile t).r := by
  intro hi
  refine ⟨_, by rw [exec_emergencySave, execEmergencySave, hi], fun t ht hm hr => ?_⟩
  rw [if_neg (by omega)]
  exact State.foldl_orderSave _ ((Table.mem_keys_iff ..).1 (List.mem_filter.1 ht).1) ⟨hm, hr, rfl, rfl⟩
    (.inl (State.mem_everyTileOf ht))

/-! ### Mask changes (01 R19) -/

theorem SameMemory.refl (s : State) : SameMemory s s := ⟨fun _ _ => rfl, fun _ => rfl, fun _ => rfl⟩
theorem SameMemory.trans {s t u : State} (h : SameMemory s t) (h' : SameMemory t u) : SameMemory s u :=
  ⟨fun k a => (h'.1 k a).trans (h.1 k a), fun a => (h'.2.1 a).trans (h.2.1 a), fun a => (h'.2.2 a).trans (h.2.2 a)⟩

theorem State.setTile_sameMemory {s : State} {k : TileId} {t : Tile} (h : t.c.pool = (s.tile k).c.pool) : SameMemory s (s.setTile k t) := by
  refine ⟨fun j a => ?_, fun _ => rfl, fun _ => rfl⟩
  rw [State.poolByte, State.poolByte, State.tile_setTile]
  split
  · subst_vars
    rw [h]
  · rfl
theorem State.setRouter_sameMemory (s : State) (k r) : SameMemory s (s.setRouter k r) := State.setTile_sameMemory rfl
theorem State.log_sameMemory (s : State) (k kind slot len ev arg val) : SameMemory s (s.log k kind slot len ev arg val) := by
  unfold State.log State.logRec
  dsimp only
  split
  · exact .refl s
  · exact s.setRouter_sameMemory ..

/-- `u` has the memories and the masks of `s`, at the same time. -/
structure State.Refits (s u : State) : Prop where
  now : u.now = s.now
  mem : SameMemory s u
  mask : ∀ j, (u.tile j).r.mask = (s.tile j).r.mask

theorem State.Refits.refl (s : State) : s.Refits s := ⟨rfl, .refl s, fun _ => rfl⟩
theorem State.Refits.trans {s t u : State} (h : s.Refits t) (h' : t.Refits u) : s.Refits u where
  now := h'.now.trans h.now
  mem := h.mem.trans h'.mem
  mask j := (h'.mask j).trans (h.mask j)

theorem State.setTile_refits {s : State} {k : TileId} {t : Tile} (hp : t.c.pool = (s.tile k).c.pool)
    (hm : t.r.mask = (s.tile k).r.mask) : s.Refits (s.setTile k t) := by
  refine ⟨rfl, State.setTile_sameMemory hp, fun j => ?_⟩
  rw [State.tile_setTile]
  split
  · subst_vars
    exact hm
  · rfl
theorem State.setCtx_refits {s : State} {k : TileId} {c : TileCtx} (h : c.pool = (s.tile k).c.pool) : s.Refits (s.setCtx k c) :=
  State.setTile_refits h rfl
theorem State.setRouter_refits {s : State} {k : TileId} {r : Router} (h : r.mask = (s.tile k).r.mask) : s.Refits (s.setRouter k r) :=
  State.setTile_refits rfl h
theorem State.ask_refits (s : State) (r g) : s.Refits (s.ask r g) := State.setRouter_refits rfl

theorem State.enterSlot_refits (s : State) (k j th refused) : s.Refits (s.enterSlot k j th refused) := by
  unfold State.enterSlot
  dsimp only
  split
  · exact State.setTile_refits rfl rfl
  · refine .trans ?_ (State.ask_refits ..)
    exact State.setTile_refits rfl rfl

theorem State.refill_refits (s : State) (k n) : s.Refits (s.refill k n) := by
  induction n generalizing s with
  | zero => exact .refl s
  | succ n ih =>
    unfold State.refill
    split
    · refine .trans (.trans ?_ (State.enterSlot_refits ..)) (ih _)
      exact State.setCtx_refits rfl
    · exact .refl s

/-- A mask change notes itself in the log, sets the mask and drops a residency step that is due later; then slots fill. -/
theorem maskChange_eq {s : State} {k m} (hi : s.input = .tileNum k m) :
    ∃ t : State, exec .maskChange s = .next
        (if min m 15 = 0 then t.refill k 16 else (t.refill k 16).after 65536 .residencyStep (.tile k))
      ∧ t.now = s.now ∧ (t.tile k).r.mask = min m 15 ∧ SameMemory s t := by
  refine ⟨_, by rw [exec_maskChange, execMaskChange, hi], ?_, ?_, ?_⟩
  · simp [State.log]
  · exact congrArg (fun t : Tile => t.r.mask) (State.tile_setRouter_self ..)
  · exact (s.log_sameMemory ..).trans (State.setRouter_sameMemory ..)

theorem maskChange_happens (s : State) (k m) :
    Happens .maskChange (.tileNum k m) s fun u => (u.tile k).r.mask = min m 15
      ∧ (m ≠ 0 → s.DueIn u 65536 .residencyStep (.tile k)) ∧ SameMemory s u := by
  intro hi
  obtain ⟨t, e, hn, hm, hs⟩ := maskChange_eq hi
  have hr := t.refill_refits k 16
  refine ⟨_, e, ?_⟩
  split
  · exact ⟨(hr.mask k).trans hm, fun h => by omega, hs.trans hr.mem⟩
  · exact ⟨(hr.mask k).trans hm, fun _ => State.after_dueIn (hr.now.trans hn) .., hs.trans hr.mem⟩

/-! ### Residency steps (01 R20) -/

/-- A thread that has just got a slot. -/
def Thread.settled (th : Thread) : Thread := { th with waits := 0 }

theorem Tile.slot_swapSlots (t : Tile) (w u i : Fin 16) (h : w ≠ u) :
    (t.swapSlots w u).slot i =
      if i = w then (t.slot u).map Thread.settled else if i = u then (t.slot w).map Thread.settled else t.slot i := by
  unfold Tile.swapSlots
  dsimp only
  split
  · subst_vars
    rw [Tile.slot_setSlot_self]
    rfl
  · rename_i hw
    rw [Tile.slot_setSlot_ne _ _ hw]
    split
    · subst_vars
      rw [Tile.slot_setSlot_self]
      rfl
    · rename_i hu
      rw [Tile.slot_setSlot_ne _ _ hu]

/-- Exchanges between two sets of slots do not touch a slot of neither. -/
theorem Tile.slot_foldl_swapSlots_of_notMem {ps : List (Fin 16 × Fin 16)} {i : Fin 16} (hd : ∀ p ∈ ps, p.1 ≠ p.2)
    (hi : ∀ p ∈ ps, i ≠ p.1 ∧ i ≠ p.2) (t : Tile) : (ps.foldl (fun t p => t.swapSlots p.1 p.2) t).slot i = t.slot i := by
  refine List.foldlRecOn (motive := fun u : Tile => u.slot i = t.slot i) ps _ rfl fun u h p hp => ?_
  rw [Tile.slot_swapSlots _ _ _ _ (hd p hp), if_neg (hi p hp).1, if_neg (hi p hp).2, h]

/-- Each thread of the first slots stands in its partner slot after the exchanges. -/
theorem Tile.slot_foldl_swapSlots {ps : List (Fin 16 × Fin 16)} (hd : ∀ p ∈ ps, ∀ q ∈ ps, p.1 ≠ q.2) (hw : (ps.map Prod.fst).Nodup)
    (hu : (ps.map Prod.snd).Nodup) {p : Fin 16 × Fin 16} (hp : p ∈ ps) (t : Tile) :
    (ps.foldl (fun t p => t.swapSlots p.1 p.2) t).slot p.2 = (t.slot p.1).map Thread.settled := by
  induction ps generalizing t with
  | nil => simp at hp
  | cons q ps ih =>
    obtain ⟨hqw, hw⟩ := List.nodup_cons.1 hw
    obtain ⟨hqu, hu⟩ := List.nodup_cons.1 hu
    have hq : q.1 ≠ q.2 := hd q (.head _) q (.head _)
    rcases List.mem_cons.1 hp with rfl | hp
    · rw [List.foldl_cons, Tile.slot_foldl_swapSlots_of_notMem (fun r hr => hd r (.tail _ hr) r (.tail _ hr))
        (fun r hr => ⟨(hd r (.tail _ hr) p (.head _)).symm, fun e => hqu (by rw [e]; exact List.mem_map_of_mem hr)⟩),
        Tile.slot_swapSlots _ _ _ _ hq, if_neg hq.symm, if_pos rfl]
    · rw [List.foldl_cons, ih (fun r hr r' hr' => hd r (.tail _ hr) r' (.tail _ hr')) hw hu hp,
        Tile.slot_swapSlots _ _ _ _ hq, if_neg fun e => hqw (by rw [← e]; exact List.mem_map_of_mem hp),
        if_neg (hd p (.tail _ hp) q (.head _))]

theorem Tile.mem_waiting {t : Tile} {y : Fin 16 × Thread} (h : y ∈ t.waiting) : t.slot y.1 = some y.2 ∧ t.unmasked y.1 = false := by
  simp only [Tile.waiting, mem_sortBy, List.mem_filterMap] at h
  obtain ⟨j, -, h⟩ := h
  split at h
  · rename_i th e
    split at h
    · cases h
      simp_all
    · cases h
  · cases h

theorem Tile.nodup_waiting (t : Tile) : (t.waiting.map Prod.fst).Nodup := by
  refine ((sortBy_perm _ _).map _).nodup_iff.2 ?_
  rw [List.map_filterMap]
  have hf : ∀ i b, b ∈ ((match t.slot i with
      | some th => if !t.unmasked i && th.park.isNone then some (i, th) else none
      | none => none).map Prod.fst) → i = b := by
    intro i b h
    (repeat' split at h) <;> simp_all
  exact (List.nodup_finRange 16).filterMap fun i j b hi hj => (hf i b hi).trans (hf j b hj).symm

theorem Tile.mem_movable {t : Tile} {j : Fin 16} (h : j ∈ t.movable) : t.unmasked j = true := by
  simp only [Tile.movable, List.mem_filter, Bool.and_eq_true] at h
  exact h.2.1

theorem Tile.nodup_movable (t : Tile) : t.movable.Nodup := (List.nodup_finRange 16).filter _

theorem map_snd_zip_sublist {α β : Type} (l : List α) (m : List β) : ((l.zip m).map Prod.snd).Sublist m := by
  induction l generalizing m with
  | nil => simp
  | cons x l ih =>
    cases m with
    | nil => simp
    | cons y m => exact (ih m).cons_cons y

/-- A residency step with an unmasked slot for every waiting thread moves each into one. -/
theorem Tile.slot_exchange {t : Tile} (h : t.waiting.length ≤ t.movable.length) {y : Fin 16 × Thread} (hy : y ∈ t.waiting) :
    ∃ j, t.unmasked j = true ∧ t.exchange.slot j = some y.2.settled := by
  obtain ⟨i, hi, rfl⟩ := List.mem_iff_getElem.1 hy
  have hz : (t.waiting[i].1, t.movable[i]) ∈ (t.waiting.map Prod.fst).zip t.movable :=
    List.mem_iff_getElem.2 ⟨i, by simp; omega, by simp⟩
  refine ⟨t.movable[i], Tile.mem_movable (List.getElem_mem _), ?_⟩
  rw [Tile.exchange, Tile.slot_foldl_swapSlots (fun p hp q hq e => ?disjoint) ?fst ?snd hz, (Tile.mem_waiting hy).1, Option.map_some]
  case disjoint =>
    obtain ⟨w, hw, hwp⟩ := List.mem_map.1 (List.of_mem_zip hp).1
    have hu := Tile.mem_movable (List.of_mem_zip hq).2
    rw [← e, ← hwp, (Tile.mem_waiting hw).2] at hu
    cases hu
  case fst =>
    rw [List.map_fst_zip (by simpa using h)]
    exact t.nodup_waiting
  case snd => exact t.nodup_movable.sublist (map_snd_zip_sublist ..)

theorem residencyStep_unmasked {s : State} {k} (h : (s.tile k).r.mask = 0) : Becomes .residencyStep (.tile k) s s := by
  intro hi
  simp [execResidencyStep, hi, h]

theorem residencyStep_happens {s : State} {k} (hm : (s.tile k).r.mask ≠ 0)
    (hl : (s.tile k).waiting.length ≤ (s.tile k).movable.length) :
    Happens .residencyStep (.tile k) s fun u =>
      ∀ y ∈ (s.tile k).waiting, ∃ j, (s.tile k).unmasked j = true ∧ (u.tile k).slot j = some y.2.settled := by
  intro hi
  refine ⟨_, by rw [exec_residencyStep, execResidencyStep, hi]; exact if_neg hm, fun y hy => ?_⟩
  obtain ⟨j, hj, e⟩ := Tile.slot_exchange hl hy
  refine ⟨j, hj, ?_⟩
  split <;> exact (congrArg (·.slot j) (State.tile_setTile_self ..)).trans e

/-! ### Telemetry (01 R21, R22) -/

/-- A write of firmware changes the memories, and of the device no more than which poisoned lines are clean. -/
theorem State.writePlaces_eq (s : State) (host) (ps : List (Nat × Nat)) (bs) :
    ∃ m h l, s.writePlaces host ps bs = { s with cellar := m, host := h, dev := { s.dev with cleaned := l } } := by
  induction ps generalizing s bs with
  | nil => exact ⟨_, _, _, rfl⟩
  | cons p ps ih =>
    unfold State.writePlaces
    dsimp only
    split
    · obtain ⟨m, h, l, e⟩ := ih (s.hostWrite p.1 (bs.take p.2)) (bs.drop p.2)
      exact ⟨m, h, l, e⟩
    · obtain ⟨m, h, l, e⟩ := ih (s.cellarWrite p.1 (bs.take p.2)) (bs.drop p.2)
      exact ⟨m, h, l, e⟩

theorem State.fwWrite_eq (s : State) (ctx a bs) :
    ∃ m h l, (s.fwWrite ctx a bs).1 = { s with cellar := m, host := h, dev := { s.dev with cleaned := l } } := by
  unfold State.fwWrite
  dsimp only
  split
  · exact ⟨_, _, _, rfl⟩
  · exact s.writePlaces_eq ..

/-- The free values play no part in a write of firmware. -/
theorem State.fwPlaces_free (s : State) (f ctx host va n fuel) :
    State.fwPlaces { s with free := f } ctx host va n fuel = s.fwPlaces ctx host va n fuel := by
  induction fuel generalizing va n with
  | zero => rfl
  | succ fuel ih => simp only [State.fwPlaces, ih]; rfl
theorem State.writePlaces_free (s : State) (f host ps bs) :
    State.writePlaces { s with free := f } host ps bs = { s.writePlaces host ps bs with free := f } := by
  induction ps generalizing s bs with
  | nil => rfl
  | cons p ps ih =>
    unfold State.writePlaces
    dsimp only
    split
    · exact ih (s.hostWrite ..) _
    · exact ih (s.cellarWrite ..) _
theorem State.fwWrite_free_cellar (s : State) (f ctx a bs) :
    (State.fwWrite { s with free := f } ctx a bs).1.cellar = (s.fwWrite ctx a bs).1.cellar := by
  simp only [State.fwWrite, State.fwPlaces_free, State.writePlaces_free]
  split <;> rfl

/-- What the sample of a chiplet for a context can change: memories, free values, and whether a sample of the chiplet was dropped. -/
theorem State.sampleFor_eq {s : State} {n : Nat} {y : Ctx} (hy : s.dev.ctx? n = some y) (c) :
    ∃ m h f l d, s.sampleFor n c = { s with
      cellar := m, host := h, free := f
      dev := { s.dev with cleaned := l, contexts := s.dev.contexts.set n { y with dropped := d } } } := by
  unfold State.sampleFor
  rw [hy]
  dsimp only
  split
  · exact ⟨_, _, _, _, _, rfl⟩
  · obtain ⟨m, h, l, e⟩ := State.fwWrite_eq { s.cellarWrite (y.tbase + 32 * ((wordAt (s.fwRead 0 (y.record + 40) 16).2 0).toNat
      % 2 ^ y.tlog)) (s.sampleBytes c (y.dropped.contains c)) with free := s.free + 10 } 0 (y.record + 40)
      (leBytes 8 ((wordAt (s.fwRead 0 (y.record + 40) 16).2 0).toNat + 1))
    rw [e]
    exact ⟨_, _, _, _, _, rfl⟩

theorem State.sampleFor_none {s : State} {n : Nat} (hy : s.dev.ctx? n = none) (c) : s.sampleFor n c = s := by
  unfold State.sampleFor
  rw [hy]

@[simp] theorem State.sampleFor_now (s : State) (n c) : (s.sampleFor n c).now = s.now := by
  cases hy : s.dev.ctx? n with
  | none => rw [State.sampleFor_none hy]
  | some y =>
    obtain ⟨m, h, f, l, d, e⟩ := State.sampleFor_eq hy c
    rw [e]

/-- A fold of operations each of which takes no time. -/
theorem State.foldl_now {α : Type} {f : State → α → State} (hf : ∀ s x, (f s x).now = s.now) (l : List α) (s : State) :
    (l.foldl f s).now = s.now :=
  List.foldlRecOn (motive := fun u : State => u.now = s.now) l f rfl fun u h x _ => (hf u x).trans h

/-- Where a tile lies is read from no memory, no free value and no count of samples. -/
theorem State.chipOf_sampled {s u : State} {n : Nat} {y : Ctx} (hy : s.dev.ctx? n = some y) {l d}
    (ht : u.tiles = s.tiles) (hc : u.clusters = s.clusters)
    (hd : u.dev = { s.dev with cleaned := l, contexts := s.dev.contexts.set n { y with dropped := d } }) (k : TileId) :
    u.chipOf k = s.chipOf k := by
  have hg : u.gridOf (clusterOf k) k = s.gridOf (clusterOf k) k := by
    simp only [State.gridOf, State.chipOn, State.cluster, State.tile, ht, hc, hd, Device.ctx?, Device.physChip]
    by_cases h : ((s.tiles.get? k).getD Tile.reset).r.ctx = n
    · rw [h, Table.get?_set_self, show Table.get? s.dev.contexts n = some y from hy]
    · rw [Table.get?_set_ne _ _ h]
  simp only [State.chipOf, State.ptlOf, State.exceptionOf, State.physSlot, State.cluster, hg, hc, hd]

/-- The tiles of a context, and so its chiplets, are read from the tiles' residents. -/
theorem State.chipsOf_sampleFor {s : State} {n : Nat} {y : Ctx} (hy : s.dev.ctx? n = some y) (c m) :
    (s.sampleFor n c).chipsOf m = s.chipsOf m := by
  obtain ⟨_, _, _, _, _, e⟩ := State.sampleFor_eq hy c
  have hk : (s.sampleFor n c).chipOf = s.chipOf :=
    funext (State.chipOf_sampled (u := s.sampleFor n c) hy (by rw [e]) (by rw [e]) (by rw [e]))
  have ht : (s.sampleFor n c).tilesOf m = s.tilesOf m := by rw [e]; rfl
  rw [State.chipsOf, State.chipsOf, hk, ht]

/-- The whole of a telemetry sample when one context holds tiles, all of one chiplet. -/
theorem telemetrySample_eq {s : State} {n c : Nat} {y : Ctx} (hn : s.dev.contexts = [(n, y)]) (hh : y.holds = true)
    (hc : s.chipsOf n = [c]) :
    exec .telemetrySample s = .next (((s.sampleFor n c).setChiplet c { s.chiplet c with
      seq := ((s.chiplet c).seq + 1) % 2 ^ 32, sampleThr := false, sampleIlim := false }).after 250000 .telemetrySample .none) := by
  have hy : s.dev.ctx? n = some y := by simp [Device.ctx?, hn, Table.get?]
  have hx : (s.sampleFor n c).chiplet c = s.chiplet c := by
    obtain ⟨m, h, f, l, d, e⟩ := State.sampleFor_eq hy c
    rw [e]
    rfl
  have hs : (s.sampleFor n c).chipsOf n = [c] := (State.chipsOf_sampleFor hy c n).trans hc
  simp [execTelemetrySample, hn, hh, hc, hs, hx]

theorem telemetrySample_due (s : State) : Completes .telemetrySample s fun u => s.DueIn u 250000 .telemetrySample .none := by
  refine ⟨_, rfl, State.after_dueIn ?_ ..⟩
  refine (State.foldl_now ?_ ..).trans (State.foldl_now ?_ ..)
  · exact fun _ _ => rfl
  · exact fun s n => State.foldl_now (fun s c => s.sampleFor_now n c) ..

/-- A sample that finds its ring full is dropped. -/
theorem State.sampleFor_full {s : State} {n : Nat} {y : Ctx} (hy : s.dev.ctx? n = some y) (c)
    (hf : 2 ^ y.tlog ≤ (wordAt (s.fwRead 0 (y.record + 40) 16).2 0 - wordAt (s.fwRead 0 (y.record + 40) 16).2 1).toNat) :
    s.sampleFor n c = s.setCtxRec n { y with dropped := setAdd y.dropped c } := by
  unfold State.sampleFor
  rw [hy]
  exact if_pos (.inr (by simpa using hf))

/-- A sample that finds room is written, and the producer index goes on. -/
theorem State.sampleFor_room_cellar {s : State} {n : Nat} {y : Ctx} (hy : s.dev.ctx? n = some y) (c)
    (hr : (s.fwRead 0 (y.record + 40) 16).1 = 0)
    (hf : (wordAt (s.fwRead 0 (y.record + 40) 16).2 0 - wordAt (s.fwRead 0 (y.record + 40) 16).2 1).toNat < 2 ^ y.tlog) :
    (s.sampleFor n c).cellar = ((s.cellarWrite (y.tbase + 32 * ((wordAt (s.fwRead 0 (y.record + 40) 16).2 0).toNat % 2 ^ y.tlog))
      (s.sampleBytes c (y.dropped.contains c))).fwWrite 0 (y.record + 40)
        (leBytes 8 ((wordAt (s.fwRead 0 (y.record + 40) 16).2 0).toNat + 1))).1.cellar := by
  rw [← State.fwWrite_free_cellar _ (s.free + 10)]
  simp only [State.sampleFor, hy, hr, Nat.not_le.2 hf, ne_eq, not_true, decide_false, Bool.false_eq_true, or_self, if_false]
  rfl

theorem telemetrySample_completes (s : State) (n c) :
    Completes .telemetrySample s fun u => s.DueIn u 250000 .telemetrySample .none
      ∧ ∀ y, s.dev.contexts = [(n, y)] → y.holds = true → s.chipsOf n = [c] →
          (u.chiplet c).seq = ((s.chiplet c).seq + 1) % 2 ^ 32 ∧ u.cellar = (s.sampleFor n c).cellar ∧ u.dev = (s.sampleFor n c).dev := by
  obtain ⟨t, ht, hd⟩ := telemetrySample_due s
  refine ⟨t, ht, hd, fun y hn hh hc => ?_⟩
  rw [telemetrySample_eq hn hh hc] at ht
  cases ht
  refine ⟨?_, rfl, rfl⟩
  exact congrArg Chiplet.seq (State.chiplet_setChiplet_self ..)

/-- A sample that meets a full ring changes no memory, and is remembered as dropped. -/
theorem State.sampleFor_full_dropped {s : State} {n : Nat} {y : Ctx} (hy : s.dev.ctx? n = some y) (c)
    (hf : 2 ^ y.tlog ≤ (wordAt (s.fwRead 0 (y.record + 40) 16).2 0 - wordAt (s.fwRead 0 (y.record + 40) 16).2 1).toNat) :
    (s.sampleFor n c).cellar = s.cellar ∧ ((s.sampleFor n c).dev.ctx? n).map Ctx.dropped = some (setAdd y.dropped c) := by
  rw [State.sampleFor_full hy c hf]
  exact ⟨rfl, congrArg (Option.map Ctx.dropped) (Table.get?_set_self ..)⟩

/-! ### The firmware's registers (01 R16, 05 R91, R93, 06 R140) -/

@[simp] theorem State.cluster_setCluster_self (s : State) (k x) : (s.setCluster k x).cluster k = x := by
  simp [State.cluster, State.setCluster]

/-- A write of firmware that leaves `x` in the record of chiplet `c`. -/
theorem firmwareRegister_chiplet {arg} {s : State} {c : Nat} {P : Chiplet → Prop} (x : Chiplet)
    (h : s.input = arg → exec .firmwareRegisterWrite s = .next (s.setChiplet c x)) (hx : P x) :
    Happens .firmwareRegisterWrite arg s fun u => P (u.chiplet c) :=
  fun hi => ⟨_, h hi, (congrArg P (State.chiplet_setChiplet_self s c x)).mpr hx⟩

section
variable (s : State) (a b d : Word)

theorem firmwareRegister_throttle :
    Happens .firmwareRegisterWrite (.words 0 [a, b]) s fun u => (u.chiplet a.toNat).thThrottle = min b.toNat 1680 :=
  firmwareRegister_chiplet (P := fun x => x.thThrottle = _) { s.chiplet a.toNat with thThrottle := min b.toNat 1680 }
    (fun hi => by rw [exec_firmwareRegisterWrite, execFirmwareRegisterWrite, hi]; rfl) (by simp)
theorem firmwareRegister_save :
    Happens .firmwareRegisterWrite (.words 1 [a, b]) s fun u => (u.chiplet a.toNat).thSave = min b.toNat 1840 :=
  firmwareRegister_chiplet (P := fun x => x.thSave = _) { s.chiplet a.toNat with thSave := min b.toNat 1840 }
    (fun hi => by rw [exec_firmwareRegisterWrite, execFirmwareRegisterWrite, hi]; rfl) (by simp)
theorem firmwareRegister_current :
    Happens .firmwareRegisterWrite (.words 2 [a, b]) s fun u => (u.chiplet a.toNat).thCurrent = min b.toNat 4200 :=
  firmwareRegister_chiplet (P := fun x => x.thCurrent = _) { s.chiplet a.toNat with thCurrent := min b.toNat 4200 }
    (fun hi => by rw [exec_firmwareRegisterWrite, execFirmwareRegisterWrite, hi]; rfl) rfl
theorem firmwareRegister_trip :
    Happens .firmwareRegisterWrite (.words 8 [a, b]) s fun u => (u.chiplet a.toNat).thTrip = min b.toNat 2000 :=
  firmwareRegister_chiplet (P := fun x => x.thTrip = _) { s.chiplet a.toNat with thTrip := min b.toNat 2000 }
    (fun hi => by rw [exec_firmwareRegisterWrite, execFirmwareRegisterWrite, hi]; rfl) (by simp)
theorem firmwareRegister_boost :
    Happens .firmwareRegisterWrite (.words 6 [a, b]) s fun u =>
      ((u.chiplet a.toNat).boostOn, (u.chiplet a.toNat).boostReq) = (b.getLsbD 0, b.getLsbD 1) :=
  firmwareRegister_chiplet (P := fun x => (x.boostOn, x.boostReq) = _) { s.chiplet a.toNat with boostOn := b.getLsbD 0, boostReq := b.getLsbD 1 }
    (fun hi => by rw [exec_firmwareRegisterWrite, execFirmwareRegisterWrite, hi]; rfl) rfl
theorem firmwareRegister_counts :
    Happens .firmwareRegisterWrite (.words 7 [a, b, d]) s fun u =>
      (u.chiplet a.toNat).firmware.point = min b.toNat 10 ∧ (u.chiplet a.toNat).firmware.mask = min d.toNat 15 :=
  firmwareRegister_chiplet (P := fun x => x.firmware.point = _ ∧ x.firmware.mask = _)
    { s.chiplet a.toNat with firmware := { point := min b.toNat 10, mask := min d.toNat 15 } }
    (fun hi => by rw [exec_firmwareRegisterWrite, execFirmwareRegisterWrite, hi]; rfl) ⟨rfl, rfl⟩

theorem firmwareRegister_wdlimit :
    Happens .firmwareRegisterWrite (.words 3 [a, b]) s fun u =>
      (u.cluster a.toNat).wdlimit = max 0x1000 (min b.toNat 0x1000000) := by
  intro hi
  refine ⟨_, by rw [exec_firmwareRegisterWrite, execFirmwareRegisterWrite, hi]; rfl, ?_⟩
  exact congrArg Cluster.wdlimit (State.cluster_setCluster_self ..)

/-- The interval is kept in 32 bits, which its range fits. -/
theorem firmwareRegister_ivlen :
    Happens .firmwareRegisterWrite (.words 4 [a, b]) s fun u =>
      (u.tile a.toNat).c.ivlen.toNat = max 0x10000 (min b.toNat 0x80000000) := by
  intro hi
  refine ⟨_, by rw [exec_firmwareRegisterWrite, execFirmwareRegisterWrite, hi]; rfl, ?_⟩
  refine (congrArg (fun t : Tile => t.c.ivlen.toNat) (State.tile_setCtx_self ..)).trans ?_
  rw [BitVec.toNat_ofNat]
  omega

theorem firmwareRegister_coldefer :
    Happens .firmwareRegisterWrite (.words 5 [a]) s fun u => u.dev.coldefer = min a.toNat 1000000000 := by
  intro hi
  exact ⟨_, by rw [exec_firmwareRegisterWrite, execFirmwareRegisterWrite, hi]; rfl, rfl⟩
end

/-- Settles O53, event by event; the clauses are the lemmas above, and what a control interval leaves of a chiplet is `Chiplet.interval`. -/
theorem powerEvents : Obligations.PowerEvents := by
  intro s c n m amps k v a b d
  refine ⟨boot_halts, boot_recovers, ?boot, bootReady_completes, bootReady_waits, ?interval, operatingPointSettled_happens s c,
    thermalThrottle_happens, thermalThrottle_below, throttleRelease_happens s c, throttleRelease_above s c,
    emergencySave_happens, emergencySave_below, currentLimitTrip_happens, currentLimitTrip_below, maskChange_happens s k m,
    residencyStep_unmasked, residencyStep_happens, ?telemetry, firmwareRegister_throttle s a b, firmwareRegister_save s a b,
    firmwareRegister_current s a b, firmwareRegister_trip s a b, firmwareRegister_wdlimit s a b, firmwareRegister_ivlen s a b,
    firmwareRegister_coldefer s a, firmwareRegister_boost s a b, firmwareRegister_counts s a b d⟩
  case boot =>
    exact fun hf hv => (boot_waits hf hv).mono fun u ⟨hu, hd⟩ =>
      ⟨hu.boot, hu.cellar, hu.host, hu.fuses, hu.image, hd, hu.powered, hu.up, hu.agenda⟩
  case interval =>
    obtain ⟨u, e, hd, hu⟩ := controlInterval_completes s c
    refine ⟨u, e, hd, fun hn hs hp => ?_⟩
    obtain ⟨⟨changing, hx⟩, hm⟩ := hu hn hs hp
    rw [hx]
    exact ⟨(s.chiplet c).interval_point, (s.chiplet c).interval_mask, (s.chiplet c).interval_boost,
      by rwa [Chiplet.interval_mask] at hm⟩
  case telemetry =>
    obtain ⟨u, e, hd, hu⟩ := telemetrySample_completes s n c
    refine ⟨u, e, hd, fun y hn hh hc => ?_⟩
    have hy : s.dev.ctx? n = some y := by simp [Device.ctx?, hn, Table.get?]
    obtain ⟨hq, hm, hv⟩ := hu y hn hh hc
    refine ⟨hq, fun _ hf => ?_, fun hr hf => hm.trans (State.sampleFor_room_cellar hy c hr hf)⟩
    rw [hm, hv]
    exact State.sampleFor_full_dropped hy c hf

end Sys2Proof.Machine
end

section
/-!
PROOFS. Span frames and ports (02 R33 to R36, R39, 15 R318, R319, 17 R367, 23 R379, R380). The four events that bring a frame are one:
`State.takeFrame` drops it, rejects it, or hands it to what the event does with a frame of its type, which is said once for each
(`Arrives`). A round that ends leaves its end in the table, whatever its waiting threads and operations do then.
-/
namespace Sys2Proof.Machine

/-! ### A round that ends (17 R368) -/

/-- The rounds of the tiles: what stands in each tile's table. -/
def State.colls (s : State) (j : TileId) : Option Coll := (s.tile j).c.coll

@[simp] theorem State.tile_coll (s : State) (j) : (s.tile j).c.coll = s.colls j := rfl

@[simp] theorem State.colls_ite (p : Prop) [Decidable p] (s t : State) :
    (if p then s else t).colls = if p then s.colls else t.colls := apply_ite ..

/-- A fold of operations each of which leaves the rounds as they are. -/
@[simp] theorem State.foldl_colls {α : Type} (f : State → α → State) (hf : ∀ s x, (f s x).colls = s.colls) (l : List α) (s : State) :
    (l.foldl f s).colls = s.colls :=
  List.foldlRecOn (motive := fun u : State => u.colls = s.colls) l f rfl fun u h x _ => (hf u x).trans h

@[simp] theorem State.setTile_colls {s : State} {k : TileId} {t : Tile} (h : t.c.coll = s.colls k) : (s.setTile k t).colls = s.colls := by
  funext j
  rw [State.colls, State.tile_setTile]
  split
  · subst_vars
    exact h
  · rfl
@[simp] theorem State.setCtx_colls {s : State} {k : TileId} {c : TileCtx} (h : c.coll = s.colls k) : (s.setCtx k c).colls = s.colls :=
  State.setTile_colls h
@[simp] theorem State.setRouter_colls (s : State) (k r) : (s.setRouter k r).colls = s.colls := State.setTile_colls rfl
@[simp] theorem State.setThr_colls (s : State) (k j th) : (s.setThr k j th).colls = s.colls := State.setTile_colls rfl
@[simp] theorem State.after_colls (s : State) (n ev arg) : (s.after n ev arg).colls = s.colls := rfl
@[simp] theorem State.logRec_colls (s : State) (k kind slot len ref ev arg val) :
    (s.logRec k kind slot len ref ev arg val).colls = s.colls := funext fun _ => congrArg TileCtx.coll (State.tile_logRec_c ..)
@[simp] theorem State.log_colls (s : State) (k kind slot len ev arg val) : (s.log k kind slot len ev arg val).colls = s.colls :=
  State.logRec_colls ..
@[simp] theorem State.mark_colls (s : State) (k kind slot len val) : (s.mark k kind slot len val).colls = s.colls := State.log_colls ..
@[simp] theorem State.noteFull_colls (s : State) (k j) : (s.noteFull k j).colls = s.colls := State.logRec_colls ..
@[simp] theorem State.inject_colls (s : State) (k p) : (s.inject k p).colls = s.colls := State.setRouter_colls ..
@[simp] theorem State.askMemory_colls (s : State) (a cls ev arg) : (s.askMemory a cls ev arg).colls = s.colls := State.inject_colls ..
@[simp] theorem State.ask_colls (s : State) (r g) : (s.ask r g).colls = s.colls := State.askMemory_colls ..
@[simp] theorem State.packet_colls (s : State) (a b cls fl ev arg) : (s.packet a b cls fl ev arg).colls = s.colls := by
  unfold State.packet
  split
  · rfl
  · exact State.inject_colls ..
@[simp] theorem State.tileFrame_colls (s : State) (k peer type seq round rest) : (s.tileFrame k peer type seq round rest).colls = s.colls :=
  State.inject_colls ..
@[simp] theorem State.lookAt_colls (s : State) (ctx lix) : (s.lookAt ctx lix).colls = s.colls := rfl

/-! Threads that end or enter a slot touch no round. -/

@[simp] theorem TileCtx.leave_coll (c : TileCtx) (hslot) : (c.leave hslot).coll = c.coll := by fun_cases TileCtx.leave <;> rfl

@[simp] theorem State.enterSlot_colls (s : State) (k j th refused) : (s.enterSlot k j th refused).colls = s.colls := by
  fun_cases State.enterSlot
  · exact State.setTile_colls rfl
  · rw [State.ask_colls]
    exact State.setTile_colls rfl
@[simp] theorem State.refill_colls (s : State) (k n) : (s.refill k n).colls = s.colls := by
  induction n generalizing s with
  | zero => rfl
  | succ n ih =>
    unfold State.refill
    split
    · rw [ih, State.enterSlot_colls]
      exact State.setCtx_colls rfl
    · rfl
@[simp] theorem State.askGroup_colls (s : State) (k th g kind reds src) : (s.askGroup k th g kind reds src).colls = s.colls :=
  State.packet_colls ..
@[simp] theorem State.endEffects_colls (s : State) (k th) : (s.endEffects k th).colls = s.colls := by
  unfold State.endEffects
  simp
@[simp] theorem State.endThread_colls (s : State) (k j) : (s.endThread k j).colls = s.colls := by
  rw [State.endThread, State.endEffects_colls, State.refill_colls]
  exact State.setTile_colls rfl
@[simp] theorem State.trapAt_colls (s : State) (k j xpc cause val) : (s.trapAt k j xpc cause val).colls = s.colls := by
  unfold State.trapAt State.trapFrom State.thirdLevel
  split
  · rw [State.endThread_colls, State.inject_colls]
  · exact State.setThr_colls ..

/-! Neither do wakes, and an operation that leaves its queue. -/

@[simp] theorem State.deliver_colls (s : State) (r v) : (s.deliver r v).colls = s.colls := by fun_cases State.deliver <;> simp
@[simp] theorem State.unpark_colls (s : State) (k j) : (s.unpark k j).colls = s.colls := State.setThr_colls ..
@[simp] theorem State.wakeAll_colls (s : State) (k kind f) : (s.wakeAll k kind f).colls = s.colls := by
  refine State.foldl_colls _ (fun s j => ?_) _ _
  (repeat' split) <;> simp
@[simp] theorem State.drainEnd_colls (s : State) (k j nh p) : (s.drainEnd k j nh p).colls = s.colls := by
  unfold State.drainEnd
  dsimp only
  split <;> simp
@[simp] theorem State.endDrains_colls (s : State) (k) : (s.endDrains k).colls = s.colls := by
  refine State.foldl_colls _ (fun s j => ?_) _ _
  (repeat' split) <;> simp
@[simp] theorem State.kick_colls (s : State) (k) : (s.kick k).colls = s.colls := by
  refine State.foldl_colls _ (fun s o => ?_) _ _
  split
  · exact State.setCtx_colls rfl
  · rfl
@[simp] theorem State.endListed_colls (s : State) (k) : (s.endListed k).colls = s.colls := by
  refine State.foldl_colls _ (fun s j => ?_) _ _
  (repeat' split) <;> simp
@[simp] theorem TileCtx.listOps_coll (c : TileCtx) (cyc k) : (c.listOps cyc k).coll = c.coll := by
  refine List.foldlRecOn (motive := fun d : TileCtx => d.coll = c.coll) _ _ rfl fun d h o _ => ?_
  split <;> exact h
@[simp] theorem State.afterRelease_colls (s : State) (k) : (s.afterRelease k).colls = s.colls := by simp [State.afterRelease]
@[simp] theorem State.releaseOp_colls (s : State) (k o) : (s.releaseOp k o).colls = s.colls := by
  rw [State.releaseOp, State.lookAt_colls, State.afterRelease_colls]
  exact State.setCtx_colls rfl
@[simp] theorem State.wakeOp_colls (s : State) (r v) : (s.wakeOp r v).colls = s.colls := by
  unfold State.wakeOp
  (repeat' split) <;> simp
@[simp] theorem State.wakeColwait_colls (s : State) (k v) : (s.wakeColwait k v).colls = s.colls := by
  refine State.foldl_colls _ (fun s j => ?_) _ _
  (repeat' split) <;> simp
@[simp] theorem State.sendAborts_colls (s : State) (k c) : (s.sendAborts k c).colls = s.colls :=
  State.foldl_colls _ (fun s p => by split <;> simp) _ s

@[simp] theorem State.poolUpdate_colls (s : State) (k off bs n) : (s.poolUpdate k off bs n).colls = s.colls := by
  induction n generalizing s off bs with
  | zero => rfl
  | succ n ih =>
    rw [State.poolUpdate, ih]
    split
    · rfl
    · exact State.setTile_colls rfl
theorem State.setColl_colls_self (s : State) (k c) : (s.setColl k c).colls k = some c := by
  rw [State.setColl, State.poolUpdate_colls, State.colls, State.tile_setCtx_self]

/-- The round's end stands in the tile's table. -/
theorem State.endRound_state (s : State) (k c n) : ((s.endRound k c n).colls k).map Coll.state = some n := by
  rw [State.endRound, State.wakeColwait_colls]
  have h := s.setColl_colls_self k { c with state := n, left := c.ends - (s.tile k).r.cyc, rangeOp := none }
  split <;> split <;> split <;> simp [h]

/-! ### Ports (02 R33, R35, R36, R39) -/

/-- An event that leaves exactly `t` leaves what holds of `t`. -/
theorem Becomes.happens {ev arg} {s t : State} {P : State → Prop} (h : Becomes ev arg s t) (hp : P t) : Happens ev arg s P :=
  fun hi => ⟨t, h hi, hp⟩

@[simp] theorem State.port_setPort_self (s : State) (p x) : (s.setPort p x).dev.port p = x := by simp [State.setPort, Device.port]
theorem State.port_setPort_ne (s : State) {p q : Nat} (x) (h : q ≠ p) : (s.setPort p x).dev.port q = s.dev.port q := by
  simp [State.setPort, Device.port, Table.get?_set_ne _ _ h]

/-- States of the same tiles, cellar and host memory. -/
theorem SameMemory.of_eq {s u : State} (ht : u.tiles = s.tiles) (hb : u.bulk = s.bulk) : SameMemory s u := by
  obtain ⟨hc, hh⟩ := Prod.mk.inj hb
  exact ⟨fun k a => by simp only [State.poolByte, State.tile, ht], fun a => by rw [hc], fun a => by rw [hh]⟩

/-- A frame, of whatever kind, has come to port `p`. -/
def State.heard (s : State) (p : Nat) : State := s.setPort p { s.dev.port p with lastRx := s.now, up := true }

/-- In `u` port `p` has heard a frame and discarded it. -/
def State.Dropped (s : State) (p : Nat) (u : State) : Prop :=
  (u.dev.port p).discards = (s.dev.port p).discards + 1 ∧ (u.dev.port p).lastRx = s.now ∧ SameMemory s u

theorem State.heard_dropped (s : State) (p) : s.Dropped p ((s.heard p).discardFrame p false) := by
  refine ⟨?_, ?_, .of_eq rfl rfl⟩ <;> simp [State.discardFrame, State.heard]

theorem State.heard_rejected (s : State) (p) :
    (((s.heard p).discardFrame p true).dev.port p).rejects = (s.dev.port p).rejects + 1 ∧ SameMemory s ((s.heard p).discardFrame p true) := by
  refine ⟨?_, .of_eq rfl rfl⟩
  simp [State.discardFrame, State.heard]

/-! ### A frame at its port (02 R35, R36) -/

/-- Event `ev` at a port takes a frame of type `n`, which `k` then handles. -/
def Arrives (ev : Instr) (n : Nat) (k : Nat → Nat → State → FrameIn → Nat → PeerEntry → State) : Prop :=
  ∀ (s : State) (p addr : Nat) (bs : List Byte), s.input = .data p addr bs → exec ev s = .next (s.takeFrame p n bs (k p addr))

/-- What becomes of a chunk frame (17 R367). -/
def chunkTaken (p _addr : Nat) (s : State) (f : FrameIn) (ctx : Nat) (e : PeerEntry) : State :=
  let h := leNat (f.rest.take 16)
  if h / 2 ^ 40 % 2 ^ 24 ≠ 0 ∨ h / 2 ^ 96 ≠ 0 ∨ f.seq / 2 ^ 27 ≠ 0 ∨ blockReserved (f.rest.drop 16) ∨ (unpackBlock (f.rest.drop 16)).isNone
  then s.discardFrame p false
  else s.passFrame p f ctx e .spanChunkReceive

/-- What becomes of the frame of a round abort (23 R380). -/
def abortTaken (p _addr : Nat) (s : State) (f : FrameIn) (ctx : Nat) (e : PeerEntry) : State :=
  if f.seq / 2 ^ 27 ≠ 0 then s.discardFrame p false else s.passFrame p f ctx e .spanRoundAbortReceive

/-- What becomes of the frame of an acknowledgement (15 R318). -/
def ackTaken (p _addr : Nat) (s : State) (f : FrameIn) (ctx : Nat) (e : PeerEntry) : State :=
  if blockReserved f.rest ∨ (unpackBlock f.rest).isNone then s.discardFrame p false else s.passFrame p f ctx e .spanCopyAckReceive

/-- Where the block of a copy goes in the partition's cellar (15 R319). -/
def blockAddr (addr seq : Nat) : Word := BitVec.ofNat 64 (4 * 2 ^ 60 + (addr + 4096 * (seq % 2 ^ 9)) % 2 ^ 40)

/-- The cellar with the block of a copy, and the status of its acknowledgement; a malformed block is status 1. -/
def State.putBlock (s : State) (addr : Nat) (f : FrameIn) (ctx : Nat) : State × Nat :=
  match unpackBlock f.rest with
  | none => (s, 1)
  | some d => ((s.fwWrite ctx (blockAddr addr f.seq) d).1, if (s.fwWrite ctx (blockAddr addr f.seq) d).2 = 0 then 0 else 1)

/-- What becomes of the frame of a copy's block (15 R319). -/
def dataTaken (p addr : Nat) (s : State) (f : FrameIn) (ctx : Nat) (e : PeerEntry) : State :=
  if blockReserved f.rest then s.discardFrame p false
  else (s.putBlock addr f ctx).1.sendFrame e.port
    (frameHeader 1 s.dev.fuses.ident (Config.partTag ctx) f.seq 0 ++ block 0 4 (leBytes 4 (s.putBlock addr f ctx).2))

theorem spanChunkReceive_arrives : Arrives .spanChunkReceive 2 chunkTaken := by
  intro s p addr bs hi
  rw [exec_spanChunkReceive, execSpanChunkReceive, hi]
  rfl
theorem spanRoundAbortReceive_arrives : Arrives .spanRoundAbortReceive 3 abortTaken := by
  intro s p addr bs hi
  rw [exec_spanRoundAbortReceive, execSpanRoundAbortReceive, hi]
  rfl
theorem spanCopyAckReceive_arrives : Arrives .spanCopyAckReceive 1 ackTaken := by
  intro s p addr bs hi
  rw [exec_spanCopyAckReceive, execSpanCopyAckReceive, hi]
  rfl
theorem spanCopyDataReceive_arrives : Arrives .spanCopyDataReceive 0 dataTaken := by
  intro s p addr bs hi
  rw [exec_spanCopyDataReceive, execSpanCopyDataReceive, hi]
  rfl

namespace Arrives
variable {ev : Instr} {n : Nat} {k : Nat → Nat → State → FrameIn → Nat → PeerEntry → State} {s : State} {p addr : Nat} {bs : List Byte}
  {f : FrameIn}

theorem unopened (h : Arrives ev n k) (ho : openFrame bs = none) : Happens ev (.data p addr bs) s (s.Dropped p) := by
  intro hi
  have e : s.takeFrame p n bs (k p addr) = (s.heard p).discardFrame p false := by
    simp only [State.takeFrame, ho]
    rfl
  exact ⟨_, h s p addr bs hi, e ▸ s.heard_dropped p⟩

theorem rejected (h : Arrives ev n k) (ho : openFrame bs = some f) (ht : f.type = n) (hs : s.dev.sourceOf f = none) :
    Happens ev (.data p addr bs) s fun u => (u.dev.port p).rejects = (s.dev.port p).rejects + 1 ∧ SameMemory s u := by
  intro hi
  refine ⟨_, h s p addr bs hi, ?_⟩
  have e : s.takeFrame p n bs (k p addr) = (s.heard p).discardFrame p true := by
    simp only [State.takeFrame, ho, ht, ne_eq, not_true, if_false]
    rw [show Device.sourceOf (s.setPort p _).dev f = none from hs]
    rfl
  rw [e]
  exact s.heard_rejected p

theorem accepted (h : Arrives ev n k) (ho : openFrame bs = some f) (ht : f.type = n) {ctx : Nat} {e : PeerEntry}
    (hs : s.dev.sourceOf f = some (ctx, e)) {P : State → Prop} (hp : P (k p addr (s.heard p) f ctx e)) :
    Happens ev (.data p addr bs) s P := by
  intro hi
  refine ⟨_, h s p addr bs hi, ?_⟩
  have e : s.takeFrame p n bs (k p addr) = k p addr (s.heard p) f ctx e := by
    simp only [State.takeFrame, ho, ht, ne_eq, not_true, if_false]
    rw [show Device.sourceOf (s.setPort p _).dev f = some (ctx, e) from hs]
    rfl
  rwa [e]

end Arrives

/-- An accepted frame goes on to the tile of its logical tile number, at once. -/
theorem State.passFrame_goesOn {s : State} {p ctx : Nat} {f : FrameIn} {e : PeerEntry} {k : TileId} (ev)
    (hk : s.tileOf ctx (f.seq / 2 ^ 9 % 2 ^ 18) = some k) :
    let u := (s.heard p).passFrame p f ctx e ev
    s.DueIn u 0 ev (.frame k (s.dev.peerNumber ctx e) f.type f.seq f.round f.rest) ∧ u.dev = (s.heard p).dev ∧ SameMemory s u := by
  have h : (s.heard p).passFrame p f ctx e ev =
      (s.heard p).after 0 ev (.frame k (s.dev.peerNumber ctx e) f.type f.seq f.round f.rest) := by
    rw [State.passFrame, show State.frameTile (s.heard p) ctx f.seq = some k from hk]
    rfl
  rw [h]
  exact ⟨State.after_dueIn (s := s) rfl .., rfl, .of_eq rfl rfl⟩

theorem blockAddr_toNat (addr seq : Nat) : (blockAddr addr seq).toNat = 4 * 2 ^ 60 + (addr + 4096 * (seq % 2 ^ 9)) % 2 ^ 40 := by
  rw [blockAddr, BitVec.toNat_ofNat]
  omega

/-- Ports are no matter of a write of firmware. -/
@[simp] theorem State.fwWrite_port (s : State) (ctx a bs p) : (s.fwWrite ctx a bs).1.dev.port p = s.dev.port p := by
  obtain ⟨m, h, l, e⟩ := s.fwWrite_eq ctx a bs
  rw [e]
  rfl

theorem State.heard_sent (s : State) (p q) : ((s.heard p).dev.port q).sent = (s.dev.port q).sent := by
  by_cases h : q = p
  · subst h
    simp [State.heard]
  · rw [State.heard, State.port_setPort_ne _ _ h]

theorem dataTaken_writes {s : State} {p addr ctx : Nat} {f : FrameIn} {e : PeerEntry} {d : List Byte} (hr : blockReserved f.rest = false)
    (hd : unpackBlock f.rest = some d) :
    ∃ a : Word, a.toNat = 4 * 2 ^ 60 + (addr + 4096 * (f.seq % 2 ^ 9)) % 2 ^ 40
      ∧ (dataTaken p addr (s.heard p) f ctx e).cellar = ((s.heard p).fwWrite ctx a d).1.cellar
      ∧ ((dataTaken p addr (s.heard p) f ctx e).dev.port e.port).sent.length = (s.dev.port e.port).sent.length + 1 := by
  refine ⟨blockAddr addr f.seq, blockAddr_toNat addr f.seq, ?_⟩
  have h : dataTaken p addr (s.heard p) f ctx e = ((s.heard p).putBlock addr f ctx).1.sendFrame e.port _ := if_neg (by simp [hr])
  rw [h, State.sendFrame, State.port_setPort_self]
  simp [State.putBlock, hd, State.heard_sent, State.setPort]

/-! ### A frame at its tile (17 R367, 23 R379, R380, 15 R318) -/

theorem spanChunkReceive_tile {s : State} {k peer type seq round} {rest d : List Byte} (hd : unpackBlock (rest.drop 16) = some d) :
    Becomes .spanChunkReceive (.frame k peer type seq round rest) s
      ((s.log k kSpan 0 (16 + rest.length) .spanChunkReceive (.frame k peer type seq round rest) 0).chunkAt k
        (frameChunk peer seq round rest d)) := by
  intro hi
  simp [execSpanChunkReceive, hi, hd, State.logFrame]

theorem spanRoundAbortReceive_tile {s : State} {k : TileId} {peer type seq round} {rest : List Byte} {c : Coll}
    (hc : (s.tile k).c.coll = some c) (hs : c.state = 1) (hr : c.round = round) :
    Happens .spanRoundAbortReceive (.frame k peer type seq round rest) s fun u => (u.tile k).c.coll.map Coll.state = some 3 := by
  intro hi
  refine ⟨_, by rw [exec_spanRoundAbortReceive, execSpanRoundAbortReceive, hi], ?_⟩
  have h : (s.logFrame k .spanRoundAbortReceive rest).colls k = some c := by
    rw [State.logFrame, State.log_colls]
    exact hc
  have e : (s.logFrame k .spanRoundAbortReceive rest).abortAt k round = (s.logFrame k .spanRoundAbortReceive rest).endRound k c 3 := by
    rw [State.abortAt, State.tile_coll, h]
    exact if_pos ⟨hs, hr⟩
  rw [e]
  exact State.endRound_state ..

theorem spanCopyAckReceive_copy {s : State} {k : TileId} {peer type seq} {rest d : List Byte} (hd : unpackBlock rest = some d) :
    Becomes .spanCopyAckReceive (.frame k peer type seq 0 rest) s
      ((s.log k kSpan 0 (16 + rest.length) .spanCopyAckReceive (.frame k peer type seq 0 rest) 0).copyAcked k (seq / 2 ^ 27)
        (seq % 2 ^ 9) (leNat d)) := by
  intro hi
  simp [execSpanCopyAckReceive, hi, hd, State.logFrame]

theorem spanCopyAckReceive_chunk {s : State} {k : TileId} {peer type seq round i} {rest : List Byte} {c : Coll} (hr : round ≠ 0)
    (hc : (s.tile k).c.coll = some c) (hf : c.sendFor peer (seq % 2 ^ 9) = some i) :
    Becomes .spanCopyAckReceive (.frame k peer type seq round rest) s
      ((s.log k kLreply 0 0 .spanCopyAckReceive (.frame k peer type seq round rest) 0).chunkAcked k round i (seq % 2 ^ 9)) := by
  intro hi
  rw [State.tile_coll] at hc
  simp only [exec_spanCopyAckReceive, execSpanCopyAckReceive, hi, hr, if_false, State.tile_coll, State.log_colls, hc, Option.bind_some, hf]

/-! ### Probes, silence and lanes (02 R33, R39) -/

theorem spanProbeReceive_heard {s : State} {p addr : Nat} {bs : List Byte} {f : FrameIn} (ho : openFrame bs = some f) (ht : f.type = 4) :
    Becomes .spanProbeReceive (.data p addr bs) s (s.heard p) := by
  intro hi
  rw [exec_spanProbeReceive, execSpanProbeReceive, hi]
  dsimp only
  rw [ho]
  exact congrArg _ (if_pos ht)

theorem spanProbeReceive_unopened {s : State} {p addr : Nat} {bs : List Byte} (ho : openFrame bs = none) :
    Happens .spanProbeReceive (.data p addr bs) s (s.Dropped p) := by
  intro hi
  refine ⟨_, by rw [exec_spanProbeReceive, execSpanProbeReceive, hi]; dsimp only; rw [ho], ?_⟩
  exact s.heard_dropped p

section
variable {s : State} {p : Nat}

theorem spanProbe_idle (h : 25000 ≤ s.now - (s.dev.port p).lastTx) :
    Happens .spanProbe (.num p) s fun u => s.DueIn u 25000 .spanProbe (.num p)
      ∧ (u.dev.port p).sent = (s.dev.port p).sent ++ [sealFrame (frameHeader 4 s.dev.fuses.ident 0 0 0)]
      ∧ (u.dev.port p).lastTx = s.now := by
  have e : Becomes .spanProbe (.num p) s ((s.sendFrame p (frameHeader 4 s.dev.fuses.ident 0 0 0)).after 25000 .spanProbe (.num p)) := by
    intro hi
    simp [execSpanProbe, hi, h]
  refine e.happens ⟨State.after_dueIn (s := s) rfl .., ?_⟩
  simp [State.sendFrame]

theorem spanProbe_busy (h : s.now - (s.dev.port p).lastTx < 25000) :
    Happens .spanProbe (.num p) s fun u => u.dev = s.dev ∧ s.DueIn u (25000 - (s.now - (s.dev.port p).lastTx)) .spanProbe (.num p) := by
  have e : Becomes .spanProbe (.num p) s (s.after (25000 - (s.now - (s.dev.port p).lastTx)) .spanProbe (.num p)) := by
    intro hi
    simp [execSpanProbe, hi, Nat.not_le.2 h]
  exact e.happens ⟨rfl, State.after_dueIn rfl ..⟩

theorem spanPortDown_silent (h : 2500000 ≤ s.now - (s.dev.port p).lastRx) :
    Happens .spanPortDown (.num p) s fun u => (u.dev.port p).up = false := by
  by_cases hu : (s.dev.port p).up = true
  · have e : Becomes .spanPortDown (.num p) s
        ((s.setPort p { s.dev.port p with up := false, downAt := s.ns }).after 2500000 .spanPortDown (.num p)) := by
      intro hi
      simp [execSpanPortDown, hi, h, hu]
    exact e.happens (by simp)
  · have e : Becomes .spanPortDown (.num p) s (s.after 2500000 .spanPortDown (.num p)) := by
      intro hi
      simp [execSpanPortDown, hi, h, hu]
    exact e.happens (by simpa using hu)

theorem spanPortDown_heard (h : s.now - (s.dev.port p).lastRx < 2500000) : Happens .spanPortDown (.num p) s fun u => u.dev = s.dev := by
  have e : Becomes .spanPortDown (.num p) s (s.after (2500000 - (s.now - (s.dev.port p).lastRx)) .spanPortDown (.num p)) := by
    intro hi
    simp [execSpanPortDown, hi, Nat.not_le.2 h]
  exact e.happens rfl

theorem spanLaneFail_happens (s : State) (p : Nat) : Happens .spanLaneFail (.num p) s fun u => (u.dev.port p).lanes = 4 := by
  intro hi
  exact ⟨_, by rw [exec_spanLaneFail, execSpanLaneFail, hi], by simp⟩
end

/-- Settles O46: frames at their port, at their tile, and the port's own events. -/
theorem spanEvents : Obligations.SpanEvents := by
  intro s p addr bs
  refine ⟨?unopened, ?opened, ?tile, spanProbe_idle, spanProbe_busy, spanPortDown_silent, spanPortDown_heard, spanLaneFail_happens s p⟩
  case unopened =>
    intro ho ev he
    simp only [List.mem_cons, List.not_mem_nil, or_false] at he
    obtain rfl | rfl | rfl | rfl | rfl := he
    · exact spanCopyDataReceive_arrives.unopened ho
    · exact spanCopyAckReceive_arrives.unopened ho
    · exact spanChunkReceive_arrives.unopened ho
    · exact spanRoundAbortReceive_arrives.unopened ho
    · exact spanProbeReceive_unopened ho
  case opened =>
    intro f ho
    refine ⟨spanProbeReceive_heard ho, ?_, ?_⟩
    · intro hs ev he ht
      simp only [List.take, List.mem_cons, List.not_mem_nil, or_false] at he
      obtain rfl | rfl | rfl | rfl := he
      · exact spanCopyDataReceive_arrives.rejected ho ht hs
      · exact spanCopyAckReceive_arrives.rejected ho ht hs
      · exact spanChunkReceive_arrives.rejected ho ht hs
      · exact spanRoundAbortReceive_arrives.rejected ho ht hs
    · intro ctx e hs
      refine ⟨fun k hk => ⟨fun ht hq => ?abort, fun ht hq hr hu h0 h1 => ?chunk, fun ht hr hu => ?ack⟩, fun ht hb => ?badChunk,
        fun ht hr => ?badData, fun ht hr d hd => spanCopyDataReceive_arrives.accepted ho ht hs (dataTaken_writes hr hd)⟩
      case abort =>
        refine spanRoundAbortReceive_arrives.accepted ho ht hs ?_
        rw [abortTaken, if_neg (by omega)]
        exact State.passFrame_goesOn _ hk
      case chunk =>
        refine spanChunkReceive_arrives.accepted ho ht hs ?_
        have hn : unpackBlock (f.rest.drop 16) ≠ none := Option.isSome_iff_ne_none.1 hu
        rw [chunkTaken, if_neg (by simp only [hr, Option.isNone_iff_eq_none, hn, Bool.false_eq_true, or_false]; omega)]
        exact State.passFrame_goesOn _ hk
      case ack =>
        refine spanCopyAckReceive_arrives.accepted ho ht hs ?_
        rw [ackTaken, if_neg (by simp [hr, Option.isSome_iff_ne_none.1 hu])]
        exact State.passFrame_goesOn _ hk
      case badChunk =>
        refine spanChunkReceive_arrives.accepted ho ht hs ?_
        rw [chunkTaken, if_pos (by tauto)]
        exact s.heard_dropped p
      case badData =>
        refine spanCopyDataReceive_arrives.accepted ho ht hs ?_
        rw [dataTaken, if_pos hr]
        exact s.heard_dropped p
  case tile =>
    intro k peer type seq round rest
    refine ⟨fun d hd => spanChunkReceive_tile hd, fun c hc hs hr => spanRoundAbortReceive_tile hc hs hr, ?_,
      fun hr c i hc hf => spanCopyAckReceive_chunk hr hc hf⟩
    rintro rfl d hd
    exact spanCopyAckReceive_copy hd

end Sys2Proof.Machine
end

section
/-!
PROOFS. Host accesses, configuration space, the host's tables, queue mapping and watched lines (02 R24 to R32, R35, R382). Firmware's reads
and writes depend on the memories, the translation roots, the DMA windows and the poison alone (`State.SeenAlike`), so that they find the
same in a state whose queues or agenda have changed.
-/
namespace Sys2Proof.Machine

/-! ### What firmware's accesses depend on (07 R151 to R153, 02 R28, 05 R89) -/

/-- Firmware finds in `u` every byte where, and as, it finds it in `s`. -/
structure State.SeenAlike (s u : State) : Prop where
  cellar : u.cellar = s.cellar
  host : u.host = s.host
  root0 : u.dev.root0 = s.dev.root0
  contexts : u.dev.contexts = s.dev.contexts
  dma : u.dev.dma = s.dev.dma
  poison : u.dev.poison = s.dev.poison
  cleaned : u.dev.cleaned = s.dev.cleaned

namespace State.SeenAlike
variable {s u : State}

theorem of_dev (hd : u.dev = s.dev) (hb : u.bulk = s.bulk) : s.SeenAlike u := by
  obtain ⟨hc, hh⟩ := Prod.mk.inj hb
  exact ⟨hc, hh, by rw [hd], by rw [hd], by rw [hd], by rw [hd], by rw [hd]⟩
theorem setQueue (s : State) (q x) : s.SeenAlike (s.setQueue q x) := ⟨rfl, rfl, rfl, rfl, rfl, rfl, rfl⟩

theorem fwPlace (h : s.SeenAlike u) (ctx host write va) : u.fwPlace ctx host write va = s.fwPlace ctx host write va := by
  simp only [State.fwPlace, State.walk, State.rootOf, Device.dmaCheck, h.cellar, h.root0, h.contexts, h.dma]

theorem fwReadFrom (h : s.SeenAlike u) (ctx host va n fuel) : u.fwReadFrom ctx host va n fuel = s.fwReadFrom ctx host va n fuel := by
  induction fuel generalizing va n with
  | zero => rfl
  | succ fuel ih =>
    have hp (pa m : Nat) : u.dev.poisonedRange pa m = s.dev.poisonedRange pa m := by
      simp only [Device.poisonedRange, Device.poisoned, h.poison, h.cleaned]
    simp only [State.fwReadFrom, ih, h.fwPlace, hp, h.cellar, h.host]

theorem fwRead (h : s.SeenAlike u) (ctx a n) : u.fwRead ctx a n = s.fwRead ctx a n := by
  simp only [State.fwRead, h.fwReadFrom]

theorem fwPlaces (h : s.SeenAlike u) (ctx host va n fuel) : u.fwPlaces ctx host va n fuel = s.fwPlaces ctx host va n fuel := by
  induction fuel generalizing va n with
  | zero => rfl
  | succ fuel ih => simp only [State.fwPlaces, ih, h.fwPlace]

theorem hostWrite (h : s.SeenAlike u) (a bs) : (s.hostWrite a bs).SeenAlike (u.hostWrite a bs) :=
  ⟨h.cellar, congrArg (Memory.setBytes · a bs) h.host, h.root0, h.contexts, h.dma, h.poison, h.cleaned⟩

theorem cellarWrite (h : s.SeenAlike u) (a bs) : (s.cellarWrite a bs).SeenAlike (u.cellarWrite a bs) := by
  refine ⟨congrArg (Memory.setBytes · a bs) h.cellar, h.host, h.root0, h.contexts, h.dma, h.poison, ?_⟩
  simp only [State.cellarWrite, State.clean, h.poison, h.cleaned]

theorem writePlaces (h : s.SeenAlike u) (host ps bs) : (s.writePlaces host ps bs).SeenAlike (u.writePlaces host ps bs) := by
  induction ps generalizing s u bs with
  | nil => exact h
  | cons p ps ih =>
    cases host
    · exact ih (h.cellarWrite ..) _
    · exact ih (h.hostWrite ..) _

theorem fwWrite (h : s.SeenAlike u) (ctx a bs) :
    (s.fwWrite ctx a bs).1.SeenAlike (u.fwWrite ctx a bs).1 ∧ (u.fwWrite ctx a bs).2 = (s.fwWrite ctx a bs).2 := by
  simp only [State.fwWrite, h.fwPlaces]
  split
  · exact ⟨h, rfl⟩
  · exact ⟨h.writePlaces .., rfl⟩

end State.SeenAlike

/-! ### Queues read back -/

@[simp] theorem State.queue_setQueue_self (s : State) (q x) : (s.setQueue q x).queue q = x := by simp [State.setQueue, State.queue]

/-- Queues are no matter of a write of firmware. -/
@[simp] theorem State.fwWrite_queue (s : State) (ctx a bs q) : (s.fwWrite ctx a bs).1.queue q = s.queue q := by
  obtain ⟨m, h, l, e⟩ := s.fwWrite_eq ctx a bs
  rw [e]
  rfl
@[simp] theorem State.putState_queue (s : State) (q q') : (s.putState q).queue q' = s.queue q' := State.fwWrite_queue ..

/-- An open queue that stops for a reason shows state 2 and the reason. -/
theorem State.stopQueue_open {s : State} {q reason : Nat} (hm : (s.queue q).mapped = true) (hs : (s.queue q).state = 1) (hr : reason ≠ 0) :
    ((s.stopQueue q reason).queue q).state = 2 ∧ ((s.stopQueue q reason).queue q).reason = reason := by
  have hf (l : List Command) (t : State) : (l.foldl (fun s c => s.complete q c.id statusSkipped 0 0) t).queue q = t.queue q :=
    List.foldlRecOn (motive := fun u : State => u.queue q = t.queue q) l _ rfl fun u h c _ => h
  rw [State.stopQueue]
  dsimp only
  rw [if_neg (by simp [hs]), if_neg (by simp [hm, hs]), hf, State.putState_queue, State.queue_setQueue_self]
  exact ⟨rfl, if_neg hr⟩

/-! ### Inbound windows (02 R27) -/

theorem setAdd_mem (l : List Nat) (k : Nat) : k ∈ setAdd l k := by
  unfold setAdd
  split
  · exact List.contains_iff_mem.1 ‹_›
  · exact List.mem_append_right _ (List.mem_singleton.2 rfl)

theorem Device.inbound_closed {d : Device} (hr : d.boot ≠ .ready) (hw : d.boot ≠ .waitHost) (l a n) : d.inbound l a n = none := by
  simp [Device.inbound, hr, hw]

section
variable {s : State} {l a n pa : Nat} {bs : List Byte}

theorem hostInboundRead_inside (h : s.dev.inbound l a n = some pa) :
    Happens .hostInboundRead (.nums3 l a n) s fun u => u.dev.hostReads = s.dev.hostReads ++ [s.cellar.bytes pa n] ∧ SameMemory s u := by
  have e : Becomes .hostInboundRead (.nums3 l a n) s
      { s with dev := { s.dev with hostReads := s.dev.hostReads ++ [s.cellar.bytes pa n] } } := by
    intro hi
    simp only [exec_hostInboundRead, execHostInboundRead, hi, h]
  exact e.happens ⟨rfl, .of_eq rfl rfl⟩

theorem hostInboundRead_outside (h : s.dev.inbound l a n = none) :
    Happens .hostInboundRead (.nums3 l a n) s fun u =>
      u.dev.hostReads = s.dev.hostReads ++ [List.replicate n 0xFF] ∧ l ∈ u.dev.missed ∧ SameMemory s u := by
  have e : Becomes .hostInboundRead (.nums3 l a n) s
      { s.missed l with dev := { (s.missed l).dev with hostReads := (s.missed l).dev.hostReads ++ [List.replicate n 0xFF] } } := by
    intro hi
    simp only [exec_hostInboundRead, execHostInboundRead, hi, h]
  exact e.happens ⟨rfl, setAdd_mem .., .of_eq rfl rfl⟩

theorem hostInboundWrite_inside (h : s.dev.inbound l a bs.length = some pa) :
    Happens .hostInboundWrite (.data l a bs) s fun u => u.cellar = s.cellar.setBytes pa bs ∧ u.host = s.host ∧ u.tiles = s.tiles := by
  have e : Becomes .hostInboundWrite (.data l a bs) s (s.cellarWrite pa bs) := by
    intro hi
    simp only [exec_hostInboundWrite, execHostInboundWrite, hi, h]
  exact e.happens ⟨rfl, rfl, rfl⟩

theorem hostInboundWrite_outside (h : s.dev.inbound l a bs.length = none) :
    Happens .hostInboundWrite (.data l a bs) s fun u => l ∈ u.dev.missed ∧ SameMemory s u := by
  have e : Becomes .hostInboundWrite (.data l a bs) s (s.missed l) := by
    intro hi
    simp only [exec_hostInboundWrite, execHostInboundWrite, hi, h]
  exact e.happens ⟨setAdd_mem .., .of_eq rfl rfl⟩

/-! ### Configuration space as it reads (02 R25, R26) -/

theorem hostInboundRead_config {v : Word} (h : s.configRead l n = v) :
    Happens .hostInboundRead (.nums l n) s fun u => u.dev.hostReads = s.dev.hostReads ++ [leBytes 8 v.toNat] ∧ SameMemory s u := by
  have e : Becomes .hostInboundRead (.nums l n) s
      { s with dev := { s.dev with hostReads := s.dev.hostReads ++ [leBytes 8 v.toNat] } } := by
    intro hi
    simp only [exec_hostInboundRead, execHostInboundRead, hi, h]
  exact e.happens ⟨rfl, .of_eq rfl rfl⟩

theorem State.configRead_off (hb : s.dev.boot = .off) (l n) : s.configRead l n = BitVec.allOnes 64 := if_pos hb

theorem State.configRead_peerSelect (hb : s.dev.boot ≠ .off) (l) : s.configRead l 0x1A00 = BitVec.ofNat 64 s.dev.peerSelect := by
  simp [State.configRead, hb]

theorem State.configRead_peerStatus (hb : s.dev.boot ≠ .off) (l) :
    s.configRead l 0x1A08 = (flagAt (s.dev.peers.get? s.dev.peerSelect).isSome 0 ||| flagAt s.dev.peerDiscard 1
      ||| BitVec.ofNat 64 s.dev.peers.length <<< 2) := by
  simp [State.configRead, hb, fieldAt]

theorem PeerEntry.words_reset (i : Nat) : PeerEntry.reset.words.getD i 0 = 0 := by
  match i with
  | 0 | 1 | _ + 2 => rfl
theorem DmaEntry.words_reset (i : Nat) : DmaEntry.reset.words.getD i 0 = 0 := by
  match i with
  | 0 | 1 | 2 | 3 | _ + 4 => rfl

theorem State.configRead_noPeers (hb : s.dev.boot ≠ .off) (hp : s.dev.peers.get? s.dev.peerSelect = none) (hl : 0x4000 ≤ n)
    (hn : n < 0x5000) (l) : s.configRead l n = 0 := by
  rw [State.configRead]
  rw [if_neg hb, if_neg (by omega), if_neg (by omega), if_neg (by omega), if_neg (by omega), if_neg (by omega), if_neg (by omega),
    if_pos hn, hp]
  exact PeerEntry.words_reset _

theorem State.configRead_reserved (hb : s.dev.boot ≠ .off) (hl : 0x5000 ≤ n) (hn : n < 0x8000) (l) : s.configRead l n = 0 := by
  rw [State.configRead]
  rw [if_neg hb, if_neg (by omega), if_neg (by omega), if_neg (by omega), if_neg (by omega), if_neg (by omega), if_neg (by omega),
    if_neg (by omega), if_pos hn]

theorem State.configRead_noDma {i : Nat} (hb : s.dev.boot ≠ .off) (hd : s.dev.dma.get? i = none) (hi : i < 1024) (l) :
    s.configRead l (0x8000 + 32 * i) = 0 := by
  rw [State.configRead]
  rw [if_neg hb, if_neg (by omega), if_neg (by omega), if_neg (by omega), if_neg (by omega), if_neg (by omega), if_neg (by omega),
    if_neg (by omega), if_neg (by omega), if_pos (by omega), show (0x8000 + 32 * i - 0x8000) / 32 = i by omega, hd]
  exact DmaEntry.words_reset _
end

/-! ### Tables of the host (02 R25, R26, R28, R30, R35) -/

@[simp] theorem State.hostWrote_dev (s : State) : s.hostWrote.dev = s.dev := by unfold State.hostWrote; split <;> rfl
@[simp] theorem State.hostWrote_tiles (s : State) : s.hostWrote.tiles = s.tiles := by unfold State.hostWrote; split <;> rfl

theorem DmaEntry.ofWords_four (w0 w1 w2 w3 : Word) : DmaEntry.ofWords [w0, w1, w2, w3] =
    { v := w0.getLsbD 0, rd := w0.getLsbD 1, wr := w0.getLsbD 2, ctx := w0.toNat / 2 ^ 16 % 2 ^ 16
      devBase := w1.toNat / 2 ^ 12 % 2 ^ 36 * 4096, hostBase := w2.toNat / 2 ^ 12 % 2 ^ 52 * 4096, pages := w3.toNat % 2 ^ 32 } := by
  simp [DmaEntry.ofWords, bitsOf]
theorem PeerEntry.ofWords_two (w0 w1 : Word) : PeerEntry.ofWords [w0, w1] =
    { v := w0.getLsbD 0, cp := w0.getLsbD 1, ch := w0.getLsbD 2, port := w0.toNat / 2 ^ 8 % 2 ^ 6, ptag := w0.toNat / 2 ^ 16 % 2 ^ 16
      dev := w0.toNat / 2 ^ 32 % 2 ^ 32, rate := w1.toNat % 2 ^ 16 } := by
  simp [PeerEntry.ofWords, bitsOf]

theorem State.putDma_dev {s : State} {i : Nat} (h : i < 1024) (ws) :
    (s.putDma i ws).dev = { s.dev with dma := s.dev.dma.set i (DmaEntry.ofWords ws), dmaWritten := true } := by
  rw [State.putDma, if_neg (by omega), State.hostWrote_dev]
theorem State.putDma_tiles {s : State} {i : Nat} (h : i < 1024) (ws) : (s.putDma i ws).tiles = s.tiles := by
  rw [State.putDma, if_neg (by omega), State.hostWrote_tiles]

theorem dmaWindowWrite_happens {s : State} {i : Nat} (h : i < 1024) (w0 w1 w2 w3 : Word) :
    Happens .dmaWindowWrite (.words i [w0, w1, w2, w3]) s fun u => u.dev.dmaWritten = true ∧ SameMemory s u
      ∧ u.dev.dma.get? i = some (DmaEntry.ofWords [w0, w1, w2, w3]) := by
  intro hi
  refine ⟨_, by rw [exec_dmaWindowWrite, execDmaWindowWrite, hi], ?_, .of_eq (State.putDma_tiles h _) (State.putDma_bulk ..), ?_⟩
  · rw [State.putDma_dev h]
  · rw [State.putDma_dev h]
    exact Table.get?_set_self ..

section
variable {s : State} {i : Nat} {ws : List Word}

theorem peerTableWrite_eq (s : State) (i) (ws) :
    s.input = .words i ws → exec .peerTableWrite s = .next (s.putPeer i ws) := by
  intro hi
  rw [exec_peerTableWrite, execPeerTableWrite, hi]

/-- The selected context has a table, and the entry goes into it. -/
theorem State.putPeer_table {t : Table PeerEntry} (h : i < 256) (ht : s.dev.peers.get? s.dev.peerSelect = some t) :
    (s.putPeer i ws).dev.peers.get? s.dev.peerSelect = some (t.set i (PeerEntry.ofWords ws)) ∧ (s.putPeer i ws).dev.peerDiscard = false := by
  simp [State.putPeer, ht, Nat.not_le.2 h]

/-- An invalid entry gives a context no table. -/
theorem State.putPeer_invalid (h : i < 256) (ht : s.dev.peers.get? s.dev.peerSelect = none) (hv : (PeerEntry.ofWords ws).v = false) :
    (s.putPeer i ws).dev.peers = s.dev.peers ∧ (s.putPeer i ws).dev.peerDiscard = false := by
  simp [State.putPeer, ht, hv, Nat.not_le.2 h]

/-- A valid entry gives the context a table that holds it alone. -/
theorem State.putPeer_new (h : i < 256) (ht : s.dev.peers.get? s.dev.peerSelect = none) (hv : (PeerEntry.ofWords ws).v = true)
    (hl : s.dev.peers.length < 1024) :
    (s.putPeer i ws).dev.peers.get? s.dev.peerSelect = some [(i, PeerEntry.ofWords ws)] ∧ (s.putPeer i ws).dev.peerDiscard = false := by
  simp [State.putPeer, ht, hv, Nat.not_le.2 h, Nat.not_le.2 hl, Table.set]

/-- While 1,024 tables are in use the write is discarded. -/
theorem State.putPeer_full (h : i < 256) (ht : s.dev.peers.get? s.dev.peerSelect = none) (hv : (PeerEntry.ofWords ws).v = true)
    (hl : 1024 ≤ s.dev.peers.length) : (s.putPeer i ws).dev.peerDiscard = true ∧ (s.putPeer i ws).dev.peers = s.dev.peers := by
  simp [State.putPeer, ht, hv, Nat.not_le.2 h, hl]
end

theorem saturating_succ (x : BitVec 32) :
    (if x = BitVec.allOnes 32 then x else x + 1).toNat = min (x.toNat + 1) 0xFFFFFFFF := by
  split
  next h =>
    subst h
    rfl
  next h =>
    rw [show BitVec.allOnes 32 = 0xFFFFFFFF#32 from rfl] at h
    bv_omega

theorem firmwareTableWrite_completes (s : State) :
    Completes .firmwareTableWrite s fun u => SameMemory s u ∧ u.dev.dma = s.dev.dma ∧ u.dev.peers = s.dev.peers
      ∧ u.dev.refusals.toNat = min (s.dev.refusals.toNat + 1) 0xFFFFFFFF :=
  ⟨_, rfl, .of_eq rfl rfl, rfl, rfl, saturating_succ _⟩

/-! ### Configuration space as it is written (02 R25, R26) -/

theorem configWrite_at {s : State} {link off w : Word} {P : State → Prop} (h : P (s.configWrite link.toNat off.toNat w)) :
    Happens .configWrite (.words 5 [link, off, w]) s P :=
  fun hi => ⟨_, by rw [exec_configWrite, execConfigWrite, hi]; rfl, h⟩

section
variable {s : State} (hb : s.dev.boot ≠ .off) (l : Nat) (w : Word)
include hb

theorem State.configWrite_status {off : Nat} (ho : off < 0x1000) : s.configWrite l off w = s.putStatus (off / 8) w := by
  rw [State.configWrite]
  dsimp only
  rw [if_neg hb, if_pos ho]

theorem State.configWrite_peerSelect : (s.configWrite l 0x1A00 w).dev.peerSelect = w.toNat % 2 ^ 16 := by
  simp [State.configWrite, hb, bitsOf]

/-- The first doubleword of an entry of the DMA window table takes the place of the one that stood there. -/
theorem State.configWrite_dma : s.configWrite l 0x8000 w = s.putDma 0 (((s.dev.dma.get? 0).getD DmaEntry.reset).words.set 0 w) := by
  simp [State.configWrite, hb]
end

theorem configWrite_missed {s : State} (hb : s.dev.boot ≠ .off) (link w : Word) :
    Happens .configWrite (.words 5 [link, 0, w]) s fun u => ∀ j, j ∈ u.dev.missed ↔ j ∈ s.dev.missed ∧ w.getLsbD (8 + j) = false := by
  refine configWrite_at fun j => ?_
  rw [State.configWrite_status hb _ _ (by decide)]
  simp [State.putStatus]

theorem configWrite_dmaHead {s : State} (hb : s.dev.boot ≠ .off) (link w : Word) :
    Happens .configWrite (.words 5 [link, 0x8000, w]) s fun u =>
      (u.dev.dma.get? 0).map (fun (e : DmaEntry) => (e.v, e.rd, e.wr, e.ctx))
        = some (w.getLsbD 0, w.getLsbD 1, w.getLsbD 2, w.toNat / 2 ^ 16 % 2 ^ 16) := by
  refine configWrite_at ?_
  rw [show (0x8000 : Word).toNat = 0x8000 from rfl, State.configWrite_dma hb, State.putDma_dev (by decide)]
  simp [DmaEntry.ofWords, DmaEntry.words, bitsOf]

theorem configWrite_window {s : State} {w0 w1 w4 : Word} (w2 w3 w5 : Word) (h0 : w0.toNat < 2) (h1 : w1.toNat < 16) (hl : 12 ≤ w4.toNat)
    (hu : w4.toNat ≤ 36) :
    Happens .configWrite (.words 0 [w0, w1, w2, w3, w4, w5]) s fun u => u.dev.windows.get? (w0.toNat * 16 + w1.toNat) = some
      { v := w2.toNat % 2 == 1, base := w3.toNat / 2 ^ w4.toNat * 2 ^ w4.toNat, log := w4.toNat
        target := w5.toNat / 2 ^ w4.toNat * 2 ^ w4.toNat } := by
  have e : Becomes .configWrite (.words 0 [w0, w1, w2, w3, w4, w5]) s
      (s.putWindow w0.toNat w1.toNat w2.toNat w3.toNat w4.toNat w5.toNat) := by
    intro hi
    rw [exec_configWrite, execConfigWrite, hi]
    rfl
  have hn : max 12 (min 36 w4.toNat) = w4.toNat := by omega
  refine e.happens ?_
  rw [State.putWindow, if_neg (by omega)]
  simp [InWindow.ofWords, hn]

/-! ### Queue mapping (02 R31, 03 R48, R49, R53) -/

theorem wordsOf_getD (bs : List Byte) {n i : Nat} (h : i < n) : (wordsOf bs n).getD i 0 = wordAt bs i := by
  simp [wordsOf, h]

section
variable {s : State} {q : Nat} {rec : Word}

theorem queueMap_skips (h : s.dev.boot ≠ .ready ∨ 64 ≤ q ∨ (s.queue q).mapped = true) : Becomes .queueMap (.words q [rec]) s s := by
  intro hi
  rw [exec_queueMap, execQueueMap, hi]
  dsimp only
  rw [if_pos (by simpa using h)]

theorem queueMap_fails (hb : s.dev.boot = .ready) (hq : q < 64) (hm : (s.queue q).mapped = false)
    (h : (memSpace rec && rec.toNat % 64 == 0) = false ∨ (s.fwRead 0 rec 128).1 ≠ 0
      ∨ recordGood (wordsOf (s.fwRead 0 rec 128).2 16) = false) :
    Happens .queueMap (.words q [rec]) s fun u => (u.queue q).mapped = false ∧ (u.queue q).reason = 1 ∧ SameMemory s u := by
  intro hi
  refine ⟨s.setQueue q { s.queue q with reason := mapMalformed }, ?_, by simpa using hm, by simp [mapMalformed], .of_eq rfl rfl⟩
  rw [exec_queueMap, execQueueMap, hi]
  dsimp only
  rw [if_neg (by simp [hb, hm]; omega), if_pos]
  by_cases hk : (memSpace rec && rec.toNat % 64 == 0) = true
  · simpa [hk] using h
  · simp [hk]

/-- The queue that a good record opens. -/
def State.opened (s : State) (q : Nat) (rec : Word) (bs : List Byte) : Queue :=
  let w := wordAt bs
  let ctx := bitsOf (w 1) 8 16
  let head := bitsOf (w 2) 0 32
  { s.queue q with
    mapped := true, record := rec, ring := w 0, rlog := bitsOf (w 1) 0 5, prio := bitsOf (w 1) 5 3, ctx := ctx
    dpost := (w 1).getLsbD 24, wline := (w 3).toNat, held := (s.watched ctx (w 3).toNat).getD [], pending := false, rereading := false
    head := head, tail := head, state := 1, reason := 0, served := 0, accepting := false }

theorem queueMap_opens (hb : s.dev.boot = .ready) (hq : q < 64) (hm : (s.queue q).mapped = false)
    (hk : (memSpace rec && rec.toNat % 64 == 0) = true) (hr : (s.fwRead 0 rec 128).1 = 0)
    (hg : recordGood (wordsOf (s.fwRead 0 rec 128).2 16) = true)
    (hc : bitsOf (wordAt (s.fwRead 0 rec 128).2 1) 8 16 = 0 ∨ (s.dev.ctx? (bitsOf (wordAt (s.fwRead 0 rec 128).2 1) 8 16)).isSome = true)
    (hl : (wordAt (s.fwRead 0 rec 128).2 1).getLsbD 24 = true
      ∨ (s.watched (bitsOf (wordAt (s.fwRead 0 rec 128).2 1) 8 16) (wordAt (s.fwRead 0 rec 128).2 3).toNat).isSome = true) :
    Becomes .queueMap (.words q [rec]) s ((s.setQueue q (s.opened q rec (s.fwRead 0 rec 128).2)).putState q) := by
  intro hi
  rw [exec_queueMap, execQueueMap, hi]
  dsimp only
  rw [if_neg (by simp [hb, hm]; omega), if_pos hk, if_neg (by simp [hr, hg])]
  simp only [wordsOf_getD _ (show 0 < 16 by decide), wordsOf_getD _ (show 1 < 16 by decide), wordsOf_getD _ (show 2 < 16 by decide),
    wordsOf_getD _ (show 3 < 16 by decide)]
  rw [if_neg (fun ⟨h0, hn⟩ => hc.elim h0 fun hs => by simp [Option.isNone_iff_eq_none.1 hn] at hs),
    if_neg (by simpa [Option.isSome_iff_ne_none, or_iff_not_imp_left] using hl)]
  rfl

theorem queueUnmap_happens (hm : (s.queue q).mapped = true) :
    Happens .queueUnmap (.num q) s fun u => (u.queue q).mapped = false ∧ (u.queue q).head = (s.queue q).head
      ∧ (u.queue q).commands = (s.queue q).commands.map (fun (c : Command) => { c with orphan := true }) := by
  have e : Becomes .queueUnmap (.num q) s
      ((State.setQueue { s with dev := { s.dev with workers := s.dev.workers + (if (s.queue q).accepting then 1 else 0) } } q
        (s.queue q).unmap).putState q) := by
    intro hi
    simp [execQueueUnmap, hi, hm]
  refine e.happens ?_
  rw [State.putState_queue, State.queue_setQueue_self]
  exact ⟨rfl, rfl, rfl⟩

theorem queueUnmap_skips (hm : (s.queue q).mapped = false) : Becomes .queueUnmap (.num q) s s := by
  intro hi
  rw [exec_queueUnmap, execQueueUnmap, hi]
  dsimp only
  rw [if_pos (by simp [hm])]

/-! ### Watched lines (02 R31, R32, R382) -/

theorem watchedLineInvalidate_happens (hm : (s.queue q).mapped = true) (hd : (s.queue q).dpost = false)
    (hr : (s.queue q).rereading = false) :
    Happens .watchedLineInvalidate (.num q) s fun u => (u.queue q).rereading = true ∧ u.Pending .watchedLineReread (.num q) := by
  have e : Becomes .watchedLineInvalidate (.num q) s
      ((s.setQueue q { s.queue q with rereading := true }).after (1 + Config.memLatency s.free) .watchedLineReread (.num q)).draw := by
    intro hi
    simp [execWatchedLineInvalidate, hi, hm, hd, hr]
  exact e.happens ⟨congrArg Queue.rereading (State.queue_setQueue_self ..),
    _, List.mem_append_right _ (List.mem_singleton.2 rfl), rfl, rfl⟩

@[simp] theorem State.dispatch_dev (s : State) : s.dispatch.dev = s.dev := by unfold State.dispatch; split <;> rfl
@[simp] theorem State.dispatch_tiles (s : State) : s.dispatch.tiles = s.tiles := by unfold State.dispatch; split <;> rfl
@[simp] theorem State.dispatch_queue (s : State) (q) : s.dispatch.queue q = s.queue q := by simp [State.queue]

theorem watchedLineReread_reads {line : List Byte} (hm : (s.queue q).mapped = true) (hr : (s.queue q).rereading = true)
    (hl : s.watched (s.queue q).ctx (s.queue q).wline = some line) :
    Happens .watchedLineReread (.num q) s fun u => (u.queue q).held = line
      ∧ (u.queue q).pending = ((s.queue q).pending || (line != (s.queue q).held && (s.queue q).state == 1)) ∧ SameMemory s u := by
  have e : Becomes .watchedLineReread (.num q) s
      (s.setQueue q { s.queue q with
        rereading := false, held := line
        pending := (s.queue q).pending || (line != (s.queue q).held && (s.queue q).state == 1) }).dispatch := by
    intro hi
    simp [execWatchedLineReread, hi, hm, hr, hl]
  refine e.happens ?_
  rw [State.dispatch_queue, State.queue_setQueue_self]
  exact ⟨rfl, rfl, .of_eq (State.dispatch_tiles _) (State.dispatch_bulk _)⟩

theorem watchedLineReread_refused (hm : (s.queue q).mapped = true) (hr : (s.queue q).rereading = true)
    (hl : s.watched (s.queue q).ctx (s.queue q).wline = none) (hs : (s.queue q).state = 1) :
    Happens .watchedLineReread (.num q) s fun u => (u.queue q).state = 2 ∧ (u.queue q).reason = 0xFFFE := by
  have e : Becomes .watchedLineReread (.num q) s ((s.setQueue q { s.queue q with rereading := false }).stopQueue q detailWatch) := by
    intro hi
    simp [execWatchedLineReread, hi, hm, hr, hl]
  exact e.happens <| State.stopQueue_open (by simpa using hm) (by simpa using hs) (by decide)
end

/-- Settles O55, clause by clause. -/
theorem linkEvents : Obligations.LinkEvents := by
  intro s l a n q i bs w0 w1 w2 w3 w4 w5 rec
  refine ⟨fun pa h => hostInboundRead_inside h, hostInboundRead_outside, fun pa h => hostInboundWrite_inside h, hostInboundWrite_outside,
    fun hr hw => Device.inbound_closed hr hw .., fun hb => hostInboundRead_config (State.configRead_off hb ..), ?config,
    fun h => DmaEntry.ofWords_four .. ▸ dmaWindowWrite_happens h w0 w1 w2 w3, ?peers, firmwareTableWrite_completes s,
    configWrite_window w2 w3 w5, ?select, ?reserve, ?root0, ?refusals, ?map,
    queueMap_skips, queueUnmap_happens, queueUnmap_skips, watchedLineInvalidate_happens, ?reread⟩
  case config =>
    intro hb
    refine ⟨?selectRead, ?statusRead, fun hp hl hn => hostInboundRead_config (State.configRead_noPeers hb hp hl hn l), ?dmaRead,
      fun hl hn => hostInboundRead_config (State.configRead_reserved hb hl hn l), configWrite_missed hb w0 w1, ?refusalsPut, ?reservePut,
      configWrite_at (State.configWrite_peerSelect hb ..), configWrite_dmaHead hb w0 w1⟩
    case selectRead =>
      rintro rfl
      exact hostInboundRead_config (State.configRead_peerSelect hb l)
    case statusRead =>
      rintro rfl
      exact hostInboundRead_config (State.configRead_peerStatus hb l)
    case dmaRead =>
      rintro hd hi rfl
      exact hostInboundRead_config (State.configRead_noDma hb hd hi l)
    case refusalsPut | reservePut => exact configWrite_at (by rw [State.configWrite_status hb _ _ (by decide)]; rfl)
  case peers =>
    intro h
    have hw {P : State → Prop} (hp : P (s.putPeer i [w0, w1])) : Happens .peerTableWrite (.words i [w0, w1]) s P :=
      fun hi => ⟨_, peerTableWrite_eq s i _ hi, hp⟩
    have e := PeerEntry.ofWords_two w0 w1
    exact ⟨fun t ht => hw (e ▸ State.putPeer_table h ht), fun ht hv => hw (State.putPeer_invalid h ht hv),
      fun ht hv hl => hw (e ▸ State.putPeer_new h ht hv hl), fun ht hv hl => hw (State.putPeer_full h ht hv hl)⟩
  case select | reserve | root0 | refusals =>
    intro hi
    exact ⟨_, by rw [exec_configWrite, execConfigWrite, hi]; rfl, by simp [State.putStatus, bitsOf]⟩
  case map =>
    intro hb hq hm
    refine ⟨queueMap_fails hb hq hm, fun hk hr hg hc hl hi => ⟨_, queueMap_opens hb hq hm hk hr hg hc hl hi, ?_, ?_⟩⟩
    · rw [State.putState_queue, State.queue_setQueue_self]
      simp [State.opened, bitsOf]
    · rw [State.putState_queue, State.putState, State.queue_setQueue_self]
      exact ((State.SeenAlike.setQueue ..).fwWrite ..).1.cellar
  case reread => exact fun hm hr => ⟨fun line hl => watchedLineReread_reads hm hr hl, watchedLineReread_refused hm hr⟩

end Sys2Proof.Machine
end

section
/-!
PROOFS. The commands SIGNAL, WAIT, TASKS, COPY and STATUS (03 R46, R51, R60, R61, R63, 02 R30, 07 R152). Each event of a command is said
once, as the state it becomes when the command still stands; what a command has read and written does not depend on the agenda, the queues
or the gateways' translations (`State.SeenAlike`).
-/
namespace Sys2Proof.Machine

/-! ### Commands that complete (03 R51, R52) -/

/-- The completion of command `id` of queue `q` with this status, detail and value is on its way. -/
def State.Completing (u : State) (q id st dt : Nat) (v : Word) : Prop :=
  u.Pending .commandComplete (.words q [BitVec.ofNat 64 id, BitVec.ofNat 64 st, BitVec.ofNat 64 dt, v])

theorem State.complete_completing (s : State) (q id st dt v) : (s.complete q id st dt v).Completing q id st dt v :=
  ⟨_, List.mem_append_right _ (List.mem_singleton.2 rfl), rfl, rfl⟩
theorem State.refuse_completing (s : State) (q id d i) : (s.refuse q id d i).Completing q id 1 (0x0B + 256 * d) i :=
  State.complete_completing ..

/-- A record in the agenda outlasts what is added to it. -/
theorem State.DueIn.after {s t : State} {n ev arg} (h : s.DueIn t n ev arg) (m ev' arg') : s.DueIn (t.after m ev' arg') n ev arg := by
  obtain ⟨x, hx, e⟩ := h
  exact ⟨x, List.mem_append_left _ hx, e⟩

@[simp] theorem State.fwWrite_now (s : State) (ctx a bs) : (s.fwWrite ctx a bs).1.now = s.now := by
  obtain ⟨m, h, l, e⟩ := s.fwWrite_eq ctx a bs
  rw [e]

/-- The command that a change of one of its queue's commands leaves there. -/
theorem State.command?_setCommand {s : State} {q id : Nat} {c : Command} (hc : s.command? q id = some c) {f : Command → Command}
    (hf : ∀ c, (f c).id = c.id) : (s.setQueue q ((s.queue q).setCommand id f)).command? q id = some (f c) := by
  have hp : ((fun d : Command => d.id == id) ∘ fun d => if d.id = id then f d else d) = fun d => d.id == id := by
    funext d
    simp only [Function.comp]
    split <;> simp [hf]
  have hi : c.id = id := by simpa using List.find?_some hc
  rw [State.command?, State.queue_setQueue_self, Queue.setCommand]
  dsimp only
  rw [List.find?_map, hp, show List.find? _ (s.queue q).commands = some c from hc]
  simp [hi]

section
variable {s : State} {q id : Nat} {c : Command}

/-! ### SIGNAL (03 R63) -/

theorem signal_refused (hc : s.command? q id = some c) (hw : (s.fwWrite c.ctx (c.dw 1) (leBytes 8 (c.dw 2).toNat)).2 ≠ 0) :
    Becomes .signal (.cmd q id) s (s.refuse q id (s.fwWrite c.ctx (c.dw 1) (leBytes 8 (c.dw 2).toNat)).2 1) := by
  intro hi
  simp only [exec_signal, execSignal, hi, hc, if_pos hw]

/-- WAITs of a place are told to look. -/
def State.wakeWaitsOn (s : State) (ws : List (Nat × Nat)) : State := ws.foldl (fun s x => s.after 0 .waitPoll (.nums x.1 x.2)) s

theorem signal_written (hc : s.command? q id = some c) (hw : (s.fwWrite c.ctx (c.dw 1) (leBytes 8 (c.dw 2).toNat)).2 = 0) :
    Becomes .signal (.cmd q id) s (((s.fwWrite c.ctx (c.dw 1) (leBytes 8 (c.dw 2).toNat)).1.wakeWaitsOn
      (s.waitsOn (s.wordPlace c.ctx (c.dw 1)))).complete q id statusOk 0 0) := by
  intro hi
  simp only [exec_signal, execSignal, hi, hc, ne_eq, hw, not_true, if_false]
  rfl

@[simp] theorem State.wakeWaitsOn_bulk (s : State) (ws) : (s.wakeWaitsOn ws).bulk = s.bulk := by simp [State.wakeWaitsOn]

theorem State.wakeWaitsOn_dueIn {s t : State} (h : t.now = s.now) {ws : List (Nat × Nat)} {x : Nat × Nat} (hx : x ∈ ws) :
    s.DueIn (t.wakeWaitsOn ws) 0 .waitPoll (.nums x.1 x.2) := by
  have keeps (l : List (Nat × Nat)) {t : State} (ht : s.DueIn t 0 .waitPoll (.nums x.1 x.2)) :
      s.DueIn (t.wakeWaitsOn l) 0 .waitPoll (.nums x.1 x.2) :=
    List.foldlRecOn (motive := fun u : State => s.DueIn u 0 .waitPoll (.nums x.1 x.2)) l _ ht fun u hu y _ => hu.after ..
  induction ws generalizing t with
  | nil => simp at hx
  | cons y ws ih =>
    rcases List.mem_cons.1 hx with rfl | hx
    · exact keeps ws (State.after_dueIn h ..)
    · exact ih (t := t.after 0 .waitPoll (.nums y.1 y.2)) h hx

/-! ### WAIT (03 R63) -/

theorem State.lookWait_refused (hc : s.command? q id = some c) (again) (hr : (s.fwRead c.ctx (c.dw 1) 8).1 ≠ 0) :
    s.lookWait q id again = s.refuse q id (s.fwRead c.ctx (c.dw 1) 8).1 1 := by
  simp only [State.lookWait, hc, if_pos hr]

theorem State.lookWait_reached (hc : s.command? q id = some c) (again) (hr : (s.fwRead c.ctx (c.dw 1) 8).1 = 0)
    (hv : (c.dw 2).toNat ≤ (wordAt (s.fwRead c.ctx (c.dw 1) 8).2 0).toNat) :
    s.lookWait q id again = s.complete q id statusOk 0 (wordAt (s.fwRead c.ctx (c.dw 1) 8).2 0) := by
  have hu : (c.dw 2).ule (wordAt (s.fwRead c.ctx (c.dw 1) 8).2 0) = true := by simpa [BitVec.ule] using hv
  simp only [State.lookWait, hc, hr, ne_eq, not_true, if_false, if_pos hu]

/-- A WAIT that goes on keeps the value it has read. -/
def State.keepRead (s : State) (q id : Nat) (v : Word) : State := s.setQueue q ((s.queue q).setCommand id (fun c => { c with value := v }))

theorem State.lookWait_below (hc : s.command? q id = some c) (again) (hr : (s.fwRead c.ctx (c.dw 1) 8).1 = 0)
    (hv : (wordAt (s.fwRead c.ctx (c.dw 1) 8).2 0).toNat < (c.dw 2).toNat) :
    s.lookWait q id again = if again = true then (s.keepRead q id (wordAt (s.fwRead c.ctx (c.dw 1) 8).2 0)).after 5000 .waitPoll (.cmd q id)
      else s.keepRead q id (wordAt (s.fwRead c.ctx (c.dw 1) 8).2 0) := by
  have hu : ¬ (c.dw 2).ule (wordAt (s.fwRead c.ctx (c.dw 1) 8).2 0) = true := by simpa [BitVec.ule] using hv
  simp only [State.lookWait, hc, hr, ne_eq, not_true, if_false, if_neg hu]
  rfl

/-- A look adds to the agenda. -/
theorem State.lookWait_dueIn {s t : State} {n ev arg} (h : s.DueIn t n ev arg) (q id again) : s.DueIn (t.lookWait q id again) n ev arg := by
  fun_cases State.lookWait
  · exact h
  · exact h.after ..
  · exact h.after ..
  · exact State.DueIn.after (t := t.setQueue q _) h ..
  · exact h

/-- The state in which a WAIT first looks: its limit, if it has one, is running. -/
def State.startLimit (s : State) (q id : Nat) (c : Command) : State :=
  if bitsOf (c.dw 3) 0 32 = 0 then s else s.after (cyclesOf (bitsOf (c.dw 3) 0 32 * 1000)) .waitLimit (.cmd q id)

theorem State.startLimit_dev (s : State) (q id c) : (s.startLimit q id c).dev = s.dev := by unfold State.startLimit; split <;> rfl
theorem State.startLimit_now (s : State) (q id c) : (s.startLimit q id c).now = s.now := by unfold State.startLimit; split <;> rfl
theorem State.startLimit_bulk (s : State) (q id c) : (s.startLimit q id c).bulk = s.bulk := by unfold State.startLimit; split <;> rfl

theorem wait_looks (hc : s.command? q id = some c) : Becomes .wait (.cmd q id) s ((s.startLimit q id c).lookWait q id true) := by
  intro hi
  simp only [exec_wait, execWait, hi, hc]
  rfl

/-- Each of the three events by which a WAIT looks at its address is one look, in a state that differs at most in the agenda; the look that
a SIGNAL causes starts no further poll. -/
theorem waitEvents_look (hc : s.command? q id = some c) {x : Instr × Payload}
    (hx : x ∈ [(Instr.wait, Payload.cmd q id), (.waitPoll, .cmd q id), (.waitPoll, .nums q id)]) :
    ∃ t : State, ∃ again : Bool, Becomes x.1 x.2 s (t.lookWait q id again) ∧ t.dev = s.dev ∧ t.bulk = s.bulk ∧ t.now = s.now
      ∧ (x.2 = .cmd q id → again = true) := by
  simp only [List.mem_cons, List.not_mem_nil, or_false] at hx
  obtain rfl | rfl | rfl := hx
  · exact ⟨_, true, wait_looks hc, s.startLimit_dev .., s.startLimit_bulk .., s.startLimit_now .., fun _ => rfl⟩
  · exact ⟨s, true, fun hi => by rw [exec_waitPoll, execWaitPoll, hi], rfl, rfl, rfl, fun _ => rfl⟩
  · exact ⟨s, false, fun hi => by rw [exec_waitPoll, execWaitPoll, hi], rfl, rfl, rfl, fun h => nomatch h⟩

theorem State.command?_of_dev {s t : State} (h : t.dev = s.dev) (q id) : t.command? q id = s.command? q id := by
  simp [State.command?, State.queue, h]

theorem waitEvents_happen (hc : s.command? q id = some c) {x : Instr × Payload}
    (hx : x ∈ [(Instr.wait, Payload.cmd q id), (.waitPoll, .cmd q id), (.waitPoll, .nums q id)]) :
    let r := s.fwRead c.ctx (c.dw 1) 8
    let v := wordAt r.2 0
    (r.1 ≠ 0 → Happens x.1 x.2 s fun u => u.Completing q id 1 (0x0B + 256 * r.1) 1)
    ∧ (r.1 = 0 → (c.dw 2).toNat ≤ v.toNat → Happens x.1 x.2 s fun u => u.Completing q id 0 0 v)
    ∧ (r.1 = 0 → v.toNat < (c.dw 2).toNat → Happens x.1 x.2 s fun u => (u.command? q id).map Command.value = some v
        ∧ (x.2 = .cmd q id → s.DueIn u 5000 .waitPoll (.cmd q id))) := by
  obtain ⟨t, again, e, hd, hb, hn, ha⟩ := waitEvents_look hc hx
  have ht : t.command? q id = some c := by rw [State.command?_of_dev hd, hc]
  rw [← (State.SeenAlike.of_dev hd hb).fwRead]
  refine ⟨fun hr => e.happens ?_, fun hr hv => e.happens ?_, fun hr hv => e.happens ?_⟩
  · rw [State.lookWait_refused ht again hr]
    exact State.refuse_completing ..
  · rw [State.lookWait_reached ht again hr hv]
    exact State.complete_completing ..
  · have hk : (t.keepRead q id (wordAt (t.fwRead c.ctx (c.dw 1) 8).2 0)).command? q id = _ := State.command?_setCommand ht fun _ => rfl
    rw [State.lookWait_below ht again hr hv]
    cases again with
    | true => exact ⟨congrArg (Option.map Command.value) hk, fun _ => State.after_dueIn (u := t.keepRead ..) hn ..⟩
    | false => exact ⟨congrArg (Option.map Command.value) hk, fun h => nomatch ha h⟩

theorem wait_limit (hc : s.command? q id = some c) (hl : (c.dw 3).toNat % 2 ^ 32 ≠ 0) :
    Happens .wait (.cmd q id) s fun u => s.DueIn u (2500 * ((c.dw 3).toNat % 2 ^ 32)) .waitLimit (.cmd q id) := by
  have hb : bitsOf (c.dw 3) 0 32 = (c.dw 3).toNat % 2 ^ 32 := by simp [bitsOf]
  have hn : cyclesOf ((c.dw 3).toNat % 2 ^ 32 * 1000) = 2500 * ((c.dw 3).toNat % 2 ^ 32) := by
    unfold cyclesOf
    omega
  refine (wait_looks hc).happens (State.lookWait_dueIn ?_ ..)
  rw [State.startLimit, hb, if_neg hl, hn]
  exact State.after_dueIn rfl ..

theorem waitLimit_completes (hc : s.command? q id = some c) :
    Becomes .waitLimit (.cmd q id) s (s.complete q id statusTimeLimit 0 c.value) := by
  intro hi
  simp only [exec_waitLimit, execWaitLimit, hi, hc]

/-! ### TASKS (03 R60, R61) -/

theorem tasks_begins (hc : s.command? q id = some c) : Becomes .tasks (.cmd q id) s (s.after 1 .tasksAppend (.cmd q id)) := by
  intro hi
  simp only [exec_tasks, execTasks, hi, hc, Option.isSome_some, if_true]

theorem bitsOf_low (w : Word) (n : Nat) : bitsOf w 0 n = w.toNat % 2 ^ n := by simp [bitsOf]

theorem tasksAppend_over (hc : s.command? q id = some c) (hn : c.value.toNat = (c.dw 2).toNat % 2 ^ 32) :
    Happens .tasksAppend (.cmd q id) s fun u => u.Completing q id 0 0 c.value := by
  have e : Becomes .tasksAppend (.cmd q id) s (s.complete q id statusOk 0 c.value) := by
    intro hi
    simp only [exec_tasksAppend, execTasksAppend, hi, hc, bitsOf_low, if_pos hn]
  exact e.happens (State.complete_completing ..)

theorem tasksAppend_happens (hc : s.command? q id = some c) (hn : c.value.toNat ≠ (c.dw 2).toNat % 2 ^ 32) :
    let hd := s.fwRead c.ctx (c.dw 3) 24
    let prod := wordAt hd.2 0
    let plog := (wordAt hd.2 2).toNat % 2 ^ 5
    let free := s.entryFree c.ctx (c.dw 3) prod (wordAt hd.2 1) plog
    let p := s.fwRead c.ctx (c.dw 1 + 64 * c.value) 64
    let w := s.fwWrite c.ctx (packetAddr (c.dw 3) plog prod.toNat) p.2
    let v := w.1.fwWrite c.ctx (c.dw 3) (leBytes 8 (prod + 1).toNat)
    let refused (d : Nat) (i : Word) (u : State) : Prop := u.Completing q id 1 (0x0B + 256 * d) i
    (hd.1 ≠ 0 → Happens .tasksAppend (.cmd q id) s (refused hd.1 3))
    ∧ (hd.1 = 0 → free = false → Happens .tasksAppend (.cmd q id) s fun u => u.Pending .tasksAppend (.cmd q id) ∧ SameMemory s u)
    ∧ (hd.1 = 0 → free = true → p.1 ≠ 0 → Happens .tasksAppend (.cmd q id) s (refused p.1 1))
    ∧ (hd.1 = 0 → free = true → p.1 = 0 → w.2 ≠ 0 → Happens .tasksAppend (.cmd q id) s (refused w.2 3))
    ∧ (hd.1 = 0 → free = true → p.1 = 0 → w.2 = 0 → v.2 = 0 → Happens .tasksAppend (.cmd q id) s fun u =>
        u.cellar = v.1.cellar ∧ u.host = v.1.host ∧ (u.command? q id).map Command.value = some (c.value + 1)
        ∧ s.DueIn u 1 .tasksAppend (.cmd q id)) := by
  intro hd prod plog free p w v refused
  have e (hi : s.input = .cmd q id) : exec .tasksAppend s =
      if hd.1 ≠ 0 then .next (s.refuse q id hd.1 3)
      else if !free then .next (s.after (1 + Config.memLatency s.free) .tasksAppend (.cmd q id)).draw
      else if p.1 ≠ 0 then .next (s.refuse q id p.1 1)
      else if w.2 ≠ 0 then .next (s.refuse q id w.2 3)
      else if v.2 ≠ 0 then .next (s.refuse q id v.2 3)
      else .next ((v.1.keepRead q id (c.value + 1)).after 1 .tasksAppend (.cmd q id)) := by
    simp only [exec_tasksAppend, execTasksAppend, hi, hc, bitsOf_low, if_neg hn]
    rfl
  refine ⟨fun hh hi => ?head, fun hh hf hi => ?full, fun hh hf hp hi => ?packet, fun hh hf hp hw hi => ?entry,
    fun hh hf hp hw hv hi => ?appended⟩
  all_goals rw [Completes, e hi]
  case head =>
    rw [if_pos hh]
    exact ⟨_, rfl, State.refuse_completing ..⟩
  all_goals rw [if_neg (not_not.2 hh), hf]
  case full => exact ⟨_, rfl, ⟨_, List.mem_append_right _ (List.mem_singleton.2 rfl), rfl, rfl⟩, .of_eq rfl rfl⟩
  case packet =>
    rw [if_neg (by decide), if_pos hp]
    exact ⟨_, rfl, State.refuse_completing ..⟩
  case entry =>
    rw [if_neg (by decide), if_neg (not_not.2 hp), if_pos hw]
    exact ⟨_, rfl, State.refuse_completing ..⟩
  case appended =>
    rw [if_neg (by decide), if_neg (not_not.2 hp), if_neg (not_not.2 hw), if_neg (not_not.2 hv)]
    have hq : v.1.command? q id = some c := by
      rw [State.command?, State.fwWrite_queue, State.fwWrite_queue]
      exact hc
    have hk : (v.1.keepRead q id (c.value + 1)).command? q id = _ := State.command?_setCommand hq fun _ => rfl
    have ht : v.1.now = s.now := by rw [State.fwWrite_now, State.fwWrite_now]
    clear_value v
    exact ⟨_, rfl, rfl, rfl, congrArg (Option.map Command.value) hk, State.after_dueIn (u := v.1.keepRead ..) ht ..⟩

/-! ### COPY (03 R51) -/

/-- The tiles of a partition that may carry out a copy, and the one that does (log 30). -/
def State.copyTiles (s : State) (ctx : Nat) : List TileId := (s.tilesOf ctx).filter (fun k => !isShadow k)
def State.copyTile (s : State) (ctx : Nat) : TileId := (s.copyTiles ctx).getD (Config.choice s.free % (s.copyTiles ctx).length) 0

/-- The partition is away: no tile, or not resident. -/
def State.away (s : State) (ctx : Nat) : Prop := s.copyTiles ctx = [] ∨ (s.dev.ctx? ctx).map Ctx.res ≠ some .resident

theorem copy_waits (hc : s.command? q id = some c) (ha : s.away c.ctx) :
    Happens .copy (.cmd q id) s fun u => s.DueIn u 1024 .copy (.cmd q id) := by
  have e : Becomes .copy (.cmd q id) s (s.draw.after 1024 .copy (.cmd q id)) := by
    intro hi
    simp only [exec_copy, execCopy, hi, hc, State.draw_input]
    exact if_pos (ha.imp_left List.isEmpty_iff.2)
  exact e.happens (State.after_dueIn (s := s) (u := s.draw) rfl ..)

theorem copy_happens (hc : s.command? q id = some c) (ha : ¬ s.away c.ctx) :
    let k := s.copyTile c.ctx
    let x := s.commandRecord c.ctx (c.dw 1)
    let y := s.commandRecord c.ctx (c.dw 2)
    let z := (c.dw 3).getLsbD 0
    let fault := s.draw.recordsFault k 0 z (c.dw 1) (c.dw 2) x.2 y.2
    (x.1 ≠ 0 → Happens .copy (.cmd q id) s fun u => u.Completing q id 1 (0x0B + 256 * x.1) 1)
    ∧ (x.1 = 0 → y.1 ≠ 0 → Happens .copy (.cmd q id) s fun u => u.Completing q id 1 (0x0B + 256 * y.1) 2)
    ∧ (∀ f : TrapInfo, x.1 = 0 → y.1 = 0 → fault = some f → Happens .copy (.cmd q id) s fun u =>
        u.Completing q id 1 (f.code + 256 * f.detail) (if f.val = c.dw 1 then 1 else 2))
    ∧ (x.1 = 0 → y.1 = 0 → fault = none → Happens .copy (.cmd q id) s fun u =>
        u.Pending .copy (.xfer (some k) (commandXfer k c.ctx q id (parseLayout x.2) (parseLayout y.2) z)) ∧ SameMemory s u) := by
  intro k x y z fault
  have ha' : ¬ ((s.copyTiles c.ctx).isEmpty = true ∨ (s.draw.dev.ctx? c.ctx).map Ctx.res ≠ some .resident) :=
    fun h => ha (h.imp_left List.isEmpty_iff.1)
  have e (hi : s.input = .cmd q id) : exec .copy s =
      if x.1 ≠ 0 then .next (s.draw.refuse q id x.1 1)
      else if y.1 ≠ 0 then .next (s.draw.refuse q id y.1 2)
      else match fault with
        | some t => .next (s.draw.complete q id statusFaulted (t.code + 256 * t.detail) (if t.val = c.dw 1 then 1 else 2))
        | none => .next (s.draw.sendOn memoryPort k 3 (18 + 3 * s.draw.dieLinks (clusterOf k) + 3) .copy
            (.xfer (some k) (commandXfer k c.ctx q id (parseLayout x.2) (parseLayout y.2) z))) := by
    simp only [exec_copy, execCopy, hi, hc]
    exact if_neg ha'
  refine ⟨fun hx hi => ?source, fun hx hy hi => ?target, fun f hx hy hf hi => ?fault, fun hx hy hf hi => ?sent⟩
  all_goals rw [Completes, e hi]
  case source =>
    rw [if_pos hx]
    exact ⟨_, rfl, State.refuse_completing ..⟩
  case target =>
    rw [if_neg (not_not.2 hx), if_pos hy]
    exact ⟨_, rfl, State.refuse_completing ..⟩
  all_goals rw [if_neg (not_not.2 hx), if_neg (not_not.2 hy), hf]
  case fault => exact ⟨_, rfl, State.complete_completing ..⟩
  case sent => exact ⟨_, rfl, ⟨_, List.mem_append_right _ (List.mem_singleton.2 rfl), rfl, rfl⟩, .of_eq rfl rfl⟩

/-! The copy at its tile. -/

@[simp] theorem State.packet_tile_c (s : State) (a b cls fl ev arg k) : ((s.packet a b cls fl ev arg).tile k).c = (s.tile k).c := by
  unfold State.packet
  split
  · rfl
  · by_cases h : k = a
    · rw [h, State.tile_inject_self]
    · rw [State.tile_inject_ne _ _ h]

theorem State.askRanges_tile_c (s : State) (k o j) : ((s.askRanges k o).tile j).c = (s.tile j).c :=
  List.foldlRecOn (motive := fun u : State => (u.tile j).c = (s.tile j).c) _ _ rfl fun _ h _ _ => (State.packet_tile_c ..).trans h

/-- An operation that enters a tile's queue stands there under the next number. -/
theorem State.enqueue_mem (s : State) (k : TileId) (o : EngOp) :
    ∃ o' ∈ ((s.enqueue k o).tile k).c.ops, o'.id = (s.tile k).c.nextOp ∧ o'.cmd = o.cmd ∧ o'.job = o.job := by
  rw [State.enqueue]
  dsimp only
  rw [State.askRanges_tile_c, State.tile_setCtx_self]
  exact ⟨_, List.mem_append_right _ (List.mem_singleton.2 rfl), rfl, rfl, rfl⟩

/-- An operation that asks for its start stays in its queue. -/
theorem State.kick_mem {P : EngOp → Prop} (hP : ∀ o, P o → P { o with asked := true }) {s : State} {k : TileId}
    (h : ∃ o ∈ (s.tile k).c.ops, P o) : ∃ o ∈ ((s.kick k).tile k).c.ops, P o := by
  refine List.foldlRecOn (motive := fun u : State => ∃ o ∈ (u.tile k).c.ops, P o) _ _ h fun u hu x _ => ?_
  split
  · obtain ⟨o, ho, hp⟩ := hu
    rw [State.tile, State.after_tiles, ← State.tile, State.tile_setCtx_self]
    refine ⟨_, List.mem_map_of_mem ho, ?_⟩
    split
    · exact hP o hp
    · exact hp
  · exact hu

theorem State.enqueueCopy_mem (s : State) (k : TileId) (x : Xfer) :
    ∃ o ∈ ((s.enqueueCopy k x).tile k).c.ops, o.id = (s.tile k).c.nextOp ∧ o.cmd = some (x.start, x.id)
      ∧ ∃ path, o.job = .copy 0 0 path x.src x.dst x.z := by
  refine State.kick_mem (fun o h => h) ?_
  obtain ⟨o, ho, hi, hc, hj⟩ := s.enqueue_mem k _
  exact ⟨o, ho, hi, hc, _, hj⟩

section
variable {k : TileId} {x : Xfer}

theorem copyAt_gone (h : (s.tile k).r.ctx ≠ x.ctx) : Becomes .copy (.xfer (some k) x) s s := by
  intro hi
  simp only [exec_copy, execCopy, hi, if_pos h]

theorem copyAt_busy (h : (s.tile k).r.ctx = x.ctx) (hn : 16 ≤ (s.tile k).c.copies) (hq : (s.tile k).r.quiet = false) :
    Becomes .copy (.xfer (some k) x) s (s.after 64 .copy (.xfer (some k) x)) := by
  intro hi
  simp [execCopy, hi, h, hn, hq]

theorem copyAt_enters (h : (s.tile k).r.ctx = x.ctx) (hn : (s.tile k).c.copies < 16) :
    Happens .copy (.xfer (some k) x) s fun u => ∃ o ∈ (u.tile k).c.ops, o.id = (s.tile k).c.nextOp ∧ o.cmd = some (x.start, x.id)
      ∧ ∃ path, o.job = .copy 0 0 path x.src x.dst x.z := by
  have e : Becomes .copy (.xfer (some k) x) s ((s.note k .copy (.xfer (some k) x)).enqueueCopy k x) := by
    intro hi
    simp [execCopy, hi, h, Nat.not_le.2 hn]
  refine e.happens ?_
  have hm := (s.note k .copy (.xfer (some k) x)).enqueueCopy_mem k x
  rwa [State.note, State.tile_logRec_c] at hm
end

/-! ### STATUS (03 R46, 07 R152, 02 R30) -/

theorem Table.get?_mapVals {α : Type} (t : Table α) (f : α → α) (k : Nat) : (t.mapVals f).get? k = (t.get? k).map f := by
  induction t with
  | nil => rfl
  | cons x t ih =>
    by_cases h : x.1 = k
    · simp [Table.mapVals, Table.get?, h]
    · simpa [Table.mapVals, Table.get?, h] using ih

/-- The gateways without the translations of a context. -/
def State.dropTrans (s : State) (ctx : Nat) : State :=
  { s with clusters := s.clusters.mapVals (fun (x : Cluster) => { x with tcache := x.tcache.filter (fun e => e.ctx != ctx) }) }

/-- No gateway holds a translation of the context. -/
def State.NoTrans (u : State) (ctx : Nat) : Prop := ∀ cl, ∀ e ∈ (u.cluster cl).tcache, e.ctx ≠ ctx

theorem State.noTrans_of_clusters {s u : State} {ctx : Nat} (h : u.clusters = (s.dropTrans ctx).clusters) : u.NoTrans ctx := by
  intro cl e he
  rw [State.cluster, h, State.dropTrans, Table.get?_mapVals] at he
  cases hs : s.clusters.get? cl with
  | none => simp [hs, Cluster.reset] at he
  | some x =>
    have h : e ∈ x.tcache ∧ e.ctx ≠ ctx := by simpa [hs] using he
    exact h.2

@[simp] theorem State.fwWrite_clusters (s : State) (ctx a bs) : (s.fwWrite ctx a bs).1.clusters = s.clusters := by
  obtain ⟨m, h, l, e⟩ := s.fwWrite_eq ctx a bs
  rw [e]

theorem status_waits (hc : s.command? q id = some c) (hb : s.hostBusy c.ctx = true) :
    Becomes .status (.cmd q id) s (s.after 1 .status (.cmd q id)) := by
  intro hi
  simp only [exec_status, execStatus, hi, hc, hb, if_true]

/-- The machine once a STATUS has written its block. -/
def State.statusState (s : State) (c : Command) : State :=
  { ((s.dropTrans c.ctx).fwWrite c.ctx (c.dw 1) (s.freeBytes 64)).1 with free := s.free + 64 }

theorem State.statusState_cellar (s : State) (c : Command) :
    (s.statusState c).cellar = (s.fwWrite c.ctx (c.dw 1) (s.freeBytes 64)).1.cellar :=
  ((State.SeenAlike.of_dev (s := s) (u := s.dropTrans c.ctx) rfl rfl).fwWrite ..).1.cellar
theorem State.statusState_input (s : State) (c : Command) : (s.statusState c).input = s.input := by
  obtain ⟨m, h, l, e⟩ := (s.dropTrans c.ctx).fwWrite_eq c.ctx (c.dw 1) (s.freeBytes 64)
  rw [State.statusState, e]
  rfl
theorem State.statusState_now (s : State) (c : Command) : (s.statusState c).now = s.now := State.fwWrite_now ..
theorem State.statusState_noTrans (s : State) (c : Command) {u : State} (h : u.clusters = (s.statusState c).clusters) : u.NoTrans c.ctx :=
  State.noTrans_of_clusters (s := s) (h.trans (State.fwWrite_clusters ..))

theorem status_happens (hc : s.command? q id = some c) (hb : s.hostBusy c.ctx = false) :
    let w := s.fwWrite c.ctx (c.dw 1) (s.freeBytes 64)
    (w.2 ≠ 0 → Happens .status (.cmd q id) s fun u => u.NoTrans c.ctx ∧ u.Completing q id 1 (0x0B + 256 * w.2) 1)
    ∧ (w.2 = 0 → (c.dw 2).getLsbD 0 = false → Happens .status (.cmd q id) s fun u =>
        u.NoTrans c.ctx ∧ u.cellar = w.1.cellar ∧ u.Completing q id 0 0 0)
    ∧ (w.2 = 0 → (c.dw 2).getLsbD 0 = true → Happens .status (.cmd q id) s fun u =>
        u.NoTrans c.ctx ∧ u.cellar = w.1.cellar ∧ s.DueIn u 1 .statusAttest (.cmd q id)) := by
  intro w
  have hw : ((s.dropTrans c.ctx).fwWrite c.ctx (c.dw 1) (s.freeBytes 64)).2 = w.2 :=
    ((State.SeenAlike.of_dev (s := s) (u := s.dropTrans c.ctx) rfl rfl).fwWrite ..).2
  have e (hi : s.input = .cmd q id) : exec .status s = if w.2 ≠ 0 then .next ((s.statusState c).refuse q id w.2 1)
      else if (c.dw 2).getLsbD 0 then .next ((s.statusState c).after 1 .statusAttest (s.statusState c).input)
      else .next ((s.statusState c).complete q id statusOk 0 0) := by
    rw [← hw]
    simp only [exec_status, execStatus, State.statusState, State.dropTrans, hi, hc, hb, Bool.false_eq_true, if_false]
    rfl
  refine ⟨fun h hi => ⟨_, (e hi).trans (if_pos h), s.statusState_noTrans c rfl, State.refuse_completing ..⟩, fun h ht hi => ?_, fun h ht hi => ?_⟩
  · exact ⟨_, (e hi).trans ((if_neg (not_not.2 h)).trans (if_neg (Bool.eq_false_iff.1 ht))), s.statusState_noTrans c rfl, s.statusState_cellar c,
      State.complete_completing ..⟩
  · rw [State.statusState_input, hi] at e
    exact ⟨_, (e rfl).trans ((if_neg (not_not.2 h)).trans (if_pos ht)), s.statusState_noTrans c rfl, s.statusState_cellar c,
      State.after_dueIn (s.statusState_now c) ..⟩

theorem statusAttest_happens (hc : s.command? q id = some c) :
    let w := s.fwWrite c.ctx (c.dw 1) (s.freeBytes 64)
    let n := s.fwRead c.ctx (c.dw 3) 32
    (n.1 ≠ 0 → Becomes .statusAttest (.cmd q id) s (s.refuse q id n.1 3))
    ∧ (n.1 = 0 → w.2 ≠ 0 → Becomes .statusAttest (.cmd q id) s (s.refuse q id w.2 1))
    ∧ (n.1 = 0 → w.2 = 0 → Becomes .statusAttest (.cmd q id) s (State.complete { w.1 with free := s.free + 64 } q id statusOk 0 0)) := by
  intro w n
  refine ⟨fun hn hi => ?_, fun hn hw hi => ?_, fun hn hw hi => ?_⟩ <;> simp only [exec_statusAttest, execStatusAttest, hi, hc]
  · exact if_pos hn
  · exact (if_neg (not_not.2 hn)).trans (if_pos hw)
  · exact (if_neg (not_not.2 hn)).trans (if_neg (not_not.2 hw))
end

/-- Settles O57, command by command. -/
theorem commandEvents : Obligations.CommandEvents := by
  intro s q id c hc
  refine ⟨⟨fun hw => ?signal, fun hw => (signal_refused hc hw).happens ⟨.of_eq rfl rfl, State.refuse_completing ..⟩⟩,
    ⟨fun x hx => waitEvents_happen hc hx, wait_limit hc, (waitLimit_completes hc).happens (State.complete_completing ..)⟩,
    (tasks_begins hc).happens ⟨State.after_dueIn rfl .., .of_eq rfl rfl⟩, ⟨tasksAppend_over hc, tasksAppend_happens hc⟩,
    ⟨copy_waits hc, copy_happens hc⟩, fun k a b z => ?copyAt, fun hb => (status_waits hc hb).happens ⟨State.after_dueIn rfl .., .of_eq rfl rfl⟩,
    status_happens hc, ?attest⟩
  case copyAt =>
    let x := commandXfer k c.ctx q id a b z
    exact ⟨copyAt_gone (x := x), fun h hn hq => (copyAt_busy (x := x) h hn hq).happens (State.after_dueIn rfl ..), copyAt_enters (x := x)⟩
  case signal =>
    have hb := (State.wakeWaitsOn_bulk (s.fwWrite c.ctx (c.dw 1) (leBytes 8 (c.dw 2).toNat)).1 (s.waitsOn (s.wordPlace c.ctx (c.dw 1))))
    obtain ⟨hm, hh⟩ := Prod.mk.inj hb
    exact (signal_written hc hw).happens ⟨hm, hh, State.complete_completing ..,
      fun x hx => (State.wakeWaitsOn_dueIn (State.fwWrite_now ..) hx).after ..⟩
  case attest =>
    obtain ⟨hn, hw, hd⟩ := statusAttest_happens hc
    exact ⟨fun h => (hn h).happens (State.refuse_completing ..), fun h h' => (hw h h').happens (State.refuse_completing ..),
      fun h h' => (hd h h').happens ⟨rfl, rfl, State.complete_completing ..⟩⟩

end Sys2Proof.Machine
end

section
/-!
PROOFS. The machine at reset and a thread at its launch (03 R57, 04 R85, 05 R93, 06 R132, 13 R271, 17 R366).
-/
namespace Sys2Proof.Machine

/-! ### The reset state -/

theorem State.tile_reset (k : TileId) : State.reset.tile k = Tile.reset := rfl

theorem State.memWf_reset : State.reset.memWf := ⟨⟨Memory.wf_nil, Memory.wf_nil⟩, fun _ h => absurd h List.not_mem_nil⟩

theorem Tile.slot_reset (j : Fin 16) : Tile.reset.slot j = none := by
  simp [Tile.slot, Tile.reset, TileCtx.reset]

/-! ### Registers loaded in a row, as a launch and a grant load g1 to g6 -/

/-- A thread with registers g1 to gn loaded. -/
def Thread.loaded (th : Thread) (n : Nat) (v : Nat → Word) : Thread :=
  (List.range n).foldl (fun th i => th.setReg (Fin.ofNat 32 (i + 1)) (v i)) th

theorem Thread.loaded_succ (th : Thread) (n v) : th.loaded (n + 1) v = (th.loaded n v).setReg (Fin.ofNat 32 (n + 1)) (v n) := by
  simp [Thread.loaded, List.range_succ]

theorem Thread.reg_loaded (th : Thread) {n : Nat} (v) (hn : n < 32) {i : Nat} (hi : i < n) :
    (th.loaded n v).reg (Fin.ofNat 32 (i + 1)) = v i := by
  induction n with
  | zero => omega
  | succ n ih =>
    rw [Thread.loaded_succ]
    by_cases h : i = n
    · subst h
      exact Thread.reg_setReg_self _ _ (by simp [Fin.ext_iff]; omega)
    · rw [Thread.reg_setReg_ne _ _ (by simp [Fin.ext_iff]; omega)]
      exact ih (by omega) (by omega)

theorem Thread.reg_loaded_other (th : Thread) {n : Nat} (v) (hn : n < 32) {r : Reg} (hr : r.val = 0 ∨ n < r.val) :
    (th.loaded n v).reg r = th.reg r := by
  induction n with
  | zero => rfl
  | succ n ih =>
    rw [Thread.loaded_succ, Thread.reg_setReg_ne _ _ (by simp [Fin.ext_iff]; omega)]
    exact ih (by omega) (by omega)

/-- What no write of a register changes, loading leaves as it is. -/
theorem Thread.loaded_keeps {α : Type} {p : Thread → α} (hp : ∀ (th : Thread) r v, p (th.setReg r v) = p th) (th : Thread) (n v) :
    p (th.loaded n v) = p th := by
  induction n with
  | zero => rfl
  | succ n ih => rw [Thread.loaded_succ, hp, ih]

theorem Thread.isFull_setReg {th : Thread} (h : ∀ r, th.isFull r = true) (q v) : ∀ r, (th.setReg q v).isFull r = true := by
  intro r
  by_cases hr : r = q
  · rw [hr, Thread.isFull_setReg_self]
  · rw [Thread.isFull_setReg_ne _ _ hr, h]

theorem Thread.isFull_loaded {th : Thread} (h : ∀ r, th.isFull r = true) (n v) : ∀ r, (th.loaded n v).isFull r = true := by
  induction n with
  | zero => exact h
  | succ n ih => exact Thread.loaded_succ .. ▸ Thread.isFull_setReg ih _ _

/-! ### A thread at its launch (03 R57) -/

theorem Thread.reg_reset (r : Reg) : Thread.reset.reg r = 0 := by
  simp [Thread.reg, Thread.reset]

theorem Thread.isFull_reset (r : Reg) : Thread.reset.isFull r = true := by
  rw [Thread.isFull, show Thread.reset.full = BitVec.allOnes 32 from rfl, BitVec.getLsbD_allOnes]
  simp

section
variable (pc : Word) (seeds : List Word) (ord : Nat) (lid : BitVec 32) (sp lim : Word) (home h : Nat) (lix : BitVec 4)

/-- A thread at its launch, before its registers are loaded. -/
def Thread.placed : Thread :=
  { Thread.reset with
    pc := pc, via := pc, home := BitVec.ofNat 18 home, hslot := BitVec.ofNat 4 h, lix := lix, launch := lid, splim := lim }

theorem launchThread_eq : launchThread pc seeds ord lid sp lim home h lix
    = ((((Thread.placed pc lid lim home h lix).loaded 6 (fun i => seeds.getD i 0)).setReg 7 (BitVec.ofNat 64 ord)).setReg 8
        (lid.setWidth 64)).setReg 29 sp := rfl

theorem launchThread_keeps {α : Type} {p : Thread → α} (hp : ∀ (th : Thread) r v, p (th.setReg r v) = p th) :
    p (launchThread pc seeds ord lid sp lim home h lix) = p (Thread.placed pc lid lim home h lix) := by
  rw [launchThread_eq, hp, hp, hp, Thread.loaded_keeps hp]

theorem launchThread_seed {i : Nat} (hi : i < 6) :
    (launchThread pc seeds ord lid sp lim home h lix).reg (Fin.ofNat 32 (i + 1)) = seeds.getD i 0 := by
  rw [launchThread_eq, Thread.reg_setReg_ne _ _ (by simp [Fin.ext_iff]; omega), Thread.reg_setReg_ne _ _ (by simp [Fin.ext_iff]; omega),
    Thread.reg_setReg_ne _ _ (by simp [Fin.ext_iff]; omega), Thread.reg_loaded _ _ (by decide) hi]

theorem launchThread_ordinal : (launchThread pc seeds ord lid sp lim home h lix).reg 7 = BitVec.ofNat 64 ord := by
  rw [launchThread_eq, Thread.reg_setReg_ne _ _ (by decide), Thread.reg_setReg_ne _ _ (by decide), Thread.reg_setReg_self _ _ (by decide)]

theorem launchThread_lid : (launchThread pc seeds ord lid sp lim home h lix).reg 8 = lid.setWidth 64 := by
  rw [launchThread_eq, Thread.reg_setReg_ne _ _ (by decide), Thread.reg_setReg_self _ _ (by decide)]

theorem launchThread_sp : (launchThread pc seeds ord lid sp lim home h lix).reg 29 = sp := by
  rw [launchThread_eq, Thread.reg_setReg_self _ _ (by decide)]

theorem launchThread_zero {r : Reg} (hr : r.val = 0 ∨ 9 ≤ r.val ∧ r.val ≠ 29) :
    (launchThread pc seeds ord lid sp lim home h lix).reg r = 0 := by
  rw [launchThread_eq, Thread.reg_setReg_ne _ _ (by simp [Fin.ext_iff]; omega), Thread.reg_setReg_ne _ _ (by simp [Fin.ext_iff]; omega),
    Thread.reg_setReg_ne _ _ (by simp [Fin.ext_iff]; omega), Thread.reg_loaded_other _ _ (by decide) (by omega)]
  exact Thread.reg_reset r

theorem launchThread_full (r : Reg) : (launchThread pc seeds ord lid sp lim home h lix).isFull r = true := by
  have hp : ∀ r, (Thread.placed pc lid lim home h lix).isFull r = true := Thread.isFull_reset
  rw [launchThread_eq]
  exact Thread.isFull_setReg (Thread.isFull_setReg (Thread.isFull_setReg (Thread.isFull_loaded hp _ _) _ _) _ _) _ _ r

end

/-- Settles O8: the reset state is written out; of a launched thread, what the seven kinds of registers hold, and what no load of a register
changes. -/
theorem resetState : Obligations.ResetState := by
  refine ⟨State.memWf_reset, rfl, rfl, rfl, fun k => ⟨rfl, Tile.slot_reset, fun _ => rfl⟩, fun pc seeds ord lid sp lim home h lix _ => ?_⟩
  have keeps {α : Type} {p : Thread → α} (hp : ∀ (th : Thread) r v, p (th.setReg r v) = p th) :=
    launchThread_keeps pc seeds ord lid sp lim home h lix hp
  exact ⟨fun i hi => launchThread_seed _ _ _ _ _ _ _ _ _ hi, launchThread_ordinal .., launchThread_lid .., launchThread_sp ..,
    fun r hr => launchThread_zero _ _ _ _ _ _ _ _ _ hr, launchThread_full _ _ _ _ _ _ _ _ _, keeps Thread.setReg_pc, keeps Thread.setReg_splim,
    keeps (p := fun th => (th.pw, th.vlen, th.frm, th.fflags, th.xlvl, th.pix)) (by simp),
    keeps (p := fun th => (th.blim, th.fetimeo, th.feretry, th.sndretry)) (by simp)⟩

end Sys2Proof.Machine
end

section
/-!
PROOFS. Command queues: wakes, acceptance, worker errors, restarts and completions (03 R41 to R43, R50 to R53). Each event is said once, as the
state it becomes; starting and stopping commands of a queue is read back from the queue (`State.Starts`, `State.stopQueue_ids`).
-/
namespace Sys2Proof.Machine

/-! ### Commands of a queue that start (03 R50, R51) -/

/-- Only the marks of commands differ: identity, context and words stay. -/
def Command.Same (c d : Command) : Prop := d.id = c.id ∧ d.ctx = c.ctx ∧ d.words = c.words

/-- `u` comes from `s` by starting commands of queue `q`. -/
structure State.Starts (s u : State) (q : Nat) : Prop where
  bulk : u.bulk = s.bulk
  workers : u.dev.workers = s.dev.workers
  head : (u.queue q).head = (s.queue q).head
  accepting : (u.queue q).accepting = (s.queue q).accepting
  kept : ∀ c ∈ (s.queue q).commands, ∃ d ∈ (u.queue q).commands, c.Same d
  from_ : ∀ d ∈ (u.queue q).commands, ∃ c ∈ (s.queue q).commands, c.Same d

namespace State.Starts
variable {s t u : State} {q : Nat}

theorem of_dev (hd : u.dev = s.dev) (hb : u.bulk = s.bulk) : s.Starts u q := by
  have hq : u.queue q = s.queue q := by rw [State.queue, hd]; rfl
  exact ⟨hb, by rw [hd], by rw [hq], by rw [hq], fun c hc => ⟨c, hq ▸ hc, rfl, rfl, rfl⟩, fun c hc => ⟨c, hq ▸ hc, rfl, rfl, rfl⟩⟩

theorem trans (h : s.Starts t q) (h' : t.Starts u q) : s.Starts u q where
  bulk := h'.bulk.trans h.bulk
  workers := h'.workers.trans h.workers
  head := h'.head.trans h.head
  accepting := h'.accepting.trans h.accepting
  kept c hc := by
    obtain ⟨d, hd, hi, hx, hw⟩ := h.kept c hc
    obtain ⟨e, he, hi', hx', hw'⟩ := h'.kept d hd
    exact ⟨e, he, hi'.trans hi, hx'.trans hx, hw'.trans hw⟩
  from_ e he := by
    obtain ⟨d, hd, hi', hx', hw'⟩ := h'.from_ e he
    obtain ⟨c, hc, hi, hx, hw⟩ := h.from_ d hd
    exact ⟨c, hc, hi'.trans hi, hx'.trans hx, hw'.trans hw⟩

/-- A command is marked. -/
theorem setCommand (s : State) (q id : Nat) {f : Command → Command} (hf : ∀ c : Command, c.Same (f c)) :
    s.Starts (s.setQueue q ((s.queue q).setCommand id f)) q := by
  have hm (c : Command) : Command.Same c (if c.id = id then f c else c) := by
    split
    · exact hf c
    · exact ⟨rfl, rfl, rfl⟩
  refine ⟨rfl, rfl, ?_, ?_, fun c hc => ?_, fun d hd => ?_⟩
  · rw [State.queue_setQueue_self]; rfl
  · rw [State.queue_setQueue_self]; rfl
  · rw [State.queue_setQueue_self]
    exact ⟨_, List.mem_map_of_mem hc, hm c⟩
  · rw [State.queue_setQueue_self] at hd
    obtain ⟨c, hc, rfl⟩ := List.mem_map.1 hd
    exact ⟨c, hc, hm c⟩

end State.Starts

@[simp] theorem State.startOne_dev (s : State) (q c) : (s.startOne q c).dev = s.dev := by fun_cases State.startOne <;> rfl

theorem State.startCommands_starts (s : State) (q fuel) : s.Starts (s.startCommands q fuel) q := by
  induction fuel generalizing s with
  | zero => exact .of_dev rfl rfl
  | succ n ih =>
    unfold State.startCommands
    dsimp only
    split
    · exact .of_dev rfl rfl
    · cases (s.queue q).nextStart with
      | none => exact .of_dev rfl rfl
      | some c =>
        have marked := State.Starts.setCommand s q c.id (f := fun c => { c with started := true }) fun _ => ⟨rfl, rfl, rfl⟩
        exact marked.trans ((State.Starts.of_dev (State.startOne_dev ..) (State.startOne_bulk ..)).trans (ih _))

theorem State.startAll_starts (s : State) (q) : s.Starts (s.startAll q) q := s.startCommands_starts q _

/-! ### A queue that stops (03 R50, R53) -/

/-- A fold of operations each of which leaves a queue as it is. -/
theorem State.foldl_queue {α : Type} {f : State → α → State} {q : Nat} (hf : ∀ s x, (f s x).queue q = s.queue q) (l : List α) (s : State) :
    (l.foldl f s).queue q = s.queue q :=
  List.foldlRecOn (motive := fun u : State => u.queue q = s.queue q) l f rfl fun u h x _ => (hf u x).trans h

@[simp] theorem State.complete_queue (s : State) (q id st dt v q') : (s.complete q id st dt v).queue q' = s.queue q' := rfl

/-- The queue that an open queue becomes when it stops. -/
theorem State.queue_stopQueue {s : State} {q reason : Nat} (hm : (s.queue q).mapped = true) (hs : (s.queue q).state = 1) :
    (s.stopQueue q reason).queue q = { s.queue q with
      state := 2, pending := false
      reason := if reason = 0 then (s.queue q).reason else reason
      commands := (s.queue q).commands.map (fun (c : Command) => if c.orphan then c else { c with started := true }) } := by
  rw [State.stopQueue]
  dsimp only
  rw [if_neg (by simp [hs]), if_neg (by simp [hm, hs]),
    State.foldl_queue fun s (c : Command) => State.complete_queue s q c.id statusSkipped 0 0 q, State.putState_queue, State.queue_setQueue_self]

/-- One that has stopped shows a later reason. -/
theorem State.queue_stopQueue_stopped {s : State} {q reason : Nat} (hm : (s.queue q).mapped = true) (hs : (s.queue q).state = 2)
    (hr : reason ≠ 0) : (s.stopQueue q reason).queue q = { s.queue q with reason := reason } := by
  rw [State.stopQueue]
  dsimp only
  rw [if_pos ⟨hs, hm⟩, if_neg hr, State.queue_setQueue_self]

/-- A stop adds no command to a queue. -/
theorem State.stopQueue_ids (s : State) (q reason) : ∀ y ∈ ((s.stopQueue q reason).queue q).commands, ∃ x ∈ (s.queue q).commands, y.id = x.id := by
  intro y hy
  by_cases h : (s.queue q).mapped = true ∧ ((s.queue q).state = 1 ∨ (s.queue q).state = 2 ∧ reason ≠ 0)
  · obtain ⟨hm, hs | ⟨hs, hr⟩⟩ := h
    · rw [State.queue_stopQueue hm hs] at hy
      obtain ⟨x, hx, rfl⟩ := List.mem_map.1 hy
      exact ⟨x, hx, by split <;> rfl⟩
    · rw [State.queue_stopQueue_stopped hm hs hr] at hy
      exact ⟨y, hy, rfl⟩
  · have e : s.stopQueue q reason = s := by
      rw [State.stopQueue]
      dsimp only
      split
      · exact if_pos (by_contra fun hr => h ⟨‹_ ∧ _›.2, .inr ⟨‹_ ∧ _›.1, hr⟩⟩)
      · exact if_pos (by by_contra hn; simp at hn; exact h ⟨hn.2, .inl hn.1⟩)
    exact ⟨y, e ▸ hy, rfl⟩

theorem State.dispatch_grows (s : State) : s.Grows s.dispatch := by
  unfold State.dispatch
  split
  · exact State.after_grows ..
  · exact .refl s

section
variable {s : State} {q : Nat}

/-! ### Wakes (03 R50) -/

/-- The machine once the dispatcher has given slot `q` to a worker, which has cleared its pending bit. -/
def State.takeSlot (s : State) (q : Nat) : State :=
  { s.setQueue q { s.queue q with pending := false, served := s.tok } with tok := s.tok + 1 }

theorem State.takeSlot_queue (s : State) (q) : (s.takeSlot q).queue q = { s.queue q with pending := false, served := s.tok } :=
  State.queue_setQueue_self ..
theorem State.takeSlot_seen (s : State) (q) : s.SeenAlike (s.takeSlot q) := ⟨rfl, rfl, rfl, rfl, rfl, rfl, rfl⟩

/-- The entries that the tail of a queue's record shows, read by the worker, to lie before it. -/
def State.tailRead (s : State) (q : Nat) : Nat × List Byte := s.fwRead 0 ((s.queue q).record + 64) 4
def State.backlog (s : State) (q : Nat) : Nat := (leNat (s.tailRead q).2 + 2 ^ 32 - (s.queue q).head) % 2 ^ 32

theorem queueWake_idle (h : s.nextSlot = none ∨ s.dev.workers = 0) : exec .queueWake s = .next s := by
  rw [exec_queueWake, execQueueWake]
  cases hn : s.nextSlot with
  | none => rfl
  | some q => exact if_pos (h.resolve_left (by simp [hn]))

/-- What a worker does with slot `q` once it has read its tail. -/
def State.workOn (s : State) (q : Nat) (r : Nat × List Byte) : Out :=
  let x := s.queue q
  let n := (leNat r.2 + 2 ^ 32 - x.head) % 2 ^ 32
  if r.1 ≠ 0 then .next (s.stopQueue q detailEntry).dispatch
  else if 2 ^ x.rlog < n then .next (s.stopQueue q detailOverrun).dispatch
  else if n = 0 then .next (s.setQueue q { x with tail := leNat r.2 }).dispatch
  else
    let t := s.setQueue q { x with tail := leNat r.2, accepting := true }
    let u : State := { t with dev := { t.dev with workers := t.dev.workers - 1 } }
    .next ((u.after (1 + Config.memLatency u.free) .commandAccept (.num q)).draw).dispatch

theorem queueWake_eq (hn : s.nextSlot = some q) (hw : s.dev.workers ≠ 0) :
    exec .queueWake s = (s.takeSlot q).workOn q (s.fwRead 0 ((s.queue q).record + 64) 4) := by
  rw [exec_queueWake, execQueueWake, hn, ← (s.takeSlot_seen q).fwRead, State.workOn, State.takeSlot_queue]
  exact if_neg hw

theorem Queue.waits_spec {x : Queue} (h : x.waits = true) : x.mapped = true ∧ x.state = 1 ∧ x.accepting = false := by
  simp only [Queue.waits, Bool.and_eq_true, beq_iff_eq, Bool.not_eq_true'] at h
  obtain ⟨⟨⟨hm, hs⟩, ha⟩, _⟩ := h
  exact ⟨hm, hs, ha⟩

theorem queueWake_happens (hn : s.nextSlot = some q) (hx : (s.queue q).waits = true) (hw : s.dev.workers ≠ 0) :
    let x := s.queue q
    let rd := s.fwRead 0 (x.record + 64) 4
    let tail := leNat rd.2
    let n := (tail + 2 ^ 32 - x.head) % 2 ^ 32
    (rd.1 ≠ 0 → Completes .queueWake s fun u => (u.queue q).reason = 0xFFFD ∧ (u.queue q).state = 2)
    ∧ (rd.1 = 0 → 2 ^ x.rlog < n → Completes .queueWake s fun u => (u.queue q).reason = 0xFFFF ∧ (u.queue q).state = 2)
    ∧ (rd.1 = 0 → n ≤ 2 ^ x.rlog → n ≠ 0 → Completes .queueWake s fun u => (u.queue q).accepting = true ∧ (u.queue q).tail = tail
        ∧ u.dev.workers = s.dev.workers - 1 ∧ u.Pending .commandAccept (.num q) ∧ SameMemory s u)
    ∧ (rd.1 = 0 → n = 0 → Completes .queueWake s fun u => (u.queue q).accepting = x.accepting ∧ u.dev.workers = s.dev.workers) := by
  intro x rd tail n
  obtain ⟨hm, hs, _⟩ := Queue.waits_spec hx
  have e : exec .queueWake s = (s.takeSlot q).workOn q rd := queueWake_eq hn hw
  have hq := s.takeSlot_queue q
  have stops {d : Nat} (hd : d ≠ 0) : (((s.takeSlot q).stopQueue q d).queue q).state = 2 ∧ (((s.takeSlot q).stopQueue q d).queue q).reason = d :=
    State.stopQueue_open (by rw [hq]; exact hm) (by rw [hq]; exact hs) hd
  rw [State.workOn, hq] at e
  refine ⟨fun hr => ?refused, fun hr ho => ?overrun, fun hr hl h0 => ?entries, fun hr h0 => ?empty⟩
  case refused =>
    refine ⟨_, e.trans (if_pos hr), ?_⟩
    beta_reduce
    rw [State.dispatch_queue]
    exact (stops (by decide)).symm
  all_goals replace e := e.trans (if_neg (not_not.2 hr))
  case overrun =>
    refine ⟨_, e.trans (if_pos ho), ?_⟩
    beta_reduce
    rw [State.dispatch_queue]
    exact (stops (by decide)).symm
  case empty =>
    have hl : ¬ 2 ^ x.rlog < n := h0 ▸ Nat.not_lt_zero _
    refine ⟨_, e.trans ((if_neg hl).trans (if_pos h0)), ?_⟩
    beta_reduce
    rw [State.dispatch_queue, State.queue_setQueue_self, State.dispatch_dev]
    exact ⟨rfl, rfl⟩
  case entries =>
    refine ⟨_, e.trans ((if_neg (Nat.not_lt.2 hl)).trans (if_neg h0)), ?_⟩
    beta_reduce
    rw [State.dispatch_queue, State.dispatch_dev]
    refine ⟨congrArg Queue.accepting (State.queue_setQueue_self ..), congrArg Queue.tail (State.queue_setQueue_self ..), rfl,
      (State.dispatch_grows _).pending ⟨_, List.mem_append_right _ (List.mem_singleton.2 rfl), rfl, rfl⟩,
      .of_eq (State.dispatch_tiles _) (State.dispatch_bulk _)⟩

/-! ### Acceptance (03 R50) -/

/-- The machine once the worker of slot `q` is idle again. -/
def State.freeWorker (s : State) (q : Nat) : State :=
  let t := s.setQueue q { s.queue q with accepting := false }
  { t with dev := { t.dev with workers := s.dev.workers + 1 } }

theorem State.freeWorker_queue (s : State) (q) : (s.freeWorker q).queue q = { s.queue q with accepting := false } := State.queue_setQueue_self ..
theorem State.freeWorker_seen (s : State) (q) : s.SeenAlike (s.freeWorker q) := ⟨rfl, rfl, rfl, rfl, rfl, rfl, rfl⟩

/-- The command that the bytes of a ring entry of queue `q` spell. -/
def State.parsed (s : State) (q : Nat) (bs : List Byte) : Command :=
  { id := s.tok, ctx := (s.queue q).ctx, words := wordsOf bs 8, started := false, orphan := false, value := 0 }

/-- Queue `q` has a command more, and its head is one further. -/
def State.take (s : State) (q : Nat) (bs : List Byte) : State :=
  { s.setQueue q { s.queue q with head := ((s.queue q).head + 1) % 2 ^ 32, commands := (s.queue q).commands ++ [s.parsed q bs] } with
    tok := s.tok + 1 }

theorem State.take_queue (s : State) (q bs) : (s.take q bs).queue q =
    { s.queue q with head := ((s.queue q).head + 1) % 2 ^ 32, commands := (s.queue q).commands ++ [s.parsed q bs] } :=
  State.queue_setQueue_self ..

theorem State.putState_workers (s : State) (q) : (s.putState q).dev.workers = s.dev.workers := by
  obtain ⟨m, h, l, e⟩ := s.fwWrite_eq 0 ((s.queue q).record + 16) (leBytes 4 (s.queue q).head ++ leBytes 4 (s.queue q).state)
  rw [State.putState, e]

theorem idle_skips (ha : (s.queue q).accepting = false) : Becomes .commandAccept (.num q) s s ∧ Becomes .workerError (.num q) s s := by
  constructor <;> intro hi
  · simp [execCommandAccept, hi, ha]
  · simp [execWorkerError, hi, ha]

theorem commandAccept_eq (ha : (s.queue q).accepting = true) (hi : s.input = .num q) :
    let x := s.queue q
    let e := s.fwRead x.ctx (x.ring + BitVec.ofNat 64 (64 * (x.head % 2 ^ x.rlog))) 64
    exec .commandAccept s =
      if x.state ≠ 1 then .next (s.freeWorker q).dispatch
      else if e.1 ≠ 0 then .next ((s.freeWorker q).stopQueue q detailEntry).dispatch
      else .next ((((s.freeWorker q).take q e.2).putState q).startAll q).dispatch := by
  intro x e
  have he : (s.freeWorker q).fwRead x.ctx (x.ring + BitVec.ofNat 64 (64 * (x.head % 2 ^ x.rlog))) 64 = e := (s.freeWorker_seen q).fwRead ..
  rw [exec_commandAccept, execCommandAccept, hi, ← he, State.take, State.parsed, State.freeWorker_queue]
  dsimp only
  rw [if_neg (by simp [ha])]
  rfl

theorem commandAccept_happens (ha : (s.queue q).accepting = true) :
    let x := s.queue q
    let e := s.fwRead x.ctx (x.ring + BitVec.ofNat 64 (64 * (x.head % 2 ^ x.rlog))) 64
    (x.state = 1 → e.1 = 0 → Happens .commandAccept (.num q) s fun u =>
      (u.queue q).head = (x.head + 1) % 2 ^ 32 ∧ (u.queue q).accepting = false ∧ u.dev.workers = s.dev.workers + 1
      ∧ ∃ y ∈ (u.queue q).commands, y.ctx = x.ctx ∧ y.words = wordsOf e.2 8)
    ∧ (x.state = 1 → x.mapped = true → e.1 ≠ 0 → Happens .commandAccept (.num q) s fun u =>
        (u.queue q).state = 2 ∧ (u.queue q).reason = 0xFFFD ∧ (u.queue q).head = x.head)
    ∧ (x.state ≠ 1 → Happens .commandAccept (.num q) s fun u => (u.queue q).commands = x.commands ∧ SameMemory s u) := by
  intro x e
  have hq := s.freeWorker_queue q
  refine ⟨fun hs h0 hi => ?accepted, fun hs hm h0 hi => ?refused, fun hs hi => ?stopped⟩
  case accepted =>
    refine ⟨_, (commandAccept_eq ha hi).trans ((if_neg (not_not.2 hs)).trans (if_neg (not_not.2 h0))), ?_⟩
    beta_reduce
    have hst := (((s.freeWorker q).take q e.2).putState q).startAll_starts q
    have hp : (((s.freeWorker q).take q e.2).putState q).queue q = _ :=
      (State.putState_queue ..).trans ((s.freeWorker q).take_queue q e.2)
    rw [State.dispatch_queue, State.dispatch_dev, hst.head, hst.accepting, hst.workers, hp, hq]
    refine ⟨rfl, rfl, State.putState_workers .., ?_⟩
    obtain ⟨y, hy, _, hx, hw⟩ := hst.kept ((s.freeWorker q).parsed q e.2) (by rw [hp]; simp)
    exact ⟨y, hy, hx.trans (show ((s.freeWorker q).queue q).ctx = x.ctx by rw [hq]), hw⟩
  case refused =>
    refine ⟨_, (commandAccept_eq ha hi).trans ((if_neg (not_not.2 hs)).trans (if_pos h0)), ?_⟩
    beta_reduce
    rw [State.dispatch_queue, State.queue_stopQueue (by rw [hq]; exact hm) (by rw [hq]; exact hs), hq]
    exact ⟨rfl, rfl, rfl⟩
  case stopped =>
    refine ⟨_, (commandAccept_eq ha hi).trans (if_pos hs), ?_⟩
    beta_reduce
    rw [State.dispatch_queue, hq]
    exact ⟨rfl, .of_eq (State.dispatch_tiles _) (State.dispatch_bulk _)⟩

/-! ### Errors of workers and of the pair (03 R42, R43) -/

/-- No acceptance of queue `q` is on the agenda. -/
def State.dropAccept (s : State) (q : Nat) : State :=
  { s with agenda := s.agenda.filter (fun (y : Timed) => !(y.ev == Instr.commandAccept && y.arg == Payload.num q)) }

theorem State.dropAccept_agenda (s : State) (q) : ∀ y ∈ (s.dropAccept q).agenda, ¬ (y.ev = .commandAccept ∧ y.arg = .num q) := by
  rintro y hy ⟨he, ha⟩
  have h := (List.mem_filter.1 hy).2
  simp [he, ha] at h

/-- What the dispatcher adds to the agenda is a wake. -/
theorem State.mem_dispatch_agenda {s : State} {y : Timed} (h : y ∈ s.dispatch.agenda) : y ∈ s.agenda ∨ y.ev = .queueWake := by
  unfold State.dispatch at h
  split at h
  · rcases List.mem_append.1 h with h | h
    · exact .inl h
    · exact .inr (by rw [List.mem_singleton.1 h])
  · exact .inl h

theorem workerError_happens (ha : (s.queue q).accepting = true) :
    Happens .workerError (.num q) s fun u => (u.queue q).accepting = false ∧ u.dev.workers = s.dev.workers + 1
      ∧ (u.queue q).head = (s.queue q).head ∧ ∀ y ∈ u.agenda, ¬ (y.ev = .commandAccept ∧ y.arg = .num q) := by
  have e : Becomes .workerError (.num q) s ((s.freeWorker q).dropAccept q).dispatch := by
    intro hi
    rw [exec_workerError, execWorkerError]
    split
    next q' h =>
      cases hi.symm.trans h
      rw [if_neg (by simp [ha])]
      rfl
    next h => exact absurd hi (h q)
  refine e.happens ?_
  have hq : ((s.freeWorker q).dropAccept q).queue q = _ := s.freeWorker_queue q
  rw [State.dispatch_queue, State.dispatch_dev, hq]
  refine ⟨rfl, rfl, rfl, fun y hy h => ?_⟩
  rcases State.mem_dispatch_agenda hy with hy | hw
  · exact State.dropAccept_agenda _ q y hy h
  · exact absurd (hw.symm.trans h.1) (by decide)

theorem lockstepMismatch_completes (s : State) : Completes .lockstepMismatch s fun u => u.dev.restarts = s.dev.restarts + 1 ∧ SameMemory s u
    ∧ u.agenda.map (fun (y : Timed) => (y.ev, y.arg)) = s.agenda.map (fun (y : Timed) => (y.ev, y.arg)) := by
  refine ⟨_, rfl, rfl, .of_eq rfl rfl, ?_⟩
  rw [List.map_map]
  refine List.map_congr_left fun y _ => ?_
  simp only [Function.comp]
  split <;> rfl

/-! ### Completions (03 R52, R53) -/

/-- Queue `q` without the command of this number. -/
def State.dropCommand (s : State) (q id : Nat) : State :=
  s.setQueue q { s.queue q with commands := (s.queue q).commands.filter (fun d => d.id != id) }

/-- The completion record goes to its address, if the command names one. -/
def State.record (s : State) (c : Command) (bs : List Byte) : State × Nat :=
  if c.dw 7 = 0 then (s, 0) else if memSpace (c.dw 7) then s.fwWrite c.ctx (c.dw 7) bs else (s, 1)

/-- No command of queue `q` has this number. -/
def State.Gone (u : State) (q id : Nat) : Prop := ∀ y ∈ (u.queue q).commands, y.id ≠ id

theorem State.dropCommand_queue (s : State) (q id) : (s.dropCommand q id).queue q =
    { s.queue q with commands := (s.queue q).commands.filter (fun d => d.id != id) } := State.queue_setQueue_self ..
theorem State.dropCommand_gone (s : State) (q id) : (s.dropCommand q id).Gone q id := by
  intro y hy
  rw [State.dropCommand_queue] at hy
  simpa using (List.mem_filter.1 hy).2
theorem State.record_queue (s : State) (c bs q) : (s.record c bs).1.queue q = s.queue q := by
  unfold State.record
  split
  · rfl
  · split
    · exact State.fwWrite_queue ..
    · rfl

namespace State.Gone
variable {id : Nat}
theorem record (h : s.Gone q id) (c bs) : (s.record c bs).1.Gone q id := by rwa [State.Gone, State.record_queue]
theorem stopQueue (h : s.Gone q id) (reason) : (s.stopQueue q reason).Gone q id := by
  intro y hy
  obtain ⟨x, hx, e⟩ := State.stopQueue_ids _ _ _ y hy
  exact e ▸ h x hx
theorem startAll (h : s.Gone q id) : (s.startAll q).Gone q id := by
  intro y hy
  obtain ⟨x, hx, e, _⟩ := (s.startAll_starts q).from_ y hy
  exact e ▸ h x hx
end State.Gone

/-- The status of a completion, or `cont`, leaves the queue open. -/
def Command.goesOn (c : Command) (st : Nat) : Prop := st = 0 ∨ st = 7 ∨ st = 10 ∨ c.header.getLsbD 9 = true

theorem Command.goesOn_iff (c : Command) (st) : c.goesOn st ↔ ¬ (!statusGood st && !c.cont) = true := by
  simp [Command.goesOn, statusGood, Command.cont, statusOk, statusKept, statusParked]
  tauto

section
variable {c : Command} {id st dt v : Word}

theorem commandComplete_skips (hc : (s.queue q).commands.find? (fun y => y.id == id.toNat) = none) :
    Becomes .commandComplete (.words q [id, st, dt, v]) s s := by
  intro hi
  rw [exec_commandComplete, execCommandComplete, hi]
  dsimp only
  rw [hc]

theorem commandComplete_eq (hc : (s.queue q).commands.find? (fun y => y.id == id.toNat) = some c) (hi : s.input = .words q [id, st, dt, v]) :
    let w := (s.dropCommand q c.id).record c (completionBytes c st dt v)
    exec .commandComplete s =
      if c.orphan then .next w.1
      else if w.2 ≠ 0 then .next (w.1.stopQueue q detailRecord)
      else if !statusGood st.toNat && !c.cont then .next (w.1.stopQueue q 0)
      else .next (w.1.startAll q) := by
  rw [exec_commandComplete, execCommandComplete, hi]
  dsimp only
  rw [hc]
  rfl

theorem State.record_none (s : State) (h0 : c.dw 7 = 0) (bs) : s.record c bs = (s, 0) := if_pos h0
theorem State.record_written (s : State) (h0 : c.dw 7 ≠ 0) (hm : memSpace (c.dw 7) = true) (bs) :
    s.record c bs = s.fwWrite c.ctx (c.dw 7) bs := (if_neg h0).trans (if_pos hm)
theorem State.record_elsewhere (s : State) (h0 : c.dw 7 ≠ 0) (hm : memSpace (c.dw 7) = false) (bs) : s.record c bs = (s, 1) :=
  (if_neg h0).trans (if_neg (by simp [hm]))

/-- Whatever follows it, a command that completes leaves its queue. -/
theorem commandComplete_gone (hc : (s.queue q).commands.find? (fun y => y.id == id.toNat) = some c) :
    Happens .commandComplete (.words q [id, st, dt, v]) s fun u => u.Gone q c.id := by
  intro hi
  have hg := (s.dropCommand_gone q c.id).record c (completionBytes c st dt v)
  rw [Completes, commandComplete_eq hc hi]
  split
  · exact ⟨_, rfl, hg⟩
  · split
    · exact ⟨_, rfl, hg.stopQueue _⟩
    · split
      · exact ⟨_, rfl, hg.stopQueue _⟩
      · exact ⟨_, rfl, hg.startAll⟩

/-- The write of the record finds memory as it was. -/
theorem State.dropCommand_seen (s : State) (q id) : s.SeenAlike (s.dropCommand q id) := .setQueue ..

theorem commandComplete_written (hc : (s.queue q).commands.find? (fun y => y.id == id.toNat) = some c) (h0 : c.dw 7 ≠ 0)
    (hm : memSpace (c.dw 7) = true) :
    let w := s.fwWrite c.ctx (c.dw 7) (completionBytes c st dt v)
    c.orphan = true ∨ w.2 = 0 ∧ c.goesOn st.toNat → Happens .commandComplete (.words q [id, st, dt, v]) s fun u =>
      u.cellar = w.1.cellar ∧ u.host = w.1.host ∧ u.Gone q c.id := by
  intro w h hi
  obtain ⟨u, hu, hg⟩ := commandComplete_gone hc hi
  obtain ⟨hs, hf⟩ := (s.dropCommand_seen q c.id).fwWrite c.ctx (c.dw 7) (completionBytes c st dt v)
  suffices hb : u.bulk = ((s.dropCommand q c.id).fwWrite c.ctx (c.dw 7) (completionBytes c st dt v)).1.bulk by
    obtain ⟨h1, h2⟩ := Prod.mk.inj hb
    exact ⟨u, hu, h1.trans hs.cellar, h2.trans hs.host, hg⟩
  have e := commandComplete_eq hc hi
  dsimp only at e
  rw [hu, State.record_written _ h0 hm] at e
  rcases h with ho | ⟨h2, hgo⟩
  · rw [if_pos ho] at e
    cases e
    rfl
  · rw [hf, if_neg (not_not.2 h2), if_neg ((Command.goesOn_iff ..).1 hgo)] at e
    split at e
    · cases e
      rfl
    · cases e
      exact State.startAll_bulk ..

theorem commandComplete_stops (hc : (s.queue q).commands.find? (fun y => y.id == id.toNat) = some c) (ho : c.orphan = false)
    (hm : (s.queue q).mapped = true) :
    (c.dw 7 = 0 → ¬ c.goesOn st.toNat → (s.queue q).state = 1 → Happens .commandComplete (.words q [id, st, dt, v]) s fun u =>
      (u.queue q).state = 2 ∧ (u.queue q).reason = (s.queue q).reason)
    ∧ (c.dw 7 ≠ 0 → memSpace (c.dw 7) = false ∨ (s.fwWrite c.ctx (c.dw 7) (completionBytes c st dt v)).2 ≠ 0 →
        (s.queue q).state = 1 ∨ (s.queue q).state = 2 → Happens .commandComplete (.words q [id, st, dt, v]) s fun u =>
          (u.queue q).state = 2 ∧ (u.queue q).reason = 0xFFFC) := by
  have hq := s.dropCommand_queue q c.id
  refine ⟨fun h0 hgo hs hi => ?_, fun h0 hw hs hi => ?_⟩ <;> have e := commandComplete_eq hc hi <;> dsimp only at e
  · rw [State.record_none _ h0, if_neg (by simp [ho]), if_neg (by simp), if_pos (not_not.1 (mt (Command.goesOn_iff ..).2 hgo))] at e
    refine ⟨_, e, ?_⟩
    beta_reduce
    rw [State.queue_stopQueue (by rw [hq]; exact hm) (by rw [hq]; exact hs), hq]
    exact ⟨rfl, rfl⟩
  · have h2 : ((s.dropCommand q c.id).record c (completionBytes c st dt v)).2 ≠ 0 := by
      cases hk : memSpace (c.dw 7) with
      | false => simp [State.record_elsewhere _ h0 hk]
      | true =>
        rw [State.record_written _ h0 hk, ((s.dropCommand_seen q c.id).fwWrite ..).2]
        exact hw.resolve_left (by simp [hk])
    rw [if_neg (by simp [ho]), if_pos h2] at e
    refine ⟨_, e, ?_⟩
    beta_reduce
    have hr : ((s.dropCommand q c.id).record c (completionBytes c st dt v)).1.queue q = _ := (State.record_queue ..).trans hq
    rcases hs with hs | hs
    · exact State.stopQueue_open (by rw [hr]; exact hm) (by rw [hr]; exact hs) (by decide)
    · rw [State.queue_stopQueue_stopped (by rw [hr]; exact hm) (by rw [hr]; exact hs) (by decide), hr]
      exact ⟨hs, rfl⟩

end
end

/-- Settles O56, event by event. -/
theorem queueEvents : Obligations.QueueEvents := by
  intro s q c id st dt v
  exact ⟨fun h => ⟨s, queueWake_idle h, rfl⟩, fun hn hx hw => queueWake_happens hn hx hw, idle_skips,
    fun ha => ⟨(commandAccept_happens ha).1, (commandAccept_happens ha).2.1, (commandAccept_happens ha).2.2, workerError_happens ha⟩,
    lockstepMismatch_completes s,
    fun hc => ⟨fun _ => commandComplete_gone hc, fun h0 hm h => commandComplete_written hc h0 hm h,
      fun h0 ho hg hm hs => (commandComplete_stops hc ho hm).1 h0 hg hs, fun h0 hw ho hm hs => (commandComplete_stops hc ho hm).2 h0 hw hs⟩,
    commandComplete_skips⟩

end Sys2Proof.Machine
end

section
/-!
PROOFS. Messages at their mailboxes and senders, packet grants, and QPOST at its queue (03 R62, 04 R86, 06 R135, 14 R285, R291, R296). Each event
is said once, as the state it becomes; a reply finds its thread where the reference names it (`State.Names`), which writes elsewhere keep.
-/
namespace Sys2Proof.Machine

/-! ### The thread that a reference names (06 R122) -/

section
variable {s u : State} {r : Ref} {j : Fin 16} {p : Park}

theorem State.Names.spec (h : s.Names r j) : ∃ th p, (s.tile r.tile).slot j = some th ∧ th.park = some p ∧ p.tok = r.tok := by
  have hf := List.find?_some h
  cases hs : (s.tile r.tile).slot j with
  | none => simp [hs] at hf
  | some th =>
    cases hp : th.park with
    | none => simp [hs, hp] at hf
    | some p => exact ⟨th, p, rfl, hp, by simpa [hs, hp] using hf⟩

theorem State.Names.of_slots (h : s.Names r j) (hs : (u.tile r.tile).c.slots = (s.tile r.tile).c.slots) : u.Names r j := by
  have e : u.slotOf r = s.slotOf r := by simp only [State.slotOf, Tile.slot, hs]
  exact e.trans h

theorem State.Names.of_tiles (h : s.Names r j) (ht : u.tiles = s.tiles) : u.Names r j := h.of_slots (by simp [State.tile, ht])

theorem State.Names.log (h : s.Names r j) (k kind slot len ev arg val) : (s.log k kind slot len ev arg val).Names r j :=
  h.of_slots (congrArg TileCtx.slots (State.tile_logRec_c ..))

/-- A thread that stays parked as it was is still named. -/
theorem State.Names.setThr (h : s.Names r j) {th : Thread} (hp : th.park = (s.thr r.tile j).park) : (s.setThr r.tile j th).Names r j := by
  obtain ⟨th0, p, hs, hp0, ht⟩ := h.spec
  have hth : th.park = some p := by rw [hp, State.thr, hs]; exact hp0
  rw [State.Names, State.slotOf, State.tile_setThr_self, ← h, State.slotOf]
  congr 1
  funext i
  by_cases hi : i = j
  · subst hi
    simp only [Tile.slot_setSlot_self, hs, hth, hp0]
  · simp only [Tile.slot_setSlot_ne _ _ hi]

@[simp] theorem State.thr_log (s : State) (k kind slot len ev arg val k' j') : (s.log k kind slot len ev arg val).thr k' j' = s.thr k' j' :=
  congrArg (fun c : TileCtx => (c.slots[j']).getD Thread.reset) (State.tile_logRec_c ..)

theorem State.tile_of_tiles (h : u.tiles = s.tiles) (k) : u.tile k = s.tile k := by simp [State.tile, h]
theorem State.thr_of_tiles (h : u.tiles = s.tiles) (k j) : u.thr k j = s.thr k j := by simp [State.thr, State.tile, h]
theorem State.queue_of_dev (h : u.dev = s.dev) (q) : u.queue q = s.queue q := by simp [State.queue, h]

/-! ### Replies (06 R122, 07 R149) -/

theorem State.deliver_ack (h : s.Names r j) (hp : (s.thr r.tile j).park = some p) :
    s.deliver r .ack = s.setThr r.tile j ((s.thr r.tile j).finish p) := by
  simp only [State.deliver, show s.slotOf r = some j from h, hp]
theorem State.deliver_value (h : s.Names r j) (hp : (s.thr r.tile j).park = some p) (v) :
    s.deliver r (.value v) = s.setThr r.tile j ((s.thr r.tile j).receive p v) := by
  simp only [State.deliver, show s.slotOf r = some j from h, hp]
theorem State.deliver_trap (h : s.Names r j) (hp : (s.thr r.tile j).park = some p) (ha : (s.thr r.tile j).atThird = false) (t : TrapInfo) :
    s.deliver r (.trap t) = s.setThr r.tile j
      ((s.thr r.tile j).enterTrap (s.thr r.tile j).pc (causeOf t.code t.detail false) t.val) := by
  simp only [State.deliver, show s.slotOf r = some j from h, hp, State.trapAt, State.trapFrom, ha, Bool.false_eq_true, if_false]

theorem State.logReply_value (h : s.Names r j) (hp : (s.thr r.tile j).park = some p) (v ev) : ∃ t : State, s.logReply r (.value v) ev = t
    ∧ t.thr r.tile j = (s.thr r.tile j).receive p v ∧ t.dev = s.dev := by
  refine ⟨_, rfl, ?_⟩
  simp only [State.logReply, show s.slotOf r = some j from h]
  rw [State.deliver_value (h.log ..) (by rw [State.thr_log]; exact hp), State.thr_setThr_self, State.thr_log]
  exact ⟨rfl, State.logRec_dev ..⟩
end

/-! ### Messages (04 R86, 14 R285) -/

section
variable {s : State} {t : TileId} {m : Msg} {r : Ref}

theorem State.log_quiet (s : State) (k kind slot len ev arg val k') :
    ((s.log k kind slot len ev arg val).tile k').r.quiet = (s.tile k').r.quiet := by
  unfold State.log State.logRec
  dsimp only
  split
  · rfl
  · by_cases h : k' = k
    · subst h
      rw [State.tile_setRouter_self]
    · rw [State.tile_setRouter_ne _ _ h]

theorem State.relay_pending {k : TileId} (h : (s.tile k).r.quiet = false) (b cls fl ev arg) : (s.relay k b cls fl ev arg).Pending ev arg := by
  rw [State.relay, if_neg (by simp [h])]
  exact ⟨_, List.mem_append_right _ (List.mem_singleton.2 rfl), rfl, rfl⟩
theorem State.relay_tiles (s : State) (k b cls fl ev arg) : (s.relay k b cls fl ev arg).tiles = s.tiles := by
  unfold State.relay
  split <;> rfl

/-- A message in its mailbox. -/
def State.putMail (s : State) (t : TileId) (m : Msg) (q : List Msg) : State :=
  s.setCtx t { (s.tile t).c with mail := (s.tile t).c.mail.set m.mbox.val (q ++ [m]) m.mbox.isLt }

/-- A fold of operations each of which leaves a reading of the state as it is. -/
theorem State.foldl_reads {α β : Type} {f : State → α → State} (p : State → β) (hf : ∀ s x, p (f s x) = p s) (l : List α) (s : State) :
    p (l.foldl f s) = p s :=
  List.foldlRecOn (motive := fun u : State => p u = p s) l f rfl fun u h x _ => (hf u x).trans h

/-- Wakes for which no record is made change threads alone. -/
theorem State.wakeAll_unrecorded (s : State) (k f) :
    ((s.wakeAll k 0 f).agenda, ((s.wakeAll k 0 f).tile k).c.mail) = (s.agenda, (s.tile k).c.mail) := by
  unfold State.wakeAll
  refine State.foldl_reads (fun u => (u.agenda, (u.tile k).c.mail)) (fun u i => ?_) _ s
  have unparked : ((u.unpark k i).agenda, ((u.unpark k i).tile k).c.mail) = (u.agenda, (u.tile k).c.mail) := by
    rw [State.unpark, State.tile_setThr_self]
    rfl
  cases (u.tile k).slot i with
  | none => rfl
  | some th =>
    dsimp only
    cases th.park with
    | none => rfl
    | some p =>
      dsimp only
      rw [if_pos (rfl : 0 = 0)]
      split
      · rfl
      · exact unparked

/-- The machine once message `m` is in its mailbox and its acceptance on the way; the threads that wait for it wake next. -/
def State.mailed (s : State) (t : TileId) (m : Msg) (r : Ref) : State :=
  ((s.log t kMsg 0 56 .messageDelivery (.msg t m r) 0).putMail t m ((s.tile t).c.mail[m.mbox])).relay t r.tile 1 1 .messageAcceptance (.ref r)

theorem State.mailed_mail (s : State) (t m r) : ((s.mailed t m r).tile t).c.mail[m.mbox] = (s.tile t).c.mail[m.mbox] ++ [m] := by
  rw [State.mailed, State.tile_of_tiles (State.relay_tiles ..), State.putMail, State.tile_setCtx_self]
  exact Vector.getElem_set_self _

theorem State.mailed_pending (hq : (s.tile t).r.quiet = false) : (s.mailed t m r).Pending .messageAcceptance (.ref r) := by
  refine State.relay_pending ?_ ..
  rw [State.putMail, State.tile_setCtx_self]
  exact (State.log_quiet ..).trans hq

theorem messageDelivery_eq (h : ((s.tile t).c.mail[m.mbox]).length < 4) (hi : s.input = .msg t m r) :
    ∃ f, exec .messageDelivery s = .next ((s.mailed t m r).wakeAll t 0 f) := by
  rw [exec_messageDelivery, execMessageDelivery, hi]
  dsimp only
  rw [if_pos h]
  exact ⟨_, rfl⟩

theorem messageDelivery_enters (hq : (s.tile t).r.quiet = false) (h : ((s.tile t).c.mail[m.mbox]).length < 4) :
    Happens .messageDelivery (.msg t m r) s fun u => (u.tile t).c.mail[m.mbox] = (s.tile t).c.mail[m.mbox] ++ [m]
      ∧ u.Pending .messageAcceptance (.ref r) := by
  intro hi
  obtain ⟨f, e⟩ := messageDelivery_eq h hi
  obtain ⟨ha, hm⟩ := Prod.mk.inj (State.wakeAll_unrecorded (s.mailed t m r) t f)
  obtain ⟨x, hx, hev⟩ := s.mailed_pending (m := m) (r := r) hq
  exact ⟨_, e, by rw [hm]; exact s.mailed_mail t m r, x, ha.symm ▸ hx, hev⟩

theorem messageDelivery_bounces (hq : (s.tile t).r.quiet = false) (h : 4 ≤ ((s.tile t).c.mail[m.mbox]).length) :
    Happens .messageDelivery (.msg t m r) s fun u => (u.tile t).c.mail[m.mbox] = (s.tile t).c.mail[m.mbox]
      ∧ u.Pending .messageBounce (.ref r) := by
  intro hi
  rw [Completes, exec_messageDelivery, execMessageDelivery, hi]
  dsimp only
  rw [if_neg (Nat.not_lt.2 h)]
  refine ⟨_, rfl, ?_, State.relay_pending hq ..⟩
  rw [State.tile_of_tiles (State.relay_tiles ..)]
end

/-! ### Work packets (06 R135) -/

section
variable {s : State} {ctx pkq : Nat} {d : Ctx}

@[simp] theorem State.ctx?_setCtxRec (s : State) (n c) : (s.setCtxRec n c).dev.ctx? n = some c := Table.get?_set_self ..

theorem packetRetire_happens (hc : s.dev.ctx? ctx = some d) (q : Nat) : Happens .packetRetire (.nums3 ctx pkq q) s fun u =>
    (u.dev.ctx? ctx).map Ctx.heldPos = some (d.heldPos.filter (fun x => x != (BitVec.ofNat 64 pkq, q))) := by
  intro hi
  rw [Completes, exec_packetRetire, execPacketRetire, hi]
  dsimp only
  rw [hc]
  refine ⟨_, rfl, ?_⟩
  rw [State.ctx?_setCtxRec]
  rfl

theorem packetGrant_hears (hc : s.dev.ctx? ctx = some d) (r : Ref) (bs : List Byte) : Happens .packetGrant (.post r ctx pkq bs) s fun u =>
    (u.dev.ctx? ctx).map Ctx.tasks = some (d.tasks ++ [{ src := r, pkq := BitVec.ofNat 64 pkq }])
      ∧ s.DueIn u 0 .packetGrant (.nums ctx pkq) := by
  intro hi
  rw [Completes, exec_packetGrant, execPacketGrant, hi]
  dsimp only
  rw [hc]
  refine ⟨_, rfl, ?_, State.after_dueIn rfl ..⟩
  exact congrArg (Option.map Ctx.tasks) (State.ctx?_setCtxRec s ctx _)

/-- Of the threads that wait for a packet of queue `q`, those that still do. -/
def State.liveTasks (s : State) (d : Ctx) (q : Word) : List TaskWait := d.tasks.filter (fun x => x.pkq != q || s.stillParked x.src)

/-- What a resident context's packet server does once it has read the head of a queue on which `w` waits. -/
theorem packetGrant_eq (hc : s.dev.ctx? ctx = some d) (hr : d.res = .resident) {w : TaskWait}
    (hw : (s.liveTasks d (BitVec.ofNat 64 pkq)).find? (fun x => x.pkq == BitVec.ofNat 64 pkq) = some w) (hi : s.input = .nums ctx pkq) :
    let q := BitVec.ofNat 64 pkq
    let live := s.liveTasks d q
    let s1 := s.setCtxRec ctx { d with tasks := live }
    let hd := s1.fwRead ctx q 24
    let pos := (wordAt hd.2 1).toNat
    let plog := (wordAt hd.2 2).toNat % 32
    let packet := s1.fwRead ctx (packetAddr q plog pos) 64
    hd.1 = 0 →
      (wordAt hd.2 0 = wordAt hd.2 1 →
        exec .packetGrant s = .next (s1.after (1 + Config.memLatency s1.free) .packetGrant (.nums ctx pkq)).draw)
      ∧ (wordAt hd.2 0 ≠ wordAt hd.2 1 → packet.1 = 0 →
          exec .packetGrant s = .next (((s1.setCtxRec ctx { d with
            tasks := live.erase w, heldPos := d.heldPos ++ [(q, pos % 2 ^ plog)] }).fwWrite ctx (q + 8) (leBytes 8 (pos + 1))).1.after 0
              .packetGrant (.buffer w.src (pos % 2 ^ plog) packet.2))) := by
  intro q live s1 hd pos plog packet h0
  have hl : d.tasks.filter (fun t => t.pkq != q || s.stillParked t.src || d.res != .resident) = live := by
    refine List.filter_congr fun t _ => ?_
    rw [hr]
    exact Bool.or_false _
  have hp : bitsOf (wordAt hd.2 2) 0 5 = plog := bitsOf_low ..
  rw [exec_packetGrant, execPacketGrant, hi]
  dsimp only
  rw [hc]
  dsimp only
  rw [hl, hw]
  dsimp only
  rw [if_neg (fun h => h.1 hr), if_neg (not_not.2 h0)]
  refine ⟨fun h => if_pos h, fun h hk => (if_neg h).trans ?_⟩
  rw [hp]
  exact if_neg (not_not.2 hk)

/-- A write of memory leaves the tiles and the contexts as they are. -/
theorem State.fwWrite_tiles (s : State) (c a bs) : (s.fwWrite c a bs).1.tiles = s.tiles := by
  obtain ⟨m, h, l, e⟩ := s.fwWrite_eq c a bs
  rw [e]
theorem State.fwWrite_ctx? (s : State) (c a bs n) : (s.fwWrite c a bs).1.dev.ctx? n = s.dev.ctx? n := by
  obtain ⟨m, h, l, e⟩ := s.fwWrite_eq c a bs
  rw [e]
  rfl

/-- A grant is on its way, and the context holds what was written for it. -/
theorem State.granting (s : State) (n : Nat) (c : Ctx) (a : Word) (bs : List Byte) (arg : Payload) :
    let u := ((s.setCtxRec n c).fwWrite n a bs).1.after 0 .packetGrant arg
    s.DueIn u 0 .packetGrant arg ∧ u.dev.ctx? n = some c :=
  ⟨State.after_dueIn (State.fwWrite_now ..) .., (State.fwWrite_ctx? ..).trans (State.ctx?_setCtxRec ..)⟩

end

/-- The thread that a grant reaches still waits. -/
theorem Thread.grant_park (th : Thread) (bs n) : (th.grant bs n).park = th.park :=
  Thread.loaded_keeps (p := Thread.park) Thread.setReg_park th 6 (wordAt bs)

/-! ### QPOST (03 R62) -/

/-- Queue `q` once a command is written at its tail, `t` before. -/
def State.posted (s : State) (q t : Nat) (bs : List Byte) : State :=
  let x := s.queue q
  (((s.fwWrite x.ctx (x.ring + BitVec.ofNat 64 (64 * (t % 2 ^ x.rlog))) bs).1.fwWrite 0 (x.record + 64)
    (leBytes 4 ((t + 1) % 2 ^ 32))).1.setQueue q { x with pending := true }).dispatch

theorem State.setQueue_tiles (s : State) (q x) : (s.setQueue q x).tiles = s.tiles := rfl

theorem State.posted_tiles (s : State) (q t bs) : (s.posted q t bs).tiles = s.tiles := by
  rw [State.posted, State.dispatch_tiles, State.setQueue_tiles, State.fwWrite_tiles, State.fwWrite_tiles]

theorem State.posted_queue (s : State) (q t bs) : (s.posted q t bs).queue q = { s.queue q with pending := true } := by
  rw [State.posted, State.dispatch_queue, State.queue_setQueue_self]

/-! ### Replies to the threads that wait (04 R86, 06 R135, 03 R62) -/

section
variable {s : State} {r : Ref} {j : Fin 16} {p : Park} (h : s.Names r j) (hp : (s.thr r.tile j).park = some p)
include h hp

/-- A reply that comes after the thread was changed reaches the changed thread. -/
theorem State.deliver_ack_setThr {th : Thread} (ht : th.park = some p) :
    ((s.setThr r.tile j th).deliver r .ack).thr r.tile j = th.finish p := by
  have hj : (s.setThr r.tile j th).Names r j := h.setThr (ht.trans hp.symm)
  rw [State.deliver_ack hj (by rw [State.thr_setThr_self]; exact ht), State.thr_setThr_self, State.thr_setThr_self]

theorem messageAcceptance_happens : Happens .messageAcceptance (.ref r) s fun u =>
    u.thr r.tile j = ({ s.thr r.tile j with pend := none } : Thread).finish p := by
  intro hi
  rw [Completes, exec_messageAcceptance, execMessageAcceptance, hi]
  dsimp only
  rw [show s.slotOf r = some j from h]
  refine ⟨_, rfl, ?_⟩
  rw [State.thr_log]
  exact State.deliver_ack_setThr (h.log ..) (by rwa [State.thr_log]) hp

theorem packetGrant_reaches (n : Nat) (bs : List Byte) : Happens .packetGrant (.buffer r n bs) s fun u =>
    u.thr r.tile j = ((s.thr r.tile j).grant bs n).finish p := by
  intro hi
  rw [Completes, exec_packetGrant, execPacketGrant, hi]
  refine ⟨_, rfl, ?_⟩
  rw [State.granted, show s.slotOf r = some j from h]
  dsimp only
  rw [State.thr_log]
  exact State.deliver_ack_setThr (h.log ..) (by rwa [State.thr_log]) ((Thread.grant_park ..).trans hp)

theorem messageBounce_refused {x : PendSend} (hx : (s.thr r.tile j).pend = some x) (hn : (s.thr r.tile j).sndretry.toNat ≤ x.bounces + 1)
    (h3 : (s.thr r.tile j).atThird = false) : Happens .messageBounce (.ref r) s fun u =>
      u.thr r.tile j = ({ s.thr r.tile j with pend := none } : Thread).enterTrap (s.thr r.tile j).pc
        (causeOf 0x0E x.mbox.val false) (x.ltn.setWidth 64) := by
  intro hi
  rw [Completes, exec_messageBounce, execMessageBounce, hi]
  dsimp only
  rw [show s.slotOf r = some j from h]
  dsimp only
  rw [hx]
  dsimp only
  rw [if_pos hn]
  refine ⟨_, rfl, ?_⟩
  have hj : ((s.log r.tile kBounce j.val 16 .messageBounce (.ref r) 0).setThr r.tile j { s.thr r.tile j with pend := none }).Names r j :=
    (h.log ..).setThr (by rw [State.thr_log])
  rw [State.thr_log, State.deliver_trap hj (by rw [State.thr_setThr_self]; exact hp) (by rw [State.thr_setThr_self]; exact h3),
    State.thr_setThr_self, State.thr_setThr_self]
  rfl

omit hp in
theorem messageBounce_again {x : PendSend} (hx : (s.thr r.tile j).pend = some x) (hn : x.bounces + 1 < (s.thr r.tile j).sndretry.toNat) :
    Happens .messageBounce (.ref r) s fun u =>
      (u.thr r.tile j).pend = some { x with bounces := x.bounces + 1 } ∧ s.DueIn u 64 .messageReinject (.ref r) := by
  intro hi
  rw [Completes, exec_messageBounce, execMessageBounce, hi]
  dsimp only
  rw [show s.slotOf r = some j from h]
  dsimp only
  rw [hx]
  dsimp only
  rw [if_neg (Nat.not_le.2 hn)]
  refine ⟨_, rfl, ?_, State.after_dueIn (State.logRec_now ..) ..⟩
  exact congrArg Thread.pend (State.thr_setThr_self ..)

omit hp in
theorem messageReinject_happens {x : PendSend} (hx : (s.thr r.tile j).pend = some x) :
    let dest := shadowBase r.tile + x.ltn.toNat
    s.leavesShadow r.tile dest = false → Happens .messageReinject (.ref r) s fun u => u.Leaving r.tile .messageDelivery
      (.msg dest { src := BitVec.ofNat 18 (ltnOf r.tile), mbox := x.mbox, tag := x.tag, payload := x.payload } r) := by
  intro dest hl hi
  rw [Completes, exec_messageReinject, execMessageReinject, hi]
  dsimp only
  rw [show s.slotOf r = some j from h]
  dsimp only
  rw [hx]
  refine ⟨_, rfl, ?_⟩
  rw [State.sendMessage, State.packet, if_neg (ne_true_of_eq_false hl), State.inject, State.Leaving, State.tile_setRouter_self]
  exact ⟨_, List.mem_append_right _ (List.mem_singleton.2 rfl), rfl, rfl⟩

/-- An answer of the control die to QPOST reaches its thread. -/
theorem qpostRequest_answered {u : State} {ctx q v : Nat} {bs : List Byte} (ht : u.tiles = s.tiles)
    (e : s.input = .post r ctx q bs → exec .qpostRequest s = .next (u.logReply r (.value (BitVec.ofNat 64 v)) .qpostRequest)) :
    Happens .qpostRequest (.post r ctx q bs) s fun w => w.thr r.tile j = (s.thr r.tile j).receive p (BitVec.ofNat 64 v) ∧ w.dev = u.dev := by
  intro hi
  obtain ⟨_, rfl, hw⟩ := State.logReply_value (h.of_tiles ht) (by rwa [State.thr_of_tiles ht]) (BitVec.ofNat 64 v) .qpostRequest
  rw [State.thr_of_tiles ht] at hw
  exact ⟨_, e hi, hw⟩

theorem qpostRequest_refused {ctx q : Nat} {bs : List Byte} :
    let x := s.queue q
    let answered (v : Nat) : Prop := Happens .qpostRequest (.post r ctx q bs) s fun u => u.thr r.tile j = (s.thr r.tile j).receive p (BitVec.ofNat 64 v)
    (x.mapped = false ∨ x.ctx ≠ ctx ∨ x.dpost = false → answered 2)
    ∧ (x.mapped = true → x.ctx = ctx → x.dpost = true → x.state ≠ 1 → answered 3) := by
  intro x answered
  refine ⟨fun hx => ?_, fun hm hc hd hs => ?_⟩ <;>
    refine (qpostRequest_answered h hp (ctx := ctx) (q := q) (bs := bs) (u := s) rfl fun hi => ?_).mono fun u hu => hu.1 <;>
    rw [exec_qpostRequest, execQpostRequest, hi] <;> dsimp only
  · exact if_pos (by simpa using hx)
  · exact (if_neg (by simp [x, hm, hc, hd])).trans (if_pos hs)

theorem qpostRequest_open {ctx q : Nat} {bs : List Byte} (hm : (s.queue q).mapped = true) (hc : (s.queue q).ctx = ctx)
    (hd : (s.queue q).dpost = true) (hs : (s.queue q).state = 1) :
    let x := s.queue q
    let tl := s.fwRead 0 (x.record + 64) 4
    let tail := leNat tl.2
    let ev := Payload.post r ctx q bs
    tl.1 = 0 →
      ((tail + 2 ^ 32 - x.head) % 2 ^ 32 = 2 ^ x.rlog → Happens .qpostRequest ev s fun u => u.thr r.tile j = (s.thr r.tile j).receive p 1)
      ∧ ((tail + 2 ^ 32 - x.head) % 2 ^ 32 ≠ 2 ^ x.rlog →
          (s.fwWrite x.ctx (x.ring + BitVec.ofNat 64 (64 * (tail % 2 ^ x.rlog))) bs).2 = 0 →
          Happens .qpostRequest ev s fun u => u.thr r.tile j = (s.thr r.tile j).receive p 0 ∧ (u.queue q).pending = true) := by
  intro x tl tail ev h0
  have hx : ¬ ((!x.mapped) = true ∨ x.ctx ≠ ctx ∨ (!x.dpost) = true) := by simp [x, hm, hc, hd]
  refine ⟨fun hf => ?full, fun hf hw => ?posted⟩
  case full =>
    refine (qpostRequest_answered h hp (v := 1) (u := s) rfl fun hi => ?_).mono fun u hu => hu.1
    rw [exec_qpostRequest, execQpostRequest, hi]
    dsimp only
    rw [if_neg hx, if_neg (not_not.2 hs), if_neg (not_not.2 h0), if_pos hf]
  case posted =>
    refine (qpostRequest_answered h hp (v := 0) (s.posted_tiles q tail bs) fun hi => ?_).mono fun u hu => ⟨hu.1, ?_⟩
    · rw [exec_qpostRequest, execQpostRequest, hi]
      dsimp only
      rw [if_neg hx, if_neg (not_not.2 hs), if_neg (not_not.2 h0), if_neg hf, if_neg (not_not.2 hw), State.posted]
    · rw [State.queue_of_dev hu.2, State.posted_queue]

end

/-- Settles O48, event by event. -/
theorem messageEvents : Obligations.MessageEvents := by
  intro s t m r ctx pkq q n bs mail pk
  refine ⟨fun hq => ⟨messageDelivery_enters hq, messageDelivery_bounces hq⟩,
    fun d hd => ⟨packetRetire_happens hd q, packetGrant_hears hd r bs, ?grant⟩, fun j p hj hp => ?replies⟩
  case grant =>
    intro live s1 hd' pos plog packet w hr hw h0
    refine ⟨fun he hi => ?_, fun he hk hi => ?_⟩
    · refine ⟨_, (packetGrant_eq hd hr hw hi h0).1 he, ⟨_, List.mem_append_right _ (List.mem_singleton.2 rfl), rfl, rfl⟩, .of_eq rfl rfl⟩
    · obtain ⟨hdue, hctx⟩ := s1.granting ctx { d with tasks := live.erase w, heldPos := d.heldPos ++ [(pk, pos % 2 ^ plog)] } (pk + 8)
        (leBytes 8 (pos + 1)) (.buffer w.src (pos % 2 ^ plog) packet.2)
      exact ⟨_, (packetGrant_eq hd hr hw hi h0).2 he hk, hdue, congrArg (Option.map Ctx.heldPos) hctx⟩
  case replies =>
    exact ⟨messageAcceptance_happens hj hp, packetGrant_reaches hj hp n bs,
      fun x hx => ⟨messageBounce_refused hj hp hx, messageBounce_again hj hx, messageReinject_happens hj hx⟩,
      (qpostRequest_refused hj hp).1, (qpostRequest_refused hj hp).2, qpostRequest_open hj hp⟩

end Sys2Proof.Machine
end

section
/-!
PROOFS. Launches: their checks, population, end, third copies and time limit (03 R55 to R59, R64, R65, 05 R384). What a launch that leaves its
tiles keeps (`State.Left`) is proved once for one tile and for all.
-/
namespace Sys2Proof.Machine

/-! ### The command (03 R55, R56) -/

section
variable {s : State} {q id : Nat} {c : Command} {d : Ctx} (hc : s.command? q id = some c)
include hc

theorem launch_gone (hd : s.dev.ctx? c.ctx = none) : Happens .launch (.cmd q id) s fun u => u.Completing q id 3 0 0 := by
  intro hi
  rw [Completes, exec_launch, execLaunch, hi]
  dsimp only
  rw [hc]
  dsimp only
  rw [hd]
  exact ⟨_, rfl, State.complete_completing ..⟩

theorem launch_happens (hd : s.dev.ctx? c.ctx = some d) :
    let x := s.fwRead c.ctx (c.dw 1) 128
    let ws := wordsOf x.2 16
    let l := Launch.ofDescriptor ws (BitVec.ofNat 32 (d.lids + 1)) q id
    let t := s.regionTable c.ctx l.live l.nlive.toNat
    (x.1 ≠ 0 → Happens .launch (.cmd q id) s fun u => u.Completing q id 1 (0x0B + 256 * x.1) 1)
    ∧ (∀ i, x.1 = 0 → s.launchBad c.ctx d ws = some i → Happens .launch (.cmd q id) s fun u => u.Completing q id 4 i 0)
    ∧ (x.1 = 0 → s.launchBad c.ctx d ws = none → t.1 ≠ 0 → Happens .launch (.cmd q id) s fun u => u.Completing q id 1 (0x0B + 256 * t.1) 1)
    ∧ (x.1 = 0 → s.launchBad c.ctx d ws = none → t.1 = 0 →
        (s.mirrorShort c.ctx d (l.poolcfg.setWidth 64) t.2 = true → Happens .launch (.cmd q id) s fun u => u.Completing q id 6 0 0)
        ∧ (s.mirrorShort c.ctx d (l.poolcfg.setWidth 64) t.2 = false → Happens .launch (.cmd q id) s fun u =>
            s.DueIn u 1 .population (.num c.ctx) ∧ u.tiles = s.tiles
            ∧ u.dev.ctx? c.ctx = some { d with lids := d.lids + 1, waiting := d.waiting ++ [{ l with extents := t.2 }] })) := by
  intro x ws l t
  refine ⟨fun hx hi => ?unread, fun i hx hb hi => ?malformed, fun hx hb ht hi => ?table,
    fun hx hb ht => ⟨fun hm hi => ?short, fun hm hi => ?waits⟩⟩
  all_goals
    rw [Completes, exec_launch, execLaunch, hi]
    dsimp only
    rw [hc]
    dsimp only
    rw [hd]
    dsimp only
  case unread =>
    rw [if_pos hx]
    exact ⟨_, rfl, State.refuse_completing ..⟩
  all_goals rw [if_neg (not_not.2 hx), hb]
  case malformed => exact ⟨_, rfl, State.complete_completing ..⟩
  all_goals dsimp only
  case table =>
    rw [if_pos ht]
    exact ⟨_, rfl, State.refuse_completing ..⟩
  all_goals rw [if_neg (not_not.2 ht)]
  case short =>
    rw [if_pos hm]
    exact ⟨_, rfl, State.complete_completing ..⟩
  case waits =>
    rw [if_neg (ne_true_of_eq_false hm)]
    exact ⟨_, rfl, State.after_dueIn rfl .., rfl, Table.get?_set_self ..⟩
end

/-! ### A context reaches its tile (05 R384, 21 R376) -/

/-- The bytes below the first that a memory keeps are not listed. -/
theorem Memory.get_filter_below (m : Memory) {a top : Nat} (h : a < top) :
    Memory.get (m.filter (fun x => decide (top ≤ x.1))) a = Memory.unlisted := by
  induction m with
  | nil => rfl
  | cons c m ih =>
    by_cases hc : top ≤ c.1
    · rw [List.filter_cons_of_pos (by simpa using hc), Memory.get, if_neg (by omega), ih]
    · rw [List.filter_cons_of_neg (by simpa using hc), ih]

section
variable (s : State) (k : TileId) (j : Fin 16) (lix : Nat) (e : LaunchEntry) (th : Thread) (cfg : Word) (zero : Bool)

/-- The tile that a context has reached, before the context is written. -/
def TileCtx.loadLaunch (c : TileCtx) (lix : Nat) (e : LaunchEntry) (cfg : Word) : TileCtx :=
  { c with poolcfg := cfg, icache := c.icache.filter (fun x => x.lix != lix), launches := c.launches.set lix e }

theorem State.takeContext_c : ((s.takeContext k j.val lix e th cfg zero).tile k).c =
    let c := (s.tile k).c.loadLaunch lix e cfg
    let c := if zero then c.zeroFill else c
    { c with slots := c.slots.set j.val (some th) j.isLt } := by
  have hl (k') : (((s.log k kPopulate j.val 112 .population s.input 0).flushCache (clusterOf k)).tile k').c = (s.tile k').c :=
    State.tile_logRec_c ..
  rw [State.takeContext]
  dsimp only
  rw [State.tile_setTile_self, State.tile_setCtx_self, hl, Tile.setSlot, show Fin.ofNat 16 j.val = j from Fin.ext (Nat.mod_eq_of_lt j.isLt)]
  rfl

theorem population_reaches : Happens .population (.populate k j.val lix e th cfg zero) s fun u =>
    (u.tile k).slot j = some th ∧ (∀ i, i ≠ j → (u.tile k).slot i = (s.tile k).slot i) ∧ (u.tile k).c.launches.get? lix = some e
    ∧ (u.tile k).c.poolcfg = cfg ∧ (zero = false → (u.tile k).c.pool = (s.tile k).c.pool ∧ (u.tile k).c.zeroDue = (s.tile k).c.zeroDue)
    ∧ (zero = true → (u.tile k).c.zeroDue = false ∧ (∀ a, a < (scrUnits cfg + accUnits cfg) * 4096 → u.poolByte k a = 0)
        ∧ ∀ w ∈ (u.tile k).c.emptyDw, scrBytes cfg ≤ 8 * w) := by
  intro hi
  have hj : ¬ j.val = evictSlot := Nat.ne_of_lt j.isLt
  rw [Completes, exec_population, execPopulation, hi]
  dsimp only
  rw [if_neg hj]
  refine ⟨_, rfl, ?_⟩
  simp only [Tile.slot, State.poolByte, State.takeContext_c]
  have same : (fun i => (if zero = true then ((s.tile k).c.loadLaunch lix e cfg).zeroFill else (s.tile k).c.loadLaunch lix e cfg).slots[i])
      = fun i : Fin 16 => (s.tile k).c.slots[i] := by cases zero <;> rfl
  refine ⟨Vector.getElem_set_self _, fun i hij => ?_, ?_, ?_, ?_, ?_⟩
  · exact (Vector.getElem_set_ne _ _ (fun h => hij (Fin.ext h.symm))).trans (congrFun same i)
  · cases zero <;> exact Table.get?_set_self ..
  · cases zero <;> rfl
  · rintro rfl
    exact ⟨rfl, rfl⟩
  · rintro rfl
    exact ⟨rfl, fun a ha => Memory.get_filter_below _ ha, fun w hw => Nat.mul_comm w 8 ▸ of_decide_eq_true (List.mem_filter.1 hw).2⟩
end

/-! ### A launch leaves its tiles (03 R59) -/

/-- What a launch leaves of a slot. -/
def keptBy (lix : BitVec 4) (lid : BitVec 32) (o : Option Thread) : Option Thread :=
  match o with
  | some th => if th.lix = lix ∧ th.launch = lid then none else some th
  | none => none

/-- What the launches of the machine are read from. -/
def State.records (s : State) : Table Ctx × Table Cluster × Nat := (s.dev.contexts, s.clusters, s.now)
/-- The threads of the machine, by tile. -/
def State.threads (s : State) (k : TileId) : Vector (Option Thread) 16 := (s.tile k).c.slots

section
variable {s u : State} (h : u.records = s.records)
include h
theorem State.ctx?_of_records (n) : u.dev.ctx? n = s.dev.ctx? n := by
  rw [Device.ctx?, show u.dev.contexts = s.dev.contexts from congrArg Prod.fst h, Device.ctx?]
theorem State.launch?_of_records (n lix) : u.launch? n lix = s.launch? n lix := by
  rw [State.launch?, State.ctx?_of_records h, State.launch?]
theorem State.cluster_of_records (cl) : u.cluster cl = s.cluster cl := by
  rw [State.cluster, show u.clusters = s.clusters from congrArg (fun x => x.2.1) h, State.cluster]
end

theorem State.note_records (s : State) (k ev arg) : (s.note k ev arg).records = s.records := by
  rw [State.records, State.note, State.logRec_dev, State.logRec_clusters, State.logRec_now, State.records]
theorem State.packet_records (s : State) (a b cls fl ev arg) : (s.packet a b cls fl ev arg).records = s.records := by
  unfold State.packet
  split <;> rfl

theorem State.tile_setRouter_c (s : State) (k r k') : ((s.setRouter k r).tile k').c = (s.tile k').c := by
  by_cases h : k' = k
  · rw [h, State.tile_setRouter_self]
  · rw [State.tile_setRouter_ne _ _ h]
theorem TileCtx.leave_slots (c : TileCtx) (h) : (c.leave h).slots = c.slots := by
  unfold TileCtx.leave
  dsimp only
  split
  · rfl
  · split <;> rfl
theorem State.threads_setCtx {s : State} {k : TileId} {c : TileCtx} (hc : c.slots = (s.tile k).c.slots) : (s.setCtx k c).threads = s.threads := by
  funext k'
  by_cases h : k' = k
  · rw [State.threads, h, State.tile_setCtx_self, hc, State.threads]
  · rw [State.threads, State.tile_setCtx_ne _ _ h, State.threads]

/-- The end of a thread sends packets, and the tile forgets what the thread held. -/
theorem State.endEffects_keeps {α : Type} (p : State → α) (hp : ∀ s a b cls fl ev arg, p (State.packet s a b cls fl ev arg) = p s)
    (hi : ∀ s k x, p (State.inject s k x) = p s) (hl : ∀ s k h, p (State.setCtx s k ((s.tile k).c.leave h)) = p s) (s : State) (k th) :
    p (s.endEffects k th) = p s := by
  have groups : p (th.groups.foldl (fun s m => s.askGroup k th m.group 1 m.reds noRef) s) = p s :=
    State.foldl_reads p (fun s m => hp ..) ..
  rw [State.endEffects, hi]
  generalize th.groups.foldl (fun s m => s.askGroup k th m.group 1 m.reds noRef) s = t at groups
  have packets : p (if th.held then t.askMemory k 3 .packetRetire (.nums3 (t.tile k).r.ctx ((t.tile k).launchPkq th.lix) th.pkslot.toNat)
      else t) = p s := by
    split
    · exact (hi ..).trans groups
    · exact groups
  split
  · exact (hl ..).trans packets
  · exact (hp ..).trans packets

theorem State.endEffects_records (s : State) (k th) : (s.endEffects k th).records = s.records :=
  State.endEffects_keeps _ State.packet_records (fun _ _ _ => rfl) (fun _ _ _ => rfl) s k th
theorem State.endEffects_threads (s : State) (k th) : (s.endEffects k th).threads = s.threads :=
  State.endEffects_keeps _ (fun _ _ _ _ _ _ _ => funext fun _ => congrArg TileCtx.slots (State.packet_tile_c ..))
    (fun _ _ _ => funext fun _ => congrArg TileCtx.slots (State.tile_setRouter_c ..)) (fun _ _ _ => State.threads_setCtx (TileCtx.leave_slots ..)) s k th

theorem TileCtx.unload_slots (c : TileCtx) (lix lid) : (c.unload lix lid).slots = c.slots := by
  unfold TileCtx.unload
  split
  · rfl
  · split <;> rfl
theorem TileCtx.dropLaunch_slot (c : TileCtx) (lix lid) (j : Fin 16) : (c.dropLaunch lix lid).slots[j] = keptBy lix lid c.slots[j] := by
  have left (hs : List (BitVec 4)) : (hs.foldl TileCtx.leave c).slots = c.slots :=
    List.foldlRecOn (motive := fun d : TileCtx => d.slots = c.slots) hs TileCtx.leave rfl fun d h x _ => (d.leave_slots x).trans h
  rw [TileCtx.dropLaunch]
  simp only [Fin.getElem_fin, Vector.getElem_map, TileCtx.unload_slots, left]
  cases c.slots[j.val] with
  | none => rfl
  | some th => simp [keptBy]

section
variable (s : State) (k : TileId) (lix : Nat) (lid : BitVec 32)

theorem State.dropOn_records : (s.dropOn k lix lid).records = s.records := by
  have ended := State.foldl_reads State.records (fun s th => State.endEffects_records s k th)
    ((s.tile k).c.threadsOf (BitVec.ofNat 4 lix) lid)
    ((s.note k .launchEnd (.dropped k lix lid)).setCtx k (((s.note k .launchEnd (.dropped k lix lid)).tile k).c.dropLaunch (BitVec.ofNat 4 lix) lid))
  exact ended.trans (s.note_records ..)

theorem State.dropAll_records (n : Nat) : (s.dropAll n lix lid).records = s.records := by
  refine State.foldl_reads State.records (fun s k => ?_) _ s
  dsimp only
  split
  · rfl
  · exact s.dropOn_records ..

/-- The threads of a launch have left a tile; the others stay where they are. -/
theorem State.dropOn_slot (j : Fin 16) : ((s.dropOn k lix lid).tile k).slot j = keptBy (BitVec.ofNat 4 lix) lid ((s.tile k).slot j) := by
  have ended := State.foldl_reads State.threads (fun s th => State.endEffects_threads s k th)
    ((s.tile k).c.threadsOf (BitVec.ofNat 4 lix) lid)
    ((s.note k .launchEnd (.dropped k lix lid)).setCtx k (((s.note k .launchEnd (.dropped k lix lid)).tile k).c.dropLaunch (BitVec.ofNat 4 lix) lid))
  have noted : ((s.note k .launchEnd (.dropped k lix lid)).tile k).c = (s.tile k).c := State.tile_logRec_c ..
  have hs : ((s.dropOn k lix lid).tile k).c.slots = ((s.tile k).c.dropLaunch (BitVec.ofNat 4 lix) lid).slots := by
    refine (congrFun ended k).trans ?_
    rw [State.threads, State.tile_setCtx_self, noted]
  rw [Tile.slot, hs]
  exact TileCtx.dropLaunch_slot ..

theorem launchEnd_dropped : Happens .launchEnd (.dropped k lix lid) s fun u =>
    ∀ j, (u.tile k).slot j = keptBy (BitVec.ofNat 4 lix) lid ((s.tile k).slot j) := by
  intro hi
  rw [Completes, exec_launchEnd, execLaunchEnd, hi]
  exact ⟨_, rfl, s.dropOn_slot k lix lid⟩
end

/-! ### Ends, crashes and the time limit (03 R59, R64, R65, 09 R187) -/

theorem Table.get?_erase_self {α : Type} (t : Table α) (k : Nat) : (t.erase k).get? k = none := by
  induction t with
  | nil => rfl
  | cons c t ih =>
    by_cases h : c.1 = k
    · simpa [Table.erase, h] using ih
    · simpa [Table.erase, h, Table.get?] using ih

theorem Launch.outcome_aborted {l : Launch} {why} (ha : l.abort = some why) (fault) : l.outcome fault = some why := by
  unfold Launch.outcome
  rw [ha]
theorem Launch.outcome_faulted {l : Launch} (ha : l.abort = none) (code) : l.outcome (some code) = some (1, code) := by
  unfold Launch.outcome
  rw [ha]
  rfl

/-- Without an abort or a fault, the signatures tell how a paired launch ends (03 R65). -/
theorem Launch.outcome_signed {l : Launch} (ha : l.abort = none) :
    (l.paired = false ∨ l.thirdSig = none ∧ l.sig = l.shadowSig → l.outcome none = some (0, 0))
    ∧ (l.paired = true → l.thirdSig = none → l.sig ≠ l.shadowSig → l.outcome none = none)
    ∧ (∀ t, l.paired = true → l.thirdSig = some t →
        l.outcome none = some (if t = l.sig then 7 else if t = l.shadowSig then 8 else 9, 0)) := by
  refine ⟨fun h => ?_, fun hp h3 hs => ?_, fun t hp h3 => ?_⟩ <;> unfold Launch.outcome <;> rw [ha] <;> dsimp only
  · exact if_pos (by simpa using h)
  · rw [if_neg (by simp [hp, hs]), h3]
  · rw [if_neg (by simp [hp, h3]), h3]
    rfl

theorem cyclesOf_thousands (n : Nat) : cyclesOf (n * 1000) = 2500 * n := by
  rw [cyclesOf]
  omega

section
variable {s : State} {n lix : Nat} {l : Launch} (hl : s.launch? n lix = some l)
include hl

theorem State.launch?_withLaunch (f : Launch → Launch) : (s.withLaunch n lix f).launch? n lix = some (f l) := by
  obtain ⟨d, hd, hg⟩ := Option.bind_eq_some_iff.1 hl
  rw [State.withLaunch, hd]
  dsimp only
  rw [hg, State.launch?, Device.ctx?, Table.get?_set_self]
  exact Table.get?_set_self ..

omit hl in
theorem State.withLaunch_clusters (s : State) (n lix f) : (s.withLaunch n lix f).clusters = s.clusters := by
  unfold State.withLaunch
  split
  · rfl
  · split <;> rfl

/-- A launch that is stopped is aborted for that reason, unless it was already. -/
theorem State.launch?_stopLaunch (lid : BitVec 32) (why : Nat × Nat) :
    ((s.stopLaunch n lix lid why).launch? n lix).map Launch.abort = some (some (l.abort.getD why)) := by
  have left : ((s.dropAll n lix lid).discard n lid).launch? n lix = some l :=
    (State.launch?_of_records (s := s) (s.dropAll_records lix lid n) n lix).trans hl
  have aborted := congrArg (Option.map Launch.abort)
    (State.launch?_withLaunch left (fun l => { l with abort := match l.abort with | none => some why | w => w }))
  refine aborted.trans ?_
  cases l.abort <;> rfl

omit hl in
theorem State.stopLaunch_cluster (s : State) (n lix lid why cl) : (s.stopLaunch n lix lid why).cluster cl = s.cluster cl := by
  have left : (s.stopLaunch n lix lid why).clusters = (s.dropAll n lix lid).clusters := State.withLaunch_clusters ..
  rw [State.cluster, left]
  exact State.cluster_of_records (s.dropAll_records lix lid n) cl

theorem State.closeLaunch_ends (out : Nat × Nat) :
    (s.closeLaunch n lix l out).launch? n lix = none ∧ (s.closeLaunch n lix l out).Completing l.slot l.pos out.1 out.2 (l.lid.setWidth 64) := by
  obtain ⟨d, hd, -⟩ := Option.bind_eq_some_iff.1 hl
  have hd' : (s.dropAll n lix l.lid).dev.ctx? n = some d := (State.ctx?_of_records (s.dropAll_records lix l.lid n) n).trans hd
  rw [State.closeLaunch, hd']
  refine ⟨?_, (State.after_grows ..).pending (State.complete_completing ..)⟩
  refine (congrArg (Option.bind · fun c => c.launches.get? lix) (State.ctx?_setCtxRec ..)).trans ?_
  exact Table.get?_erase_self ..

theorem launchEnd_closes (hp : l.populated = true) (hr : l.rerun = false) (ho : s.over n l = true) {x : Nat × Nat}
    (hx : l.outcome (s.leftFault n l.lid) = some x) : Happens .launchEnd (.nums n lix) s fun u =>
      u.launch? n lix = none ∧ u.Completing l.slot l.pos x.1 x.2 (l.lid.setWidth 64) := by
  intro hi
  rw [Completes, exec_launchEnd, execLaunchEnd, hi]
  dsimp only
  rw [hl]
  dsimp only
  rw [if_neg (by simp [hp, hr, ho]), hx]
  exact ⟨_, rfl, State.closeLaunch_ends hl x⟩

theorem launchEnd_reruns (hp : l.populated = true) (hr : l.rerun = false) (ho : s.over n l = true)
    (hx : l.outcome (s.leftFault n l.lid) = none) : Happens .launchEnd (.nums n lix) s fun u =>
      (u.launch? n lix).map Launch.rerun = some true ∧ u.Pending .population (.num n) := by
  intro hi
  rw [Completes, exec_launchEnd, execLaunchEnd, hi]
  dsimp only
  rw [hl]
  dsimp only
  rw [if_neg (by simp [hp, hr, ho]), hx]
  exact ⟨_, rfl, congrArg (Option.map Launch.rerun) (State.launch?_withLaunch hl _), _, List.mem_append_right _ (List.mem_singleton.2 rfl), rfl, rfl⟩

theorem launchEnd_early (h : l.populated = false ∨ s.over n l = false) : Becomes .launchEnd (.nums n lix) s s := by
  intro hi
  rw [exec_launchEnd, execLaunchEnd, hi]
  dsimp only
  rw [hl]
  exact if_pos (by rcases h with h | h <;> simp [h])

theorem launchEnd_ended {k : TileId} {th : Thread} (hk : (s.tile k).r.ctx = n) (hx : th.lix.toNat = lix) (hd : th.launch = l.lid)
    (hc : th.copies = []) : Happens .launchEnd (.ended k th) s fun u => u.Pending .launchEnd (.nums n lix)
      ∧ (l.paired = true → isShadow k = false → (u.launch? n lix).map Launch.sig = some (l.sig ^^^ th.sig)) := by
  intro hi
  rw [Completes, exec_launchEnd, execLaunchEnd, hi]
  dsimp only
  rw [hk, hx]
  refine ⟨_, rfl, ⟨_, List.mem_append_left _ (List.mem_append_right _ (List.mem_singleton.2 rfl)), rfl, rfl⟩, fun hp hs => ?_⟩
  refine (congrArg (Option.map Launch.sig) (State.launch?_withLaunch hl fun l => l.ended k th)).trans ?_
  simp [Launch.ended, hd, hc, Launch.addSig, hp, hs]

omit hl in
theorem State.addCrash_mem (s : State) (cl r) : r ∈ ((s.addCrash cl r).cluster cl).crash := by
  unfold State.addCrash
  dsimp only
  split
  · rw [State.cluster_setCluster_self]
    exact List.mem_append_right _ (List.mem_singleton.2 rfl)
  · refine (congrArg (r ∈ Cluster.crash ·) (State.cluster_setCluster_self ..)).mpr ?_
    exact List.mem_append_right _ (List.mem_singleton.2 rfl)
omit hl in
theorem State.addCrash_launch? (s : State) (cl r n lix) : (s.addCrash cl r).launch? n lix = s.launch? n lix := by
  unfold State.addCrash
  dsimp only
  split <;> rfl

theorem launchEnd_crash {cl : Nat} {r : CrashRec} (hx : r.lix = lix) (hd : r.lid = l.lid) (ha : l.abort = none) :
    Happens .launchEnd (.crash cl r n) s fun u =>
      r ∈ (u.cluster cl).crash ∧ (u.launch? n lix).map Launch.abort = some (some (1, r.cause0.toNat % 256)) := by
  intro hi
  rw [Completes, exec_launchEnd, execLaunchEnd, hi]
  have hl' := (s.addCrash_launch? cl r n lix).trans hl
  refine ⟨_, rfl, ?_⟩
  rw [State.crash, hx]
  dsimp only
  rw [hl']
  dsimp only
  rw [if_neg (not_not.2 hd.symm)]
  constructor
  · rw [State.stopLaunch_cluster, State.cluster, State.withLaunch_clusters]
    exact s.addCrash_mem cl r
  · rw [State.launch?_stopLaunch (State.launch?_withLaunch hl' _), Launch.crashed, if_pos (by simp [ha])]
    rfl

theorem launchTimeLimit_happens {d : Ctx} (hd : s.dev.ctx? n = some d) (hr : d.res = .resident) (ha : l.abort = none) :
    (2500 * l.tlim ≤ l.elapsed + (s.now - l.since) → Happens .launchTimeLimit (.nums3 n lix l.lid.toNat) s fun u =>
      (u.launch? n lix).map Launch.abort = some (some (2, 0)))
    ∧ (l.elapsed + (s.now - l.since) < 2500 * l.tlim → Becomes .launchTimeLimit (.nums3 n lix l.lid.toNat) s s) := by
  refine ⟨fun ht hi => ?_, fun ht hi => ?_⟩
  · rw [Completes, exec_launchTimeLimit, execLaunchTimeLimit, hi]
    dsimp only
    rw [hd, hl]
    dsimp only
    rw [if_neg (by simp [hr, ha, cyclesOf_thousands, ht])]
    refine ⟨_, rfl, ?_⟩
    rw [State.launch?_stopLaunch (State.launch?_withLaunch hl _), ha]
    rfl
  · rw [exec_launchTimeLimit, execLaunchTimeLimit, hi]
    dsimp only
    rw [hd, hl]
    exact if_pos (by simp [hr, ha, cyclesOf_thousands, ht])
end

/-! ### Population (03 R57, R58, 05 R384, 16 R327) -/

section
variable {s : State} {n lix : Nat} {d : Ctx} {l : Launch}

/-- No third copy waits. -/
theorem State.rerun_none (hd : s.dev.ctx? n = some d) (hr : ∀ x ∈ d.launches, x.2.rerun = false) : s.rerun n = s := by
  rw [State.rerun, hd]
  refine List.foldlRecOn (motive := fun u : State => u = s) d.launches _ rfl fun u hu x hx => ?_
  rw [if_neg (by simp [hr x hx])]
  exact hu

/-- A round of the population ends when no launch can start. -/
theorem State.populate_stops (hd : s.dev.ctx? n = some d) (hw : s.nextLaunch d d.waiting 0 = none) (fuel : Nat) : s.populate n fuel = s := by
  cases fuel with
  | zero => rfl
  | succ fuel =>
    rw [State.populate, hd]
    dsimp only
    rw [hw]
    split
    · rfl
    · cases d.freeLix <;> rfl

theorem State.nextLaunch_one (s : State) (d l) :
    s.nextLaunch d [l] 0 = if s.roomFor (s.launchTiles d l) l.quota = true then some l else none := by
  simp [State.nextLaunch]

/-- A launch whose tiles are at rest starts, with no record to evict. -/
theorem State.populate_starts (hd : s.dev.ctx? n = some d) (hr : d.res = .resident) (hw : d.waiting = [l]) (hx : d.freeLix = some lix)
    (hq : s.roomFor (s.launchTiles d l) l.quota = true)
    (hk : ∀ k ∈ s.launchTiles d l, s.recovering k = false ∧ s.evicting k = false ∧ (s.tile k).c.mustEvict (l.poolcfg.setWidth 64) = false)
    (fuel : Nat) : s.populate n (fuel + 1) = (s.start n d lix l (s.launchTiles d l)).populate n fuel := by
  have he : s.evictFor (s.launchTiles d l) (l.poolcfg.setWidth 64) = (s, true) := by
    have none_old : (s.launchTiles d l).filter (fun k => (s.tile k).c.mustEvict (l.poolcfg.setWidth 64)) = [] :=
      List.filter_eq_nil_iff.2 fun k h => by simp [(hk k h).2.2]
    rw [State.evictFor, if_neg (by simpa using fun k h => (hk k h).2.1), none_old]
    rfl
  rw [State.populate, hd]
  dsimp only
  rw [if_neg (by simp [hr]), hx, hw, State.nextLaunch_one, if_pos hq]
  dsimp only
  rw [if_neg (by simpa using fun k h => (hk k h).1), he]
  exact if_pos rfl

/-- The event that brings context `i` of a launch to slot `j` of tile `k`. -/
def State.contextFor (s : State) (lix : Nat) (l : Launch) (k : TileId) (i : Nat) (j : Fin 16) : Payload :=
  .populate k j.val lix l.tableEntry (l.thread lix k j.val i) (l.poolcfg.setWidth 64) ((s.tile k).c.zeroDue && i == 0)

theorem State.populateTile_grows (s : State) (lix l k) : s.Grows (s.populateTile lix l k) := .foldl (fun s _ => s.sendOn_grows ..) _ s

theorem State.populateTile_pending (s : State) (lix l k) {i : Nat} {j : Fin 16} (hi : i < l.quota) (hj : (s.openSlots k)[i]? = some j) :
    (s.populateTile lix l k).Pending .population (s.contextFor lix l k i j) := by
  have hjs : ((s.openSlots k).take l.quota)[i]? = some j := (List.getElem?_take_of_lt hi).trans hj
  have sent := State.pending_foldl (ev := .population) (arg := fun i => s.contextFor lix l k i (((s.openSlots k).take l.quota).getD i 0))
    (f := fun s' i => s'.sendOn memoryPort k 0 (3 * s'.dieLinks (clusterOf k) + 1) .population
      (s.contextFor lix l k i (((s.openSlots k).take l.quota).getD i 0)))
    (fun s _ => s.sendOn_grows ..) (fun s _ => ⟨_, List.mem_append_right _ (List.mem_singleton.2 rfl), rfl, rfl⟩)
    (List.mem_range.2 (List.getElem?_eq_some_iff.1 hjs).1) s
  rwa [List.getD_eq_getElem?_getD, hjs] at sent

/-- Slots that a packet to another tile reserves are that tile's. -/
theorem State.openSlots_sendOn (s : State) (src dst cls n ev) {k k' : TileId} (h : k ≠ k') (j lix e th cfg zero) :
    (s.sendOn src dst cls n ev (.populate k j lix e th cfg zero)).openSlots k' = s.openSlots k' := by
  have hr : (s.sendOn src dst cls n ev (.populate k j lix e th cfg zero)).reservedSlots k' = s.reservedSlots k' := by
    simp only [State.reservedSlots, State.sendOn, State.tile, List.map_append, List.map_cons, List.map_nil, List.filterMap_append,
      List.filterMap_cons, List.filterMap_nil, if_neg h, List.append_nil]
  rw [State.openSlots, hr]
  rfl

/-- The contexts of one tile are no others'. -/
theorem State.populateTile_other (s : State) (lix l) {k k' : TileId} (h : k ≠ k') :
    (s.populateTile lix l k).openSlots k' = s.openSlots k' ∧ (s.populateTile lix l k).tiles = s.tiles :=
  Prod.mk.inj (State.foldl_reads (fun u => (u.openSlots k', u.tiles)) (fun s _ => Prod.ext (s.openSlots_sendOn _ _ _ _ _ h ..) rfl) _ s)

theorem State.populateTiles_pending (lix : Nat) (l : Launch) {ks : List TileId} (hn : ks.Nodup) {k : TileId} (hk : k ∈ ks) {i : Nat} {j : Fin 16}
    (hi : i < l.quota) (s : State) (hj : (s.openSlots k)[i]? = some j) :
    (ks.foldl (fun s k => s.populateTile lix l k) s).Pending .population (s.contextFor lix l k i j) := by
  induction ks generalizing s with
  | nil => simp at hk
  | cons k0 ks ih =>
    obtain ⟨h0, hn⟩ := List.nodup_cons.1 hn
    rcases List.mem_cons.1 hk with rfl | hk
    · exact (State.Grows.foldl (fun s k => s.populateTile_grows ..) ks _).pending (s.populateTile_pending lix l k hi hj)
    · obtain ⟨ho, ht⟩ := s.populateTile_other lix l (k := k0) (k' := k) (fun h => h0 (h ▸ hk))
      have := ih hn hk (s.populateTile lix l k0) (ho ▸ hj)
      rwa [State.contextFor, State.tile_of_tiles ht] at this

/-- A launch that has started. -/
theorem State.start_spec (s : State) (n d lix l ks) :
    let x : Launch := { l with lix := lix, populated := true, since := s.now }
    let u := s.start n d lix l ks
    u.dev.ctx? n = some { d with waiting := d.waiting.filter (fun x => x.lid != l.lid), launches := d.launches.set lix x }
    ∧ (l.tlim ≠ 0 → s.DueIn u (2500 * l.tlim) .launchTimeLimit (.nums3 n lix l.lid.toNat))
    ∧ ∀ ev arg, (ks.foldl (fun s k => s.populateTile lix l k) s).Pending ev arg → u.Pending ev arg := by
  intro x u
  have hg : s.Grows (ks.foldl (fun s k => s.populateTile lix l k) s) := .foldl (fun s _ => s.populateTile_grows ..) ks s
  have hnow := hg.now
  simp only [u, State.start, hnow]
  split
  · exact ⟨State.ctx?_setCtxRec .., fun h => absurd ‹_› h, fun _ _ h => h⟩
  · refine ⟨State.ctx?_setCtxRec .., fun _ => ?_, fun _ _ h => (State.after_grows ..).pending h⟩
    rw [cyclesOf_thousands]
    exact State.after_dueIn hnow ..

theorem population_starts (hd : s.dev.ctx? n = some d) (hr : d.res = .resident) (hn : ∀ x ∈ d.launches, x.2.rerun = false)
    (hw : d.waiting = [l]) (hx : d.freeLix = some lix) (hks : (s.launchTiles d l).Nodup)
    (hq : s.roomFor (s.launchTiles d l) l.quota = true)
    (hk : ∀ k ∈ s.launchTiles d l, s.recovering k = false ∧ s.evicting k = false ∧ (s.tile k).c.mustEvict (l.poolcfg.setWidth 64) = false) :
    Happens .population (.num n) s fun u => (u.dev.ctx? n).map Ctx.waiting = some []
      ∧ u.launch? n lix = some { l with lix := lix, populated := true, since := s.now }
      ∧ (l.tlim ≠ 0 → s.DueIn u (2500 * l.tlim) .launchTimeLimit (.nums3 n lix l.lid.toNat))
      ∧ ∀ k ∈ s.launchTiles d l, ∀ i j, i < l.quota → (s.openSlots k)[i]? = some j → u.Pending .population (s.contextFor lix l k i j) := by
  obtain ⟨hctx, hlim, hsent⟩ := s.start_spec n d lix l (s.launchTiles d l)
  have hw' : d.waiting.filter (fun x => x.lid != l.lid) = [] := by simp [hw]
  rw [hw'] at hctx
  intro hi
  rw [Completes, exec_population, execPopulation, hi]
  dsimp only
  rw [State.rerun_none hd hn, State.populate_starts hd hr hw hx hq hk, State.populate_stops hctx rfl]
  refine ⟨_, rfl, congrArg (Option.map Ctx.waiting) hctx, ?_, hlim, fun k hk i j hi hj => hsent _ _ (State.populateTiles_pending lix l hks hk hi s hj)⟩
  rw [State.launch?, hctx]
  exact Table.get?_set_self ..

theorem population_rests (hd : s.dev.ctx? n = some d) (hn : ∀ x ∈ d.launches, x.2.rerun = false) (hw : s.nextLaunch d d.waiting 0 = none) :
    Becomes .population (.num n) s s := by
  intro hi
  rw [exec_population, execPopulation, hi]
  dsimp only
  rw [State.rerun_none hd hn, State.populate_stops hd hw]

end

/-- Settles O59, event by event. -/
theorem launchEvents : Obligations.LaunchEvents := by
  intro s q id n lix d l ends
  refine ⟨fun c hc => ⟨fun hd => launch_gone hc hd, fun hd => launch_happens hc hd⟩, fun hd hr hn => ⟨fun hw => ?empty,
    fun hw hx hks hq hk => ?starts, fun hw hq => ?full⟩, fun k j e th cfg zero => population_reaches s k j lix e th cfg zero, fun hl => ⟨fun hp hr ho => ?ended, launchEnd_early hl,
      fun k => ?dropped, fun k th hk hx hd hc => launchEnd_ended hl hk hx hd hc, fun cl r hx hd ha => launchEnd_crash hl hx hd ha,
      fun d hd hr ha => launchTimeLimit_happens hl hd hr ha⟩, fun hl hi => ?none⟩
  case empty => exact population_rests hd hn (by rw [hw]; rfl)
  case starts => exact population_starts hd hr hn hw hx hks hq hk
  case full => exact population_rests hd hn (by rw [hw, State.nextLaunch_one, if_neg (ne_true_of_eq_false hq)])
  case ended =>
    refine ⟨fun why ha => launchEnd_closes hl hp hr ho (Launch.outcome_aborted ha _),
      fun code ha hf => launchEnd_closes hl hp hr ho (x := (1, code)) (hf ▸ Launch.outcome_faulted ha code),
      fun ha hf h => ?_, fun ha hf hpair => ⟨fun h3 hs => ?_, fun t h3 => ?_⟩⟩ <;> obtain ⟨same, differ, third⟩ := Launch.outcome_signed ha
    · exact launchEnd_closes hl hp hr ho (by rw [hf, same h])
    · exact launchEnd_reruns hl hp hr ho (by rw [hf, differ hpair h3 hs])
    · exact launchEnd_closes hl hp hr ho (by rw [hf, third t hpair h3])
  case dropped => exact launchEnd_dropped s k lix l.lid
  case none =>
    rw [exec_launchEnd, execLaunchEnd, hi]
    dsimp only
    rw [hl]

end Sys2Proof.Machine
end

section
/-!
PROOFS. The PARTITION commands (03 R47, R51, R54, 05 R111, 16 R323, 21 R376). What a command changes at the positions of tiles is read from
`State.positions`: a placement and a departure change it at one tile, the steps inside them nowhere.
-/
namespace Sys2Proof.Machine

/-! ### What the positions of tiles hold -/

/-- What stands at a tile's position: its context, mode and mark, the threads and the bytes of its pool. -/
structure Occupancy where
  ctx : Nat
  mode : TileMode
  zeroDue : Bool
  slots : Fin 16 → Option Thread
  pool : Memory

def Tile.occupancy (t : Tile) : Occupancy := ⟨t.r.ctx, t.r.mode, t.c.zeroDue, t.slot, t.c.pool⟩

/-- The positions of all tiles, and the device. -/
def State.positions (s : State) : (TileId → Occupancy) × Device := (fun k => (s.tile k).occupancy, s.dev)

section
variable {s u : State} {k : TileId}

theorem State.positions_setTile (s : State) (k t) :
    (s.setTile k t).positions = (Function.update s.positions.1 k t.occupancy, s.dev) := by
  refine Prod.ext (funext fun j => ?_) rfl
  by_cases h : j = k
  · subst h
    simp [State.positions]
  · simp [State.positions, State.tile_setTile_ne _ _ h, h]

theorem State.positions_setTile_same {t : Tile} (h : t.occupancy = (s.tile k).occupancy) : (s.setTile k t).positions = s.positions := by
  rw [State.positions_setTile, h]
  exact Prod.ext (Function.update_eq_self k s.positions.1) rfl

theorem State.positions_setRouter {r : Router} (hc : r.ctx = (s.tile k).r.ctx) (hm : r.mode = (s.tile k).r.mode) :
    (s.setRouter k r).positions = s.positions := by
  refine State.positions_setTile_same ?_
  simp only [Tile.occupancy, hc, hm]
  rfl

theorem State.positions_setCtx {c : TileCtx} (hz : c.zeroDue = (s.tile k).c.zeroDue) (hs : c.slots = (s.tile k).c.slots)
    (hp : c.pool = (s.tile k).c.pool) : (s.setCtx k c).positions = s.positions := by
  refine State.positions_setTile_same ?_
  simp only [Tile.occupancy, hz, hp]
  congr 1
  funext j
  simp only [Tile.slot, hs]

/-- A tile that comes into the tables holds what was read of it before. -/
theorem State.listTile_positions (s : State) (k) : (s.listTile k).positions = s.positions := by
  by_cases h : (s.tiles.get? k).isSome = true
  · rw [State.listTile_of_listed h]
  · rw [State.listTile, if_neg h]
    refine State.positions_setTile_same ?_
    rw [State.tile, Option.not_isSome_iff_eq_none.1 h]
    rfl

/-! ### A context at its position -/

theorem State.translate_positions (s : State) (cl ctx host write va) : (s.translate cl ctx host write va).1.positions = s.positions := by
  unfold State.translate
  split
  · rfl
  · split <;> rfl
theorem State.passGateway_positions (s : State) (k p) : (s.passGateway k p).1.positions = s.positions := by
  unfold State.passGateway
  dsimp only
  split
  · exact State.translate_positions ..
  · exact State.translate_positions ..

/-- A packet that leaves its port goes on the agenda. -/
theorem State.launchPacket_positions (s : State) (p) : (s.launchPacket p).positions = s.positions := by
  unfold State.launchPacket
  dsimp only
  split
  · split
    · rfl
    · exact State.passGateway_positions ..
  all_goals split <;> rfl

theorem State.flush_positions (s : State) (k) : (s.flush k).positions = s.positions := by
  unfold State.flush
  dsimp only
  split
  · rfl
  · refine (State.foldl_reads State.positions (fun s p => ?_) _ _).trans (State.positions_setRouter rfl rfl)
    split
    · split
      · rfl
      · exact State.launchPacket_positions ..
    · split
      · exact State.positions_setRouter rfl rfl
      · exact (State.launchPacket_positions ..).trans (State.positions_setRouter rfl rfl)

theorem State.thaw_positions (s : State) (k) : (s.thaw k).positions = s.positions := State.positions_setCtx rfl rfl rfl

theorem State.kick_idle (h : (s.tile k).c.ops = []) : s.kick k = s := by
  rw [State.kick, h]
  rfl

/-- Of an empty position no held packet is read again. -/
theorem State.rereadPackets_empty (h : ∀ j, (s.tile k).slot j = none) (js : List (Fin 16)) : js.foldl (fun s j => s.rereadPacket k j) s = s := by
  refine List.foldlRecOn (motive := fun u : State => u = s) js _ rfl fun u hu j _ => ?_
  rw [hu, State.rereadPacket, h]

theorem Tile.countWaits_empty {t : Tile} (h : ∀ j, t.slot j = none) (cyc) : (t.countWaits cyc).occupancy = t.occupancy := by
  unfold Tile.countWaits
  split
  · rfl
  · simp only [Tile.occupancy, h, Option.map_none]
    congr 1
    funext j
    rw [h]
    exact Vector.getElem_ofFn _

end

/-- A context without threads or operations takes a position; no other position changes. -/
theorem State.seat_positions (s : State) (k n : Nat) {c : TileCtx} (hs : ∀ j : Fin 16, c.slots[j] = none) (ho : c.ops = []) :
    (s.seat k n c).positions = (Function.update s.positions.1 k ⟨n, (s.tile k).r.mode, c.zeroDue, fun _ => none, c.pool⟩, s.dev) := by
  unfold State.seat
  -- the stages: tile written (s1), its timers and operations going on (s2), packets read again (s3), the port emptied (s4), its
  -- marks cleared (s5), a boundary of a position under recovery (s6); all but the first leave the positions as they are
  extract_lets t live c1 x1 c2 rt r s1 s2 s3 s4 r4 s5 x cap m rx s6 b rb
  have hc2 : c2.slots = c.slots ∧ c2.ops = [] ∧ c2.zeroDue = c.zeroDue ∧ c2.pool = c.pool := by
    simp only [c2]
    split <;> exact ⟨rfl, ho, rfl, rfl⟩
  obtain ⟨hs2, ho2, hz2, hp2⟩ := hc2
  have hempty : ∀ j, (⟨c2, r⟩ : Tile).slot j = none := fun j => by rw [Tile.slot, hs2]; exact hs j
  have hocc : (⟨c2, r⟩ : Tile).occupancy = ⟨n, t.r.mode, c.zeroDue, fun _ => none, c.pool⟩ := by
    rw [Tile.occupancy, funext hempty, hz2, hp2]
  have h1 : s1.positions = (Function.update s.positions.1 k ⟨n, t.r.mode, c.zeroDue, fun _ => none, c.pool⟩, s.dev) := by
    simp only [s1]
    rw [State.positions_setTile, State.positions_setTile, Tile.countWaits_empty hempty, hocc, Function.update_idem]
    rfl
  have hops : (s1.tile k).c.ops = [] := by
    simp only [s1]
    rw [State.tile_setTile_self]
    unfold Tile.countWaits
    split <;> exact ho2
  have h2 : s2.positions = s1.positions := by
    simp only [s2]
    split
    · rw [State.kick_idle (by rw [State.thaw]; exact (congrArg TileCtx.ops (congrArg Tile.c (State.tile_setCtx_self ..))).trans hops)]
      exact State.thaw_positions ..
    · rfl
  have hnone : ∀ j, (s2.tile k).slot j = none := fun j => by
    refine (congrArg (fun p => (p.1 k).slots j) (h2.trans h1)).trans ?_
    dsimp only
    rw [Function.update_self]
  have h3 : s3 = s2 := State.rereadPackets_empty hnone _
  have h4 : s4.positions = s3.positions := State.flush_positions ..
  clear_value s4
  have h5 : s5.positions = s4.positions := State.positions_setRouter (s := s4) (k := k) (r := { r4 with sent := [], log := [] }) rfl rfl
  have h6 : s6.positions = s5.positions := by
    simp only [s6]
    split
    · rfl
    · exact State.positions_setRouter (s := s5) (k := k) (r := { rx with ship := t.r.ship.map (fun _ => m.ship) }) rfl rfl
  have h7 : (s6.setRouter (buddyOf k) { rb with staging := none, keeps := if b.r.mode = .fenced then none else some m }).positions = s6.positions :=
    State.positions_setRouter (s := s6) (k := buddyOf k) rfl rfl
  rw [h7, h6, h5, h4, h3, h2, h1]

/-! ### Positions that are taken or left one after another -/

/-- Operations that change the position of their tile alone, each in a way that doing it twice does not add to. -/
theorem State.foldl_positions {f : State → TileId → State} {g : Occupancy → Occupancy}
    (hf : ∀ s k, (f s k).positions = (Function.update s.positions.1 k (g (s.positions.1 k)), s.dev)) (hg : ∀ o, g (g o) = g o)
    (ks : List TileId) (s : State) : (ks.foldl f s).dev = s.dev
      ∧ ∀ k, (ks.foldl f s).positions.1 k = if k ∈ ks then g (s.positions.1 k) else s.positions.1 k := by
  induction ks generalizing s with
  | nil => exact ⟨rfl, fun k => (if_neg List.not_mem_nil).symm⟩
  | cons i ks ih =>
    obtain ⟨hd, hp⟩ := ih (f s i)
    obtain ⟨hpos, hdev⟩ := Prod.mk.inj (hf s i)
    refine ⟨hd.trans hdev, fun k => ?_⟩
    rw [List.foldl_cons, hp k, show (f s i).positions.1 = _ from hpos]
    by_cases hk : k = i
    · subst hk
      simp [hg]
    · simp [hk]

/-- A position as a placement leaves it. -/
def Occupancy.placed (o : Occupancy) (n : Nat) : Occupancy := ⟨n, o.mode, true, fun _ => none, o.pool⟩

theorem State.placeTile_positions (s : State) (n grid k) :
    (s.placeTile n grid k).positions = (Function.update s.positions.1 k ((s.positions.1 k).placed n), s.dev) := by
  have listed : ((s.listTile k).listTile (buddyOf k)).positions = s.positions := (State.listTile_positions ..).trans (State.listTile_positions ..)
  obtain ⟨hpos, hdev⟩ := Prod.mk.inj listed
  rw [State.placeTile]
  dsimp only
  rw [State.seat_positions _ _ _ (fun j => Vector.getElem_replicate ..) rfl, listed, hdev, Occupancy.placed, ← listed]
  rfl

theorem State.placeShadow_positions (s : State) (c) : (s.placeShadow c).positions = s.positions := by
  unfold State.placeShadow
  split
  · rfl
  · refine State.foldl_reads State.positions (fun s x => ?_) _ s
    rfl

/-- A partition in its place: its context is resident, and its tiles hold their pools and nothing else. -/
theorem State.placeCtx_spec (s : State) (n c) :
    (s.placeCtx n c).dev.ctx? n = some { c with res := .resident, since := s.now } ∧ (s.placeCtx n c).Pending .population (.num n)
    ∧ ∀ k ∈ s.dev.tilesIn c.region, (s.placeCtx n c).positions.1 k = (s.positions.1 k).placed n := by
  have shadowed := State.placeShadow_positions (s.setCtxRec n { c with res := .resident, since := s.now }) c
  obtain ⟨hpos, hdev⟩ := Prod.mk.inj shadowed
  obtain ⟨hd, hp⟩ := State.foldl_positions (g := fun o => o.placed n)
    (fun u k => u.placeTile_positions n (gridWidth (s.dev.tilesIn c.region).length) k) (fun o => rfl)
    (s.dev.tilesIn c.region ++ (if c.shadow.isSome then (s.dev.tilesIn c.region).map (fun k => k + 2 ^ 18) else []))
    ((s.setCtxRec n { c with res := .resident, since := s.now }).placeShadow c)
  refine ⟨?_, ⟨_, List.mem_append_right _ (List.mem_singleton.2 rfl), rfl, rfl⟩, fun k hk => ?_⟩
  · refine (congrArg (fun d : Device => d.ctx? n) (hd.trans hdev)).trans ?_
    exact State.ctx?_setCtxRec ..
  · refine (hp k).trans ?_
    rw [if_pos (List.mem_append_left _ hk), shadowed]
    rfl

/-! ### Commands whose context is torn down (03 R54) -/

/-- The same command, with the value it has so far. -/
def Command.Alike (c d : Command) : Prop := c.Same d ∧ d.value = c.value

/-- Command `c` of queue `q` completes CONTEXT_GONE in `u`, with the value it had in `s`. -/
def State.Gives (s u : State) (q : Nat) (c : Command) : Prop := u.Completing q c.id 3 0 (s.goneValue q c)

/-- Commands of queue `q` complete, with the values they had in `s0`. -/
def State.goneAll (s0 s : State) (q : Nat) (cs : List Command) : State :=
  cs.foldl (fun s c => s.complete q c.id statusGone 0 (s0.goneValue q c)) s

theorem State.goneAll_eq (s0 s : State) (q) (cs : List Command) : ∃ xs, s0.goneAll s q cs = { s with agenda := s.agenda ++ xs }
    ∧ ∀ c ∈ cs, s0.Gives (s0.goneAll s q cs) q c := by
  induction cs generalizing s with
  | nil => exact ⟨[], by simp [State.goneAll], fun c hc => absurd hc List.not_mem_nil⟩
  | cons c cs ih =>
    obtain ⟨xs, e, h⟩ := ih (s.complete q c.id statusGone 0 (s0.goneValue q c))
    refine ⟨{ due := s.now + 1, ev := .commandComplete
              arg := .words q [BitVec.ofNat 64 c.id, BitVec.ofNat 64 statusGone, BitVec.ofNat 64 0, s0.goneValue q c] } :: xs,
      e.trans (by simp [State.complete, State.after]), fun d hd => ?_⟩
    rcases List.mem_cons.1 hd with rfl | hd
    · show s0.Gives (s0.goneAll _ q cs) q d
      rw [e]
      obtain ⟨x, hx, hev⟩ := s.complete_completing q d.id statusGone 0 (s0.goneValue q d)
      exact ⟨x, List.mem_append_left _ hx, hev⟩
    · exact h d hd

theorem State.goneValue_alike {s u : State} {q : Nat} {c d : Command} (h : u.dev.contexts = s.dev.contexts) (hd : c.Alike d) :
    u.goneValue q d = s.goneValue q c := by
  obtain ⟨⟨hi, hx, hw⟩, hv⟩ := hd
  have hk : d.kind = c.kind := by rw [Command.kind, Command.header, hw]; rfl
  rw [State.goneValue, State.goneValue, Device.ctx?, Device.ctx?, h, hk, hi, hx, hv]

theorem State.queue_setQueue_ne (s : State) {q q' : Nat} (x) (h : q' ≠ q) : (s.setQueue q x).queue q' = s.queue q' := by
  simp only [State.queue, State.setQueue, Table.get?_set_ne _ _ h]

/-- What the tear-down of a context does at queue slot `q` concerns no other slot, no tile and no context, and takes nothing off the agenda. -/
structure State.Drops (s u : State) (q : Nat) : Prop where
  tiles : u.tiles = s.tiles
  contexts : u.dev.contexts = s.dev.contexts
  now : u.now = s.now
  agenda : ∀ x ∈ s.agenda, x ∈ u.agenda
  others : ∀ q', q' ≠ q → u.queue q' = s.queue q'

section
variable (s : State) (q n : Nat)

theorem State.dropKept_drops : s.Drops (s.dropKept n q) q ∧ ∀ c ∈ (s.queue q).accepted n, s.Gives (s.dropKept n q) q c := by
  obtain ⟨xs, e, h⟩ := s.goneAll_eq (s.setQueue q { s.queue q with
    commands := ((s.queue q).commands.filter (fun (c : Command) => c.ctx != n)) ++ (s.queue q).accepted n }) q ((s.queue q).accepted n)
  have e' : s.dropKept n q = _ := e
  refine ⟨?_, h⟩
  rw [e']
  exact ⟨rfl, rfl, rfl, fun x hx => List.mem_append_left _ hx, fun q' hq => s.queue_setQueue_ne _ hq⟩

/-- Slot `q` once its queue has left it with state 3: the commands `cs` stay with its record until they complete. -/
def State.emptySlot (s : State) (q : Nat) (cs : List Command) (t : Nat) : State :=
  let x := s.queue q
  let s := (s.setQueue q { x with state := 3 }).putState q
  let s := { s.setQueue q { Queue.reset with record := x.record, state := 3, commands := cs } with tok := t }
  { s with dev := { s.dev with workers := s.dev.workers + (if x.accepting then 1 else 0) } }

theorem State.emptySlot_drops (cs t) : s.Drops (s.emptySlot q cs t) q ∧ ((s.emptySlot q cs t).queue q).commands = cs := by
  obtain ⟨m, h, l, e⟩ := (s.setQueue q { s.queue q with state := 3 }).fwWrite_eq 0 (((s.setQueue q { s.queue q with state := 3 }).queue q).record + 16)
    (leBytes 4 ((s.setQueue q { s.queue q with state := 3 }).queue q).head ++ leBytes 4 ((s.setQueue q { s.queue q with state := 3 }).queue q).state)
  rw [State.emptySlot, State.putState, e]
  refine ⟨⟨rfl, rfl, rfl, fun x hx => hx, fun q' hq => ?_⟩, congrArg Queue.commands (State.queue_setQueue_self ..)⟩
  exact (State.queue_setQueue_ne _ _ hq).trans (s.queue_setQueue_ne _ hq)

/-- A queue's commands, those that another context has left in its slot, and those still in its ring. -/
theorem State.dropQueue_eq : ∃ cs all t, s.dropQueue q = s.goneAll (s.emptySlot q cs t) q all
    ∧ (∀ c ∈ (s.queue q).accepted (s.queue q).ctx, c ∈ all) ∧ ∀ c ∈ (s.queue q).commands, c.ctx ≠ (s.queue q).ctx → c ∈ cs := by
  refine ⟨_, _, _, rfl, fun c hc => List.mem_append_left _ hc, fun c hc hx => List.mem_append_left _ (List.mem_filter.2 ⟨hc, ?_⟩)⟩
  simpa using hx

theorem State.dropQueue_drops : s.Drops (s.dropQueue q) q ∧ (∀ c ∈ (s.queue q).accepted (s.queue q).ctx, s.Gives (s.dropQueue q) q c)
    ∧ ∀ c ∈ (s.queue q).commands, c.ctx ≠ (s.queue q).ctx → c ∈ ((s.dropQueue q).queue q).commands := by
  obtain ⟨cs, all, t, e, hall, hcs⟩ := s.dropQueue_eq q
  obtain ⟨left, hq⟩ := s.emptySlot_drops q cs t
  obtain ⟨xs, e', h⟩ := s.goneAll_eq (s.emptySlot q cs t) q all
  rw [e]
  refine ⟨?_, fun c hc => h c (hall c hc), fun c hc hx => ?_⟩ <;> rw [e']
  · exact ⟨left.tiles, left.contexts, left.now, fun x hx => List.mem_append_left _ (left.agenda x hx), left.others⟩
  · exact (congrArg (c ∈ ·) hq).mpr (hcs c hc hx)
end

/-- In `u` command `y` of queue `q` has completed or still stands in its slot, which, if `m`, is its own queue's. -/
def State.Owes (s u : State) (q : Nat) (y : Command) (m : Prop) : Prop :=
  u.dev.contexts = s.dev.contexts ∧ (s.Gives u q y ∨ (∃ c ∈ (u.queue q).commands, y.Alike c) ∧ (m → (u.queue q).ctx = y.ctx))

theorem State.Gives.mono {s u v : State} {q c} (h : s.Gives u q c) (ha : ∀ x ∈ u.agenda, x ∈ v.agenda) : s.Gives v q c := by
  obtain ⟨x, hx, e⟩ := h
  exact ⟨x, ha x hx, e⟩

/-- A command like another's that completes is that other's completion. -/
theorem State.Gives.of_alike {s u v : State} {q : Nat} {y c : Command} (hx : u.dev.contexts = s.dev.contexts) (hc : y.Alike c) (h : u.Gives v q c) :
    s.Gives v q y := by
  rw [State.Gives, State.goneValue_alike hx hc, hc.1.1] at h
  exact h

theorem Queue.accepted_alike {x : Queue} {y c : Command} (hc : c ∈ x.commands) (hy : y.Alike c) : ∃ d ∈ x.accepted y.ctx, y.Alike d :=
  ⟨_, List.mem_map_of_mem (List.mem_filter.2 ⟨hc, by simp [hy.1.2.1]⟩), hy⟩

namespace State.Owes
variable {s u v : State} {q q0 : Nat} {y : Command} {m : Prop} (h : s.Owes u q y m)
include h

theorem of_drops (hd : u.Drops v q0) (hq : q ≠ q0 ∨ s.Gives u q y) : s.Owes v q y m := by
  obtain ⟨hx, hy⟩ := h
  refine ⟨hd.contexts.trans hx, ?_⟩
  rcases hq with hq | hg
  · rw [hd.others q hq]
    exact hy.imp_left fun hg => hg.mono hd.agenda
  · exact .inl (hg.mono hd.agenda)

theorem dropKept_self : s.Gives (u.dropKept y.ctx q) q y := by
  obtain ⟨hd, hg⟩ := u.dropKept_drops q y.ctx
  rcases h.2 with h' | ⟨⟨c, hc, hy⟩, -⟩
  · exact h'.mono hd.agenda
  · obtain ⟨d, hd', hyd⟩ := Queue.accepted_alike hc hy
    exact (hg d hd').of_alike h.1 hyd

theorem dropKept (q0) : s.Owes (u.dropKept y.ctx q0) q y m := by
  have hd := (u.dropKept_drops q0 y.ctx).1
  by_cases hq : q = q0
  · subst hq
    exact ⟨hd.contexts.trans h.1, .inl h.dropKept_self⟩
  · exact h.of_drops hd (.inl hq)

theorem dropQueue_own (hx : (u.queue q).ctx = y.ctx) : s.Gives (u.dropQueue q) q y := by
  obtain ⟨hd, hg, -⟩ := u.dropQueue_drops q
  rcases h.2 with h' | ⟨⟨c, hc, hy⟩, -⟩
  · exact h'.mono hd.agenda
  · obtain ⟨d, hd', hyd⟩ := Queue.accepted_alike hc hy
    exact (hg d (hx ▸ hd')).of_alike h.1 hyd

theorem dropQueue_self (hm : m) : s.Gives (u.dropQueue q) q y := by
  rcases h.2 with h' | ⟨-, hx⟩
  · exact h'.mono (u.dropQueue_drops q).1.agenda
  · exact h.dropQueue_own (hx hm)

theorem dropQueue (q0) : s.Owes (u.dropQueue q0) q y m := by
  obtain ⟨hd, hg, hk⟩ := u.dropQueue_drops q0
  by_cases hq : q = q0
  · subst hq
    rcases h.2 with h' | ⟨⟨c, hc, hy⟩, hm⟩
    · exact h.of_drops hd (.inr h')
    · by_cases hx : (u.queue q).ctx = y.ctx
      · exact ⟨hd.contexts.trans h.1, .inl (h.dropQueue_own hx)⟩
      · exact ⟨hd.contexts.trans h.1, .inr ⟨⟨c, hk c hc (fun e => hx (e.symm.trans hy.1.2.1)), hy⟩, fun hm' => absurd (hm hm') hx⟩⟩
  · exact h.of_drops hd (.inl hq)

end State.Owes

/-- Of a list of operations that keep `P` and `Q`, one that turns `P` into `Q` leaves `Q`. -/
theorem State.foldl_hits {α : Type} {f : State → α → State} {P Q : State → Prop} {i : α} (hP : ∀ u x, P u → P (f u x))
    (hQ : ∀ u x, Q u → Q (f u x)) (hi : ∀ u, P u → Q (f u i)) {l : List α} (h : i ∈ l) {s : State} (hs : P s) : Q (l.foldl f s) := by
  induction l generalizing s with
  | nil => exact absurd h List.not_mem_nil
  | cons x l ih =>
    rcases List.mem_cons.1 h with rfl | h
    · exact List.foldlRecOn (motive := Q) l f (hi s hs) fun u hu x _ => hQ u x hu
    · exact ih h (hP s x hs)

/-- The queues of a context that have their slots, and the slots of others that keep commands of it. -/
def State.ownQueues (s : State) (n : Nat) : List Nat := (s.dev.queues.filter (fun x => x.2.mapped && x.2.ctx == n)).map Prod.fst
def State.keptQueues (s : State) (n : Nat) : List Nat :=
  (s.dev.queues.filter (fun x => !(x.2.mapped && x.2.ctx == n) && x.2.commands.any (fun c => c.ctx == n))).map Prod.fst
/-- The queues of a context and its commands are gone. -/
def State.dropQueues (s : State) (n : Nat) : State :=
  (s.keptQueues n).foldl (fun s q => s.dropKept n q) ((s.ownQueues n).foldl State.dropQueue s)

theorem State.queue_listed {s : State} {q : Nat} (h : s.queue q ≠ Queue.reset) : (q, s.queue q) ∈ s.dev.queues := by
  cases hq : s.dev.queues.get? q with
  | none => exact absurd (by rw [State.queue, hq]; rfl) h
  | some x =>
    have e : s.queue q = x := by rw [State.queue, hq]; rfl
    exact e ▸ Table.mem_of_get? hq

theorem State.dropQueues_gives (s : State) {q : Nat} {y : Command} (hy : y ∈ (s.queue q).commands) : s.Gives (s.dropQueues y.ctx) q y := by
  have owed : s.Owes s q y (((s.queue q).mapped && (s.queue q).ctx == y.ctx) = true) :=
    ⟨rfl, .inr ⟨⟨y, hy, ⟨rfl, rfl, rfl⟩, rfl⟩, fun hm => by simpa using (Bool.and_eq_true_iff.1 hm).2⟩⟩
  have listed : (q, s.queue q) ∈ s.dev.queues := State.queue_listed fun e => by simp [e, Queue.reset] at hy
  have gives_kept (u : State) (q0) (h : s.Gives u q y) : s.Gives (u.dropKept y.ctx q0) q y := h.mono (u.dropKept_drops q0 y.ctx).1.agenda
  have gives_own (u : State) (q0) (h : s.Gives u q y) : s.Gives (u.dropQueue q0) q y := h.mono (u.dropQueue_drops q0).1.agenda
  cases hm : (s.queue q).mapped && (s.queue q).ctx == y.ctx with
  | true =>
    have own : q ∈ s.ownQueues y.ctx := List.mem_map.2 ⟨_, List.mem_filter.2 ⟨listed, hm⟩, rfl⟩
    have gone := State.foldl_hits (fun u q0 h => State.Owes.dropQueue h q0) gives_own (fun u h => State.Owes.dropQueue_self h hm) own owed
    exact List.foldlRecOn (motive := fun u => s.Gives u q y) _ _ gone fun u hu q0 _ => gives_kept u q0 hu
  | false =>
    have kept : q ∈ s.keptQueues y.ctx := List.mem_map.2 ⟨_, List.mem_filter.2 ⟨listed, by
      simp only [hm, Bool.not_false, Bool.true_and, List.any_eq_true, beq_iff_eq]
      exact ⟨y, hy, rfl⟩⟩, rfl⟩
    have still := List.foldlRecOn (motive := fun u => s.Owes u q y (((s.queue q).mapped && (s.queue q).ctx == y.ctx) = true))
      (s.ownQueues y.ctx) State.dropQueue owed fun u hu q0 _ => hu.dropQueue q0
    exact State.foldl_hits (fun u q0 h => State.Owes.dropKept h q0) gives_kept (fun u h => State.Owes.dropKept_self h) kept still

theorem State.dropQueues_stands (s : State) (n) :
    (s.dropQueues n).tiles = s.tiles ∧ (s.dropQueues n).dev.contexts = s.dev.contexts ∧ (s.dropQueues n).now = s.now := by
  have own := State.foldl_reads (fun u => (u.tiles, u.dev.contexts, u.now))
    (fun u q => by obtain ⟨⟨ht, hx, hn, -, -⟩, -⟩ := u.dropQueue_drops q; rw [ht, hx, hn]) (s.ownQueues n) s
  have kept := State.foldl_reads (fun u => (u.tiles, u.dev.contexts, u.now))
    (fun u q => by obtain ⟨⟨ht, hx, hn, -, -⟩, -⟩ := u.dropKept_drops q n; rw [ht, hx, hn]) (s.keptQueues n)
      ((s.ownQueues n).foldl State.dropQueue s)
  obtain ⟨ht, hr⟩ := Prod.mk.inj (kept.trans own)
  exact ⟨ht, Prod.mk.inj hr⟩

/-! ### Tiles whose context is torn down (03 R54, 16 R323) -/

/-- A position whose context has left. -/
def Occupancy.vacated (o : Occupancy) : Occupancy := ⟨0, if o.mode = .fenced then .fenced else .live, false, fun _ => none, o.pool⟩

theorem State.vacate_positions (s : State) (k) :
    (s.vacate k).positions = (Function.update s.positions.1 k (s.positions.1 k).vacated, s.dev) := by
  unfold State.vacate
  extract_lets t stays s1 blank s2 s3 b rb
  have h2 : s2.positions = (Function.update s.positions.1 k (s.positions.1 k).vacated, s.dev) := by
    refine (State.positions_setTile ..).trans ?_
    have hocc : (⟨{ TileCtx.reset with pool := t.c.pool, emptyDw := t.c.emptyDw, ivn := t.c.ivn, ivlen := t.c.ivlen },
        t.r.vacated t.c.late⟩ : Tile).occupancy = (s.positions.1 k).vacated := by
      simp only [Tile.occupancy, Occupancy.vacated, Occupancy.mk.injEq]
      exact ⟨rfl, rfl, rfl, funext fun j => Vector.getElem_replicate .., rfl⟩
    rw [hocc]
    rfl
  have h3 : s3.positions = s2.positions := by
    simp only [s3]
    split <;> rfl
  clear_value s3
  refine (State.positions_setRouter ?_ ?_).trans (h3.trans h2) <;> rfl

/-- Neither the time nor a completion on its way is a matter of a tile that leaves. -/
theorem State.vacate_stands (s : State) (k) :
    (s.vacate k).now = s.now ∧ ∀ x ∈ s.agenda, x.ev = .commandComplete → x ∈ (s.vacate k).agenda := by
  unfold State.vacate
  extract_lets t stays s1 blank s2 s3 b rb
  have h3 : s3.now = s.now ∧ ∀ x ∈ s1.agenda, x ∈ s3.agenda := by
    simp only [s3]
    split
    · exact ⟨rfl, fun x hx => List.mem_append_left _ hx⟩
    · exact ⟨rfl, fun x hx => hx⟩
  refine ⟨h3.1, fun x hx he => h3.2 x (List.mem_filter.2 ⟨hx, ?_⟩)⟩
  rw [he]
  rfl

/-- A completion on its way is not what a context has in flight. -/
theorem timedFor_commandComplete {x : Timed} {q : Nat} {ws : List Word} (he : x.ev = .commandComplete) (ha : x.arg = .words q ws) (n ks) :
    timedFor n ks x = false := by
  have hk (k : TileId) : inFlightOf k x = false := by
    rw [inFlightOf, he, ha]
    rfl
  have hn : inFlightIn n x = false := by rw [inFlightIn, ha]
  rw [timedFor, he, ha, hn]
  simp [hk]

theorem State.mem_tilesOf {s : State} {k : TileId} {n : Nat} (hk : (s.tile k).r.ctx = n) (hn : n ≠ 0) : k ∈ s.tilesOf n := by
  cases ht : s.tiles.get? k with
  | none =>
    rw [State.tile, ht] at hk
    exact absurd hk.symm hn
  | some t =>
    rw [State.tile, ht] at hk
    exact List.mem_map.2 ⟨(k, t), List.mem_filter.2 ⟨Table.mem_of_get? ht, by simpa using hk⟩, rfl⟩

theorem State.clearTiles_spec (s : State) (n : Nat) (hn : n ≠ 0) :
    (s.clearTiles n).dev = s.dev ∧ (s.clearTiles n).now = s.now
    ∧ (∀ q ws, s.Pending .commandComplete (.words q ws) → (s.clearTiles n).Pending .commandComplete (.words q ws))
    ∧ ∀ k, (s.tile k).r.ctx = n → (s.clearTiles n).positions.1 k = (s.positions.1 k).vacated := by
  obtain ⟨hd, hp⟩ := State.foldl_positions (g := Occupancy.vacated) State.vacate_positions
    (fun o => by simp only [Occupancy.vacated]; split <;> rfl) (s.tilesOf n)
    { s with clusters := s.clusters.mapVals (fun c => c.forget n), agenda := s.agenda.filter (fun x => !timedFor n (s.tilesOf n) x) }
  refine ⟨hd, State.foldl_reads State.now (fun u k => (u.vacate_stands k).1) _ _, fun q ws ⟨x, hx, he, ha⟩ => ?_, fun k hk => ?_⟩
  · have hs : x ∈ s.agenda.filter (fun x => !timedFor n (s.tilesOf n) x) :=
      List.mem_filter.2 ⟨hx, by rw [timedFor_commandComplete he ha]; rfl⟩
    exact ⟨x, List.foldlRecOn (motive := fun u : State => x ∈ u.agenda) _ State.vacate hs fun u hu k _ => (u.vacate_stands k).2 x hu he, he, ha⟩
  · exact (hp k).trans (if_pos (State.mem_tilesOf hk hn))

theorem State.clearShadow_stands (s : State) (c) :
    ((s.clearShadow c).positions, (s.clearShadow c).now, (s.clearShadow c).agenda) = (s.positions, s.now, s.agenda) := by
  unfold State.clearShadow
  split
  · rfl
  · refine State.foldl_reads (fun u => (u.positions, u.now, u.agenda)) (fun s x => ?_) _ s
    rfl

/-- A context that is being torn down, once its commands and tiles are gone: only its record stays. -/
def State.tornDown (s : State) (n : Nat) (y : Ctx) : State :=
  let s := if y.holds then s.clearShadow y else s
  let s := (y.suspendCmd.toList ++ y.resumeCmd.toList).foldl (fun (s : State) (x : Nat × Nat) => s.complete x.1 x.2 statusGone 0 0) s
  s.setCtxRec n { y with
    res := .unplaced, launches := [], waiting := [], tasks := [], heldPos := [], image := [], sizes := [], imageAt := none, queued := false
    suspendCmd := none, resumeCmd := none }

theorem State.tornDown_spec (s : State) (n y) :
    (s.tornDown n y).positions.1 = s.positions.1 ∧ (s.tornDown n y).now = s.now ∧ (∀ x ∈ s.agenda, x ∈ (s.tornDown n y).agenda)
    ∧ ((s.tornDown n y).dev.ctx? n).map Ctx.launches = some [] := by
  unfold State.tornDown
  extract_lets s1 s2
  have h1 : (s1.positions, s1.now, s1.agenda) = (s.positions, s.now, s.agenda) := by
    simp only [s1]
    split
    · exact s.clearShadow_stands y
    · rfl
  obtain ⟨hp, hna⟩ := Prod.mk.inj h1
  obtain ⟨hn, ha⟩ := Prod.mk.inj hna
  have hg : s1.Grows s2 := .foldl (fun s _ => s.after_grows ..) _ s1
  have h2 : s2.positions = s1.positions := by
    refine State.foldl_reads State.positions (fun s x => ?_) _ s1
    rfl
  exact ⟨show s2.positions.1 = s.positions.1 from congrArg Prod.fst (h2.trans hp), hg.now.trans hn, fun x hx => hg.agenda x (ha ▸ hx),
    congrArg (Option.map Ctx.launches) (State.ctx?_setCtxRec s2 n _)⟩

/-! ### CREATE and TEARDOWN (03 R47, R54) -/

/-- A partition that a command places, and whose command completes. -/
theorem State.placed_completes (s : State) (n d q id) : let u := (s.placeCtx n d).complete q id 0 0 0
    ((u.dev.ctx? n).map Ctx.res = some .resident ∧ u.Pending .population (.num n)
      ∧ ∀ k ∈ s.dev.tilesIn d.region, u.positions.1 k = (s.positions.1 k).placed n) ∧ u.Completing q id 0 0 0 := by
  obtain ⟨hx, hp, hk⟩ := s.placeCtx_spec n d
  exact ⟨⟨congrArg (Option.map Ctx.res) hx, (State.after_grows ..).pending hp, hk⟩, State.complete_completing ..⟩

section
variable {s : State} {q id : Nat} {c : Command} {d : Ctx} (hc : s.command? q id = some c)
include hc

theorem teardown_eq (hd : s.dev.ctx? c.target = some d) (hn : c.target ≠ 0) :
    Becomes .partitionTeardown (.cmd q id) s ((((s.dropQueues c.target).clearTiles c.target).tornDown c.target d).after 2 .partitionTeardown
      (.nums3 c.target q id)) := by
  intro hi
  have hx : ((s.dropQueues c.target).clearTiles c.target).dev.ctx? c.target = some d := by
    rw [(State.clearTiles_spec _ _ hn).1, Device.ctx?, (s.dropQueues_stands _).2.1]
    exact hd
  rw [exec_partitionTeardown, execPartitionTeardown, hi]
  dsimp only
  rw [hc]
  dsimp only
  rw [if_neg (by simp [hd])]
  unfold State.dropQueues State.keptQueues State.ownQueues at hx
  rw [hx]
  rfl

theorem teardown_happens (hd : s.dev.ctx? c.target = some d) (hn : c.target ≠ 0) :
    Happens .partitionTeardown (.cmd q id) s fun u => s.DueIn u 2 .partitionTeardown (.nums3 c.target q id)
      ∧ (∀ k, (s.tile k).r.ctx = c.target → u.positions.1 k = (s.positions.1 k).vacated)
      ∧ (u.dev.ctx? c.target).map Ctx.launches = some []
      ∧ ∀ q', ∀ y ∈ (s.queue q').commands, y.ctx = c.target → s.Gives u q' y := by
  obtain ⟨ht, hx, hnow⟩ := s.dropQueues_stands c.target
  obtain ⟨-, hnow', hp, hv⟩ := (s.dropQueues c.target).clearTiles_spec c.target hn
  obtain ⟨hpos, hnow'', ha, hl⟩ := ((s.dropQueues c.target).clearTiles c.target).tornDown_spec c.target d
  refine (teardown_eq hc hd hn).happens ⟨State.after_dueIn (hnow''.trans (hnow'.trans hnow)) .., fun k hk => ?_, hl, fun q' y hy hyx => ?_⟩
  · refine (congrFun hpos k).trans ((hv k (by rw [State.tile_of_tiles ht]; exact hk)).trans ?_)
    simp only [State.positions, State.tile_of_tiles ht]
  · refine State.Gives.mono (hp q' _ ?_) fun x hx => List.mem_append_left _ (ha x hx)
    exact hyx ▸ s.dropQueues_gives hy

theorem create_taken (hd : s.dev.ctx? c.target = some d) : Happens .partitionCreate (.cmd q id) s fun u => u.Completing q id 4 1 0 := by
  intro hi
  rw [Completes, exec_partitionCreate, execPartitionCreate, hi]
  dsimp only
  rw [hc]
  dsimp only
  rw [if_pos (by simp [hd])]
  exact ⟨_, rfl, State.complete_completing ..⟩

theorem create_becomes (hd : s.dev.ctx? c.target = none) :
    let x := s.fwRead c.ctx (c.dw 2) 128
    let ws := wordsOf x.2 16
    let y := Ctx.ofRecord ws (c.dw 2)
    (x.1 ≠ 0 → Becomes .partitionCreate (.cmd q id) s (s.refuse q id x.1 2))
    ∧ (∀ i, x.1 = 0 → s.dev.recordBad c.target ws = some i → Becomes .partitionCreate (.cmd q id) s (s.complete q id 4 i 0))
    ∧ (x.1 = 0 → s.dev.recordBad c.target ws = none → s.fits c.target y = true →
        Becomes .partitionCreate (.cmd q id) s ((s.placeCtx c.target y).complete q id 0 0 0))
    ∧ (x.1 = 0 → s.dev.recordBad c.target ws = none → s.fits c.target y = false →
        Becomes .partitionCreate (.cmd q id) s ((s.setCtxRec c.target y).complete q id 10 0 0)) := by
  intro x ws y
  refine ⟨fun hx hi => ?unread, fun i hx hb hi => ?malformed, fun hx hb hf hi => ?fits, fun hx hb hf hi => ?parked⟩
  all_goals
    rw [exec_partitionCreate, execPartitionCreate, hi]
    dsimp only
    rw [hc]
    dsimp only
    rw [if_neg (by simp [hd])]
  case unread => exact if_pos hx
  all_goals rw [if_neg (not_not.2 hx), hb]
  case malformed => rfl
  case fits => exact if_pos hf
  case parked => exact if_neg (ne_true_of_eq_false hf)

/-- A context that does not exist is gone for TEARDOWN, SUSPEND and RESUME. -/
theorem partition_gone (hd : s.dev.ctx? c.target = none) {ev : Instr}
    (he : ev ∈ [Instr.partitionTeardown, Instr.partitionSuspend, Instr.partitionResume]) :
    Happens ev (.cmd q id) s fun u => u.Completing q id 3 0 0 := by
  intro hi
  refine ⟨s.complete q id 3 0 0, ?_, State.complete_completing ..⟩
  simp only [List.mem_cons, List.not_mem_nil, or_false] at he
  rcases he with rfl | rfl | rfl
  · simp only [exec_partitionTeardown, execPartitionTeardown, hi, hc, hd]
    rfl
  · simp only [exec_partitionSuspend, execPartitionSuspend, hi, hc, hd]
    rfl
  · simp only [exec_partitionResume, execPartitionResume, hi, hc, hd]
    rfl

end

/-- The last step of a tear-down: the context and its peer windows are gone, and nothing is reported of it. -/
theorem teardown_ends (s : State) (n q id : Nat) : Happens .partitionTeardown (.nums3 n q id) s fun u =>
    u.dev.ctx? n = none ∧ u.dev.peers.get? n = none ∧ n ∉ u.dev.parkedReports ∧ u.Completing q id 0 0 0 := by
  intro hi
  rw [Completes, exec_partitionTeardown, execPartitionTeardown, hi]
  refine ⟨_, rfl, Table.get?_erase_self .., Table.get?_erase_self .., fun h => ?_, State.complete_completing ..⟩
  simpa using (List.mem_filter.1 h).2

/-! ### SUSPEND (03 R54) -/

/-- A partition that stops, its slice timer stopped. -/
def State.stopped (s : State) (n : Nat) (d : Ctx) (span : Bool) : State :=
  let s := s.setCtxRec n { d.stopClock s.now with res := .stopping, deferred := span, reqAt := s.now }
  { s with agenda := s.agenda.filter (fun x => !(x.ev == Instr.timeSliceExpire && x.arg == Payload.num n)) }

/-- The requests to its tiles, which hold them if a span round is open. -/
def State.requested (s : State) (ks : List TileId) (span : Bool) : State :=
  ks.foldl (fun s k => s.sendOn memoryPort k 0 (3 * s.dieLinks (clusterOf k)) .gangPreempt (if span then .tileNum k 2 else .tile k)) s

theorem State.preempt_eq {s : State} {n : Nat} {d : Ctx} (hd : s.dev.ctx? n = some d) (hr : d.res = .resident) :
    let span := (s.tilesOf n).any (fun k => (s.tile k).c.spanRound)
    let t := (s.stopped n d span).requested (s.tilesOf n) span
    s.preempt n = if span then t.after (cyclesOf t.dev.coldefer) .coldeferExpire (.num n) else t := by
  unfold State.preempt
  rw [hd]
  exact if_neg (by simp [hr])

theorem State.requested_grows (s : State) (ks span) : s.Grows (s.requested ks span) := .foldl (fun s _ => s.sendOn_grows ..) ks s

theorem State.requested_pending (s : State) {ks : List TileId} (span : Bool) {k : TileId} (hk : k ∈ ks) :
    (s.requested ks span).Pending .gangPreempt (if span then .tileNum k 2 else .tile k) :=
  State.pending_foldl (arg := fun k => if span then .tileNum k 2 else .tile k) (fun s _ => s.sendOn_grows ..)
    (fun _ _ => ⟨_, List.mem_append_right _ (List.mem_singleton.2 rfl), rfl, rfl⟩) hk s

/-- A resident partition is pre-empted: it stops, and a request is on its way to every tile. -/
theorem State.preempt_spec {s : State} {n : Nat} {d : Ctx} (hd : s.dev.ctx? n = some d) (hr : d.res = .resident) :
    (∃ y, (s.preempt n).dev.ctx? n = some y ∧ y.res = .stopping ∧ y.suspendCmd = d.suspendCmd)
    ∧ (s.preempt n).dev.parkedReports = s.dev.parkedReports
    ∧ ∀ k ∈ s.tilesOf n, (s.preempt n).Pending .gangPreempt (.tile k) ∨ (s.preempt n).Pending .gangPreempt (.tileNum k 2) := by
  have e := State.preempt_eq hd hr
  dsimp only at e
  generalize (s.tilesOf n).any (fun k => (s.tile k).c.spanRound) = span at e
  have hg : ((s.stopped n d span).requested (s.tilesOf n) span).Grows (s.preempt n) := by
    rw [e]
    split
    · exact State.after_grows ..
    · exact .refl _
  have hdev : (s.preempt n).dev = (s.stopped n d span).dev := hg.dev.trans (State.requested_grows ..).dev
  rw [hdev]
  refine ⟨⟨_, State.ctx?_setCtxRec .., rfl, rfl⟩, rfl, fun k hk => ?_⟩
  have sent := hg.pending (State.requested_pending (s.stopped n d span) span hk)
  cases span
  · exact .inl sent
  · exact .inr sent

/-- It is reported that a partition was parked by the device itself. -/
def State.reported (s : State) (n : Nat) : State := { s with dev := { s.dev with parkedReports := setAdd s.dev.parkedReports n } }

theorem suspend_asked {s : State} {n : Nat} {d : Ctx} (a b : Nat) (hd : s.dev.ctx? n = some d) (hr : d.res = .resident) :
    Happens .partitionSuspend (.nums3 n a b) s fun u => (u.dev.ctx? n).map Ctx.res = some .stopping ∧ n ∈ u.dev.parkedReports
      ∧ ∀ k ∈ s.tilesOf n, u.Pending .gangPreempt (.tile k) ∨ u.Pending .gangPreempt (.tileNum k 2) := by
  have e : Becomes .partitionSuspend (.nums3 n a b) s ((s.reported n).preempt n) := by
    intro hi
    rw [exec_partitionSuspend, execPartitionSuspend]
    split
    next h => cases hi.symm.trans h
    next h => cases hi.symm.trans h; rfl
    next h => exact absurd hi (h n a b)
  obtain ⟨⟨y, hy, hres, -⟩, hp, hk⟩ := State.preempt_spec (s := s.reported n) hd hr
  exact e.happens ⟨by rw [hy, Option.map_some, hres], hp ▸ setAdd_mem .., hk⟩

section
variable {s : State} {q id : Nat} {c : Command} {d : Ctx} (hc : s.command? q id = some c) (hd : s.dev.ctx? c.target = some d)
include hc hd

/-- What SUSPEND does, by the state of the partition. -/
theorem suspend_eq (hi : s.input = .cmd q id) :
    let s' := s.setCtxRec c.target { d with queued := false }
    exec .partitionSuspend s = match d.res with
      | .resident => .next ((s'.setCtxRec c.target { d with queued := false, suspendCmd := some (q, id) }).preempt c.target)
      | .restoring => .next (s'.after 1024 .partitionSuspend (.cmd q id))
      | .stopping => if d.suspendCmd.isSome then .next (s'.after 1024 .partitionSuspend (.cmd q id))
          else .next (s'.setCtxRec c.target { d with queued := false, suspendCmd := some (q, id) })
      | _ => .next (s'.complete q id statusOk 0 0) := by
  rw [exec_partitionSuspend, execPartitionSuspend, hi]
  dsimp only
  rw [hc]
  dsimp only
  rw [hd]
  dsimp only
  rw [show (s.setCtxRec c.target { d with queued := false }).input = .cmd q id from hi] <;> rfl

theorem suspend_resident (hr : d.res = .resident) : Happens .partitionSuspend (.cmd q id) s fun u =>
    (u.dev.ctx? c.target).map Ctx.res = some .stopping ∧ (u.dev.ctx? c.target).map Ctx.suspendCmd = some (some (q, id))
    ∧ ∀ k ∈ s.tilesOf c.target, u.Pending .gangPreempt (.tile k) ∨ u.Pending .gangPreempt (.tileNum k 2) := by
  obtain ⟨⟨y, hy, hres, hcmd⟩, -, hk⟩ := State.preempt_spec (State.ctx?_setCtxRec (s.setCtxRec c.target { d with queued := false }) c.target
    { d with queued := false, suspendCmd := some (q, id) }) hr
  have e : Becomes .partitionSuspend (.cmd q id) s (((s.setCtxRec c.target { d with queued := false }).setCtxRec c.target
      { d with queued := false, suspendCmd := some (q, id) }).preempt c.target) := fun hi => by rw [suspend_eq hc hd hi, hr]
  exact e.happens ⟨by rw [hy, Option.map_some, hres], by rw [hy, Option.map_some, hcmd], hk⟩

theorem suspend_again (hr : d.res = .restoring ∨ d.res = .stopping ∧ d.suspendCmd.isSome = true) :
    Happens .partitionSuspend (.cmd q id) s fun u => s.DueIn u 1024 .partitionSuspend (.cmd q id) := by
  intro hi
  rw [Completes, suspend_eq hc hd hi]
  rcases hr with hr | ⟨hr, hs⟩ <;> rw [hr]
  · exact ⟨_, rfl, State.after_dueIn rfl ..⟩
  · exact ⟨_, if_pos hs, State.after_dueIn rfl ..⟩

theorem suspend_stopping (hr : d.res = .stopping) (hs : d.suspendCmd = none) :
    Happens .partitionSuspend (.cmd q id) s fun u => (u.dev.ctx? c.target).map Ctx.suspendCmd = some (some (q, id)) := by
  intro hi
  rw [Completes, suspend_eq hc hd hi, hr]
  exact ⟨_, if_neg (by simp [hs]), congrArg (Option.map Ctx.suspendCmd) (State.ctx?_setCtxRec ..)⟩

theorem suspend_away (hr : d.res = .parked ∨ d.res = .unplaced) :
    Happens .partitionSuspend (.cmd q id) s fun u => u.Completing q id 0 0 0 := by
  intro hi
  rw [Completes, suspend_eq hc hd hi]
  rcases hr with hr | hr <;> rw [hr] <;> exact ⟨_, rfl, State.complete_completing ..⟩

/-! ### RESUME (03 R54, 05 R111) -/

/-- What RESUME does for an address that is no memory, unless the partition has no image to come from. -/
theorem resume_malformed (hr : d.res ≠ .unplaced) (hm : memSpace (c.dw 2) = false) :
    Becomes .partitionResume (.cmd q id) s (s.complete q id 4 2 0) := by
  intro hi
  rw [exec_partitionResume, execPartitionResume, hi]
  dsimp only
  rw [hc]
  dsimp only
  rw [hd]
  exact if_pos (by simp [hr, hm])

/-- The machine once a parked partition is to be restored from the image at the command's address. -/
def State.restoring (s : State) (n : Nat) (d : Ctx) (q id : Nat) (a : Word) : State :=
  ({ s with dev := { s.dev with parkedReports := setDel s.dev.parkedReports n } }.setCtxRec n { d with
    resumeCmd := some (q, id), imageAt := some a }).after 1 .restore (.num n)

/-- What RESUME does, by the state of the partition. -/
theorem resume_eq (hm : d.res = .unplaced ∨ memSpace (c.dw 2) = true) (hi : s.input = .cmd q id) :
    exec .partitionResume s = match d.res with
      | .resident => .next (s.complete q id statusOk 0 0)
      | .stopping => .next (s.after 1024 .partitionResume s.input)
      | .restoring => .next (s.after 1024 .partitionResume s.input)
      | .unplaced =>
        if s.dev.meets c.target d.region then .next (s.complete q id statusMalformed 1 0)
        else if d.shadow.any (s.dev.meets c.target) then .next (s.complete q id statusMalformed 2 0)
        else if !s.fits c.target d then .next (s.complete q id statusParked 0 0)
        else .next ((s.placeCtx c.target d).complete q id statusOk 0 0)
      | .parked =>
        if d.resumeCmd.isSome then .next (s.after 1024 .partitionResume s.input)
        else if !s.fits c.target d then .next (s.complete q id statusParked 0 0)
        else .next (s.restoring c.target d q id (c.dw 2)) := by
  have ht : ¬ (d.res != .unplaced && !memSpace (c.dw 2)) = true := by
    rcases hm with h | h <;> simp [h]
  rw [exec_partitionResume, execPartitionResume]
  split
  next h =>
    cases hi.symm.trans h
    rw [hc]
    dsimp only
    rw [hd]
    dsimp only
    rw [if_neg ht] <;> rfl
  next h => exact absurd hi (h q id)

theorem resume_resident (hm : memSpace (c.dw 2) = true) (hr : d.res = .resident) :
    Happens .partitionResume (.cmd q id) s fun u => u.Completing q id 0 0 0 := by
  intro hi
  rw [Completes, resume_eq hc hd (.inr hm) hi, hr]
  exact ⟨_, rfl, State.complete_completing ..⟩

theorem resume_again (hm : memSpace (c.dw 2) = true) (hr : d.res = .stopping ∨ d.res = .restoring) :
    Happens .partitionResume (.cmd q id) s fun u => s.DueIn u 1024 .partitionResume (.cmd q id) := by
  intro hi
  rw [Completes, resume_eq hc hd (.inr hm) hi, hi]
  rcases hr with hr | hr <;> rw [hr] <;> exact ⟨_, rfl, State.after_dueIn rfl ..⟩

/-- A partition that was created PARKED takes its place if it is free and fits. -/
theorem resume_unplaced (hr : d.res = .unplaced) :
    (s.dev.meets c.target d.region = true → Becomes .partitionResume (.cmd q id) s (s.complete q id 4 1 0))
    ∧ (s.dev.meets c.target d.region = false → d.shadow.any (s.dev.meets c.target) = true →
        Becomes .partitionResume (.cmd q id) s (s.complete q id 4 2 0))
    ∧ (s.dev.meets c.target d.region = false → d.shadow.any (s.dev.meets c.target) = false →
        (s.fits c.target d = true → Becomes .partitionResume (.cmd q id) s ((s.placeCtx c.target d).complete q id 0 0 0))
        ∧ (s.fits c.target d = false → Becomes .partitionResume (.cmd q id) s (s.complete q id 10 0 0))) := by
  refine ⟨fun h1 hi => ?_, fun h1 h2 hi => ?_, fun h1 h2 => ⟨fun hf hi => ?_, fun hf hi => ?_⟩⟩ <;>
    rw [resume_eq hc hd (.inl hr) hi, hr] <;> dsimp only
  · exact if_pos h1
  · exact (if_neg (ne_true_of_eq_false h1)).trans (if_pos h2)
  · exact (if_neg (ne_true_of_eq_false h1)).trans ((if_neg (ne_true_of_eq_false h2)).trans (if_neg (by simp [hf])))
  · exact (if_neg (ne_true_of_eq_false h1)).trans ((if_neg (ne_true_of_eq_false h2)).trans (if_pos (by simp [hf])))

theorem resume_parked (hm : memSpace (c.dw 2) = true) (hr : d.res = .parked) (hs : d.resumeCmd = none) :
    (s.fits c.target d = true → Becomes .partitionResume (.cmd q id) s (s.restoring c.target d q id (c.dw 2)))
    ∧ (s.fits c.target d = false → Becomes .partitionResume (.cmd q id) s (s.complete q id 10 0 0)) := by
  refine ⟨fun hf hi => ?_, fun hf hi => ?_⟩ <;> rw [resume_eq hc hd (.inr hm) hi, hr] <;> dsimp only <;> rw [if_neg (by simp [hs])]
  · exact if_neg (by simp [hf])
  · exact if_pos (by simp [hf])

end

/-! ### Commands that have completed (03 R51) -/

/-- The events of a queue's commands. -/
def commandEventsOf : List Instr :=
  [.partitionCreate, .partitionTeardown, .partitionSuspend, .partitionResume, .launch, .copy, .tasks, .tasksAppend, .signal, .wait, .waitPoll,
    .waitLimit, .status, .statusAttest]

theorem completed_skips {s : State} {q id : Nat} (hc : s.command? q id = none) : ∀ ev ∈ commandEventsOf, Becomes ev (.cmd q id) s s := by
  intro ev he hi
  simp only [commandEventsOf, List.mem_cons, List.not_mem_nil, or_false] at he
  rcases he with rfl | rfl | rfl | rfl | rfl | rfl | rfl | rfl | rfl | rfl | rfl | rfl | rfl | rfl
  · simp only [exec_partitionCreate, execPartitionCreate, hi, hc]
  · simp only [exec_partitionTeardown, execPartitionTeardown, hi, hc]
  · simp only [exec_partitionSuspend, execPartitionSuspend, hi, hc]
  · simp only [exec_partitionResume, execPartitionResume, hi, hc]
  · simp only [exec_launch, execLaunch, hi, hc]
  · simp only [exec_copy, execCopy, hi, hc]
  · simp only [exec_tasks, execTasks, Option.isSome_none, Bool.false_eq_true, if_false, hi, hc]
  · simp only [exec_tasksAppend, execTasksAppend, hi, hc]
  · simp only [exec_signal, execSignal, hi, hc]
  · simp only [exec_wait, execWait, hi, hc]
  · simp only [exec_waitPoll, execWaitPoll, State.lookWait, hi, hc]
  · simp only [exec_waitLimit, execWaitLimit, hi, hc]
  · simp only [exec_status, execStatus, hi, hc]
  · simp only [exec_statusAttest, execStatusAttest, hi, hc]

/-- A tile of a partition that was placed, and one of a context that was torn down. -/
theorem State.tile_of_placed {s u : State} {k n : Nat} (h : u.positions.1 k = (s.positions.1 k).placed n) :
    (u.tile k).r.ctx = n ∧ (u.tile k).r.mode = (s.tile k).r.mode ∧ (u.tile k).c.zeroDue = true ∧ (∀ j, (u.tile k).slot j = none)
    ∧ (u.tile k).c.pool = (s.tile k).c.pool :=
  ⟨congrArg Occupancy.ctx h, congrArg Occupancy.mode h, congrArg Occupancy.zeroDue h, congrFun (congrArg Occupancy.slots h),
    congrArg Occupancy.pool h⟩
theorem State.tile_of_vacated {s u : State} {k : Nat} (h : u.positions.1 k = (s.positions.1 k).vacated) :
    (u.tile k).r.ctx = 0 ∧ (∀ j, (u.tile k).slot j = none) ∧ (u.tile k).c.pool = (s.tile k).c.pool :=
  ⟨congrArg Occupancy.ctx h, congrFun (congrArg Occupancy.slots h), congrArg Occupancy.pool h⟩

/-- Settles O58, command by command. -/
theorem partitionEvents : Obligations.PartitionEvents := by
  intro s q id cmd ends ok all asked
  refine ⟨fun hc => completed_skips hc, fun n => teardown_ends s n q id, fun n d a b hd hr => suspend_asked a b hd hr, fun c hc => ?_⟩
  intro n x ws y placed
  have takesPlace (d : Ctx) : placed d ((s.placeCtx n d).complete q id 0 0 0) ∧ ok ((s.placeCtx n d).complete q id 0 0 0) := by
    obtain ⟨⟨hres, hpop, hk⟩, hok⟩ := s.placed_completes n d q id
    exact ⟨⟨hres, hpop, fun k hk' => State.tile_of_placed (hk k hk')⟩, hok⟩
  refine ⟨fun hd => ?absent, fun d hd => ?present⟩
  case absent =>
    obtain ⟨hunread, hbad, hfits, hparked⟩ := create_becomes hc hd
    exact ⟨fun ev he => partition_gone hc hd he, fun hx => (hunread hx).happens (State.refuse_completing ..),
      fun i hx hb => (hbad i hx hb).happens (State.complete_completing ..), fun hx hb hf => (hfits hx hb hf).happens (takesPlace y),
      fun hx hb hf => (hparked hx hb hf).happens ⟨State.ctx?_setCtxRec .., rfl, rfl, State.complete_completing ..⟩⟩
  case present =>
    refine ⟨create_taken hc hd, fun hn => (teardown_happens hc hd hn).mono fun u hu => ?_, suspend_resident hc hd, suspend_again hc hd,
      suspend_stopping hc hd, suspend_away hc hd, fun hr hm => (resume_malformed hc hd hr hm).happens (State.complete_completing ..),
      resume_resident hc hd, resume_again hc hd, fun hr => ?_, fun hm hr hs => ?_⟩
    · obtain ⟨hdue, hleft, hl, hgone⟩ := hu
      exact ⟨hdue, fun k hk => State.tile_of_vacated (hleft k hk), hl, hgone⟩
    · obtain ⟨h1, h2, h3⟩ := resume_unplaced hc hd hr
      exact ⟨fun hm => (h1 hm).happens (State.complete_completing ..), fun hm hs => (h2 hm hs).happens (State.complete_completing ..),
        fun hm hs => ⟨fun hf => ((h3 hm hs).1 hf).happens (takesPlace d),
          fun hf => ((h3 hm hs).2 hf).happens ⟨State.complete_completing .., rfl⟩⟩⟩
    · obtain ⟨h1, h2⟩ := resume_parked hc hd hm hr hs
      refine ⟨fun hf => (h1 hf).happens ⟨⟨_, List.mem_append_right _ (List.mem_singleton.2 rfl), rfl, rfl⟩, ?_, ?_, fun h => ?_⟩,
        fun hf => (h2 hf).happens ⟨State.complete_completing .., rfl⟩⟩
      · exact congrArg (Option.map Ctx.resumeCmd) (State.ctx?_setCtxRec ..)
      · exact congrArg (Option.map Ctx.imageAt) (State.ctx?_setCtxRec ..)
      · exact bne_iff_ne.1 (List.mem_filter.1 h).2 rfl

end Sys2Proof.Machine
end

section
/-!
PROOFS. Interval boundaries: requests, shipping, the marker, the commit and a full log area (05 R93, R94, R98, R102, R112). A request has one
lemma (`Becomes.requests`), which both events that make it cite. What a commit's wakes leave of the router is one reading (`Router.course`), and
a thread of CKPT is followed through them: it is named until its answer comes, and then it is answered (`State.Answers`).
-/
namespace Sys2Proof.Machine

/-! ### Requests (05 R93) -/

section
variable {s : State} {k : TileId}

theorem State.requestBoundary_wanted (hm : (s.tile k).r.mode = .live) (hs : (s.tile k).r.ship = none) :
    ((s.requestBoundary k).tile k).r.want = true := by
  simp [State.requestBoundary, hm, hs]

theorem State.requestBoundary_deferred (h : (s.tile k).r.mode = .live ∧ (s.tile k).r.ship.isSome = true ∨ (s.tile k).r.mode = .fenced) :
    s.requestBoundary k = s.setRouter k { (s.tile k).r with deferred := true } := by
  rcases h with ⟨hm, hs⟩ | hm
  · simp [State.requestBoundary, hm, hs]
  · simp [State.requestBoundary, hm]

theorem State.requestBoundary_late (hm : (s.tile k).r.mode = .saved) (hc : (s.tile k).r.stopped ≠ (s.tile k).r.cyc + 1) :
    s.requestBoundary k = s.setCtx k { (s.tile k).c with late := true } := by
  simp [State.requestBoundary, hm, hc]

/-- An event that requests a boundary: taken at the end of the cycle, or deferred, or left for the restore. -/
theorem Becomes.requests {ev arg} (h : Becomes ev arg s (s.requestBoundary k)) :
    let r := (s.tile k).r
    (r.mode = .live → r.ship = none → Happens ev arg s fun u => (u.tile k).r.want = true)
    ∧ (r.mode = .live → r.ship.isSome = true → Happens ev arg s fun u => (u.tile k).r.deferred = true ∧ (u.tile k).r.want = r.want)
    ∧ (r.mode = .fenced → Happens ev arg s fun u => (u.tile k).r.deferred = true ∧ (u.tile k).r.want = r.want)
    ∧ (r.mode = .saved → r.stopped ≠ r.cyc + 1 → Happens ev arg s fun u => (u.tile k).c.late = true ∧ (u.tile k).r = r) := by
  refine ⟨fun hm hs => h.happens (State.requestBoundary_wanted hm hs), fun hm hs => h.happens ?_, fun hm => h.happens ?_,
    fun hm hc => h.happens ?_⟩
  · simp [State.requestBoundary_deferred (.inl ⟨hm, hs⟩)]
  · simp [State.requestBoundary_deferred (.inr hm)]
  · simp [State.requestBoundary_late hm hc]

section
variable {base : Nat} (hb : (s.tile k).r.base = base)
include hb

theorem ivlenExpire_requests (hl : (s.tile k).c.ivlen.toNat ≤ (s.tile k).r.cyc - base) :
    Becomes .ivlenExpire (.tileNum k base) s (s.requestBoundary k) := by
  intro hi
  simp [execIvlenExpire, hi, hb, hl]

/-- The register has been written in between: the rest is waited for. -/
theorem ivlenExpire_early (hl : (s.tile k).r.cyc - base < (s.tile k).c.ivlen.toNat) :
    Becomes .ivlenExpire (.tileNum k base) s
      (s.after ((s.tile k).c.ivlen.toNat - ((s.tile k).r.cyc - base)) .ivlenExpire (.tileNum k base)) := by
  intro hi
  simp [execIvlenExpire, hi, hb, Nat.not_le.2 hl]
end

theorem ivlenExpire_stale {base : Nat} (hb : (s.tile k).r.base ≠ base) : Becomes .ivlenExpire (.tileNum k base) s s := by
  intro hi
  simp [execIvlenExpire, hi, hb]

theorem deferredBoundary_requests : Becomes .deferredBoundary (.tile k) s (s.requestBoundary k) := by
  intro hi
  simp [execDeferredBoundary, hi]
end

/-! ### Shipping (05 R98) -/

theorem State.DueIn.mono {s t u : State} {n ev arg} (h : s.DueIn t n ev arg) (ha : ∀ x ∈ t.agenda, x ∈ u.agenda) : s.DueIn u n ev arg := by
  obtain ⟨x, hx, hd⟩ := h
  exact ⟨x, ha x hx, hd⟩

section
variable {s : State} {k b : TileId} {ivn : Nat} {sh : Ship}

/-- Whether a packet leaves the shadow is read from the contexts that its ends serve. -/
theorem State.leavesShadow_setRouter {r : Router} (hr : r.ctx = (s.tile k).r.ctx) (a b) :
    (s.setRouter k r).leavesShadow a b = s.leavesShadow a b := by
  have hc (j) : ((s.setRouter k r).tile j).r.ctx = (s.tile j).r.ctx := by
    by_cases h : j = k
    · rw [h, State.tile_setRouter_self, hr]
    · rw [State.tile_setRouter_ne _ _ h]
  simp only [State.leavesShadow, hc]

/-- A packet to a tile outside other shadows is in the port's buffer, and nothing else changes. -/
theorem State.packet_leaves (h : s.leavesShadow k b = false) (cls fl ev arg) :
    let u := s.packet k b cls fl ev arg
    u.Leaving k ev arg ∧ (u.tile k).r.ship = (s.tile k).r.ship ∧ u.agenda = s.agenda ∧ u.now = s.now := by
  simp only [State.packet, h, Bool.false_eq_true, if_false]
  refine ⟨?_, ?_, rfl, rfl⟩
  · rw [State.Leaving, State.tile_inject_self]
    exact ⟨_, List.mem_append_right _ (List.mem_singleton.2 rfl), rfl, rfl⟩
  · rw [State.tile_inject_self]

theorem mirrorLineReceive_unstaged (hn : (s.tile k).r.staged? ivn = none) : Becomes .mirrorLineReceive (.tileNum k ivn) s s := by
  intro hi
  simp [execMirrorLineReceive, hi, hn]
theorem mirrorLineReceive_refused {l} (hb : buddyOf b = k) (hn : (s.tile k).r.staged? ivn = none) :
    Becomes .mirrorLineReceive (.mirror b ivn l) s s := by
  intro hi
  simp [execMirrorLineReceive, hi, hb, hn]
theorem commitMarkerReceive_refused {n} (hb : buddyOf b = k) (hn : (s.tile k).r.staged? ivn = none) :
    Becomes .commitMarkerReceive (.nums3 b n ivn) s s := by
  intro hi
  simp [execCommitMarkerReceive, hi, hb, hn]

theorem mirrorLineReceive_ships (hs : (s.tile k).r.staged? ivn = some sh) :
    Becomes .mirrorLineReceive (.tileNum k ivn) s (s.shipNext k ivn sh) := by
  intro hi
  simp [execMirrorLineReceive, hi, hs]

/-- A line leaves: the boundary has the rest yet to ship, and the next line leaves two cycles later. -/
theorem State.lineLeaves {t : State} (hl : t.leavesShadow k b = false) (hn : t.now = s.now) (ht : (t.tile k).r.ship = some sh) (x) :
    let u := (t.packet k b 5 3 .mirrorLineReceive x).after 2 .mirrorLineReceive (.tileNum k ivn)
    (u.tile k).r.ship = some sh ∧ u.Leaving k .mirrorLineReceive x ∧ s.DueIn u 2 .mirrorLineReceive (.tileNum k ivn)
    ∧ ∀ x ∈ t.agenda, x ∈ u.agenda := by
  obtain ⟨hv, hship, ha, hnow⟩ := State.packet_leaves hl 5 3 .mirrorLineReceive x
  exact ⟨hship.trans ht, hv, State.after_dueIn (hnow.trans hn) .., fun x hx => List.mem_append_left _ (ha ▸ hx)⟩

/-- The boundary has `sh` yet to ship. -/
def State.shipLeft (s : State) (k : TileId) (sh : Ship) : State := s.setRouter k { (s.tile k).r with ship := some sh }

theorem State.shipLeft_ship (s : State) (k sh) : ((s.shipLeft k sh).tile k).r.ship = some sh :=
  congrArg (fun t : Tile => t.r.ship) (State.tile_setRouter_self ..)

section
variable (hl : s.leavesShadow k (buddyOf k) = false)
include hl

theorem State.shipLeft_leavesShadow (sh) : (s.shipLeft k sh).leavesShadow k (buddyOf k) = false :=
  (State.leavesShadow_setRouter (r := { (s.tile k).r with ship := some sh }) rfl ..).trans hl

theorem State.shipNext_latched {x rest} (h : sh.latched = x :: rest) :
    let u := s.shipNext k ivn sh
    (u.tile k).r.ship = some { sh with latched := rest } ∧ u.Leaving k .mirrorLineReceive (.mirror (buddyOf k) ivn x)
    ∧ s.DueIn u 2 .mirrorLineReceive (.tileNum k ivn) ∧ s.DueIn u 1 .captureEntryFree (.tile k) := by
  let t := (s.shipLeft k { sh with latched := rest }).after 1 .captureEntryFree (.tile k)
  have e : s.shipNext k ivn sh = (t.packet k (buddyOf k) 5 3 .mirrorLineReceive (.mirror (buddyOf k) ivn x)).after 2
      .mirrorLineReceive (.tileNum k ivn) := by
    simp only [State.shipNext, h]
    rfl
  obtain ⟨hship, hv, hd, ha⟩ := State.lineLeaves (s := s) (t := t) (ivn := ivn) (State.shipLeft_leavesShadow hl _) rfl
    (s.shipLeft_ship k _) (.mirror (buddyOf k) ivn x)
  rw [e]
  exact ⟨hship, hv, hd, State.DueIn.mono (State.after_dueIn rfl ..) ha⟩

theorem State.shipNext_line {x rest} (h : sh.latched = []) (h' : sh.lines = x :: rest) :
    let u := s.shipNext k ivn sh
    (u.tile k).r.ship = some { sh with lines := rest } ∧ u.Leaving k .mirrorLineReceive (.mirror (buddyOf k) ivn x)
    ∧ s.DueIn u 2 .mirrorLineReceive (.tileNum k ivn) := by
  have e : s.shipNext k ivn sh = ((s.shipLeft k { sh with lines := rest }).packet k (buddyOf k) 5 3 .mirrorLineReceive
      (.mirror (buddyOf k) ivn x)).after 2 .mirrorLineReceive (.tileNum k ivn) := by
    simp only [State.shipNext, h, h']
    rfl
  obtain ⟨hship, hv, hd, -⟩ := State.lineLeaves (s := s) (ivn := ivn) (State.shipLeft_leavesShadow hl { sh with lines := rest }) rfl
    (s.shipLeft_ship k _) (.mirror (buddyOf k) ivn x)
  rw [e]
  exact ⟨hship, hv, hd⟩

theorem State.shipNext_marker (h : sh.latched = []) (h' : sh.lines = []) :
    (s.shipNext k ivn sh).Leaving k .commitMarkerReceive (.nums3 (buddyOf k) sh.count ivn) := by
  have e : s.shipNext k ivn sh = s.packet k (buddyOf k) 5 1 .commitMarkerReceive (.nums3 (buddyOf k) sh.count ivn) := by
    simp only [State.shipNext, h, h']
  rw [e]
  exact (State.packet_leaves hl ..).1
end

/-! ### Staging (05 R98) -/

/-- What a router has staged of boundary `ivn` of its buddy. -/
def Router.stagedLines (r : Router) (ivn : Nat) : List MirrorLine :=
  match r.staging with
  | some st => if st.ivn.toNat = ivn then st.lines else []
  | none => []

section
variable (hb : buddyOf b = k) (hs : (s.tile k).r.staged? ivn = some sh)
include hb hs

theorem mirrorLineReceive_stages (l) : Happens .mirrorLineReceive (.mirror b ivn l) s fun u =>
    (u.tile b).r.staging = some { ivn := BitVec.ofNat 48 ivn, lines := (s.tile b).r.stagedLines ivn ++ [l] } := by
  intro hi
  rw [Completes, exec_mirrorLineReceive, execMirrorLineReceive, hi]
  dsimp only
  rw [hb, hs]
  refine ⟨_, rfl, ?_⟩
  rw [State.tile_setRouter_self]
  rfl

theorem commitMarkerReceive_counted {n} (hn : ((s.tile b).r.stagedLines ivn).length = n) (hq : (s.tile b).r.quiet = false) :
    Happens .commitMarkerReceive (.nums3 b n ivn) s fun u =>
      (u.tile b).r.keeps = some (sh.merged (s.tile b).r.keeps ((s.tile b).r.stagedLines ivn)) ∧ (u.tile b).r.staging = none
      ∧ u.Pending .boundaryCommit (.tileNum k ivn) := by
  intro hi
  rw [Completes, exec_commitMarkerReceive, execCommitMarkerReceive, hi]
  dsimp only
  rw [hb, hs]
  refine ⟨_, if_neg (not_not.2 hn), ?_⟩
  rw [State.tile_of_tiles (State.relay_tiles ..), State.tile_setRouter_self]
  exact ⟨rfl, rfl, State.relay_pending (by rw [State.tile_setRouter_self]; exact hq) ..⟩

theorem commitMarkerReceive_miscounted {n} (hn : ((s.tile b).r.stagedLines ivn).length ≠ n) :
    Becomes .commitMarkerReceive (.nums3 b n ivn) s s := by
  intro hi
  rw [exec_commitMarkerReceive, execCommitMarkerReceive, hi]
  dsimp only
  rw [hb, hs]
  exact if_pos hn
end

/-! ### The commit (05 R98, R112) -/

/-- What of a router the wakes after a commit leave as it is: the boundary in flight, the interval before, and whether delivery is stopped. -/
def Router.course (r : Router) : Option Ship × Option Interval × Bool := (r.ship, r.prev, r.blocked)

theorem State.log_course (s : State) (k kind slot len ev arg val) :
    ((s.log k kind slot len ev arg val).tile k).r.course = (s.tile k).r.course := by
  unfold State.log State.logRec
  dsimp only
  split
  · rfl
  · rw [State.tile_setRouter_self]
    rfl

theorem Thread.receive_park (th : Thread) (p v) : (th.receive p v).park = none := by
  unfold Thread.receive
  split <;> rfl

/-- A value that is delivered reaches the thread that its reference names, if there is one, and unparks it. -/
theorem State.deliver_value_cases (s : State) (r v) :
    s.deliver r (.value v) = s
    ∨ ∃ j p, s.Names r j ∧ (s.thr r.tile j).park = some p ∧ s.deliver r (.value v) = s.setThr r.tile j ((s.thr r.tile j).receive p v) := by
  cases hj : s.slotOf r with
  | none => exact .inl (by rw [State.deliver, hj])
  | some j =>
    obtain ⟨th, p, hs, hp, -⟩ := State.Names.spec hj
    have hp' : (s.thr r.tile j).park = some p := by rw [State.thr, hs]; exact hp
    exact .inr ⟨j, p, hj, hp', State.deliver_value hj hp' v⟩

/-- One wake of a CKPT: logged, and answered with the boundary's number. -/
def State.wakeCkpt (s : State) (k : TileId) (v : Word) (x : Fin 16 × Nat) : State :=
  (s.mark k kWake x.1.val 0 0).deliver { tile := k, tok := x.2 } (.value v)

theorem State.wakeCkpt_course (s : State) (k v x) : ((s.wakeCkpt k v x).tile k).r.course = (s.tile k).r.course := by
  have marked : ((s.mark k kWake x.1.val 0 0).tile k).r.course = (s.tile k).r.course := State.log_course ..
  rcases (s.mark k kWake x.1.val 0 0).deliver_value_cases { tile := k, tok := x.2 } v with h | ⟨j, p, -, -, h⟩ <;> rw [State.wakeCkpt, h]
  · exact marked
  · rw [State.tile_setThr_self]
    exact marked
theorem State.wakeCkpt_agenda (s : State) (k v x) : (s.wakeCkpt k v x).agenda = s.agenda := by
  rcases (s.mark k kWake x.1.val 0 0).deliver_value_cases { tile := k, tok := x.2 } v with h | ⟨j, p, -, -, h⟩ <;> rw [State.wakeCkpt, h]
  · exact State.log_agenda ..
  · exact State.log_agenda ..

/-! A thread of CKPT through the wakes: it keeps its name until it is answered. -/

theorem find?_of_imp {α : Type} {p q : α → Bool} {l : List α} {a : α} (h : l.find? p = some a) (ha : q a = true)
    (hi : ∀ x, q x = true → p x = true) : l.find? q = some a := by
  induction l with
  | nil => simp at h
  | cons x l ih =>
    by_cases hx : p x = true
    · obtain rfl : x = a := by simpa [hx] using h
      simp [ha]
    · have hq : ¬ q x = true := fun hq => hx (hi x hq)
      simpa [hq] using ih (by simpa [hx] using h)

/-- The name of a thread stays its own when another is unparked. -/
theorem State.Names.unparked {r : Ref} {i j : Fin 16} (h : s.Names r j) (hij : i ≠ j) {th : Thread} (hp : th.park = none) :
    (s.setThr r.tile i th).Names r j := by
  have hj := List.find?_some h
  refine find?_of_imp h ?_ fun x hx => ?_
  · rw [State.tile_setThr_self, Tile.slot_setSlot_ne _ _ hij.symm]
    exact hj
  · by_cases hxi : x = i
    · rw [hxi, State.tile_setThr_self, Tile.slot_setSlot_self] at hx
      dsimp only at hx
      rw [hp] at hx
      cases hx
    · rwa [State.tile_setThr_self, Tile.slot_setSlot_ne _ _ hxi] at hx

section
variable {j : Fin 16} {th : Thread}

/-- A wake changes no thread that is not parked. -/
theorem State.wakeCkpt_unparked (hp : th.park = none) (h : s.thr k j = th) (v x) : (s.wakeCkpt k v x).thr k j = th := by
  have marked : (s.mark k kWake x.1.val 0 0).thr k j = th := (State.thr_log ..).trans h
  rcases (s.mark k kWake x.1.val 0 0).deliver_value_cases { tile := k, tok := x.2 } v with e | ⟨i, p, -, hi, e⟩ <;> rw [State.wakeCkpt, e]
  · exact marked
  · have hij : j ≠ i := by
      rintro rfl
      rw [marked, hp] at hi
      cases hi
    rw [State.thr_setThr_slot _ _ _ hij, marked]

/-- A thread that is named is answered by a wake, or keeps its name; its own wake answers it. -/
theorem State.wakeCkpt_named {p : Park} (hp : th.park = some p) (h : s.thr k j = th) {tok : Nat} (hn : s.Names { tile := k, tok := tok } j)
    (v x) : (s.wakeCkpt k v x).thr k j = th.receive p v
      ∨ x.2 ≠ tok ∧ (s.wakeCkpt k v x).thr k j = th ∧ (s.wakeCkpt k v x).Names { tile := k, tok := tok } j := by
  have marked : (s.mark k kWake x.1.val 0 0).thr k j = th := (State.thr_log ..).trans h
  have named : (s.mark k kWake x.1.val 0 0).Names { tile := k, tok := tok } j := State.Names.log hn ..
  by_cases hx : x.2 = tok
  · left
    rw [State.wakeCkpt, hx, State.deliver_value named (by rw [marked]; exact hp), State.thr_setThr_self, marked]
  · rcases (s.mark k kWake x.1.val 0 0).deliver_value_cases { tile := k, tok := x.2 } v with e | ⟨i, q, -, hq, e⟩ <;> rw [State.wakeCkpt, e]
    · exact .inr ⟨hx, marked, named⟩
    · by_cases hij : i = j
      · subst hij
        rw [marked, hp, Option.some.injEq] at hq
        left
        rw [State.thr_setThr_self, marked, hq]
      · exact .inr ⟨hx, (State.thr_setThr_slot _ _ _ (Ne.symm hij)).trans marked, named.unparked hij (Thread.receive_park ..)⟩

/-- Of the wakes of a list that has a thread's own, one answers it, and the later ones leave it. -/
theorem State.foldl_wakeCkpt_answers {p : Park} (hp : th.park = some p) (h : s.thr k j = th) (hn : s.Names { tile := k, tok := p.tok } j)
    (v) {xs : List (Fin 16 × Nat)} (hx : (j, p.tok) ∈ xs) : (xs.foldl (fun s x => s.wakeCkpt k v x) s).thr k j = th.receive p v := by
  have left (u : State) (x) (hu : u.thr k j = th.receive p v) : (u.wakeCkpt k v x).thr k j = th.receive p v :=
    State.wakeCkpt_unparked (Thread.receive_park ..) hu v x
  refine State.foldl_hits (P := fun u => u.thr k j = th.receive p v ∨ u.thr k j = th ∧ u.Names { tile := k, tok := p.tok } j)
    (fun u x hu => ?_) left (fun u hu => ?_) hx (.inr ⟨h, hn⟩)
  · rcases hu with hu | ⟨hu, hun⟩
    · exact .inl (left u x hu)
    · exact (State.wakeCkpt_named hp hu hun v x).imp_right And.right
  · rcases hu with hu | ⟨hu, hun⟩
    · exact left u _ hu
    · exact (State.wakeCkpt_named hp hu hun v _).resolve_right fun hx => hx.1 rfl
end

/-- What holds before the wakes of threads that wait for a record, and stays when one of them is put off or woken, holds after them. -/
theorem State.wakeOuter_keeps {P : State → Prop} (k f) (h0 : P s) (hoff : ∀ u : State, P u → P (u.after 1 .captureEntryFree (.tile k)))
    (hwake : ∀ (u : State) i p, P u → (u.thr k i).park = some p →
      P ((u.log k kWake i.val 0 .captureEntryFree (.ref { tile := k, tok := p.tok }) 0).unpark k i)) : P (s.wakeOuter k f) := by
  refine List.foldlRecOn (motive := P) _ _ h0 fun u hu i _ => ?_
  cases hs : (u.tile k).slot i with
  | none => exact hu
  | some th =>
    dsimp only
    cases hp : th.park with
    | none => exact hu
    | some p =>
      dsimp only
      split
      · exact hu
      · split
        · exact hoff u hu
        · exact hwake u i p hu (by rw [State.thr, hs]; exact hp)

/-- Those wakes leave the router on its course, the agenda with what it had, and a thread that is not parked as it is. -/
theorem State.wakeOuter_spec (s : State) (k f) :
    ((s.wakeOuter k f).tile k).r.course = (s.tile k).r.course ∧ (∀ x ∈ s.agenda, x ∈ (s.wakeOuter k f).agenda)
    ∧ ∀ j, (s.thr k j).park = none → (s.wakeOuter k f).thr k j = s.thr k j := by
  refine State.wakeOuter_keeps k f (P := fun u => (u.tile k).r.course = (s.tile k).r.course ∧ (∀ x ∈ s.agenda, x ∈ u.agenda)
    ∧ ∀ j, (s.thr k j).park = none → u.thr k j = s.thr k j) ⟨rfl, fun _ h => h, fun _ _ => rfl⟩ ?_ ?_
  · exact fun u ⟨hc, ha, ht⟩ => ⟨hc, fun x hx => List.mem_append_left _ (ha x hx), ht⟩
  · refine fun u i p ⟨hc, ha, ht⟩ hp => ⟨?_, fun x hx => ?_, fun j hj => ?_⟩
    · rw [State.unpark, State.tile_setThr_self]
      exact (State.log_course ..).trans hc
    · rw [State.unpark, State.setThr_agenda, State.log_agenda]
      exact ha x hx
    · have hij : j ≠ i := by
        rintro rfl
        rw [ht j hj, hj] at hp
        cases hp
      rw [State.unpark, State.thr_setThr_slot _ _ _ hij, State.thr_log, ht j hj]

/-- Tile `k` once its boundary has committed, before its threads wake. -/
def State.committed (s : State) (k : TileId) (sh : Ship) (arg : Payload) : State :=
  let s := s.note k .boundaryCommit arg
  let r := (s.tile k).r
  let s := s.setRouter k { r with
    ship := none, prev := none, blocked := false, saving := if r.saving ≤ sh.cyc then 0 else r.saving, deferred := false }
  if r.deferred then s.after 1 .deferredBoundary (.tile k) else s

theorem State.committed_spec (s : State) (k sh arg) :
    let u := s.committed k sh arg
    (u.tile k).r.course = (none, none, false) ∧ (u.tile k).c = (s.tile k).c
    ∧ ((s.tile k).r.deferred = true → s.DueIn u 1 .deferredBoundary (.tile k)) := by
  obtain ⟨l, hr⟩ := s.note_router k .boundaryCommit arg
  have hc : ((s.note k .boundaryCommit arg).tile k).c = (s.tile k).c := State.tile_logRec_c ..
  simp only [State.committed, hr]
  split
  · refine ⟨?_, ?_, fun _ => State.after_dueIn (State.note_now ..) ..⟩
    · exact congrArg (fun t : Tile => t.r.course) (State.tile_setRouter_self ..)
    · exact (State.tile_setRouter_c ..).trans hc
  · refine ⟨?_, (State.tile_setRouter_c ..).trans hc, fun h => absurd h ‹_›⟩
    exact congrArg (fun t : Tile => t.r.course) (State.tile_setRouter_self ..)

theorem boundaryCommit_none (hs : (s.tile k).r.ship = none) : Becomes .boundaryCommit (.tileNum k ivn) s s := by
  intro hi
  simp [execBoundaryCommit, hi, hs]

section
variable (hs : (s.tile k).r.ship = some sh)
include hs

theorem boundaryCommit_other (hn : sh.ivn.toNat ≠ ivn) : Becomes .boundaryCommit (.tileNum k ivn) s s := by
  intro hi
  simp [execBoundaryCommit, hi, hs, hn]

/-- A tile that stopped at its boundary to be moved is recovered from it (05 R112). -/
theorem boundaryCommit_moves (hn : sh.ivn.toNat = ivn) (hv : (s.tile k).r.moving = true) (hm : (s.tile k).r.mode = .fenced) :
    Happens .boundaryCommit (.tileNum k ivn) s fun u =>
      s.DueIn u 64 .recovery (.tileNum k (s.tile k).r.chain) ∧ (u.tile k).r.ship = some sh := by
  intro hi
  rw [Completes, exec_boundaryCommit, execBoundaryCommit, hi]
  dsimp only
  rw [hs]
  dsimp only
  rw [if_neg (not_not.2 hn), if_pos (by simp [hv, hm])]
  refine ⟨_, rfl, State.after_dueIn rfl .., ?_⟩
  exact congrArg (fun t : Tile => t.r.ship) (State.tile_setRouter_self ..)

theorem boundaryCommit_eq (hn : sh.ivn.toNat = ivn) (h : (s.tile k).r.moving = false ∨ (s.tile k).r.mode ≠ .fenced) :
    let t := s.committed k sh (.tileNum k ivn)
    Becomes .boundaryCommit (.tileNum k ivn) s ((((t.tile k).ckptThreads sh.cyc).foldl
      (fun s x => s.wakeCkpt k (BitVec.ofNat 64 ivn) x) t).wakeOuter k (fun _ w => w == .logRec)) := by
  intro t hi
  rw [exec_boundaryCommit, execBoundaryCommit, hi]
  dsimp only
  rw [hs]
  dsimp only
  rw [if_neg (not_not.2 hn), if_neg (by rcases h with h | h <;> simp [h])]
  rfl

/-- A thread of CKPT whose request the boundary met is among those that wake. -/
theorem boundaryCommit_wakes (hn : sh.ivn.toNat = ivn) (h : (s.tile k).r.moving = false ∨ (s.tile k).r.mode ≠ .fenced) :
    Happens .boundaryCommit (.tileNum k ivn) s fun u =>
      (u.tile k).r.course = (none, none, false) ∧ ((s.tile k).r.deferred = true → s.DueIn u 1 .deferredBoundary (.tile k))
      ∧ ∀ j rd tok nh since, (s.thr k j).park = some ⟨.ckpt rd, tok, nh, since⟩ → since < sh.cyc → s.Names { tile := k, tok := tok } j →
          u.thr k j = (s.thr k j).receive ⟨.ckpt rd, tok, nh, since⟩ (BitVec.ofNat 64 ivn) := by
  refine (boundaryCommit_eq hs hn h).happens ?_
  obtain ⟨hcourse, hc, hdue⟩ := s.committed_spec k sh (.tileNum k ivn)
  obtain ⟨houter, hagenda, hthr⟩ := State.wakeOuter_spec ((((s.committed k sh (.tileNum k ivn)).tile k).ckptThreads sh.cyc).foldl
    (fun s x => s.wakeCkpt k (BitVec.ofNat 64 ivn) x) (s.committed k sh (.tileNum k ivn))) k (fun _ w => w == .logRec)
  have hwakes := State.foldl_reads (fun u : State => ((u.tile k).r.course, u.agenda))
    (fun u x => by rw [u.wakeCkpt_course k (BitVec.ofNat 64 ivn) x, State.wakeCkpt_agenda])
    (((s.committed k sh (.tileNum k ivn)).tile k).ckptThreads sh.cyc) (s.committed k sh (.tileNum k ivn))
  obtain ⟨hwc, hwa⟩ := Prod.mk.inj hwakes
  refine ⟨houter.trans (hwc.trans hcourse), fun hd => (hdue hd).mono fun x hx => hagenda x (hwa ▸ hx), fun j rd tok nh since hp hlt hj => ?_⟩
  have same : (s.committed k sh (.tileNum k ivn)).thr k j = s.thr k j := by simp only [State.thr, Tile.slot, hc]
  have listed : (j, tok) ∈ ((s.committed k sh (.tileNum k ivn)).tile k).ckptThreads sh.cyc := by
    refine List.mem_filterMap.2 ⟨j, List.mem_finRange j, ?_⟩
    obtain ⟨th, p, hth, -, -⟩ := hj.spec
    have hp' : th.park = some ⟨.ckpt rd, tok, nh, since⟩ := by rwa [State.thr, hth] at hp
    have slot : ((s.committed k sh (.tileNum k ivn)).tile k).slot j = some th := by rw [Tile.slot, hc]; exact hth
    rw [slot]
    dsimp only
    rw [hp']
    exact if_pos hlt
  have answered := State.foldl_wakeCkpt_answers hp same (State.Names.of_slots hj (congrArg TileCtx.slots hc)) (BitVec.ofNat 64 ivn) listed
  exact (hthr j (by rw [answered, Thread.receive_park])).trans answered
end
end

theorem logAreaFull_blocks (s : State) (k) :
    Happens .logAreaFull (.tile k) s fun u => (u.tile k).r.blocked = ((s.tile k).r.logFull || (s.tile k).r.blocked) := by
  intro hi
  refine ⟨_, by rw [exec_logAreaFull, execLogAreaFull, hi], ?_⟩
  cases (s.tile k).r.logFull <;> simp

/-- Settles O51, event by event. -/
theorem boundaryEvents : Obligations.BoundaryEvents := by
  intro s k base n ivn l r b asked
  refine ⟨fun hb hl => (ivlenExpire_requests hb hl).requests, fun hb hl => ?early, ivlenExpire_stale, deferredBoundary_requests.requests,
    fun hn => ⟨mirrorLineReceive_unstaged hn, fun hb => ⟨mirrorLineReceive_refused hb hn, commitMarkerReceive_refused hb hn⟩⟩,
    fun sh hs => ⟨fun hl => ?ships, fun hb => ?staged⟩, boundaryCommit_none,
    fun sh hs => ⟨boundaryCommit_other hs, boundaryCommit_moves hs, fun hn h => ?commit⟩, logAreaFull_blocks s k⟩
  case early => exact (ivlenExpire_early hb hl).happens ⟨State.after_dueIn rfl .., rfl⟩
  case ships =>
    have next := mirrorLineReceive_ships hs
    exact ⟨fun x rest h => next.happens (State.shipNext_latched hl h), fun x rest h h' => next.happens (State.shipNext_line hl h h'),
      fun h h' => next.happens (State.shipNext_marker hl h h')⟩
  case staged =>
    exact ⟨mirrorLineReceive_stages hb hs l, commitMarkerReceive_counted hb hs, commitMarkerReceive_miscounted hb hs⟩
  case commit =>
    refine (boundaryCommit_wakes hs hn h).mono fun u ⟨hc, hd, ht⟩ => ?_
    obtain ⟨hship, hrest⟩ := Prod.mk.inj hc
    obtain ⟨hprev, hblocked⟩ := Prod.mk.inj hrest
    exact ⟨hship, hprev, hblocked, hd, ht⟩

end Sys2Proof.Machine
end

section
/-!
PROOFS. Detection, fencing, recovery, replay, loss of state, captures and the routers' tables (05 R88 to R91, R97, R103 to R116, 04 R69, R77,
R78, 09 R188). A flag, a load, a release and a loss of state are each cut into named steps that an equation ties to the model (`State.flag_eq`,
`rebindWave_local`, `recoveryRelease_eq`, `stateLoss_loses`). What a tile's fence changes at the positions of tiles is read from
`State.positions`, and what a release does after the tile runs again puts events on the agenda alone (`State.Schedules`).
-/
namespace Sys2Proof.Machine

/-! ### Buddies (05 R95) -/

theorem buddyOf_ne (k : TileId) : buddyOf k ≠ k := by
  intro h
  have : k ^^^ (k ^^^ 0x800) = k ^^^ k := congrArg (k ^^^ ·) h
  simp at this

/-! ### What flagging a tile leaves of the others -/

section
variable {s u : State} {k : TileId} {cause : Nat}

theorem State.positions_of_tiles (h : u.tiles = s.tiles) : u.positions.1 = s.positions.1 :=
  funext fun j => congrArg Tile.occupancy (State.tile_of_tiles h j)

/-- States with the same pools at their positions, the same cellar and the same host memory. -/
theorem SameMemory.of_pools (hp : ∀ j, (u.positions.1 j).pool = (s.positions.1 j).pool) (hb : u.bulk = s.bulk) : SameMemory s u := by
  obtain ⟨hc, hh⟩ := Prod.mk.inj hb
  exact ⟨fun j a => congrArg (Memory.get · a) (hp j), fun a => by rw [hc], fun a => by rw [hh]⟩

theorem State.condemn_spec (s : State) (k) :
    (s.condemn k).tiles = s.tiles ∧ (s.condemn k).chiplets = s.chiplets ∧ (s.condemn k).now = s.now := by
  unfold State.condemn
  split <;> exact ⟨rfl, rfl, rfl⟩

theorem State.listTile_keeps (s : State) (k j) : ((s.listTile k).tile j).r.keeps = (s.tile j).r.keeps := by
  by_cases h : (s.tiles.get? k).isSome = true
  · rw [State.listTile_of_listed h]
  · by_cases hj : j = k
    · subst hj
      have unlisted : s.tile j = Tile.reset := by rw [State.tile, Option.not_isSome_iff_eq_none.1 h]; rfl
      rw [State.listTile, if_neg h, unlisted]
      dsimp only
      rw [State.tile_of_tiles (State.after_tiles ..), State.tile_setTile_self]
    · rw [State.listTile, if_neg h]
      dsimp only
      rw [State.tile_of_tiles (State.after_tiles ..), State.tile_setTile_ne _ _ hj]

/-- A tile that is flagged, and its buddy, stand in the tables; its physical tile is out of use. -/
def State.accused (s : State) (k : TileId) : State := ((s.listTile k).listTile (buddyOf k)).condemn k

theorem State.accused_spec (s : State) (k) : (s.accused k).positions.1 = s.positions.1 ∧ (s.accused k).chiplets = s.chiplets
    ∧ (s.accused k).now = s.now ∧ (∀ j, ((s.accused k).tile j).r.keeps = (s.tile j).r.keeps)
    ∧ ((s.tiles.get? k).isSome = true → (s.accused k).tile k = s.tile k) := by
  obtain ⟨ht, hc, hn⟩ := ((s.listTile k).listTile (buddyOf k)).condemn_spec k
  refine ⟨?_, ?_, ?_, fun j => ?_, fun h => ?_⟩
  · rw [State.accused, State.positions_of_tiles ht, State.listTile_positions, State.listTile_positions]
  · rw [State.accused, hc, State.listTile_chiplets, State.listTile_chiplets]
  · rw [State.accused, hn, (State.listTile_grows ..).now, (State.listTile_grows ..).now]
  · rw [State.accused, State.tile_of_tiles ht, State.listTile_keeps, State.listTile_keeps]
  · rw [State.accused, State.tile_of_tiles ht, State.listTile_of_listed h, (s.listTile_grows (buddyOf k)).tile h]

/-! ### The fence (05 R88, R90, R103) -/

/-- What a fence leaves of a router, by the number of the checkpoint that the buddy keeps. -/
def Router.fenced (r : Router) (cause : Nat) (kept : Option (BitVec 48)) : Router :=
  { r with
    mode := .fenced, cause := cause, out := [], want := false, moving := false, relief := false, missed := 0, asked := 0, hung := false
    saving := 0, blocked := false, keeps := none, staging := none, ship := r.ship.filter (fun sh => some sh.ivn == kept)
    replay := false, quiet := false, script := [], chain := r.chain + 1, target := none }

/-- A tile's router is fenced; its buddy's has its staging discarded; no other tile changes. -/
theorem State.fence_tile (s : State) (k cause) :
    ((s.fence k cause).tile k = { s.tile k with
      r := (s.tile k).r.fenced cause ((s.tile (buddyOf k)).r.keeps.map (fun m => m.ctx.ivn)) })
    ∧ ((s.fence k cause).tile (buddyOf k) = { s.tile (buddyOf k) with r := { (s.tile (buddyOf k)).r with staging := none } })
    ∧ ∀ j, j ≠ k → j ≠ buddyOf k → (s.fence k cause).tile j = s.tile j := by
  have hb := buddyOf_ne k
  have hk : (s.setRouter (buddyOf k) { (s.tile (buddyOf k)).r with staging := none }).tile k = s.tile k :=
    State.tile_setRouter_ne _ _ hb.symm
  refine ⟨?_, ?_, fun j hj hjb => ?_⟩
  · refine (State.tile_setRouter_self ..).trans ?_
    rw [hk]
    rfl
  · exact (State.tile_setRouter_ne _ _ hb).trans (State.tile_setRouter_self ..)
  · exact (State.tile_setRouter_ne _ _ hj).trans (State.tile_setRouter_ne _ _ hjb)

/-- A fenced position holds what it held. -/
def Occupancy.fenced (o : Occupancy) : Occupancy := { o with mode := .fenced }

theorem State.fence_positions (s : State) (k cause) :
    (s.fence k cause).positions.1 = Function.update s.positions.1 k (s.positions.1 k).fenced := by
  obtain ⟨hk, hb, hj⟩ := s.fence_tile k cause
  funext j
  by_cases h : j = k
  · rw [h, Function.update_self]
    exact congrArg Tile.occupancy hk
  · rw [Function.update_of_ne h]
    by_cases h' : j = buddyOf k
    · rw [h']
      exact (congrArg Tile.occupancy hb).trans rfl
    · exact congrArg Tile.occupancy (hj j h h')

/-! ### A tile that is flagged (05 R88, R106, R108, R116) -/

/-- The fenced router `x` of a tile whose router was `r`, with what its replay will deliver and not repeat; a replacement that fails in its
replay leaves that as it was. -/
def Router.flagged (r x : Router) (since : List LogRec × List Packet) : Router :=
  if r.replay then { x with tries := r.tries + 1, total := max r.total since.2.length }
  else if r.mode == .fenced then x
  else { x with fence := r.cyc, source := since.1, total := since.2.length }

/-- Records since the checkpoint of tile `k`, and injections since. -/
def State.sinceMirror (s : State) (k : TileId) (r : Router) : List LogRec × List Packet :=
  match s.mirrorOf k with
  | some m => r.since m.cyc
  | none => ([], [])

/-- The router of tile `k` as its flag leaves it. -/
def State.flagRouter (s : State) (k : TileId) (cause : Nat) : Router :=
  let t := (s.accused k).fence k cause
  ((s.accused k).tile k).r.flagged (t.tile k).r (t.sinceMirror k ((s.accused k).tile k).r)

theorem State.flag_eq (s : State) (k cause) : s.flag k cause =
    (((s.accused k).fence k cause).setRouter k (s.flagRouter k cause)).after 64 .recovery (.tileNum k (s.flagRouter k cause).chain) := rfl

theorem State.flag_router (s : State) (k cause) : ((s.flag k cause).tile k).r = s.flagRouter k cause := by
  rw [State.flag_eq, State.tile_of_tiles (State.after_tiles ..), State.tile_setRouter_self]

/-- What a flag sets anew of a router that it has fenced is no more than where its replay begins and ends, and how often it has failed. -/
theorem Router.flagged_fields (r x : Router) (since) : (r.flagged x since).mode = x.mode ∧ (r.flagged x since).cause = x.cause
    ∧ (r.flagged x since).keeps = x.keeps ∧ (r.flagged x since).out = x.out ∧ (r.flagged x since).ctx = x.ctx := by
  unfold Router.flagged
  (repeat' split) <;> exact ⟨rfl, rfl, rfl, rfl, rfl⟩

theorem State.flagRouter_fields (s : State) (k cause) : (s.flagRouter k cause).mode = .fenced ∧ (s.flagRouter k cause).cause = cause
    ∧ (s.flagRouter k cause).keeps = none ∧ (s.flagRouter k cause).out = [] ∧ (s.flagRouter k cause).ctx = ((s.accused k).tile k).r.ctx := by
  have h := Router.flagged_fields ((s.accused k).tile k).r (((s.accused k).fence k cause).tile k).r
    (((s.accused k).fence k cause).sinceMirror k ((s.accused k).tile k).r)
  rw [(State.fence_tile ..).1] at h
  rw [State.flagRouter, (State.fence_tile ..).1]
  exact h

theorem State.flag_positions (s : State) (k cause) :
    (s.flag k cause).positions.1 = Function.update s.positions.1 k (s.positions.1 k).fenced := by
  obtain ⟨hmode, -, -, -, hctx⟩ := s.flagRouter_fields k cause
  have ht := ((s.accused k).fence_tile k cause).1
  have hm : (s.flagRouter k cause).mode = (((s.accused k).fence k cause).tile k).r.mode := by rw [hmode, ht]; rfl
  have hc : (s.flagRouter k cause).ctx = (((s.accused k).fence k cause).tile k).r.ctx := by rw [hctx, ht]; rfl
  rw [State.flag_eq, State.positions_of_tiles (State.after_tiles ..), State.positions_setRouter hc hm, State.fence_positions,
    (s.accused_spec k).1]

theorem State.flag_sameMemory (s : State) (k cause) : SameMemory s (s.flag k cause) := by
  refine .of_pools (fun j => ?_) (State.flag_bulk ..)
  rw [State.flag_positions]
  by_cases h : j = k
  · rw [h, Function.update_self]
    rfl
  · rw [Function.update_of_ne h]

theorem State.fence_chiplets (s : State) (k cause) : (s.fence k cause).chiplets = s.chiplets := rfl
theorem State.fence_now (s : State) (k cause) : (s.fence k cause).now = s.now := rfl
theorem State.flag_chiplets (s : State) (k cause) : (s.flag k cause).chiplets = s.chiplets := by
  rw [State.flag_eq, State.after_chiplets, State.setRouter_chiplets, State.fence_chiplets, (s.accused_spec k).2.1]

/-- A flagged tile is fenced, what it kept and had buffered is gone, and its recovery begins 64 cycles later. -/
theorem State.flag_fences (s : State) (k cause) :
    let r := ((s.flag k cause).tile k).r
    (r.mode, r.cause, r.keeps, r.out) = (.fenced, cause, none, [])
    ∧ s.DueIn (s.flag k cause) 64 .recovery (.tileNum k r.chain) := by
  intro r
  have hr : r = s.flagRouter k cause := s.flag_router k cause
  obtain ⟨hmode, hcause, hkeeps, hout, -⟩ := s.flagRouter_fields k cause
  have hnow : (((s.accused k).fence k cause).setRouter k (s.flagRouter k cause)).now = s.now := by
    rw [State.setRouter_now, State.fence_now, (s.accused_spec k).2.2.1]
  rw [hr, hmode, hcause, hkeeps, hout, State.flag_eq]
  exact ⟨rfl, State.after_dueIn hnow ..⟩

/-- The checkpoint stands at the buddy, which the fence leaves as it is but for its staging. -/
theorem State.sinceMirror_flag {m : Mirror} (h : (s.tile (buddyOf k)).r.keeps = some m) (cause r) :
    ((s.accused k).fence k cause).sinceMirror k r = r.since m.cyc := by
  have hm : (((s.accused k).fence k cause).tile (buddyOf k)).r.keeps = some m := by
    rw [(State.fence_tile ..).2.1]
    exact ((s.accused_spec k).2.2.2.1 _).trans h
  rw [State.sinceMirror, State.mirrorOf, hm]

section
variable (hl : (s.tiles.get? k).isSome = true)
include hl

theorem State.flagRouter_listed (cause) : s.flagRouter k cause =
    (s.tile k).r.flagged (((s.accused k).fence k cause).tile k).r (((s.accused k).fence k cause).sinceMirror k (s.tile k).r) := by
  rw [State.flagRouter, (s.accused_spec k).2.2.2.2 hl]

/-- The fence cycle is that of the flag, and the records up to it are what a replay delivers. -/
theorem State.flag_live (hm : (s.tile k).r.mode ≠ .fenced) (hr : (s.tile k).r.replay = false) (cause) :
    ((s.flag k cause).tile k).r.fence = (s.tile k).r.cyc
    ∧ ∀ m, (s.tile (buddyOf k)).r.keeps = some m → ((s.flag k cause).tile k).r.source = ((s.tile k).r.since m.cyc).1 := by
  rw [State.flag_router, State.flagRouter_listed hl, Router.flagged, if_neg (by simp [hr]), if_neg (by simpa using hm)]
  exact ⟨rfl, fun m h => by rw [State.sinceMirror_flag h]⟩

/-- A replacement that fails in its replay leaves the fence cycle, and counts. -/
theorem State.flag_replaying (hr : (s.tile k).r.replay = true) (cause) :
    (((s.flag k cause).tile k).r.fence, ((s.flag k cause).tile k).r.tries) = ((s.tile k).r.fence, (s.tile k).r.tries + 1) := by
  rw [State.flag_router, State.flagRouter_listed hl, Router.flagged, if_pos hr, (State.fence_tile ..).1, (s.accused_spec k).2.2.2.2 hl]
  rfl
end

/-! ### Detectors (05 R88, R89, R91) -/

theorem errorDetect_flags (hc : cause ≠ 5) : Becomes .errorDetect (.tileNum k cause) s (s.flag k cause) := by
  intro hi
  simp [execErrorDetect, hi, hc]

theorem errorDetect_hangs (s : State) (k) : Happens .errorDetect (.tileNum k 5) s fun u => (u.tile k).r.hung = true := by
  intro hi
  simp [Completes, execErrorDetect, hi]

/-- The state of every position of the router's cluster is lost in the next cycle. -/
theorem State.routerLost_dueIn (h : u.now = s.now) (n) {i : Nat} (hi : i < 32) :
    s.DueIn (u.routerLost n) 1 .stateLoss (.tileNum (n * 32 + i) 0xFE) := by
  exact State.foldl_hits (f := fun t j => t.after 1 .stateLoss (.tileNum (n * 32 + j) 0xFE)) (P := fun t => t.now = s.now)
    (Q := fun t => s.DueIn t 1 .stateLoss (.tileNum (n * 32 + i) 0xFE)) (fun t x ht => ht)
    (fun t x ht => ht.mono fun y hy => List.mem_append_left _ hy) (fun t ht => State.after_dueIn ht ..) (List.mem_range.2 hi) h

theorem errorDetect_loses (s : State) (n) : Happens .errorDetect (.num n) s fun u =>
    ∀ i, i < 32 → s.DueIn u 1 .stateLoss (.tileNum (n * 32 + i) 0xFE) := by
  intro hi
  exact ⟨_, by rw [exec_errorDetect, execErrorDetect, hi], fun i h => State.routerLost_dueIn rfl n h⟩

theorem State.link_setLink (s : State) (n i l) : ((s.setLink n i l).cluster n).link i = l := by
  rw [State.setLink, State.cluster_setCluster_self]
  simp [Cluster.link]

theorem correctedError_counts (s : State) : Completes .correctedError s fun u =>
    u.dev.correctedErrors = s.dev.correctedErrors + 1 ∧ SameMemory s u := by
  rw [Completes, exec_correctedError, execCorrectedError]
  dsimp only
  split <;> exact ⟨_, rfl, rfl, .of_eq rfl rfl⟩

theorem correctedError_link (s : State) (n p) : Happens .correctedError (.nums n p) s fun u =>
    ((u.cluster n).link p).corrected = ((s.cluster n).link p).corrected + 1 := by
  intro hi
  refine ⟨_, by rw [exec_correctedError, execCorrectedError, hi], ?_⟩
  exact congrArg LinkState.corrected (State.link_setLink ..)

theorem mem_setAdd {l : List Nat} {k a : Nat} : a ∈ setAdd l k ↔ a ∈ l ∨ a = k := by
  unfold setAdd
  split
  · next h => exact ⟨.inl, fun h' => h'.elim id (by rintro rfl; simpa using h)⟩
  · simp

/-- A page is poisoned, and no line of it has been cleaned since; another page is as it was. -/
theorem cellarPoison_page (s : State) (pa) : Happens .cellarPoison (.num pa) s fun u => ∀ a,
    (a / 65536 = pa / 65536 → u.dev.poisoned a = true) ∧ (a / 65536 ≠ pa / 65536 → u.dev.poisoned a = s.dev.poisoned a) := by
  intro hi
  refine ⟨_, by rw [exec_cellarPoison, execCellarPoison, hi], fun a => ?_⟩
  have page : a / 64 / 1024 = a / 65536 := by omega
  refine ⟨fun h => ?_, fun h => ?_⟩
  · simp [Device.poisoned, mem_setAdd, List.mem_filter, page, h]
  · simp [Device.poisoned, mem_setAdd, List.mem_filter, page, h]

theorem State.cutPower_fences (s : State) (c) :
    (((s.cutPower c).chiplet c).powered, ((s.cutPower c).chiplet c).lost) = (false, true)
    ∧ ∀ t ∈ s.tilesOfChip c, ((s.cutPower c).tile t).r.mode = .fenced := by
  let dark : State := { s with chiplets := s.chiplets.set c { s.chiplet c with powered := false, lost := true } }
  have e : s.cutPower c = (dark.everyTileOf c).foldl (fun s k => s.flag k 6) dark := rfl
  have mode (u : State) (i t) : ((u.flag i 6).tile t).r.mode = if t = i then .fenced else (u.tile t).r.mode := by
    have h := congrArg Occupancy.mode (congrFun (u.flag_positions i 6) t)
    split
    · subst_vars
      rwa [Function.update_self] at h
    · rwa [Function.update_of_ne ‹_›] at h
  refine ⟨?_, fun t ht => ?_⟩
  · rw [e, State.chiplet_eq_of_chiplets (State.foldl_chiplets (fun u i => u.flag_chiplets i 6) ..)]
    simp [dark, State.chiplet]
  · rw [e]
    refine State.foldl_hits (P := fun _ => True) (Q := fun u => (u.tile t).r.mode = .fenced) (fun _ _ h => h) (fun u i h => ?_) (fun u _ => ?_)
      (State.mem_everyTileOf (s := dark) ht) trivial
    · rw [mode, h, ite_self]
    · rw [mode, if_pos rfl]

theorem powerLoss_cuts (s : State) (c) : Becomes .powerLoss (.num c) s (s.cutPower c) := by
  intro hi
  simp [execPowerLoss, hi]
theorem hardTrip_cuts {c} {v : Int} (hv : (s.chiplet c).thTrip ≤ v) : Becomes .hardTrip (.reading c v) s (s.cutPower c) := by
  intro hi
  simp [execHardTrip, hi, not_lt.2 hv]
theorem hardTrip_below {c} {v : Int} (hv : v < (s.chiplet c).thTrip) : Becomes .hardTrip (.reading c v) s s := by
  intro hi
  simp [execHardTrip, hi, hv]

theorem watchdogFire_flags (hm : (s.tile k).r.mode ≠ .fenced) (h : (s.tile k).r.missed ≠ 0 ∨ (s.tile k).r.asked ≠ 0) :
    Becomes .watchdogFire (.tile k) s (s.flag k 5) := by
  intro hi
  rw [exec_watchdogFire, execWatchdogFire, hi]
  exact congrArg _ (if_pos (by simp [hm, h]))
theorem watchdogFire_rests (h : (s.tile k).r.mode = .fenced ∨ (s.tile k).r.missed = 0 ∧ (s.tile k).r.asked = 0) :
    Becomes .watchdogFire (.tile k) s s := by
  intro hi
  rw [exec_watchdogFire, execWatchdogFire, hi]
  exact congrArg _ (if_neg (by rcases h with h | ⟨h, h'⟩ <;> simp [*]))

section
variable {n : Nat}

theorem watchdogFire_saving (hm : (s.tile k).r.mode = .stopping) (hs : (s.tile k).r.stopped = n) :
    (s.saveMoves k = false → Becomes .watchdogFire (.tileNum k n) s (s.flag k 5))
    ∧ (s.saveMoves k = true → Becomes .watchdogFire (.tileNum k n) s
        (s.after (s.cluster (clusterOf k)).wdlimit .watchdogFire (.tileNum k n))) := by
  refine ⟨fun h hi => ?_, fun h hi => ?_⟩ <;> simp [execWatchdogFire, hi, hm, hs, h]
theorem watchdogFire_saved (h : (s.tile k).r.mode ≠ .stopping ∨ (s.tile k).r.stopped ≠ n) :
    Becomes .watchdogFire (.tileNum k n) s s := by
  intro hi
  rw [exec_watchdogFire, execWatchdogFire, hi]
  exact congrArg _ (if_pos (by simpa using h))
end
end

/-! ### The recovery sequence (05 R103, R104, R108) -/

/-- An event of a recovery that is not under way changes nothing. -/
theorem recovery_stale {s : State} {k : TileId} {n : Nat} (h : ¬ s.inChain k n = true) :
    ∀ ev ∈ [Instr.recovery, .rebindWaveComplete, .replay, .recoveryRelease], Becomes ev (.tileNum k n) s s := by
  have hc : s.inChain k n = false := by simpa using h
  simp only [List.forall_mem_cons, List.not_mem_nil, false_imp_iff, implies_true, and_true]
  refine ⟨fun hi => ?_, fun hi => ?_, fun hi => ?_, fun hi => ?_⟩
  · simp [execRecovery, hi, hc]
  · simp [execRebindWaveComplete, hi, hc]
  · cases hs : (s.tile k).r.ship <;> simp [execReplay, hi, hc, hs]
  · simp [execRecoveryRelease, hi, hc]

/-- A resident partition that is to lend a tile is suspended. -/
def State.suspendLender (s : State) (c : Nat) : State :=
  if ((s.dev.ctx? c).map Ctx.res) == some .resident then s.after 1 .partitionSuspend (.nums3 c 0 1) else s

theorem State.suspendLender_input (s : State) (c) : (s.suspendLender c).input = s.input := by
  unfold State.suspendLender
  split <;> rfl

/-- What a recovery does about the spare that it has found. -/
def State.takeSpare (s : State) (k : TileId) (n : Nat) (sp : Spare) : State :=
  match sp with
  | .slot p => (s.aim k 0 p).after (s.loadCycles k) .rebindWave (.nums3 k n 0)
  | .tile p => (s.aim k 1 p).after (s.loadCycles k) .rebindWave (.nums3 k n 0)
  | .stay => (s.aim k 4 0).after (s.loadCycles k) .rebindWave (.nums3 k n 0)
  | .dark c => (s.aim k 2 c).after 625000 .spareChipletPowered (.tileNum k c)
  | .borrow c => ((s.suspendLender c).aim k 3 c).after 1024 .recovery (.tileNum k n)
  | .none => s.after 1 .stateLoss (.tileNum k 0xFE)

section
variable {s : State} {k : TileId} {n : Nat} (hc : s.inChain k n = true)
include hc

theorem recovery_givenUp (ht : 3 ≤ (s.tile k).r.tries) : Becomes .recovery (.tileNum k n) s (s.after 1 .stateLoss (.tileNum k 0xFD)) := by
  intro hi
  simp [execRecovery, hi, hc, ht]

section
variable (ht : (s.tile k).r.tries < 3)
include ht

theorem recovery_waits (hl : 64 ≤ (s.targets k).length) : Becomes .recovery (.tileNum k n) s (s.after 1 .recovery (.tileNum k n)) := by
  intro hi
  simp [execRecovery, hi, hc, Nat.not_le.2 ht, hl]

variable (hl : (s.targets k).length < 64)
include hl

theorem recovery_loses (hm : s.mirrorOf k = none ∨ s.extentPoisoned k = true) :
    Becomes .recovery (.tileNum k n) s (s.after 1 .stateLoss (.tileNum k 0xFE)) := by
  intro hi
  have lost : (s.mirrorOf k).isNone = true ∨ s.extentPoisoned k = true := hm.imp_left fun h => by rw [h]; rfl
  simp only [exec_recovery, execRecovery, hi, hc, Bool.not_true, Bool.false_eq_true, if_false, Nat.not_le.2 ht, Nat.not_le.2 hl, if_pos lost]

theorem recovery_takes (hm : (s.mirrorOf k).isSome = true) (hp : s.extentPoisoned k = false) (hn : (s.tile k).r.target = none) :
    Becomes .recovery (.tileNum k n) s (s.takeSpare k n (s.chooseSpare k)) := by
  intro hi
  have kept : ¬ ((s.mirrorOf k).isNone = true ∨ s.extentPoisoned k = true) := by
    rw [Option.isNone_iff_eq_none, ← Option.not_isSome_iff_eq_none]
    simp [hm, hp]
  simp only [exec_recovery, execRecovery, hi, hc, Bool.not_true, Bool.false_eq_true, if_false, Nat.not_le.2 ht, Nat.not_le.2 hl,
    if_neg kept, hn]
  cases s.chooseSpare k with
  | borrow c =>
    exact congrArg (fun x => Host.Outcome.next (((s.suspendLender c).aim k 3 c).after 1024 .recovery x)) ((s.suspendLender_input c).trans hi)
  | _ => rfl
end
end

section
variable {s : State} {k : TileId} {n p : Nat}

theorem State.aim_target (s : State) (k kind p) : ((s.aim k kind p).tile k).r.target = some (kind, p) := by
  rw [State.aim, State.tile_setRouter_self]

/-- The replacement is fixed, and its load begins. -/
theorem State.takeSpare_loads (s : State) (k n) (p kind : Nat) :
    let u := (s.aim k kind p).after (s.loadCycles k) .rebindWave (.nums3 k n 0)
    (u.tile k).r.target = some (kind, p) ∧ s.DueIn u (s.loadCycles k) .rebindWave (.nums3 k n 0) := by
  intro u
  exact ⟨by rw [State.tile_of_tiles (State.after_tiles ..), State.aim_target], State.after_dueIn (s := s) rfl ..⟩

/-- A resident lender is suspended, and the spare looked for again later. -/
theorem State.takeSpare_borrows {y : Ctx} (hy : s.dev.ctx? p = some y) (hr : y.res = .resident) :
    let u := s.takeSpare k n (.borrow p)
    s.DueIn u 1024 .recovery (.tileNum k n) ∧ s.DueIn u 1 .partitionSuspend (.nums3 p 0 1) := by
  have e : s.takeSpare k n (.borrow p) = ((s.after 1 .partitionSuspend (.nums3 p 0 1)).aim k 3 p).after 1024 .recovery (.tileNum k n) := by
    simp [State.takeSpare, State.suspendLender, hy, hr]
  rw [e]
  exact ⟨State.after_dueIn rfl .., (State.after_dueIn (s := s) rfl ..).mono fun x hx => List.mem_append_left _ hx⟩

/-! ### The load and the wave (05 R103, R105, R116) -/

/-- The replacement of tile `k` is loaded from `m`, whose boundary its port holds until its commit. -/
def State.replaced (s : State) (k : TileId) (m : Mirror) : State :=
  (s.setCtx k (s.loaded k m)).setRouter k { (s.tile k).r with ship := some m.ship }

theorem State.replaced_c (s : State) (k m) : ((s.replaced k m).tile k).c = s.loaded k m := by
  rw [State.replaced, State.tile_setRouter_c, State.tile_setCtx_self]

/-- The wave that begins now ends in `d` cycles. -/
def State.waved (s : State) (d : Nat) : State := { s with dev := { s.dev with waveEnd := s.now + d } }

theorem State.waved_tiles (s : State) (d) : (s.waved d).tiles = s.tiles := rfl
theorem State.waved_now (s : State) (d) : (s.waved d).now = s.now := rfl
theorem State.waved_exceptions (s : State) (d) : (s.waved d).dev.exceptions = s.dev.exceptions := rfl

section
variable {m : Mirror} (hm : s.mirrorOf k = some m) (hc : s.inChain k n = true)
include hm hc

theorem rebindWave_local (ht : (s.tile k).r.target = some (0, p)) : Becomes .rebindWave (.nums3 k n 0) s
    (((s.replaced k m).rebind k 0 p).after 0 .rebindWaveComplete (.tileNum k n)) := by
  intro hi
  simp [execRebindWave, hi, hm, hc, ht, State.replaced]

theorem rebindWave_leaves (ht : (s.tile k).r.target = some (1, p)) (hw : s.dev.waveEnd ≤ s.now) : Becomes .rebindWave (.nums3 k n 0) s
    ((((s.replaced k m).rebind k 1 p).waved (2 * s.dev.waveLinks * 3)).after (2 * s.dev.waveLinks * 3) .rebindWaveComplete (.tileNum k n)) := by
  intro hi
  simp [execRebindWave, hi, hm, hc, ht, State.replaced, State.waved, Nat.not_lt.2 hw]

theorem rebindWave_waits (ht : (s.tile k).r.target = some (1, p)) (hw : s.now < s.dev.waveEnd) : Becomes .rebindWave (.nums3 k n 0) s
    ((s.replaced k m).after (s.dev.waveEnd - s.now) .rebindWave (.nums3 k n 1)) := by
  intro hi
  simp [execRebindWave, hi, hm, hc, ht, State.replaced, hw]
end

theorem State.rebind_tiles (s : State) (k kind p) : (s.rebind k kind p).tiles = s.tiles := by
  unfold State.rebind
  split <;> rfl
theorem State.rebind_now (s : State) (k kind p) : (s.rebind k kind p).now = s.now := by
  unfold State.rebind
  split <;> rfl

theorem State.physSlot_rebind (s : State) (k p) : (s.rebind k 0 p).physSlot k = p := by
  simp [State.rebind, State.physSlot]

/-- The exception that the wave spreads is the latest for the tile. -/
theorem State.ptlOf_rebound {s u : State} {k p : Nat} (h : u.dev.exceptions = (s.rebind k 1 p).dev.exceptions) : u.ptlOf k = p := by
  simp [State.rebind, State.ptlOf, State.exceptionOf, Exception.isFor, h]

/-- A local spare takes over at once. -/
theorem rebindWave_local_spec {m : Mirror} (hm : s.mirrorOf k = some m) (hc : s.inChain k n = true)
    (ht : (s.tile k).r.target = some (0, p)) : Happens .rebindWave (.nums3 k n 0) s fun u =>
      u.physSlot k = p ∧ (u.tile k).c = s.loaded k m ∧ s.DueIn u 0 .rebindWaveComplete (.tileNum k n) := by
  refine (rebindWave_local hm hc ht).happens ⟨State.physSlot_rebind .., ?_, State.after_dueIn rfl ..⟩
  rw [State.tile_of_tiles (State.after_tiles ..), State.tile_of_tiles (State.rebind_tiles ..), State.replaced_c]

/-- Another spare takes over when the wave has reached every router. -/
theorem rebindWave_leaves_spec {m : Mirror} (hm : s.mirrorOf k = some m) (hc : s.inChain k n = true)
    (ht : (s.tile k).r.target = some (1, p)) (hw : s.dev.waveEnd ≤ s.now) : Happens .rebindWave (.nums3 k n 0) s fun u =>
      u.ptlOf k = p ∧ (u.tile k).c = s.loaded k m ∧ s.DueIn u (2 * s.dev.waveLinks * 3) .rebindWaveComplete (.tileNum k n) := by
  refine (rebindWave_leaves hm hc ht hw).happens ⟨State.ptlOf_rebound (s := s.replaced k m) ?_, ?_, State.after_dueIn ?_ ..⟩
  · rw [State.after_dev, State.waved_exceptions]
  · rw [State.tile_of_tiles ((State.after_tiles ..).trans ((State.waved_tiles ..).trans (State.rebind_tiles ..))), State.replaced_c]
  · exact (State.waved_now ..).trans (State.rebind_now ..)

theorem rebindWaveComplete_copies (hc : s.inChain k n = true) : Happens .rebindWaveComplete (.tileNum k n) s fun u =>
    s.DueIn u (2 * ((s.tile k).r.source.map LogRec.size).sum) .replay (.tileNum k n) := by
  intro hi
  refine ⟨_, by rw [exec_rebindWaveComplete, execRebindWaveComplete, hi]; exact if_neg (by simp [hc]), ?_⟩
  exact State.after_dueIn rfl ..

/-! ### Replay (05 R106) -/

theorem State.joinTurns_tiles (s : State) (k) : (s.joinTurns k).tiles = s.tiles := by
  unfold State.joinTurns
  split <;> rfl
theorem State.thaw_r (s : State) (k) : ((s.thaw k).tile k).r = (s.tile k).r :=
  (congrArg Tile.r (State.tile_setCtx_self ..)).trans rfl

theorem State.startReplay_router (s : State) (k m f xs n) :
    let r := ((s.startReplay k m f xs n).tile k).r
    (r.mode, r.replay, r.cyc, r.fence) = (.live, true, m.cyc, f) ∧ r.script = xs ∧ r.skip = n := by
  rw [State.startReplay]
  dsimp only
  rw [State.tile_of_tiles (State.joinTurns_tiles ..), State.thaw_r, State.tile_setRouter_self]
  exact ⟨rfl, rfl, rfl⟩

section
variable {sh : Ship} (hs : (s.tile k).r.ship = some sh) (hc : s.inChain k n = true)
include hs hc

theorem replay_nothing (hf : (s.tile k).r.fence < sh.cyc) : Happens .replay (.tileNum k n) s fun u =>
    s.DueIn u 1 .recoveryRelease (.tileNum k n) := by
  intro hi
  refine ⟨_, by rw [exec_replay, execReplay, hi]; dsimp only; rw [hs]; exact (if_neg (by simp [hc])).trans (if_pos hf), ?_⟩
  exact State.after_dueIn rfl ..

theorem replay_starts (hf : sh.cyc ≤ (s.tile k).r.fence) : Becomes .replay (.tileNum k n) s
    (s.startReplay k sh (s.tile k).r.fence (s.tile k).r.source (s.tile k).r.total) := by
  intro hi
  simp [execReplay, hi, hs, hc, Nat.not_lt.2 hf]
end
end

/-! ### A boundary that is ordered from outside (05 R107, R112) -/

section
variable (s : State) (k : TileId)

theorem State.note_sameMemory (ev arg) : SameMemory s (s.note k ev arg) := s.log_sameMemory ..

theorem State.requestBoundary_sameMemory : SameMemory s (s.requestBoundary k) := by
  unfold State.requestBoundary
  dsimp only
  (repeat' split) <;> exact State.setTile_sameMemory rfl

/-- A request leaves what it finds dirty, and a migration that is asked for. -/
theorem State.requestBoundary_keeps :
    ((s.requestBoundary k).tile k).c.dirty = (s.tile k).c.dirty ∧ ((s.requestBoundary k).tile k).r.moving = (s.tile k).r.moving := by
  unfold State.requestBoundary
  dsimp only
  (repeat' split) <;> simp
theorem State.requestBoundary_agenda : (s.requestBoundary k).agenda = s.agenda := by
  unfold State.requestBoundary
  dsimp only
  (repeat' split) <;> rfl

/-- Every mutable line of the tile is dirty. -/
def State.allDirty (s : State) (k : TileId) : State :=
  s.setCtx k { (s.tile k).c with
    dirty := (s.tile k).c.dirty ++ (allLines (s.tile k).c.poolcfg).filter (fun l => !(s.tile k).c.dirty.contains l) }

theorem State.reprotect_eq : s.reprotect k = let u := (s.note k .deferredBoundary (.tileNum k 1)).allDirty k
    (u.setRouter k { (u.tile k).r with ship := none }).requestBoundary k := rfl

theorem State.allDirty_dirty {l : Nat} (h : l ∈ allLines (s.tile k).c.poolcfg) : l ∈ ((s.allDirty k).tile k).c.dirty := by
  rw [State.allDirty, State.tile_setCtx_self, List.mem_append, List.mem_filter]
  by_cases hd : l ∈ (s.tile k).c.dirty
  · exact .inl hd
  · exact .inr ⟨h, by simpa using hd⟩

/-- The boundary that is taken for a mirror that is lost ships every mutable line. -/
theorem State.reprotect_dirty {l : Nat} (h : l ∈ allLines (s.tile k).c.poolcfg) : l ∈ ((s.reprotect k).tile k).c.dirty := by
  rw [State.reprotect_eq]
  dsimp only
  rw [(State.requestBoundary_keeps ..).1, State.tile_setRouter_c]
  refine State.allDirty_dirty _ _ ?_
  rw [State.note, State.tile_logRec_c]
  exact h

theorem State.reprotect_spec : SameMemory s (s.reprotect k) ∧ (s.reprotect k).agenda = s.agenda := by
  have dirtied (u : State) : SameMemory u (u.allDirty k) := State.setTile_sameMemory rfl
  rw [State.reprotect_eq]
  refine ⟨(s.note_sameMemory ..).trans ((dirtied _).trans ((State.setRouter_sameMemory ..).trans (State.requestBoundary_sameMemory ..))), ?_⟩
  exact (State.requestBoundary_agenda ..).trans (State.note_agenda ..)

theorem State.reprotect_get?_ne {j : TileId} (h : j ≠ k) : (s.reprotect k).tiles.get? j = s.tiles.get? j := by
  rw [State.reprotect_eq]
  dsimp only
  rw [State.requestBoundary_get?_ne _ h]
  exact (Table.get?_set_ne _ _ h).trans ((Table.get?_set_ne _ _ h).trans (State.note_get?_ne _ _ _ h))

/-- A tile that may take no order keeps it for its release; another is protected anew. -/
theorem State.orderBoundary_one : s.orderBoundary k 1 = s.reprotect k
    ∨ s.orderBoundary k 1 = s.setRouter k { (s.tile k).r with held := (s.tile k).r.held ++ [(.deferredBoundary, .tileNum k 1)] } := by
  unfold State.orderBoundary
  dsimp only
  split
  · exact .inr rfl
  · exact .inl rfl

theorem State.orderBoundary_one_spec : SameMemory s (s.orderBoundary k 1) ∧ (s.orderBoundary k 1).agenda = s.agenda
    ∧ ∀ j, j ≠ k → (s.orderBoundary k 1).tile j = s.tile j := by
  rcases s.orderBoundary_one k with h | h <;> rw [h]
  · exact ⟨(s.reprotect_spec k).1, (s.reprotect_spec k).2, fun j hj => State.listed_of_get?_eq (State.reprotect_get?_ne _ _ hj)⟩
  · exact ⟨State.setRouter_sameMemory .., rfl, fun j hj => State.tile_setRouter_ne _ _ hj⟩
end

section
variable {s : State} {k : TileId} {n : Nat}

theorem State.orderBoundary_one_dirty (hm : (s.tile k).r.mode ≠ .fenced) (hr : (s.tile k).r.replay = false) {l : Nat}
    (h : l ∈ allLines (s.tile k).c.poolcfg) : l ∈ ((s.orderBoundary k 1).tile k).c.dirty := by
  have e : s.orderBoundary k 1 = s.reprotect k := by simp [State.orderBoundary, hm, hr]
  rw [e]
  exact State.reprotect_dirty _ _ h

/-! ### The release (05 R105, R107, 18 R374) -/

/-- `u` comes from `s` by putting events on the agenda. -/
structure State.Schedules (s u : State) : Prop where
  tiles : u.tiles = s.tiles
  bulk : u.bulk = s.bulk
  agenda : ∀ x ∈ s.agenda, x ∈ u.agenda

namespace State.Schedules

theorem refl (s : State) : s.Schedules s := ⟨rfl, rfl, fun _ h => h⟩
theorem trans {s t u : State} (h : s.Schedules t) (h' : t.Schedules u) : s.Schedules u :=
  ⟨h'.tiles.trans h.tiles, h'.bulk.trans h.bulk, fun x hx => h'.agenda x (h.agenda x hx)⟩
theorem after (s : State) (n ev arg) : s.Schedules (s.after n ev arg) := ⟨rfl, rfl, fun _ h => List.mem_append_left _ h⟩
theorem lookAt (s : State) (ctx lix) : s.Schedules (s.lookAt ctx lix) := (after ..).trans (after ..)
theorem sendOn (s : State) (src dst cls n ev arg) : s.Schedules (s.sendOn src dst cls n ev arg) :=
  ⟨rfl, rfl, fun _ h => List.mem_append_left _ h⟩
theorem foldl {α : Type} {f : State → α → State} (hf : ∀ (s : State) x, s.Schedules (f s x)) (l : List α) (s : State) :
    s.Schedules (l.foldl f s) :=
  List.foldlRecOn l f (refl s) fun _ h x _ => h.trans (hf _ x)
theorem sameMemory {s u : State} (h : s.Schedules u) : SameMemory s u := .of_eq h.tiles h.bulk

end State.Schedules

/-- The router of a tile that is released: a boundary that was voided or deferred is taken now. -/
def Router.released (r : Router) : Router :=
  let due := r.deferred && r.ship.isNone
  { r with
    mode := if r.stopped = 0 then .live else .stopping
    tries := 0, moving := false, relief := false, target := none, source := [], total := 0, want := due, deferred := r.deferred && !due }

/-- Tile `k` runs live again; what it counts goes on, unless its replay has let it. -/
def State.released (s : State) (k : TileId) : State :=
  let r := (s.tile k).r
  let s := s.setRouter k r.released
  (if r.fence < r.base then s.thaw k else s).joinTurns k

/-- Threads of tile `k` that wait for the reduction of a group look, and then the launches of its context. -/
def State.lookReductions (s : State) (k : TileId) : State :=
  (List.finRange 16).foldl (fun s j =>
    match ((s.tile k).slot j).bind Thread.park with
    | some ⟨.redg .., tok, _, _⟩ => s.after 1 .reductionResult (.ref { tile := k, tok := tok })
    | _ => s) s
def State.lookLaunches (s : State) (ctx : Nat) : State :=
  (((s.dev.ctx? ctx).map Ctx.launches).getD []).foldl (fun s l => s.lookAt ctx l.1) s

/-- The mask count of its chiplet goes to a tile that has another one. -/
def State.sendMaskTo (s : State) (k : TileId) (mask : Nat) : State :=
  let m := (s.chiplet (s.chipOf k)).mask
  if m = mask then s else s.sendOn memoryPort k 0 (3 * s.dieLinks (clusterOf k)) .maskChange (.tileNum k m)

/-- What a release puts on the agenda; its held packets are due in `d` cycles. -/
def State.announce (s : State) (k : TileId) (n d ctx mask : Nat) : State :=
  let s := (s.after d .heldPacketDelivery (.tileNum k n)).after 1 .captureEntryFree (.tile k)
  (((s.lookReductions k).lookLaunches ctx).after 1 .population (.num ctx)).sendMaskTo k mask

/-- Cycles until the held packets of a tile that is released go in. -/
def State.heldDelay (s : State) (k : TileId) : Nat :=
  (if (s.tile k).r.deferred && (s.tile k).r.ship.isNone then 1 else 0)
    + match (s.tile k).r.target with | some (1, _) => s.forwardCycles k (placeAt (s.gridOf (clusterOf k) k)) | _ => 0

theorem recoveryRelease_eq (hc : s.inChain k n = true) : Becomes .recoveryRelease (.tileNum k n) s
    (((s.released k).announce k n (s.heldDelay k) (s.tile k).r.ctx (s.tile k).r.mask).orderBoundary (buddyOf k) 1) := by
  intro hi
  rw [exec_recoveryRelease, execRecoveryRelease, hi]
  refine (if_neg (by simp [hc])).trans ?_
  unfold State.announce State.lookReductions State.lookLaunches State.sendMaskTo State.released State.heldDelay
  rfl

theorem State.lookReductions_schedules (s : State) (k) : s.Schedules (s.lookReductions k) := by
  refine .foldl (fun u j => ?_) _ s
  split
  · exact .after ..
  · exact .refl u
theorem State.lookLaunches_schedules (s : State) (ctx) : s.Schedules (s.lookLaunches ctx) := .foldl (fun _ _ => .lookAt ..) _ s
theorem State.sendMaskTo_schedules (s : State) (k mask) : s.Schedules (s.sendMaskTo k mask) := by
  unfold State.sendMaskTo
  dsimp only
  split
  · exact .refl s
  · exact .sendOn ..

theorem State.announce_schedules (s : State) (k n d ctx mask) : s.Schedules (s.announce k n d ctx mask)
    ∧ ∃ x ∈ (s.announce k n d ctx mask).agenda, x.ev = .heldPacketDelivery ∧ x.arg = .tileNum k n := by
  have rest : (s.after d .heldPacketDelivery (.tileNum k n)).Schedules (s.announce k n d ctx mask) := by
    refine (State.Schedules.after _ 1 .captureEntryFree (.tile k)).trans ?_
    refine (State.lookReductions_schedules _ k).trans ((State.lookLaunches_schedules _ ctx).trans ?_)
    exact (State.Schedules.after _ 1 .population (.num ctx)).trans (State.sendMaskTo_schedules _ k mask)
  exact ⟨(State.Schedules.after ..).trans rest, _, rest.agenda _ (List.mem_append_right _ (List.mem_singleton.2 rfl)), rfl, rfl⟩

theorem State.thaw_sameMemory (s : State) (k) : SameMemory s (s.thaw k) :=
  (State.setTile_sameMemory (t := { s.tile k with c := { (s.tile k).c with frozen := [] } }) rfl).trans (.of_eq rfl rfl)

theorem State.released_spec (s : State) (k) : ((s.released k).tile k).r = (s.tile k).r.released
    ∧ (∀ j, j ≠ k → (s.released k).tile j = s.tile j) ∧ SameMemory s (s.released k) := by
  have joined (u : State) : SameMemory u (u.joinTurns k) := .of_eq (State.joinTurns_tiles ..) (State.joinTurns_bulk ..)
  rw [State.released]
  simp only [State.tile_of_tiles (State.joinTurns_tiles ..)]
  split
  · refine ⟨?_, fun j hj => ?_, (State.setRouter_sameMemory ..).trans ((State.thaw_sameMemory ..).trans (joined _))⟩
    · rw [State.thaw_r, State.tile_setRouter_self]
    · exact (State.tile_setCtx_ne _ _ hj).trans (State.tile_setRouter_ne _ _ hj)
  · refine ⟨?_, fun j hj => ?_, (State.setRouter_sameMemory ..).trans (joined _)⟩
    · rw [State.tile_setRouter_self]
    · rw [State.tile_setRouter_ne _ _ hj]

/-- A released tile runs live, or saves what a pre-emption stopped; its held packets are due; its buddy, if it runs, ships every line. -/
theorem recoveryRelease_spec (hc : s.inChain k n = true) : Happens .recoveryRelease (.tileNum k n) s fun u =>
    (u.tile k).r.mode = (if (s.tile k).r.stopped = 0 then .live else .stopping) ∧ (u.tile k).r.tries = 0
    ∧ (∃ x ∈ u.agenda, x.ev = .heldPacketDelivery ∧ x.arg = .tileNum k n) ∧ SameMemory s u
    ∧ ((s.tile (buddyOf k)).r.mode ≠ .fenced → (s.tile (buddyOf k)).r.replay = false →
        ∀ l ∈ allLines (s.tile (buddyOf k)).c.poolcfg, l ∈ (u.tile (buddyOf k)).c.dirty) := by
  intro hi
  obtain ⟨hr, hj, hm⟩ := s.released_spec k
  obtain ⟨hv, hx⟩ := (s.released k).announce_schedules k n (s.heldDelay k) (s.tile k).r.ctx (s.tile k).r.mask
  refine ⟨_, recoveryRelease_eq hc hi, ?_⟩
  generalize (s.released k).announce k n (s.heldDelay k) (s.tile k).r.ctx (s.tile k).r.mask = v at hv hx ⊢
  obtain ⟨hm', ha, hk⟩ := v.orderBoundary_one_spec (buddyOf k)
  have hrk : ((v.orderBoundary (buddyOf k) 1).tile k).r = (s.tile k).r.released := by
    rw [hk k (buddyOf_ne k).symm, State.tile_of_tiles hv.tiles, hr]
  have hb : v.tile (buddyOf k) = s.tile (buddyOf k) := by rw [State.tile_of_tiles hv.tiles, hj _ (buddyOf_ne k)]
  rw [hrk, ha]
  refine ⟨rfl, rfl, hx, hm.trans (hv.sameMemory.trans hm'), fun hmode hreplay l hl => ?_⟩
  rw [← hb] at hmode hreplay hl
  exact State.orderBoundary_one_dirty hmode hreplay hl

/-! ### What comes after a recovery (05 R104, R105) -/

theorem spareChipletPowered_goes {c : Nat} : Happens .spareChipletPowered (.tileNum k c) s fun u =>
    (u.chiplet c).powered = true ∧ ((s.tile k).r.target = some (2, c) → s.DueIn u 1 .recovery (.tileNum k (s.tile k).r.chain)) := by
  intro hi
  rw [Completes, exec_spareChipletPowered, execSpareChipletPowered, hi]
  refine ⟨_, rfl, ?_, fun ht => ?_⟩
  · dsimp only
    split <;> exact congrArg (fun x : Option Chiplet => (x.getD Chiplet.reset).powered) (Table.get?_set_self ..)
  · exact (if_pos (c := (s.tile k).r.target = some (2, c)) ht).symm ▸ State.after_dueIn rfl ..

/-- The first packet that tile `k` holds goes in, and the next one a cycle later. -/
def State.heldIn (s : State) (k : TileId) (n : Nat) (x : Instr × Payload) (rest : List (Instr × Payload)) : State :=
  let u := (s.setRouter k { (s.tile k).r with held := rest }).after 0 x.1 x.2
  if rest.isEmpty then u else u.after 1 .heldPacketDelivery (.tileNum k n)

theorem State.heldIn_spec (s : State) (k n x rest) : ((s.heldIn k n x rest).tile k).r.held = rest
    ∧ s.DueIn (s.heldIn k n x rest) 0 x.1 x.2 ∧ (rest ≠ [] → s.DueIn (s.heldIn k n x rest) 1 .heldPacketDelivery (.tileNum k n)) := by
  let u := (s.setRouter k { (s.tile k).r with held := rest }).after 0 x.1 x.2
  have hu : (u.tile k).r.held = rest := by rw [State.tile_of_tiles (State.after_tiles ..), State.tile_setRouter_self]
  have hd : s.DueIn u 0 x.1 x.2 := State.after_dueIn (State.setRouter_now ..) ..
  have e : s.heldIn k n x rest = if rest.isEmpty then u else u.after 1 .heldPacketDelivery (.tileNum k n) := rfl
  rw [e]
  cases rest with
  | nil => exact ⟨hu, hd, fun h => absurd rfl h⟩
  | cons y rest =>
    refine ⟨?_, hd.mono fun z hz => List.mem_append_left _ hz, fun _ => State.after_dueIn (s := s) (u := u) rfl ..⟩
    exact (congrArg (fun t : Tile => t.r.held) (State.tile_of_tiles (State.after_tiles ..) k)).trans hu

theorem heldPacketDelivery_one {x : Instr × Payload} {rest : List (Instr × Payload)} (hh : (s.tile k).r.held = x :: rest)
    (hm : (s.tile k).r.mode ≠ .fenced) (hr : (s.tile k).r.replay = false) (hn : (s.tile k).r.chain = n) (hp : x.1 ≠ .population)
    (hg : x.1 ≠ .gangPreempt) : Becomes .heldPacketDelivery (.tileNum k n) s (s.heldIn k n x rest) := by
  intro hi
  have alone : rest.takeWhile (fun y => x.1 == .population && y.1 == .population) = [] := by
    cases rest <;> simp [hp]
  rw [exec_heldPacketDelivery, execHeldPacketDelivery]
  simp only [hi, hh]
  rw [if_neg (by simp [hm, hr, hn]), alone]
  simp [State.heldIn, hg, hi]

theorem heldPacketDelivery_none (hh : (s.tile k).r.held = []) : Becomes .heldPacketDelivery (.tileNum k n) s s := by
  intro hi
  simp [execHeldPacketDelivery, hi, hh]

/-! ### Planned migration (05 R112) -/

theorem State.orderBoundary_zero (hm : (s.tile k).r.mode = .live) (hr : (s.tile k).r.replay = false) :
    s.orderBoundary k 0 = (s.note k .deferredBoundary (.tileNum k 0)).requestBoundary k := by
  simp [State.orderBoundary, hm, hr]

section
variable (hm : (s.tile k).r.mode = .live) (hr : (s.tile k).r.replay = false)
include hm hr

/-- A tile that is to be moved asks for a boundary. -/
theorem plannedMigration_asks : Happens .plannedMigration (.tile k) s fun u =>
    (u.tile k).r.moving = true ∧ ((s.tile k).r.ship = none → (u.tile k).r.want = true)
    ∧ ((s.tile k).r.ship.isSome = true → (u.tile k).r.deferred = true) := by
  intro hi
  let m := s.setRouter k { (s.tile k).r with moving := true }
  have hk : (m.tile k).r = { (s.tile k).r with moving := true } := congrArg Tile.r (State.tile_setRouter_self ..)
  obtain ⟨l, hl⟩ := m.note_router k .deferredBoundary (.tileNum k 0)
  rw [hk] at hl
  refine ⟨m.orderBoundary k 0, by simp [execPlannedMigration, hi, hm, hr, m], ?_⟩
  rw [State.orderBoundary_zero (by rw [hk]; exact hm) (by rw [hk]; exact hr)]
  generalize m.note k .deferredBoundary (.tileNum k 0) = v at hl ⊢
  have hv : (v.tile k).r.mode = .live := by rw [hl]; exact hm
  refine ⟨by rw [(State.requestBoundary_keeps ..).2, hl], fun hs => ?_, fun hs => ?_⟩
  · exact State.requestBoundary_wanted hv (by rw [hl]; exact hs)
  · rw [State.requestBoundary_deferred (.inl ⟨hv, by rw [hl]; exact hs⟩), State.tile_setRouter_self]
end

theorem plannedMigration_rests (h : (s.tile k).r.mode ≠ .live ∨ (s.tile k).r.replay = true) : Becomes .plannedMigration (.tile k) s s := by
  intro hi
  rw [exec_plannedMigration, execPlannedMigration, hi]
  exact congrArg _ (if_pos (by simpa using h))
end

/-! ### Loss of state (05 R108, R113) -/

section
variable {s : State} {n j : Nat} {l : Launch}

theorem State.launch?_withLaunch_ne {i : Nat} (h : j ≠ i) (f) : (s.withLaunch n i f).launch? n j = s.launch? n j := by
  unfold State.withLaunch
  split
  · rfl
  next c hc =>
    split
    · rfl
    · rw [State.launch?, State.launch?, Device.ctx?, Table.get?_set_self, hc]
      exact Table.get?_set_ne _ _ h

theorem State.launch?_stopLaunch_ne {i : Nat} (h : j ≠ i) (lid why) : (s.stopLaunch n i lid why).launch? n j = s.launch? n j := by
  have other : (s.stopLaunch n i lid why).launch? n j = ((s.dropAll n i lid).discard n lid).launch? n j := State.launch?_withLaunch_ne h _
  exact other.trans (State.launch?_of_records (s := s) (s.dropAll_records i lid n) n j)

/-- A launch that is stopped is aborted, and the others stand as they were. -/
theorem State.stopLaunch_abort (hl : s.launch? n j = some l) (i lid why) :
    ((s.stopLaunch n i lid why).launch? n j).map Launch.abort = some (if j = i then some (l.abort.getD why) else l.abort) := by
  split
  · next h => exact h ▸ State.launch?_stopLaunch hl ..
  · next h => rw [State.launch?_stopLaunch_ne h, hl]; rfl

/-- The launch at that index is not aborted, or is for this reason. -/
def State.MayAbort (s : State) (n j : Nat) (why : Nat × Nat) : Prop :=
  ∃ l, s.launch? n j = some l ∧ (l.abort = none ∨ l.abort = some why)
/-- The launch at that index is aborted for this reason. -/
def State.Aborted (s : State) (n j : Nat) (why : Nat × Nat) : Prop := (s.launch? n j).map Launch.abort = some (some why)

variable {why : Nat × Nat}

theorem State.MayAbort.stop (h : s.MayAbort n j why) (i lid) :
    (s.stopLaunch n i lid why).MayAbort n j why ∧ (j = i → (s.stopLaunch n i lid why).Aborted n j why) := by
  obtain ⟨l, hl, ha⟩ := h
  have hd : l.abort.getD why = why := by rcases ha with ha | ha <;> rw [ha] <;> rfl
  have stopped := State.stopLaunch_abort hl i lid why
  rw [hd] at stopped
  refine ⟨?_, fun hi => stopped.trans (by rw [if_pos hi])⟩
  obtain ⟨m, hm, e⟩ := Option.map_eq_some_iff.1 stopped
  refine ⟨m, hm, ?_⟩
  rw [e]
  split
  · exact .inr rfl
  · exact ha

theorem State.Aborted.stop (h : s.Aborted n j why) (i lid) : (s.stopLaunch n i lid why).Aborted n j why := by
  obtain ⟨l, hl, ha⟩ := Option.map_eq_some_iff.1 h
  refine (State.stopLaunch_abort hl i lid why).trans ?_
  rw [ha]
  exact congrArg some (ite_self _)

/-- Every launch of a context that loses its state is aborted, unless it was already. -/
theorem State.stopContext_aborts (hl : s.launch? n j = some l) (ha : l.abort = none) (d : Nat) :
    (s.stopContext n d).Aborted n j (statusFaulted, d) := by
  obtain ⟨c, hc, hj⟩ := Option.bind_eq_some_iff.1 hl
  have may (u : State) (x : Nat × Launch) (h : u.MayAbort n j (statusFaulted, d)) :
      (u.stopLaunch n x.1 x.2.lid (statusFaulted, d)).MayAbort n j (statusFaulted, d) := (h.stop ..).1
  have keeps (u : State) (x : Nat × Launch) (h : u.Aborted n j (statusFaulted, d)) :
      (u.stopLaunch n x.1 x.2.lid (statusFaulted, d)).Aborted n j (statusFaulted, d) := h.stop ..
  have aborts (u : State) (h : u.MayAbort n j (statusFaulted, d)) : (u.stopLaunch n j l.lid (statusFaulted, d)).Aborted n j (statusFaulted, d) :=
    (h.stop j l.lid).2 rfl
  have hits := State.foldl_hits (f := fun u (x : Nat × Launch) => State.stopLaunch u n x.1 x.2.lid (statusFaulted, d)) (i := (j, l))
    (P := fun u => u.MayAbort n j (statusFaulted, d)) (Q := fun u => u.Aborted n j (statusFaulted, d)) may keeps aborts
    (Table.mem_of_get? hj) ⟨l, hl, .inl ha⟩
  rw [State.stopContext, hc]
  exact hits

theorem State.stopContext_cluster (s : State) (n d cl) : (s.stopContext n d).cluster cl = s.cluster cl := by
  unfold State.stopContext
  split
  · rfl
  · exact State.foldl_reads (fun u => u.cluster cl) (fun u x => State.stopLaunch_cluster ..) _ s
end

section
variable {s : State} {k : TileId}

/-- The position of tile `k` has no working tile. -/
def State.loseSlot (s : State) (k : TileId) : State :=
  let c := s.cluster (clusterOf k)
  let e : SlotMap := (c.slotMap.get? (ltnOf k % 32)).getD { pslot := ltnOf k % 32, v := true, lost := false }
  s.setCluster (clusterOf k) { c with slotMap := c.slotMap.set (ltnOf k % 32) { e with lost := true } }

/-- What tile `k` held and kept is gone. -/
def State.loseTile (s : State) (k : TileId) : State :=
  let s := s.fence k (s.tile k).r.cause
  s.setTile k { c := { TileCtx.reset with ivn := (s.tile k).c.ivn }, r := { (s.tile k).r with held := [] } }

/-- The partitions that no longer fit are to be suspended. -/
def State.makeRoom (s : State) : State := s.overfull.foldl (fun s n => s.after 1 .partitionSuspend (.nums3 n 0 1)) s

theorem stateLoss_loses {d : Nat} (hl : s.isLost k = false) (ht : (s.tiles.get? k).isSome = true) : Becomes .stateLoss (.tileNum k d) s
    (((s.loseSlot k).loseTile k).stopContext (s.tile k).r.ctx d).makeRoom := by
  intro hi
  rw [exec_stateLoss, execStateLoss, hi]
  refine (if_neg (by simp [hl])).trans ((if_neg ?_).trans rfl)
  rw [State.setCluster_tiles, Option.isNone_iff_eq_none]
  intro h
  rw [h] at ht
  cases ht

theorem stateLoss_again {d : Nat} (hl : s.isLost k = true) : Becomes .stateLoss (.tileNum k d) s s := by
  intro hi
  simp [execStateLoss, hi, hl]

theorem State.makeRoom_reads {α : Type} (p : State → α) (hp : ∀ u n, p (u.after 1 .partitionSuspend (.nums3 n 0 1)) = p u) (s : State) :
    p s.makeRoom = p s :=
  State.foldl_reads (f := fun u n => u.after 1 .partitionSuspend (.nums3 n 0 1)) p hp _ s
theorem State.makeRoom_cluster (s : State) (cl) : s.makeRoom.cluster cl = s.cluster cl := s.makeRoom_reads (·.cluster cl) fun _ _ => rfl
theorem State.makeRoom_launch? (s : State) (n j) : s.makeRoom.launch? n j = s.launch? n j := s.makeRoom_reads (·.launch? n j) fun _ _ => rfl
theorem State.loseTile_clusters (s : State) (k) : (s.loseTile k).clusters = s.clusters := rfl
theorem State.loseTile_dev (s : State) (k) : (s.loseTile k).dev = s.dev := rfl

theorem State.loseSlot_lost (s : State) (k) :
    (((s.loseSlot k).cluster (clusterOf k)).slotMap.get? (ltnOf k % 32)).map SlotMap.lost = some true := by
  rw [State.loseSlot, State.cluster_setCluster_self, Table.get?_set_self]
  rfl

theorem stateLoss_spec {d : Nat} (hl : s.isLost k = false) (ht : (s.tiles.get? k).isSome = true) :
    Happens .stateLoss (.tileNum k d) s fun u =>
      ((u.cluster (clusterOf k)).slotMap.get? (ltnOf k % 32)).map SlotMap.lost = some true
      ∧ ∀ l j, s.launch? (s.tile k).r.ctx j = some l → l.abort = none →
          (u.launch? (s.tile k).r.ctx j).map Launch.abort = some (some (1, d)) := by
  refine (stateLoss_loses hl ht).happens ⟨?_, fun l j h ha => ?_⟩
  · rw [State.makeRoom_cluster, State.stopContext_cluster, State.cluster, State.loseTile_clusters]
    exact State.loseSlot_lost ..
  · rw [State.makeRoom_launch?]
    refine State.stopContext_aborts (Eq.trans ?_ h) ha d
    rw [State.launch?, State.loseTile_dev]
    rfl

/-! ### Captures (05 R115, 09 R188) -/

theorem incidentCapture_keeps {m : Mirror} {a : Nat} (hm : (s.tile k).r.mode = .fenced) (hv : (s.tile k).r.moving = false)
    (hk : s.mirrorOf k = some m) : Happens .incidentCapture (.tileNum k a) s fun u => ∃ x, u.dev.incidents = s.dev.incidents ++ [x]
      ∧ (x.tile, x.at_, x.cause, x.fence, x.mirror, x.source) = (k, a, (s.tile k).r.cause, (s.tile k).r.fence, m, (s.tile k).r.source) := by
  intro hi
  refine ⟨s.captureIncident k a, by simp [execIncidentCapture, hi, hm, hv], ?_⟩
  rw [State.captureIncident, hk]
  exact ⟨_, rfl, rfl⟩

theorem incidentCapture_crash {n a : Nat} {x : CrashRec} {rest} (hc : (s.cluster n).crash = x :: rest) :
    Happens .incidentCapture (.nums n a) s fun u =>
      (u.cluster n).crash = rest ∧ u.cellar = (s.cellarWrite a (x.body ++ leBytes 4 x.crc.toNat)).cellar := by
  intro hi
  refine ⟨(s.setCluster n { s.cluster n with crash := rest }).cellarWrite a (x.body ++ leBytes 4 x.crc.toNat), ?_, ?_, rfl⟩
  · simp [execIncidentCapture, hi, State.saveCrash, hc]
  · exact congrArg Cluster.crash (State.cluster_setCluster_self ..)

theorem incidentReplay_asks {n t : Nat} {x : Incident} (hx : s.dev.incidents[n]? = some x) (hf : s.freeTile t = true) :
    Becomes .incidentReplay (.nums n t) s (s.after (x.fence + 2 - x.mirror.cyc) .incidentReplay (.tileNum t n)) := by
  intro hi
  simp [execIncidentReplay, hi, hx, hf]

theorem incidentReplay_answers (n p : Nat) : Happens .incidentReplay (.nums3 k n p) s fun u =>
    u.dev.replays = s.dev.replays ++ [(n, if p = 0 then none else some (p - 1))] := by
  intro hi
  exact ⟨_, by rw [exec_incidentReplay, execIncidentReplay, hi], rfl⟩

/-! ### Tables and links (04 R69, R77, R78) -/

section
variable (cl i w : Word)

/-- A write to a table arrives, and takes effect a cycle later. -/
theorem rebindTableWrite_arrives {p : Nat} (hp : p < 3) : Becomes .rebindTableWrite (.words p [cl, i, w]) s
    (s.after 1 .rebindTableWrite (.words (p + 4) [cl, i, w])) := by
  intro hi
  interval_cases p <;> simp [execRebindTableWrite, hi]

theorem rebindTableWrite_chip (h : i.toNat < 136) : Happens .rebindTableWrite (.words 4 [cl, i, w]) s fun u =>
    (u.cluster cl.toNat).chipMap.get? i.toNat = some { pslot := w.toNat % 2 ^ 8, v := w.getLsbD 8, lost := w.getLsbD 9 } := by
  intro hi
  simp [Completes, execRebindTableWrite, hi, Nat.not_le.2 h, bitsOf_low]

theorem rebindTableWrite_slot (h : i.toNat < 34) : Happens .rebindTableWrite (.words 5 [cl, i, w]) s fun u =>
    (u.cluster cl.toNat).slotMap.get? i.toNat = some { pslot := w.toNat % 2 ^ 6, v := w.getLsbD 6, lost := w.getLsbD 7 } := by
  intro hi
  simp [Completes, execRebindTableWrite, hi, Nat.not_le.2 h, bitsOf_low]

theorem rebindTableWrite_exception (h : i.toNat < 1024) : Happens .rebindTableWrite (.words 6 [cl, i, w]) s fun u =>
    (u.cluster cl.toNat).exceptions.get? i.toNat = some { ltn := w.toNat % 2 ^ 18, ptl := w.toNat / 2 ^ 18 % 2 ^ 20, v := w.getLsbD 38
                                                          fwd := w.getLsbD 39, shd := w.getLsbD 40, since := s.now } := by
  intro hi
  simp [Completes, execRebindTableWrite, hi, Nat.not_le.2 h, bitsOf]
end

section
variable (n c : Nat)

theorem State.routerLost_cluster (s : State) (n cl) : (s.routerLost n).cluster cl = s.cluster cl :=
  State.foldl_reads (f := fun u i => u.after 1 .stateLoss (.tileNum (n * 32 + i) 0xFE)) (·.cluster cl) (fun _ _ => rfl) _ s

/-- A resend that is asked for counts, and the third in a row loses the router. -/
theorem linkResend_fails {p : Nat} (hp : p ≠ 1) : Happens .linkResend (.nums3 n c p) s fun u =>
    (((u.cluster n).link c).resends, ((u.cluster n).link c).failing) = (((s.cluster n).link c).resends + 1, ((s.cluster n).link c).failing + 1)
    ∧ (2 ≤ ((s.cluster n).link c).failing → ∀ i, i < 32 → s.DueIn u 1 .stateLoss (.tileNum (n * 32 + i) 0xFE)) := by
  intro hi
  refine ⟨_, by rw [exec_linkResend, execLinkResend, hi]; exact if_neg hp, ?_⟩
  have hu := State.link_setLink s n c { (s.cluster n).link c with
    resends := ((s.cluster n).link c).resends + 1, failing := ((s.cluster n).link c).failing + 1 }
  have hn : (s.setLink n c { (s.cluster n).link c with
    resends := ((s.cluster n).link c).resends + 1, failing := ((s.cluster n).link c).failing + 1 }).now = s.now := rfl
  generalize s.setLink n c _ = u at hu hn ⊢
  refine ⟨?_, fun h j hj => ?_⟩
  · split <;> simp only [State.routerLost_cluster, hu]
  · rw [if_pos (by omega)]
    exact State.routerLost_dueIn hn n hj

theorem linkResend_succeeds : Happens .linkResend (.nums3 n c 1) s fun u => ((u.cluster n).link c).failing = 0 := by
  intro hi
  refine ⟨_, by rw [exec_linkResend, execLinkResend, hi]; exact if_pos rfl, ?_⟩
  exact congrArg LinkState.failing (State.link_setLink ..)
end
end

/-- Settles O52, clause by clause from the lemmas above: a flag by `State.flag_fences`, the recovery by its steps, a release by
`recoveryRelease_spec`, and a loss of state by `stateLoss_spec`. -/
theorem recoveryEvents : Obligations.RecoveryEvents := by
  unfold Obligations.RecoveryEvents
  intro s k t cause c pa n p cl i w r b at_ fenced lost mine step
  refine ⟨fun hc => ?_,
    errorDetect_hangs s k,
    errorDetect_loses s n,
    correctedError_counts s,
    correctedError_link s n p,
    cellarPoison_page s pa,
    ?_,
    fun v => hardTrip_below,
    fun hm h => (watchdogFire_flags hm h).happens (s.flag_fences k 5),
    watchdogFire_rests,
    fun hm hs => ?_,
    watchdogFire_saved,
    recovery_stale,
    fun hc => ⟨fun ht => (recovery_givenUp hc ht).happens (State.after_dueIn rfl ..),
      fun ht hl => (recovery_waits hc ht hl).happens (State.after_dueIn rfl ..),
      fun ht hl => ⟨fun hm => (recovery_loses hc ht hl hm).happens (State.after_dueIn rfl ..), fun hm hp hn => ?_⟩,
      fun m hm => ⟨rebindWave_local_spec hm hc, rebindWave_leaves_spec hm hc,
        fun ht hw => (rebindWave_waits hm hc ht hw).happens ⟨State.after_dueIn rfl .., rfl⟩⟩,
      rebindWaveComplete_copies hc,
      fun sh hs => ⟨replay_nothing hs hc, fun hf => (replay_starts hs hc hf).happens (State.startReplay_router ..)⟩,
      recoveryRelease_spec hc⟩,
    spareChipletPowered_goes,
    fun x rest hh hm hr hn hp hg => (heldPacketDelivery_one hh hm hr hn hp hg).happens (State.heldIn_spec ..),
    heldPacketDelivery_none,
    stateLoss_spec,
    stateLoss_again,
    plannedMigration_asks,
    plannedMigration_rests,
    fun m => incidentCapture_keeps,
    fun x rest => incidentCapture_crash,
    fun x hx hf => (incidentReplay_asks hx hf).happens (State.after_dueIn rfl ..),
    incidentReplay_answers n p,
    fun hp => (rebindTableWrite_arrives cl i w hp).happens ⟨State.after_dueIn rfl .., rfl⟩,
    rebindTableWrite_chip cl i w,
    rebindTableWrite_slot cl i w,
    rebindTableWrite_exception cl i w,
    linkResend_fails n c,
    linkResend_succeeds n c⟩
  · have flags := errorDetect_flags (s := s) (k := k) hc
    exact ⟨flags.happens ⟨s.flag_fences k cause, s.flag_sameMemory k cause⟩, fun hl hm hr => flags.happens (State.flag_live hl hm hr cause),
      fun hl hr => flags.happens (State.flag_replaying hl hr cause)⟩
  · rintro ev arg (⟨rfl, rfl⟩ | ⟨rfl, v, hv, rfl⟩)
    · exact (powerLoss_cuts s c).happens (s.cutPower_fences c)
    · exact (hardTrip_cuts hv).happens (s.cutPower_fences c)
  · obtain ⟨flags, looks⟩ := watchdogFire_saving hm hs
    exact ⟨fun h => (flags h).happens (s.flag_fences k 5), fun h => (looks h).happens ⟨State.after_dueIn rfl .., rfl⟩⟩
  · have takes := recovery_takes hc ht hl hm hp hn
    refine ⟨fun hs => ?_, fun hs => ?_, fun hs => ?_, fun hs => ?_, fun y hs hy hr => ?_⟩ <;> rw [hs] at takes <;> refine takes.happens ?_
    · exact State.after_dueIn rfl ..
    · exact s.takeSpare_loads k n p 0
    · exact s.takeSpare_loads k n p 1
    · exact State.after_dueIn rfl ..
    · exact State.takeSpare_borrows hy hr

end Sys2Proof.Machine
end

section
/-!
PROOFS. What parking a thread and sending a packet keep of the state: the thread, the buffers, the memories.
-/
namespace Sys2Proof.Machine

/-! ### A thread that parks -/

theorem State.tile_park_self (s : State) (th : Thread) (w : ParkWhy) : (s.park th w).tile s.cur.tile =
    { c := { (s.here.setSlot s.cur.slot (some { th with park := some { why := w, tok := s.here.c.tok, nh := s.cur.nh, since := s.here.r.cyc } })).c with
               tok := s.here.c.tok + 1 }
      r := s.here.r } := s.tile_setTile_self _ _
theorem State.tile_park_ne (s : State) (th : Thread) (w : ParkWhy) {k : TileId} (h : k ≠ s.cur.tile) : (s.park th w).tile k = s.tile k :=
  s.tile_setTile_ne _ h
/-- A park changes of its tile's context the slots and the count of parks. -/
theorem State.here_park_c (s : State) (th : Thread) (w : ParkWhy) :
    (s.park th w).here.c = { s.here.c with slots := (s.park th w).here.c.slots, tok := s.here.c.tok + 1 } := by
  have h : (s.park th w).here = _ := s.tile_park_self th w
  rw [h]
  rfl
@[simp] theorem State.tile_park_r (s : State) (th : Thread) (w : ParkWhy) (k : TileId) : ((s.park th w).tile k).r = (s.tile k).r := by
  by_cases h : k = s.cur.tile
  · subst h; rw [s.tile_park_self]; rfl
  · rw [s.tile_park_ne th w h]
@[simp] theorem State.me_park (s : State) (th : Thread) (w : ParkWhy) :
    (s.park th w).me = { th with park := some { why := w, tok := s.here.c.tok, nh := s.cur.nh, since := s.here.r.cyc } } := by
  show (((s.park th w).tile s.cur.tile).slot s.cur.slot).getD Thread.reset = _
  rw [s.tile_park_self]
  exact congrArg (Option.getD · Thread.reset) (Tile.slot_setSlot_self ..)

theorem State.park_parkedFor (s : State) (th : Thread) (w : ParkWhy) : (s.park th w).ParkedFor w := ⟨_, by rw [s.me_park], rfl⟩
theorem State.park_sameMemory (s : State) (th : Thread) (w : ParkWhy) : SameMemory s (s.park th w) := State.setTile_sameMemory rfl

theorem State.setCtx_sameMemory {s : State} {k : TileId} {c : TileCtx} (h : c.pool = (s.tile k).c.pool) : SameMemory s (s.setCtx k c) :=
  State.setTile_sameMemory h

@[simp] theorem State.here_setCtx_c (s : State) (c : TileCtx) : (s.setCtx s.cur.tile c).here.c = c :=
  congrArg Tile.c (s.tile_setCtx_self _ c)

/-- What is read alike of a tile before and after an update is read alike of every tile. -/
theorem State.read_setTile {α : Type} (p : Tile → α) {s : State} {k : TileId} {t : Tile} (h : p t = p (s.tile k)) (j : TileId) :
    p ((s.setTile k t).tile j) = p (s.tile j) := by
  rw [State.tile_setTile]
  split
  · subst_vars; exact h
  · rfl

/-- Every tile serves the context it served. -/
def State.SameContexts (s u : State) : Prop := ∀ j, (u.tile j).r.ctx = (s.tile j).r.ctx

theorem State.SameContexts.refl (s : State) : s.SameContexts s := fun _ => rfl
theorem State.SameContexts.trans {s t u : State} (h : s.SameContexts t) (h' : t.SameContexts u) : s.SameContexts u :=
  fun j => (h' j).trans (h j)
theorem State.setTile_sameContexts {s : State} {k : TileId} {t : Tile} (h : t.r.ctx = (s.tile k).r.ctx) : s.SameContexts (s.setTile k t) :=
  State.read_setTile (fun t => t.r.ctx) h
theorem State.setCtx_sameContexts (s : State) (k : TileId) (c : TileCtx) : s.SameContexts (s.setCtx k c) := State.setTile_sameContexts rfl
theorem State.setRouter_sameContexts {s : State} {k : TileId} {r : Router} (h : r.ctx = (s.tile k).r.ctx) :
    s.SameContexts (s.setRouter k r) := State.setTile_sameContexts h

/-! ### What stays of the tiles' contexts and contexts of partitions -/

/-- A state with the cursor and the acting tile's slots of another has its acting thread. -/
theorem State.me_of_slots {s u : State} (hc : u.cur = s.cur) (hs : u.here.c.slots = s.here.c.slots) : u.me = s.me := by
  rw [State.here, State.here, hc] at hs
  simp only [State.me, State.thr, Tile.slot, hc, hs]

theorem State.me_setTile {s : State} {k : TileId} {t : Tile} (h : t.c.slots = (s.tile k).c.slots) : (s.setTile k t).me = s.me :=
  State.me_of_slots rfl (State.read_setTile (fun t => t.c.slots) h _)

theorem State.ParkedFor.of_me {s u : State} {w : ParkWhy} (h : s.ParkedFor w) (he : u.me = s.me) : u.ParkedFor w := by
  rw [State.ParkedFor, he]; exact h

theorem State.SameContexts.leavesShadow {s u : State} (h : s.SameContexts u) (a b : TileId) : u.leavesShadow a b = s.leavesShadow a b := by
  rw [State.leavesShadow, State.leavesShadow, h a, h b]

/-! ### What enters the buffer of a port -/

@[simp] theorem State.tile_inject_c (s : State) (k j : TileId) (p : Packet) : ((s.inject k p).tile j).c = (s.tile j).c := by
  by_cases h : j = k
  · subst h; rw [s.tile_inject_self]
  · rw [s.tile_inject_ne p h]
@[simp] theorem State.me_inject (s : State) (k : TileId) (p : Packet) : (s.inject k p).me = s.me :=
  State.me_of_slots rfl (congrArg TileCtx.slots (s.tile_inject_c k _ p))
theorem State.inject_parkedFor {s : State} {w : ParkWhy} (h : s.ParkedFor w) (k : TileId) (p : Packet) : (s.inject k p).ParkedFor w :=
  h.of_me (s.me_inject k p)
theorem State.inject_sameMemory (s : State) (k : TileId) (p : Packet) : SameMemory s (s.inject k p) := s.setRouter_sameMemory k _
theorem State.inject_leaving (s : State) (k : TileId) (p : Packet) : (s.inject k p).Leaving k p.ev p.arg :=
  ⟨p, by rw [s.tile_inject_self]; exact List.mem_append_right _ (List.mem_singleton.2 rfl), rfl, rfl⟩

theorem State.askMemory_leaving (s : State) (k : TileId) (cls : Nat) (ev : Instr) (arg : Payload) :
    (s.askMemory k cls ev arg).Leaving k ev arg := s.inject_leaving k _

/-- A packet that stays in its rectangle enters the buffer of its sender's port. -/
theorem State.packet_eq_inject {s : State} {a b : TileId} (h : s.leavesShadow a b = false) (cls fl : Nat) (ev : Instr) (arg : Payload) :
    ∃ p : Packet, s.packet a b cls fl ev arg = s.inject a p ∧ p.ev = ev ∧ p.arg = arg :=
  ⟨_, by rw [State.packet, h]; rfl, rfl, rfl⟩

/-! ### Parks with a request on its way -/

/-- The acting thread parks, and its tile's port takes a packet. -/
theorem State.park_inject_asks (s : State) (th : Thread) (w : ParkWhy) (p : Packet) :
    let u := (s.park th w).inject s.cur.tile p
    u.ParkedFor w ∧ u.Leaving s.cur.tile p.ev p.arg ∧ SameMemory s u :=
  ⟨State.inject_parkedFor (s.park_parkedFor th w) _ p, State.inject_leaving _ _ p, (s.park_sameMemory th w).trans (State.inject_sameMemory ..)⟩

/-- The acting thread parks, and a request leaves for memory or the control die. -/
theorem State.park_ask_asks (s : State) (th : Thread) (w : ParkWhy) (cls : Nat) (ev : Instr) (arg : Payload) :
    let u := (s.park th w).askMemory s.cur.tile cls ev arg
    u.ParkedFor w ∧ u.Leaving s.cur.tile ev arg ∧ SameMemory s u := s.park_inject_asks th w _

/-- The acting thread parks, and a packet that stays in the rectangle leaves for another tile. -/
theorem State.park_packet_asks {s : State} {b : TileId} (h : s.leavesShadow s.cur.tile b = false) (th : Thread) (w : ParkWhy)
    (cls fl : Nat) (ev : Instr) (arg : Payload) :
    let u := (s.park th w).packet s.cur.tile b cls fl ev arg
    u.ParkedFor w ∧ u.Leaving s.cur.tile ev arg ∧ SameMemory s u := by
  have h' : (s.park th w).leavesShadow s.cur.tile b = false :=
    (State.SameContexts.leavesShadow (fun k => congrArg Router.ctx (s.tile_park_r th w k)) _ _).trans h
  obtain ⟨p, e, rfl, rfl⟩ := State.packet_eq_inject h' cls fl ev arg
  dsimp only
  rw [e]
  exact s.park_inject_asks th w p

end Sys2Proof.Machine
end

section
/-!
PROOFS. A turn runs the instruction that its fetch decoded (06 R117, 12 R240, 14 R273).
-/
namespace Sys2Proof.Machine

/-! ### A turn of the machine -/

/-- With nothing due before the turns, a step is the turn of the first tile that is lined up. -/
theorem step_of_turn {s : State} {k : TileId} {ks : List TileId} (hb : s.dev.boot ≠ .halted)
    (hd : State.dueWith State.run s 0 = none) (ht : s.turns = k :: ks) : step s = { s with turns := ks }.turn k := by
  simp [step, hb, State.advance, State.advanceWith, hd, ht]

/-- A turn that YIELD gave up only passes. -/
theorem State.turn_of_skip {s : State} {k : TileId} (hr : (s.tile k).ready (s.tile k).r.turnSlot = true) (hh : (s.tile k).r.hung = false)
    (hs : (s.thr k (s.tile k).r.turnSlot).skip = true) :
    s.turn k = .next (s.setThr k (s.tile k).r.turnSlot { s.thr k (s.tile k).r.turnSlot with skip := false }) := by
  simp [State.turn, hr, hh, hs]

/-- A turn with no fault to take first issues the head its fetch finds. -/
theorem State.turn_of_head {s : State} {k : TileId} {l : ICLine} {nh head tail : Nat}
    (hr : (s.tile k).ready (s.tile k).r.turnSlot = true) (hh : (s.tile k).r.hung = false)
    (hs : (s.thr k (s.tile k).r.turnSlot).skip = false) (hf : (s.thr k (s.tile k).r.turnSlot).fault = none)
    (hl : (s.tile k).fetch (s.thr k (s.tile k).r.turnSlot).lix (s.thr k (s.tile k).r.turnSlot).pc = .head l nh head tail) :
    s.turn k = (s.atHead k (s.tile k).r.turnSlot l nh).issue (decode head tail) := by
  simp [State.turn, State.issueAt, hr, hh, hs, hf, hl]

/-- The head runs with its own thread acting. -/
theorem State.atHead_me (s : State) (k : TileId) (j : Fin 16) (l : ICLine) (nh : Nat) : (s.atHead k j l nh).me = s.thr k j := by
  have h : (s.atHead k j l nh).me = (s.touch k l).thr k j := rfl
  rw [h, State.thr, State.thr, State.touch, State.tile_setCtx_self]
  rfl

/-- A trap that an instruction raises at the head of a fetch. -/
theorem State.atHead_trap (s : State) (k : TileId) (j : Fin 16) (l : ICLine) (nh code detail : Nat) (v : Word) :
    (s.atHead k j l nh).trap code detail v = .next ((s.atHead k j l nh).trapAt k j (s.thr k j).pc (causeOf code detail false) v) := by
  rw [State.trap, State.atHead_me]
  rfl

/-- Settles O4: the step is the turn's issue; decode's answer says what issues. -/
theorem stepRunsDecoded : Obligations.StepRunsDecoded := by
  intro s k ks l nh head tail j th s' u traps hb hd ht hr hh hf
  have hstep : step s = s'.turn k := step_of_turn hb hd ht
  refine ⟨fun hs => hstep.trans (s'.turn_of_skip hr hh hs), fun hs hl => ?_⟩
  have hissue : step s = u.issue (decode head tail) := hstep.trans (s'.turn_of_head hr hh hs hf hl)
  have hpc : u.me.pc = th.pc := congrArg Thread.pc (s'.atHead_me k j l nh)
  have hbad (c n : Nat) (hi : u.issue (decode head tail) = u.trap c n u.me.pc) : traps c n :=
    hissue.trans (hi.trans (hpc ▸ s'.atHead_trap k j l nh c n th.pc))
  refine ⟨fun i hi hw => ?_, fun n hn => hbad _ _ (by rw [hn]; rfl), fun hn => hbad _ _ (by rw [hn]; rfl)⟩
  rw [hissue, hi, State.issue, if_pos hw]

end Sys2Proof.Machine
end

section
/-!
PROOFS. Accesses that leave the tile: through the switch, to the gateway, posted (07 R149, R155, 14 R277, R278).
-/
namespace Sys2Proof.Machine

/-! ### Where an access goes (07 R148) -/
section
variable {s : State} {th : Thread} {rs : List Reg} {a : Access}

theorem State.access_of_port {t : TileId} {off : Nat} (hp : s.place s.cur.tile a.kind.cls a.size (a.kind == .fest) a.addr = .port t off)
    (hr : a.rl = false) : s.access th rs a = s.portAccess th t off a := by
  rw [State.access, hp]
  simp [hr]
theorem State.access_of_here {off : Nat} (hp : s.place s.cur.tile a.kind.cls a.size (a.kind == .fest) a.addr = .here off)
    (hr : a.rl = false) : s.access th rs a = s.localAccess th off a := by
  rw [State.access, hp]
  simp [hr]
theorem State.access_of_gateway_store {host : Bool} {va : Nat}
    (hp : s.place s.cur.tile a.kind.cls a.size (a.kind == .fest) a.addr = .gateway host va) (hk : a.kind = .store) :
    s.access th rs a = s.postStore th host a.addr a.size a.data := by
  rw [State.access, hp, hk]
theorem State.access_of_gateway_load {host : Bool} {va : Nat}
    (hp : s.place s.cur.tile a.kind.cls a.size (a.kind == .fest) a.addr = .gateway host va) (hk : a.kind = .load) :
    s.access th rs a = s.gateLoad th host a := by
  rw [State.access, hp, hk]

/-- A plain access through the cluster switch: its thread parks and its request leaves (07 R149). -/
theorem State.portAccess_plain {t : TileId} {off : Nat} (hc : a.kind.cls ≠ .sync) :
    s.portAccess th t off a =
      .next ((s.park th (.reply a.rd)).packet s.cur.tile t 3 2 .remoteAccess (.port t off a s.nextRef 0 s.here.r.cyc)) := by
  simp [State.portAccess, State.armTimeout, Access.why, hc]
end

/-! ### Posted stores (07 R155) -/

@[simp] theorem State.here_setMe (s : State) (th : Thread) : (s.setMe th).here = s.here.setSlot s.cur.slot (some th) := s.tile_setThr_self ..
theorem State.setThr_sameMemory (s : State) (k : TileId) (j : Fin 16) (th : Thread) : SameMemory s (s.setThr k j th) :=
  State.setTile_sameMemory rfl
theorem State.setMe_sameMemory (s : State) (th : Thread) : SameMemory s (s.setMe th) := s.setThr_sameMemory ..
theorem State.setMe_leaving {s : State} {k : TileId} {ev : Instr} {arg : Payload} (h : s.Leaving k ev arg) (th : Thread) :
    (s.setMe th).Leaving k ev arg := by
  have hr : ((s.setMe th).tile k).r = (s.tile k).r := by
    by_cases hk : k = s.cur.tile
    · subst hk; rw [State.setMe, State.tile_setThr_self]; rfl
    · rw [State.tile_setMe_ne _ _ hk]
  rw [State.Leaving, hr]
  exact h

/-- Folding a store into its chain leaves the offset, the loops and the flag of cellar stores. -/
theorem Tile.foldStore_keeps (t : Tile) (th : Thread) (a : Word) (size : Nat) (v : Word) :
    (t.foldStore th a size v).pc = th.pc ∧ (t.foldStore th a size v).loops = th.loops ∧ (t.foldStore th a size v).wrote = th.wrote := by
  unfold Tile.foldStore
  split <;> exact ⟨rfl, rfl, rfl⟩

/-- A store that leaves tile `k` stands at the end of its outbound queue and in its port's buffer. -/
theorem State.post_spec (s : State) {k : TileId} (hk : isShadow k = false) (th : Thread) (host : Bool) (a : Word) (size : Nat) (v : Word) :
    ∃ x : Posted, ((s.post k th host a size v).tile k).c.outq = (s.tile k).c.outq ++ [x]
      ∧ (s.post k th host a size v).Leaving k .postedStorePerform (.stored k x) ∧ SameMemory s (s.post k th host a size v)
      ∧ (s.post k th host a size v).cur = s.cur
      ∧ x.addr = a ∧ x.data = BitVec.ofNat 64 (v.toNat % 2 ^ (8 * size)) ∧ x.size = size ∧ x.host = host ∧ x.tid = th.tid := by
  rw [State.post, hk, if_neg Bool.false_ne_true]
  dsimp only
  refine ⟨_, ?_, State.inject_leaving _ k _, .trans ?_ (State.inject_sameMemory ..), rfl, rfl, rfl, rfl, rfl, rfl⟩
  · rw [State.tile_inject_c, State.tile_setCtx_self]
  · exact State.setCtx_sameMemory rfl

/-- The acting thread after a posted store: its chain, and its flag of cellar stores. -/
def State.storedThread (s : State) (th : Thread) (host : Bool) (a : Word) (size : Nat) (v : Word) : Thread :=
  let th := s.here.foldStore th a size v
  if host || isShadow s.cur.tile then th else { th with wrote := true }

theorem State.postStore_full {s : State} (h : 16 ≤ s.here.c.outq.length) (th : Thread) (host : Bool) (a : Word) (size : Nat) (v : Word) :
    s.postStore th host a size v = .next (s.park th .outQueue) := if_pos h
theorem State.postStore_room {s : State} (h : s.here.c.outq.length < 16) (th : Thread) (host : Bool) (a : Word) (size : Nat) (v : Word) :
    s.postStore th host a size v = (s.post s.cur.tile th host a size v).done (s.storedThread th host a size v) := if_neg (Nat.not_le.2 h)

theorem State.storedThread_retire {s : State} (hs : isShadow s.cur.tile = false) (th : Thread) (host : Bool) (a : Word) (size : Nat) (v : Word)
    (nh : Nat) :
    ((s.storedThread th host a size v).retire nh).wrote = (th.wrote || !host)
      ∧ ((s.storedThread th host a size v).retire nh).pc = (th.retire nh).pc := by
  obtain ⟨hpc, hl, hw⟩ := s.here.foldStore_keeps th a size v
  cases host <;> simp [State.storedThread, hs, Thread.retire, Thread.stepEnd, hpc, hl, hw]

/-- A posted store that finds room: it is in the queue and on its way, and its thread goes on. -/
theorem State.postStore_posts {s : State} (hroom : s.here.c.outq.length < 16) (hs : isShadow s.cur.tile = false) (th : Thread) (host : Bool)
    (a : Word) (size : Nat) (v : Word) :
    ∃ u, s.postStore th host a size v = .next u ∧ SameMemory s u
      ∧ (∃ x : Posted, u.here.c.outq = s.here.c.outq ++ [x] ∧ u.Leaving s.cur.tile .postedStorePerform (.stored s.cur.tile x)
          ∧ x.addr = a ∧ x.data = BitVec.ofNat 64 (v.toNat % 2 ^ (8 * size)) ∧ x.size = size ∧ x.host = host ∧ x.tid = th.tid)
      ∧ u.me.wrote = (th.wrote || !host) ∧ u.me.pc = (th.retire s.cur.nh).pc := by
  obtain ⟨x, hq, hl, hm, hc, hx⟩ := s.post_spec hs th host a size v
  obtain ⟨hw, hpc⟩ := s.storedThread_retire hs th host a size v s.cur.nh
  refine ⟨_, State.postStore_room hroom .., hm.trans (State.setMe_sameMemory ..), ⟨x, ?_, State.setMe_leaving hl _, hx⟩, ?_, ?_⟩
  · rw [State.here_setMe, Tile.setSlot_c_outq, State.here, hc, hq]
    rfl
  · rw [State.me_setMe, hc, hw]
  · rw [State.me_setMe, hc, hpc]

/-! ### Loads through the gateway (07 R151 to R155) -/

theorem State.gateLoad_eq (s : State) (th : Thread) (host : Bool) (a : Access) :
    s.gateLoad th host a = .next ((s.park th (.reply a.rd)).ask s.nextRef
      { ctx := s.here.r.ctx, host := host, va := bitsOf a.addr 0 48, addr := a.addr, size := a.size, signed := a.signed
        toReg := true, cached := !host, fault := 0 }) := rfl

/-! ### Forms that read their registers first (13 R246) -/

theorem State.loadTI_readable {s : State} {a : Reg} (h : s.Readable [a]) (log : Nat) (signed : Bool) (d : Reg) (i : BitVec 11) :
    s.loadTI log signed d a i = s.access s.me [d, a] (s.me.acc .load log signed d (addrTI s.me a i) 0 0 false) := s.withRegs_full _ h
theorem State.storeTI_readable {s : State} {d a : Reg} (h : s.Readable [d, a]) (log : Nat) (i : BitVec 11) :
    s.storeTI log d a i = s.access s.me [d, a] (s.me.acc .store log false 0 (addrTI s.me a i) (s.me.reg d) 0 false) := s.withRegs_full _ h

theorem bitsOf_zero (w : Word) (n : Nat) : bitsOf w 0 n = w.toNat % 2 ^ n := by simp [bitsOf]

/-- Settles O26: where `place` sends the access, its thread parks with a request on its way, or its store is posted. -/
theorem remoteAccesses : Obligations.RemoteAccesses := by
  intro s d a i t off va host p
  have hld (h : s.Readable [a]) : exec (.ldDTi d a i) s = s.access s.me [d, a] (s.me.acc .load 3 false d (addrTI s.me a i) 0 0 false) :=
    State.loadTI_readable h 3 false d i
  have hst (h : s.Readable [d, a]) :
      exec (.stDTi d a i) s = s.access s.me [d, a] (s.me.acc .store 3 false 0 (addrTI s.me a i) (s.me.reg d) 0 false) :=
    State.storeTI_readable h 3 i
  refine ⟨fun hp hsh hr => ?_, fun hp hr => ?_, fun hp hr hfull => ?_, fun hp hr hroom hns => ?_⟩
  · refine ⟨_, ((hst hr).trans (State.access_of_port hp rfl)).trans (State.portAccess_plain nofun), ?_⟩
    obtain ⟨hpk, hl, hm⟩ := State.park_packet_asks hsh s.me (.reply 0) 3 2 .remoteAccess _
    exact ⟨hpk, hm, _, hl, rfl, rfl, rfl⟩
  · refine ⟨_, ((hld hr).trans (State.access_of_gateway_load hp rfl)).trans (s.gateLoad_eq ..), ?_⟩
    obtain ⟨hpk, hl, hm⟩ := s.park_inject_asks s.me (.reply d) _
    exact ⟨hpk, hm, _, hl, bitsOf_zero _ 48, rfl, rfl, rfl, rfl⟩
  · exact ((hst hr).trans (State.access_of_gateway_store hp rfl)).trans (State.postStore_full hfull ..)
  · obtain ⟨u, hu, hm, ⟨x, hq, hl, ha, hd, hsz, hh, ht⟩, hw, hpc⟩ :=
      State.postStore_posts hroom hns s.me host (addrTI s.me a i) (2 ^ 3) (s.me.reg d)
    refine ⟨u, ((hst hr).trans (State.access_of_gateway_store hp rfl)).trans hu, hm, ⟨x, hq, hl, ha, ?_, hsz, hh, ht⟩, hw, hpc⟩
    rw [hd]
    exact BitVec.eq_of_toNat_eq (by simp [Nat.mod_eq_of_lt (s.me.reg d).isLt])

end Sys2Proof.Machine
end

section
/-!
PROOFS. RFILL, REMPTY, RSTAT and the shared registers (14 R283, R284, 06 R124).
-/
namespace Sys2Proof.Machine

/-! ### Registers that another thread fills (14 R283) -/

/-- A fill changes registers as a write does; beside them it touches the park alone. -/
theorem Thread.fillReg_regs (th : Thread) (r : Reg) (v : Word) :
    (th.fillReg r v).regs = (th.setReg r v).regs ∧ (th.fillReg r v).full = (th.setReg r v).full := by
  unfold Thread.fillReg
  dsimp only
  split
  · split <;> exact ⟨rfl, rfl⟩
  · exact ⟨rfl, rfl⟩
theorem Thread.fillReg_reg (th : Thread) {r : Reg} (v : Word) (h : r ≠ 0) : (th.fillReg r v).reg r = v := by
  rw [Thread.reg, (th.fillReg_regs r v).1]
  exact th.reg_setReg_self v h
theorem Thread.fillReg_full (th : Thread) (r : Reg) (v : Word) : (th.fillReg r v).isFull r = true := by
  rw [Thread.isFull, (th.fillReg_regs r v).2]
  exact th.isFull_setReg_self r v

/-! ### RFILL (14 R283) -/

section
variable {s : State} {a b n : Reg}

/-- The tid that RFILL names, and the tile it is at home. -/
def State.fillTid (s : State) (a : Reg) : Nat := (s.me.reg a).toNat % 2 ^ 22
def State.fillHome (s : State) (a : Reg) : TileId := shadowBase s.cur.tile + s.fillTid a % 2 ^ 18

theorem execRfill_zero (s : State) (a b : Reg) : execRfill a b 0 s = s.trap cReservedField 0xFF s.me.pc := rfl

/-- RFILL in the partition, with no stores to wait for: the caller's own register, another's, or a packet. -/
theorem execRfill_eq (hn : n ≠ 0) (hr : s.Readable [a, b]) (hp : s.inPartition s.cur.tile (s.fillHome a) = true)
    (hs : s.storesPending s.cur.tile s.me = false) :
    execRfill a b n s =
      if s.fillTid a = s.me.tid then s.done (s.me.fillReg n (s.me.reg b))
      else match s.here.slotOfTid (s.fillTid a) s.me.launch with
        | some j => (s.setThr s.cur.tile j ((s.thr s.cur.tile j).fillReg n (s.me.reg b))).done s.me
        | none => (s.packet s.cur.tile (s.fillHome a) 3 1 .rfillDelivery
            (.fill (s.fillHome a) (s.fillTid a) n (s.me.reg b) s.me.launch none)).done s.me := by
  rw [execRfill, if_neg hn, s.withRegs_full _ hr]
  simp only [State.fillTid, State.fillHome, ← bitsOf_zero] at hp ⊢
  rw [hp, Bool.not_true, if_neg Bool.false_ne_true, State.release, hs, if_neg Bool.false_ne_true] <;> rfl

/-- RFILL of the caller's own register. -/
theorem rfill_own (hn : n ≠ 0) (hr : s.Readable [a, b]) (hp : s.inPartition s.cur.tile (s.fillHome a) = true)
    (hs : s.storesPending s.cur.tile s.me = false) (ht : s.fillTid a = s.me.tid) :
    Retires (.rfill a b n) s (s.me.fillReg n (s.me.reg b)) := by
  rw [Retires, exec_rfill, execRfill_eq hn hr hp hs, if_pos ht]
  rfl

/-- RFILL of another thread of the tile: its register is filled, the caller goes on. -/
theorem rfill_other {j : Fin 16} (hn : n ≠ 0) (hr : s.Readable [a, b]) (hp : s.inPartition s.cur.tile (s.fillHome a) = true)
    (hs : s.storesPending s.cur.tile s.me = false) (ht : s.fillTid a ≠ s.me.tid)
    (hj : s.here.slotOfTid (s.fillTid a) s.me.launch = some j) (hne : j ≠ s.cur.slot) :
    ∃ u, exec (.rfill a b n) s = .next u ∧ u.thr s.cur.tile j = (s.thr s.cur.tile j).fillReg n (s.me.reg b)
      ∧ u.me = s.me.retire s.cur.nh ∧ SameMemory s u := by
  refine ⟨(s.setThr s.cur.tile j ((s.thr s.cur.tile j).fillReg n (s.me.reg b))).setMe (s.me.retire s.cur.nh), ?_, ?_,
    State.me_setMe _ _, (State.setThr_sameMemory ..).trans (State.setMe_sameMemory ..)⟩
  · rw [exec_rfill, execRfill_eq hn hr hp hs, if_neg ht, hj]
    rfl
  · rw [State.setMe, State.setThr_cur, State.thr_setThr_slot _ _ _ hne, State.thr_setThr_self]

/-- RFILL of a thread elsewhere: a packet leaves, the caller goes on. -/
theorem rfill_away (hn : n ≠ 0) (hr : s.Readable [a, b]) (hp : s.inPartition s.cur.tile (s.fillHome a) = true)
    (hs : s.storesPending s.cur.tile s.me = false) (ht : s.fillTid a ≠ s.me.tid)
    (hj : s.here.slotOfTid (s.fillTid a) s.me.launch = none) (hl : s.leavesShadow s.cur.tile (s.fillHome a) = false) :
    Completes (.rfill a b n) s fun t => t.me = s.me.retire s.cur.nh
      ∧ t.Leaving s.cur.tile .rfillDelivery (.fill (s.fillHome a) (s.fillTid a) n (s.me.reg b) s.me.launch none) := by
  obtain ⟨p, e, hev, harg⟩ := State.packet_eq_inject hl 3 1 .rfillDelivery
    (.fill (s.fillHome a) (s.fillTid a) n (s.me.reg b) s.me.launch none)
  refine ⟨(s.inject s.cur.tile p).setMe (s.me.retire s.cur.nh), ?_, State.me_setMe _ _, State.setMe_leaving ?_ _⟩
  · rw [exec_rfill, execRfill_eq hn hr hp hs, if_neg ht, hj]
    dsimp only
    rw [e]
    rfl
  · exact hev ▸ harg ▸ State.inject_leaving _ _ p

/-- RFILL of g0 is a reserved form. -/
theorem rfill_zero (s : State) (a b : Reg) : Traps (.rfill a b 0) s 0x05 0xFF s.me.pc := rfl

end

/-! ### REMPTY and RSTAT (14 R284) -/

theorem rempty_retires (s : State) (d : Reg) : Retires (.rempty d) s { s.me with full := s.me.full &&& ~~~(regBit d) } := rfl
theorem rstat_sets (s : State) (d : Reg) : Sets (.rstat d) s d ((s.me.full ||| 1).setWidth 64) := rfl

/-- The bit of register `d` goes, the others stay. -/
theorem getLsbD_without_regBit (m : BitVec 32) (d r : Reg) :
    (m &&& ~~~(regBit d)).getLsbD r.val = (m.getLsbD r.val && decide (r ≠ d)) := by
  rw [BitVec.getLsbD_and, BitVec.getLsbD_not, regBit_getLsbD]
  simp [r.isLt]
theorem getLsbD_fullBits (m : BitVec 32) (i : Nat) (hi : i < 64) :
    ((m ||| 1).setWidth 64).getLsbD i = (decide (i = 0) || (decide (i < 32) && m.getLsbD i)) := by
  rw [BitVec.getLsbD_setWidth, BitVec.getLsbD_or, show (1 : BitVec 32) = 1#32 from rfl, BitVec.getLsbD_one, decide_eq_true hi]
  by_cases h : i < 32
  · cases i <;> simp [h]
  · have h0 : i ≠ 0 := by omega
    simp [h, h0, BitVec.getLsbD_of_ge m i (by omega)]

/-! ### Shared registers (06 R124) -/

section
variable {s : State} {n : Fin 8}

theorem sharedIndex (n : Fin 8) : Fin.ofNat 8 ((0x40000 + 8 * n.val) / 8) = n := by
  revert n; decide

/-- An access at the address of shared register `n` is one to the register. -/
theorem State.localAccess_shared (s : State) (th : Thread) (n : Fin 8) (a : Access) :
    s.localAccess th (0x40000 + 8 * n.val) a = s.sharedAccess th n a := by
  rw [State.localAccess]
  dsimp only
  rw [if_pos (Nat.le_add_right ..), sharedIndex]

theorem State.access_shared {th : Thread} {rs : List Reg} {a : Access}
    (hp : s.place s.cur.tile a.kind.cls a.size (a.kind == .fest) a.addr = .here (0x40000 + 8 * n.val)) (hr : a.rl = false) :
    s.access th rs a = s.sharedAccess th n a := (State.access_of_here hp hr).trans (s.localAccess_shared th n a)

theorem State.execLdc_readable {a : Reg} (h : s.Readable [a]) (d : Reg) (i : BitVec 11) :
    execLdc d a i s = s.access s.me [d, a] (s.me.acc .ldc 3 false d (addrTI s.me a i) 0 0 false) := s.withRegs_full _ h

/-- The queue of shared-register operations takes one more; registers and memories stay. -/
theorem State.queueShared (s : State) (op : HOp) :
    let u := s.setCtx s.cur.tile { s.here.c with hOps := s.here.c.hOps ++ [op] }
    u.here.c.hOps = s.here.c.hOps ++ [op] ∧ u.here.c.h = s.here.c.h ∧ SameMemory s u ∧ u.me = s.me :=
  ⟨by rw [s.here_setCtx_c], by rw [s.here_setCtx_c], State.setCtx_sameMemory rfl, State.me_of_slots rfl (by rw [s.here_setCtx_c])⟩

theorem State.sharedAccess_load (s : State) (th : Thread) (n : Fin 8) {a : Access} (hk : a.kind = .load) :
    s.sharedAccess th n a = s.done (th.setReg a.rd s.here.c.h[n]) := by
  rw [State.sharedAccess, hk]

/-- A store to a shared register is queued, and its thread goes on. -/
theorem State.sharedAccess_store (s : State) (th : Thread) (n : Fin 8) {a : Access} (hk : a.kind = .store) :
    ∃ t, s.sharedAccess th n a = .next t ∧ t.here.c.hOps = s.here.c.hOps ++ [.store n a.data s.here.r.cyc]
      ∧ t.here.c.h = s.here.c.h ∧ SameMemory s t ∧ t.me = th.retire s.cur.nh := by
  obtain ⟨ho, hh, hm, -⟩ := s.queueShared (.store n a.data s.here.r.cyc)
  refine ⟨_, by rw [State.sharedAccess, hk]; rfl, ?_, ?_, hm.trans (State.setMe_sameMemory ..), State.me_setMe _ _⟩
  · rw [State.here_setMe, Tile.setSlot_c_hOps, ho]
  · rw [State.here_setMe, Tile.setSlot_c_h, hh]

/-- LDC of a shared register is queued, and its thread parks. -/
theorem State.sharedAccess_ldc (s : State) (th : Thread) (n : Fin 8) {a : Access} (hk : a.kind = .ldc) :
    ∃ t, s.sharedAccess th n a = .next t ∧ t.here.c.hOps = s.here.c.hOps ++ [.sync a s.here.c.tok s.here.r.cyc]
      ∧ t.here.c.h = s.here.c.h ∧ SameMemory s t ∧ t.ParkedFor (.fe a.rd) := by
  have hc := s.here_park_c th (.fe a.rd)
  have ho := congrArg TileCtx.hOps hc
  have hh := congrArg TileCtx.h hc
  obtain ⟨ho', hh', hm, hme⟩ := (s.park th (.fe a.rd)).queueShared (.sync a s.here.c.tok s.here.r.cyc)
  refine ⟨((s.park th (.fe a.rd)).setCtx s.cur.tile { (s.park th (.fe a.rd)).here.c with
    hOps := (s.park th (.fe a.rd)).here.c.hOps ++ [.sync a s.here.c.tok s.here.r.cyc] }).after a.timeo .feTimeout (.ref s.nextRef),
    ?_, ho'.trans (by rw [ho]), hh'.trans hh, (s.park_sameMemory ..).trans hm,
    (s.park_parkedFor th (.fe a.rd)).of_me hme⟩
  rw [State.sharedAccess, hk]
  simp only [State.armTimeout, hk]
  rfl

end

/-- Settles O28: RFILL by the place of its target; REMPTY and RSTAT by their bits; shared registers by the queue they enter. -/
theorem registerSynchronisation : Obligations.RegisterSynchronisation := by
  refine ⟨fun s a b n d j => ⟨fun hn hr hp hs => ⟨rfill_own hn hr hp hs, fun ht hj hne => ?_, rfill_away hn hr hp hs⟩,
    fun hn => hn ▸ rfill_zero s a b, ⟨_, rempty_retires s d, fun r _ => getLsbD_without_regBit ..⟩, _, rstat_sets s d, getLsbD_fullBits _⟩,
    fun s d a i n c hp => ⟨fun hc hr => ?_, fun hc hr => ?_, fun hc hr => ?_⟩,
    fun s a b n d => ⟨fun hn hr hp hs ht => ⟨_, rfill_own hn hr hp hs ht, rfl⟩, fun j hn hr hp hs ht hj hne => ?_, ⟨_, rempty_retires s d, rfl⟩,
      ⟨_, rstat_sets s d, rfl⟩⟩⟩
  · obtain ⟨u, hu, hj, hm, -⟩ := rfill_other hn hr hp hs ht hj hne
    exact ⟨u, hu, hm, hj, hj ▸ Thread.fillReg_reg _ _ hn, hj ▸ Thread.fillReg_full ..⟩
  · subst hc
    exact (State.loadTI_readable hr 3 false d i).trans (State.access_shared hp rfl)
  · subst hc
    obtain ⟨t, ht, ho, hh, hm, hme⟩ := s.sharedAccess_store s.me n (a := s.me.acc .store 3 false 0 (addrTI s.me a i) (s.me.reg d) 0 false) rfl
    refine ⟨t, ⟨?_, ho, hh, hm⟩, hme⟩
    exact ((State.storeTI_readable hr 3 i).trans (State.access_shared hp rfl)).trans ht
  · subst hc
    obtain ⟨t, ht, ho, hh, hm, hpk⟩ := s.sharedAccess_ldc s.me n (a := s.me.acc .ldc 3 false d (addrTI s.me a i) 0 0 false) rfl
    refine ⟨t, _, ⟨?_, ho, hh, hm⟩, rfl, hpk⟩
    exact ((s.execLdc_readable hr d i).trans (State.access_shared hp rfl)).trans ht
  · exact rfill_other hn hr hp hs ht hj hne

end Sys2Proof.Machine
end

section
/-!
PROOFS. Groups, barriers and router reductions of a thread at home (14 R290, 17 R370, R371).
-/
namespace Sys2Proof.Machine

/-! ### At home (06 R125) -/

/-- A thread at home counts at its own tile. -/
theorem home_tile {th : Thread} {k : TileId} (h : th.atHome k = true) : shadowBase k + th.home.toNat = k := by
  have h' : th.home.toNat = ltnOf k := by simpa [Thread.atHome] using h
  rw [h', shadowBase, ltnOf]
  omega
theorem State.atHome_go {s : State} {th : Thread} (h : th.atHome s.cur.tile = true) (rs : List Reg) (go : Out) : s.atHome th rs go = go :=
  if_pos h
theorem State.release_go {s : State} {th : Thread} (h : s.storesPending s.cur.tile th = false) (go : Out) : s.release th go = go := by
  rw [State.release, h, if_neg Bool.false_ne_true]

/-! ### Group requests (14 R290) -/

section
variable {s : State} {d a : Reg}

/-- The group that the register names. -/
def State.groupOf (s : State) (a : Reg) : Nat := (s.me.reg a).toNat % 2 ^ 16

/-- The home router of a group as the parked thread's request finds it. -/
def State.askedHome (s : State) (d a : Reg) (what : Nat) : Nat := (s.park s.me (.group d what (s.groupOf a))).groupHome s.cur.tile (s.groupOf a)

/-- A thread at home asks its group's home router, and waits for the reply. -/
theorem State.groupAsk_home (hr : s.Readable [a]) (hh : s.me.atHome s.cur.tile = true) (what : Nat) (kind : Thread → Nat → Nat) :
    s.groupAsk d a what kind = .next ((s.park s.me (.group d what (s.groupOf a))).packet s.cur.tile (s.askedHome d a what * 32) 3 1 .groupRequest
      (.group (s.askedHome d a what) s.here.r.ctx (s.groupOf a) (kind s.me (s.groupOf a)) (clusterOf s.cur.tile)
        (((s.me.member? (s.groupOf a)).map Membership.reds).getD 0) s.me.tid s.nextRef)) := by
  rw [State.groupAsk, s.withRegs_full _ hr, State.atHome_go hh]
  simp only [bitsOf_zero, State.askGroup, home_tile hh, State.tile_park_r]
  rfl

/-- A request of the given kind is on its way from a thread that waits for the reply. -/
theorem State.groupAsk_asks {i : Instr} {what n : Nat} {kind : Thread → Nat → Nat} (hi : exec i s = s.groupAsk d a what kind)
    (hk : kind s.me (s.groupOf a) = n) (hr : s.Readable [a]) (hh : s.me.atHome s.cur.tile = true)
    (hl : s.leavesShadow s.cur.tile (s.askedHome d a what * 32) = false) :
    Asks i s (.group d what (s.groupOf a)) .groupRequest
      (.group (s.askedHome d a what) s.here.r.ctx (s.groupOf a) n (clusterOf s.cur.tile)
        (((s.me.member? (s.groupOf a)).map Membership.reds).getD 0) s.me.tid s.nextRef) := by
  subst hk
  exact ⟨_, hi.trans (State.groupAsk_home hr hh what kind), State.park_packet_asks hl ..⟩

/-- The kinds of GJOIN and GLEAVE as the thread's own list decides them (06 R125). -/
def joinKind (th : Thread) (g : Nat) : Nat := if (th.member? g).isSome then 4 else if 4 ≤ th.groups.length then 6 else 0
def leaveKind (th : Thread) (g : Nat) : Nat := if (th.member? g).isSome then 1 else 5

theorem exec_gjoin_asks (s : State) (d a : Reg) : exec (.gjoin d a) s = s.groupAsk d a 0 joinKind := rfl
theorem exec_gleave_asks (s : State) (d a : Reg) : exec (.gleave d a) s = s.groupAsk d a 1 leaveKind := rfl
theorem exec_gsize_asks (s : State) (d a : Reg) : exec (.gsize d a) s = s.groupAsk d a 2 fun _ _ => 2 := rfl

theorem joinKind_member {th : Thread} {g : Nat} (h : (th.member? g).isSome = true) : joinKind th g = 4 := if_pos h
theorem joinKind_none {th : Thread} {g : Nat} (h : th.member? g = none) : joinKind th g = if 4 ≤ th.groups.length then 6 else 0 := by
  rw [joinKind, h, if_neg (by simp)]
theorem leaveKind_member {th : Thread} {g : Nat} (h : (th.member? g).isSome = true) : leaveKind th g = 1 := if_pos h
theorem leaveKind_none {th : Thread} {g : Nat} (h : th.member? g = none) : leaveKind th g = 5 := by
  rw [leaveKind, h, if_neg (by simp)]

/-! ### GBAR (14 R290) -/

theorem gbar_apart (hr : s.Readable [a]) (hh : s.me.atHome s.cur.tile = true) (hm : s.me.member? (s.groupOf a) = none) :
    Sets (.gbar d a) s d 1 := by
  rw [Sets, Retires, exec_gbar, execGbar, s.withRegs_full _ hr, State.atHome_go hh]
  simp only [bitsOf_zero]
  rw [State.groupOf] at hm
  rw [hm]
  rfl

/-- The arrival of a member goes to its cluster's router once its stores are performed. -/
theorem gbar_arrives (hr : s.Readable [a]) (hh : s.me.atHome s.cur.tile = true) (hm : (s.me.member? (s.groupOf a)).isSome = true)
    (hs : s.storesPending s.cur.tile s.me = false) (hl : s.leavesShadow s.cur.tile (clusterOf s.cur.tile * 32) = false) :
    Asks (.gbar d a) s (.group d 3 (s.groupOf a)) .barrierClusterArrival
      (.group (clusterOf s.cur.tile) s.here.r.ctx (s.groupOf a) 3 (clusterOf s.cur.tile) 0 s.me.tid s.nextRef) := by
  obtain ⟨m, hm⟩ := Option.isSome_iff_exists.1 hm
  rw [State.groupOf] at hm
  refine ⟨_, ?_, State.park_packet_asks hl s.me (.group d 3 (s.groupOf a)) 3 1 .barrierClusterArrival _⟩
  rw [exec_gbar, execGbar, s.withRegs_full _ hr, State.atHome_go hh]
  simp only [bitsOf_zero]
  rw [hm, Option.isNone_some, if_neg Bool.false_ne_true, State.release_go hs]
  rfl
end

/-! ### Router reductions (17 R370, R371) -/

section
variable {s : State} {d a b : Reg} {op : BitVec 3} {ty : BitVec 4}

theorem red_apart (hh : s.me.atHome s.cur.tile = true) (hr : s.Readable [a, b]) (hm : s.me.member? (s.groupOf a) = none) :
    Sets (.red d a b op ty) s d 1 := by
  rw [Sets, Retires, exec_red, execRed, s.withRegs_full _ hr, State.atHome_go hh]
  simp only [bitsOf_zero]
  rw [State.groupOf] at hm
  rw [hm]
  rfl

/-- A tile outside the shadow reaches the router of its own cluster. -/
theorem State.leavesShadow_ownCluster (s : State) {k : TileId} (hk : isShadow k = false) : s.leavesShadow k (clusterOf k * 32) = false := by
  have h : ¬ 2 ^ 18 ≤ k := by simpa [isShadow] using hk
  have h' : isShadow (clusterOf k * 32) = false := decide_eq_false fun hc => h (hc.trans (Nat.div_mul_le_self k 32))
  rw [State.leavesShadow, h', Bool.false_and]

/-- The contribution of the acting thread to the reduction that is its next in the group. -/
def State.contribution (s : State) (g num : Nat) (op : BitVec 3) (ty : BitVec 4) (v : Word) : Partial :=
  { ctx := s.here.r.ctx, group := g, num := num, op := op.toNat, ty := ty.toNat, value := redOperand ty.toNat v, count := 1
    map := BitVec.ofNat 64 (2 ^ (s.cur.tile % 32)), mismatch := false }

/-- The contribution of a member goes to its cluster's router once its stores are performed. -/
theorem red_contributes {m : Membership} (hh : s.me.atHome s.cur.tile = true) (hr : s.Readable [a, b])
    (hm : s.me.member? (s.groupOf a) = some m) (hs : s.storesPending s.cur.tile s.me = false) (hk : isShadow s.cur.tile = false) :
    Asks (.red d a b op ty) s (.red d (s.groupOf a)) .reductionContribution
      (.part (clusterOf s.cur.tile) (s.contribution (s.groupOf a) m.reds op ty (s.me.reg b)) 0 (some s.nextRef)) := by
  refine ⟨_, ?_, State.park_packet_asks (s.leavesShadow_ownCluster hk) s.me (.red d (s.groupOf a)) 3 2 .reductionContribution _⟩
  rw [exec_red, execRed, s.withRegs_full _ hr, State.atHome_go hh]
  simp only [bitsOf_zero]
  rw [State.groupOf] at hm
  rw [hm]
  dsimp only
  rw [State.release_go hs]
  rfl

theorem redg_none {q : Pred} (hh : s.me.atHome s.cur.tile = true) (hr : s.Readable [a])
    (hm : (s.me.member? (s.groupOf a)).bind (fun m => m.due.head?) = none) :
    Retires (.redg d a q) s ((s.me.setReg d 0).setPred q true) := by
  rw [Retires, exec_redg, execRedg, s.withRegs_full _ hr, State.atHome_go hh]
  simp only [bitsOf_zero]
  rw [State.groupOf] at hm
  rw [hm]
  rfl
theorem redg_due {q : Pred} {num : Nat} (hh : s.me.atHome s.cur.tile = true) (hr : s.Readable [a])
    (hm : (s.me.member? (s.groupOf a)).bind (fun m => m.due.head?) = some num) :
    Arms (.redg d a q) s (.redg d q (s.groupOf a) num) .reductionResult (.ref s.nextRef) := by
  refine ⟨(s.park s.me (.redg d q (s.groupOf a) num)).after 1 .reductionResult (.ref s.nextRef), ?_, s.park_parkedFor _ _,
    ⟨_, List.mem_append_right _ (List.mem_singleton.2 rfl), rfl, rfl⟩, s.park_sameMemory _ _⟩
  rw [exec_redg, execRedg, s.withRegs_full _ hr, State.atHome_go hh]
  simp only [bitsOf_zero]
  rw [State.groupOf] at hm
  rw [hm]
  rfl
end

/-- Settles O33: each instruction of a thread at home, by its own membership list. -/
theorem groupInstructions : Obligations.GroupInstructions := by
  refine ⟨fun s d a hr hh => ?_, fun s d a b q op ty m num hh hr => ?_⟩
  · exact ⟨fun hm hn => State.groupAsk_asks (exec_gjoin_asks s d a) ((joinKind_none hm).trans (if_neg (Nat.not_le.2 hn))) hr hh,
      fun hm hn => State.groupAsk_asks (exec_gjoin_asks s d a) ((joinKind_none hm).trans (if_pos hn)) hr hh,
      fun hm => State.groupAsk_asks (exec_gjoin_asks s d a) (joinKind_member hm) hr hh,
      fun hm => State.groupAsk_asks (exec_gleave_asks s d a) (leaveKind_member hm) hr hh,
      fun hm => State.groupAsk_asks (exec_gleave_asks s d a) (leaveKind_none hm) hr hh,
      State.groupAsk_asks (exec_gsize_asks s d a) rfl hr hh, gbar_apart hr hh, gbar_arrives hr hh⟩
  · have both (hb : s.Readable [b]) : s.Readable [a, b] := by
      intro r h
      rcases List.mem_cons.1 h with rfl | h
      · exact hr _ (List.mem_singleton.2 rfl)
      · exact hb _ h
    exact ⟨fun hb hm => red_apart hh (both hb) hm, fun hb hm hs hk => red_contributes hh (both hb) hm hs hk, redg_none hh hr, redg_due hh hr⟩

end Sys2Proof.Machine
end

section
/-!
PROOFS. TASK, TDONE, MIG, CKPT, SIGA and QPOST (14 R291 to R296), and what a migrant carries (06 R130).
-/
namespace Sys2Proof.Machine

/-! ### Work packets (14 R291) -/

section
variable {s : State}

theorem execTask_held (h : s.me.held = true) : execTask s = s.trap cTaskState 1 0 := if_pos h
theorem execTask_noQueue (h : s.me.held = false) (hq : (s.here.launchOf s.me.lix).pkq = 0) : execTask s = s.trap cTaskState 2 0 := by
  simp [execTask, h, hq]

/-- TASK of a thread with no packet, whose launch has a queue: the packet server hears of it. -/
theorem task_asks (h : s.me.held = false) (hq : (s.here.launchOf s.me.lix).pkq ≠ 0) :
    Asks .task s .task .packetGrant (.post s.nextRef s.here.r.ctx (s.here.launchOf s.me.lix).pkq.toNat []) := by
  refine ⟨_, ?_, s.park_ask_asks s.me .task 3 .packetGrant _⟩
  rw [exec_task, execTask]
  simp only [h, Bool.false_eq_true, if_false, if_neg hq]

theorem execTdone_none (h : s.me.held = false) : execTdone s = s.trap cTaskState 3 0 := by
  simp [execTdone, h]

/-- TDONE gives the packet back. -/
theorem tdone_retires (h : s.me.held = true) :
    Completes .tdone s fun u => u.me = ({ s.me with held := false, tfmt := 0, tscl := 0 } : Thread).retire s.cur.nh
      ∧ u.Leaving s.cur.tile .packetRetire (.nums3 s.here.r.ctx (s.here.launchOf s.me.lix).pkq.toNat s.me.pkslot.toNat) ∧ SameMemory s u := by
  refine ⟨_, ?_, State.me_setMe _ _, State.setMe_leaving (s.askMemory_leaving s.cur.tile 3 .packetRetire _) _,
    (State.inject_sameMemory ..).trans (State.setMe_sameMemory ..)⟩
  rw [exec_tdone, execTdone]
  simp only [h, Bool.not_true, Bool.false_eq_true, if_false]
  rfl

/-! ### MIG (14 R292) -/

/-- An address of space 0x2 whose other bits are zero is known and has no bits beside its layout. -/
theorem layout_of_space2 {x : Word} (h2 : x.toNat / 2 ^ 60 = 2) (hx : x.toNat % 2 ^ 60 < 2 ^ 36) :
    spaceOf x = 2 ∧ spaceKnown (spaceOf x) = true ∧ bitsNamed x = true := by
  have hs : spaceOf x = 2 := h2
  refine ⟨hs, by rw [hs]; rfl, ?_⟩
  rw [bitsNamed, hs, show namedBits 2 (isShared x) = 2 ^ 36 - 1 from rfl, Nat.and_two_pow_sub_one_eq_mod, Nat.mod_eq_of_lt hx]
  simp

/-- A MIG whose target passes the checks: a NOP to its own tile, else a migration. -/
theorem execMig_target {a : Reg} (hr : s.Readable [a]) (h2 : (s.me.reg a).toNat / 2 ^ 60 = 2) (hx : (s.me.reg a).toNat % 2 ^ 60 < 2 ^ 36)
    (hp : s.inPartition s.cur.tile (namedTile s.cur.tile (s.me.reg a)) = true) :
    execMig a s = if namedTile s.cur.tile (s.me.reg a) = s.cur.tile then s.done s.me
      else s.migrate s.me [a] (namedTile s.cur.tile (s.me.reg a)) (s.me.reg a) := by
  obtain ⟨hs, hk, hb⟩ := layout_of_space2 h2 hx
  rw [execMig, s.withRegs_full _ hr]
  rw [hs] at hk
  simp only [hk, hb, hs, hp, Bool.not_true, Bool.false_eq_true, if_false, ne_eq, not_true_eq_false]

end

/-! ### A migrant leaves (06 R130) -/

theorem State.refill_noGuests {s : State} {k : TileId} (h : (s.tile k).c.guests = []) (n : Nat) : s.refill k n = s := by
  cases n with
  | zero => rfl
  | succ n =>
    rw [State.refill, h]
    split
    · simp_all
    · rfl

theorem State.enterSlot_sameContexts (s : State) (k : TileId) (i : Fin 16) (th : Thread) (refused : Option Word) :
    s.SameContexts (s.enterSlot k i th refused) := by
  unfold State.enterSlot
  dsimp only
  split
  · exact State.setTile_sameContexts rfl
  · refine .trans ?_ (State.setRouter_sameContexts rfl)
    exact State.setTile_sameContexts rfl
theorem State.refill_sameContexts (s : State) (k : TileId) (n : Nat) : s.SameContexts (s.refill k n) := by
  induction n generalizing s with
  | zero => exact .refl s
  | succ n ih =>
    unfold State.refill
    split
    · refine .trans (.trans ?_ (State.enterSlot_sameContexts _ k _ _ _)) (ih _)
      exact State.setCtx_sameContexts s k _
    · exact .refl s

/-- What a home tile keeps of a thread that leaves for tile `t` (06 R127). -/
def Thread.reservation (th : Thread) (t : TileId) : Resv :=
  { away := t, splim := th.splim, spov := th.spov, spovlim := th.spovlim, bounces := 0, launch := th.launch, transit := true, fills := []
    waiting := none }

/-- The home tile of a thread that leaves for tile `t` keeps its reservation; another keeps nothing. -/
def State.reserve (s : State) (k : TileId) (th : Thread) (t : TileId) : State :=
  if th.atHome k then s.setCtx k { (s.tile k).c with resv := (s.tile k).c.resv.set th.hslot.toNat (th.reservation t) } else s
theorem State.reserve_keeps {α : Type} (p : Tile → α) (hp : ∀ (t : Tile) rs, p { t with c := { t.c with resv := rs } } = p t)
    (s : State) (k : TileId) (th : Thread) (t : TileId) (j : TileId) : p ((s.reserve k th t).tile j) = p (s.tile j) := by
  unfold State.reserve
  split
  · exact State.read_setTile p (hp _ _) j
  · rfl
theorem State.reserve_sameContexts (s : State) (k : TileId) (th : Thread) (t : TileId) : s.SameContexts (s.reserve k th t) :=
  s.reserve_keeps (fun t => t.r.ctx) (fun _ _ => rfl) k th t
theorem State.reserve_sameMemory (s : State) (k : TileId) (th : Thread) (t : TileId) : SameMemory s (s.reserve k th t) := by
  unfold State.reserve
  split
  · exact State.setCtx_sameMemory rfl
  · exact .refl s

/-- A migrant leaves its slot, which threads of the box room may take, and its packet is in the port's buffer. -/
theorem State.sendMigrant_spec {s : State} {k t : TileId} (hl : s.leavesShadow k t = false) (j : Fin 16) (th : Thread) (live : BitVec 32)
    (va : Word) :
    ((s.tile k).c.guests = [] → ((s.sendMigrant k j th live t va).tile k).slot j = none)
      ∧ (s.sendMigrant k j th live t va).Leaving k .migrantArrival (.migrant t k (th.travel live) va)
      ∧ SameMemory s (s.sendMigrant k j th live t va) := by
  let s1 := s.setTile k ((s.tile k).setSlot j none)
  let s2 := s1.reserve k th t
  have hctx : s.SameContexts (s2.refill k 16) :=
    .trans (.trans (State.setTile_sameContexts (by rfl)) (s1.reserve_sameContexts k th t)) (s2.refill_sameContexts k 16)
  obtain ⟨p, hp, hev, harg⟩ := State.packet_eq_inject ((hctx.leavesShadow k t).trans hl) 2 migrantFlits .migrantArrival
    (.migrant t k (th.travel live) va)
  have he : s.sendMigrant k j th live t va = (s2.refill k 16).inject k p := hp
  rw [he]
  refine ⟨fun hg => ?_, hev ▸ harg ▸ State.inject_leaving _ k p, ?_⟩
  · have h1 : s1.tile k = (s.tile k).setSlot j none := s.tile_setTile_self k _
    have hg2 : (s2.tile k).c.guests = [] :=
      (s1.reserve_keeps (fun t => t.c.guests) (fun _ _ => rfl) k th t k).trans ((congrArg (fun t => t.c.guests) h1).trans hg)
    rw [State.refill_noGuests hg2]
    refine (congrArg (fun c : TileCtx => c.slots[j]) (State.tile_inject_c ..)).trans ?_
    refine (s1.reserve_keeps (fun t => t.slot j) (fun _ _ => rfl) k th t k).trans ?_
    rw [h1]
    exact Tile.slot_setSlot_self ..
  · refine .trans (.trans (.trans ?_ (State.reserve_sameMemory s1 k th t)) (State.refill_refits s2 k 16).mem) (State.inject_sameMemory ..)
    exact State.setTile_sameMemory rfl

section
variable {s : State} {th : Thread} {rs : List Reg} {t : TileId} {va : Word}

theorem State.migrate_inTrap (h : th.xlvl ≠ 0) : s.migrate th rs t va = s.trap cMigrateOverweight 0xFF va := if_pos h

/-- A migrant with few enough live registers, none of them empty, and no stores pending leaves. -/
theorem State.migrate_leaves {m : BitVec 32} (hx : th.xlvl = 0)
    (hm : th.search (s.here.launchOf th.lix).live (th.pc.toNat / 2) 0 (s.here.launchOf th.lix).nlive.toNat none 33 = .found (some m))
    (hc : maskCount (m ||| regsMask rs) ≤ 10) (hs : s.storesPending s.cur.tile th = false)
    (he : (m ||| regsMask rs) &&& ~~~(th.full ||| 1) = 0) :
    s.migrate th rs t va = .next (s.sendMigrant s.cur.tile s.cur.slot th (m ||| regsMask rs) t va) := by
  rw [State.migrate, if_neg (not_not_intro hx)]
  dsimp only
  rw [hm]
  dsimp only
  rw [if_neg (Nat.not_lt.2 hc), hs, if_neg Bool.false_ne_true, if_neg (not_not_intro he)]
end

theorem regsMask_singleton (a : Reg) : regsMask [a] = regBit a := BitVec.zero_or

/-! ### What a migrant carries (06 R130) -/

theorem Thread.travel_reg (th : Thread) (live : BitVec 32) (r : Reg) :
    (th.travel live).reg r = if live.getLsbD r.val then th.reg r else 0 := by
  by_cases h : r = 0
  · subst h; simp
  · simp [Thread.reg, Thread.travel, h]
theorem Thread.travel_isFull (th : Thread) (live : BitVec 32) (r : Reg) : (th.travel live).isFull r = true := by
  have h : ∀ r : Reg, (Thread.reset.full).getLsbD r.val = true := by decide
  rw [Thread.isFull, show (th.travel live).full = Thread.reset.full from rfl, h, Bool.or_true]

theorem Thread.travel_tid (th : Thread) (live : BitVec 32) : (th.travel live).tid = th.tid := by
  simp only [Thread.tid, Thread.travel]

/-! ### CKPT, SIGA and QPOST (14 R294 to R296) -/

section
variable {s : State}

theorem State.me_requestBoundary (s : State) (k : TileId) : (s.requestBoundary k).me = s.me := by
  unfold State.requestBoundary
  dsimp only
  (repeat' split) <;> exact State.me_setTile rfl
@[simp] theorem State.requestBoundary_cur (s : State) (k : TileId) : (s.requestBoundary k).cur = s.cur := by
  unfold State.requestBoundary
  dsimp only
  (repeat' split) <;> rfl

/-- CKPT of a thread on a live tile: the boundary is requested, or deferred behind the one that is not committed. -/
theorem ckpt_requests (hm : s.here.r.mode = .live) (d : Reg) :
    Completes (.ckpt d) s fun u => u.ParkedFor (.ckpt d) ∧ SameMemory s u
      ∧ (if s.here.r.ship.isSome then u.here.r.deferred else u.here.r.want) = true := by
  let t := s.park s.me (.ckpt d)
  have hr : (t.tile s.cur.tile).r = s.here.r := s.tile_park_r s.me (.ckpt d) s.cur.tile
  refine ⟨t.requestBoundary s.cur.tile, rfl, (s.park_parkedFor _ _).of_me (t.me_requestBoundary _),
    (s.park_sameMemory _ _).trans (t.requestBoundary_sameMemory _), ?_⟩
  have hh : (t.requestBoundary s.cur.tile).here = (t.requestBoundary s.cur.tile).tile s.cur.tile :=
    congrArg (fun c : Cursor => (t.requestBoundary s.cur.tile).tile c.tile) (t.requestBoundary_cur _)
  rw [hh, ← hr]
  split
  · rename_i h
    rw [State.requestBoundary_deferred (.inl ⟨hr.symm ▸ hm, h⟩)]
    exact congrArg (fun t : Tile => t.r.deferred) (State.tile_setRouter_self ..)
  · rename_i h
    exact State.requestBoundary_wanted (hr.symm ▸ hm) (Option.not_isSome_iff_eq_none.1 h)

theorem siga_folds {a : Reg} (hr : s.Readable [a]) :
    Retires (.siga a) s { s.me with sig := fold64 s.me.sig (leBytes 8 (s.me.reg a).toNat), sigLen := s.me.sigLen + 8 } := by
  rw [Retires, exec_siga, execSiga, s.withRegs_full _ hr, Thread.fold, leBytes_length]
  rfl

/-- QPOST with an operand that passes the checks: 64 bytes go to the control die, but for the shadow. -/
theorem execQpost_operand {d a b : Reg} (hr : s.Readable [a, b]) (hp : s.poolOperand (s.me.reg a) 8 64 64 = none) :
    execQpost d a b s = if isShadow s.cur.tile then s.done (s.me.setReg d 0)
      else .next ((s.park s.me (.qpost d)).askMemory s.cur.tile 3 .qpostRequest
        (.post s.nextRef s.here.r.ctx ((s.me.reg b).toNat % 64) (s.here.c.pool.bytes ((s.me.reg a).toNat % 2 ^ 18) 64))) := by
  rw [execQpost, s.withRegs_full _ hr]
  simp only [hp, bitsOf_zero]
  rfl
end

/-- MIG with a target in the partition: the conditions on its operand, as the statement has them. -/
def State.MigTarget (s : State) (a : Reg) : Prop :=
  (s.me.reg a).toNat / 2 ^ 60 = 2 ∧ (s.me.reg a).toNat % 2 ^ 60 < 2 ^ 36
    ∧ s.inPartition s.cur.tile (namedTile s.cur.tile (s.me.reg a)) = true

section
variable {s : State} {d a b : Reg}

theorem mig_nop (hr : s.Readable [a]) (ht : s.MigTarget a) (he : namedTile s.cur.tile (s.me.reg a) = s.cur.tile) :
    Retires (.mig a) s s.me := by
  obtain ⟨h2, hx, hp⟩ := ht
  rw [Retires, exec_mig, execMig_target hr h2 hx hp, if_pos he]
  rfl
theorem mig_inTrap (hr : s.Readable [a]) (ht : s.MigTarget a) (he : namedTile s.cur.tile (s.me.reg a) ≠ s.cur.tile) (hx : s.me.xlvl ≠ 0) :
    Traps (.mig a) s 0x10 0xFF (s.me.reg a) := by
  obtain ⟨h2, hb, hp⟩ := ht
  rw [Traps, exec_mig, execMig_target hr h2 hb hp, if_neg he, State.migrate_inTrap hx]
  rfl
theorem mig_leaves {m : BitVec 32} (hr : s.Readable [a]) (ht : s.MigTarget a) (he : namedTile s.cur.tile (s.me.reg a) ≠ s.cur.tile)
    (hx : s.me.xlvl = 0) (hm : s.me.search (s.here.launchOf s.me.lix).live (s.me.pc.toNat / 2) 0 (s.here.launchOf s.me.lix).nlive.toNat none 33
      = .found (some m)) (hc : maskCount (m ||| regBit a) ≤ 10) (hs : s.storesPending s.cur.tile s.me = false)
    (hf : (m ||| regBit a) &&& ~~~(s.me.full ||| 1) = 0) (hl : s.leavesShadow s.cur.tile (namedTile s.cur.tile (s.me.reg a)) = false) :
    Completes (.mig a) s fun u => (s.here.c.guests = [] → (u.tile s.cur.tile).slot s.cur.slot = none)
      ∧ u.Leaving s.cur.tile .migrantArrival
          (.migrant (namedTile s.cur.tile (s.me.reg a)) s.cur.tile (s.me.travel (m ||| regBit a)) (s.me.reg a)) ∧ SameMemory s u := by
  obtain ⟨h2, hb, hp⟩ := ht
  rw [← regsMask_singleton a] at hc hf ⊢
  refine ⟨_, ?_, State.sendMigrant_spec hl s.cur.slot s.me (m ||| regsMask [a]) (s.me.reg a)⟩
  rw [exec_mig, execMig_target hr h2 hb hp, if_neg he, State.migrate_leaves hx hm hc hs hf]

theorem qpost_asks (hr : s.Readable [a, b]) (hp : s.poolOperand (s.me.reg a) 8 64 64 = none) (hk : isShadow s.cur.tile = false) :
    Asks (.qpost d a b) s (.qpost d) .qpostRequest
      (.post s.nextRef s.here.r.ctx ((s.me.reg b).toNat % 64) (s.here.c.pool.bytes ((s.me.reg a).toNat % 2 ^ 18) 64)) := by
  refine ⟨_, ?_, s.park_ask_asks s.me (.qpost d) 3 .qpostRequest _⟩
  rw [exec_qpost, execQpost_operand hr hp, hk, if_neg Bool.false_ne_true]
theorem qpost_shadow (hr : s.Readable [a, b]) (hp : s.poolOperand (s.me.reg a) 8 64 64 = none) (hk : isShadow s.cur.tile = true) :
    Sets (.qpost d a b) s d 0 := by
  rw [Sets, Retires, exec_qpost, execQpost_operand hr hp, if_pos hk]
  rfl
end

/-- Settles O34: each service by the checks its rule names; what a migrant carries by the fields of `travel`. -/
theorem threadServices : Obligations.ThreadServices := by
  refine ⟨fun s d a b => ?_, fun th live r => ?_, fun s a b d => ?_⟩
  · exact ⟨fun h => execTask_held h, fun h hq => execTask_noQueue h hq, task_asks, fun h => execTdone_none h, tdone_retires, mig_nop, mig_inTrap,
      fun m => mig_leaves, fun hm => ckpt_requests hm d, siga_folds, qpost_asks, qpost_shadow⟩
  · refine ⟨th.travel_reg live r, th.travel_isFull live r, ?_⟩
    unfold Thread.travel
    exact ⟨rfl, rfl, rfl, th.travel_tid live, rfl, rfl, rfl, rfl, rfl, rfl, rfl, rfl, rfl, rfl, rfl, rfl, rfl, rfl,
      rfl⟩
  · refine ⟨task_asks, tdone_retires, fun hr ht he => ⟨_, mig_nop hr ht he, rfl⟩, fun m hr ht he hx hm hc hs hf hl => ?_,
      fun hm => ckpt_requests hm d, fun hr => ⟨_, siga_folds hr, rfl⟩, qpost_asks, fun hr hp hk => ⟨_, qpost_shadow hr hp hk, rfl⟩⟩
    obtain ⟨u, hu, hslot, hleave, -⟩ := mig_leaves hr ht he hx hm hc hs hf hl
    exact ⟨u, hu, hleave, hslot⟩

end Sys2Proof.Machine
end

section
/-!
PROOFS. Requests for a pre-emption, and how a tile stops (06 R136, R138, R140, R141).
-/
namespace Sys2Proof.Machine

/-! ### What an operation changes at its own tile alone -/

theorem Table.mem_set_of_ne {α : Type} {t : Table α} {k : Nat} (v : α) {y : Nat × α} (hy : y ∈ t) (h : y.1 ≠ k) : y ∈ Table.set t k v := by
  induction t with
  | nil => exact absurd hy List.not_mem_nil
  | cons c t ih =>
    unfold Table.set
    split
    · exact .tail _ hy
    · rcases List.mem_cons.1 hy with rfl | hy
      · rw [if_neg h]
        exact List.mem_cons_self
      · split
        · exact .tail _ hy
        · exact .tail _ (ih hy)

/-! ### A tile stops (06 R136, R138) -/

/-- Every router of a tile but for its log. -/
theorem State.log_keeps {α : Type} (p : Router → α) (hp : ∀ (r : Router) l, p { r with log := l } = p r) (s : State) (k : TileId)
    (kind slot len : Nat) (ev : Instr) (arg : Payload) (val : Word) (j : TileId) :
    p ((s.log k kind slot len ev arg val).tile j).r = p (s.tile j).r := by
  unfold State.log State.logRec
  dsimp only
  split
  · rfl
  · refine State.read_setTile (fun t => p t.r) ?_ j
    exact hp _ _

/-- An operation that is to stop at a progress point changes the agenda alone. -/
theorem State.stopAtPoint_agenda (s : State) (k : TileId) (o : EngOp) : ∃ a, s.stopAtPoint k o = { s with agenda := a } := by
  unfold State.stopAtPoint
  split
  · exact ⟨_, rfl⟩
  · split
    · exact ⟨_, rfl⟩
    · exact ⟨_, rfl⟩

theorem State.foldl_agenda {α : Type} {f : State → α → State} (hf : ∀ s x, ∃ a, f s x = { s with agenda := a }) (l : List α) (s : State) :
    ∃ a, l.foldl f s = { s with agenda := a } := by
  refine List.foldlRecOn (motive := fun u => ∃ a, u = { s with agenda := a }) l f ⟨s.agenda, rfl⟩ fun u ⟨a, hu⟩ x _ => ?_
  obtain ⟨b, hb⟩ := hf u x
  exact ⟨b, by rw [hb, hu]⟩

/-- What is under way at tile `k` stops: operations at their progress points, timers where they are. -/
def State.halt (s : State) (k : TileId) : State := ((s.tile k).c.ops.foldl (fun s o => s.stopAtPoint k o) s).freezeBut k goesOn

/-- Of the state that changes the agenda and the tile's frozen timers. -/
theorem State.halt_eq (s : State) (k : TileId) :
    ∃ a fs, s.halt k = ({ s with agenda := a } : State).setCtx k { (s.tile k).c with frozen := fs } := by
  obtain ⟨a, h⟩ := State.foldl_agenda (fun s o => s.stopAtPoint_agenda k o) (s.tile k).c.ops s
  rw [State.halt, h]
  exact ⟨_, _, rfl⟩

/-- The tile is stopping from this cycle on, with the rest of its round's limit; its save and its watchdog are set. -/
def State.setStopping (s : State) (k : TileId) : State :=
  let t := s.tile k
  let coll := t.c.coll.map (fun (x : Coll) => if x.state = 1 then { x with left := x.ends - t.r.cyc } else x)
  let s := s.setTile k { c := { t.c with coll := coll, preempt := false }
                         r := { t.r with mode := .stopping, stopped := t.r.cyc + 1 } }
  (s.after (t.c.stopTime + saveTime (s.saveSizes t.r.ctx)) .preemptSaveDone (.tileNum k 0)).after
    (s.cluster (clusterOf k)).wdlimit .watchdogFire (.tileNum k (t.r.cyc + 1))

theorem State.stopTile_eq (s : State) (k : TileId) : s.stopTile k = (s.halt k).setStopping k := rfl

/-- What a stop in cycle `cyc` of tile `k` leaves, with operations that take `stop` cycles to a progress point. -/
structure State.Stops (s u : State) (k : TileId) (cyc stop : Nat) : Prop where
  mode : (u.tile k).r.mode = .stopping
  stopped : (u.tile k).r.stopped = cyc + 1
  save : ∃ t, stop ≤ t ∧ s.DueIn u t .preemptSaveDone (.tileNum k 0)
  watch : s.DueIn u (s.cluster (clusterOf k)).wdlimit .watchdogFire (.tileNum k (cyc + 1))

theorem State.setStopping_stops (s : State) (k : TileId) : s.Stops (s.setStopping k) k (s.tile k).r.cyc (s.tile k).c.stopTime where
  mode := congrArg (fun t : Tile => t.r.mode) (s.tile_setTile_self k _)
  stopped := congrArg (fun t : Tile => t.r.stopped) (s.tile_setTile_self k _)
  save := ⟨_, Nat.le_add_right _ _, .after (State.after_dueIn rfl ..) ..⟩
  watch := State.after_dueIn rfl ..

theorem State.stopTile_stops (s : State) (k : TileId) : s.Stops (s.stopTile k) k (s.tile k).r.cyc (s.tile k).c.stopTime := by
  obtain ⟨a, fs, h⟩ := s.halt_eq k
  have hstop := (s.halt k).setStopping_stops k
  have ht : (s.halt k).tile k = { s.tile k with c := { (s.tile k).c with frozen := fs } } := by rw [h]; exact State.tile_setCtx_self ..
  have hnow : (s.halt k).now = s.now := by rw [h]; rfl
  have hcl : (s.halt k).clusters = s.clusters := by rw [h]; rfl
  rw [ht] at hstop
  obtain ⟨hm, hs, hsave, hwatch⟩ := hstop
  simp only [State.DueIn, State.cluster, hnow, hcl] at hsave hwatch
  exact ⟨hm, hs, hsave, hwatch⟩

/-! ### GANG_PREEMPT (06 R136, R140, R141) -/

theorem State.requestBoundary_mode (s : State) (k : TileId) : ((s.requestBoundary k).tile k).r.mode = (s.tile k).r.mode := by
  unfold State.requestBoundary
  dsimp only
  (repeat' split) <;> simp
theorem State.requestBoundary_now (s : State) (k : TileId) : (s.requestBoundary k).now = s.now := by
  unfold State.requestBoundary
  dsimp only
  (repeat' split) <;> rfl
theorem State.selfRequest_keeps (s : State) (k : TileId) :
    ((s.selfRequest k).tile k).r.mode = (s.tile k).r.mode ∧ (s.selfRequest k).now = s.now := by
  unfold State.selfRequest
  dsimp only
  split
  · exact ⟨rfl, rfl⟩
  · split
    · exact ⟨s.requestBoundary_mode k, s.requestBoundary_now k⟩
    · split
      · exact ⟨s.requestBoundary_mode k, s.requestBoundary_now k⟩
      · exact ⟨rfl, rfl⟩

section
variable {s : State} {k : TileId}

/-- A boundary is to be taken at the end of this cycle, which the request lets go first (06 R141). -/
def State.boundaryGoes (s : State) (k : TileId) : Bool := ((s.selfRequest k).tile k).r.want && !((s.selfRequest k).tile k).r.quiet

theorem gangPreempt_notLive (hm : (s.tile k).r.mode ≠ .live) : Becomes .gangPreempt (.tile k) s s := by
  intro hi
  rw [exec_gangPreempt, execGangPreempt, hi]
  simp [hm]
theorem gangPreempt_live (hm : (s.tile k).r.mode = .live) : Becomes .gangPreempt (.tile k) s (s.preemptTile k (.tile k)) := by
  intro hi
  rw [exec_gangPreempt, execGangPreempt, hi]
  simp [hm]

theorem gangPreempt_boundary (hm : (s.tile k).r.mode = .live) (hg : s.boundaryGoes k = true) : Happens .gangPreempt (.tile k) s fun u =>
    s.DueIn u 1 .gangPreempt (.tileNum k 1) ∧ (u.tile k).r.mode = .live := by
  obtain ⟨hmode, hnow⟩ := s.selfRequest_keeps k
  have e : s.preemptTile k (.tile k) = (s.selfRequest k).after 1 .gangPreempt (.tileNum k 1) := if_pos hg
  exact Becomes.happens (e ▸ gangPreempt_live hm) ⟨State.after_dueIn hnow .., hmode.trans hm⟩
theorem gangPreempt_stops (hm : (s.tile k).r.mode = .live) (hg : s.boundaryGoes k = false) : Happens .gangPreempt (.tile k) s fun u =>
    s.Stops u k (s.tile k).r.cyc (s.tile k).c.stopTime := by
  have e : s.preemptTile k (.tile k) = (s.log k kPreempt 0 0 .gangPreempt (.tile k) 0).stopTile k := if_neg (by simpa [State.boundaryGoes] using hg)
  have hspec := (s.log k kPreempt 0 0 .gangPreempt (.tile k) 0).stopTile_stops k
  have hc : ((s.log k kPreempt 0 0 .gangPreempt (.tile k) 0).tile k).c = (s.tile k).c := State.tile_logRec_c ..
  have hcyc : ((s.log k kPreempt 0 0 .gangPreempt (.tile k) 0).tile k).r.cyc = (s.tile k).r.cyc :=
    s.log_keeps Router.cyc (fun _ _ => rfl) k _ _ _ _ _ _ k
  rw [hc, hcyc] at hspec
  obtain ⟨hmode, hs, hsave, hwatch⟩ := hspec
  simp only [State.DueIn, State.cluster, State.log_now, State.log_clusters] at hsave hwatch
  exact Becomes.happens (e ▸ gangPreempt_live hm) ⟨hmode, hs, hsave, hwatch⟩

/-- The tile holds a request. -/
def State.holdRequest (s : State) (k : TileId) (arg : Payload) : State :=
  (s.note k .gangPreempt arg).setCtx k { ((s.note k .gangPreempt arg).tile k).c with preempt := true }

/-- The tile holds the request while its round is open. -/
theorem gangPreempt_holds (hm : (s.tile k).r.mode = .live) (ho : (s.tile k).c.roundOpen = true) : Happens .gangPreempt (.tileNum k 2) s fun u =>
    (u.tile k).c.preempt = true ∧ (u.tile k).r.mode = .live := by
  have e : Becomes .gangPreempt (.tileNum k 2) s (s.holdRequest k (.tileNum k 2)) := by
    intro hi
    rw [exec_gangPreempt, execGangPreempt, hi]
    dsimp only
    rw [if_neg (by simp [hm]), if_neg (by decide), if_pos ⟨rfl, ho⟩, ← hi]
    rfl
  have ht : (s.holdRequest k (.tileNum k 2)).tile k = _ := State.tile_setCtx_self ..
  refine e.happens ⟨congrArg (fun t : Tile => t.c.preempt) ht, (congrArg (fun t : Tile => t.r.mode) ht).trans ?_⟩
  exact (s.log_keeps Router.mode (fun _ _ => rfl) k _ _ _ _ _ _ k).trans hm
end

end Sys2Proof.Machine
end

section
/-!
PROOFS. The save of a tile (06 R136, R137, 09 R192).
-/
namespace Sys2Proof.Machine

/-! ### The save of a tile (06 R136, R137, 09 R192) -/

section
variable {s : State} {k : TileId} {phase : Nat}

theorem preemptSaveDone_notStopping (hp : phase ≠ 2) (hm : (s.tile k).r.mode ≠ .stopping) :
    Becomes .preemptSaveDone (.tileNum k phase) s s := by
  intro hi
  rw [exec_preemptSaveDone, execPreemptSaveDone, hi]
  simp [hp, hm]
theorem preemptSaveDone_busy (hp : phase ≠ 2) (hm : (s.tile k).r.mode = .stopping) (hq : (s.tile k).r.replay = true ∨ s.quiet k = false) :
    Becomes .preemptSaveDone (.tileNum k phase) s (s.after 1 .preemptSaveDone (.tileNum k phase)) := by
  intro hi
  rw [exec_preemptSaveDone, execPreemptSaveDone, hi]
  dsimp only
  rw [if_neg hp, if_neg (by simp [hm]), if_pos (by simpa using hq)]

/-- Spill records leave by the port; no time passes. -/
theorem State.spillAll_now (s : State) (k : TileId) : (s.spillAll k).now = s.now := by
  refine State.foldl_reads State.now (fun u x => ?_) _ s
  split
  · unfold State.spill
    split
    · rfl
    · split <;> rfl
  · rfl

theorem preemptSaveDone_spills (hm : (s.tile k).r.mode = .stopping) (hr : (s.tile k).r.replay = false) (hq : s.quiet k = true) :
    Happens .preemptSaveDone (.tileNum k 0) s fun u => s.DueIn u 1 .preemptSaveDone (.tileNum k 1) := by
  intro hi
  refine ⟨(s.spillAll k).after 1 .preemptSaveDone (.tileNum k 1), ?_, State.after_dueIn (s.spillAll_now k) ..⟩
  rw [exec_preemptSaveDone, execPreemptSaveDone, hi]
  simp [hm, hr, hq]

/-- `u` comes from `s` by reads through the gateways and records in the log of tile `k`. -/
structure State.Searched (k : TileId) (s u : State) : Prop where
  others : ∀ j, j ≠ k → u.tile j = s.tile j
  core : (u.tile k).c = (s.tile k).c
  serves : (u.tile k).r.ctx = (s.tile k).r.ctx
  listed : ∀ y ∈ s.tiles, y.1 ≠ k → y ∈ u.tiles
  slots : ∀ cl, (u.cluster cl).slotMap = (s.cluster cl).slotMap

namespace State.Searched

theorem refl (k : TileId) (s : State) : State.Searched k s s := ⟨fun _ _ => rfl, rfl, rfl, fun _ h _ => h, fun _ => rfl⟩
theorem trans {k : TileId} {s t u : State} (h : State.Searched k s t) (h' : State.Searched k t u) : State.Searched k s u where
  others j hj := (h'.others j hj).trans (h.others j hj)
  core := h'.core.trans h.core
  serves := h'.serves.trans h.serves
  listed y hy hk := h'.listed y (h.listed y hy hk) hk
  slots cl := (h'.slots cl).trans (h.slots cl)
theorem foldl {α : Type} {k : TileId} {f : State → α → State} (hf : ∀ (s : State) x, State.Searched k s (f s x)) (l : List α) (s : State) :
    State.Searched k s (l.foldl f s) := List.foldlRecOn l f (refl k s) fun _ h x _ => h.trans (hf _ x)

theorem setRouter (k : TileId) (s : State) {r : Router} (h : r.ctx = (s.tile k).r.ctx) : State.Searched k s (s.setRouter k r) where
  others j hj := s.tile_setRouter_ne r hj
  core := by rw [s.tile_setRouter_self]
  serves := by rw [s.tile_setRouter_self, h]
  listed y hy hk := Table.mem_set_of_ne _ hy hk
  slots _ := rfl
theorem mark (k : TileId) (s : State) (kind slot len : Nat) (val : Word) : State.Searched k s (s.mark k kind slot len val) := by
  unfold State.mark State.log State.logRec
  dsimp only
  split
  · exact refl k s
  · exact setRouter k s rfl
theorem setCluster (k : TileId) (s : State) {cl : Nat} {c : Cluster} (h : c.slotMap = (s.cluster cl).slotMap) :
    State.Searched k s (s.setCluster cl c) where
  others _ _ := rfl
  core := rfl
  serves := rfl
  listed _ h _ := h
  slots j := by
    by_cases hj : j = cl
    · subst hj
      rw [State.cluster, State.setCluster, Table.get?_set_self]
      exact h
    · rw [State.cluster, State.setCluster, Table.get?_set_ne _ _ hj]
      rfl

theorem isLost {k : TileId} {s u : State} (h : State.Searched k s u) (t : TileId) : u.isLost t = s.isLost t := by
  rw [State.isLost, State.isLost, h.slots]

theorem mem_tilesOf {k t : TileId} {s u : State} (h : State.Searched k s u) {n : Nat} (ht : t ∈ s.tilesOf n) (hk : t ≠ k) : t ∈ u.tilesOf n := by
  obtain ⟨y, hy, rfl⟩ := List.mem_map.1 ht
  obtain ⟨hy, hn⟩ := List.mem_filter.1 hy
  exact List.mem_map.2 ⟨y, List.mem_filter.2 ⟨h.listed y hy hk, hn⟩, rfl⟩

end State.Searched

/-! #### The search for live registers -/

theorem State.translate_searched (k : TileId) (s : State) (cl ctx : Nat) (host write : Bool) (va : Nat) :
    State.Searched k s (s.translate cl ctx host write va).1 := by
  unfold State.translate
  split
  · exact .refl k s
  · split
    · exact .refl k s
    · refine .setCluster k s ?_
      rfl
theorem State.cacheRead_searched (j k : TileId) (s : State) (th : Option Thread) (pa n : Nat) :
    State.Searched j s (s.cacheRead k th pa n).1 := .setCluster j s rfl
theorem State.gateRead_searched (j k : TileId) (s : State) (th : Option Thread) (g : GateRead) : State.Searched j s (s.gateRead k th g).1 := by
  have ht := s.translate_searched j (clusterOf k) g.ctx g.host false g.va
  unfold State.gateRead
  dsimp only
  split
  · exact .refl j s
  · split
    · exact ht
    · split
      · split <;> exact ht
      · split
        · exact ht.trans (State.cacheRead_searched j k _ th _ g.size)
        · split
          · exact ht
          · split
            · exact ht.trans (State.cacheRead_searched j k _ th _ g.size)
            · exact ht

theorem State.liveSearch_searched (k : TileId) (s : State) (base : Word) (h lo hi n : Nat) (e : Option (BitVec 32)) (fuel : Nat) :
    State.Searched k s (s.liveSearch k base h lo hi n e fuel).1 := by
  induction fuel generalizing s lo hi n e with
  | zero => exact .refl k s
  | succ fuel ih =>
    unfold State.liveSearch
    split
    · exact .refl k s
    · dsimp only
      split
      · exact State.gateRead_searched ..
      · split <;> exact (State.gateRead_searched ..).trans (ih ..)

theorem State.searchLive_searched (k : TileId) (s : State) (j : Fin 16) : State.Searched k s (s.searchLive k j) := by
  unfold State.searchLive
  split
  · exact .refl k s
  · split
    · exact .refl k s
    · exact (State.liveSearch_searched ..).trans (.foldl (fun _ _ => .mark ..) _ _)

/-- The live registers of the threads of tile `k` are looked up. -/
def State.searchAll (s : State) (k : TileId) : State := (List.finRange 16).foldl (fun s j => s.searchLive k j) s

/-- The save of a tile: the live registers of its threads are looked up, and it is saved. -/
def State.saved (s : State) (k : TileId) : State := (s.searchAll k).setRouter k { ((s.searchAll k).tile k).r with mode := .saved }

theorem State.saved_searched (s : State) (k : TileId) : State.Searched k s (s.saved k) := by
  have h : State.Searched k s (s.searchAll k) := .foldl (fun s j => s.searchLive_searched k j) _ s
  rw [State.saved]
  generalize s.searchAll k = u at h ⊢
  exact h.trans (.setRouter k u rfl)
theorem State.saved_mode (s : State) (k : TileId) : ((s.saved k).tile k).r.mode = .saved := by
  rw [State.saved, State.tile_setRouter_self]

/-- While a tile of the partition is not saved, the partition is not parked. -/
theorem State.tryPark_waits (h : s.allSaved (s.tile k).r.ctx = false) : s.tryPark k = s := by
  unfold State.tryPark
  dsimp only
  split
  · rfl
  · rw [if_pos (by simp [h])]

theorem preemptSaveDone_saved (hm : (s.tile k).r.mode = .stopping) (hr : (s.tile k).r.replay = false) (hq : s.quiet k = true) :
    Becomes .preemptSaveDone (.tileNum k 1) s ((s.saved k).tryPark k) := by
  intro hi
  rw [exec_preemptSaveDone, execPreemptSaveDone, hi]
  dsimp only
  rw [if_neg (by decide), if_neg (by simp [hm]), if_neg (by simp [hr, hq]), if_neg (by decide), State.saved, State.searchAll]

theorem preemptSaveDone_saves (hm : (s.tile k).r.mode = .stopping) (hr : (s.tile k).r.replay = false) (hq : s.quiet k = true)
    (ht : ∃ t ∈ s.tilesOf (s.tile k).r.ctx, t ≠ k ∧ (s.tile t).r.mode ≠ .saved ∧ s.isLost t = false) :
    Happens .preemptSaveDone (.tileNum k 1) s fun u =>
      (u.tile k).r.mode = .saved ∧ (u.tile k).c.slots.map (Option.map Thread.pc) = (s.tile k).c.slots.map (Option.map Thread.pc) := by
  have hs := s.saved_searched k
  obtain ⟨t, ht, hk, hns, hl⟩ := ht
  have hall : (s.saved k).allSaved ((s.saved k).tile k).r.ctx = false := by
    rw [hs.serves, State.allSaved, List.all_eq_false]
    exact ⟨t, hs.mem_tilesOf ht hk, by rw [hs.others t hk, hs.isLost, hl]; simp [hns]⟩
  have e := preemptSaveDone_saved hm hr hq
  rw [State.tryPark_waits hall] at e
  exact e.happens ⟨s.saved_mode k, by rw [hs.core]⟩
end

end Sys2Proof.Machine
end

section
/-!
PROOFS. Partitions that are parked, restores that begin, and time slices (06 R136 to R139).
-/
namespace Sys2Proof.Machine

/-! ### Partitions that wait, and commands that complete -/

/-- Of what wakes waiting partitions, the context that made room, the tiles and the events on their way stay. -/
theorem State.wakeQueued_keeps (s : State) (n reqAt : Nat) : (s.wakeQueued n reqAt).tiles = s.tiles
    ∧ (s.wakeQueued n reqAt).dev.ctx? n = s.dev.ctx? n ∧ ∀ x ∈ s.agenda, x ∈ (s.wakeQueued n reqAt).agenda := by
  refine List.foldlRecOn (motive := fun u : State => u.tiles = s.tiles ∧ u.dev.ctx? n = s.dev.ctx? n ∧ ∀ x ∈ s.agenda, x ∈ u.agenda) _ _
    ⟨rfl, rfl, fun _ h => h⟩ fun u ⟨ht, hc, ha⟩ y hy => ⟨ht, ?_, fun x hx => List.mem_append_left _ (ha x hx)⟩
  have hne : n ≠ y.1 := fun e => by simp [e] at hy
  exact (Table.get?_set_ne _ _ hne).trans hc

/-- The completion of a command that is given, with its status, detail and value. -/
def State.completeIf (s : State) (cmd : Option (Nat × Nat)) (status detail : Nat) (v : Word) : State :=
  match cmd with
  | some (q, id) => s.complete q id status detail v
  | none => s
theorem State.completeIf_keeps (s : State) (cmd : Option (Nat × Nat)) (status detail : Nat) (v : Word) :
    (s.completeIf cmd status detail v).tiles = s.tiles ∧ (s.completeIf cmd status detail v).dev = s.dev
      ∧ (s.completeIf cmd status detail v).now = s.now := by
  unfold State.completeIf
  split <;> exact ⟨rfl, rfl, rfl⟩
theorem State.completeIf_completing (s : State) {cmd : Option (Nat × Nat)} {q id : Nat} (h : cmd = some (q, id)) (status detail : Nat) (v : Word) :
    (s.completeIf cmd status detail v).Completing q id status detail v := by
  subst h
  exact s.complete_completing ..

theorem State.Pending.mono {s u : State} {ev : Instr} {arg : Payload} (h : s.Pending ev arg) (ha : ∀ x ∈ s.agenda, x ∈ u.agenda) :
    u.Pending ev arg := by
  obtain ⟨x, hx, e⟩ := h
  exact ⟨x, ha x hx, e⟩

/-! ### The last save parks the partition (06 R136, R137) -/

theorem State.writeImages_tiles (s : State) (a : Nat) (ks : List TileId) : (s.writeImages a ks).tiles = s.tiles := by
  induction ks generalizing s a with
  | nil => rfl
  | cons k ks ih => exact ih ..

/-- The context of a partition as it stands when it is parked. -/
def Ctx.parkedAs (c : Ctx) (image : Table TileCtx) (sizes : Table Nat) : Ctx :=
  { c with res := .parked, image := image, sizes := sizes, imageAt := none, deferred := false, suspendCmd := none }

theorem State.parkCtx_eq (s : State) (n : Nat) (c : Ctx) :
    s.parkCtx n c =
      ((((s.tilesOf n).foldl State.vacate (s.writeImages c.park (s.tilesOf n))).completeIf c.suspendCmd statusOk 0 0).setCtxRec n
        (c.parkedAs ((s.tilesOf n).map (fun k => (k, (s.writeImages c.park (s.tilesOf n)).savedCtx k))) (s.saveSizes n))).wakeQueued n c.reqAt := by
  unfold State.parkCtx State.completeIf
  rfl

theorem slots_eq_reset {t : Tile} (h : ∀ j, t.slot j = none) : t.c.slots = TileCtx.reset.slots :=
  Vector.ext fun i hi => (h ⟨i, hi⟩).trans (Vector.getElem_replicate ..).symm

theorem State.vacated_tiles (s : State) (ks : List TileId) {t : TileId} (h : t ∈ ks) :
    ((ks.foldl State.vacate s).tile t).r.ctx = 0 ∧ ((ks.foldl State.vacate s).tile t).c.slots = TileCtx.reset.slots := by
  have hp := (State.foldl_positions (g := Occupancy.vacated) State.vacate_positions
    (fun o => by simp only [Occupancy.vacated]; split <;> rfl) ks s).2 t
  rw [if_pos h] at hp
  obtain ⟨hc, hs, -⟩ := State.tile_of_vacated hp
  exact ⟨hc, slots_eq_reset hs⟩

theorem State.parkCtx_spec (s : State) (n : Nat) (c : Ctx) :
    ((s.parkCtx n c).dev.ctx? n).map Ctx.res = some .parked
      ∧ (∀ t ∈ s.tilesOf n, ((s.parkCtx n c).tile t).r.ctx = 0 ∧ ((s.parkCtx n c).tile t).c.slots = TileCtx.reset.slots)
      ∧ ∀ q id, c.suspendCmd = some (q, id) → (s.parkCtx n c).Completing q id 0 0 0 := by
  rw [s.parkCtx_eq n c]
  generalize s.writeImages c.park (s.tilesOf n) = u
  generalize (s.tilesOf n).map _ = image
  generalize s.saveSizes n = sizes
  let v := (s.tilesOf n).foldl State.vacate u
  obtain ⟨ht, hdev, -⟩ := v.completeIf_keeps c.suspendCmd statusOk 0 0
  obtain ⟨ht', hd', ha'⟩ := ((v.completeIf c.suspendCmd statusOk 0 0).setCtxRec n (c.parkedAs image sizes)).wakeQueued_keeps n c.reqAt
  refine ⟨?_, fun t hk => ?_, fun q id hc => ?_⟩
  · rw [hd', State.ctx?_setCtxRec]
    rfl
  · rw [State.tile_of_tiles (ht'.trans ht)]
    exact u.vacated_tiles _ hk
  · exact (v.completeIf_completing hc statusOk 0 0).mono ha'

/-- The partition is parked once all its tiles are saved and nothing is in flight for it. -/
theorem State.tryPark_parks {s : State} {k : TileId} {d : Ctx} (hd : s.dev.ctx? (s.tile k).r.ctx = some d) (hr : d.res = .stopping)
    (ha : s.allSaved (s.tile k).r.ctx = true) (hq : s.ctxQuiet (s.tile k).r.ctx = true) : s.tryPark k = s.parkCtx (s.tile k).r.ctx d := by
  unfold State.tryPark
  dsimp only
  rw [hd]
  dsimp only
  rw [if_neg (by simp [hr, ha]), if_pos hq]

theorem preemptSaveDone_parks {s : State} {k : TileId} {n : Nat} {d : Ctx} (hk : (s.tile k).r.ctx = n) (hd : s.dev.ctx? n = some d)
    (hr : d.res = .stopping) (hm : (s.tile k).r.mode = .saved) (ha : s.allSaved n = true) (hq : s.ctxQuiet n = true) :
    Becomes .preemptSaveDone (.tileNum k 2) s (s.parkCtx n d) := by
  subst hk
  intro hi
  rw [exec_preemptSaveDone, execPreemptSaveDone, hi]
  dsimp only
  rw [if_pos rfl, if_pos (by simp [hm]), State.tryPark_parks hd hr ha hq]

/-! ### A restore begins, or waits for its place (06 R137) -/

section
variable {s : State} {n : Nat} {d : Ctx}

theorem restore_notParked (hd : s.dev.ctx? n = some d) (hr : d.res ≠ .parked) : Becomes .restore (.num n) s s := by
  intro hi
  rw [exec_restore, execRestore, hi]
  dsimp only
  rw [hd]
  dsimp only
  rw [if_pos (by simp [hr])]

/-- The partitions whose places meet the place of `n`. -/
def State.occupants (s : State) (n : Nat) (d : Ctx) : Table Ctx := s.dev.contexts.filter (fun y => y.1 != n && y.2.holds && y.2.meets d)

theorem restore_parked (hd : s.dev.ctx? n = some d) (hr : d.res = .parked) : Becomes .restore (.num n) s
    (if (s.occupants n d).isEmpty then (s.setCtxRec n { d with res := .restoring, queued := false }).after (s.restoreTime d) .restore (.nums n 0)
     else (s.occupants n d).foldl (fun s y => s.after 1 .timeSliceExpire (.num y.1)) (s.setCtxRec n { d with queued := true })) := by
  intro hi
  rw [exec_restore, execRestore, hi]
  dsimp only
  rw [hd]
  dsimp only
  rw [if_neg (by simp [hr]), State.occupants]
  split <;> rfl

theorem restore_begins (hd : s.dev.ctx? n = some d) (hr : d.res = .parked) (ho : s.occupants n d = []) : Happens .restore (.num n) s fun u =>
    (u.dev.ctx? n).map Ctx.res = some .restoring ∧ s.DueIn u (s.restoreTime d) .restore (.nums n 0) ∧ u.tiles = s.tiles := by
  have e := restore_parked hd hr
  rw [ho] at e
  exact e.happens ⟨congrArg (Option.map Ctx.res) (State.ctx?_setCtxRec ..), State.after_dueIn rfl .., rfl⟩

/-- Events that are put on the agenda one after another are all due in as many cycles. -/
theorem State.dueIn_foldl {α : Type} {s u : State} (hu : u.now = s.now) (m : Nat) (ev : Instr) (arg : α → Payload) {l : List α} {y : α}
    (hy : y ∈ l) : s.DueIn (l.foldl (fun u y => u.after m ev (arg y)) u) m ev (arg y) :=
  State.foldl_hits (f := fun u y => u.after m ev (arg y)) (P := fun u => u.now = s.now) (Q := fun u => s.DueIn u m ev (arg y)) (fun _ _ h => h) (fun _ _ h => h.after ..)
    (fun _ h => State.after_dueIn h ..) hy hu

theorem restore_waits (hd : s.dev.ctx? n = some d) (hr : d.res = .parked) (ho : s.occupants n d ≠ []) : Happens .restore (.num n) s fun u =>
    (u.dev.ctx? n).map Ctx.queued = some true ∧ u.tiles = s.tiles ∧ ∀ y ∈ s.occupants n d, s.DueIn u 1 .timeSliceExpire (.num y.1) := by
  have e := restore_parked hd hr
  rw [if_neg (by simpa using ho)] at e
  have hk : ∀ u : State, ((s.occupants n d).foldl (fun s y => s.after 1 .timeSliceExpire (.num y.1)) u).tiles = u.tiles
      ∧ ((s.occupants n d).foldl (fun s y => s.after 1 .timeSliceExpire (.num y.1)) u).dev = u.dev := fun u =>
    Prod.mk.inj (State.foldl_reads (f := fun (s : State) (y : Nat × Ctx) => s.after 1 .timeSliceExpire (.num y.1)) (fun u => (u.tiles, u.dev))
      (fun _ _ => rfl) _ u)
  obtain ⟨ht, hdev⟩ := hk (s.setCtxRec n { d with queued := true })
  refine e.happens ⟨?_, ht, fun y hy => State.dueIn_foldl rfl 1 .timeSliceExpire (fun y => .num y.1) hy⟩
  rw [hdev]
  exact congrArg (Option.map Ctx.queued) (State.ctx?_setCtxRec ..)

/-! ### Time slices (06 R139) -/

/-- A partition waits for the place of `n`. -/
def State.wanted (s : State) (n : Nat) (d : Ctx) : Bool := s.dev.contexts.any (fun y => y.1 != n && y.2.queued && y.2.meets d)

theorem timeSliceExpire_eq (hd : s.dev.ctx? n = some d) : Becomes .timeSliceExpire (.num n) s
    (if d.res != .resident ∨ !s.wanted n d then s
     else if s.now < d.since + s.slice d then s.after (d.since + s.slice d - s.now) .timeSliceExpire (.num n)
     else (s.setCtxRec n { d with queued := true }).preempt n) := by
  intro hi
  rw [exec_timeSliceExpire, execTimeSliceExpire, hi]
  dsimp only
  rw [hd]
  dsimp only
  rw [State.wanted]
  split
  · rfl
  · split <;> rfl

theorem timeSliceExpire_preempts (hd : s.dev.ctx? n = some d) (hr : d.res = .resident) (hw : s.wanted n d = true)
    (hs : d.since + s.slice d ≤ s.now) : Happens .timeSliceExpire (.num n) s fun u => (u.dev.ctx? n).map Ctx.res = some .stopping
      ∧ ∀ t ∈ s.tilesOf n, u.Pending .gangPreempt (.tile t) ∨ u.Pending .gangPreempt (.tileNum t 2) := by
  have e := timeSliceExpire_eq hd
  rw [if_neg (by simp [hr, hw]), if_neg (Nat.not_lt.2 hs)] at e
  obtain ⟨⟨y, hy, hres, -⟩, -, hk⟩ := State.preempt_spec (State.ctx?_setCtxRec s n { d with queued := true }) hr
  exact e.happens ⟨by rw [hy, Option.map_some, hres], hk⟩
theorem timeSliceExpire_early (hd : s.dev.ctx? n = some d) (hr : d.res = .resident) (hw : s.wanted n d = true)
    (hs : s.now < d.since + s.slice d) : Happens .timeSliceExpire (.num n) s fun u =>
      s.DueIn u (d.since + s.slice d - s.now) .timeSliceExpire (.num n) ∧ u.dev = s.dev := by
  have e := timeSliceExpire_eq hd
  rw [if_neg (by simp [hr, hw]), if_pos hs] at e
  exact e.happens ⟨State.after_dueIn rfl .., rfl⟩
theorem timeSliceExpire_stays (hd : s.dev.ctx? n = some d) (h : d.res ≠ .resident ∨ s.wanted n d = false) :
    Becomes .timeSliceExpire (.num n) s s := by
  have e := timeSliceExpire_eq hd
  rwa [if_pos (by simpa using h)] at e
end

end Sys2Proof.Machine
end

section
/-!
PROOFS. Restores that complete (06 R137, R138), and pre-emption as a whole.
-/
namespace Sys2Proof.Machine

/-! ### A tile takes its context back (06 R137) -/

theorem State.SameContexts.of_positions {s u : State} (h : u.positions = s.positions) : s.SameContexts u :=
  fun j => congrArg (fun p => (p.1 j).ctx) h
theorem State.SameContexts.foldl {α : Type} {f : State → α → State} (hf : ∀ (s : State) x, s.SameContexts (f s x)) (l : List α) (s : State) :
    s.SameContexts (l.foldl f s) := List.foldlRecOn l f (.refl s) fun _ h x _ => h.trans (hf _ x)

theorem State.kick_sameContexts (s : State) (k : TileId) : s.SameContexts (s.kick k) := by
  refine .foldl (fun u o => ?_) _ s
  split
  · exact State.setCtx_sameContexts u k _
  · exact .refl u
theorem State.rereadPacket_sameContexts (s : State) (k : TileId) (j : Fin 16) : s.SameContexts (s.rereadPacket k j) := by
  unfold State.rereadPacket
  split
  · split
    · exact s.enterSlot_sameContexts k j _ _
    · exact .refl s
  · exact .refl s
theorem Tile.countWaits_r (t : Tile) (cyc : Nat) : (t.countWaits cyc).r = t.r := by
  unfold Tile.countWaits
  split <;> rfl

/-- `u` serves the contexts of `s`, but context `n` at tile `k`. -/
def State.ServesAt (s u : State) (k : TileId) (n : Nat) : Prop := ∀ j, (u.tile j).r.ctx = if j = k then n else (s.tile j).r.ctx

theorem State.ServesAt.trans {s t u : State} {k : TileId} {n : Nat} (h : s.ServesAt t k n) (h' : t.SameContexts u) : s.ServesAt u k n :=
  fun j => (h' j).trans (h j)
theorem State.setTile_servesAt {s : State} {k : TileId} {t : Tile} {n : Nat} (h : t.r.ctx = n) : s.ServesAt (s.setTile k t) k n := by
  intro j
  rw [State.tile_setTile]
  split <;> simp_all

theorem State.seat_servesAt (s : State) (k : TileId) (n : Nat) (c : TileCtx) : s.ServesAt (s.seat k n c) k n := by
  unfold State.seat
  -- the stages: the tile written (s1), its timers and operations going on (s2), packets read again (s3), the port emptied (s4), its
  -- marks cleared (s5), a boundary of a position under recovery (s6); all but the first leave the contexts as they are
  extract_lets t live c1 x1 c2 rt r s1 s2 s3 s4 r4 s5 x cap m rx s6 b rb
  have h1 : s.ServesAt s1 k n := by
    refine .trans (State.setTile_servesAt (t := { c := c2, r := r }) rfl) (State.setTile_sameContexts ?_)
    rw [State.tile_setTile_self, Tile.countWaits_r]
  have h2 : s1.SameContexts s2 := by
    simp only [s2]
    split
    · exact .trans (.of_positions (State.thaw_positions ..)) (State.kick_sameContexts _ k)
    · exact .refl s1
  have h3 : s2.SameContexts s3 := .foldl (fun u j => u.rereadPacket_sameContexts k j) _ s2
  have h4 : s3.SameContexts s4 := .of_positions (State.flush_positions ..)
  clear_value s4
  have h5 : s4.SameContexts s5 := State.setRouter_sameContexts rfl
  have h6 : s5.SameContexts s6 := by
    simp only [s6]
    split
    · exact .refl s5
    · exact State.setRouter_sameContexts rfl
  exact h1.trans (h2.trans (h3.trans (h4.trans (h5.trans (h6.trans (State.setRouter_sameContexts rfl))))))

theorem State.restoreTile_servesAt (s : State) (n : Nat) (k : TileId) (c : TileCtx) : s.ServesAt (s.restoreTile n k c) k n := by
  refine .trans ((s.flushCache (clusterOf k)).seat_servesAt k n c) (.foldl (fun u j => ?_) _ _)
  split <;> exact .refl u

/-- Every tile of the images takes the context. -/
theorem State.restoreTiles_ctx (s : State) (n : Nat) {xs : Table TileCtx} {x : Nat × TileCtx} (h : x ∈ xs) :
    ((xs.foldl (fun s x => s.restoreTile n x.1 x.2) s).tile x.1).r.ctx = n := by
  refine State.foldl_hits (f := fun (s : State) (x : Nat × TileCtx) => s.restoreTile n x.1 x.2) (P := fun _ => True)
    (Q := fun u => (u.tile x.1).r.ctx = n) (fun _ _ _ => trivial) (fun u y hu => ?_) (fun u _ => ?_) h trivial
  · rw [u.restoreTile_servesAt n y.1 y.2 x.1, hu, ite_self]
  · rw [u.restoreTile_servesAt n x.1 x.2 x.1, if_pos rfl]

/-- An image that is read without a refusal is read for every tile. -/
theorem State.tilesRead_keys (s : State) (c : Ctx) (off : Nat) (xs : Table TileCtx) (h : (s.tilesRead c off xs).1 = 0) :
    (s.tilesRead c off xs).2.map Prod.fst = xs.map Prod.fst := by
  induction xs generalizing off with
  | nil => rfl
  | cons x xs ih =>
    obtain ⟨k, t⟩ := x
    unfold State.tilesRead at h ⊢
    dsimp only at h ⊢
    split at h
    · rename_i hne
      exact absurd h hne
    · rename_i heq
      rw [if_neg heq]
      exact congrArg (k :: ·) (ih _ h)

/-! ### The restore is complete (06 R138, R139) -/

/-- The context of a partition that is resident again. -/
def Ctx.residentAt (c : Ctx) (now : Nat) : Ctx :=
  { c with
    res := .resident, image := [], sizes := [], imageAt := none, queued := false, resumeCmd := none, switchFrom := none, since := now
    launches := c.launches.mapVals (fun (l : Launch) => { l with since := now }) }

/-- The time limits of a context's launches count on. -/
def State.countLimits (s : State) (n : Nat) (c : Ctx) : State :=
  c.launches.foldl (fun s l =>
    if l.2.tlim = 0 then s
    else s.after (cyclesOf (l.2.tlim * 1000) - l.2.elapsed) .launchTimeLimit (.nums3 n l.1 l.2.lid.toNat)) s

theorem State.countLimits_keeps (s : State) (n : Nat) (c : Ctx) : (s.countLimits n c).tiles = s.tiles ∧ (s.countLimits n c).dev = s.dev
    ∧ ∀ x ∈ s.agenda, x ∈ (s.countLimits n c).agenda := by
  refine List.foldlRecOn (motive := fun u : State => u.tiles = s.tiles ∧ u.dev = s.dev ∧ ∀ x ∈ s.agenda, x ∈ u.agenda) _ _
    ⟨rfl, rfl, fun _ h => h⟩ fun u ⟨ht, hd, ha⟩ l _ => ?_
  split
  · exact ⟨ht, hd, ha⟩
  · exact ⟨ht, hd, fun x hx => List.mem_append_left _ (ha x hx)⟩

/-- How long the switch has taken. -/
def State.measured (s : State) (c : Ctx) : State :=
  { s with dev := { s.dev with lastSwitch := match c.switchFrom with | some t => s.now - t | none => s.dev.lastSwitch } }

theorem State.resident_eq (s : State) (n : Nat) (c : Ctx) :
    let u := ((s.measured c).completeIf c.resumeCmd statusOk 0 0).setCtxRec n (c.residentAt s.now)
    s.resident n c = ((u.countLimits n c).after ((u.countLimits n c).slice c) .timeSliceExpire (.num n)).after 1 .population (.num n) := by
  unfold State.resident State.completeIf State.countLimits State.measured
  cases c.resumeCmd <;> rfl

/-- A partition that is resident again has its tiles as they were, and its command completes. -/
theorem State.resident_spec (s : State) (n : Nat) (c : Ctx) : (s.resident n c).tiles = s.tiles
    ∧ ((s.resident n c).dev.ctx? n).map Ctx.res = some .resident
    ∧ ∀ q id, c.resumeCmd = some (q, id) → (s.resident n c).Completing q id 0 0 0 := by
  obtain ⟨ht, hd, -⟩ := (s.measured c).completeIf_keeps c.resumeCmd statusOk 0 0
  obtain ⟨ht', hd', ha'⟩ := (((s.measured c).completeIf c.resumeCmd statusOk 0 0).setCtxRec n (c.residentAt s.now)).countLimits_keeps n c
  rw [s.resident_eq n c]
  refine ⟨ht'.trans ht, ?_, fun q id hc => ?_⟩
  · refine (congrArg (fun v : Device => (v.ctx? n).map Ctx.res) hd').trans ?_
    rw [State.ctx?_setCtxRec]
    rfl
  · exact ((s.measured c).completeIf_completing hc statusOk 0 0).mono fun x hx =>
      List.mem_append_left _ (List.mem_append_left _ (ha' x hx))

section
variable {s : State} {n m : Nat} {d : Ctx}

theorem restore_notRestoring (hd : s.dev.ctx? n = some d) (hr : d.res ≠ .restoring) : Becomes .restore (.nums n m) s s := by
  intro hi
  rw [exec_restore, execRestore, hi]
  dsimp only
  rw [hd]
  dsimp only
  rw [if_pos (by simp [hr])]

/-- The images are read: with no refusal the tiles take them, else the partition stays parked. -/
theorem restore_reads (hd : s.dev.ctx? n = some d) (hr : d.res = .restoring) : Becomes .restore (.nums n m) s
    (if (s.tilesRead d 0 d.image).1 = 0 then ((s.tilesRead d 0 d.image).2.foldl (fun s x => s.restoreTile n x.1 x.2) s).resident n d
     else ((s.completeIf d.resumeCmd statusFaulted (cTranslation + 256 * (s.tilesRead d 0 d.image).1) 2).setCtxRec n
       { d with res := .parked, imageAt := none, resumeCmd := none, switchFrom := none }).wakeQueued n s.now) := by
  intro hi
  rw [exec_restore, execRestore, hi]
  dsimp only
  rw [hd]
  dsimp only
  rw [if_neg (by simp [hr])]
  split
  · rfl
  · cases d.resumeCmd <;> rfl

theorem restore_completes (hd : s.dev.ctx? n = some d) (hr : d.res = .restoring) (hy : (s.tilesRead d 0 d.image).1 = 0) :
    Happens .restore (.nums n m) s fun u => (u.dev.ctx? n).map Ctx.res = some .resident ∧ (∀ x ∈ d.image, (u.tile x.1).r.ctx = n)
      ∧ ∀ q id, d.resumeCmd = some (q, id) → u.Completing q id 0 0 0 := by
  have e := restore_reads (m := m) hd hr
  rw [if_pos hy] at e
  obtain ⟨ht, hres, hc⟩ := ((s.tilesRead d 0 d.image).2.foldl (fun s x => s.restoreTile n x.1 x.2) s).resident_spec n d
  refine e.happens ⟨hres, fun x hx => ?_, hc⟩
  have hkey : x.1 ∈ (s.tilesRead d 0 d.image).2.map Prod.fst := by
    rw [s.tilesRead_keys d 0 d.image hy]
    exact List.mem_map_of_mem hx
  obtain ⟨z, hz, hzx⟩ := List.mem_map.1 hkey
  rw [State.tile_of_tiles ht, ← hzx]
  exact s.restoreTiles_ctx n hz

theorem restore_refused (hd : s.dev.ctx? n = some d) (hr : d.res = .restoring) (hy : (s.tilesRead d 0 d.image).1 ≠ 0) :
    Happens .restore (.nums n m) s fun u => (u.dev.ctx? n).map Ctx.res = some .parked ∧ u.tiles = s.tiles
      ∧ ∀ q id, d.resumeCmd = some (q, id) → u.Completing q id 1 (0x0B + 256 * (s.tilesRead d 0 d.image).1) 2 := by
  have e := restore_reads (m := m) hd hr
  rw [if_neg hy] at e
  obtain ⟨ht, -, -⟩ := s.completeIf_keeps d.resumeCmd statusFaulted (cTranslation + 256 * (s.tilesRead d 0 d.image).1) 2
  obtain ⟨ht', hd', ha'⟩ := ((s.completeIf d.resumeCmd statusFaulted (cTranslation + 256 * (s.tilesRead d 0 d.image).1) 2).setCtxRec n
    { d with res := .parked, imageAt := none, resumeCmd := none, switchFrom := none }).wakeQueued_keeps n s.now
  refine e.happens ⟨?_, ht'.trans ht, fun q id hc => (s.completeIf_completing hc _ _ 2).mono ha'⟩
  rw [hd', State.ctx?_setCtxRec]
  rfl
end

/-- Settles O54: a request stops a tile or waits; the saves follow one another to the last; restores and slices by the state of the
partition. -/
theorem preemptEvents : Obligations.PreemptEvents := by
  intro s k n m phase d
  refine ⟨gangPreempt_notLive, gangPreempt_boundary, fun hm hg => ?_, gangPreempt_holds, preemptSaveDone_notStopping,
    fun hp hm hq => (preemptSaveDone_busy hp hm hq).happens ⟨State.after_dueIn rfl .., rfl⟩,
    fun hm hr hq => ⟨preemptSaveDone_spills hm hr hq, preemptSaveDone_saves hm hr hq⟩,
    fun hk _ hd hr hm ha hq => (preemptSaveDone_parks hk hd hr hm ha hq).happens (s.parkCtx_spec n d),
    fun hd => ⟨restore_notParked hd, restore_begins hd, restore_waits hd, ⟨restore_completes hd, restore_refused hd, restore_notRestoring hd⟩,
      timeSliceExpire_preempts hd, timeSliceExpire_early hd, timeSliceExpire_stays hd⟩⟩
  exact Happens.mono (gangPreempt_stops hm hg) fun u h => ⟨h.mode, h.stopped, h.save, h.watch⟩

end Sys2Proof.Machine
end

section
/-!
PROOFS. What the operations of a collective round add: events, packets, and nothing of the round they serve (17 R363, R366 to R368).
-/
namespace Sys2Proof.Machine

/-! ### Operations that only add events and packets -/

/-- `u` comes from `s` by operations that put events on the agenda and packets into the buffers of ports: in no time, with the events and
packets that were there, and every tile in its context. -/
structure State.Adds (s u : State) : Prop where
  now : u.now = s.now
  agenda : ∀ x ∈ s.agenda, x ∈ u.agenda
  out : ∀ k, ∀ p ∈ (s.tile k).r.out, p ∈ (u.tile k).r.out
  ctx : s.SameContexts u

namespace State.Adds

theorem refl (s : State) : s.Adds s := ⟨rfl, fun _ h => h, fun _ _ h => h, .refl s⟩
theorem trans {s t u : State} (h : s.Adds t) (h' : t.Adds u) : s.Adds u where
  now := h'.now.trans h.now
  agenda x hx := h'.agenda x (h.agenda x hx)
  out k p hp := h'.out k p (h.out k p hp)
  ctx := h.ctx.trans h'.ctx
theorem foldl {α : Type} {f : State → α → State} (hf : ∀ (s : State) x, s.Adds (f s x)) (l : List α) (s : State) : s.Adds (l.foldl f s) :=
  List.foldlRecOn l f (refl s) fun _ h x _ => h.trans (hf _ x)

theorem ite {s t u : State} {p : Prop} [Decidable p] (ht : s.Adds t) (hu : s.Adds u) : s.Adds (if p then t else u) := by
  split
  · exact ht
  · exact hu

theorem dueIn {s u v : State} {n : Nat} {ev : Instr} {arg : Payload} (h : u.Adds v) (hd : s.DueIn u n ev arg) : s.DueIn v n ev arg :=
  hd.mono h.agenda
theorem leaving {s u : State} {k : TileId} {ev : Instr} {arg : Payload} (h : s.Adds u) (hl : s.Leaving k ev arg) : u.Leaving k ev arg :=
  hl.imp fun p hp => ⟨h.out k p hp.1, hp.2⟩

end State.Adds

section
variable (s : State) (k : TileId)

theorem State.setTile_adds {t : Tile} (ho : ∀ p ∈ (s.tile k).r.out, p ∈ t.r.out) (hc : t.r.ctx = (s.tile k).r.ctx) :
    s.Adds (s.setTile k t) where
  now := rfl
  agenda _ h := h
  out j p hp := by
    rw [State.tile_setTile]
    split
    · subst_vars; exact ho p hp
    · exact hp
  ctx := State.setTile_sameContexts hc
theorem State.setCtx_adds (c : TileCtx) : s.Adds (s.setCtx k c) := s.setTile_adds k (fun _ h => h) rfl
theorem State.setThr_adds (j : Fin 16) (th : Thread) : s.Adds (s.setThr k j th) := s.setTile_adds k (fun _ h => h) rfl
theorem State.after_adds (n : Nat) (ev : Instr) (arg : Payload) : s.Adds (s.after n ev arg) :=
  ⟨rfl, fun _ h => List.mem_append_left _ h, fun _ _ h => h, .refl s⟩
theorem State.logRec_adds (kind slot len : Nat) (ref : Bool) (ev : Instr) (arg : Payload) (val : Word) :
    s.Adds (s.logRec k kind slot len ref ev arg val) := by
  unfold State.logRec
  dsimp only
  split
  · exact .refl s
  · exact s.setTile_adds k (fun _ h => h) rfl
theorem State.log_adds (kind slot len : Nat) (ev : Instr) (arg : Payload) (val : Word) : s.Adds (s.log k kind slot len ev arg val) :=
  s.logRec_adds ..
theorem State.mark_adds (kind slot len : Nat) (val : Word) : s.Adds (s.mark k kind slot len val) := s.log_adds ..
theorem State.inject_adds (p : Packet) : s.Adds (s.inject k p) := s.setTile_adds k (fun _ h => List.mem_append_left _ h) rfl
theorem State.askMemory_adds (cls : Nat) (ev : Instr) (arg : Payload) : s.Adds (s.askMemory k cls ev arg) := s.inject_adds ..
theorem State.ask_adds (r : Ref) (g : GateRead) : s.Adds (s.ask r g) := s.askMemory_adds ..
theorem State.packet_adds (b : TileId) (cls fl : Nat) (ev : Instr) (arg : Payload) : s.Adds (s.packet k b cls fl ev arg) := by
  unfold State.packet
  split
  · exact ⟨rfl, fun _ h => h, fun _ _ h => h, .refl s⟩
  · exact s.inject_adds ..
theorem State.tileFrame_adds (peer type seq round : Nat) (rest : List Byte) : s.Adds (s.tileFrame k peer type seq round rest) := s.inject_adds ..
theorem State.lookAt_adds (ctx lix : Nat) : s.Adds (s.lookAt ctx lix) := (s.after_adds ..).trans (State.after_adds ..)

/-! Threads that end, trap, or enter a slot. -/

theorem State.enterSlot_adds (j : Fin 16) (th : Thread) (refused : Option Word) : s.Adds (s.enterSlot k j th refused) := by
  fun_cases State.enterSlot
  · exact s.setTile_adds k (fun _ h => h) rfl
  · refine State.Adds.trans (s.setTile_adds k ?_ ?_) (State.ask_adds ..)
    · exact fun _ h => h
    · rfl
theorem State.refill_adds (n : Nat) : s.Adds (s.refill k n) := by
  induction n generalizing s with
  | zero => exact .refl s
  | succ n ih =>
    unfold State.refill
    split
    · exact ((s.setCtx_adds k _).trans (State.enterSlot_adds ..)).trans (ih _)
    · exact .refl s
theorem State.endEffects_adds (th : Thread) : s.Adds (s.endEffects k th) := by
  unfold State.endEffects
  extract_lets home s₁ s₂ s₃
  have groups : s.Adds s₁ := .foldl (fun s m => s.packet_adds ..) _ s
  have packet : s₁.Adds s₂ := .ite (s₁.askMemory_adds ..) (.refl s₁)
  have place : s₂.Adds s₃ := .ite (s₂.setCtx_adds ..) (s₂.packet_adds ..)
  exact ((groups.trans packet).trans place).trans (s₃.inject_adds ..)
theorem State.endThread_adds (j : Fin 16) : s.Adds (s.endThread k j) := by
  unfold State.endThread
  extract_lets th s₁
  have slot : s.Adds (s.setTile k ((s.tile k).setSlot j none)) := s.setTile_adds k (fun _ h => h) rfl
  exact (slot.trans (State.refill_adds ..)).trans (s₁.endEffects_adds ..)
theorem State.trapAt_adds (j : Fin 16) (xpc : Word) (cause : BitVec 17) (val : Word) : s.Adds (s.trapAt k j xpc cause val) := by
  unfold State.trapAt State.trapFrom
  split
  · exact (s.inject_adds ..).trans (State.endThread_adds ..)
  · exact s.setThr_adds ..

/-! Threads that go on, and an operation that leaves its queue. -/

theorem State.deliver_adds (r : Ref) (v : Reply) : s.Adds (s.deliver r v) := by
  unfold State.deliver
  split
  · exact .refl s
  · dsimp only
    split
    · exact .refl s
    · cases v with
      | trap t => exact s.trapAt_adds ..
      | _ => exact s.setThr_adds ..
theorem State.unpark_adds (j : Fin 16) : s.Adds (s.unpark k j) := s.setThr_adds ..
theorem State.noteFull_adds (j : Nat) : s.Adds (s.noteFull k j) := s.logRec_adds ..

/-- The log of a tile has no room for a record of a thread's wake: that is noted, and tried again. -/
theorem State.deferWake_adds (j n : Nat) (ev : Instr) (arg : Payload) : s.Adds ((s.noteFull k j).after n ev arg) :=
  (s.noteFull_adds ..).trans (State.after_adds ..)

theorem State.wakeAll_adds (kind : Nat) (f : Thread → ParkWhy → Bool) : s.Adds (s.wakeAll k kind f) := by
  refine .foldl (fun s j => ?_) _ s
  split
  · split
    · exact .ite (.refl s) (.ite (s.unpark_adds ..) (.ite (s.deferWake_adds ..) ((s.unpark_adds ..).trans (State.mark_adds ..))))
    · exact .refl s
  · exact .refl s
theorem State.drainEnd_adds (j : Fin 16) (nh p : Nat) : s.Adds (s.drainEnd k j nh p) := by
  unfold State.drainEnd
  dsimp only
  split
  · exact s.setThr_adds ..
  · exact (s.setCtx_adds ..).trans (State.trapAt_adds ..)
theorem State.endDrains_adds : s.Adds (s.endDrains k) := by
  refine .foldl (fun s j => ?_) _ s
  split
  · split
    · exact .ite (.refl s) (.ite (s.deferWake_adds ..) ((s.mark_adds ..).trans (State.drainEnd_adds ..)))
    · exact .refl s
  · exact .refl s
theorem State.endListed_adds : s.Adds (s.endListed k) := by
  refine .foldl (fun s j => ?_) _ s
  split
  · split
    · exact .ite (.refl s) (.ite (s.deferWake_adds ..) ((s.mark_adds ..).trans (State.setThr_adds ..)))
    · exact .refl s
  · exact .refl s
theorem State.kick_adds : s.Adds (s.kick k) :=
  .foldl (fun s _ => .ite ((s.setCtx_adds ..).trans (State.after_adds ..)) (.refl s)) _ s
theorem State.afterRelease_adds : s.Adds (s.afterRelease k) :=
  ((((s.setCtx_adds ..).trans (State.endListed_adds ..)).trans (State.wakeAll_adds ..)).trans (State.kick_adds ..)).trans (State.endDrains_adds ..)
theorem State.releaseOp_adds (o : EngOp) : s.Adds (s.releaseOp k o) :=
  ((s.setCtx_adds ..).trans (State.afterRelease_adds ..)).trans (State.lookAt_adds ..)
theorem State.wakeOp_adds (r : Ref) (v : Reply) : s.Adds (s.wakeOp r v) := by
  unfold State.wakeOp
  split
  · exact .refl s
  · exact .ite (s.deferWake_adds ..) ((s.mark_adds ..).trans (State.deliver_adds ..))
theorem State.wakeColwait_adds (v : Reply) : s.Adds (s.wakeColwait k v) := by
  refine .foldl (fun s j => ?_) _ s
  split
  · split
    · exact s.wakeOp_adds ..
    · exact .refl s
  · exact .refl s

/-! ### The operations of a round (17 R363, R366 to R368) -/

theorem State.poolWrite_adds (off : Nat) (bs : List Byte) : s.Adds (s.poolWrite k off bs) := s.setTile_adds k (fun _ h => h) rfl
theorem State.poolUpdate_adds (off : Nat) (bs : List Byte) (n : Nat) : s.Adds (s.poolUpdate k off bs n) := by
  induction n generalizing s off bs with
  | zero => exact .refl s
  | succ n ih =>
    unfold State.poolUpdate
    exact State.Adds.trans (.ite (.refl s) (s.poolWrite_adds ..)) (ih _ _ _)
theorem State.setColl_adds (c : Coll) : s.Adds (s.setColl k c) := (s.setCtx_adds ..).trans (State.poolUpdate_adds ..)
theorem State.sendAborts_adds (c : Coll) : s.Adds (s.sendAborts k c) :=
  .foldl (fun s _ => .ite (s.tileFrame_adds ..) (s.packet_adds ..)) _ s
theorem State.endRound_adds (c : Coll) (n : Nat) : s.Adds (s.endRound k c n) := by
  unfold State.endRound
  extract_lets c' s₁ s₂ s₃ s₄
  have table : s.Adds s₁ := s.setColl_adds ..
  have aborts : s₁.Adds s₂ := .ite (.refl s₁) (s₁.sendAborts_adds ..)
  have range : s₂.Adds s₃ := by
    unfold s₃
    split
    · exact s₂.releaseOp_adds ..
    · exact .refl s₂
  have request : s₃.Adds s₄ := .ite (s₃.after_adds ..) (.refl s₃)
  exact (((table.trans aborts).trans range).trans request).trans (s₄.wakeColwait_adds ..)

theorem State.translate_adds (cl ctx : Nat) (host write : Bool) (va : Nat) : s.Adds (s.translate cl ctx host write va).1 := by
  unfold State.translate
  split
  · exact .refl s
  · split
    · exact .refl s
    · exact ⟨rfl, fun _ h => h, fun _ _ h => h, .refl s⟩
theorem State.outside_adds {look : State → State × Payload} (hl : s.Adds (look s).1) (ev : Instr) (j : Nat) :
    s.Adds (s.outside k ev j look).1 := by
  unfold State.outside
  dsimp only
  split
  · refine State.Adds.trans (s.setTile_adds k ?_ ?_) (State.logRec_adds ..)
    · exact fun _ h => h
    · rfl
  · exact hl.trans (State.logRec_adds ..)
theorem State.pagesRead_adds (a n fuel : Nat) : s.Adds (s.pagesRead k a n fuel).1 := by
  induction fuel generalizing s a n with
  | zero => exact .refl s
  | succ fuel ih =>
    unfold State.pagesRead
    dsimp only
    split
    · exact .refl s
    · split
      · exact s.translate_adds ..
      · exact (s.translate_adds ..).trans (ih _ _ _)
theorem State.baseRead_adds (slot : Nat) (a : Word) (n : Nat) : s.Adds (s.baseRead k slot a n).1 := by
  unfold State.baseRead
  split
  · exact .refl s
  · exact s.outside_adds k (s.pagesRead_adds ..) _ _
theorem State.peerOpen_adds (i : Nat) (o : CollOp) : s.Adds (s.peerOpen k i o).1 := by
  unfold State.peerOpen
  split
  · exact .refl s
  · exact s.outside_adds k (.refl s) _ _
theorem State.sendChunk_adds (x : Chunk) (peer : Nat) : s.Adds (s.sendChunk k x peer) := by
  unfold State.sendChunk
  split
  · exact (s.tileFrame_adds ..).trans (State.after_adds ..)
  · exact (s.packet_adds ..).trans (State.after_adds ..)
end

/-! ### What stays of a round whose operations fire -/

/-- The round of each tile's table, and the one it holds. -/
def State.rounds (s : State) (j : TileId) : Option (Nat × Option (Nat × Nat × BitVec 32)) := (s.colls j).map fun c => (c.round, c.held)

theorem State.rounds_of_colls {s u : State} (h : u.colls = s.colls) : u.rounds = s.rounds := by
  funext j
  rw [State.rounds, h]
  rfl

@[simp] theorem State.translate_colls (s : State) (cl ctx : Nat) (host write : Bool) (va : Nat) :
    (s.translate cl ctx host write va).1.colls = s.colls := by fun_cases State.translate <;> rfl

section
variable (s : State) (k : TileId)

theorem State.outside_colls {look : State → State × Payload} (hl : (look s).1.colls = s.colls) (ev : Instr) (j : Nat) :
    (s.outside k ev j look).1.colls = s.colls := by
  unfold State.outside
  dsimp only
  split
  · rw [State.logRec_colls, State.setRouter_colls]
  · rw [State.logRec_colls, hl]
@[simp] theorem State.pagesRead_colls (a n fuel : Nat) : (s.pagesRead k a n fuel).1.colls = s.colls := by
  induction fuel generalizing s a n with
  | zero => rfl
  | succ fuel ih =>
    unfold State.pagesRead
    dsimp only
    split
    · rfl
    · split
      · exact s.translate_colls ..
      · exact (ih _ _ _).trans (s.translate_colls ..)
@[simp] theorem State.baseRead_colls (slot : Nat) (a : Word) (n : Nat) : (s.baseRead k slot a n).1.colls = s.colls := by
  unfold State.baseRead
  split
  · rfl
  · exact s.outside_colls k (s.pagesRead_colls ..) _ _
@[simp] theorem State.peerOpen_colls (i : Nat) (o : CollOp) : (s.peerOpen k i o).1.colls = s.colls := by
  unfold State.peerOpen
  split
  · rfl
  · exact s.outside_colls k rfl _ _
@[simp] theorem State.sendChunk_colls (x : Chunk) (peer : Nat) : (s.sendChunk k x peer).colls = s.colls := by
  unfold State.sendChunk
  dsimp only
  split <;> simp

/-- The table of a round that has ended is what it was but for its state, the time left, and its ranges. -/
theorem State.endRound_coll (c : Coll) (n : Nat) : (s.endRound k c n).colls k =
    some { c with state := n, left := c.ends - (s.tile k).r.cyc, rangeOp := none } := by
  have h := s.setColl_colls_self k { c with state := n, left := c.ends - (s.tile k).r.cyc, rangeOp := none }
  rw [State.endRound, State.wakeColwait_colls]
  split <;> split <;> split <;> simp [h]

theorem State.setColl_rounds (c : Coll) : (s.setColl k c).rounds k = some (c.round, c.held) := by rw [State.rounds, State.setColl_colls_self]; rfl
theorem State.endRound_rounds (c : Coll) (n : Nat) : (s.endRound k c n).rounds k = some (c.round, c.held) := by
  rw [State.rounds, State.endRound_coll]; rfl

/-- `u` comes from `s` by operations of tile `k`'s round that fire. -/
structure State.Fires (s u : State) : Prop where
  adds : s.Adds u
  rounds : u.rounds k = s.rounds k

theorem State.Fires.refl : s.Fires k s := ⟨.refl s, rfl⟩
theorem State.Fires.foldl {α : Type} {k : TileId} {f : State → α → State} (hf : ∀ (s : State) x, s.Fires k (f s x)) (l : List α) (s : State) :
    s.Fires k (l.foldl f s) :=
  List.foldlRecOn l f (.refl s k) fun _ h x _ => ⟨h.adds.trans (hf _ x).adds, (hf _ x).rounds.trans h.rounds⟩

theorem State.fire_fires (i : Nat) : s.Fires k (s.fire k i) := by
  unfold State.fire
  split
  · exact .refl s k
  next c hc =>
  split
  · exact .refl s k
  next o _ =>
  split
  · exact .refl s k
  extract_lets c' p x
  have hround : s.rounds k = some (c'.round, c'.held) := by
    rw [State.tile_coll] at hc
    rw [State.rounds, hc]
    rfl
  have peer : s.Adds p.1 := (s.setColl_adds ..).trans (State.peerOpen_adds ..)
  have peerRound : p.1.rounds k = some (c'.round, c'.held) :=
    (congrFun (State.rounds_of_colls (State.peerOpen_colls ..)) k).trans (State.setColl_rounds ..)
  have read : s.Adds x.1 := peer.trans (p.1.baseRead_adds ..)
  have readRound : x.1.rounds k = some (c'.round, c'.held) :=
    (congrFun (State.rounds_of_colls (p.1.baseRead_colls ..)) k).trans peerRound
  split
  · exact ⟨peer.trans (p.1.endRound_adds ..), (p.1.endRound_rounds ..).trans hround.symm⟩
  split
  · exact ⟨peer, peerRound.trans hround.symm⟩
  split
  · exact ⟨read.trans (x.1.endRound_adds ..), (x.1.endRound_rounds ..).trans hround.symm⟩
  · refine ⟨read.trans (.foldl (fun s _ => s.sendChunk_adds ..) _ _), ?_⟩
    exact (congrFun (State.rounds_of_colls (State.foldl_colls _ (fun _ _ => State.sendChunk_colls ..) _ _)) k).trans
      (readRound.trans hround.symm)
theorem State.fireReady_fires : s.Fires k (s.fireReady k) := by
  unfold State.fireReady
  split
  · exact .refl s k
  · refine .foldl (fun s i => ?_) _ s
    split
    · split
      · exact s.fire_fires k i
      · exact .refl s k
    · exact .refl s k
theorem State.opDone_adds (c : Coll) (i : Nat) : s.Adds (s.opDone k c i) := by
  unfold State.opDone
  split
  · exact .refl s
  · exact .ite (s.endRound_adds ..) ((s.setColl_adds ..).trans (State.fireReady_fires ..).adds)
end

end Sys2Proof.Machine
end

section
/-!
PROOFS. Collective rounds: holds, chunks, acknowledgements, ends (17 R366 to R368, R372, 06 R140).
-/
namespace Sys2Proof.Machine

section
variable {s : State} {k : TileId} {c : Coll}

/-! ### Held rounds that begin (17 R366) -/

/-- A store that the thread of a held round has issued before it is on its way (17 R366). -/
def State.holds (s : State) (k : TileId) (c : Coll) (tid : Nat) (launch : BitVec 32) : Bool :=
  (s.tile k).c.outq.any (fun p => p.launch == launch && p.tid == tid && decide (p.issued ≤ c.ends))

theorem colrunHoldEnd_waits (hc : (s.tile k).c.coll = some c) {r tid : Nat} {launch : BitVec 32} (hh : c.held = some (r, tid, launch))
    (hw : s.holds k c tid launch = true) : Becomes .colrunHoldEnd (.tile k) s s := by
  intro hi
  simp only [exec_colrunHoldEnd, execColrunHoldEnd, hi, hc, hh]
  exact if_pos hw

/-- The table of a round that begins in cycle `cyc` with `left` cycles for it. -/
def Coll.begun (c : Coll) (round left cyc : Nat) : Coll :=
  { c with
    held := none, round := round, state := 1, left := left, ends := cyc + left, ndone := 0, ran := true, mop := 0, mhash := 0
    ops := c.ops.map (fun o => { o with deps := opDeps o, st := 0, bytes := 0, acked := [] }) }

theorem colrunHoldEnd_begins (hc : (s.tile k).c.coll = some c) {r tid : Nat} {launch : BitVec 32} (hh : c.held = some (r, tid, launch))
    (hw : s.holds k c tid launch = false) : Happens .colrunHoldEnd (.tile k) s fun u =>
      s.DueIn u (s.tile k).c.coltimeo.toNat .roundTimeout (.tileNum k r)
      ∧ ((u.tile k).c.coll).map (fun c => (c.round, c.held)) = some (r, none) := by
  have e : Becomes .colrunHoldEnd (.tile k) s (((s.setColl k (c.begun r (s.tile k).c.coltimeo.toNat (s.tile k).r.cyc)).after
      (s.tile k).c.coltimeo.toNat .roundTimeout (.tileNum k r)).fireReady k) := by
    intro hi
    simp only [exec_colrunHoldEnd, execColrunHoldEnd, hi, hc, hh]
    exact if_neg (by simpa [State.holds] using hw)
  have hfires := (((s.setColl k (c.begun r (s.tile k).c.coltimeo.toNat (s.tile k).r.cyc)).after
    (s.tile k).c.coltimeo.toNat .roundTimeout (.tileNum k r)).fireReady_fires k)
  exact e.happens ⟨hfires.adds.dueIn (State.after_dueIn (State.setColl_adds ..).now ..), hfires.rounds.trans (State.setColl_rounds ..)⟩

/-! ### Rounds that end (17 R368, 06 R140) -/

theorem roundTimeout_eq (hc : (s.tile k).c.coll = some c) (rn : Nat) : Becomes .roundTimeout (.tileNum k rn) s
    (if c.state = 1 ∧ c.round = rn ∧ c.ends ≤ (s.tile k).r.cyc then s.endRound k c 4 else s) := by
  intro hi
  simp only [exec_roundTimeout, execRoundTimeout, hi, hc]
theorem roundTimeout_ends (hc : (s.tile k).c.coll = some c) (hs : c.state = 1) (he : c.ends ≤ (s.tile k).r.cyc) :
    Happens .roundTimeout (.tileNum k c.round) s fun u => ((u.tile k).c.coll).map Coll.state = some 4 := by
  have e := roundTimeout_eq hc c.round
  rw [if_pos ⟨hs, rfl, he⟩] at e
  exact e.happens (State.endRound_state ..)

theorem State.abortAt_running (hc : s.colls k = some c) (hs : c.state = 1) : s.abortAt k c.round = s.endRound k c 3 := by
  rw [State.abortAt, State.tile_coll, hc]
  exact if_pos ⟨hs, rfl⟩
theorem State.abortAt_other (hc : s.colls k = some c) {rn : Nat} (h : c.state ≠ 1 ∨ c.round ≠ rn) : s.abortAt k rn = s := by
  rw [State.abortAt, State.tile_coll, hc]
  exact if_neg (by tauto)
theorem roundAbort_eq (s : State) (k : TileId) (rn : Nat) : Becomes .roundAbort (.tileNum k rn) s
    ((s.log k kChunk 0 8 .roundAbort (.tileNum k rn) 0).abortAt k rn) := by
  intro hi
  simp only [exec_roundAbort, execRoundAbort, hi]
theorem State.log_coll (hc : (s.tile k).c.coll = some c) (kind slot len : Nat) (ev : Instr) (arg : Payload) (val : Word) :
    (s.log k kind slot len ev arg val).colls k = some c := (congrFun (State.log_colls ..) k).trans hc

theorem roundAbort_ends (hc : (s.tile k).c.coll = some c) (hs : c.state = 1) :
    Happens .roundAbort (.tileNum k c.round) s fun u => ((u.tile k).c.coll).map Coll.state = some 3 := by
  have e := roundAbort_eq s k c.round
  rw [State.abortAt_running (State.log_coll hc ..) hs] at e
  exact e.happens (State.endRound_state ..)

/-- An event for another round than the one that runs has no effect; an abort is logged. -/
theorem otherRound_keeps (hc : (s.tile k).c.coll = some c) {rn : Nat} (h : c.state ≠ 1 ∨ c.round ≠ rn) :
    Becomes .roundTimeout (.tileNum k rn) s s
      ∧ Becomes .roundAbort (.tileNum k rn) s (s.log k kChunk 0 8 .roundAbort (.tileNum k rn) 0) := by
  have ht := roundTimeout_eq hc rn
  have ha := roundAbort_eq s k rn
  rw [if_neg (by tauto)] at ht
  rw [State.abortAt_other (State.log_coll hc ..) h] at ha
  exact ⟨ht, ha⟩

/-! ### Chunks that arrive (17 R367, R372) -/

/-- A chunk's arrival at tile `k` is logged before anything comes of it. -/
def State.logChunk (s : State) (k : TileId) (x : Chunk) : State := s.log k kChunk 0 (8 + x.data.length) .chunkArrival (.chunk k x) 0

variable {x : Chunk}

theorem State.logChunk_colls (s : State) (k : TileId) (x : Chunk) : (s.logChunk k x).colls = s.colls := State.log_colls ..
theorem State.logChunk_coll (hc : (s.tile k).c.coll = some c) (x : Chunk) : (s.logChunk k x).colls k = some c := State.log_coll hc ..
theorem State.logChunk_mode (s : State) (k : TileId) (x : Chunk) :
    ((s.logChunk k x).tile k).r.mode = (s.tile k).r.mode := s.log_keeps Router.mode (fun _ _ => rfl) ..
theorem State.logChunk_adds (s : State) (k : TileId) (x : Chunk) : s.Adds (s.logChunk k x) := s.log_adds ..

theorem chunkArrival_eq (s : State) (k : TileId) (x : Chunk) : Becomes .chunkArrival (.chunk k x) s ((s.logChunk k x).chunkAt k x) := by
  intro hi
  simp only [exec_chunkArrival, execChunkArrival, hi]
  rfl

theorem State.chunkAt_frozen (h : (s.tile k).r.mode.stops = true) : s.chunkAt k x = s := if_pos h
theorem State.chunkAt_refused (h : chunkFate (s.tile k).c.coll x = .refused) : s.chunkAt k x = s := by
  unfold State.chunkAt
  rw [h]
  split <;> rfl
theorem State.chunkAt_repeated (hf : ¬ (s.tile k).r.mode.stops = true) (h : chunkFate (s.tile k).c.coll x = .repeated) :
    s.chunkAt k x = s.ackChunk k x := by
  unfold State.chunkAt
  rw [if_neg hf, h]
theorem State.chunkAt_mismatch (hf : ¬ (s.tile k).r.mode.stops = true) (hc : (s.tile k).c.coll = some c) (h : chunkFate (some c) x = .mismatch) :
    s.chunkAt k x = s.endRound k { c with mop := x.op, mhash := x.hash } 5 := by
  unfold State.chunkAt
  rw [if_neg hf, hc, h]

theorem chunkArrival_logged (h : (s.tile k).r.mode.stops = true ∨ chunkFate (s.tile k).c.coll x = .refused) :
    Becomes .chunkArrival (.chunk k x) s (s.logChunk k x) := by
  have e := chunkArrival_eq s k x
  rcases h with h | h
  · rwa [State.chunkAt_frozen (by rwa [State.logChunk_mode])] at e
  · rwa [State.chunkAt_refused (by rwa [State.tile_coll, State.logChunk_colls])] at e
theorem chunkArrival_mismatch (hf : ¬ (s.tile k).r.mode.stops = true) (hc : (s.tile k).c.coll = some c) (h : chunkFate (some c) x = .mismatch) :
    Happens .chunkArrival (.chunk k x) s fun u =>
      ((u.tile k).c.coll).map (fun c => (c.state, c.mop, c.mhash)) = some (5, x.op, x.hash) := by
  have e := chunkArrival_eq s k x
  rw [State.chunkAt_mismatch (by rwa [State.logChunk_mode]) (State.logChunk_coll hc x) h] at e
  exact e.happens (congrArg (Option.map fun c : Coll => (c.state, c.mop, c.mhash)) (State.endRound_coll ..))

/-- The acknowledgement of a chunk from within the rectangle enters the buffer of its tile's port. -/
theorem State.ackChunk_eq_inject (hx : x.span = false) (hl : s.leavesShadow k (shadowBase k + x.src) = false) : ∃ p : Packet,
    s.ackChunk k x = s.inject k p ∧ p.ev = .chunkAck
      ∧ p.arg = .chunkAck (shadowBase k + x.src) x.round x.op x.idx x.data.length := by
  rw [State.ackChunk, hx]
  exact State.packet_eq_inject hl ..
theorem State.ackChunk_leaving (hx : x.span = false) (hl : s.leavesShadow k (shadowBase k + x.src) = false) :
    (s.ackChunk k x).Leaving k .chunkAck (.chunkAck (shadowBase k + x.src) x.round x.op x.idx x.data.length) := by
  obtain ⟨p, e, hev, harg⟩ := State.ackChunk_eq_inject hx hl
  rw [e, ← hev, ← harg]
  exact State.inject_leaving ..

theorem chunkArrival_repeated (hf : ¬ (s.tile k).r.mode.stops = true) (h : chunkFate (s.tile k).c.coll x = .repeated) (hx : x.span = false)
    (hl : s.leavesShadow k (shadowBase k + x.src) = false) : Happens .chunkArrival (.chunk k x) s fun u =>
      (u.tile k).c.coll = (s.tile k).c.coll ∧ SameMemory s u
      ∧ u.Leaving k .chunkAck (.chunkAck (shadowBase k + x.src) x.round x.op x.idx x.data.length) := by
  have e := chunkArrival_eq s k x
  rw [State.chunkAt_repeated (by rwa [State.logChunk_mode]) (by rwa [State.tile_coll, State.logChunk_colls])] at e
  have hl' := (s.logChunk_adds k x).ctx.leavesShadow k (shadowBase k + x.src) |>.trans hl
  have hleave := State.ackChunk_leaving hx hl'
  obtain ⟨p, hack, -⟩ := State.ackChunk_eq_inject hx hl'
  rw [hack] at e hleave
  refine e.happens ⟨?_, (s.log_sameMemory ..).trans (State.inject_sameMemory ..), hleave⟩
  rw [State.tile_inject_c]
  exact congrFun (s.logChunk_colls k x) k

/-- A receive with another chunk taken. -/
def CollOp.took (o : CollOp) (x : Chunk) : CollOp := { o with bytes := o.bytes + x.data.length, acked := o.acked ++ [x.idx] }

/-- A chunk that a receive of bytes in the scratchpad takes is written, entered in the table, and acknowledged; then the operation may be done. -/
theorem State.chunkAt_take (hf : ¬ (s.tile k).r.mode.stops = true) (hc : (s.tile k).c.coll = some c) {j : Nat} {o : CollOp}
    (h : chunkFate (some c) x = .take j) (ho : c.ops[j]? = some o) (hk : opKind o = 2)
    (ha : spaceOf (c.bases.getD (opBase o) 0 + BitVec.ofNat 64 x.off) = 0) : ∃ t : State, s.Adds t ∧ (t.ackChunk k x).Adds (s.chunkAt k x) := by
  have happly : s.applyChunk k c o x = (s.poolWrite k (c.bases.getD (opBase o) 0 + BitVec.ofNat 64 x.off).toNat x.data, true) := by
    rw [State.applyChunk, if_pos hk, State.baseWrite, if_pos ha]
  have e : s.chunkAt k x = if opLen o ≤ (o.took x).bytes then
      ((((s.applyChunk k c o x).1.setColl k (c.setOp j (fun _ => o.took x))).ackChunk k x).opDone k (c.setOp j (fun _ => o.took x)) j)
      else ((s.applyChunk k c o x).1.setColl k (c.setOp j (fun _ => o.took x))).ackChunk k x := by
    unfold State.chunkAt
    rw [if_neg hf, hc, h]
    dsimp only
    rw [ho]
    exact if_neg (by simp [happly])
  rw [e, happly]
  exact ⟨_, (s.poolWrite_adds ..).trans (State.setColl_adds ..), .ite (State.opDone_adds ..) (.refl _)⟩

theorem chunkArrival_take (hf : ¬ (s.tile k).r.mode.stops = true) (hc : (s.tile k).c.coll = some c) {j : Nat} {o : CollOp}
    (h : chunkFate (some c) x = .take j) (ho : c.ops[j]? = some o) (hk : opKind o = 2)
    (ha : spaceOf (c.bases.getD (opBase o) 0 + BitVec.ofNat 64 x.off) = 0) (hx : x.span = false)
    (hl : s.leavesShadow k (shadowBase k + x.src) = false) : Happens .chunkArrival (.chunk k x) s fun u =>
      u.Leaving k .chunkAck (.chunkAck (shadowBase k + x.src) x.round x.op x.idx x.data.length) := by
  obtain ⟨t, ht, hu⟩ := State.chunkAt_take (s := s.logChunk k x) (by rwa [State.logChunk_mode]) (State.logChunk_coll hc x) h ho hk ha
  have hl' := (((s.logChunk_adds k x).trans ht).ctx.leavesShadow k (shadowBase k + x.src)).trans hl
  exact (chunkArrival_eq s k x).happens (hu.leaving (State.ackChunk_leaving hx hl'))

/-! ### Acknowledgements and resends (17 R367, R372) -/

variable {rn i idx len : Nat} {o : CollOp}

theorem chunkAck_eq (s : State) (k : TileId) (rn i idx len : Nat) : Becomes .chunkAck (.chunkAck k rn i idx len) s
    ((s.log k kLreply 0 0 .chunkAck (.chunkAck k rn i idx len) 0).chunkAcked k rn i idx) := by
  intro hi
  simp only [exec_chunkAck, execChunkAck, hi]

theorem State.chunkAcked_frozen (h : (s.tile k).r.mode.stops = true) : s.chunkAcked k rn i idx = s := by
  unfold State.chunkAcked
  split
  · rfl
  · split
    · rfl
    · exact if_pos (by tauto)
theorem chunkAck_frozen (h : (s.tile k).r.mode.stops = true) : Happens .chunkAck (.chunkAck k rn i idx len) s fun u =>
    (u.tile k).c.coll = (s.tile k).c.coll := by
  have e := chunkAck_eq s k rn i idx len
  rw [State.chunkAcked_frozen (by rwa [s.log_keeps Router.mode (fun _ _ => rfl)])] at e
  exact e.happens (congrFun (State.log_colls ..) k)

/-- An operation with another chunk acknowledged. -/
def CollOp.ackedBy (o : CollOp) (idx : Nat) : CollOp :=
  { o with bytes := o.bytes + chunkLen (opLen o) idx, acked := o.acked ++ [idx] }

theorem State.chunkAcked_counts (hc : s.colls k = some c) (hf : ¬ (s.tile k).r.mode.stops = true) (ho : c.ops[i]? = some o) (hs : c.state = 1)
    (hst : o.st = 1) (hk : opKind o = 0) (ha : o.acked.contains idx = false) (hb : o.bytes + chunkLen (opLen o) idx < opLen o) :
    s.chunkAcked k c.round i idx = s.setColl k (c.setOp i (fun _ => o.ackedBy idx)) := by
  unfold State.chunkAcked
  simp only [State.tile_coll, hc, ho]
  have ha' : idx ∉ o.acked := by simpa using ha
  rw [if_neg (by simp [hs, hst, hk, ha', hf])]
  exact if_neg (Nat.not_le.2 hb)
theorem chunkAck_counts (hc : (s.tile k).c.coll = some c) (hf : ¬ (s.tile k).r.mode.stops = true) (ho : c.ops[i]? = some o) (hs : c.state = 1)
    (hst : o.st = 1) (hk : opKind o = 0) (ha : o.acked.contains idx = false) (hb : o.bytes + chunkLen (opLen o) idx < opLen o) :
    Happens .chunkAck (.chunkAck k c.round i idx len) s fun u =>
      (u.tile k).c.coll = some (c.setOp i (fun _ => o.ackedBy idx)) := by
  have e := chunkAck_eq s k c.round i idx len
  rw [State.chunkAcked_counts (State.log_coll hc ..) (by rwa [s.log_keeps Router.mode (fun _ _ => rfl)]) ho hs hst hk ha hb] at e
  exact e.happens (State.setColl_colls_self ..)

theorem chunkResend_keeps (hc : (s.tile k).c.coll = some c) (ho : c.ops[x.op]? = some o)
    (h : c.state ≠ 1 ∨ c.round ≠ x.round ∨ o.acked.contains x.idx = true) : Becomes .chunkResend (.chunk k x) s s := by
  intro hi
  simp only [exec_chunkResend, execChunkResend, hi, hc, ho]
  exact if_pos (by tauto)
theorem chunkResend_sends (hc : (s.tile k).c.coll = some c) (ho : c.ops[x.op]? = some o) (hs : c.state = 1) (hr : c.round = x.round)
    (hst : o.st = 1) (ha : o.acked.contains x.idx = false) (hp : opSpan o = false) :
    Becomes .chunkResend (.chunk k x) s (s.sendChunk k x (opPeer o)) := by
  intro hi
  simp only [exec_chunkResend, execChunkResend, hi, hc, ho]
  have ha' : x.idx ∉ o.acked := by simpa using ha
  rw [if_neg (by simp [hs, hr, hst, ha'])]
  simp [State.peerOpen, hp]

/-- A chunk for a tile of its rectangle is on its way to it, and is due to be sent again. -/
theorem State.sendChunk_leaving (hx : x.span = false) {peer : Nat} (hl : s.leavesShadow k (shadowBase k + peer) = false) :
    (s.sendChunk k x peer).Leaving k .chunkArrival (.chunk (shadowBase k + peer) x)
      ∧ s.DueIn (s.sendChunk k x peer) 64 .chunkResend (.chunk k x) := by
  obtain ⟨p, e, hev, harg⟩ := State.packet_eq_inject hl 4 (chunkFlits x.data.length) .chunkArrival (.chunk (shadowBase k + peer) x)
  have hsend : s.sendChunk k x peer = (s.inject k p).after 64 .chunkResend (.chunk k x) := by
    rw [State.sendChunk, hx, ← e]
    rfl
  rw [hsend, ← hev, ← harg]
  exact ⟨(State.after_adds ..).leaving (State.inject_leaving ..), State.after_dueIn (s.inject_adds ..).now ..⟩

/-! ### The end of a deferral (06 R140) -/

theorem State.abortHeld_ends (hc : s.colls k = some c) (hs : c.state = 1) (hp : (s.tile k).c.preempt = true) :
    s.abortHeld k = s.endRound k c 3 := by
  unfold State.abortHeld
  rw [State.tile_coll, hp, hc]
  exact if_pos hs
theorem coldeferExpire_aborts (hc : (s.tile k).c.coll = some c) (hs : c.state = 1) (hp : (s.tile k).c.preempt = true) :
    Happens .coldeferExpire (.tile k) s fun u => ((u.tile k).c.coll).map Coll.state = some 3 := by
  have hc' : ((s.note k .coldeferExpire (.tile k)).tile k).c = (s.tile k).c := State.tile_logRec_c ..
  have e : Becomes .coldeferExpire (.tile k) s ((s.note k .coldeferExpire (.tile k)).endRound k c 3) := by
    intro hi
    simp only [exec_coldeferExpire, execColdeferExpire, hi]
    rw [State.abortHeld_ends ((congrArg TileCtx.coll hc').trans hc) hs ((congrArg TileCtx.preempt hc').trans hp)]
  exact e.happens (State.endRound_state ..)

variable {ctx : Nat} {d : Ctx}

theorem coldeferExpire_over (hd : s.dev.ctx? ctx = some d) (h : d.deferred = false ∨ d.res ≠ .stopping) :
    Becomes .coldeferExpire (.num ctx) s s := by
  intro hi
  simp only [exec_coldeferExpire, execColdeferExpire, hi, hd]
  exact if_pos (by simpa using h)

/-- Requests of a partition whose deferral is over, on their way or held by a tile, say so. -/
def State.lateRequests (s : State) (ctx : Nat) (d : Ctx) : State :=
  let ks := s.tilesOf ctx
  let s := s.setCtxRec ctx { d with deferred := false }
  { s with
    agenda := s.agenda.map (fun (x : Timed) => if x.ev = .gangPreempt then { x with arg := lateRequest ks x.arg } else x)
    tiles := s.tiles.mapVals (fun t => { t with r := { t.r with held := t.r.held.map (fun h =>
      if h.1 = .gangPreempt then (h.1, lateRequest ks h.2) else h) } }) }

theorem coldeferExpire_asks (hd : s.dev.ctx? ctx = some d) (hdef : d.deferred = true) (hr : d.res = .stopping) :
    Happens .coldeferExpire (.num ctx) s fun u =>
      (u.dev.ctx? ctx).map Ctx.deferred = some false ∧ ∀ j ∈ s.tilesOf ctx, s.DueIn u 0 .coldeferExpire (.tile j) := by
  have e : Becomes .coldeferExpire (.num ctx) s
      ((s.tilesOf ctx).foldl (fun s k => s.after 0 .coldeferExpire (.tile k)) (s.lateRequests ctx d)) := by
    intro hi
    simp only [exec_coldeferExpire, execColdeferExpire, hi, hd]
    exact if_neg (by simp [hdef, hr])
  refine e.happens ⟨?_, fun j hj => State.dueIn_foldl rfl 0 .coldeferExpire (fun k => .tile k) hj⟩
  have hdev := State.foldl_reads (f := fun (s : State) (k : TileId) => s.after 0 .coldeferExpire (.tile k)) (fun u => u.dev)
    (fun _ _ => rfl) (s.tilesOf ctx) (s.lateRequests ctx d)
  rw [hdev]
  exact congrArg (Option.map Ctx.deferred) (State.ctx?_setCtxRec ..)

end

/-- Settles O45: the rounds' events, one lemma for each that names what it leaves; the operations of a round that runs on keep what is already on
its way (`State.Adds`). -/
theorem collectiveEvents : Obligations.CollectiveEvents := by
  intro s k x i rn idx len ctx c o coll t ack now frozen
  refine ⟨fun hc => ⟨fun r tid lid hh => ⟨colrunHoldEnd_waits hc hh, colrunHoldEnd_begins hc hh⟩, ?running, otherRound_keeps hc,
      fun hf h => chunkArrival_mismatch hf hc h, fun j hf h ho hk _ ha hx hl => chunkArrival_take hf hc h ho hk ha hx hl, ?acked, ?resent,
      fun ho h => chunkResend_keeps hc ho h⟩,
    chunkAck_frozen, chunkArrival_logged, chunkArrival_repeated,
    fun d hd => ⟨coldeferExpire_asks hd, coldeferExpire_over hd⟩, fun hc hs hp => coldeferExpire_aborts hc hs hp⟩
  case running =>
    rintro hs rfl
    refine ⟨roundTimeout_ends hc hs, fun hlt => ?_, roundAbort_ends hc hs⟩
    have e := roundTimeout_eq hc c.round
    rwa [if_neg fun h => Nat.not_lt.2 h.2.2 hlt] at e
  case acked =>
    rintro hf ho hs rfl hst hk ha hb
    exact chunkAck_counts hc hf ho hs hst hk ha hb
  case resent =>
    intro ho hs hr hst ha hp hx hl
    exact (chunkResend_sends hc ho hs hr hst ha hp).happens (State.sendChunk_leaving hx hl)

end Sys2Proof.Machine
end

section
/-!
PROOFS. The access checks (07 R147, R148).
-/
namespace Sys2Proof.Machine

/-- Step 4 of R148 comes before step 5: a synchronising access or an AMO to space 0xF fails as one that its space does not admit. -/
theorem earlyCheck_control {c : Class} {size : Nat} {fest : Bool} {a : Word} (hs : spaceOf a = 0xF) (hc : c ≠ .plain)
    (ha : a.toNat % size = 0) : earlyCheck c size fest a = some { code := cAddressSpace, detail := 3, val := a } := by
  have hsh : isShared a = false := by simp [isShared, hs]
  simp [earlyCheck, hs, hsh, hc, ha, spaceKnown, bitsNamed]

theorem State.place_of_earlyCheck {s : State} {k : TileId} {c : Class} {size : Nat} {fest : Bool} {a : Word} {t : TrapInfo}
    (h : earlyCheck c size fest a = some t) : s.place k c size fest a = .trap t := by
  simp only [State.place, h]

/-- Refutes O22: a synchronising access to space 0xF fails check 4 of R148 (ADDRESS_SPACE 3) before check 5 (PRIV 0), which the statement
asks for by counting 0xF among the spaces that admit such accesses. Here an LDC by a thread of the reset machine, at 0xF000000000000000. -/
theorem not_accessChecks : ¬ Obligations.AccessChecks := by
  intro h
  obtain ⟨-, -, -, -, -, control, -⟩ := h.1 State.reset 0 .sync 8 0xF000000000000000 (by decide)
  have priv := control (by decide) (by decide) (by decide) (by decide) (by decide)
  have early : earlyCheck .sync 8 false 0xF000000000000000 = _ := earlyCheck_control (by decide) nofun (by decide)
  rw [State.place_of_earlyCheck early] at priv
  exact absurd priv (by decide)

end Sys2Proof.Machine
end

section
/-!
PROOFS. Fences and DRAIN, and the deferred fault a DRAIN takes (07 R166, 08 R171, 14 R281, R282).
-/
namespace Sys2Proof.Machine

/-! ### Fences (08 R171) -/
section
variable {s : State} {scope : Fin 4}

/-- Posted stores of the acting thread that the release side of a fence waits for: those to the cellar by scope PARTITION, all by SYSTEM. -/
def State.fencePending (s : State) (scope : Fin 4) : Prop :=
  (scope = 2 ∧ s.cellarPending s.cur.tile s.me = true) ∨ (scope = 3 ∧ s.storesPending s.cur.tile s.me = true)

theorem State.fenceRel_go (h : ¬ s.fencePending scope) (go : Out) : s.fenceRel scope go = go := by
  rw [State.fenceRel, if_neg fun hc => h (.inl hc), if_neg fun hs => h (.inr hs)]

theorem State.fenceRel_partition (h : s.fencePending 2) (go : Out) : s.fenceRel 2 go = .next (s.park s.me .cellarStores) := by
  have hc : s.cellarPending s.cur.tile s.me = true := h.elim And.right fun hs => absurd hs.1 (by decide)
  exact if_pos ⟨rfl, hc⟩

theorem State.fenceRel_system (h : s.fencePending 3) (go : Out) : s.fenceRel 3 go = .next (s.park s.me .stores) := by
  have hs : s.storesPending s.cur.tile s.me = true := h.elim (fun hc => absurd hc.1 (by decide)) And.right
  rw [State.fenceRel, if_neg fun hc => absurd hc.1 (by decide), if_pos ⟨rfl, hs⟩]

/-- What the acquire side of a fence answers, whichever instruction it is of. -/
theorem State.fenceAcq_retires {i : Instr} (hi : exec i s = s.fenceAcq scope) :
    if 2 ≤ scope.val then
      exec i s = .next ((s.flushCache (clusterOf s.cur.tile)).setMe (({ s.me with wrote := false } : Thread).retire s.cur.nh))
    else Retires i s s.me := by
  split
  · rename_i h
    exact hi.trans (if_pos h)
  · rename_i h
    exact hi.trans (if_neg h)
end

/-! ### The oldest deferred fault (07 R166) -/

/-- The step of `oldest`: the earlier issued of two faults, the first of equal ones. -/
def olderOf (m : Option Deferred) (d : Deferred) : Option Deferred :=
  match m with
  | none => some d
  | some e => if d.issued < e.issued then some d else some e

theorem olderOf_eq (m : Option Deferred) (d : Deferred) :
    ∃ e, olderOf m d = some e ∧ e.issued ≤ d.issued ∧ (e = d ∨ m = some e) ∧ ∀ x, m = some x → e.issued ≤ x.issued := by
  cases m with
  | none => exact ⟨d, rfl, Nat.le_refl _, .inl rfl, nofun⟩
  | some x =>
    rw [olderOf]
    split
    · rename_i h
      exact ⟨d, rfl, Nat.le_refl _, .inl rfl, fun y hy => Option.some.inj hy ▸ h.le⟩
    · rename_i h
      exact ⟨x, rfl, Nat.not_lt.1 h, .inr rfl, fun y hy => (Option.some.inj hy ▸ Nat.le_refl _)⟩

theorem foldl_olderOf {ds : List Deferred} {m : Option Deferred} {d : Deferred} (h : ds.foldl olderOf m = some d) :
    (d ∈ ds ∨ m = some d) ∧ (∀ e ∈ ds, d.issued ≤ e.issued) ∧ ∀ x, m = some x → d.issued ≤ x.issued := by
  induction ds generalizing m with
  | nil => exact ⟨.inr h, by simp, fun x hx => Option.some.inj (h.symm.trans hx) ▸ Nat.le_refl _⟩
  | cons a ds ih =>
    obtain ⟨e, he, hle, hor, hmin⟩ := olderOf_eq m a
    obtain ⟨hmem, hall, hacc⟩ := ih h
    have hde : d.issued ≤ e.issued := hacc e he
    refine ⟨?_, List.forall_mem_cons.2 ⟨hde.trans hle, hall⟩, fun x hx => hde.trans (hmin x hx)⟩
    rcases hmem with hd | hd
    · exact .inl (.tail _ hd)
    · obtain rfl : e = d := Option.some.inj (he.symm.trans hd)
      exact hor.imp (fun h => List.mem_cons.2 (.inl h)) id

/-- The oldest of some faults is one of them, issued no later than any. -/
theorem oldest_spec {ds : List Deferred} {d : Deferred} (h : oldest ds = some d) : d ∈ ds ∧ ∀ e ∈ ds, d.issued ≤ e.issued := by
  obtain ⟨hmem, hall, -⟩ := foldl_olderOf (ds := ds) (m := none) h
  exact ⟨hmem.resolve_right nofun, hall⟩

theorem TileCtx.faultOf_spec {c : TileCtx} {th : Thread} {p : Nat} {d : Deferred} (h : c.faultOf th p = some d) :
    d ∈ c.deferred ∧ d.launch = th.launch ∧ d.tid = th.tid ∧ d.path = p
      ∧ ∀ e ∈ c.deferred, e.launch = th.launch → e.tid = th.tid → e.path = p → d.issued ≤ e.issued := by
  obtain ⟨hmem, hall⟩ := oldest_spec h
  simp only [List.mem_filter, Bool.and_eq_true, beq_iff_eq] at hmem hall
  obtain ⟨hd, ⟨hl, ht⟩, hp⟩ := hmem
  exact ⟨hd, hl, ht, hp, fun e he el et ep => hall e ⟨he, ⟨el, et⟩, ep⟩⟩

/-! ### DRAIN (14 R282) -/
section
variable {s : State} {path : Fin 6}

theorem drain_waits (h : s.here.drainWaits s.me path s.here.r.cyc = true) : Waits (.drain path) s (.drain path) := if_pos h

theorem execDrain_over (h : s.here.drainWaits s.me path s.here.r.cyc = false) :
    execDrain path s = .next (s.drainEnd s.cur.tile s.cur.slot s.cur.nh path) := by
  rw [execDrain, h, if_neg Bool.false_ne_true]

theorem drain_retires (h : s.here.drainWaits s.me path s.here.r.cyc = false) (hf : s.here.c.faultOf s.me path = none) :
    Retires (.drain path) s s.me := by
  have hf' : (s.tile s.cur.tile).c.faultOf (s.thr s.cur.tile s.cur.slot) path = none := hf
  rw [Retires, exec_drain, execDrain_over h, State.drainEnd, hf']
  rfl

/-- A fault of a thread that has a handler to go to: the trap is entered, nothing else changes. -/
theorem State.trapAt_handler {k : TileId} {j : Fin 16} (h : (s.thr k j).atThird = false) (xpc : Word) (cause : BitVec 17) (val : Word) :
    s.trapAt k j xpc cause val = s.setThr k j ((s.thr k j).enterTrap xpc cause val) := by
  rw [State.trapAt, State.trapFrom, h, if_neg Bool.false_ne_true]

/-- The tile without a deferred fault. -/
def State.clearFault (s : State) (k : TileId) (d : Deferred) : State :=
  s.setCtx k { (s.tile k).c with deferred := (s.tile k).c.deferred.erase d }

theorem State.thr_clearFault (s : State) (k : TileId) (d : Deferred) (j : Fin 16) : (s.clearFault k d).thr k j = s.thr k j := by
  rw [State.thr, State.clearFault, State.tile_setCtx_self]
  rfl

/-- The DRAIN takes the deferred fault: it is cleared, and the trap entered with a cause that says deferred (09 R191). -/
theorem State.drainEnd_fault {k : TileId} {j : Fin 16} {p : Nat} {d : Deferred} (hf : (s.tile k).c.faultOf (s.thr k j) p = some d)
    (ha : (s.thr k j).atThird = false) (nh : Nat) :
    s.drainEnd k j nh p
      = (s.clearFault k d).setThr k j ((s.thr k j).enterTrap (s.thr k j).pc (causeOf d.code d.detail true) d.val) := by
  have hth := s.thr_clearFault k d j
  rw [State.drainEnd, hf]
  dsimp only
  rw [← State.clearFault, State.trapAt_handler (hth ▸ ha), hth]

theorem drain_takes {d : Deferred} (h : s.here.drainWaits s.me path s.here.r.cyc = false) (hf : s.here.c.faultOf s.me path = some d)
    (ha : s.me.atThird = false) : Completes (.drain path) s fun t =>
      t.here.c.deferred = s.here.c.deferred.erase d ∧ t.me = s.me.enterTrap s.me.pc (causeOf d.code d.detail true) d.val := by
  refine ⟨(s.clearFault s.cur.tile d).setMe (s.me.enterTrap s.me.pc (causeOf d.code d.detail true) d.val), ?_, ?_, State.me_setMe _ _⟩
  · rw [exec_drain, execDrain_over h, State.drainEnd_fault hf ha]
    rfl
  · rw [State.here_setMe, Tile.setSlot_c_deferred]
    exact congrArg TileCtx.deferred (s.here_setCtx_c _)
end

/-- Settles O27: a fence by what is pending in its scope; a DRAIN by what its path still waits for, and by the fault it finds there. -/
theorem fencesAndDrains : Obligations.FencesAndDrains := by
  refine ⟨fun s scope path => ⟨State.fenceAcq_retires rfl, fun hp => ⟨State.fenceRel_go hp _, ?_⟩, ?_, ?_, drain_retires, drain_waits⟩,
    fun s path d hw hf ha => ?_⟩
  · exact State.fenceAcq_retires (State.fenceRel_go hp _)
  · rintro rfl hp
    exact ⟨State.fenceRel_partition hp _, State.fenceRel_partition hp _⟩
  · rintro rfl hp
    exact ⟨State.fenceRel_system hp _, State.fenceRel_system hp _⟩
  · obtain ⟨hd, hl, ht, hp, hold⟩ := TileCtx.faultOf_spec hf
    exact ⟨hd, hl, ht, hp, hold, drain_takes hw hf ha⟩

end Sys2Proof.Machine
end

section
/-!
PROOFS. Accesses performed in the acting thread's own pool: what a store and a change of an FE bit leave, and the synchronising accesses
(07 R158, R159, 14 R279).
-/
namespace Sys2Proof.Machine

/-! ### Composing what stays -/

theorem SameMemoryBut.trans_same {k : TileId} {a n : Nat} {s t u : State} (h : SameMemoryBut k a n s t) (h' : SameMemory t u) :
    SameMemoryBut k a n s u := by
  obtain ⟨hp, hc, hh⟩ := h
  obtain ⟨hp', hc', hh'⟩ := h'
  exact ⟨fun k' a' hk => (hp' k' a').trans (hp k' a' hk), fun x => (hc' x).trans (hc x), fun x => (hh' x).trans (hh x)⟩

theorem SameBeyondPool.refl (s : State) : SameBeyondPool s s := ⟨rfl, rfl, rfl, rfl, rfl, rfl, rfl, rfl, fun _ _ => rfl, rfl⟩

theorem SameBeyondPool.trans {s t u : State} (h : SameBeyondPool s t) (hc : t.cur = s.cur) (h' : SameBeyondPool t u) :
    SameBeyondPool s u := by
  obtain ⟨hnow, hturns, hcellar, hhost, hclusters, hchiplets, hdev, hchans, htiles, hctx⟩ := h
  obtain ⟨hnow', hturns', hcellar', hhost', hclusters', hchiplets', hdev', hchans', htiles', hctx'⟩ := h'
  refine ⟨hnow'.trans hnow, hturns'.trans hturns, hcellar'.trans hcellar, hhost'.trans hhost, hclusters'.trans hclusters,
    hchiplets'.trans hchiplets, hdev'.trans hdev, hchans'.trans hchans, fun k hk => (htiles' k (hc ▸ hk)).trans (htiles k hk), ?_⟩
  rw [hctx] at hctx'
  exact hctx'

/-- An update of the acting thread's tile that changes of its context only what `SameBeyondPool` leaves open. -/
theorem State.setTile_sameBeyondPool {s : State} {t : Tile}
    (h : t.c = { s.here.c with pool := t.c.pool, emptyDw := t.c.emptyDw, dirty := t.c.dirty, stored := t.c.stored
                               waiters := t.c.waiters, slots := t.c.slots, tok := t.c.tok, draws := t.c.draws }) :
    SameBeyondPool s (s.setTile s.cur.tile t) := by
  refine ⟨rfl, rfl, rfl, rfl, rfl, rfl, rfl, rfl, fun k hk => s.tile_setTile_ne t hk, ?_⟩
  have he : (s.setTile s.cur.tile t).here = t := s.tile_setTile_self _ t
  rw [he]
  exact h

theorem State.setMe_sameBeyondPool (s : State) (th : Thread) : SameBeyondPool s (s.setMe th) := State.setTile_sameBeyondPool rfl
theorem State.setMe_isFull (s : State) (th : Thread) (dw : Nat) : (s.setMe th).here.c.isFull dw = s.here.c.isFull dw := by
  rw [State.here_setMe]; rfl
theorem State.setMe_poolNat (s : State) (th : Thread) (off n : Nat) : (s.setMe th).poolNat off n = s.poolNat off n := by
  rw [State.poolNat, State.here_setMe]; rfl

/-! ### FE bits (07 R156) -/

theorem mem_setDel {l : List Nat} {x k : Nat} : x ∈ setDel l k ↔ x ∈ l ∧ x ≠ k := by simp [setDel]

theorem TileCtx.isFull_pool {c : TileCtx} {dw : Nat} (h : dw < 32768) : c.isFull dw = decide (dw ∉ c.emptyDw) := by
  rw [TileCtx.isFull, if_pos h]
  simp

/-- Of the doublewords of the pool a change of an FE bit changes that one. -/
theorem TileCtx.isFull_setFull {c : TileCtx} {dw x : Nat} (hdw : dw < 32768) (hx : x < 32768) (full : Bool) :
    (c.setFull dw full).isFull x = if x = dw then full else c.isFull x := by
  rw [TileCtx.isFull_pool hx, TileCtx.isFull_pool hx, TileCtx.setFull, if_pos hdw]
  cases full <;> by_cases h : x = dw <;> simp [mem_setAdd, mem_setDel, h]

section
variable {s : State} {dw : Nat}

theorem State.setFe_same {k : TileId} {full : Bool} (h : (s.tile k).c.isFull dw = full) (other : Bool) : s.setFe k dw full other = s :=
  if_pos h
theorem State.setFe_changes {k : TileId} {full : Bool} (h : (s.tile k).c.isFull dw ≠ full) (other : Bool) :
    s.setFe k dw full other = (s.setCtx k ((s.tile k).c.setFull dw full)).after 1 .feWake (.dword k dw other) := if_neg h

@[simp] theorem State.setFe_cur (s : State) (k : TileId) (dw : Nat) (full other : Bool) : (s.setFe k dw full other).cur = s.cur := by
  unfold State.setFe; dsimp only; split <;> rfl
theorem State.setFe_isFull (hdw : dw < 32768) {x : Nat} (hx : x < 32768) (k : TileId) (full other : Bool) :
    ((s.setFe k dw full other).tile k).c.isFull x = if x = dw then full else (s.tile k).c.isFull x := by
  by_cases h : (s.tile k).c.isFull dw = full
  · rw [State.setFe_same h]
    split
    · subst_vars; rfl
    · rfl
  · rw [State.setFe_changes h, State.tile, State.after_tiles, ← State.tile, State.tile_setCtx_self, TileCtx.isFull_setFull hdw hx]
theorem TileCtx.setFull_pool (c : TileCtx) (dw : Nat) (full : Bool) : (c.setFull dw full).pool = c.pool := by
  unfold TileCtx.setFull; split <;> rfl
theorem State.setFe_sameMemory (s : State) (k : TileId) (dw : Nat) (full other : Bool) : SameMemory s (s.setFe k dw full other) := by
  by_cases h : (s.tile k).c.isFull dw = full
  · rw [State.setFe_same h]; exact .refl s
  · rw [State.setFe_changes h]
    exact .trans (State.setCtx_sameMemory (TileCtx.setFull_pool ..)) (.of_eq rfl rfl)
theorem State.setFe_poolNat (k : TileId) (full other : Bool) (off n : Nat) :
    (s.setFe k dw full other).poolNat off n = s.poolNat off n := by
  have hp : ((s.setFe k dw full other).tile s.cur.tile).c.pool = (s.tile s.cur.tile).c.pool := by
    by_cases h : (s.tile k).c.isFull dw = full
    · rw [State.setFe_same h]
    · rw [State.setFe_changes h, State.tile, State.after_tiles, ← State.tile]
      exact State.read_setTile (fun t => t.c.pool) (TileCtx.setFull_pool ..) _
  rw [State.poolNat, State.here, State.setFe_cur, hp]
  rfl
theorem State.setFe_sameBeyondPool (hdw : dw < 32768) (full other : Bool) : SameBeyondPool s (s.setFe s.cur.tile dw full other) := by
  by_cases h : (s.tile s.cur.tile).c.isFull dw = full
  · rw [State.setFe_same h]; exact .refl s
  · have hset : SameBeyondPool s (s.setCtx s.cur.tile ((s.tile s.cur.tile).c.setFull dw full)) := by
      refine State.setTile_sameBeyondPool ?_
      rw [TileCtx.setFull, if_pos hdw]
      rfl
    rw [State.setFe_changes h]
    exact hset.trans rfl ⟨rfl, rfl, rfl, rfl, rfl, rfl, rfl, rfl, fun _ _ => rfl, rfl⟩
end

/-! ### Stores (07 R149) -/
section
variable (s : State) (off : Nat) (bs : List Byte)

theorem State.threadWrite_isFull (k : TileId) (dw : Nat) : ((s.threadWrite k off bs).tile k).c.isFull dw = (s.tile k).c.isFull dw := by
  rw [State.threadWrite, State.tile_setCtx_self, State.poolWrite, State.tile_setTile_self]
  rfl
theorem State.threadWrite_sameMemoryBut (k : TileId) : SameMemoryBut k off bs.length s (s.threadWrite k off bs) := by
  refine ⟨fun k' a h => ?_, fun _ => rfl, fun _ => rfl⟩
  by_cases hk : k' = k
  · subst hk
    rw [State.poolByte, State.threadWrite_pool, Memory.get_setBytes_out _ _ _ (h.resolve_left fun h => h rfl)]
    rfl
  · rw [State.poolByte, State.threadWrite_tile_ne _ _ _ hk]
    rfl
theorem State.threadWrite_sameBeyondPool : SameBeyondPool s (s.threadWrite s.cur.tile off bs) := by
  refine ⟨rfl, rfl, rfl, rfl, rfl, rfl, rfl, rfl, fun k hk => s.threadWrite_tile_ne off bs hk, ?_⟩
  rw [State.here, State.threadWrite, State.setCtx_cur]
  rw [State.poolWrite, State.setTile_cur, State.tile_setCtx_self, State.tile_setTile_self]
  rfl
/-- A number stored is read back, cut to its width. -/
theorem State.threadWrite_poolNat (n v : Nat) : (s.threadWrite s.cur.tile off (leBytes n v)).poolNat off n = v % 256 ^ n := by
  rw [State.poolNat, State.here, State.threadWrite_cur, State.threadWrite_pool]
  exact Memory.read_write _ off n v
end

/-! ### The access at the acting thread's tile (07 R148, R158) -/
section
variable {s : State} {th : Thread} {rs : List Reg} {a : Access} {off : Nat}

theorem State.LocalAt.offset_lt {c : Class} {size : Nat} {fest : Bool} {x : Word} (h : s.LocalAt c size fest x off) : off < 0x40000 := h.2.1
theorem State.LocalAt.dword_lt {c : Class} {size : Nat} {fest : Bool} {x : Word} (h : s.LocalAt c size fest x off) : off / 8 < 32768 := by
  have := h.offset_lt
  omega
theorem State.LocalAt.unlocked {c : Class} {size : Nat} {fest : Bool} {x : Word} (h : s.LocalAt c size fest x off) :
    s.here.c.lockHit s.here.r.cyc off (off + size) = false := h.2.2

/-- An access that goes to the thread's own pool, with nothing to wait for if it is a release. -/
theorem State.access_local (h : s.LocalAt a.kind.cls a.size (a.kind == .fest) a.addr off)
    (hr : a.rl = true → s.storesPending s.cur.tile th = false) : s.access th rs a = s.localAccess th off a := by
  obtain ⟨hp, -, -⟩ := h
  rw [State.access, hp]
  dsimp only
  split
  · exact State.release_go (hr ‹_›) _
  · rfl

theorem State.localAccess_value {s' : State} {v : Word} (ho : off < 0x40000)
    (h : s.portPerform s.cur.tile off a (s.captureBusy (off / 64)) false = (s', .reply (.value v))) :
    s.localAccess th off a = s'.done (th.setReg a.rd v) := by
  rw [State.localAccess]
  dsimp only
  rw [if_neg (Nat.not_le.2 ho), h]
theorem State.localAccess_ack {s' : State} (ho : off < 0x40000)
    (h : s.portPerform s.cur.tile off a (s.captureBusy (off / 64)) false = (s', .reply .ack)) :
    s.localAccess th off a = s'.done th := by
  rw [State.localAccess]
  dsimp only
  rw [if_neg (Nat.not_le.2 ho), h]
theorem State.localAccess_wait {s' : State} (ho : off < 0x40000)
    (h : s.portPerform s.cur.tile off a (s.captureBusy (off / 64)) false = (s', .wait)) :
    s.localAccess th off a
      = .next (((s.park th a.why).joinWaiters s.cur.tile off a s.nextRef 0 s.here.r.cyc).armTimeout s.nextRef a) := by
  rw [State.localAccess]
  dsimp only
  rw [if_neg (Nat.not_le.2 ho), h]
end

section
variable {s : State} {k : TileId} {off : Nat} {a : Access} {busy : Bool}
  (hl : (s.tile k).c.lockHit (s.tile k).r.cyc off (off + a.size) = false) (other : Bool)
include hl

/-- An access that meets no lock, whose wait condition holds and whose line can be written, is performed. -/
theorem State.portPerform_ldc (hk : a.kind = .ldc) (hf : (s.tile k).c.isFull (off / 8) = true) :
    s.portPerform k off a busy other
      = (s.setFe k (off / 8) false other, .reply (.value (BitVec.ofNat 64 ((s.tile k).c.pool.read off 8)))) := by
  simp [State.portPerform, hl, hk, hf, AccKind.ready, AccKind.writes]
theorem State.portPerform_ldf (hk : a.kind = .ldf) (hf : (s.tile k).c.isFull (off / 8) = true) :
    s.portPerform k off a busy other = (s, .reply (.value (BitVec.ofNat 64 ((s.tile k).c.pool.read off 8)))) := by
  simp [State.portPerform, hl, hk, hf, AccKind.ready, AccKind.writes]
theorem State.portPerform_fullStore (hk : a.kind = .stf ∨ a.kind = .stp ∧ (s.tile k).c.isFull (off / 8) = false) (hb : busy = false) :
    s.portPerform k off a busy other
      = ((s.threadWrite k off (leBytes 8 a.data.toNat)).setFe k (off / 8) true other, .reply .ack) := by
  rcases hk with hk | ⟨hk, hf⟩
  · simp [State.portPerform, hl, hk, hb, AccKind.ready]
  · simp [State.portPerform, hl, hk, hf, hb, AccKind.ready]
theorem State.portPerform_femt (hk : a.kind = .femt) :
    s.portPerform k off a busy other = (s.setFe k (off / 8) false other, .reply .ack) := by
  simp [State.portPerform, hl, hk, AccKind.ready, AccKind.writes]
theorem State.portPerform_fest (hk : a.kind = .fest) :
    s.portPerform k off a busy other = (s, .reply (.value ((s.tile k).c.lineFull (off / 8)))) := by
  simp [State.portPerform, hl, hk, AccKind.ready, AccKind.writes]
theorem State.portPerform_wait (hk : a.kind.ready ((s.tile k).c.isFull (off / 8)) = false) :
    s.portPerform k off a busy other = (s, .wait) := by
  simp [State.portPerform, hl, hk]
end

/-! ### The FE bits of a line (07 R158) -/

theorem sum_bits_lt (f : Nat → Bool) (m : Nat) : ((List.range m).map (fun i => if f i then 2 ^ i else 0)).sum < 2 ^ m := by
  induction m with
  | zero => simp
  | succ m ih =>
    rw [List.range_succ, List.map_append, List.sum_append, List.map_singleton, List.sum_singleton, Nat.pow_succ]
    split <;> omega

/-- The bits of a number built from `m` bits. -/
theorem testBit_sum_bits (f : Nat → Bool) (m n : Nat) :
    (((List.range m).map (fun i => if f i then 2 ^ i else 0)).sum).testBit n = (decide (n < m) && f n) := by
  induction m with
  | zero => simp
  | succ m ih =>
    have hlt := sum_bits_lt f m
    rw [List.range_succ, List.map_append, List.sum_append, List.map_singleton, List.sum_singleton]
    cases hf : f m
    · rw [if_neg Bool.false_ne_true, Nat.add_zero, ih]
      rcases Nat.lt_trichotomy n m with h | rfl | h
      · simp [h, Nat.lt_succ_of_lt h]
      · simp [hf]
      · simp [Nat.not_lt_of_gt h, show ¬ n < m + 1 by omega]
    · rw [if_pos rfl, Nat.add_comm, ← Nat.mul_one (2 ^ m), Nat.two_pow_add_eq_or_of_lt hlt, Nat.testBit_or, Nat.mul_one,
        Nat.testBit_two_pow, ih]
      rcases Nat.lt_trichotomy n m with h | rfl | h
      · simp [h, Nat.lt_succ_of_lt h, Nat.ne_of_gt h]
      · simp [hf]
      · simp [Nat.not_lt_of_gt h, show ¬ n < m + 1 by omega, Nat.ne_of_lt h]

theorem TileCtx.lineFull_getLsbD (c : TileCtx) (dw : Nat) {n : Nat} (h : n < 64) :
    (c.lineFull dw).getLsbD n = (decide (n < 8) && c.isFull (dw / 8 * 8 + n)) := by
  rw [TileCtx.lineFull, BitVec.getLsbD_ofNat, testBit_sum_bits (fun i => c.isFull (dw / 8 * 8 + i)), decide_eq_true h, Bool.true_and]

/-! ### Synchronising accesses that complete (14 R279) -/

/-- The acting thread goes on after a change of an FE bit of its pool: that bit is changed, and no byte. -/
theorem State.setFe_done (s : State) {dw : Nat} (hdw : dw < 32768) (full : Bool) (th : Thread) :
    ∃ t, (s.setFe s.cur.tile dw full false).done th = .next t ∧ t.me = th.retire s.cur.nh ∧ t.here.c.isFull dw = full
      ∧ (∀ x, x ≠ dw → x < 32768 → t.here.c.isFull x = s.here.c.isFull x) ∧ (∀ off n, t.poolNat off n = s.poolNat off n)
      ∧ SameMemory s t ∧ SameBeyondPool s t := by
  have fe (x : Nat) (hx : x < 32768) : ((s.setFe s.cur.tile dw full false).setMe (th.retire s.cur.nh)).here.c.isFull x
      = if x = dw then full else s.here.c.isFull x := by
    rw [State.setMe_isFull, State.here, State.setFe_cur, State.setFe_isFull hdw hx]
    rfl
  refine ⟨(s.setFe s.cur.tile dw full false).setMe (th.retire s.cur.nh), ?_, State.me_setMe _ _, ?_, fun x hne hx => ?_, fun off n => ?_,
    (s.setFe_sameMemory ..).trans (State.setMe_sameMemory ..),
    (State.setFe_sameBeyondPool hdw full false).trans (s.setFe_cur ..) (State.setMe_sameBeyondPool ..)⟩
  · rw [State.done, State.setFe_cur]
  · exact (fe dw hdw).trans (if_pos rfl)
  · exact (fe x hx).trans (if_neg hne)
  · rw [State.setMe_poolNat, State.setFe_poolNat]

/-- The acting thread goes on after a store that sets its doubleword full. -/
theorem State.fullStore_done (s : State) {off : Nat} (hoff : off < 0x40000) (v : Word) (th : Thread) :
    ∃ t, ((s.threadWrite s.cur.tile off (leBytes 8 v.toNat)).setFe s.cur.tile (off / 8) true false).done th = .next t
      ∧ t.me = th.retire s.cur.nh ∧ t.poolNat off 8 = v.toNat ∧ t.here.c.isFull (off / 8) = true
      ∧ (∀ x, x ≠ off / 8 → x < 32768 → t.here.c.isFull x = s.here.c.isFull x)
      ∧ SameMemoryBut s.cur.tile off 8 s t ∧ SameBeyondPool s t := by
  obtain ⟨t, ht, hme, hfull, hothers, hread, hmem, hbeyond⟩ :=
    (s.threadWrite s.cur.tile off (leBytes 8 v.toNat)).setFe_done (dw := off / 8) (by omega) true th
  have hbut := s.threadWrite_sameMemoryBut off (leBytes 8 v.toNat) s.cur.tile
  rw [leBytes_length] at hbut
  refine ⟨t, ht, hme, ?_, hfull, fun x hne hx => (hothers x hne hx).trans (s.threadWrite_isFull ..), hbut.trans_same hmem,
    (s.threadWrite_sameBeyondPool ..).trans rfl hbeyond⟩
  rw [hread, State.threadWrite_poolNat]
  exact Nat.mod_eq_of_lt v.isLt

section
variable {s : State} {d a : Reg} {i : BitVec 11} {off : Nat}

theorem State.execLdf_readable (h : s.Readable [a]) (d : Reg) (i : BitVec 11) :
    execLdf d a i s = s.access s.me [d, a] (s.me.acc .ldf 3 false d (addrTI s.me a i) 0 0 false) := s.withRegs_full _ h
theorem State.execFemt_readable (h : s.Readable [a]) (i : BitVec 11) :
    execFemt a i s = s.access s.me [a] (s.me.acc .femt 3 false 0 (addrTI s.me a i) 0 0 false) := s.withRegs_full _ h
theorem State.execFest_readable (h : s.Readable [a]) (d : Reg) (i : BitVec 11) :
    execFest d a i s = s.access s.me [d, a] (s.me.acc .fest 0 false d (addrTI s.me a i) 0 0 false) := s.withRegs_full _ h
theorem State.execStp_readable (h : s.Readable [d, a]) (i : BitVec 11) :
    execStp d a i s = s.access s.me [d, a] (s.me.acc .stp 3 false 0 (addrTI s.me a i) (s.me.reg d) 0 true) := s.withRegs_full _ h
theorem State.execStf_readable (h : s.Readable [d, a]) (i : BitVec 11) :
    execStf d a i s = s.access s.me [d, a] (s.me.acc .stf 3 false 0 (addrTI s.me a i) (s.me.reg d) 0 true) := s.withRegs_full _ h

theorem ldc_takes (hr : s.Readable [a]) (h : s.LocalAt .sync 8 false (addrTI s.me a i) off) (hf : s.here.c.isFull (off / 8) = true) :
    exec (.ldc d a i) s
      = (s.setFe s.cur.tile (off / 8) false false).done (s.me.setReg d (BitVec.ofNat 64 (s.poolNat off 8))) :=
  ((s.execLdc_readable hr d i).trans (State.access_local h nofun)).trans
    (State.localAccess_value h.offset_lt (State.portPerform_ldc (by exact h.unlocked) false rfl hf))

/-- LDF finds its doubleword full and leaves it so. -/
theorem ldf_reads (hr : s.Readable [a]) (h : s.LocalAt .sync 8 false (addrTI s.me a i) off) (hf : s.here.c.isFull (off / 8) = true) :
    exec (.ldf d a i) s
      = (s.setFe s.cur.tile (off / 8) true false).done (s.me.setReg d (BitVec.ofNat 64 (s.poolNat off 8))) := by
  rw [State.setFe_same hf]
  exact ((State.execLdf_readable hr d i).trans (State.access_local h nofun)).trans
    (State.localAccess_value h.offset_lt (State.portPerform_ldf (by exact h.unlocked) false rfl hf))

theorem stf_stores (hr : s.Readable [d, a]) (h : s.LocalAt .sync 8 false (addrTI s.me a i) off)
    (hs : s.storesPending s.cur.tile s.me = false) (hb : s.captureBusy (off / 64) = false) :
    exec (.stf d a i) s
      = ((s.threadWrite s.cur.tile off (leBytes 8 (s.me.reg d).toNat)).setFe s.cur.tile (off / 8) true false).done s.me :=
  ((State.execStf_readable hr i).trans (State.access_local h fun _ => hs)).trans
    (State.localAccess_ack h.offset_lt (State.portPerform_fullStore (by exact h.unlocked) false (.inl rfl) hb))

theorem stp_stores (hr : s.Readable [d, a]) (h : s.LocalAt .sync 8 false (addrTI s.me a i) off)
    (hs : s.storesPending s.cur.tile s.me = false) (hb : s.captureBusy (off / 64) = false) (hf : s.here.c.isFull (off / 8) = false) :
    exec (.stp d a i) s
      = ((s.threadWrite s.cur.tile off (leBytes 8 (s.me.reg d).toNat)).setFe s.cur.tile (off / 8) true false).done s.me :=
  ((State.execStp_readable hr i).trans (State.access_local h fun _ => hs)).trans
    (State.localAccess_ack h.offset_lt (State.portPerform_fullStore (by exact h.unlocked) false (.inr ⟨rfl, hf⟩) hb))

theorem femt_empties (hr : s.Readable [a]) (h : s.LocalAt .sync 8 false (addrTI s.me a i) off) :
    exec (.femt a i) s = (s.setFe s.cur.tile (off / 8) false false).done s.me :=
  ((State.execFemt_readable hr i).trans (State.access_local h nofun)).trans
    (State.localAccess_ack h.offset_lt (State.portPerform_femt (by exact h.unlocked) false rfl))

theorem fest_sets (hr : s.Readable [a]) (h : s.LocalAt .sync 1 true (addrTI s.me a i) off) :
    Sets (.fest d a i) s d (s.here.c.lineFull (off / 8)) :=
  ((State.execFest_readable hr d i).trans (State.access_local h nofun)).trans
    (State.localAccess_value h.offset_lt (State.portPerform_fest (by exact h.unlocked) false rfl))

/-! ### Synchronising accesses that wait (07 R159) -/

/-- A parked synchronising access joins the waiters of its port, behind those already there. -/
theorem State.parkWaiter_spec (s : State) (th : Thread) (off : Nat) {x : Access} (hk : x.kind.cls = .sync)
    (hroom : (s.here.c.waiters.filter (fun w => w.dw < 32768)).length < 32) :
    let t := ((s.park th x.why).joinWaiters s.cur.tile off x s.nextRef 0 s.here.r.cyc).armTimeout s.nextRef x
    t.ParkedFor (.fe x.rd) ∧ SameMemory s t
      ∧ ∃ w, t.here.c.waiters = s.here.c.waiters ++ [w] ∧ w.dw = off / 8 ∧ w.src = s.nextRef ∧ w.fails = 0 := by
  have hw : (s.park th x.why).here.c.waiters = s.here.c.waiters := by rw [s.here_park_c]
  have hwhy : x.why = .fe x.rd := if_pos hk
  rw [State.joinWaiters]
  dsimp only
  rw [if_pos (hw ▸ hroom), State.armTimeout, if_pos hk]
  refine ⟨?_, .trans ((s.park_sameMemory th x.why).trans ?_) (SameMemory.of_eq rfl rfl), _,
    (congrArg TileCtx.waiters ((s.park th x.why).here_setCtx_c _)).trans (congrArg (· ++ [_]) hw), rfl, rfl, rfl⟩
  case refine_2 => exact State.setCtx_sameMemory rfl
  have hp := s.park_parkedFor th x.why
  rw [hwhy] at hp ⊢
  exact hp.of_me (State.me_setTile rfl)

/-- An access of the acting thread to its own pool whose wait condition fails. -/
theorem State.access_waits {th : Thread} {rs : List Reg} {x : Access} (hk : x.kind.cls = .sync)
    (h : s.LocalAt x.kind.cls x.size (x.kind == .fest) x.addr off) (hr : x.rl = true → s.storesPending s.cur.tile th = false)
    (hroom : (s.here.c.waiters.filter (fun w => w.dw < 32768)).length < 32) (hf : x.kind.ready (s.here.c.isFull (off / 8)) = false) :
    ∃ t, s.access th rs x = .next t ∧ t.ParkedFor (.fe x.rd) ∧ SameMemory s t
      ∧ ∃ w, t.here.c.waiters = s.here.c.waiters ++ [w] ∧ w.dw = off / 8 ∧ w.src = s.nextRef ∧ w.fails = 0 :=
  ⟨_, (State.access_local h hr).trans (State.localAccess_wait h.offset_lt (State.portPerform_wait (by exact h.unlocked) false hf)),
    s.parkWaiter_spec th off hk hroom⟩
end

/-- Settles O24: what each access does to its doubleword's bit and bytes; one that must wait joins the waiters. -/
theorem syncAccesses : Obligations.SyncAccesses := by
  refine ⟨fun s d a i off hr => ⟨fun h hf => ?loads, fun h hd hq => ?stores, fun h => ?femt, fun h => ?fest⟩,
    fun s d a i off => fun h hroom => ⟨fun hr hf => ?waitFull, fun hr hf hs => ?waitEmpty⟩⟩
  case loads =>
    have hdw : off / 8 < 32768 := h.dword_lt
    obtain ⟨t, ht, hme, hfe, ho, -, hm, hb⟩ :=
      s.setFe_done hdw false (s.me.setReg d (BitVec.ofNat 64 (s.poolNat off 8)))
    obtain ⟨t', ht', hme', hfe', ho', -, hm', hb'⟩ :=
      s.setFe_done hdw true (s.me.setReg d (BitVec.ofNat 64 (s.poolNat off 8)))
    exact ⟨⟨t, (ldc_takes hr h hf).trans ht, hme, hfe, ho, hm, hb⟩, ⟨t', (ldf_reads hr h hf).trans ht', hme', hfe', ho', hm', hb'⟩⟩
  case stores =>
    have hda : s.Readable [d, a] := List.forall_mem_cons.2 ⟨hd d (List.mem_singleton.2 rfl), hr⟩
    obtain ⟨t, ht, hspec⟩ := s.fullStore_done h.offset_lt (s.me.reg d) s.me
    exact ⟨⟨t, (stf_stores hda h hq.1 hq.2).trans ht, hspec⟩, fun hf => ⟨t, (stp_stores hda h hq.1 hq.2 hf).trans ht, hspec⟩⟩
  case femt =>
    obtain ⟨t, ht, hme, hfe, ho, -, hm, hb⟩ := s.setFe_done (dw := off / 8) h.dword_lt false s.me
    exact ⟨t, (femt_empties hr h).trans ht, hme, hfe, ho, hm, hb⟩
  case fest => exact ⟨_, fest_sets hr h, fun n hn => TileCtx.lineFull_getLsbD _ _ hn⟩
  case waitFull =>
    obtain ⟨t, ht, hp, hspec⟩ := State.access_waits (rs := [d, a]) (th := s.me)
      (x := s.me.acc .ldc 3 false d (addrTI s.me a i) 0 0 false) rfl h nofun hroom hf
    obtain ⟨t', ht', hp', hspec'⟩ := State.access_waits (rs := [d, a]) (th := s.me)
      (x := s.me.acc .ldf 3 false d (addrTI s.me a i) 0 0 false) rfl h nofun hroom hf
    exact ⟨⟨t, (s.execLdc_readable hr d i).trans ht, ⟨_, hp⟩, hspec⟩, ⟨t', (State.execLdf_readable hr d i).trans ht', ⟨_, hp'⟩, hspec'⟩⟩
  case waitEmpty =>
    obtain ⟨t, ht, hp, hspec⟩ := State.access_waits (rs := [d, a]) (th := s.me)
      (x := s.me.acc .stp 3 false 0 (addrTI s.me a i) (s.me.reg d) 0 true) rfl h (fun _ => hs) hroom (congrArg not hf)
    exact ⟨t, (State.execStp_readable hr i).trans ht, ⟨_, hp⟩, hspec⟩

end Sys2Proof.Machine
end

section
/-!
PROOFS. ENTER and LEAVE (13 R267, R268, 07 R163).
-/
namespace Sys2Proof.Machine

/-! ### Where the stores of a frame go (07 R148) -/

/-- A word of the pool as its tile sees it, not of a shared register: its low 18 bits are the offset. -/
theorem State.place_here_low {s : State} {k : TileId} {c : Class} {size off : Nat} {fest : Bool} {a : Word}
    (h : s.place k c size fest a = .here off) (ho : off < 0x40000) (hs : spaceOf a = 0) : bitsOf a 0 18 = off := by
  cases he : earlyCheck c size fest a with
  | some t => simp [State.place, he] at h
  | none =>
    cases hb : a[18] with
    | false =>
      by_cases hr : regionOf (s.tile k).c.poolcfg (bitsOf a 0 18) = 0
      · simpa [State.place, he, hs, hb, hr] using h
      · simp [State.place, he, hs, hb, hr] at h
    | true =>
      have hoff : bitsOf a 0 19 = off := by simpa [State.place, he, hs, hb] using h
      have hbit : off.testBit 18 = true := by rw [← hoff, bitsOf_zero, Nat.testBit_mod_two_pow]; exact hb
      exact absurd hbit (Bool.eq_false_iff.1 (Nat.testBit_lt_two_pow ho))

/-- The address of an aligned doubleword of the cellar, space 0x4. -/
def CellarWord (a : Word) : Prop := 2 ^ 62 ≤ a.toNat ∧ a.toNat < 2 ^ 62 + 2 ^ 48 ∧ a.toNat % 8 = 0

theorem CellarWord.space {a : Word} (h : CellarWord a) : spaceOf a = 4 := by
  obtain ⟨hlo, hhi, -⟩ := h
  unfold spaceOf
  omega

/-- A doubleword of the cellar goes to the gateway from every tile, in every state. -/
theorem CellarWord.place {a : Word} (h : CellarWord a) (s : State) (k : TileId) :
    s.place k .plain 8 false a = .gateway false (bitsOf a 0 48) := by
  have hs := h.space
  obtain ⟨hlo, hhi, hm⟩ := h
  have hsh : isShared a = false := by simp [isShared, hs]
  have hn : bitsNamed a = true := by
    have hlt : a.toNat % 2 ^ 60 < 2 ^ 48 := by omega
    simp only [bitsNamed, hs, namedBits, Nat.and_two_pow_sub_one_eq_mod, Nat.mod_eq_of_lt hlt]
    simp
  have he : earlyCheck .plain 8 false a = none := by simp [earlyCheck, hs, hsh, hn, hm, spaceKnown]
  simp [State.place, he, hs]

/-! ### The stores of a frame -/

/-- The words ENTER stores: the caller's sp at the new one, and below the top of the overflow segment when the stack moves there. -/
def Thread.frameWrites (th : Thread) (t : Word) (move : Bool) : List (Word × Word) :=
  let top := th.spov &&& ~~~15#64
  let sp := th.reg 29
  if move then [(top - 16, sp), (top - 8, 0), (t, sp)] else [(t, sp)]

theorem frameStore_cellar {k : TileId} {w : Word × Word} (hk : isShadow k = false) (hw : CellarWord w.1) (x : State × Thread) :
    (frameStore k x w).1 = x.1.post k x.2 false w.1 8 w.2 ∧ (frameStore k x w).2.wrote = true := by
  rw [frameStore, hw.place]
  exact ⟨rfl, by simp [hk]⟩

theorem State.here_of_cur {s t : State} (h : t.cur = s.cur) : t.here = t.tile s.cur.tile := by rw [State.here, h]

/-- Posted words of a frame stand at the end of the outbound queue, in their order. -/
theorem frameStore_posts {k : TileId} (hk : isShadow k = false) (ws : List (Word × Word))
    (hw : ∀ w ∈ ws, CellarWord w.1) (x : State × Thread) :
    let y := ws.foldl (frameStore k) x
    y.1.cur = x.1.cur ∧ SameMemory x.1 y.1 ∧ y.2.wrote = (x.2.wrote || !ws.isEmpty)
      ∧ ∃ l, (y.1.tile k).c.outq = (x.1.tile k).c.outq ++ l ∧ l.map (fun p => (p.addr, p.data)) = ws := by
  induction ws generalizing x with
  | nil => exact ⟨rfl, .refl _, by simp, [], by simp, rfl⟩
  | cons w ws ih =>
    obtain ⟨p, hq, -, hm, hc, ha, hd, -⟩ := x.1.post_spec hk x.2 false w.1 8 w.2
    obtain ⟨hcur, hmem, hwrote, l, hout, hl⟩ := ih (fun w h => hw w (List.mem_cons_of_mem _ h)) (frameStore k x w)
    obtain ⟨hs, hset⟩ := frameStore_cellar hk (hw w List.mem_cons_self) x
    rw [hs] at hcur hmem hout
    rw [hset] at hwrote
    refine ⟨hcur.trans hc, hm.trans hmem, by simp [hwrote], p :: l, by simp [hout, hq], ?_⟩
    have hv : p.data = w.2 := by
      rw [hd]
      exact BitVec.eq_of_toNat_eq (by simp [Nat.mod_eq_of_lt w.2.isLt])
    rw [List.map_cons, hl, ha, hv]

/-! ### ENTER, case by case -/
section
variable {s : State} {n : BitVec 16} (hn : n.toNat % 16 = 0) (h0 : n ≠ 0) (hr : s.Readable [29])
  (hh : s.me.atHome s.cur.tile = true)
include hn h0 hr hh

theorem enter_traps {code detail : Nat} {val : Word}
    (hf : s.me.frame (s.me.reg 29) (n.setWidth 64) = .error { code := code, detail := detail, val := val }) :
    Traps (.enter n) s code detail val := by
  rw [Traps, exec_enter, execEnter, if_neg (not_or.2 ⟨not_not_intro hn, h0⟩), s.withRegs_full _ hr]
  simp [hh, hf, State.trap]

/-- A frame whose words all have their place and room is stored. -/
theorem enter_stores {t : Word} {move : Bool} (hf : s.me.frame (s.me.reg 29) (n.setWidth 64) = .ok (t, move))
    (hp : ∀ w ∈ s.me.frameWrites t move, s.frameTrap s.cur.tile w = none)
    (hroom : s.here.c.outq.length + ((s.me.frameWrites t move).filter (fun w => spaceOf w.1 != 0)).length ≤ 16)
    (hc : spaceOf t = 0 → s.captureBusy (bitsOf t 0 18 / 64) = false) :
    exec (.enter n) s
      = ((s.me.frameWrites t move).foldl (frameStore s.cur.tile) (s, s.me)).1.done
          (((s.me.frameWrites t move).foldl (frameStore s.cur.tile) (s, s.me)).2.setReg 29 t) := by
  have hcap : (s.captureBusy (bitsOf t 0 18 / 64) && spaceOf t == 0 && !isShared t) = false := by
    by_cases h : spaceOf t = 0
    · simp [hc h]
    · simp [h]
  have hnone : (s.me.frameWrites t move).findSome? (s.frameTrap s.cur.tile) = none := List.findSome?_eq_none_iff.2 hp
  rw [exec_enter, execEnter, if_neg (not_or.2 ⟨not_not_intro hn, h0⟩), s.withRegs_full _ hr]
  unfold Thread.frameWrites at hnone hroom ⊢
  simp only [hh, hf, hnone, hcap, Nat.not_lt.2 hroom, Bool.not_true, Bool.false_eq_true, if_false]
end

/-! ### The new stack pointer -/
section
variable {th : Thread} {sp n : Word}

theorem Thread.frame_misaligned (h : sp.toNat % 16 ≠ 0) : th.frame sp n = .error { code := cAlign, detail := 16, val := sp } := by
  have h4 : bitsOf sp 0 4 ≠ 0 := by simpa [bitsOf] using h
  rw [Thread.frame, if_pos h4]

variable (ha : sp.toNat % 16 = 0) (hs : sp.toNat < 2 ^ 60)
include ha hs

theorem Thread.frame_pool (hroom : th.splim.toNat + n.toNat ≤ sp.toNat) : th.frame sp n = .ok (sp - n, false) := by
  have h4 : bitsOf sp 0 4 = 0 := by simpa [bitsOf] using ha
  have h0 : spaceOf sp = 0 := Nat.div_eq_of_lt hs
  simp [Thread.frame, h4, h0, Nat.not_lt.2 hroom]

theorem Thread.frame_limit (hlow : sp.toNat < th.splim.toNat + n.toNat) (ho : th.spov.getLsbD 0 = false) :
    th.frame sp n = .error { code := cStackLimit, detail := 0, val := sp - n } := by
  have h4 : bitsOf sp 0 4 = 0 := by simpa [bitsOf] using ha
  have h0 : spaceOf sp = 0 := Nat.div_eq_of_lt hs
  simp only [Thread.frame, h4, h0, hlow, ho]
  simp

theorem Thread.frame_overflow (hlow : sp.toNat < th.splim.toNat + n.toNat) (ho : th.spov.getLsbD 0 = true)
    (hfloor : (th.spovlim &&& ~~~15#64).toNat + 16 + n.toNat ≤ (th.spov &&& ~~~15#64).toNat) :
    th.frame sp n = .ok ((th.spov &&& ~~~15#64) - 16 - n, true) := by
  have h4 : bitsOf sp 0 4 = 0 := by simpa [bitsOf] using ha
  have h0 : spaceOf sp = 0 := Nat.div_eq_of_lt hs
  simp only [Thread.frame, h4, h0, hlow, ho, Nat.not_lt.2 hfloor]
  simp
end

/-- The top of the overflow segment lies on a boundary of 16 bytes. -/
theorem segment_aligned (x : Word) : (x &&& ~~~15#64).toNat % 16 = 0 := by
  have h := Nat.and_mod_two_pow (a := x.toNat) (b := (~~~15#64).toNat) (n := 4)
  rw [BitVec.toNat_and]
  simpa using h

/-! ### The frame in the pool, and in the cellar -/

theorem State.frameTrap_local {s : State} {w : Word × Word} {off : Nat} (h : s.LocalAt .plain 8 false w.1 off) :
    s.frameTrap s.cur.tile w = none := by
  obtain ⟨hp, -, hl⟩ := h
  rw [State.frameTrap, hp]
  exact if_neg (Bool.eq_false_iff.1 hl)
theorem frameStore_local {s : State} {w : Word × Word} {off : Nat} (h : s.LocalAt .plain 8 false w.1 off) (th : Thread) :
    frameStore s.cur.tile (s, th) w = (s.threadWrite s.cur.tile off (leBytes 8 w.2.toNat), th) := by
  obtain ⟨hp, ho, -⟩ := h
  rw [frameStore, hp]
  exact if_neg (Nat.not_le.2 ho)

/-- ENTER with room above splim: its one store is performed in the pool. -/
theorem enter_pool {s : State} {n : BitVec 16} {off : Nat} (hn : n.toNat % 16 = 0) (h0 : n ≠ 0) (hr : s.Readable [29])
    (hh : s.me.atHome s.cur.tile = true) (ha : (s.me.reg 29).toNat % 16 = 0) (hs : (s.me.reg 29).toNat < 2 ^ 60)
    (hroom : s.me.splim.toNat + n.toNat ≤ (s.me.reg 29).toNat) (hl : s.LocalAt .plain 8 false (s.me.reg 29 - n.setWidth 64) off)
    (hq : s.here.c.outq.length ≤ 16) (hc : s.captureBusy (off / 64) = false) :
    exec (.enter n) s = (s.threadWrite s.cur.tile off (leBytes 8 (s.me.reg 29).toNat)).done
      (s.me.setReg 29 (s.me.reg 29 - n.setWidth 64)) := by
  have hw : (n.setWidth 64).toNat = n.toNat := BitVec.toNat_setWidth_of_le (by decide)
  have ht : spaceOf (s.me.reg 29 - n.setWidth 64) = 0 := by
    refine Nat.div_eq_of_lt (Nat.lt_of_le_of_lt ?_ hs)
    rw [BitVec.toNat_sub_of_le (BitVec.le_def.2 (by omega))]
    exact Nat.sub_le ..
  rw [enter_stores hn h0 hr hh (Thread.frame_pool ha hs (hw ▸ hroom))]
  · rw [Thread.frameWrites, if_neg Bool.false_ne_true, List.foldl_cons, List.foldl_nil, frameStore_local (w := (_, _)) hl]
  · intro w h
    rw [Thread.frameWrites, if_neg Bool.false_ne_true, List.mem_singleton] at h
    subst h
    exact State.frameTrap_local hl
  · simpa [Thread.frameWrites, ht] using hq
  · exact fun _ => (State.place_here_low hl.1 hl.offset_lt ht).symm ▸ hc

/-- The words of a frame that moves below `top` all lie in the cellar. -/
theorem Thread.frameWrites_cellar {th : Thread} {n : BitVec 16} {top : Word} (hn : n.toNat % 16 = 0)
    (htop : th.spov &&& ~~~15#64 = top) (hlo : 2 ^ 62 + 16 + n.toNat ≤ top.toNat) (hhi : top.toNat ≤ 2 ^ 62 + 2 ^ 48) :
    ∀ w ∈ th.frameWrites (top - 16 - n.setWidth 64) true, CellarWord w.1 := by
  have hw : (n.setWidth 64).toNat = n.toNat := BitVec.toNat_setWidth_of_le (by decide)
  have h16 : top.toNat % 16 = 0 := htop ▸ segment_aligned th.spov
  have e16 : (top - 16).toNat = top.toNat - 16 := BitVec.toNat_sub_of_le (BitVec.le_def.2 (by simp; omega))
  have e8 : (top - 8).toNat = top.toNat - 8 := BitVec.toNat_sub_of_le (BitVec.le_def.2 (by simp; omega))
  have et : (top - 16 - n.setWidth 64).toNat = top.toNat - 16 - n.toNat := by
    rw [BitVec.toNat_sub_of_le (BitVec.le_def.2 (by omega)), e16, hw]
  rw [Thread.frameWrites, if_pos rfl, htop]
  simp only [List.mem_cons, List.not_mem_nil, or_false]
  rintro w (rfl | rfl | rfl) <;> unfold CellarWord <;> dsimp only <;> omega

/-- ENTER below splim with the overflow segment enabled: two doublewords below its top and the frame's are posted. -/
theorem enter_cellar {s : State} {n : BitVec 16} (hn : n.toNat % 16 = 0) (h0 : n ≠ 0) (hr : s.Readable [29])
    (hh : s.me.atHome s.cur.tile = true) (ha : (s.me.reg 29).toNat % 16 = 0) (hs : (s.me.reg 29).toNat < 2 ^ 60)
    (hlow : (s.me.reg 29).toNat < s.me.splim.toNat + n.toNat) (ho : s.me.spov.getLsbD 0 = true) (hq : s.here.c.outq.length ≤ 13)
    (hns : isShadow s.cur.tile = false) {top : Word} (htop : s.me.spov &&& ~~~15#64 = top)
    (hfloor : (s.me.spovlim &&& ~~~15#64).toNat + 16 + n.toNat ≤ top.toNat) (hlo : 2 ^ 62 + 16 + n.toNat ≤ top.toNat)
    (hhi : top.toNat ≤ 2 ^ 62 + 2 ^ 48) :
    Completes (.enter n) s fun u =>
      u.me.reg 29 = top - 16 - n.setWidth 64 ∧ u.me.wrote = true ∧ SameMemory s u
      ∧ (u.here.c.outq.drop s.here.c.outq.length).map (fun p => (p.addr, p.data))
          = [(top - 16, s.me.reg 29), (top - 8, 0), (top - 16 - n.setWidth 64, s.me.reg 29)] := by
  have hw : (n.setWidth 64).toNat = n.toNat := BitVec.toNat_setWidth_of_le (by decide)
  have hcellar := Thread.frameWrites_cellar hn htop hlo hhi
  have hws : s.me.frameWrites (top - 16 - n.setWidth 64) true
      = [(top - 16, s.me.reg 29), (top - 8, 0), (top - 16 - n.setWidth 64, s.me.reg 29)] := by
    rw [Thread.frameWrites, htop]
    rfl
  obtain ⟨hcur, hm, hwrote, l, hout, hl⟩ := frameStore_posts hns _ hcellar (s, s.me)
  refine ⟨_, enter_stores hn h0 hr hh ?frame (fun w h => ?place) ?room (fun h => ?capture), ?sp, ?wrote,
    hm.trans (State.setMe_sameMemory ..), ?words⟩
  case frame =>
    rw [← htop] at hfloor ⊢
    exact Thread.frame_overflow ha hs (hw ▸ hlow) ho (hw ▸ hfloor)
  case place => rw [State.frameTrap, (hcellar w h).place]
  case room =>
    have hf := List.length_filter_le (fun w => spaceOf w.1 != 0) (s.me.frameWrites (top - 16 - n.setWidth 64) true)
    rw [hws] at hf ⊢
    exact Nat.add_le_add hq hf
  case capture =>
    have ht : CellarWord (top - 16 - n.setWidth 64) := hcellar (_, s.me.reg 29) (hws ▸ by simp)
    exact absurd (ht.space.symm.trans h) (by decide)
  case sp =>
    rw [State.me_setMe]
    exact Thread.reg_setReg_self _ _ (by decide)
  case wrote =>
    rw [State.me_setMe]
    refine hwrote.trans ?_
    rw [hws, List.isEmpty_cons, Bool.not_false, Bool.or_true]
  case words =>
    rw [State.here_setMe, Tile.setSlot_c_outq, State.here_of_cur hcur, hout]
    exact (congrArg _ List.drop_left).trans (hl.trans hws)

/-! ### LEAVE -/

theorem State.portPerform_load {s : State} {k : TileId} {off : Nat} {a : Access} {busy : Bool}
    (hl : (s.tile k).c.lockHit (s.tile k).r.cyc off (off + a.size) = false) (other : Bool) (hk : a.kind = .load) :
    s.portPerform k off a busy other = (s, .reply (.value (extended a.signed a.size ((s.tile k).c.pool.read off a.size)))) := by
  simp [State.portPerform, hl, hk, AccKind.ready, AccKind.writes]

theorem leave_loads {s : State} {off : Nat} (hr : s.Readable [29]) (hh : s.me.atHome s.cur.tile = true)
    (h : s.LocalAt .plain 8 false (s.me.reg 29) off) : Sets .leave s 29 (BitVec.ofNat 64 (s.poolNat off 8)) := by
  have hleave : exec .leave s = s.access s.me [29] (s.me.acc .load 3 false 29 (s.me.reg 29) 0 0 false) := by
    rw [exec_leave, execLeave, s.withRegs_full _ hr]
    simp [hh]
  exact (hleave.trans (State.access_local h nofun)).trans
    (State.localAccess_value h.offset_lt (State.portPerform_load (by exact h.unlocked) false rfl))

/-- Settles O29: where `Thread.frame` puts the frame, and then what its stores do. -/
theorem stackFrames : Obligations.StackFrames := by
  intro s n off hn h0 hr sp t room hh
  have hw : (n.setWidth 64).toNat = n.toNat := BitVec.toNat_setWidth_of_le (by decide)
  refine ⟨fun ha hs hroom hl hq hc => ?pool, fun ha => ?misaligned, fun ha hs hlow ho => ?limit,
    fun ha hs hlow ho hq hns hfloor hlo hhi => ?cellar, leave_loads hr hh⟩
  case pool =>
    have hbut := s.threadWrite_sameMemoryBut off (leBytes 8 sp.toNat) s.cur.tile
    rw [leBytes_length] at hbut
    refine ⟨_, enter_pool hn h0 hr hh ha hs hroom hl hq hc, State.me_setMe _ _, ?_, hbut.trans_same (State.setMe_sameMemory ..)⟩
    rw [State.setMe_poolNat, State.threadWrite_poolNat]
    exact Nat.mod_eq_of_lt (s.me.reg 29).isLt
  case misaligned => exact enter_traps hn h0 hr hh (Thread.frame_misaligned ha)
  case limit => exact enter_traps hn h0 hr hh (Thread.frame_limit ha hs (hw ▸ hlow) ho)
  case cellar => exact enter_cellar hn h0 hr hh ha hs hlow ho hq hns rfl hfloor hlo hhi

end Sys2Proof.Machine
end

section
/-!
PROOFS. The issue of the vector instructions: their operand checks, and the operation they queue (15 R299, R301, 07 R164).
-/
namespace Sys2Proof.Machine

/-! ### Operand checks (15 R299) -/

theorem State.engOperand_scratch {s : State} {a : Word} {algn len : Nat} (h : s.Scratch a algn len) : s.engOperand a algn len = none := by
  obtain ⟨hs, hb, ha, hr⟩ := h
  rw [State.engOperand, if_neg (by simp only [hs, hb]; decide), if_neg (not_not_intro ha), if_neg (not_not_intro hr)]

theorem State.engChecks_none {s : State} {xs : List (Word × Nat × Nat)} (h : ∀ x ∈ xs, s.Scratch x.1 x.2.1 x.2.2) : s.engChecks xs = none :=
  List.findSome?_eq_none_iff.2 fun x hx => State.engOperand_scratch (h x hx)

theorem State.engChecks_cons {s : State} {a : Word} {algn len : Nat} (h : s.Scratch a algn len) (xs : List (Word × Nat × Nat)) :
    s.engChecks ((a, algn, len) :: xs) = s.engChecks xs := by
  rw [State.engChecks, List.findSome?_cons, State.engOperand_scratch h]
  rfl

theorem State.engChecks_head {s : State} {x : Word × Nat × Nat} {xs : List (Word × Nat × Nat)} {t : TrapInfo}
    (h : s.engOperand x.1 x.2.1 x.2.2 = some t) : s.engChecks (x :: xs) = some t := by
  rw [State.engChecks, List.findSome?_cons, h]

/-- An instruction that traps as the check of operand `a` says. -/
theorem badOperand_of_checks {i : Instr} {s : State} {a : Word} {algn len : Nat}
    (h : ∀ t, s.engOperand a algn len = some t → exec i s = s.trapInfo t) : BadOperand i s a algn len := by
  have traps {code detail : Nat} (hc : s.engOperand a algn len = some { code := code, detail := detail, val := a }) :
      Traps i s code detail a := by
    rw [Traps, h _ hc]
    rfl
  refine ⟨fun hs => traps ?_, fun hs hb ha => traps ?_, fun hs hb ha hr => traps ?_⟩
  · rw [State.engOperand, if_pos hs]
    rfl
  · rw [State.engOperand, if_neg (by simp only [hs, hb]; decide), if_pos ha]
    rfl
  · rw [State.engOperand, if_neg (by simp only [hs, hb]; decide), if_neg (not_not_intro ha), if_pos hr]
    rfl

/-! ### An operation enters its tile's queue (07 R164) -/

/-- Starting operations changes of the tile's context its operations alone. -/
theorem State.kick_keeps (s : State) (k : TileId) :
    (s.kick k).cur = s.cur ∧ ((s.kick k).tile k).c = { (s.tile k).c with ops := ((s.kick k).tile k).c.ops } := by
  refine List.foldlRecOn (motive := fun u : State => u.cur = s.cur ∧ (u.tile k).c = { (s.tile k).c with ops := (u.tile k).c.ops }) _ _
    ⟨rfl, rfl⟩ fun u hu o _ => ?_
  split
  · refine ⟨hu.1, ?_⟩
    rw [State.tile, State.after_tiles, ← State.tile, State.tile_setCtx_self]
    exact hu.2 ▸ rfl
  · exact hu

theorem usedRanges_usedRanges (rs : List Range) : usedRanges (usedRanges rs) = usedRanges rs := by simp [usedRanges]

theorem State.askRanges_own {o : EngOp} (h : o.far = []) (s : State) (k : TileId) : s.askRanges k o = s := by simp [State.askRanges, h]

/-- The operation an instruction of the acting thread queues, with its number. -/
def State.queuedOp (s : State) (job : Job) (rs : List Range) (pix : Nat) : EngOp :=
  { EngOp.fresh (some s.cur.slot) s.me job rs [] pix none with
    id := s.here.c.nextOp, issued := s.here.r.cyc, listed := s.here.c.lockRoom (usedRanges rs) }

/-- The context of the acting thread's tile with that operation in its queue, and its ranges in the table if there is room. -/
def State.queuedCtx (s : State) (job : Job) (rs : List Range) (pix : Nat) : TileCtx :=
  { s.here.c with
    locks := s.here.c.locks ++ (if s.here.c.lockRoom (usedRanges rs) then
      (usedRanges rs).map (fun r => { tile := s.cur.tile, op := s.here.c.nextOp, launch := s.me.launch, range := r, since := s.here.r.cyc })
      else [])
    ops := s.here.c.ops ++ [s.queuedOp job rs pix], nextOp := s.here.c.nextOp + 1 }

theorem State.enqueue_own (s : State) (job : Job) (rs : List Range) (pix : Nat) :
    s.enqueue s.cur.tile (EngOp.fresh (some s.cur.slot) s.me job rs [] pix none) = s.setCtx s.cur.tile (s.queuedCtx job rs pix) := by
  have hu : usedRanges (EngOp.fresh (some s.cur.slot) s.me job rs [] pix none).ranges = usedRanges rs := usedRanges_usedRanges rs
  rw [State.enqueue, State.queuedCtx]
  dsimp only
  rw [State.askRanges_own rfl]
  by_cases hroom : s.here.c.lockRoom (usedRanges rs) = true
  · have hl : (s.tile s.cur.tile).c.lockRoom (EngOp.fresh (some s.cur.slot) s.me job rs [] pix none).ranges = true := hroom
    rw [if_pos hl, if_pos hroom, TileCtx.register, hu]
    rfl
  · have hl : ¬ (s.tile s.cur.tile).c.lockRoom (EngOp.fresh (some s.cur.slot) s.me job rs [] pix none).ranges = true := hroom
    rw [if_neg hl, if_neg hroom, List.append_nil]
    rfl

/-- An operation on ranges of its own tile alone that its thread waits for is queued. -/
theorem State.issueOp_queues (s : State) (job : Job) (rs : List Range) (rd : Reg) (pix : Nat) :
    ∃ t, s.issueOp s.me job rs [] (some rd) pix none = .next t ∧ QueuedFor s t job rs pix rd := by
  let u := (s.setCtx s.cur.tile (s.queuedCtx job rs pix)).park s.me (.op s.here.c.nextOp rd)
  obtain ⟨hcur, hkeep⟩ := u.kick_keeps s.cur.tile
  have hc : (u.tile s.cur.tile).c = { s.queuedCtx job rs pix with slots := u.here.c.slots, tok := s.here.c.tok + 1 } := by
    refine (State.here_park_c _ s.me _).trans ?_
    rw [State.here_setCtx_c]
    rfl
  have hkc : (u.kick s.cur.tile).here.c = { s.queuedCtx job rs pix with
      slots := u.here.c.slots, tok := s.here.c.tok + 1, ops := ((u.kick s.cur.tile).tile s.cur.tile).c.ops } := by
    rw [State.here_of_cur hcur]
    refine hkeep.trans ?_
    rw [hc]
  refine ⟨u.kick s.cur.tile, ?_, ⟨?_, ?_, ?_, ?_⟩, ?_⟩
  · rw [State.issueOp]
    dsimp only [Option.map_some]
    rw [State.enqueue_own]
  · rw [hkc]; rfl
  · rw [hkc]
    refine State.kick_mem (P := fun o => o.id = s.here.c.nextOp ∧ o.job = job ∧ o.ranges = usedRanges rs ∧ o.pix = pix
      ∧ o.started = none ∧ o.listed = s.here.c.lockRoom (usedRanges rs)) (fun _ h => h) ?_
    rw [hc]
    exact ⟨s.queuedOp job rs pix, List.mem_append_right _ (List.mem_singleton.2 rfl), rfl, rfl, rfl, rfl, rfl, rfl⟩
  · rw [hkc]; rfl
  · rw [hkc]; rfl
  · exact (State.park_parkedFor ..).of_me (State.me_of_slots hcur (by rw [hkc]))

/-- A member that passes its checks and then does as `hgo` says of a thread with elements left. -/
theorem issues_of_checked {i : Instr} {s : State} {job : Job} {rs : List Range} {rd : Reg} {n p : Nat}
    (h : exec i s = if n ≤ s.me.pix.toNat then s.nothingLeft s.me else s.issueOp s.me job rs [] (some rd) p none) :
    Issues i s job rs rd n p := by
  refine ⟨fun hn => ?_, fun hn => h.trans (if_pos hn)⟩
  obtain ⟨t, ht, hq⟩ := s.issueOp_queues job rs rd p
  exact ⟨t, (h.trans (if_neg (Nat.not_le.2 hn))).trans ht, hq⟩

/-! ### VEC (15 R304) -/

/-- The source operands of VEC member `f`: address, alignment, length. -/
def State.vecSources (s : State) (f : Nat) (o : VecOps) : List (Word × Nat × Nat) :=
  let n := s.me.vlen.toNat
  (if vecUsesB f then [(s.me.reg o.b, ETy.size o.ts, n * ETy.size o.ts)] else [])
    ++ (if vecUsesC f && !o.sc then [(s.me.reg o.c, ETy.size o.ts, n * ETy.size o.ts)] else [])
    ++ (if vecUsesE f then [(s.me.reg o.e, vecSizeE f o.ts, n * vecSizeE f o.ts)] else [])

section
variable {s : State} {o : VecOps} (hr : s.Readable [o.a, o.b, o.c, o.e]) (f : Nat)
include hr

theorem State.vec_withRegs (k : Thread → Out) :
    s.withRegs ([o.a] ++ (if vecUsesB f then [o.b] else []) ++ (if vecUsesC f then [o.c] else []) ++ (if vecUsesE f then [o.e] else [])) k
      = k s.me := by
  refine s.withRegs_full k fun r h => hr r ?_
  simp only [List.mem_append, List.mem_ite_nil_right, List.mem_singleton] at h
  simp only [List.mem_cons, List.not_mem_nil, or_false]
  tauto

/-- VEC checks its destination first. -/
theorem State.vec_traps {t : TrapInfo} (h : s.engOperand (s.me.reg o.a) (ETy.size o.td) (s.me.vlen.toNat * ETy.size o.td) = some t) :
    s.vec f o = s.trapInfo t := by
  rw [State.vec, State.vec_withRegs hr]
  dsimp only [List.cons_append, List.nil_append]
  rw [State.engChecks_head h]

theorem State.vec_checked (ha : s.Scratch (s.me.reg o.a) (ETy.size o.td) (s.me.vlen.toNat * ETy.size o.td))
    (hs : ∀ x ∈ s.vecSources f o, s.Scratch x.1 x.2.1 x.2.2) :
    s.vec f o = if s.me.vlen.toNat ≤ s.me.pix.toNat then s.nothingLeft s.me
      else s.issueOp s.me (.vec f o.ts o.td o.rm o.sc o.sat (s.me.reg o.a).toNat (s.me.reg o.b).toNat (s.me.reg o.c).toNat
          (s.me.reg o.e).toNat (s.me.reg o.c) s.me.vlen.toNat)
        ((s.vecSources f o).map (fun x => rangeAt x.1 x.2.2 false) ++ [rangeAt (s.me.reg o.a) (s.me.vlen.toNat * ETy.size o.td) true]) []
        (some 0) s.me.pix.toNat none := by
  have hc := (State.engChecks_cons ha (s.vecSources f o)).trans (State.engChecks_none hs)
  rw [State.vecSources] at hc
  rw [State.vec, State.vec_withRegs hr]
  dsimp only [List.cons_append, List.nil_append] at hc ⊢
  rw [hc]
  rfl
end

/-- VEC member `f` with operands that pass their checks. -/
theorem vec_issues {s : State} {o : VecOps} (hr : s.Readable [o.a, o.b, o.c, o.e]) (f : Nat) {i : Instr} (hi : exec i s = s.vec f o) :
    let n := s.me.vlen.toNat
    let a := s.me.reg o.a
    let b := s.me.reg o.b
    let c := s.me.reg o.c
    let e := s.me.reg o.e
    let ss := ETy.size o.ts
    let sd := ETy.size o.td
    let se := if f = 17 then 1 else ss
    let usesC := vecUsesC f = true ∧ o.sc = false
    s.Scratch a sd (n * sd) → (vecUsesB f = true → s.Scratch b ss (n * ss)) → (usesC → s.Scratch c ss (n * ss)) →
      (vecUsesE f = true → s.Scratch e se (n * se)) →
      Issues i s (.vec f o.ts o.td o.rm o.sc o.sat a.toNat b.toNat c.toNat e.toNat c n)
        ((if vecUsesB f then [rangeAt b (n * ss) false] else []) ++ (if usesC then [rangeAt c (n * ss) false] else [])
          ++ (if vecUsesE f then [rangeAt e (n * se) false] else []) ++ [rangeAt a (n * sd) true]) 0 n s.me.pix.toNat := by
  intro n a b c e ss sd se usesC ha hb hc he
  have hs : ∀ x ∈ s.vecSources f o, s.Scratch x.1 x.2.1 x.2.2 := by
    intro x hx
    simp only [State.vecSources, List.mem_append, List.mem_ite_nil_right, List.mem_singleton, Bool.and_eq_true, Bool.not_eq_true'] at hx
    rcases hx with (⟨hu, rfl⟩ | ⟨hu, rfl⟩) | ⟨hu, rfl⟩
    · exact hb hu
    · exact hc hu
    · exact he hu
  have hrs : (s.vecSources f o).map (fun x => rangeAt x.1 x.2.2 false)
      = (if vecUsesB f then [rangeAt b (n * ss) false] else []) ++ (if usesC then [rangeAt c (n * ss) false] else [])
        ++ (if vecUsesE f then [rangeAt e (n * se) false] else []) := by
    have hC : usesC ↔ (vecUsesC f && !o.sc) = true := by simp [usesC]
    simp only [State.vecSources, List.map_append, hC, apply_ite (List.map _), List.map_cons, List.map_nil]
    rfl
  rw [← hrs]
  exact issues_of_checked (hi.trans (State.vec_checked hr f ha hs))

/-- The members of VEC by their numbers. -/
theorem exec_vecMember (o : VecOps) (s : State) : ∀ m ∈ [(0, Instr.vadd), (1, .vsub), (2, .vmul), (3, .vmax), (4, .vmin), (5, .vabs),
    (6, .vneg), (7, .vfma), (8, .vexp), (9, .vrcp), (10, .vrsq), (11, .vsigm), (12, .vsilu), (13, .vcvt), (14, .vset), (15, .vcpy),
    (16, .viota), (17, .vsel), (18, .vcmp), (19, .vscl)], exec (m.2 o) s = s.vec m.1 o := by
  intro m hm
  fin_cases hm <;> rfl

/-! ### VRED (15 R306) -/
section
variable {s : State} {i : Instr} {f : Nat} {ty : ETy} {d a b : Reg}

/-- A reduction of one vector, by its number: it traps on a bad operand, writes its empty result, or queues. -/
theorem red_one (hf : f ≠ 5) (hr : s.Readable [a]) (hi : exec i s = s.red f ty d a 0) :
    let n := s.me.vlen.toNat
    let x := s.me.reg a
    let sz := ETy.size ty
    BadOperand i s x sz (n * sz) ∧ (s.Scratch x sz (n * sz) →
      (0 < n → Issues i s (.red f ty x.toNat 0 n d) [rangeAt x (n * sz) false] d n (s.me.pix.toNat / 16 * 16))
      ∧ (n = 0 → Retires i s { s.me.setReg d (BitVec.ofInt 64 (redInit f ty)) with pix := 0 })) := by
  intro n x sz
  rw [State.red, if_neg hf, s.withRegs_full _ hr] at hi
  simp only [if_neg hf, List.append_nil] at hi
  refine ⟨badOperand_of_checks fun t ht => ?_, fun hs => ?_⟩
  · rw [State.engChecks_head ht] at hi
    exact hi
  · rw [State.engChecks_cons hs] at hi
    exact ⟨fun hn => issues_of_checked (hi.trans (if_neg (Nat.ne_of_gt hn))), fun hn => hi.trans (if_pos hn)⟩

/-- VDOT, the reduction of two vectors. -/
theorem red_two (hr : s.Readable [a, b]) :
    let n := s.me.vlen.toNat
    let x := s.me.reg a
    let y := s.me.reg b
    let sz := ETy.size ty
    s.Scratch x sz (n * sz) → s.Scratch y sz (n * sz) →
      (0 < n → Issues (.vdot ty d a b) s (.red 5 ty x.toNat y.toNat n d)
        [rangeAt x (n * sz) false, rangeAt y (n * sz) false] d n (s.me.pix.toNat / 16 * 16))
      ∧ (n = 0 → Retires (.vdot ty d a b) s { s.me.setReg d 0 with pix := 0 }) := by
  intro n x y sz hx hy
  have hi : exec (.vdot ty d a b) s = s.red 5 ty d a b := rfl
  rw [State.red, if_pos rfl, s.withRegs_full _ hr] at hi
  simp only [if_pos, List.cons_append, List.nil_append] at hi
  rw [State.engChecks_cons hx, State.engChecks_cons hy] at hi
  exact ⟨fun hn => issues_of_checked (hi.trans (if_neg (Nat.ne_of_gt hn))), fun hn => hi.trans (if_pos hn)⟩
end

/-! ### VGAT (15 R307) -/

/-- A gather or scatter whose operands pass their checks. -/
theorem gat_issues {s : State} {o : GatOps} {i : Instr} {f rm : Nat} (hr : s.Readable [o.a, o.b, o.c]) (hi : exec i s = s.gat f rm o) :
    let n := s.me.vlen.toNat
    let sz := ETy.size o.ty
    let w := if o.x32 then 4 else 2
    let t0 := if f = 0 then s.me.reg o.b else s.me.reg o.a
    let lin := if f = 0 then s.me.reg o.a else s.me.reg o.b
    let c := s.me.reg o.c
    s.Scratch (s.me.reg o.a) sz (if f = 0 then n * sz else 0) → s.Scratch (s.me.reg o.b) sz (if f = 0 then 0 else n * sz) →
      s.Scratch c w (n * w) →
      Issues i s (.gat f o.ty o.x32 rm t0.toNat lin.toNat c.toNat n)
        [rangeAt lin (n * sz) (f == 0), rangeAt c (n * w) false,
          { lo := t0.toNat, hi := min (t0.toNat + 2 ^ (8 * w) * sz) (scrBytes s.here.c.poolcfg), write := f != 0 }] 0 n s.me.pix.toNat := by
  intro n sz w t0 lin c ha hb hc
  have hchecks : s.engChecks [(s.me.reg o.a, sz, if f = 0 then n * sz else 0), (s.me.reg o.b, sz, if f = 0 then 0 else n * sz), (c, w, n * w)]
      = none := by
    rw [State.engChecks_cons ha, State.engChecks_cons hb, State.engChecks_cons hc]
    rfl
  refine issues_of_checked (hi.trans ?_)
  rw [State.gat, s.withRegs_full _ hr]
  dsimp only
  rw [show gatWidth o.x32 = w from rfl, hchecks]
  by_cases hf : f = 0
  · simp only [hf, t0, lin]
    rfl
  · simp only [hf, t0, lin]
    rfl

/-- What an issue leaves, before the extent is reached and from there on. -/
theorem Issues.queues_or_retires {i : Instr} {s : State} {job : Job} {rs : List Range} {rd : Reg} {n p : Nat} (h : Issues i s job rs rd n p) :
    (s.me.pix.toNat < n → ∃ t, exec i s = .next t ∧ QueuedFor s t job rs p rd)
      ∧ (n ≤ s.me.pix.toNat → ∃ t, exec i s = .next t ∧ t = s.setMe (({ s.me with pix := 0 } : Thread).retire s.cur.nh)) :=
  ⟨h.1, fun hn => ⟨_, h.2 hn, rfl⟩⟩

/-- Settles O35: each member is `State.vec`, `State.red` or `State.gat` of its number. -/
theorem vectorIssue : Obligations.VectorIssue := by
  refine ⟨fun s => ⟨fun o hr m hm => ?vec, fun ty d a b hr => ?red, fun o rm hr => ?gat⟩,
    fun s => ⟨fun o hr => ?vecMembers, fun ty d a b hr hn => ?redMembers, fun o rm hr => ?gatMembers⟩⟩
  case vec =>
    have hi := exec_vecMember o s m hm
    exact ⟨badOperand_of_checks fun t ht => hi.trans (State.vec_traps hr m.1 ht), vec_issues hr m.1 hi⟩
  case red =>
    have ha : s.Readable [a] := fun r h => hr r (List.mem_cons.2 (.inl (List.mem_singleton.1 h)))
    exact ⟨red_one (by decide) ha rfl, red_one (by decide) ha rfl, red_one (by decide) ha rfl, red_one (by decide) ha rfl,
      red_one (by decide) ha rfl, red_two hr⟩
  case gat =>
    exact ⟨gat_issues (f := 0) (rm := 0) hr rfl, fun ha hb hc => ⟨gat_issues (f := 1) (rm := 0) hr rfl ha hb hc,
      gat_issues (f := 2) (rm := rm) hr rfl ha hb hc⟩⟩
  case vecMembers =>
    have member (f : Nat) {i : Instr} (hi : exec i s = s.vec f o) ha hb hc he := (vec_issues hr f hi ha hb hc he).queues_or_retires
    exact ⟨member 0 rfl, member 1 rfl, member 2 rfl, member 3 rfl, member 4 rfl, member 5 rfl, member 6 rfl, member 7 rfl, member 8 rfl,
      member 9 rfl, member 10 rfl, member 11 rfl, member 12 rfl, member 13 rfl, member 14 rfl, member 15 rfl, member 16 rfl, member 17 rfl,
      member 18 rfl, member 19 rfl⟩
  case redMembers =>
    have ha : s.Readable [a] := fun r h => hr r (List.mem_cons.2 (.inl (List.mem_singleton.1 h)))
    have member {f : Nat} (hf : f ≠ 5) {i : Instr} (hi : exec i s = s.red f ty d a 0) hs :=
      (((red_one hf ha hi).2 hs).1 hn).queues_or_retires
    exact ⟨member (by decide) rfl, member (by decide) rfl, member (by decide) rfl, member (by decide) rfl, member (by decide) rfl,
      fun hx hy => ((red_two hr hx hy).1 hn).queues_or_retires⟩
  case gatMembers =>
    refine ⟨fun ha hb hc => (gat_issues (f := 0) (rm := 0) hr rfl ha hb hc).queues_or_retires, fun ha hb hc => ?_⟩
    obtain ⟨hq, hf⟩ := (gat_issues (i := .vscat o) (f := 1) (rm := 0) hr rfl ha hb hc).queues_or_retires
    obtain ⟨hq', hf'⟩ := (gat_issues (i := .vscadd rm o) (f := 2) (rm := rm) hr rfl ha hb hc).queues_or_retires
    exact ⟨hq, hf, hq', hf'⟩

end Sys2Proof.Machine
end

section
/-!
PROOFS. Engine operations: how one starts, ends and leaves its queue, range requests, and copies (07 R164, R165, 15 R303, R315 to R320).
-/
namespace Sys2Proof.Machine

/-! ### What stays of pools and queues as operations end and threads go on -/

/-- `u` has the pools of `s`, and in no tile's queue an operation that was not there. -/
structure State.NoNewOps (s u : State) : Prop where
  pool : ∀ k, (u.tile k).c.pool = (s.tile k).c.pool
  ops : ∀ k, ∀ x ∈ (u.tile k).c.ops, ∃ y ∈ (s.tile k).c.ops, y.id = x.id

namespace State.NoNewOps

theorem of_ctx {s u : State} (h : ∀ k, (u.tile k).c = (s.tile k).c) : s.NoNewOps u :=
  ⟨fun k => by rw [h], fun k x hx => ⟨x, h k ▸ hx, rfl⟩⟩
theorem refl (s : State) : s.NoNewOps s := of_ctx fun _ => rfl
theorem trans {s t u : State} (h : s.NoNewOps t) (h' : t.NoNewOps u) : s.NoNewOps u where
  pool k := (h'.pool k).trans (h.pool k)
  ops k x hx := by
    obtain ⟨y, hy, hyx⟩ := h'.ops k x hx
    obtain ⟨z, hz, hzy⟩ := h.ops k y hy
    exact ⟨z, hz, hzy.trans hyx⟩
theorem foldl {α : Type} {f : State → α → State} (hf : ∀ (s : State) x, s.NoNewOps (f s x)) (l : List α) (s : State) :
    s.NoNewOps (l.foldl f s) :=
  List.foldlRecOn l f (refl s) fun _ h x _ => h.trans (hf _ x)
theorem ite {s t u : State} {p : Prop} [Decidable p] (ht : s.NoNewOps t) (hu : s.NoNewOps u) : s.NoNewOps (if p then t else u) := by
  split
  · exact ht
  · exact hu

end State.NoNewOps

/-- The operations of `d` are, by their numbers, of those of `c`. -/
def TileCtx.OpsWithin (d c : TileCtx) : Prop := ∀ x ∈ d.ops, ∃ y ∈ c.ops, y.id = x.id

theorem TileCtx.opsWithin_of_subset {c d : TileCtx} (h : d.ops ⊆ c.ops) : d.OpsWithin c := fun x hx => ⟨x, h hx, rfl⟩
theorem TileCtx.opsWithin_refl (c : TileCtx) : c.OpsWithin c := TileCtx.opsWithin_of_subset (List.Subset.refl _)
theorem TileCtx.opsWithin_setOp {c d : TileCtx} (h : c.OpsWithin d) (id : Nat) {f : EngOp → EngOp} (hf : ∀ o, (f o).id = o.id) :
    (c.setOp id f).OpsWithin d := by
  intro x hx
  obtain ⟨y, hy, rfl⟩ := List.mem_map.1 hx
  obtain ⟨z, hz, hzy⟩ := h y hy
  refine ⟨z, hz, hzy.trans ?_⟩
  split
  · exact (hf y).symm
  · rfl

/-- Taking lock entries changes of the operations whether they are listed. -/
theorem TileCtx.listOps_keeps (c : TileCtx) (cyc : Nat) (k : TileId) : (c.listOps cyc k).pool = c.pool ∧ (c.listOps cyc k).OpsWithin c := by
  refine List.foldlRecOn (motive := fun d : TileCtx => d.pool = c.pool ∧ d.OpsWithin c) _ _
    ⟨rfl, TileCtx.opsWithin_refl _⟩ fun d hd o _ => ?_
  split
  · exact hd
  · exact ⟨hd.1, TileCtx.opsWithin_setOp hd.2 o.id fun _ => rfl⟩

theorem TileCtx.leave_keeps (c : TileCtx) (hslot : BitVec 4) : (c.leave hslot).pool = c.pool ∧ (c.leave hslot).OpsWithin c := by
  fun_cases TileCtx.leave
  · exact ⟨rfl, TileCtx.opsWithin_refl _⟩
  · exact ⟨rfl, TileCtx.opsWithin_refl _⟩
  · exact ⟨rfl, TileCtx.opsWithin_of_subset (List.filter_subset_self _)⟩

section
variable (s : State) (k : TileId)

theorem State.setTile_noNewOps {t : Tile} (hp : t.c.pool = (s.tile k).c.pool) (ho : t.c.OpsWithin (s.tile k).c) :
    s.NoNewOps (s.setTile k t) where
  pool := State.read_setTile (fun t => t.c.pool) hp
  ops j x hx := by
    rw [State.tile_setTile] at hx
    split at hx
    · subst_vars; exact ho x hx
    · exact ⟨x, hx, rfl⟩
theorem State.setTile_sameOps {t : Tile} (hp : t.c.pool = (s.tile k).c.pool) (ho : t.c.ops = (s.tile k).c.ops) :
    s.NoNewOps (s.setTile k t) :=
  s.setTile_noNewOps k hp fun x hx => ⟨x, ho ▸ hx, rfl⟩
theorem State.setCtx_noNewOps {c : TileCtx} (hp : c.pool = (s.tile k).c.pool) (ho : c.OpsWithin (s.tile k).c) : s.NoNewOps (s.setCtx k c) :=
  s.setTile_noNewOps k hp ho
theorem State.setCtx_sameOps {c : TileCtx} (hp : c.pool = (s.tile k).c.pool) (ho : c.ops = (s.tile k).c.ops) : s.NoNewOps (s.setCtx k c) :=
  s.setTile_sameOps k hp ho
theorem State.setThr_noNewOps (j : Fin 16) (th : Thread) : s.NoNewOps (s.setThr k j th) := s.setTile_sameOps k rfl rfl
theorem State.after_noNewOps (n : Nat) (ev : Instr) (arg : Payload) : s.NoNewOps (s.after n ev arg) := .of_ctx fun _ => rfl
theorem State.logRec_noNewOps (kind slot len : Nat) (ref : Bool) (ev : Instr) (arg : Payload) (val : Word) :
    s.NoNewOps (s.logRec k kind slot len ref ev arg val) := .of_ctx fun _ => State.tile_logRec_c ..
theorem State.mark_noNewOps (kind slot len : Nat) (val : Word) : s.NoNewOps (s.mark k kind slot len val) := s.logRec_noNewOps ..
theorem State.inject_noNewOps (p : Packet) : s.NoNewOps (s.inject k p) := .of_ctx fun _ => State.tile_inject_c ..
theorem State.packet_noNewOps (b : TileId) (cls fl : Nat) (ev : Instr) (arg : Payload) : s.NoNewOps (s.packet k b cls fl ev arg) :=
  .of_ctx fun _ => State.packet_tile_c ..
theorem State.lookAt_noNewOps (ctx lix : Nat) : s.NoNewOps (s.lookAt ctx lix) := .of_ctx fun _ => rfl

/-! Threads that end, trap, or enter a slot. -/

theorem State.enterSlot_noNewOps (j : Fin 16) (th : Thread) (refused : Option Word) : s.NoNewOps (s.enterSlot k j th refused) := by
  fun_cases State.enterSlot
  · exact s.setTile_sameOps k rfl rfl
  · refine State.NoNewOps.trans (s.setTile_sameOps k ?_ ?_) (State.inject_noNewOps ..)
    · rfl
    · rfl
theorem State.refill_noNewOps (n : Nat) : s.NoNewOps (s.refill k n) := by
  induction n generalizing s with
  | zero => exact .refl s
  | succ n ih =>
    unfold State.refill
    split
    · refine State.NoNewOps.trans (s.setCtx_sameOps k ?_ ?_) (.trans (State.enterSlot_noNewOps ..) (ih _))
      · rfl
      · rfl
    · exact .refl s
theorem State.endEffects_noNewOps (th : Thread) : s.NoNewOps (s.endEffects k th) := by
  unfold State.endEffects
  extract_lets home s₁ s₂ s₃
  have groups : s.NoNewOps s₁ := .foldl (fun s m => s.packet_noNewOps ..) _ s
  have packet : s₁.NoNewOps s₂ := .ite (s₁.inject_noNewOps ..) (.refl s₁)
  have left := TileCtx.leave_keeps (s₂.tile k).c th.hslot
  have place : s₂.NoNewOps s₃ := .ite (s₂.setTile_noNewOps k left.1 left.2) (s₂.packet_noNewOps ..)
  exact ((groups.trans packet).trans place).trans (s₃.inject_noNewOps ..)
theorem State.endThread_noNewOps (j : Fin 16) : s.NoNewOps (s.endThread k j) := by
  unfold State.endThread
  extract_lets th s₁
  have slot : s.NoNewOps (s.setTile k ((s.tile k).setSlot j none)) := s.setTile_sameOps k rfl rfl
  exact (slot.trans (State.refill_noNewOps ..)).trans (s₁.endEffects_noNewOps ..)
theorem State.trapAt_noNewOps (j : Fin 16) (xpc : Word) (cause : BitVec 17) (val : Word) : s.NoNewOps (s.trapAt k j xpc cause val) := by
  unfold State.trapAt State.trapFrom
  split
  · exact (s.inject_noNewOps ..).trans (State.endThread_noNewOps ..)
  · exact s.setThr_noNewOps ..

/-! Threads that go on, and an operation that leaves its queue. -/

theorem State.deliver_noNewOps (r : Ref) (v : Reply) : s.NoNewOps (s.deliver r v) := by
  unfold State.deliver
  split
  · exact .refl s
  · dsimp only
    split
    · exact .refl s
    · cases v with
      | trap t => exact s.trapAt_noNewOps ..
      | _ => exact s.setThr_noNewOps ..

/-- The log of a tile has no room for a record of a thread's wake. -/
theorem State.deferWake_noNewOps (j n : Nat) (ev : Instr) (arg : Payload) : s.NoNewOps ((s.noteFull k j).after n ev arg) :=
  .trans (s.logRec_noNewOps ..) (State.after_noNewOps ..)
theorem State.wakeAll_noNewOps (kind : Nat) (f : Thread → ParkWhy → Bool) : s.NoNewOps (s.wakeAll k kind f) := by
  refine .foldl (fun s j => ?_) _ s
  split
  · split
    · exact .ite (.refl s) (.ite (s.setThr_noNewOps ..)
        (.ite (s.deferWake_noNewOps ..) (.trans (s.setThr_noNewOps ..) (State.mark_noNewOps ..))))
    · exact .refl s
  · exact .refl s
theorem State.drainEnd_noNewOps (j : Fin 16) (nh p : Nat) : s.NoNewOps (s.drainEnd k j nh p) := by
  unfold State.drainEnd
  dsimp only
  split
  · exact s.setThr_noNewOps ..
  · refine State.NoNewOps.trans (s.setCtx_sameOps k ?_ ?_) (State.trapAt_noNewOps ..)
    · rfl
    · rfl
theorem State.endDrains_noNewOps : s.NoNewOps (s.endDrains k) := by
  refine .foldl (fun s j => ?_) _ s
  split
  · split
    · exact .ite (.refl s) (.ite (s.deferWake_noNewOps ..) ((s.mark_noNewOps ..).trans (State.drainEnd_noNewOps ..)))
    · exact .refl s
  · exact .refl s
theorem State.endListed_noNewOps : s.NoNewOps (s.endListed k) := by
  refine .foldl (fun s j => ?_) _ s
  split
  · split
    · exact .ite (.refl s) (.ite (s.deferWake_noNewOps ..) ((s.mark_noNewOps ..).trans (State.setThr_noNewOps ..)))
    · exact .refl s
  · exact .refl s
theorem State.kick_noNewOps : s.NoNewOps (s.kick k) := by
  refine .foldl (fun s o => .ite ?_ (.refl s)) _ s
  refine State.NoNewOps.trans (s.setCtx_noNewOps k ?_ (TileCtx.opsWithin_setOp ?_ o.id ?_)) (State.after_noNewOps ..)
  · rfl
  · exact TileCtx.opsWithin_refl _
  · exact fun _ => rfl
theorem State.afterRelease_noNewOps : s.NoNewOps (s.afterRelease k) := by
  obtain ⟨hp, ho⟩ := TileCtx.listOps_keeps (s.tile k).c (s.tile k).r.cyc k
  have lists : s.NoNewOps (s.setCtx k ((s.tile k).c.listOps (s.tile k).r.cyc k)) := s.setTile_noNewOps k hp ho
  exact (((lists.trans (State.endListed_noNewOps ..)).trans (State.wakeAll_noNewOps ..)).trans (State.kick_noNewOps ..)).trans
    (State.endDrains_noNewOps ..)
theorem State.wakeOp_noNewOps (r : Ref) (v : Reply) : s.NoNewOps (s.wakeOp r v) := by
  unfold State.wakeOp
  split
  · exact .refl s
  · exact .ite (s.deferWake_noNewOps ..) ((s.mark_noNewOps ..).trans (State.deliver_noNewOps ..))

/-- An operation that is over has left its queue, with the pool as it was. -/
theorem State.endOp_leaves (o : EngOp) (v : Reply) :
    ((s.endOp k o v).tile k).c.pool = (s.tile k).c.pool ∧ ∀ x ∈ ((s.endOp k o v).tile k).c.ops, x.id ≠ o.id := by
  let s₁ := s.setCtx k { ((s.tile k).c.unlock k o.id) with ops := ((s.tile k).c.unlock k o.id).ops.filter (fun x => x.id != o.id) }
  have rest : s₁.NoNewOps (s.endOp k o v) := by
    have release : s₁.NoNewOps (s.releaseOp k o) := (s₁.afterRelease_noNewOps k).trans (State.lookAt_noNewOps ..)
    unfold State.endOp
    dsimp only
    split
    · exact release.trans (State.wakeOp_noNewOps ..)
    · exact release
  have hc := s.tile_setCtx_self k { ((s.tile k).c.unlock k o.id) with ops := ((s.tile k).c.unlock k o.id).ops.filter (fun x => x.id != o.id) }
  refine ⟨(rest.pool k).trans (congrArg (fun t => t.c.pool) hc), fun x hx => ?_⟩
  obtain ⟨y, hy, hyx⟩ := rest.ops k x hx
  have hy' : y ∈ (s₁.tile k).c.ops := hy
  rw [hc] at hy'
  simpa [hyx] using (List.mem_filter.1 hy').2
end

/-! ### Bytes and packets -/

theorem SameMemory.trans_but {k : TileId} {a n : Nat} {s t u : State} (h : SameMemory s t) (h' : SameMemoryBut k a n t u) :
    SameMemoryBut k a n s u := by
  obtain ⟨hp, hc, hh⟩ := h
  obtain ⟨hp', hc', hh'⟩ := h'
  exact ⟨fun k' a' hk => (hp' k' a' hk).trans (hp k' a'), fun x => (hc' x).trans (hc x), fun x => (hh' x).trans (hh x)⟩

theorem State.poolWrite_sameMemoryBut (s : State) (k : TileId) (off : Nat) (bs : List Byte) :
    SameMemoryBut k off bs.length s (s.poolWrite k off bs) := by
  refine ⟨fun k' a h => ?_, fun _ => rfl, fun _ => rfl⟩
  by_cases hk : k' = k
  · subst hk
    rw [State.poolByte, State.poolWrite_pool, Memory.get_setBytes_out _ _ _ (h.resolve_left fun h => h rfl)]
    rfl
  · rw [State.poolByte, State.poolWrite_tile_ne _ _ _ hk]
    rfl

/-- A packet within a shadow's bounds is in its port's buffer. -/
theorem State.packet_leaving {s : State} {a b : TileId} (h : s.leavesShadow a b = false) (cls fl : Nat) (ev : Instr) (arg : Payload) :
    (s.packet a b cls fl ev arg).Leaving a ev arg := (s.packet_leaves h cls fl ev arg).1

/-! ### An operation by its number -/

theorem TileCtx.op?_id {c : TileCtx} {id : Nat} {o : EngOp} (h : c.op? id = some o) : o.id = id := by
  simpa using List.find?_some h

/-- What is found under a number after an update of that operation which leaves its number. -/
theorem TileCtx.op?_setOp {c : TileCtx} {id : Nat} {f : EngOp → EngOp} {o : EngOp} (h : c.op? id = some o)
    (hf : ∀ o, o.id = id → (f o).id = id) :
    (c.setOp id f).op? id = some (f o) := by
  have hp : ((fun x : EngOp => x.id == id) ∘ fun o => if o.id = id then f o else o) = fun x => x.id == id := by
    funext x
    by_cases hx : x.id = id
    · simp [hx, hf x hx]
    · simp [hx]
  have ho := TileCtx.op?_id h
  rw [TileCtx.op?] at h
  rw [TileCtx.op?, TileCtx.setOp, List.find?_map, hp, h, Option.map_some, if_pos ho]

/-! ### Start (07 R165) -/

theorem Job.cycles_of_unit {j : Job} (h : j.unit ≤ 3) (p : Nat) :
    j.cycles p = 12 + (j.extent - p + j.rate.1 - 1) / j.rate.1 * j.rate.2 := by
  unfold Job.cycles
  split
  · exact absurd h (by simp [Job.unit])
  · rfl

/-- The jobs of the vector, matrix and delta units that start with their completion on the agenda. -/
theorem State.startOp_timed {o : EngOp} (hu : o.job.unit ≤ 2) (ha : ∀ h n p q, o.job ≠ .accAtt h n p q)
    (hs : ∀ h n p, o.job ≠ .accSpl h n p) (s : State) (k : TileId) : s.startOp k o = s.after (o.job.cycles o.pix) .engineOpComplete (.op k o.id) := by
  rw [State.startOp]
  split
  next hj => exact absurd (hj ▸ hu) (by simp [Job.unit])
  next hj => exact absurd (hj ▸ hu) (by simp [Job.unit])
  next hj => exact absurd (hj ▸ hu) (by simp [Job.unit])
  next hj => exact absurd hj (ha _ _ _ _)
  next hj => exact absurd hj (hs _ _ _)
  next hj => exact absurd (hj ▸ hu) (by simp [Job.unit])
  next hj => exact absurd (hj ▸ hu) (by simp [Job.unit])
  next => rfl

section
variable {s : State} {k : TileId} {id : Nat} {o : EngOp} (ho : (s.tile k).c.op? id = some o)
include ho

theorem engineOpStart_starts (hn : o.started = none) (hc : (s.tile k).c.canStart o = true) (hr : (s.tile k).r.starts o = true) :
    Becomes .engineOpStart (.op k id) s
      ((s.setCtx k ((s.tile k).c.setOp id fun _ => { o with started := some (s.tile k).r.cyc })).startOp k
        { o with started := some (s.tile k).r.cyc }) := by
  intro hi
  rw [exec_engineOpStart, execEngineOpStart, hi]
  simp [ho, hn, hc, hr]

theorem engineOpStart_yields (hn : o.started = none) (hc : (s.tile k).c.canStart o = false ∨ (s.tile k).r.starts o = false) :
    Becomes .engineOpStart (.op k id) s (s.setCtx k ((s.tile k).c.setOp id fun o => { o with asked := false })) := by
  intro hi
  rw [exec_engineOpStart, execEngineOpStart, hi]
  rcases hc with hc | hc <;> simp [ho, hn, hc]

theorem engineOpStart_timed (hn : o.started = none) (hc : (s.tile k).c.canStart o = true) (hr : (s.tile k).r.starts o = true)
    (hu : o.job.unit ≤ 2) (ha : ∀ h n p q, o.job ≠ .accAtt h n p q) (hs : ∀ h n p, o.job ≠ .accSpl h n p) :
    Happens .engineOpStart (.op k id) s fun u =>
      s.DueIn u (12 + (o.job.extent - o.pix + o.job.rate.1 - 1) / o.job.rate.1 * o.job.rate.2) .engineOpComplete (.op k id)
      ∧ ((u.tile k).c.op? id).map EngOp.started = some (some (s.tile k).r.cyc) ∧ SameMemory s u := by
  have hid := TileCtx.op?_id ho
  have he := engineOpStart_starts ho hn hc hr
  rw [State.startOp_timed (o := { o with started := some (s.tile k).r.cyc }) hu ha hs, Job.cycles_of_unit (Nat.le_succ_of_le hu)] at he
  refine he.happens ⟨hid ▸ State.after_dueIn rfl .., ?_, .trans (State.setCtx_sameMemory ?_) (SameMemory.of_eq rfl rfl)⟩
  · rw [State.tile, State.after_tiles, ← State.tile, State.tile_setCtx_self, TileCtx.op?_setOp ho ?_]
    · rfl
    · exact fun _ _ => hid
  · rfl

theorem engineOpStart_waits (hn : o.started = none) (hc : (s.tile k).c.canStart o = false ∨ (s.tile k).r.starts o = false) :
    Happens .engineOpStart (.op k id) s fun u => u.agenda = s.agenda ∧ ((u.tile k).c.op? id).map EngOp.asked = some false := by
  refine (engineOpStart_yields ho hn hc).happens ⟨rfl, ?_⟩
  rw [State.tile_setCtx_self, TileCtx.op?_setOp ho ?_]
  · rfl
  · exact fun _ h => h
end

/-! ### The capture buffer (05 R94) -/

theorem State.latchLines_keeps (s : State) (k : TileId) (ls : List Nat) :
    s.NoNewOps (s.latchLines k ls).1 ∧ SameMemory s (s.latchLines k ls).1 ∧ (s.latchLines k ls).1.now = s.now := by
  fun_cases State.latchLines
  · exact ⟨.refl s, .refl s, rfl⟩
  · exact ⟨.refl s, .refl s, rfl⟩
  · exact ⟨s.setTile_sameOps k rfl rfl, State.setRouter_sameMemory .., rfl⟩

/-- Lines that are latched for an operation leave memories, queues and time. -/
theorem State.captureOp_keeps (s : State) (k : TileId) (id : Nat) (ls : List Nat) :
    s.NoNewOps (s.captureOp k id ls).1 ∧ SameMemory s (s.captureOp k id ls).1 ∧ (s.captureOp k id ls).1.now = s.now := by
  obtain ⟨hops, hm, hn⟩ := s.latchLines_keeps k ls
  unfold State.captureOp
  dsimp only
  split
  · split
    · exact ⟨s.logRec_noNewOps .., s.log_sameMemory .., State.logRec_now ..⟩
    · exact ⟨.refl s, .refl s, rfl⟩
  · split
    · exact ⟨hops, hm, hn⟩
    · exact ⟨hops.trans (State.logRec_noNewOps ..), hm.trans (State.log_sameMemory ..), (State.logRec_now ..).trans hn⟩

/-! ### Completion (07 R164) -/

/-- A job whose work is done at its completion, and which then is over. -/
theorem State.completeOp_works {o : EngOp} (hu : o.job.unit ≤ 3) (ha : ∀ h n p q, o.job ≠ .accAtt h n p q)
    (hs : ∀ h n p, o.job ≠ .accSpl h n p) (s : State) (k : TileId) :
    s.completeOp k o = (s.opWork k o o.job.extent).1.endOp k o (s.opWork k o o.job.extent).2.2 := by
  rw [State.completeOp]
  split
  next hj => exact absurd (hj ▸ hu) (by simp [Job.unit])
  next hj => exact absurd (hj ▸ hu) (by simp [Job.unit])
  next hj => exact absurd hj (hs _ _ _)
  next hj => exact absurd hj (ha _ _ _ _)
  next hj => exact absurd (hj ▸ hu) (by simp [Job.unit])
  next => rfl

section
variable {s : State} {k : TileId} {id : Nat} {o : EngOp} (ho : (s.tile k).c.op? id = some o) (hstart : o.started.isSome = true)
include ho hstart

theorem engineOpComplete_waits (hx : (s.captureOp k id (o.writesNow (s.tile k).c)).2 = false) :
    Happens .engineOpComplete (.op k id) s fun u => s.DueIn u 1 .engineOpComplete (.op k id) ∧ SameMemory s u := by
  obtain ⟨-, hm, hn⟩ := s.captureOp_keeps k id (o.writesNow (s.tile k).c)
  refine Becomes.happens (t := (s.captureOp k id (o.writesNow (s.tile k).c)).1.after 1 .engineOpComplete (.op k id)) (fun hi => ?_)
    ⟨State.after_dueIn hn .., hm.trans (.of_eq rfl rfl)⟩
  rw [exec_engineOpComplete, execEngineOpComplete, hi]
  simp [ho, Option.isNone_eq_false_iff.2 hstart, hx]

theorem engineOpComplete_completes (hx : (s.captureOp k id (o.writesNow (s.tile k).c)).2 = true) (hp : s.stopsAt k o = none) :
    Becomes .engineOpComplete (.op k id) s ((s.captureOp k id (o.writesNow (s.tile k).c)).1.completeOp k o) := by
  intro hi
  rw [exec_engineOpComplete, execEngineOpComplete, hi]
  simp [ho, Option.isNone_eq_false_iff.2 hstart, hx, hp]

/-- A VEC is over: its elements are in the pool. -/
theorem engineOpComplete_vec {f : Nat} {ts td : ETy} {rm : Nat} {sc sat : Bool} {a b d e : Nat} {cv : Word} {n : Nat}
    (hj : o.job = .vec f ts td rm sc sat a b d e cv n) (hx : (s.captureOp k id (o.writesNow (s.tile k).c)).2 = true)
    (hp : s.stopsAt k o = none) :
    Happens .engineOpComplete (.op k id) s fun u =>
      (u.tile k).c.pool = (vecLoop f ts td rm sc sat a b d e cv o.pix (n - o.pix) (Eng.of (s.tile k).c.pool)).pool
      ∧ ∀ x ∈ (u.tile k).c.ops, x.id ≠ id := by
  obtain ⟨hkeep, -, -⟩ := s.captureOp_keeps k id (o.writesNow (s.tile k).c)
  refine (engineOpComplete_completes ho hstart hx hp).happens ?_
  rw [State.completeOp_works (by simp [hj, Job.unit]) (by simp [hj]) (by simp [hj])]
  obtain ⟨hpool, hops⟩ := State.endOp_leaves ((s.captureOp k id (o.writesNow (s.tile k).c)).1.opWork k o o.job.extent).1 k o
    ((s.captureOp k id (o.writesNow (s.tile k).c)).1.opWork k o o.job.extent).2.2
  refine ⟨hpool.trans ?_, TileCtx.op?_id ho ▸ hops⟩
  simp only [hj, State.opWork, State.vectorWork, Job.extent, State.engDone, State.tile_setCtx_self, hkeep.pool]
end

/-! ### Copies (15 R315) -/
section
variable {s : State} {k : TileId} {id : Nat} {o : EngOp} (ho : (s.tile k).c.op? id = some o)
  {f tk path : Nat} {a b : Layout} {z : Bool} (hj : o.job = .copy f tk path a b z)
include ho hj

theorem copyComplete_far (hl : isLocalCopy k a b = false) : Becomes .copyComplete (.op k id) s (s.finishCopy k o) := by
  intro hi
  rw [exec_copyComplete, execCopyComplete, hi]
  simp [ho, hj, hl]

variable (hl : isLocalCopy k a b = true)
include hl

theorem copyComplete_waits (hx : (s.captureOp k id (writeLines o.ranges)).2 = false) :
    Happens .copyComplete (.op k id) s fun u => s.DueIn u 1 .copyComplete (.op k id) ∧ SameMemory s u := by
  obtain ⟨-, hm, hn⟩ := s.captureOp_keeps k id (writeLines o.ranges)
  refine Becomes.happens (t := (s.captureOp k id (writeLines o.ranges)).1.after 1 .copyComplete (.op k id)) (fun hi => ?_)
    ⟨State.after_dueIn hn .., hm.trans (.of_eq rfl rfl)⟩
  rw [exec_copyComplete, execCopyComplete, hi]
  simp [ho, hj, hl, hx]
theorem copyComplete_stops (hx : (s.captureOp k id (writeLines o.ranges)).2 = true) {hi : Nat} (hp : s.stopsAt k o = some hi) :
    Becomes .copyComplete (.op k id) s ((s.captureOp k id (writeLines o.ranges)).1.pauseOp k o hi) := by
  intro hin
  rw [exec_copyComplete, execCopyComplete, hin]
  simp [ho, hj, hl, hx, hp]
theorem copyComplete_finishes (hx : (s.captureOp k id (writeLines o.ranges)).2 = true) (hp : s.stopsAt k o = none) :
    Becomes .copyComplete (.op k id) s (((s.captureOp k id (writeLines o.ranges)).1.localCopy k o b.count).finishCopy k o) := by
  intro hi
  rw [exec_copyComplete, execCopyComplete, hi]
  simp [ho, hj, hl, hx, hp]
end

/-- The operation with a fault, unless it has one already, and with the blocks `run` sent. -/
def EngOp.faultOnce (o : EngOp) (f : CopyFault) (run : Nat) : EngOp := { o with fault := o.fault.orElse (fun _ => some f), run := run }

theorem State.spanFault_op? {s : State} {k : TileId} {o : EngOp} (ho : (s.tile k).c.op? o.id = some o) (detail : Nat) :
    ((s.spanFault k o detail).tile k).c.op? o.id
      = some (o.faultOnce { elem := o.pix, detail := detail, side := 2, time := s.now } (o.spanRun ||| (2 ^ o.spanBlocks - 1))) := by
  have hc : ((s.spanFault k o detail).tile k).c = (s.tile k).c.setOp o.id fun x =>
      x.faultOnce { elem := o.pix, detail := detail, side := 2, time := s.now } (o.spanRun ||| (2 ^ o.spanBlocks - 1)) := by
    unfold State.spanFault
    dsimp only
    split
    · rw [State.tile, State.after_tiles, ← State.tile, State.tile_setCtx_self]
      rfl
    · rw [State.tile_setCtx_self]
      rfl
  rw [hc, TileCtx.op?_setOp ho ?_]
  exact fun _ h => h

/-- A copy to a peer that is not over, with no fault yet, faults when its time is over (15 R318). -/
theorem spanCopyTimeout_faults {s : State} {k : TileId} {id : Nat} {o : EngOp} (ho : (s.tile k).c.op? id = some o)
    (hn : ¬ (o.spanOver o.spanRun = true ∨ o.spanRun % 2 ^ o.spanBlocks + 1 = 2 ^ o.spanBlocks)) (hf : o.fault = none) :
    Happens .spanCopyTimeout (.op k id) s fun u =>
      ∃ o' f, (u.tile k).c.op? id = some o' ∧ o'.fault = some f ∧ f.detail = 4 ∧ f.elem = o.pix := by
  have he : Becomes .spanCopyTimeout (.op k id) s (s.spanFault k o 4) := by
    intro hi
    rw [exec_spanCopyTimeout, execSpanCopyTimeout, hi]
    simp only [ho, if_neg hn]
  have hid := TileCtx.op?_id ho
  exact he.happens ⟨_, _, hid ▸ State.spanFault_op? (hid.symm ▸ ho) 4, by rw [EngOp.faultOnce, hf]; rfl, rfl, rfl⟩
theorem spanCopyTimeout_over {s : State} {k : TileId} {id : Nat} {o : EngOp} (ho : (s.tile k).c.op? id = some o)
    (hn : o.spanOver o.spanRun = true ∨ o.spanRun % 2 ^ o.spanBlocks + 1 = 2 ^ o.spanBlocks) :
    Becomes .spanCopyTimeout (.op k id) s s := by
  intro hi
  rw [exec_spanCopyTimeout, execSpanCopyTimeout, hi]
  simp only [ho, if_pos hn]

/-- Bytes of a copy are written where they arrive (15 R320). -/
theorem copyDataArrival_writes (s : State) (t : TileId) (off : Nat) (bs : List Byte) :
    Happens .copyDataArrival (.bytes t off bs) s fun u =>
      (u.tile t).c.pool.bytes off bs.length = bs ∧ SameMemoryBut t off bs.length s u := by
  intro hi
  rw [Completes, exec_copyDataArrival, execCopyDataArrival, hi]
  refine ⟨_, rfl, ?_, ?_⟩
  · rw [State.poolWrite_pool, Memory.bytes_setBytes]
  · exact (State.log_sameMemory ..).trans_but (State.poolWrite_sameMemoryBut ..)

/-! ### Range requests (07 R164) -/
section
variable {s : State} {k t : TileId} {id : Nat} {launch : BitVec 32} {rs : List Range}

theorem rangeLockRequest_registers (h : (s.tile t).c.lockRoom rs = true) :
    Happens .rangeLockRequest (.range t k id launch rs) s fun u =>
      (u.tile t).c.locks = (s.tile t).c.locks ++ (usedRanges rs).map (fun r =>
        { tile := k, op := id, launch := launch, range := r, since := (s.tile t).r.cyc })
      ∧ (s.leavesShadow t k = false → u.Leaving t .rangeLockRequest (.grant k t id true)) := by
  intro hi
  rw [Completes, exec_rangeLockRequest, execRangeLockRequest, hi]
  simp only [h, Bool.true_or, if_true]
  obtain ⟨l, hl⟩ := s.note_router t .rangeLockRequest (.range t k id launch rs)
  have hc : ((s.note t .rangeLockRequest (.range t k id launch rs)).tile t).c = (s.tile t).c := State.tile_logRec_c ..
  refine ⟨_, rfl, ?_, fun hs => State.packet_leaving ?_ ..⟩
  · rw [State.packet_tile_c, State.tile_setCtx_self, hc, hl]
    rfl
  · refine (State.SameContexts.leavesShadow (s := s) ?_ t k).trans hs
    exact (State.Adds.trans (s.logRec_adds ..) (State.setCtx_adds ..)).ctx

theorem rangeLockRequest_refuses (h : (s.tile t).c.lockRoom rs = false) (hq : (s.tile t).r.quiet = false) :
    Happens .rangeLockRequest (.range t k id launch rs) s fun u => u.Pending .rangeLockRequest (.grant k t id false) := by
  intro hi
  rw [Completes, exec_rangeLockRequest, execRangeLockRequest, hi]
  simp only [h, hq, Bool.or_self, Bool.false_eq_true, if_false]
  exact ⟨_, rfl, State.relay_pending hq ..⟩

theorem rangeLockRequest_retries (s : State) (k t : TileId) (id : Nat) :
    Happens .rangeLockRequest (.grant k t id false) s fun u => s.DueIn u 64 .rangeLockRepresent (.grant k t id false) := by
  intro hi
  rw [Completes, exec_rangeLockRequest, execRangeLockRequest, hi]
  exact ⟨_, rfl, State.after_dueIn (State.log_now ..) ..⟩

theorem rangeLockRepresent_asks {o : EngOp} (ho : (s.tile k).c.op? id = some o) (h : s.leavesShadow k t = false) (ok : Bool) :
    Happens .rangeLockRepresent (.grant k t id ok) s fun u =>
      u.Leaving k .rangeLockRequest
        (.range t k id o.launch ((o.far.filter (fun f => f.tile == t && !f.granted)).map FarRange.range)) := by
  intro hi
  rw [Completes, exec_rangeLockRepresent, execRangeLockRepresent, hi]
  simp only [ho]
  exact ⟨_, rfl, State.packet_leaving h ..⟩
end

/-- Settles O41: event by event, by what the tile finds under the operation's number. -/
theorem engineEvents : Obligations.EngineEvents := by
  intro s k t id launch rs
  refine ⟨fun o ho => ⟨engineOpStart_timed ho, engineOpStart_waits ho, fun hs => ?ends, fun f tk path a b z hj => ?copies,
      ⟨spanCopyTimeout_over ho, fun hn hf => spanCopyTimeout_faults ho hn hf⟩, rangeLockRepresent_asks ho⟩,
    rangeLockRequest_registers, rangeLockRequest_refuses, rangeLockRequest_retries s k t id, copyDataArrival_writes s t⟩
  case ends =>
    refine ⟨engineOpComplete_waits ho hs, fun hx hp hu ha hl => ?_, fun f ts td rm sc sat a b d e cv n hj => engineOpComplete_vec ho hs hj⟩
    rw [← State.completeOp_works hu ha hl]
    exact engineOpComplete_completes ho hs hx hp
  case copies =>
    exact ⟨copyComplete_far ho hj, fun hi hl hx hp => copyComplete_stops ho hj hl hx hp,
      fun hl hx hp => copyComplete_finishes ho hj hl hx hp, fun hl hx => copyComplete_waits ho hj hl hx⟩

end Sys2Proof.Machine
end
